-- ==== Sys2Proof/Word.lean ====
section
/-!
DEFINITION. The plainest data of the model: bytes and words, the sparse table every numbered family of state is
held in, and the run-length byte string in which an object of the host's memory is handed over.
-/
namespace Sys2Proof

/-- One byte. -/
abbrev Byte := BitVec 8
/-- One 32-bit register or FP32 pattern (00, R7). -/
abbrev Word := BitVec 32
/-- A 48-bit position of a line (02, R32) or a 48-bit address (12, R310). -/
abbrev Pos := BitVec 48

/-- A numbered family of things (registers, pages, memory bytes), held sparsely: an index that is not listed has the
family's reset value, which is the `default` of its type.  Canonical form: `Tbl.wf`. -/
abbrev Tbl (α : Type) := List (Nat × α)

/-- The value at index `k`. -/
def Tbl.get {α : Type} [Inhabited α] : Tbl α → Nat → α
  | [], _ => default
  | (j, v) :: r, k => if j = k then v else Tbl.get r k

/-- Insert `(k, v)` before the first greater index. -/
def Tbl.ins {α : Type} : Tbl α → Nat → α → Tbl α
  | [], k, v => [(k, v)]
  | (j, w) :: r, k, v => if k < j then (k, v) :: (j, w) :: r else (j, w) :: Tbl.ins r k v

/-- Drop every entry of index `k`. -/
def Tbl.del {α : Type} : Tbl α → Nat → Tbl α
  | [], _ => []
  | (j, w) :: r, k => if j = k then Tbl.del r k else (j, w) :: Tbl.del r k

/-- The table with `v` at index `k`; writing the value an unlisted index has removes the entry. -/
def Tbl.set {α : Type} [Inhabited α] [DecidableEq α] (t : Tbl α) (k : Nat) (v : α) : Tbl α :=
  if v = default then t.del k else (t.del k).ins k v

/-- The table with the value at `k` changed by `f`. -/
def Tbl.upd {α : Type} [Inhabited α] [DecidableEq α] (t : Tbl α) (k : Nat) (f : α → α) : Tbl α :=
  t.set k (f (t.get k))

/-- Every listed index is above `lo`, the indices rise strictly, and no entry is the unlisted value. -/
def Tbl.wfFrom {α : Type} [Inhabited α] [DecidableEq α] : Nat → Tbl α → Bool
  | _, [] => true
  | lo, (j, v) :: r => decide (lo ≤ j) && decide (v ≠ default) && Tbl.wfFrom (j + 1) r

/-- The canonical form: equal contents are equal data. -/
def Tbl.wf {α : Type} [Inhabited α] [DecidableEq α] (t : Tbl α) : Bool := Tbl.wfFrom 0 t

/-- Bytes as runs of equal bytes: an object of the host's memory as the module reads it. -/
structure Blob where
  /-- runs `(how many, which byte)` in ascending address order -/
  runs : List (Nat × Byte) := []
  deriving DecidableEq, Repr, Inhabited

/-- Length of a run list in bytes. -/
def runsLen : List (Nat × Byte) → Nat
  | [] => 0
  | (n, _) :: r => n + runsLen r

/-- Byte `i` of a run list; 0 beyond its end. -/
def runsGet : List (Nat × Byte) → Nat → Byte
  | [], _ => 0
  | (n, b) :: r, i => if i < n then b else runsGet r (i - n)

/-- The bytes of a run list, written out. -/
def runsBytes : List (Nat × Byte) → List Byte
  | [] => []
  | (n, b) :: r => List.replicate n b ++ runsBytes r

def Blob.len (b : Blob) : Nat := runsLen b.runs
def Blob.at (b : Blob) (i : Nat) : Byte := runsGet b.runs i
def Blob.bytes (b : Blob) : List Byte := runsBytes b.runs

/-- The `n` bytes from `off`, as one number, least significant byte first (00, R3). -/
def leAt (byteAt : Nat → Byte) (off : Nat) : Nat → Nat
  | 0 => 0
  | n + 1 => (byteAt off).toNat + 256 * leAt byteAt (off + 1) n

def Blob.le (b : Blob) (off n : Nat) : Nat := leAt b.at off n

/-- `n` bytes of `v`, least significant first (00, R3). -/
def leBytes : Nat → Nat → List Byte
  | 0, _ => []
  | n + 1, v => BitVec.ofNat 8 v :: leBytes n (v / 256)

/-- Does bit `j` of `v` stand? -/
def bit (v j : Nat) : Bool := v.testBit j

/-- Field `hi..lo` of a number. -/
def fieldOf (v hi lo : Nat) : Nat := (v >>> lo) % 2 ^ (hi + 1 - lo)

/-- A Bool as a bit. -/
def b2n (b : Bool) : Nat := if b then 1 else 0

end Sys2Proof
end

