-- ==== Sys2Proof/Syntax.lean ====
section
/-!
DEFINITION. The commands the block takes: one constructor of `Instr` for each row of spec/opcode_table.json, with the
row's operands.  A row that the host sends as a 64-byte command (15, R411) carries that command as fetched; a row that
is a register access, an event of the plant, of a peer or of one of the block's own engines carries what the world
outside the block decides (a measured value, a verdict of a compare unit or of the root of trust, bytes of host memory).
-/
namespace Sys2Proof

/-- A PCIe function: 0 is PF0, k is VFk; VFk serves context k - 1 (15, R400). -/
abbrev Fn := Fin 17
/-- A context number (14, R378). -/
abbrev CtxId := Fin 16
/-- A core of the array, `8 y + x` (01, 'Engine, core and chip'). -/
abbrev CoreId := Fin 64

/-- A 64-byte command as the module fetched it (15, R411). -/
structure Cmd where
  /-- the function whose ring, or MCTP path (PF0), carried it -/
  fn : Fn
  /-- ring pair 0-7; 8 is the MCTP path (15, R431) -/
  ring : Fin 9
  /-- bytes 0-63 -/
  bytes : List Byte
  deriving DecidableEq, Repr, Inhabited

/-- Who makes a register access (02, R54; 17, R459). -/
inductive Requester where
  | function (f : Fn)
  | controlA
  | controlB
  | rtp
  deriving DecidableEq, Repr, Inhabited

/-- How the PCIe transfers a step makes end (15, R410). -/
inductive Pcie where
  | good | fetchError | writeError
  deriving DecidableEq, Repr, Inhabited

/-- One of the two control cores (17, R459). -/
inductive CoreAB where
  | a | b
  deriving DecidableEq, Repr, Inhabited

/-- What a filtered encoder input did (02, R30, R31). -/
inductive Enc where
  /-- a valid transition in the phase order's positive direction -/
  | up
  /-- a valid transition in the negative direction -/
  | down
  /-- A and B changed within one sampling period -/
  | both
  deriving DecidableEq, Repr, Inhabited

/-- An instruction of an S-engine segment, as SCHED_LOAD checks it (05, R111). -/
inductive SInstr where
  | opBegin (op : Nat)
  | issue (queue : Fin 4) (desc : Nat) (mask : List (Fin 32))
  | creditWait (reg : Fin 32) (count : Nat)
  | creditSend (core : CoreId) (reg : Fin 32) (count : Nat)
  | checkSlot (cycles : Nat)
  | modeFence (press : Bool)
  | stepFence
  | loop (count target : Nat)
  | waitDma (channel : Fin 4) (count : Nat)
  | opEnd (op : Nat)
  deriving DecidableEq, Repr, Inhabited

/-- A hand-off buffer of the CREDITS section (05, R123). -/
structure HandOff where
  producer : CoreId := 0
  consumer : CoreId := 0
  buffer : Nat := 0
  depth : Nat := 1
  entrySize : Nat := 64
  freeReg : Fin 32 := 0
  fullReg : Fin 32 := 0
  deriving DecidableEq, Repr, Inhabited

/-- A directory entry of a schedule image (05, R107). -/
structure DirEntry where
  kind : Nat := 0
  offset : Nat := 0
  length : Nat := 0
  arg : Nat := 0
  deriving DecidableEq, Repr, Inhabited

/-- A run of slots of one owner in a FRAME section (05, R113). -/
structure SlotRun where
  owner : Byte := 0xFF
  count : Nat := 0
  deriving DecidableEq, Repr, Inhabited

/-- The opcode of an S-engine instruction, byte 0 of its 8 bytes (05, R111). -/
def SInstr.opcode : SInstr → Nat
  | .opBegin _ => 0x01
  | .issue _ _ _ => 0x02
  | .creditWait _ _ => 0x03
  | .creditSend _ _ _ => 0x04
  | .checkSlot _ => 0x05
  | .modeFence _ => 0x06
  | .stepFence => 0x07
  | .loop _ _ => 0x08
  | .waitDma _ _ => 0x09
  | .opEnd _ => 0x0A

/-- A schedule image as SCHED_LOAD reads it from host memory (05, R106-R115): its bytes, and its sections as read from them
(`Image.wf` says how, wherever the spec gives the layout; the layouts of S-engine operands and of the CREDITS section are not
in the spec). -/
structure Image where
  /-- every byte of the image -/
  raw : Blob := {}
  /-- the 64 header bytes (R106) -/
  header : List Byte := []
  /-- the directory at byte 64 (R107) -/
  dir : List DirEntry := []
  /-- OPLIST entries, 32 bytes each (R109) -/
  ops : List (List Byte) := []
  /-- BUFMAP entries, 32 bytes each (R112, R199) -/
  bufs : List (List Byte) := []
  /-- SEGMENT sections: core and instructions (R111) -/
  segs : List (Nat × List SInstr) := []
  /-- descriptors: operation index and bytes (R147, R172, R197, R270) -/
  descs : List (Nat × List Byte) := []
  /-- parameters of CONV and pooling operations: operation index and what R137, R144 bound -/
  conv : List (Nat × List Nat) := []
  /-- DMA_PROG sections: channel and 32-byte instructions (12, R333-R337) -/
  progs : List (Nat × List (List Byte)) := []
  /-- FRAME sections: resource and slot owners (R113) -/
  frames : List (Nat × List SlotRun) := []
  /-- CREDITS section (R123) -/
  credits : List HandOff := []
  /-- patch points' rank, 0 if the image takes no patch (10, 'Patches') -/
  patchRank : Nat := 0
  /-- the DIGEST section (R108) -/
  digest : List Byte := []
  deriving DecidableEq, Repr, Inhabited

/-- Where a descriptor's operands lie: a local store, the Basket, or the context's memory (05, R112). -/
inductive Place where
  | store (core : CoreId) (off : Nat)
  | basket (off : Nat)
  | ctxVa (va : Nat)
  deriving DecidableEq, Repr, Inhabited

/-- A matrix operand in memory: `rows` rows of `k` elements of format `fmt` (05, R110), MX scales beside them. -/
structure MatRef where
  place : Place := .basket 0
  pitch : Nat := 0
  fmt : Nat := 0
  rows : Nat := 0
  scales : Place := .basket 0
  scalePitch : Nat := 0
  deriving DecidableEq, Repr, Inhabited

/-- A vector of values in memory (bias, residual, V-engine operands). -/
structure VecRef where
  place : Place := .basket 0
  fmt : Nat := 0
  len : Nat := 0
  deriving DecidableEq, Repr, Inhabited

/-- The tile a piece of work is, for the Darner (13, R348): check unit group, index within the operation, and how many
more eligible tiles this check unit has in the step after this one. -/
structure TileRef where
  op : Nat := 0
  group : Fin 4 := 0
  index : Nat := 0
  remaining : Nat := 0
  /-- the darn area's half of this step's parity has no room for another record (R352) -/
  full : Bool := false
  deriving DecidableEq, Repr, Inhabited

/-- Special functions of the V engines (03, R77). -/
inductive Sfu where
  | recip | sqrt | rsqrt | exp2 | log2 | exp | ln | tanh | sigmoid | erf | sin | cos
  deriving DecidableEq, Repr, Inhabited

/-- Reductions of the canonical tree (03, R76). -/
inductive Red where
  | sum | max | min | sumsq
  deriving DecidableEq, Repr, Inhabited

/-- What a V-engine instruction computes (03, R75-R79; 06, R140, R145, R146; 07, R178).  Output format and rounding of a
conversion are those of the operation's entry (05, R109); `nonsat` is the overflow mode it names (03, R78). -/
inductive VOp where
  | add | mul | fma | minimum | maximum | addRtz | mulRtz | fmaRtz
  | int32Add | int32Mul
  | sfu (f : Sfu)
  | reduce (r : Red)
  | convert (fmt : Nat) (nonsat : Bool)
  | quantise (fmt : Nat)
  | depthwise (kh kw : Nat) (taps : List (Option Nat)) (nonsat : Bool)
  | maxPool (window : List Nat)
  | avgPool (window : List Nat) (full : Nat) (countPad nonsat : Bool)
  /-- rotary post-operation on output row `row` of its operation -/
  | rotary (row width : Nat) (half : Bool)
  deriving DecidableEq, Repr, Inhabited

/-- The work of one engine descriptor (05, R111; 04, R80-R95): what the spec's tables of the image do not hold.  Formats,
anchor, scale and rounding are read from the operation's entry, descriptors and buffers from the image (05, R109, R112). -/
inductive Work where
  /-- M engine: load the weight tile `b`, one row for each output column, into the shadow tile (04, R83) -/
  | load (op : Nat) (b : MatRef) (k : Nat)
  /-- M engine: stream the activation rows `a` against the active tile into accumulator bank `bank`; `fresh` starts an
  output tile, `switch` tags the first row for the shadow tile (04, R83); in Press only the west column reads `a` (R91) -/
  | stream (op : Nat) (bank : Fin 2) (fresh switch : Bool) (a : MatRef) (k : Nat)
  /-- output conversion of a bank (03, R69): bias, residual, place of the results -/
  | drain (op : Nat) (bank : Fin 2) (rows cols : Nat) (bias residual : Option VecRef) (out : Place) (pitch : Nat)
  /-- V engine on vectors -/
  | vec (op : Nat) (v : VOp) (a b c : VecRef) (bf16 : Bool) (out : Place)
  /-- one attention unit (07, R175, R176): table entry, KV head, segments `segLo..segHi`, whether it combines and where it
  writes -/
  | attn (op : Nat) (entry head segLo segHi : Nat) (final : Bool) (query : MatRef) (out : Place)
  /-- pairs of query block and segment skipped (07, R177) -/
  | attnSkip (op blocks : Nat)
  /-- patch point (10, R264): rows `row0..` of the operation's activations, columns `col0..` of its outputs -/
  | patch (op : Nat) (bank : Fin 2) (row0 col0 cols : Nat) (x : MatRef) (k : Nat)
  /-- step preparation (08, R197) -/
  | kvPrep (op : Nat)
  /-- append of rows of FP32 results to KV pages (08, R199) -/
  | append (op : Nat) (src : MatRef)
  /-- a DPP operation sent to the X queue (06, R147) -/
  | dpp (op : Nat)
  /-- a TSU operation sent to the X queue (10, R270) -/
  | tsu (op : Nat)
  /-- start the channel program of a core channel -/
  | dma (channel : Fin 4)
  deriving DecidableEq, Repr, Inhabited

/-- Two ports on one bank in one cycle (04, R89): the lower-numbered port, which is served; the other, whether that writes;
and the local-store offsets of the two lines. -/
structure Collide where
  lo : Fin 7 := 0
  hi : Fin 7 := 0
  write : Bool := false
  loOff : Nat := 0
  hiOff : Nat := 0
  deriving DecidableEq, Repr, Inhabited

/-- Errors in a codeword that a read meets (12, R318). -/
inductive EccHit where
  | clean | single | double | uncorrectable | miscorrected
  deriving DecidableEq, Repr, Inhabited

/-- A word whose codeword an access reads: memory kind (0 HBM, 1 local stores, 2 Basket, 3 handover store), device address, and
what it meets. -/
structure EccRead where
  kind : Fin 4
  addr : Nat
  hit : EccHit
  deriving DecidableEq, Repr, Inhabited

/-- What a MOVE meets outside its channel: the bytes that host memory holds where it reads, its accesses that meet
another port on a bank, and the words it reads with errors (04, R89; 12, R318, R334). -/
structure MoveMeets where
  host : Blob := {}
  lost : List Collide := []
  ecc : List EccRead := []
  deriving DecidableEq, Repr, Inhabited

/-- An engine descriptor: the work, the registers of its credit mask, its Darner tiles, the accesses of its cycles that two
ports make to one bank, the words it reads with errors, and its offset in the core's descriptors (04, R81, R87, R89; 05, R111;
12, R318). -/
structure Desc where
  work : Work := .dma 0
  credits : List (Fin 32) := []
  tiles : List TileRef := []
  collide : List Collide := []
  ecc : List EccRead := []
  /-- the residue or duplicate-conversion compare fails in this work (13, R350) -/
  residueBad : Bool := false
  off : Nat := 0
  deriving DecidableEq, Repr, Inhabited

/-- What the referee core finds for one mismatched tile (13, R356). -/
inductive Referee where
  | original | buddy | neither
  deriving DecidableEq, Repr, Inhabited

/-- Error classes a DMA access can fail with (12, R341). -/
inductive AccessErr where
  | bus | poison
  deriving DecidableEq, Repr, Inhabited

/-- Start-up stages with a completion (01, R23). -/
inductive Stage where
  | ito | rtpBoot | coreA | reload | crystal | plls | hbmTrain
  deriving DecidableEq, Repr, Inhabited

/-- What a start-up stage brings with it from flash, fuses and the RTP (01, R23; 17, R475, R485; 14, R376, R396). -/
structure StageResult where
  /-- the stage succeeds -/
  good : Bool := true
  /-- RTP_BOOT: module ID, security version -/
  moduleId : BitVec 128 := 0
  svn : Word := 0
  /-- CORE_A: core A fails its self-test -/
  coreAFails : Bool := false
  /-- version of the firmware the stage starts: the RTP's at RTP_BOOT, the control core's at CORE_A -/
  fwVersion : Word := 0
  /-- SHA-384 of that firmware; RELOAD: of the codec's, the S engines', the link controllers' and the Peg unit's (14, R375,
  R392) -/
  digest : BitVec 384 := 0
  subDigests : List (BitVec 384) := []
  settingsFmt : Byte := 0
  /-- CORE_A: handover store formats of the image started: written, oldest read (17, R477) -/
  storeFmt : Byte := 0
  oldestStoreFmt : Byte := 0
  migrated : Bool := false
  defaulted : Bool := false
  /-- HBM_TRAIN: stacks trained, one bit each -/
  stackMask : Byte := 0xFF
  deriving DecidableEq, Repr, Inhabited

/-- The samples of a picture as its standard decodes them (11, R284, R297): one byte a sample at 8 bits, two at 10, rows
without padding; chroma interleaved with half the rows. -/
structure Planes where
  width : Nat := 0
  height : Nat := 0
  /-- 10 bits a sample; luma only -/
  ten : Bool := false
  mono : Bool := false
  luma : Blob := {}
  chroma : Blob := {}
  deriving DecidableEq, Repr, Inhabited

/-- A reference mark of a frame buffer (11, R285). -/
inductive RefMark where
  | short | long | slot | recon
  deriving DecidableEq, Repr, Inhabited

/-- A coding unit of a coded picture: its place, its side and its motion vector in quarter pixels (11, R305). -/
structure Cu where
  x : Nat := 0
  y : Nat := 0
  size : Nat := 0
  mvX : Int := 0
  mvY : Int := 0
  deriving DecidableEq, Repr, Inhabited

/-- A CTU as coded: its place, QP, whether the skip clamp holds it, and its units (11, R302, R303). -/
structure CtuCode where
  col : Nat := 0
  row : Nat := 0
  qp : Nat := 0
  skip : Bool := false
  cus : List Cu := []
  deriving DecidableEq, Repr, Inhabited

/-- What an encoded picture depends on (11, R305): settings, samples of the source and of the previous picture's
reconstruction, the global motion vector, and whether it is an I picture. -/
structure EncIn where
  width : Nat := 0
  height : Nat := 0
  ctu : Nat := 32
  /-- the settings as VID_OPEN's numbers -/
  settings : List Nat := []
  number : Nat := 0
  intra : Bool := false
  gmvX : Int := 0
  gmvY : Int := 0
  luma : List Nat := []
  chroma : List Nat := []
  refLuma : List Nat := []
  refChroma : List Nat := []
  deriving DecidableEq, Repr, Inhabited

/-- What a pipe reports of one decoded picture (11, R294-R298): how the standards decode a stream is theirs to say. -/
structure PicResult where
  /-- the number by which `outputs` and `marks` name the picture's own buffer -/
  buffer : Nat := 0
  planes : Planes := {}
  /-- largest picture the sequence header declares; the stream needs a profile, level or tool outside R276 -/
  seqWidth : Nat := 0
  seqHeight : Nat := 0
  beyond : Bool := false
  /-- spatial layer (R297) -/
  layer : Nat := 0
  /-- pictures put out by this one: buffers in output order -/
  outputs : List Nat := []
  /-- the picture waits for output, or is put out: pic_output_flag, show_frame -/
  shown : Bool := true
  /-- buffers whose reference mark stands afterwards, with the mark -/
  marks : List (Nat × RefMark) := []
  /-- buffers it predicts from -/
  refs : List Nat := []
  /-- side of a CTU or superblock; runs (first unit, units) in raster order that a syntax error took (R297) -/
  unit : Nat := 64
  bad : List (Nat × Nat) := []
  /-- its decoded-picture-hash SEI does not match; it carries film grain parameters (R278) -/
  hashBad : Bool := false
  grain : Bool := false
  /-- an uncorrectable word of a reference or of the bitstream was read (R298) -/
  poisonIn : Bool := false
  missingRefs : Nat := 0
  order : Int := 0
  irap : Bool := false
  width : Nat := 0
  height : Nat := 0
  cropX : Nat := 0
  cropY : Nat := 0
  lastOfAu : Bool := true
  decoded : Bool := true
  deriving DecidableEq, Repr, Inhabited

/-- A pipe that takes a picture, and the luma samples and bins of what a decode pipe takes (11, R277, R291, R299). -/
structure PictureTaken where
  pipe : Fin 3 := 0
  samples : Nat := 0
  bins : Nat := 0
  deriving DecidableEq, Repr, Inhabited

/-- A frame of a Dyter port as received: its header (16, R447) and what its payload holds. -/
structure Frame where
  port : Fin 4 := 0
  /-- source index as received (R440) -/
  src : Nat := 0xFFFF
  /-- the peer's module ID its session or HELLO names -/
  peer : BitVec 128 := 0
  vc : Fin 4 := 0
  step : Nat := 0
  ctx : Fin 16 := 0
  replayGen : Byte := 0
  sessGen : Byte := 0
  seq : Word := 0
  payload : List Byte := []
  /-- the GCM tag of an ENCRYPTED session verifies -/
  tagOk : Bool := true
  deriving DecidableEq, Repr, Inhabited

/-- What a HELLO tells (16, R444). -/
structure Hello where
  major : Nat := 1
  minor : Nat := 2
  setId : BitVec 64 := 0
  setGen : Word := 0
  isOpen : Bool := false
  routeTag : Nat := 0
  /-- the two RTPs' exchange of R389 succeeds -/
  secured : Bool := true
  deriving DecidableEq, Repr, Inhabited

/-- An admission document (14, R385): what it names and whether both owner signatures hold. -/
structure AdmissionDoc where
  signed : Bool := true
  setId : BitVec 64 := 0
  gen : Word := 0
  ownerDigest : BitVec 384 := 0
  modules : List (BitVec 128) := []
  deriving DecidableEq, Repr, Inhabited

/-- A firmware bundle (17, R477): its bytes before the signatures, and whether both signatures hold (R478). -/
structure Bundle where
  raw : Blob := {}
  signaturesOk : Bool := true
  deriving DecidableEq, Repr, Inhabited

/-- Which of the store, the mirror and the ledger the successor finds usable (17, R472, R473). -/
structure RestoreInput where
  storeOk : Bool := true
  mirrorOk : Bool := true
  /-- requests whose hardware state disagrees with the mirror or that were accepted after it: context and ID -/
  lostRequests : List (Nat × Nat) := []
  ledgerOk : Bool := true
  deriving DecidableEq, Repr, Inhabited

/-- A message on the MCTP path that is not a vendor-defined command (15, R431), or one that is. -/
inductive Mctp where
  /-- MCTP control: Set Endpoint ID on the PCIe or the I3C binding -/
  | setEid (i3c : Bool) (eid : Byte)
  | dynamicAddress (addr : Byte)
  | control
  /-- an SPDM request code (14, R391) -/
  | spdm (code : Byte)
  /-- a vendor-defined message with a 64-byte command, and what the command names in host memory -/
  | command (bytes : List Byte) (doc : AdmissionDoc) (sponsorAnswers : Bool) (bundle : Bundle) (chain : List (BitVec 128))
  deriving DecidableEq, Repr, Inhabited

/-- Why the hot-swap switch opens (20, R533). -/
inductive OpenCause where
  | enSense | underVoltage | overVoltage | overCurrent | thermalTrip
  deriving DecidableEq, Repr, Inhabited

/-- A background activity with a maximum postponement (05, R128). -/
inductive WashAct where
  | rinseHbm | rinseSram | phyCal | snapshot
  deriving DecidableEq, Repr, Inhabited

/-- The poisoned word a step's poisoned result goes back to (13, R361, R362; 08, R209; 12, R322). -/
inductive PoisonOwner where
  | kvPage (page : Nat)
  | weightPage (va : Nat)
  | frame (frame : Nat)
  | retainOrPersist
  | sameWordAgain
  deriving DecidableEq, Repr, Inhabited

/-- What a step fence meets beyond the model's own data (13, R355, R356, R361; 06, R154). -/
structure FenceInput where
  /-- referee results for the mismatched tiles of the previous step, in the order they were latched -/
  referee : List Referee := []
  /-- results of the checks that did not fit the check slots and run in a check extension: equal? -/
  extension : List Bool := []
  poison : Option PoisonOwner := none
  deriving DecidableEq, Repr, Inhabited

/-- One command or event of the block.  A constructor's docstring would repeat the row's summary; the meaning's
docstring cites the rules. -/
inductive Instr where
  -- host commands (15, R415)
  | nop (c : Cmd)
  | negotiate (c : Cmd)
  | identify (c : Cmd)
  | undefinedOpcode (c : Cmd)
  | ctxOpen (c : Cmd)
  | ctxClose (c : Cmd)
  | ctxReset (c : Cmd)
  | ctxQuery (c : Cmd)
  | schedLoad (c : Cmd) (img : Image)
  | schedUnload (c : Cmd)
  | weightsLoad (c : Cmd) (pkg : Blob) (unwrapOk tagsOk : Bool)
  | weightsUnload (c : Cmd)
  | patchLoad (c : Cmd) (pkg : Blob)
  | patchRetire (c : Cmd)
  | grammarLoad (c : Cmd) (table : Blob)
  | grammarUnload (c : Cmd)
  | reqSubmit (c : Cmd)
  | reqCancel (c : Cmd)
  | reqQuery (c : Cmd)
  | accountSet (c : Cmd)
  | accountQuery (c : Cmd)
  | prefixPin (c : Cmd)
  | prefixRelease (c : Cmd)
  | jobRun (c : Cmd)
  | jobAbort (c : Cmd)
  | vidOpen (c : Cmd)
  | decodeAu (c : Cmd)
  | encode (c : Cmd)
  | release (c : Cmd) (hostList : List (BitVec 32))
  | acquire (c : Cmd)
  | eos (c : Cmd)
  | vidClose (c : Cmd)
  | vidReconfig (c : Cmd)
  | lineConfigLine (c : Cmd)
  | lineConfigTrigger (c : Cmd)
  | linePosition (c : Cmd)
  | pegArm (c : Cmd)
  | pegDisarm (c : Cmd)
  | attest (c : Cmd) (answers : Bool)
  | keyRotate (c : Cmd)
  | create (c : Cmd) (doc : AdmissionDoc)
  | join (c : Cmd) (doc : AdmissionDoc) (sponsorAnswers : Bool)
  | leave (c : Cmd)
  | rekey (c : Cmd) (doc : AdmissionDoc)
  | fwStage (c : Cmd) (bundle : Bundle) (chain : List (BitVec 128))
  | live (c : Cmd)
  | nextStart (c : Cmd)
  | fwStatus (c : Cmd)
  | quiesce (c : Cmd)
  | drain (c : Cmd)
  | resume (c : Cmd)
  | setCap (c : Cmd)
  | setRamp (c : Cmd)
  | heartbeat (c : Cmd)
  | doze (c : Cmd)
  | wake (c : Cmd)
  | setLimits (c : Cmd)
  | powerQuery (c : Cmd)
  | telemetrySnapshot (c : Cmd)
  | lifetimeRead (c : Cmd)
  | checkConfig (c : Cmd)
  | checkQuery (c : Cmd)
  | setMode (c : Cmd)
  | tableEntry (c : Cmd)
  | port (c : Cmd)
  | dropPeer (c : Cmd)
  | linkQuery (c : Cmd)
  -- register accesses of the host (15, R404-R410, R548; 16; 18; 19; 13)
  | sqTailWrite (fn : Fn) (ring : Fin 8) (value : Word) (pcie : Pcie)
  | cqHeadWrite (fn : Fn) (ring : Fin 8) (value : Word)
  | ringEnableWrite (fn : Fn) (ring : Fin 8) (value : Word) (pcie : Pcie)
  | ringReconfigure (fn : Fn) (ring : Fin 8) (reg : Fin 6) (value : Word)
  | tbHeadWrite (fn : Fn) (value : Word)
  | veqHeadWrite (fn : Fn) (value : Word)
  | dbMaskWrite (fn : Fn) (value : Word)
  | mbxPost (value : Word)
  | mbxRxPop (value : Word)
  | dmaChResume (by_ : Requester) (ch : Fin 272)
  | dmaChSkip (by_ : Requester) (ch : Fin 272)
  | dmaChAbort (by_ : Requester) (ch : Fin 272)
  | clkCtlSrcWrite (by_ : Requester) (value : Word)
  | muxSwitchDone (mux : Fin 7)
  | fmeasStart (value : Word)
  | fmeasDone (edges : Word)
  | telSnapTake (value : Word)
  | telHistClear (value : Word)
  | drnLastClear (value : Word)
  | registerWrite (by_ : Requester) (off : Nat) (wide : Bool) (value : BitVec 64)
  | rcRead (by_ : Requester) (off : Nat) (wide : Bool)
  | loReadLatch (by_ : Requester) (off : Nat)
  | unsupportedAccess (fn : Fn) (off width : Nat) (isRead : Bool)
  | configRequest (fn : Fn) (vfEnable : Option Bool)
  -- control cores (17)
  | interlockHeartbeat (core : CoreAB)
  | releaseFault (core : CoreAB)
  | releasePlanned (core : CoreAB)
  | take (core : CoreAB) (inp : RestoreInput)
  -- the plant (02)
  | encoderTransition (line : Fin 8) (kind : Enc) (tooFast : Bool)
  | indexPulse (line : Fin 8)
  | triggerEdge (trigger : Fin 4) (rising : Bool)
  | lineStopped (line : Fin 16)
  | velocityUpdate
  | missHoldExpiry
  -- steps and S engines (05)
  | stepBegin (ctx : CtxId)
  | opBegin (core : CoreId) (op : Nat) (temp : Int)
  | issue (core : CoreId) (queue : Fin 4) (desc : Desc)
  | creditWait (core : CoreId) (reg : Fin 32) (count : Nat)
  | creditWaitRelease (core : CoreId)
  | creditSend (core : CoreId) (dst : CoreId) (reg : Fin 32) (count : Nat)
  | checkSlot (core : CoreId) (cycles : Nat) (equal : List Bool)
  | modeFence (core : CoreId) (press : Bool)
  | modeFenceProceed (excessNs : Nat)
  | stepFence (core : CoreId)
  | loop (core : CoreId) (count target : Nat)
  | waitDma (core : CoreId) (channel : Fin 4) (count : Nat)
  | waitDmaRelease (core : CoreId)
  | opEnd (core : CoreId) (op : Nat) (urgent : Option CtxId)
  | engineInstructionStart (core : CoreId) (queue : Fin 4)
  | stepFenceComplete (ctx : CtxId) (inp : FenceInput)
  | stepWatchdogExpiry (ctx : CtxId)
  | forcedWashPause (act : WashAct)
  | washPauseEnd
  -- DPP and TSU (06, 10)
  | dppOperation (mismatch : Bool)
  | dppImageDone (cycles : Word)
  | tsuOperation (mismatch : Bool)
  | tsuPositionDone (lane : Fin 16) (entry index : Nat)
  -- memory and DMA (12)
  | move (ch : Fin 272) (ins : List Byte) (meets : MoveMeets)
  | mmuFaultResolve (ctx : CtxId) (ch : Option (Fin 272)) (core : Option CoreId)
  | moveComplete (ch : Fin 272)
  | dmaLoop (ch : Fin 272) (ins : List Byte)
  | wait (ch : Fin 272) (ins : List Byte)
  | waitSatisfied (ch : Fin 272)
  | signal (ch : Fin 272) (ins : List Byte)
  | accessError (ch : Fin 272) (err : AccessErr) (write : Bool) (space addr offset : Nat)
  | transactionTimeout (ch : Fin 272) (tag : Nat) (write : Bool) (space addr offset : Nat)
  | lateResponse (tag : Nat)
  | tagQuarantineEnd (tag : Nat)
  | chTimeout (ch : Fin 272)
  | rinseUnit (kind : Fin 4) (addr : Nat) (hits : List EccHit)
  | weightReloadDone (ctx : CtxId)
  | keyPassUnit (ctx : CtxId) (raced : Bool)
  -- serving (09)
  | accountRefill
  | nostepBoundary
  | tokenRingTimeout (ctx : CtxId)
  -- video (11)
  | pictureStart (pic : PictureTaken)
  | pictureDone (pipe : Fin 3) (res : PicResult)
  /-- the slice the pipe reports: its bits, LAST, its bytes (R306) -/
  | sliceDone (bits : Nat) (last : Bool) (data : List Byte)
  | pictureWatchdog (pipe : Fin 3) (res : PicResult)
  -- power, clocks, cabinet (18, 20)
  | powerControllerTick (inputDw : Nat) (thermalW : Nat)
  | pmbusTelemetry (vin iin pin temp : Word)
  | brakeAssert
  | brakeRelease
  | pwrWarnAssert
  | pwrWarnRelease
  | coolantFault (flow : Bool) (inlet : Int)
  | coolantFaultClear (flow : Bool) (inlet : Int)
  | dieSensorRead (temps : List Int)
  | dozeEntryTimeout
  | thermalRelease
  | heartbeatLoss
  | orphan
  | xtalLost
  | muxHung (mux : Fin 7)
  | crystalStable
  | enSenseMake
  | switchOpen (cause : OpenCause)
  | powerGood
  | stageComplete (stage : Stage) (res : StageResult)
  | stageTimeout
  | crystalTimeout
  -- resets and host path (15)
  | perstAssert
  | flrVf (ctx : CtxId)
  | flrPf0 (vfEnableCleared : Bool)
  | linkLoss
  | latchOpen
  | mctpMessage (m : Mctp)
  | doeRequest (fn : Fn) (secure : Bool)
  | ideIntegrityFail (fn : Fn)
  | tlpOutsideStream (fn : Fn)
  | commandTimeout (fn : Fn) (ring : Fin 9) (seq : Word)
  | rtpLate
  | drainLimit
  -- control cores' timers (17)
  | heartbeatTimeout
  | gapExpiry
  | selfTestCycle (fail : Fin 5)
  | takeBack
  | subHeartbeatMiss (sub : Fin 6)
  | soakStandbyDone
  | soakStandbyTimeout
  | soakActiveEnd
  | recoveryReset
  | relay (f : Frame) (last : Bool) (bundle : Bundle) (next : Option (BitVec 128))
  | relayReport (hop : Nat) (cause : Fin 6)
  | relayReportTimeout
  -- Dyter links (16)
  | cableInsertion (port : Fin 4)
  | cableRemoval (port : Fin 4)
  | cableInitDone (port : Fin 4) (active : Bool) (maxPower : Byte) (ready : Bool) (temp : Byte)
  | cableInitTimeout (port : Fin 4)
  | trainDone (port : Fin 4) (lanes : Byte) (peerV12 : Bool)
  | trainTimeout (port : Fin 4)
  | retryExpiry (port : Fin 4)
  | laneLoss (port : Fin 4)
  | cablePoll (port : Fin 4) (alarm : Bool) (temp : Byte)
  | keepaliveSend (entry : Fin 256)
  | missedWindow (entry : Fin 256)
  | hello (f : Frame) (h : Hello)
  | data (f : Frame)
  | confirm (f : Frame)
  | revoke (f : Frame)
  | mbx (f : Frame) (macOk : Bool)
  | mbxNak (f : Frame)
  | credit (f : Frame) (count : Nat)
  | keepalive (f : Frame)
  | bye (f : Frame)
  | mailboxWrite (m : Fin 24) (senderClass senderIndex : Nat) (bytes : List Byte)
  -- telemetry (19)
  | periodicSnapshot
  | snapshotCapture
  | lifetimeFlush
  | summaryWrite
  -- further rows of the table
  | perstDeassert
  | pcieLinkUp (speed width : Nat)
  | latchClose
  | msixUnmask (fn : Fn) (vector : Fin 32)
  | clkPllSettingWrite (pll : Fin 6) (value : Word)
  | weightReloadTimeout (ctx : CtxId)
  | sponsorTimeout
  | inputInRange
  | tripLatchClear
  deriving DecidableEq, Repr

end Sys2Proof
end

