-- ==== Sys2Proof/Decode.lean ====
section
/-!
DEFINITION. The words of the opcode table: no row of it gives bits, so no word spells a command.
-/
namespace Sys2Proof

/-- The command a word spells: spec/opcode_table.json gives no row any bits (every 'fields' is empty), so none. -/
def decodeTableWord (_nbits _w : Nat) : Option Instr := none

end Sys2Proof
end

