-- ==== Sys2Proof/Machine/Sha.lean ====
section
/-!
DEFINITION. SHA-384, which the spec names for measurements and random draws (05, R108; 10, R253, R266; 14, R393; 15, R421).
The algorithm itself is not in the spec: PRESUMED, FIPS 180-4 (log 6).
-/
namespace Sys2Proof.Machine

abbrev W64 := BitVec 64

/-- The largest `m` below `m + 2^n` with `m^e ≤ x`, found bit by bit from the top. -/
def rootFrom (e x : Nat) : Nat → Nat → Nat
  | 0, m => m
  | n + 1, m => rootFrom e x n (if (m + 2 ^ n) ^ e ≤ x then m + 2 ^ n else m)

/-- The first 64 bits of the fraction of the `e`-th root of `p`. -/
def rootFrac (e p : Nat) : W64 := BitVec.ofNat 64 (rootFrom e (p * 2 ^ (64 * e)) 72 0)

/-- The primes below 410, of which there are 80. -/
def shaPrimes : List Nat :=
  (List.range 410).filter fun p => decide (2 ≤ p) && (List.range 21).all fun d => decide (d < 2) || p == d || p % d != 0

/-- Round constants: cube roots of the first 80 primes. -/
def shaK : List W64 := shaPrimes.map (rootFrac 3)

/-- Initial hash value of SHA-384: square roots of the ninth to the sixteenth prime. -/
def shaInit : List W64 := ((shaPrimes.drop 8).take 8).map (rootFrac 2)

/-- Big-endian words of a byte list, 8 bytes each. -/
def beWords : Nat → List Byte → List W64
  | 0, _ => []
  | n + 1, bs => (bs.take 8).foldl (fun (w : W64) b => (w <<< 8) ||| b.zeroExtend 64) 0 :: beWords n (bs.drop 8)
/-- The bytes of a word, most significant first. -/
def beBytes (w : W64) : List Byte := (List.range 8).map fun i => w.extractLsb' (56 - 8 * i) 8

/-- The message schedule, newest word first. -/
def shaExpand : Nat → List W64 → List W64
  | 0, ws => ws
  | n + 1, ws =>
    let s1 := ws.getD 1 0
    let s0 := ws.getD 14 0
    let a := s1.rotateRight 19 ^^^ s1.rotateRight 61 ^^^ (s1 >>> 6)
    let b := s0.rotateRight 1 ^^^ s0.rotateRight 8 ^^^ (s0 >>> 7)
    shaExpand n ((a + ws.getD 6 0 + b + ws.getD 15 0) :: ws)

/-- One round: the eight working variables with the constant and schedule word. -/
def shaRound (v : List W64) (kw : W64 × W64) : List W64 :=
  match v with
  | [a, b, c, d, e, f, g, h] =>
    let s1 := e.rotateRight 14 ^^^ e.rotateRight 18 ^^^ e.rotateRight 41
    let ch := (e &&& f) ^^^ (~~~e &&& g)
    let t1 := h + s1 + ch + kw.1 + kw.2
    let s0 := a.rotateRight 28 ^^^ a.rotateRight 34 ^^^ a.rotateRight 39
    let mj := (a &&& b) ^^^ (a &&& c) ^^^ (b &&& c)
    [t1 + (s0 + mj), a, b, c, d + t1, e, f, g]
  | v => v

/-- One 128-byte block. -/
def shaBlock (h : List W64) (blk : List Byte) : List W64 :=
  let ws := (shaExpand 64 (beWords 16 blk).reverse).reverse
  List.zipWith (· + ·) h ((shaK.zip ws).foldl shaRound h)

def shaBlocks : Nat → List W64 → List Byte → List W64
  | 0, h, _ => h
  | n + 1, h, bs => shaBlocks n (shaBlock h (bs.take 128)) (bs.drop 128)

/-- The message with its padding: a 1 bit, zeros, and the length in bits as 128 bits. -/
def shaPad (m : List Byte) : List Byte :=
  let n := m.length
  let z := (239 - n % 128) % 128
  m ++ 0x80 :: List.replicate z 0 ++ List.replicate 8 0 ++ beBytes (BitVec.ofNat 64 (8 * n))

/-- SHA-384: 48 bytes. -/
def sha384 (m : List Byte) : List Byte :=
  let p := shaPad m
  ((shaBlocks (p.length / 128) shaInit p).take 6).flatMap beBytes

/-- HMAC with SHA-384, of a key of at most 128 bytes (RFC 2104, PRESUMED, log 6). -/
def hmac384 (key m : List Byte) : List Byte :=
  let k := key ++ List.replicate (128 - key.length) 0
  sha384 (k.map (· ^^^ 0x5C) ++ sha384 (k.map (· ^^^ 0x36) ++ m))

/-- HKDF-SHA-384 of one output block: extract without a salt, expand by a label and an input (14, R375; log 141). -/
def hkdf384 (secret : List Byte) (label : Byte) (input : List Byte) : List Byte :=
  hmac384 (hmac384 [] secret) (label :: input ++ [1])

end Sys2Proof.Machine
end

