-- ==== Sys2Proof/Machine/Bundle.lean ====
section
/-!
DEFINITION. Firmware bundles and module flash (17, R474, R477, R478).
-/
namespace Sys2Proof

/-! ### Header (R477) -/

def Bundle.version (b : Bundle) : Word := BitVec.ofNat 32 (b.raw.le 8 4)
def Bundle.svn (b : Bundle) : Word := BitVec.ofNat 32 (b.raw.le 12 4)
def Bundle.count (b : Bundle) : Nat := b.raw.le 16 4
def Bundle.length (b : Bundle) : Nat := b.raw.le 20 4
def Bundle.settingsFmt (b : Bundle) : Byte := b.raw.at 24
def Bundle.storeFmt (b : Bundle) : Byte := b.raw.at 25
def Bundle.oldestStoreFmt (b : Bundle) : Byte := b.raw.at 26

/-- A component entry. -/
structure Component where
  kind : Nat
  off : Nat
  len : Nat
  version : Nat
  digest : List Byte
  deriving DecidableEq, Repr

/-- The entry of component `i`. -/
def Bundle.component (b : Bundle) (i : Nat) : Component :=
  let o := 64 + 64 * i
  { kind := b.raw.le o 1, off := b.raw.le (o + 4) 4, len := b.raw.le (o + 8) 4, version := b.raw.le (o + 12) 4
    digest := (List.range 48).map fun k => b.raw.at (o + 16 + k) }
def Bundle.components (b : Bundle) : List Component := (List.range (min 7 (Bundle.count b))).map (Bundle.component b)

/-- Bytes of the header that R477 lists, with `n` component entries. -/
def bundleListed (n i : Nat) : Bool :=
  decide (i < 5) || (decide (8 ≤ i) && decide (i < 27)) ||
  (decide (64 ≤ i) && decide (i < 64 + 64 * n) && (i % 64 == 0 || decide (4 ≤ i % 64)))

/-- Length of the two signatures (R477). -/
def trailerBytes : Nat := 96 + 4627

/-- Is the header one of R477: magic, format, 1 to 7 components of the listed types behind the 4 KiB header and before the
signatures, at most 64 MiB, reserved bytes 0? -/
def Bundle.headerOk (b : Bundle) : Bool :=
  let n := Bundle.count b
  b.raw.le 0 4 == 0x4C444E42 && b.raw.le 4 1 == 1 && decide (1 ≤ n) && decide (n ≤ 7) &&
  decide (Bundle.length b ≤ 64 * 2 ^ 20) && decide (4096 + trailerBytes ≤ Bundle.length b) &&
  ((Bundle.components b).all fun k => decide (1 ≤ k.kind) && decide (k.kind ≤ 7) && decide (4096 ≤ k.off) &&
    decide (k.off + k.len + trailerBytes ≤ Bundle.length b)) &&
  (List.range 4096).all fun i => b.raw.at i == 0 || bundleListed n i

/-- Does every component have its digest (R478)? -/
def Bundle.digestsOk (b : Bundle) : Bool :=
  (Bundle.components b).all fun k =>
    Machine.sha384 ((List.range k.len).map fun i => b.raw.at (k.off + i)) == k.digest

/-- SHA-384 of the bundle. -/
def Bundle.digest (b : Bundle) : BitVec 384 := BitVec.ofNat 384 (leAt ((Machine.sha384 b.raw.bytes).getD · 0) 0 48)
/-- Its component of a type. -/
def Bundle.part (b : Bundle) (kind : Nat) : Option Component := (Bundle.components b).find? (·.kind == kind)
/-- SHA-384 of its component of a type; 0 without one. -/
def Bundle.partDigest (b : Bundle) (kind : Nat) : BitVec 384 :=
  match Bundle.part b kind with
  | some k => BitVec.ofNat 384 (leAt (k.digest.getD · 0) 0 48)
  | none => 0
/-- SHA-384 of its control firmware, component type 3 (14, R392); 0 without one. -/
def Bundle.ctlDigest (b : Bundle) : BitVec 384 := Bundle.partDigest b 3
/-- Does it hold RTP firmware or a boot loader, types 1 and 2 (14, R392)? -/
def Bundle.hasRtp (b : Bundle) : Bool := (Bundle.components b).any fun k => k.kind == 1 || k.kind == 2

/-! ### Module flash (R474) -/

/-- Offsets and sizes in the module flash: boot slots A and B, staging, the two copies of the boot record, settings current
and previous, the RTP's sealed store, the ring of lifetime records.  What lies behind is reserved. -/
def flashSlotA : Nat × Nat := (0x00000000, 128 * 2 ^ 20)
def flashSlotB : Nat × Nat := (0x08000000, 128 * 2 ^ 20)
def flashStaging : Nat × Nat := (0x10000000, 128 * 2 ^ 20)
def flashBoot : Nat × Nat := (0x18000000, 64 * 2 ^ 10)
def flashSettings : Nat × Nat := (0x18010000, 2 ^ 20)
def flashPrevious : Nat × Nat := (0x18110000, 2 ^ 20)
def flashSealed : Nat × Nat := (0x18210000, 2 * 2 ^ 20)
def flashLifetime : Nat × Nat := (0x18410000, 4 * 2 ^ 20)

end Sys2Proof
end

