-- ==== Sys2Proof/Config.lean ====
section
/-!
DEFINITION. The values the spec leaves open, as constants without a body: nothing can be proved of them but what
holds for every value.  Each is applied to the state's counter of free values drawn (State.fresh), or to the operands
the value depends on.
-/
namespace Sys2Proof

/-- Suggested wait of a BUSY_RETRY completion in ms: 'a suggested wait in ms' (15, R411) states no figure. -/
opaque Config.busyWait : Nat → BitVec 16
/-- Byte `i` of a V block of 32 positions that a step appends to in part, the scale as byte 32: what the block holds then
the spec does not state (08, R199).  A function of the values appended and of what the block held (01, R14). -/
opaque Config.partBlock : (appended : List (Option Nat)) → (held : List Nat) → (i : Nat) → Nat
/-- An INT32 lane whose sum or product (`mul`) does not fit 32 bits: the spec states no result (03, R75).  A function of the
operands (01, R14). -/
opaque Config.intLane : (mul : Bool) → Int → Int → Nat
/-- A value of the given number of bits that the spec leaves open. -/
opaque Config.value : Nat → Nat
/-- A random bit sequence of the module: Darner sampling (13, R351), rotation offsets. -/
opaque Config.random : Nat → Nat
/-- Bytes the spec leaves open, of the given length. -/
opaque Config.bytes : Nat → Nat → List Byte
/-- The key of a device set's generation, which one of its RTPs draws (14, R385). -/
opaque Config.setKey : (setId : BitVec 64) → (gen : Word) → List Byte
/-- The key that a sealed package's maker has agreed with this module (14, R386, R387). -/
opaque Config.agreedKey : Blob → List Byte
/-- What a sealed weight package decrypts to under the key its package key is wrapped with: AES-256-GCM (14, R387, R388). -/
opaque Config.unsealed : (key : List Byte) → Blob → List Byte
/-- Length of a payload that the spec does not lay out, of a frame of a type (16, R447). -/
opaque Config.payloadLen : (typ : Nat) → BitVec 11
/-- The unique device secret (14, R374). -/
opaque Config.uds : List Byte
/-- The digest of the RTP ROM and of a settings record given by its fields (14, R392). -/
opaque Config.romDigest : BitVec 384
opaque Config.settingsDigest : List Nat → BitVec 384
/-- The key pair made from a secret, in ECDSA P-384 or ML-DSA-87 (14, R375). -/
opaque Config.keyPair : (mldsa : Bool) → (secret : List Byte) → List Byte
/-- A certificate: signing pair, pair certified, RTP firmware digest and security version (14, R376). -/
opaque Config.certificate : (signer subject : List Byte) → (digest : BitVec 384) → (svn : Nat) → List Byte

/-- Bytes the measurement blocks of a report take, with a context's block or without: 14, R394 states no layout. -/
opaque Config.blockBytes : Bool → BitVec 16
/-- Bytes the certificate chains of a report take (14, R376, R394). -/
opaque Config.certBytes : BitVec 24

/-- Accesses that a busy HBM bank has delayed, as the hardware has counted them at a time (12, R314): timing (log 117). -/
opaque Config.bankStalls : Nat → Nat

/-- The module's grade: marine if it holds (15, R418; 20, R547). -/
opaque Config.marine : Bool

/-- Peer message types that need authority: 'firmware decides' (16, R450). -/
opaque Config.needsAuth : Nat → Bool

/-- Does a quotient that lies half way round up (11, R301, R304)?  A function of the operands. -/
opaque Config.tieUp : (num : Int) → (den : Nat) → Bool
/-- How the encoder divides a CTU into coding units (x, y, side), after the CTUs coded before it: 11, R305 leaves it open. -/
opaque Config.cuSplit : EncIn → (before : List CtuCode) → (col row qp : Nat) → List (Nat × Nat × Nat)
/-- A vector in quarter pixels at full-pixel precision (11, R305). -/
opaque Config.fullPixel : Int → Int
/-- Which of equally good places of a motion search is taken (11, R305). -/
opaque Config.searchTie : List (Int × Int) → Nat
/-- The prediction sample at a quarter-pixel place of a reference plane: ITU-T H.265's interpolation (11, R305). -/
opaque Config.subPixel : (Int → Int → Nat) → (qx qy : Int) → Nat
/-- The Hadamard cost of a block of differences with rows of `w`, and the rate term of a QP (11, R305). -/
opaque Config.hadamard : (w : Nat) → List Int → Nat
opaque Config.rateTerm : (qp : Nat) → Nat
/-- Bits that the start of a slice and its CTUs coded so far take, and the bytes of the finished slice with the parameter
sets before it: ITU-T H.265's syntax (11, R303, R306). -/
opaque Config.sliceBits : EncIn → (slice : Nat) → List CtuCode → Nat
opaque Config.sliceBytes : EncIn → (slice : Nat) → List CtuCode → List Byte
/-- A sample of the reconstruction of a coded picture (11, R285, R305). -/
opaque Config.recon : EncIn → List CtuCode → (chroma : Bool) → (x y : Nat) → Nat

/-- Which of `n + 1` equally good things firmware takes, where the spec names no choice among them. -/
opaque Config.pick : Nat → (n : Nat) → Fin (n + 1)

end Sys2Proof
end

