-- ==== Sys2Proof/Machine/State.lean ====
section
/-!
DEFINITION. The state of the module as plain data, block by block, and the state right after reset.
A field's default is its reset value; a `Tbl` lists only what differs from the reset value of its elements.
Register fields carry the name, width and rule of their table; DESIGN CHOICE fields name their log entry.
-/
namespace Sys2Proof.Machine

/-- Raised by no meaning: every command of the table has an effect the spec states, or completes with a status. It is
here because a machine names its faults; an outcome with it could only be safe (the machine would stop). -/
inductive Fault where
  /-- no meaning raises it; safe -/
  | none_
  deriving DecidableEq, Repr

/-- Why a command has no meaning in this model. -/
inductive Refusal where
  /-- raised by an arm of exec whose instruction has no meaning yet; safe (the run stops) -/
  | notModelled (mnemonic : String)
  deriving DecidableEq, Repr

/-- A 48-bit event counter with its WRAPS field; 48 + 16 bits (19, R516) reset 0. -/
structure EvCnt where
  count : BitVec 48 := 0
  wraps : BitVec 16 := 0
  deriving DecidableEq, Repr, Inhabited

/-- Module states; 4 bits (01, R19, R20). -/
inductive ModState where
  | init | recovery | ready | quiesced | draining | suspect | clockHold | doze
  deriving DecidableEq, Repr, Inhabited

/-- Why the module drains (01, R20; 13, R368; 01, R29). -/
inductive DrainCause where
  | none_ | host | darner | identity
  deriving DecidableEq, Repr, Inhabited

/-- GLB block and the module-wide state behind it. -/
structure Glb where
  /-- GLB_STATUS.STATE; 4 bits (01, R19) reset INIT -/
  state : ModState := .init
  /-- GLB_STATUS.STAGE; 4 bits (01, R19) reset 0x0 -/
  stage : Nat := 0
  /-- GLB_STATUS.BOOT_FAILS; 2 bits (01, R19) reset 0 -/
  bootFails : Nat := 0
  /-- resume state recorded at entry to DOZE or CLOCK_HOLD; a module state (18, R511) reset none -/
  resumeState : Option ModState := none
  /-- start-up is in progress, which CLOCK_HOLD keeps; 1 bit (01, R20; 18, R511) reset 1 -/
  startingUp : Bool := true
  /-- DOZE entry in progress: begun steps still run (18, R508); 1 bit reset 0 -/
  dozeEntering : Bool := false
  /-- time DOZE entry began; ns (18, R508) reset 0 -/
  dozeSince : Nat := 0
  /-- a WAKE is due once the entry completes or thermal release comes; 1 bit (18, R504, R508) reset 0 -/
  wakePending : Bool := false
  /-- start-up halted at the end of its stage by the 105 °C rule; 1 bit (18, R511) reset 0 -/
  thermalHeld : Bool := false
  /-- what the module drains for (01, R20) reset none -/
  drainFor : DrainCause := .none_
  /-- DRAIN limit as an absolute time, ns; none without a limit (15, R426) reset none -/
  drainLimit : Option Nat := none
  /-- the DRAIN limit passed in DOZE: its cancellations apply at exit; 1 bit (18, R511) reset 0 -/
  drainLimitPassed : Bool := false
  /-- SUSPECT entered because no successor took the interlock; 1 bit (17, R464) reset 0 -/
  noControlCore : Bool := false
  /-- lifetime of this start: READY was reached; 1 bit (01, R19) reset 0 -/
  readyReached : Bool := false
  /-- this start boots the other slot after a failure; 1 bit (01, R26; 17, R475) reset 0 -/
  fallbackBoot : Bool := false
  /-- time power good or PERST# deassertion began the configuration bound; ns (01, R24) reset 0 -/
  bootSince : Nat := 0
  /-- time the running start-up stage began; ns (17, R475) reset 0 -/
  stageSince : Nat := 0
  /-- start-up stands halted between two stages by the 105 °C rule; 1 bit (18, R511) reset 0 -/
  stageHalted : Bool := false
  /-- stage reached of the repetition that ends CLOCK_HOLD, 0 before the crystal is stable (01, R20) reset 0 -/
  holdStage : Nat := 0
  deriving DecidableEq, Repr, Inhabited

/-- A line of the Peg unit (02, R30-R38, R55, R56). -/
structure Line where
  /-- LINE_CFG.ENABLE; 1 bit (02, R55) reset 0 -/
  enable : Bool := false
  /-- LINE_CFG.INVERT; 1 bit (02, R55) reset 0 -/
  invert : Bool := false
  /-- LINE_CFG.OWNER; 5 bits (02, R55) reset 0x1F -/
  owner : BitVec 5 := 0x1F
  /-- LINE_CFG.FILTER; 8 bits (02, R55) reset 0x04 -/
  filter : Byte := 0x04
  /-- LINE_CFG.INDEX_LATCH; 1 bit (02, R55) reset 0 -/
  indexLatch : Bool := false
  /-- LINE_STATUS.REVERSE; 1 bit W1C (02, R56) reset 0 -/
  reverse : Bool := false
  /-- LINE_STATUS.STOPPED; 1 bit (02, R56) reset 1 -/
  stopped : Bool := true
  /-- LINE_STATUS.OVERSPEED; 1 bit W1C (02, R56) reset 0 -/
  overspeed : Bool := false
  /-- LINE_STATUS.ENC_ERR; 1 bit W1C (02, R56) reset 0 -/
  encErr : Bool := false
  /-- LINE_STATUS.INDEX_SEEN; 1 bit W1C (02, R56) reset 0 -/
  indexSeen : Bool := false
  /-- LINE_STATUS.ENC_ERR_CNT; 16 bits RC saturating (02, R56) reset 0 -/
  errCnt : BitVec 16 := 0
  /-- position; 48 bits signed (02, R32) reset 0 -/
  pos : Pos := 0
  /-- high-water mark; 48 bits signed (02, R32) reset 0 -/
  hwm : Pos := 0
  /-- LINE_VEL; 32 bits Q16.16 (02, R37) reset 0 -/
  vel : Word := 0
  /-- LINE_SCALE; 32 bits Q16.16 (02, R54) reset 0 -/
  scale : Word := 0
  /-- LINE_IDX; 48 bits (02, R34) reset 0 -/
  idx : Pos := 0
  /-- the last 1,024 count events since the enable or preset, newest first: time in ns and position (02, R37) reset empty -/
  window : List (Nat × Pos) := []
  /-- time of the last count, LINE_POSITION or enable; ns (02, R38) reset 0 -/
  lastEvent : Nat := 0
  /-- time of the last filtered transition of a physical line, none since reset (02, R31) reset none -/
  lastTrans : Option Nat := none
  deriving DecidableEq, Repr, Inhabited

/-- A capture kept in a trigger's history (11, R292). -/
structure Capture where
  seq : Word := 0
  pos : Pos := 0
  time : BitVec 64 := 0
  deriving DecidableEq, Repr, Inhabited

/-- A trigger input (02, R40, R54). -/
structure Trig where
  /-- TRIG_CFG.ENABLE; 1 bit (02, R54) reset 0 -/
  enable : Bool := false
  /-- TRIG_CFG.EDGE, set for falling; 1 bit (02, R54) reset 0 -/
  falling : Bool := false
  /-- TRIG_CFG.LINE; 4 bits (02, R54) reset 0 -/
  line : Fin 16 := 0
  /-- TRIG_CFG.FILTER in µs; 16 bits (02, R54) reset 20 -/
  filter : BitVec 16 := 20
  /-- TRIG_CAP position; 48 bits (02, R54) reset 0 -/
  capPos : Pos := 0
  /-- PEG_TIME latched with the capture; 64 bits (02, R40) reset 0 -/
  capTime : BitVec 64 := 0
  /-- TRIG_CAP.SEQ; 32 bits wrapping (02, R54) reset 0 -/
  seq : Word := 0
  /-- the last 64 captures, newest first (11, R292) reset empty -/
  history : List Capture := []
  deriving DecidableEq, Repr, Inhabited

/-- States of a peg (02, R41). -/
inductive PegSt where
  | free | waiting | armed | fired
  deriving DecidableEq, Repr, Inhabited

/-- Work that names a peg (02, 'Pegs as deadlines'). -/
inductive Binding where
  | request (ctx id : Nat)
  | job (ctx id : Nat)
  | picture (session : Nat) (enc : Bool) (tag : Nat)
  deriving DecidableEq, Repr, Inhabited

/-- A peg (02, R41-R49). -/
structure Peg where
  /-- state; 2 bits (02, R41) reset FREE -/
  st : PegSt := .free
  /-- the function that armed it last, none since module reset if never armed (02, R48) reset none -/
  armedBy : Option Nat := none
  /-- line; 4 bits (02, R49) reset 0 -/
  line : Fin 16 := 0
  /-- trigger of a capture peg; 2 bits (02, R49) reset none -/
  trigger : Option (Fin 4) := none
  /-- target, or offset while WAITING; 48 bits (02, R49) reset 0 -/
  target : Pos := 0
  /-- WAKE; 1 bit (02, R49) reset 0 -/
  wake : Bool := false
  /-- NO_MISS_OUT; 1 bit (02, R49) reset 0 -/
  noMissOut : Bool := false
  /-- place in the order of PEG_ARM commands (02, R42) reset 0 -/
  order : Nat := 0
  /-- bindings not yet released (02, R45) reset empty -/
  bindings : List Binding := []
  /-- MISS of its fire; 1 bit (02, R45) reset 0 -/
  miss : Bool := false
  /-- time its last binding was released, for histogram 2; ns (19, R517) reset none -/
  releasedAt : Option Nat := none
  /-- time of its latest fire, with which a disarm may meet (02, R52) reset none -/
  firedAt : Option Nat := none
  deriving DecidableEq, Repr, Inhabited

/-- A fire record of 16 bytes (02, R44). -/
structure PegRec where
  peg : Byte
  line : BitVec 4
  past : Bool
  miss : Bool
  wake : Bool
  lineOff : Bool
  hwm : Pos
  time : BitVec 64
  deriving DecidableEq, Repr, Inhabited

/-- The PEG block (02, R54). -/
structure PegUnit where
  /-- PEG_STATUS.TIME_ITO; 1 bit (02, R54) reset 1 -/
  timeIto : Bool := true
  /-- OUT_CTRL.MISS_HOLD in ms; 16 bits (02, R54) reset 0x0064 -/
  missHold : BitVec 16 := 0x64
  /-- OUT_CTRL.USER; 1 bit (02, R54) reset 0 -/
  user : Bool := false
  /-- PEG_QOVF; 32 bits saturating (02, R54) reset 0 -/
  qovf : Word := 0
  /-- LINE[n], n = 0-15 -/
  lines : Tbl Line := []
  /-- TRIG[m], m = 0-3 -/
  trigs : Tbl Trig := []
  /-- pegs 0-255 -/
  pegs : Tbl Peg := []
  /-- PEG_FIRED[k], k = 0-7; 32 bits W1C (02, R54) reset 0 -/
  fired : Tbl Word := []
  /-- DEADLINE_MISS driven on by a miss; 1 bit (02, R45) reset 0 -/
  missOut : Bool := false
  /-- end of the MISS_HOLD time; ns (02, R45) reset 0 -/
  missEnd : Nat := 0
  /-- PEG_ARM commands accepted so far (02, R42) reset 0 -/
  armSeq : Nat := 0
  deriving DecidableEq, Repr, Inhabited

/-- A completion of 32 bytes (15, R411). -/
structure Completion where
  seq : Word := 0
  status : Nat := 0
  detail : Nat := 0
  /-- result bytes 0-23 -/
  result : List Byte := []
  deriving DecidableEq, Repr, Inhabited

/-- A command kept for retries, with its completion once it has one (15, R413). -/
structure Kept where
  seq : Word := 0
  bytes : List Byte := []
  comp : Option Completion := none
  /-- copies owed to retries that came before the completion -/
  copies : Nat := 0
  deriving DecidableEq, Repr, Inhabited

/-- A ring pair, or the MCTP path as ring 8 of PF0 (15, R405, R406, R413, R431). -/
structure Ring where
  /-- SQ_BASE; 64 bits (15, R405) reset 0 -/
  sqBase : BitVec 64 := 0
  /-- SQ_SIZE, log2 of entries minus 4; 4 bits (15, R405) reset 0 -/
  sqSize : Nat := 0
  /-- SQ_TAIL; 32 bits (15, R405) reset 0 -/
  sqTail : Nat := 0
  /-- SQ_HEAD; 32 bits (15, R405) reset 0 -/
  sqHead : Nat := 0
  /-- CQ_BASE; 64 bits (15, R405) reset 0 -/
  cqBase : BitVec 64 := 0
  /-- CQ_SIZE; 4 bits (15, R405) reset 0 -/
  cqSize : Nat := 0
  /-- CQ_HEAD; 32 bits (15, R405) reset 0 -/
  cqHead : Nat := 0
  /-- CQ_TAIL; 32 bits (15, R405) reset 0 -/
  cqTail : Nat := 0
  /-- RING_CTRL.ENABLE; 1 bit (15, R406) reset 0 -/
  enable : Bool := false
  /-- RING_CTRL.FETCH_ERR; 1 bit W1C (15, R406) reset 0 -/
  fetchErr : Bool := false
  /-- RING_CTRL.WRITE_ERR; 1 bit W1C (15, R406) reset 0 -/
  writeErr : Bool := false
  /-- RING_CTRL.TAIL_ERR; 1 bit W1C (15, R406) reset 0 -/
  tailErr : Bool := false
  /-- expected sequence number, none before the first command; 32 bits (15, R413) reset none -/
  expected : Option Word := none
  /-- commands kept for retries, newest first (15, R413) reset empty -/
  kept : List Kept := []
  /-- completions in the completion ring, CQ_HEAD to CQ_TAIL, oldest first (15, R407) reset empty -/
  cq : List Completion := []
  /-- completions whose write failed and that wait for ENABLE, with NO_IRQ of their command, oldest first (15, R410) reset empty -/
  unwritten : List (Completion × Bool) := []
  /-- further completion writes end in a PCIe error until ENABLE is set again; 1 bit (15, R410) reset 0 -/
  writeFails : Bool := false
  deriving DecidableEq, Repr, Inhabited

/-- What a fetched command that has not completed waits for. -/
inductive WaitFor where
  | ctxReset (ctx : Nat)
  | ctxClose (ctx : Nat)
  | patchReady (slot : Nat)
  | patchFree (slot : Nat)
  | job (ctx id : Nat)
  | jobAbort (ctx id : Nat)
  | vidClose (session : Nat) (enc : Bool)
  | attest
  | keyGen (ctx : Nat)
  | quiesced
  | drained
  | dozed
  | awake
  | fwStage
  | liveTaken
  /-- a TELEMETRY_SNAPSHOT: its flags, and the length of its buffer (19, R519, R521) -/
  | snapshot (flags addr len : Nat)
  | sponsor (setId : BitVec 64) (gen : Word) (members : Nat) (owner : BitVec 384)
  deriving DecidableEq, Repr, Inhabited

/-- A fetched command that has not completed (15, R414). -/
structure Inflight where
  fn : Nat := 0
  ring : Nat := 0
  seq : Word := 0
  opcode : Byte := 0
  noIrq : Bool := false
  /-- time of its fetch, ns (15, R428) -/
  since : Nat := 0
  wait : WaitFor := .attest
  deriving DecidableEq, Repr, Inhabited

/-- A 64-byte record of the video event queue (11, R294). -/
structure VidRec where
  kind : Nat := 0
  session : Nat := 0
  enc : Bool := false
  tag : Nat := 0
  flags : Nat := 0
  /-- record bytes 0-55; bytes 56-63 take PEG_TIME as it is written -/
  bytes : List Byte := []
  /-- the opening of its session that formed it (11, R293) -/
  uid : Nat := 0
  /-- key of the frame buffer whose descriptor this FRAME record is (11, R284) -/
  dst : Option Nat := none
  deriving DecidableEq, Repr, Inhabited

/-- A function's window registers and queues (15, R404). -/
structure Func where
  /-- negotiated minor; 8 bits (15, R404, R417) reset 0 -/
  minor : Nat := 0
  /-- granted feature bits 0-5 (15, R417) reset 0 -/
  features : Nat := 0
  /-- DB_PEND; 32 bits W1C (15, R404) reset 0 -/
  dbPend : Word := 0
  /-- DB_MASK; 32 bits (15, R404) reset 0xFFFF_FFFF -/
  dbMask : Word := 0xFFFFFFFF
  /-- masked MSI-X entries, bit j; 32 bits (15, R401) reset all ones, PRESUMED (log 7) -/
  msixMask : Word := 0xFFFFFFFF
  /-- MSI-X entries: vector `j`'s message address, lower and upper half, and data at 3 j (15, R401) reset 0, PRESUMED (log 7) -/
  msix : Tbl Word := []
  /-- PEQ_BASE; 64 bits (15, R404) reset 0 -/
  peqBase : BitVec 64 := 0
  /-- PEQ_SIZE.ENABLE; 1 bit (15, R404) reset 0 -/
  peqEnable : Bool := false
  /-- PEQ_SIZE log2 minus 6; 4 bits (15, R404) reset 0 -/
  peqLog : Nat := 0
  /-- PEQ_HEAD; 32 bits (15, R404) reset 0 -/
  peqHead : Nat := 0
  /-- PEQ_TAIL; 32 bits (15, R404) reset 0 -/
  peqTail : Nat := 0
  /-- fire records between PEQ_HEAD and PEQ_TAIL, oldest first (02, R44) reset empty -/
  peq : List PegRec := []
  /-- VEQ_BASE; 64 bits (15, R404) reset 0 -/
  veqBase : BitVec 64 := 0
  /-- VEQ_SIZE.ENABLE; 1 bit (15, R404) reset 0 -/
  veqEnable : Bool := false
  /-- VEQ_SIZE log2 minus 6; 4 bits (15, R404) reset 0 -/
  veqLog : Nat := 0
  /-- VEQ_HEAD; 32 bits (15, R404) reset 0 -/
  veqHead : Nat := 0
  /-- VEQ_TAIL; 32 bits (15, R404) reset 0 -/
  veqTail : Nat := 0
  /-- video records between VEQ_HEAD and VEQ_TAIL, oldest first (11, R293) reset empty -/
  veq : List VidRec := []
  /-- TB_HEAD; 32 bits (15, R404) reset 0; of a VF -/
  tbHead : Nat := 0
  /-- TB_TAIL; 32 bits (15, R404) reset 0; of a VF -/
  tbTail : Nat := 0
  deriving DecidableEq, Repr, Inhabited

/-- The host interface and the CMD block (15). -/
structure HostIf where
  /-- windows of PF0 (0) and VFk (k) -/
  funcs : Tbl Func := []
  /-- ring pair n of function f at 9 f + n -/
  rings : Tbl Ring := []
  /-- fetched commands that have not completed, oldest first (15, R414) reset empty -/
  inflight : List Inflight := []
  /-- host memory as the module has written it: byte `a` of function f's address space at 2^64 f + a (15, R404-R411; 09, R240)
  reset empty: nothing written -/
  mem : Tbl Byte := []
  /-- MSI-X messages sent on vector j of function f, at 32 f + j (15, R402) reset 0 -/
  msgs : Tbl Nat := []
  /-- CMD_STATUS.LINK_UP; 1 bit (15, R433) reset 0 -/
  linkUp : Bool := false
  /-- CMD_STATUS.FLIT; 1 bit (15, R433) reset 0 -/
  flit : Bool := false
  /-- CMD_STATUS.VF_ENABLE; 1 bit (15, R433) reset 0 -/
  vfEnable : Bool := false
  /-- CMD_STATUS.SPEED; 4 bits (15, R433) reset 0 -/
  speed : Nat := 0
  /-- CMD_STATUS.WIDTH; 5 bits (15, R433) reset 0 -/
  width : Nat := 0
  /-- CMD_TIMEOUT_S; 9 bits (15, R432) reset 0x1E -/
  timeoutS : Nat := 0x1E
  /-- CMD_HOTPLUG.LATCH_EVT; 1 bit W1C (15, R433) reset 0 -/
  latchEvt : Bool := false
  /-- CMD_HOTPLUG.LINK_LOSS; 1 bit W1C (15, R433) reset 0 -/
  linkLossEvt : Bool := false
  /-- CMD_MCTP I3C dynamic address; 8 bits (15, R432) reset 0 -/
  i3cAddr : Byte := 0
  /-- CMD_MCTP I3C EID; 8 bits (15, R432) reset 0 -/
  i3cEid : Byte := 0
  /-- CMD_MCTP PCIe EID; 8 bits (15, R432) reset 0 -/
  pcieEid : Byte := 0
  /-- Unsupported Requests reported through AER (00, R7; 14, R390; 16, R436) reset 0 -/
  unsupported : Nat := 0
  /-- data the last register read returned: 64 bits, the upper half 0 for a 32-bit read; the MODEL's own field -/
  readData : BitVec 64 := 0
  /-- the last configuration request was answered with Configuration Request Retry Status; the MODEL's own field -/
  cfgRetry : Bool := false
  /-- _HI halves latched by 32-bit _LO reads, by requester and offset (02, R54) reset none -/
  latches : Tbl (Option Word) := []
  /-- MCTP messages answered by the RTP as control or SPDM (15, R431; 14, R391) reset 0 -/
  mctpAnswered : Nat := 0
  deriving DecidableEq, Repr, Inhabited

/-- Context states; 3 bits (14, R378). -/
inductive CtxState where
  | free | opening | ready | running | suspended | faulted | resetting | drained
  deriving DecidableEq, Repr, Inhabited

/-- An account (09, R221-R224); its movements are the conservation counters of families 0x01-0x05. -/
structure Account where
  /-- set by ACCOUNT_SET (09, R225) reset 0 -/
  known : Bool := false
  /-- ENABLE; 1 bit (09, R221) reset 0 -/
  enable : Bool := false
  /-- NO_QUEUE; 1 bit (09, R221) reset 0 -/
  noQueue : Bool := false
  /-- IN_COST; 16 bits (09, R221) reset 0 -/
  inCost : Nat := 0
  /-- OUT_COST; 16 bits (09, R221) reset 0 -/
  outCost : Nat := 0
  /-- RATE; 32 bits (09, R221) reset 0 -/
  rate : Nat := 0
  /-- DEPTH; 49 bits (09, R221) reset 0 -/
  depth : Nat := 0
  /-- ACC_LEVEL (09, R224) reset 0 -/
  level : Nat := 0
  /-- remainder of the refill (09, R222) reset 0 -/
  rem : Nat := 0
  deriving DecidableEq, Repr, Inhabited

/-- A selection block as read at acceptance (10, R249). -/
structure Sel where
  seed : Nat := 0
  temp : Word := 0
  topK : Nat := 0
  draftMax : Nat := 0
  topP : Word := 0x3F800000
  minP : Word := 0
  rep : Word := 0x3F800000
  pres : Word := 0
  freq : Word := 0
  window : Nat := 0
  grammar : Option Nat := none
  patch : Option Nat := none
  allow : Option (List Nat) := none
  ends : List Nat := []
  deriving DecidableEq, Repr, Inhabited

/-- States of a tracked request (09, R218). -/
inductive ReqSt where
  | queued | prefill | decode | ending
  deriving DecidableEq, Repr, Inhabited

/-- A tracked request (09, R217-R239). -/
structure Req where
  id : Nat := 0
  st : ReqSt := .queued
  decImg : Nat := 0
  preImg : Nat := 0
  prio : Nat := 0
  account : Nat := 0
  peg : Option Nat := none
  dropLate : Bool := false
  early : Bool := false
  tail : Nat := 1
  /-- prompt positions P -/
  prompt : Nat := 0
  /-- new-token limit N -/
  newMax : Nat := 0
  source : BitVec 64 := 0
  pin : Option Nat := none
  /-- pinned prefix length S (09, R223) -/
  pinned : Nat := 0
  /-- absolute time the queue limit passes, ns -/
  queueEnd : Option Nat := none
  sel : Sel := {}
  reservation : Nat := 0
  inCost : Nat := 0
  outCost : Nat := 0
  charged : Nat := 0
  slot : Option Nat := none
  /-- pages its list held when its end was determined, while it is ENDING (08, R202) reset empty -/
  pages : List Nat := []
  /-- pages reserved at admission, and those not yet allocated (09, R228) -/
  pagesTotal : Nat := 0
  pagesLeft : Nat := 0
  /-- positions held now, and at the latest committed step (09, R246) -/
  len : Nat := 0
  lenDone : Nat := 0
  /-- prompt positions computed -/
  promptDone : Nat := 0
  /-- output tokens counted now, and at the latest committed step -/
  counted : Nat := 0
  countedDone : Nat := 0
  /-- remaining-token limit (09, R237) -/
  limit : Nat := 0
  /-- cancel latched, with its cancel point, none before the first step: steps above it are not delivered (09, R237) -/
  cancel : Option (Option Nat) := none
  /-- cancelled because its peg fired with DROP_LATE (09, R239); 1 bit reset 0 -/
  late : Bool := false
  /-- reason code once its end is determined (09, R235), 0 before -/
  reason : Nat := 0
  /-- final status code (15, R416) -/
  status : Nat := 0
  /-- the step that ended it; none for an end without a step -/
  endStep : Option Nat := none
  order : Nat := 0
  refusals : Nat := 0
  patchSlot : Option Nat := none
  /-- held back by COW_DEFER, goes first next step (08, R207) -/
  deferred : Bool := false
  fn : Nat := 0
  ring : Nat := 0
  seq : Word := 0
  deriving DecidableEq, Repr, Inhabited

/-- A prefix pin (08, R202-R204, R210). -/
structure Pin where
  id : Nat := 0
  /-- list entries' pages below its length, in order -/
  pages : List Nat := []
  len : Nat := 0
  poisoned : Bool := false
  /-- twins made: (page, its twin) -/
  twins : List (Nat × Nat) := []
  deriving DecidableEq, Repr, Inhabited

/-- A job (15, R422-R425). -/
structure Job where
  id : Nat := 0
  handle : Nat := 0
  prio : Nat := 0
  peg : Option Nat := none
  dropLate : Bool := false
  steps : Nat := 0
  begun : Nat := 0
  committed : Nat := 0
  /-- frame-buffer handles it holds a consumer reference on -/
  buffers : List Nat := []
  /-- what its image's buffers are bound to: buffer and context virtual address (15, R422) -/
  bindings : List (Nat × Nat) := []
  /-- abort latched: no further step begins -/
  aborting : Bool := false
  /-- steps begun when the abort was latched: they run to commit, after a rewind too -/
  limit : Nat := 0
  /-- ends TIMEOUT because its peg fired with DROP_LATE -/
  late : Bool := false
  /-- its command timed out; the completion is suppressed (15, R428) -/
  silent : Bool := false
  order : Nat := 0
  lastStep : Nat := 0
  deriving DecidableEq, Repr, Inhabited

/-- A weight package (15, R421; 14, R387). -/
structure Weights where
  id : Nat := 0
  va : Nat := 0
  len : Nat := 0
  copyHeld : Bool := false
  isSealed : Bool := false
  digest : List Byte := []
  /-- plaintext of the registered host copy (12, R322), empty without one -/
  bytes : List Byte := []
  deriving DecidableEq, Repr, Inhabited

/-- An entry of a context's measurement log (14, R393). -/
structure LogEntry where
  kind : Nat := 0
  handle : Nat := 0
  version : Nat := 0
  id : Nat := 0
  digest : List Byte := []
  deriving DecidableEq, Repr, Inhabited

/-- What a step will be charged with at its commit (03, R70; 06, R157; 07, R182; 10, R273). -/
structure Charge where
  seam : BitVec 5 := 0
  seamOp : Option Nat := none
  loss : Nat := 0
  split : Nat := 0
  ovf : Nat := 0
  atn : BitVec 4 := 0
  atnOp : Option Nat := none
  blocks : Nat := 0
  skips : Nat := 0
  emptyRows : Nat := 0
  dpp : BitVec 5 := 0
  images : Nat := 0
  dropped : Nat := 0
  truncs : Nat := 0
  keepFulls : Nat := 0
  tsu : BitVec 7 := 0
  positions : Nat := 0
  proposed : Nat := 0
  accepted : Nat := 0
  fullRej : Nat := 0
  maskEmpty : Nat := 0
  deriving DecidableEq, Repr, Inhabited

/-- A sampled tile awaiting its check, or one found mismatched (13, R351-R356). -/
structure Tile where
  op : Nat := 0
  core : Nat := 0
  group : Nat := 0
  index : Nat := 0
  /-- map bin of the execution without FCLASS's companion bits: the 11-bit index (13, R366) -/
  bin : Nat := 0
  poisoned : Bool := false
  deriving DecidableEq, Repr, Inhabited

/-- One row of a step's sequence table (07, R173) with its request and its outcome. -/
structure Entry where
  req : Nat := 0
  slot : Nat := 0xFFFF
  first : Nat := 0
  active : Nat := 0
  drafts : Nat := 0
  pfx : Nat := 0
  /-- draft tokens drawn, with their distributions (token, probability bits) (10, R260) -/
  draftTok : List Nat := []
  draftDist : List (List (Nat × Word)) := []
  /-- tokens the TSU put out and how many of them count (10, R261, R262) -/
  tokens : List Nat := []
  accepted : Nat := 0
  /-- reason its request met an end condition with in this step -/
  reason : Nat := 0
  /-- its END entry went out in the EARLY record of the step (09, R244) -/
  sentEnd : Bool := false
  deriving DecidableEq, Repr, Inhabited

/-- An entry of a page list; 32 bits (08, R192). -/
structure ListEnt where
  valid : Bool := false
  tail : Bool := false
  gen : Byte := 0
  page : Nat := 0
  deriving DecidableEq, Repr, Inhabited

/-- A root of a sequence slot (08, R193). -/
structure Root where
  valid : Bool := false
  ctx : Nat := 0
  count : Nat := 0
  copy1 : Bool := false
  /-- the slot's list granule, numbered from 0 at the start of HBM -/
  granule : Nat := 0
  deriving DecidableEq, Repr, Inhabited

/-- TSU state of a sequence slot, one parity copy (10, R254). -/
structure TsuSeq where
  gstate : Nat := 0
  /-- counted output tokens, newest first, at most 4,096 -/
  window : List Nat := []
  draftLen : Nat := 0
  /-- steps since the draft length reached 0 -/
  zeroSteps : Nat := 0
  limit : Nat := 0
  deriving DecidableEq, Repr, Inhabited

/-- A boundary effect as it was applied, for its reversal (13, R359). -/
inductive Undo where
  /-- reference dropped; `again`: the drop stands whatever is replayed, and is staged anew after the reversal -/
  | dropped (page : Nat) (again : Bool)
  | allocated (page : Nat)
  | added (page : Nat)
  /-- a reference the step's end dropped became the one staged for the same boundary -/
  | moved (page : Nat)
  /-- a page in RECLAIM took a staged reference; its reclaim step -/
  | revived (page at_ : Nat)
  | installed (slot : Nat) (ents : List ListEnt)
  | cleared (slot : Nat)
  | swapped (slot : Nat) (root : Root) (ents : List ListEnt)
  | request (r : Req)
  | slotReleased (slot req : Nat)
  | patchUnpinned (slot : Nat)
  deriving DecidableEq, Repr, Inhabited

/-- A step of a context that has begun and not committed (05, R120-R122). -/
structure StepRec where
  k : Nat := 0
  handle : Nat := 0
  /-- reached its step fence -/
  fenced : Bool := false
  /-- the job it belongs to -/
  job : Option Nat := none
  isPrefill : Bool := false
  entries : List Entry := []
  /-- walker table: list entries by sequence-table row (08, R197) -/
  walker : List (List ListEnt) := []
  /-- page copies for KV_PREP: source, destination, positions, twin (08, R197) -/
  copies : List (Nat × Nat × Nat × Bool) := []
  /-- sampled tiles of this step not yet compared -/
  unchecked : List Tile := []
  /-- tiles whose check did not compare equal, awaiting the referee -/
  mismatched : List Tile := []
  /-- tiles to sample because they mismatched before the replay (13, R360) -/
  resample : List Tile := []
  charge : Charge := {}
  poisoned : Bool := false
  /-- a residue or lockstep mismatch asks for a rewind (13, R350; 06, R154) -/
  rewindDue : Bool := false
  /-- faults that act at the OP_END of their operation, as core and operation: bank collision, key overrun, list fault -/
  faultOps : List (Nat × Nat) := []
  replayGen : Nat := 0
  replayed : Bool := false
  lockstepReplay : Bool := false
  /-- provisional link messages of the epoch were sent, on these peer entries -/
  sentTo : List Nat := []
  /-- provisional epochs it depends on: peer entry, context, step (13, R364) -/
  deps : List (Nat × Nat × Nat) := []
  /-- boundary effects that followed this step, newest first -/
  undo : List Undo := []
  /-- TSU sequence state of its slots as the step began, for a rewind (10, R254; 13, R358) -/
  tsuBefore : List (Nat × TsuSeq) := []
  /-- the EARLY record of this step was written provisional (09, R244) -/
  earlySent : Bool := false
  deriving DecidableEq, Repr, Inhabited

/-- An allocation staged for the next boundary (08, R194): for a sequence slot's list position, or a twin for a pin. -/
structure AllocReq where
  /-- request whose sequence it serves; none for a twin -/
  req : Option Nat := none
  slot : Nat := 0
  listPos : Nat := 0
  /-- copy source for copy on write or a twin -/
  copyOf : Option Nat := none
  positions : Nat := 0
  /-- pin the twin is made for, and the slots and list positions that attach to it (R204) -/
  pin : Nat := 0
  joiners : List (Nat × Nat) := []
  deriving DecidableEq, Repr, Inhabited

/-- An edit of a slot's page list staged for the next boundary (08, R193, R194). -/
inductive ListEdit where
  | tail (slot pos : Nat)
  | install (slot : Nat) (ents : List ListEnt)
  /-- the list ends; `again`: its request ended without a step -/
  | clear (slot : Nat) (again : Bool)
  deriving DecidableEq, Repr, Inhabited

/-- Edits staged for the next boundary (08, R194). -/
structure Staged where
  /-- references of ended sequences and released pins that end without a step; staged anew after a rewind -/
  drops : List Nat := []
  /-- references of sequences that the step ended -/
  stepDrops : List Nat := []
  allocs : List AllocReq := []
  adds : List Nat := []
  edits : List ListEdit := []
  deriving DecidableEq, Repr, Inhabited

/-- One entry of a BATCH record (09, R242). -/
structure TbEntry where
  req : Nat := 0
  status : Nat := 0
  toks : List Nat := []
  fin : Bool := false
  dropped : Bool := false
  miss : Bool := false
  reason : Nat := 0
  pos : Nat := 0
  deriving DecidableEq, Repr, Inhabited

/-- Kinds of token batch records (09, R241). -/
inductive TbKind where
  | batch | confirm | revoke | pad
  deriving DecidableEq, Repr, Inhabited

/-- A token batch record (09, R241). -/
structure TbRec where
  kind : TbKind := .batch
  provisional : Bool := false
  replacement : Bool := false
  nostep : Bool := false
  step : Nat := 0
  committed : Nat := 0
  time : BitVec 64 := 0
  entries : List TbEntry := []
  len : Nat := 64
  deriving DecidableEq, Repr, Inhabited

/-- A context (14, R378; 15, R419; 08, R186; 09). -/
structure Ctx where
  /-- state; 3 bits (14, R378) reset FREE -/
  st : CtxState := .free
  /-- KV format (R110 code), layers, KV heads, head dimension (08, R186) reset 0 -/
  kvFmt : Nat := 0
  layers : Nat := 0
  heads : Nat := 0
  dim : Nat := 0
  /-- granules a page; 17 bits (08, R187, R216) reset 0 -/
  granules : Nat := 0
  /-- page, request and slot quotas (15, R419) reset 0 -/
  pageQuota : Nat := 0
  reqQuota : Nat := 0
  slotQuota : Nat := 0
  /-- MEM_MMU_BASE; 18 bits (12, R344) reset 0 -/
  mmuBase : Nat := 0
  /-- MEM_MMU_SIZE; 18 bits (12, R344) reset 0 -/
  mmuSize : Nat := 0
  /-- sequence slots the context owns, module-wide numbers -/
  slots : List Nat := []
  /-- token batch ring base and log2 size (15, R419) reset 0 -/
  tbBase : BitVec 64 := 0
  tbLog : Nat := 0
  /-- records in the ring, with their end offsets, oldest first (09, R240) reset empty -/
  tbRing : List TbRec := []
  /-- records waiting on the module, oldest first (09, R245) reset empty -/
  tbWait : List TbRec := []
  /-- time TB_HEAD last advanced while records wait; ns (09, R245) reset 0 -/
  tbStall : Nat := 0
  /-- END entries of requests that ended without a step since the last record (09, R242) reset empty -/
  tbEnds : List TbEntry := []
  /-- schedule images by handle 0-15 (05, R119) reset none -/
  images : Tbl (Option Image) := []
  /-- weight packages (15, R421) reset empty -/
  weights : List Weights := []
  /-- accounts 0-1,023 (09, R221) -/
  accounts : Tbl Account := []
  /-- tracked requests in the order accepted (09, R217) reset empty -/
  reqs : List Req := []
  /-- prefix pins (08, R202) reset empty -/
  pins : List Pin := []
  /-- jobs in progress (15, R422) reset empty -/
  jobs : List Job := []
  /-- last step of the latest host REVOKE: records of steps up to it carry REPLACEMENT (09, R244) reset 0 -/
  replaceTo : Nat := 0
  /-- begun and uncommitted steps, oldest first (05, R122) reset empty -/
  steps : List StepRec := []
  /-- the batch built for the next step (09, R231) reset none -/
  next : Option StepRec := none
  /-- edits staged for the next boundary (08, R194) reset empty -/
  staged : Staged := {}
  /-- measurement log (14, R393) reset empty -/
  log : List LogEntry := []
  /-- step cycles elapsed, in units of MHz * ns, and the time they are counted to (05, R121) reset 0 -/
  nomDone : Nat := 0
  nomAt : Nat := 0
  /-- time the watchdog of the step counts from; while switched out inside a step, the time already spent; ns (05, R132)
  reset 0 -/
  stepStart : Nat := 0
  /-- state saved on an urgent switch (05, R130): resume inside the step -/
  midStep : Bool := false
  /-- array mode at that switch, set for Press; 1 bit reset 0 -/
  savedPress : Bool := false
  /-- the switch-out waits for a check extension (05, R131); 1 bit reset 0 -/
  leaving : Bool := false
  /-- firmware's part of a boundary waits for the end of a switch-over gap (17, R461, R463); 1 bit reset 0 -/
  owed : Bool := false
  /-- steps committed in a gap, whose records firmware owes (17, R461) reset empty -/
  owedCommit : List StepRec := []
  /-- a close waits for the reset in progress (15, R420); 1 bit reset 0 -/
  closing : Bool := false
  /-- a weight reload is in progress for this page address (12, R322) reset none -/
  reloading : Option Nat := none
  reloadSince : Nat := 0
  /-- requests accepted so far, for the acceptance order -/
  accepted : Nat := 0
  /-- its records in the ledger ring, oldest first: request ID, acceptance order, an end's record (17, R471) reset empty -/
  ledger : List (Nat × Nat × Bool) := []
  /-- patch versions freed: ID, version (10, R268) reset empty -/
  freedPatches : List (Nat × Nat) := []
  deriving DecidableEq, Repr, Inhabited

/-- Page states; 3 bits (08, R188). -/
inductive PageSt where
  | free | active | shared | cowPending | reclaim | poisoned
  deriving DecidableEq, Repr, Inhabited

/-- A page directory entry; 64 bits (08, R188). -/
structure Page where
  /-- STATE; 3 bits (08, R188) reset FREE -/
  st : PageSt := .free
  /-- OWNER; 4 bits (08, R188) reset 0; none while unassigned -/
  owner : Option Nat := none
  /-- KEYGEN; 1 bit (08, R188) reset 0 -/
  keygen : Bool := false
  /-- GEN; 8 bits (08, R188) reset 0 -/
  gen : Byte := 0
  /-- REFCNT; 10 bits (08, R188) reset 0 -/
  refs : Nat := 0
  /-- BASE; 24 bits (08, R188) reset 0xFF_FFFF -/
  base : BitVec 24 := 0xFFFFFF
  /-- reclaim step of a page in RECLAIM (08, R208) reset 0 -/
  reclaimAt : Nat := 0
  /-- it entered RECLAIM from POISONED: its return to FREE clears the poison (08, R210); 1 bit reset 0 -/
  scrub : Bool := false
  deriving DecidableEq, Repr, Inhabited

/-- The KVP block (08, R214-R216). -/
structure Kvp where
  /-- directory entries by page ID (08, R188) -/
  dir : Tbl Page := []
  /-- roots by sequence slot (08, R193) -/
  roots : Tbl Root := []
  /-- list entries at (2 slot + copy) * 2,048 + j (08, R192) reset not VALID -/
  lists : Tbl ListEnt := []
  /-- KVP_DIR_SEL; 17 bits (08, R214) reset 0 -/
  dirSel : Nat := 0
  /-- KVP_POISON_PAGE: context and page once latched; 22 bits (08, R215) reset 0 -/
  poisonPage : Option (Nat × Nat) := none
  /-- KVP_FLAGS[c]; 5 bits W1C (08, R216) reset 0 -/
  flags : Tbl (BitVec 5) := []
  deriving DecidableEq, Repr, Inhabited

/-- Class of an accumulator (03, R68). -/
inductive Cls where
  | finite | posInf | negInf | nan
  deriving DecidableEq, Repr, Inhabited

/-- A Seam accumulator: 192-bit integer in units of 2^A, class, poison mark (03, R67, R68; 04, R85) reset 0. -/
structure Acc where
  sum : Int := 0
  cls : Cls := .finite
  poison : Bool := false
  deriving DecidableEq, Repr, Inhabited

/-- Rows of packed elements with their MX scales, each with its poison: a weight tile, or activation rows on a lane
(04, R82, R83, R91). -/
structure Slab where
  /-- format code (05, R110) -/
  fmt : Nat := 0
  /-- K positions, at most 128 -/
  k : Nat := 0
  /-- element bits of each row -/
  els : List (List (Nat × Bool)) := []
  /-- scale bytes of each row, one for 32 elements, of an MX format -/
  scales : List (List (Nat × Bool)) := []
  deriving DecidableEq, Repr, Inhabited

/-- S-engine states; 4 bits (04, R105). -/
inductive SState where
  | idle | run | waitCredit | waitFence | waitDma | stallFault | clockStep
  deriving DecidableEq, Repr, Inhabited

/-- A core (04, R103, R105; 05, R111). -/
structure Core where
  /-- ARR_CORE_STATUS.SSTATE; 4 bits (04, R105) reset IDLE -/
  sstate : SState := .idle
  /-- ARR_CORE_STATUS.LS_COLLIDE; 1 bit W1C (04, R105) reset 0 -/
  lsCollide : Bool := false
  /-- ARR_CORE_STATUS.POISON_OUT; 1 bit W1C (04, R105) reset 0 -/
  poisonOut : Bool := false
  /-- ARR_CORE_OP; 32 bits (04, R103) reset 0xFFFF_FFFF -/
  op : Word := 0xFFFFFFFF
  /-- engine queues M, V0, V1, X at 0-3, at most 8 descriptors each (04, R81) reset empty -/
  queues : Tbl (List Desc) := []
  /-- index of the next instruction of the segment (05, R111) reset 0 -/
  pc : Nat := 0
  /-- open loops, innermost first: instruction index of the LOOP and passes left (05, R111) reset empty -/
  loops : List (Nat × Nat) := []
  /-- what a CREDIT_WAIT or WAIT_DMA holds for: register or channel, count (05, R111) reset 0 -/
  waitOn : Nat := 0
  waitCount : Nat := 0
  /-- waits at a mode fence for this target, Press true (04, R97) reset none -/
  modeFence : Option Bool := none
  /-- waits at the step fence (05, R120); 1 bit reset 0 -/
  atFence : Bool := false
  /-- waits in a forced wash pause or for an urgent switch (05, R129, R130); 1 bit reset 0 -/
  paused : Bool := false
  /-- stalled by a translation fault of one of its engines: SSTATE reads STALL_FAULT (12, R330); 1 bit reset 0 -/
  stalled : Bool := false
  /-- die temperature at the latest OP_BEGIN, °C (13, R366) reset 0 -/
  temp : Int := 0
  /-- the M engine's active and shadow weight tiles; 128 K positions by 96 columns (04, R83) reset none -/
  active : Option Slab := none
  shadow : Option Slab := none
  /-- activation rows the west lane has brought and the M engine has not taken, oldest first (04, R91) reset empty -/
  west : List Slab := []
  deriving DecidableEq, Repr, Inhabited

/-- Array modes; 2 bits (04, R104). -/
inductive ArrMode where
  | split | press | fence
  deriving DecidableEq, Repr, Inhabited

/-- Phases of a context's step; 4 bits (05, R135). -/
inductive Phase where
  | idle | running | stepFence | checkExt | washPause | switchedOut | watchdog
  deriving DecidableEq, Repr, Inhabited

/-- ARR registers of a context (03, R71; 05, R134, R135). -/
structure ArrCtx where
  /-- ARR_SEAM_FLAGS; 5 bits W1C (03, R72) reset 0 -/
  seamFlags : BitVec 5 := 0
  /-- ARR_SEAM_LAST_OP; 32 bits (03, R71) reset 0xFFFF_FFFF -/
  seamLastOp : Word := 0xFFFFFFFF
  /-- ARR_STEP; 64 bits (05, R134) reset 0 -/
  step : Nat := 0
  /-- ARR_COMMIT; 64 bits, all ones before the first commit (05, R134) reset none -/
  commit : Option Nat := none
  /-- ARR_STEP_STATE.PHASE; 4 bits (05, R135) reset IDLE -/
  phase : Phase := .idle
  /-- ARR_STEP_STATE.HANDLE; 4 bits (05, R135) reset 0 -/
  handle : Nat := 0
  /-- ARR_STEP_STATE.CREDIT_FAULT; 1 bit W1C (05, R135) reset 0 -/
  creditFault : Bool := false
  /-- ARR_STEP_STATE.WDOG_EXPIRED; 1 bit W1C (05, R135) reset 0 -/
  wdogExpired : Bool := false
  /-- ARR_STEP_LAG_NS; 32 bits saturating (05, R134) reset 0 -/
  lagNs : Word := 0
  /-- ARR_STEP_LAG_MAX_NS; 32 bits RW (05, R134) reset 0 -/
  lagMaxNs : Word := 0
  /-- ARR_WDOG_LIMIT_US; 32 bits (05, R134) reset 0 -/
  wdogUs : Nat := 0
  deriving DecidableEq, Repr, Inhabited

/-- The ARR block and the compute fabric (04, 05). -/
structure Arr where
  /-- ARR_MODE.CTX_VALID and CTX; 1 + 4 bits (04, R104) reset 0 -/
  cur : Option Nat := none
  /-- ARR_MODE.MODE; 2 bits (04, R104) reset Split -/
  mode : ArrMode := .split
  /-- ARR_MODE.QCLK_EQUAL; 1 bit (04, R104) reset 0 -/
  qclkEqual : Bool := false
  /-- ARR_FENCE_LAST_NS; 32 bits saturating (04, R103) reset 0 -/
  fenceLastNs : Word := 0
  /-- ARR_FENCE_MAX_NS; 32 bits RW (04, R103) reset 0 -/
  fenceMaxNs : Word := 0
  /-- ARR_SCHED_POLICY.OPEN_MIN_PCT; 8 bits (05, R134) reset 0x0A -/
  openMinPct : Nat := 0x0A
  /-- cores 0-63 -/
  cores : Tbl Core := []
  /-- CREDIT[r] of core n at 32 n + r; 16 bits each (05, R123) reset 0 -/
  credits : Tbl Nat := []
  /-- hand-off buffers of the running image, in CREDITS order (05, R123) reset empty -/
  handoffs : List HandOff := []
  /-- Seam accumulators at ((2 core + bank) * 64 + row) * 96 + column (04, R84) reset 0 -/
  accs : Tbl Acc := []
  /-- registers of context c -/
  ctxs : Tbl ArrCtx := []
  /-- a forced wash pause is requested or under way (05, R129): activity, start of the pause -/
  pauseAct : Option WashAct := none
  pauseSince : Option Nat := none
  /-- an urgent switch is asked for, to this context (05, R130) reset none -/
  urgentTo : Option Nat := none
  /-- saved at an urgent switch: core n of context c at 64 c + n, its CREDIT[r] at 2048 c + 32 n + r, its hand-off
  buffers at c (05, R130) reset empty -/
  savedCores : Tbl Core := []
  savedCredits : Tbl Nat := []
  savedHandoffs : Tbl (List HandOff) := []
  /-- live bytes of the local stores and the Basket, and their poison, of context c (05, R130) reset empty -/
  savedCells : Tbl (List Host.Cell) := []
  savedPoison : Tbl (Tbl Bool) := []
  /-- operations of the running step whose results a direct PLL write has left undefined (04, R101) reset empty -/
  pressUndefined : List Nat := []
  /-- results of Press operations the running step has written: operation, key, bytes (04, R101) reset empty -/
  pressOut : List (Nat × Nat × Nat) := []
  deriving DecidableEq, Repr, Inhabited

/-- A queued DPP operation (06, R147). -/
structure DppOp where
  ctx : Nat := 0
  op : Nat := 0
  desc : List Byte := []
  /-- image to go on with (06, R156) -/
  image : Nat := 0
  deriving DecidableEq, Repr, Inhabited

/-- The DPP block (06, R157-R159). -/
structure Dpp where
  /-- operations queued, the running one first, at most 4 more (06, R147) reset empty -/
  queue : List DppOp := []
  /-- operations of contexts switched out inside a step, which start again on return (06, R156) reset empty -/
  saved : List DppOp := []
  /-- DPP_STATUS.BUSY; 1 bit (06, R158) reset 0 -/
  busy : Bool := false
  /-- DPP_STATUS.IMAGE of the running operation, and 0 while none runs; 16 bits (06, R158) reset 0 -/
  image : Nat := 0
  /-- DPP_FLAGS; 5 bits W1C (06, R159) reset 0 -/
  flags : BitVec 5 := 0
  /-- DPP_LAST_CYCLES; 32 bits (06, R157) reset 0 -/
  lastCycles : Word := 0
  /-- DPP_MAX_CYCLES; 32 bits RW (06, R157) reset 0 -/
  maxCycles : Word := 0
  /-- DRN_MSTEP at the latest DPP lockstep mismatch (06, R154) reset none -/
  lastLockstep : Option Nat := none
  deriving DecidableEq, Repr, Inhabited

/-- States of a patch slot; 2 bits (10, R267). -/
inductive PatchSt where
  | free | loading | ready | retiring
  deriving DecidableEq, Repr, Inhabited

/-- A patch slot (10, R265-R268, R274). -/
structure PatchSlot where
  st : PatchSt := .free
  owner : Nat := 0
  rank : Nat := 0
  pins : Nat := 0
  version : Nat := 0
  id : Nat := 0
  digest : List Byte := []
  /-- last step that read the slot (10, R268) -/
  lastRead : Option Nat := none
  /-- the package as copied: header, points and data (10, R265) reset empty -/
  pkg : Blob := {}
  deriving DecidableEq, Repr, Inhabited

/-- A grammar slot (10, R256, R273). -/
structure Gram where
  loaded : Bool := false
  owner : Nat := 0
  table : Blob := {}
  digest : List Byte := []
  deriving DecidableEq, Repr, Inhabited

/-- A queued TSU operation (10, R270). -/
structure TsuOp where
  ctx : Nat := 0
  op : Nat := 0
  desc : List Byte := []
  /-- positions selected so far: entry, index (10, R272) -/
  done : List (Nat × Nat) := []
  deriving DecidableEq, Repr, Inhabited

/-- The TSU block (10, R273-R275). -/
structure Tsu where
  /-- operations queued, the running one first, at most 4 more (10, R270) reset empty -/
  queue : List TsuOp := []
  /-- operations of contexts switched out inside a step, which go on after their return (10, R272) reset empty -/
  saved : List TsuOp := []
  /-- TSU_STATUS.BUSY; 1 bit (10, R274) reset 0 -/
  busy : Bool := false
  /-- TSU_STATUS.LANES; 16 bits (10, R274) reset 0 -/
  lanes : BitVec 16 := 0
  /-- TSU_SLOT_SEL patch slot; 9 bits (10, R273) reset 0 -/
  selPatch : Nat := 0
  /-- TSU_SLOT_SEL grammar slot; 6 bits (10, R273) reset 0 -/
  selGram : Nat := 0
  /-- patch slots 0-511 -/
  patches : Tbl PatchSlot := []
  /-- grammar slots 0-63 -/
  grams : Tbl Gram := []
  /-- sequence state at 2 slot + parity (10, R254) -/
  seqs : Tbl TsuSeq := []
  /-- TSU_FLAGS[c]; 7 bits W1C (10, R275) reset 0 -/
  flags : Tbl (BitVec 7) := []
  /-- DRN_MSTEP at the latest TSU lockstep mismatch (10, R272) reset none -/
  lastLockstep : Option Nat := none
  deriving DecidableEq, Repr, Inhabited

/-- A segment record in a record buffer (07, R160, R175): running maximum, sum and weighted values of a column. -/
structure AtnRec where
  ctx : Nat := 0
  op : Nat := 0
  entry : Nat := 0
  head : Nat := 0
  seg : Nat := 0
  col : Nat := 0
  m : Word := 0
  l : Word := 0
  o : List Word := []
  poison : Bool := false
  deriving DecidableEq, Repr, Inhabited

/-- The ATN block (07, R183-R185); segment records stay in the record buffers. -/
structure Atn where
  /-- ATN_STATUS.BUSY; 1 bit (07, R184) reset 0 -/
  busy : Bool := false
  /-- ATN_STATUS.CTX with CTX_VALID; 5 bits (07, R184) reset 0 -/
  ctx : Option Nat := none
  /-- ATN_STATUS.PLACEMENT; 1 bit (07, R184) reset 0 -/
  press : Bool := false
  /-- ATN_STATUS.OP; 16 bits (07, R184) reset 0 -/
  op : Nat := 0
  /-- ATN_FLAGS[c]; 4 bits W1C (07, R185) reset 0 -/
  flags : Tbl (BitVec 4) := []
  /-- ATN_LAST_OP[c]; 32 bits, all ones before any (07, R183) reset none -/
  lastOp : Tbl (Option Word) := []
  /-- records sent to a combining core: context, operation, entry, head, segment, column -> (m, l, o) (07, R160, R175) -/
  records : List AtnRec := []
  /-- those of contexts switched out inside a step, live bytes of theirs (05, R130; 07, R177) reset empty -/
  saved : List AtnRec := []
  /-- sparse bitmaps read by the running operations, by operation (07, R168) reset empty -/
  sparse : Tbl (List Byte) := []
  deriving DecidableEq, Repr, Inhabited

/-- A translation entry; 32 bits (12, R329). -/
structure Xlat where
  valid : Bool := false
  onDemand : Bool := false
  read : Bool := false
  write : Bool := false
  keygen : Bool := false
  weight : Bool := false
  frame : BitVec 17 := 0
  deriving DecidableEq, Repr, Inhabited

/-- Latest translation fault of a context (12, R345). -/
structure MmuFault where
  valid : Bool := false
  write : Bool := false
  cause : Nat := 0
  va : Nat := 0
  deriving DecidableEq, Repr, Inhabited

/-- Memories, translation and the MEM block (12). -/
structure Mem where
  /-- bytes of every memory, keyed as Ops.lean's address functions say (12, R310) reset 0, DESIGN CHOICE (log 3) -/
  cells : List Host.Cell := []
  /-- poison bits by 64-bit word, keyed address / 8 (12, R317) reset 0 -/
  poison : Tbl Bool := []
  /-- translation RAM, 262,144 entries (12, R328) -/
  xlat : Tbl Xlat := []
  /-- MEM_MMU_FAULT[c], _VA[c] (12, R345) reset 0 -/
  faults : Tbl MmuFault := []
  /-- MEM_STATUS.RINSE_BEHIND; 1 bit (12, R345) reset 0 -/
  rinseBehind : Bool := false
  /-- MEM_STATUS.RINSE_ON; 1 bit (12, R345) reset 0 -/
  rinseOn : Bool := false
  /-- MEM_STATUS.HBM_UP; 8 bits (12, R345) reset 0 -/
  hbmUp : Byte := 0
  /-- MEM_RINSE_PERIOD.SRAM_S; 16 bits (12, R344) reset 0x3C -/
  rinseSram : Nat := 0x3C
  /-- MEM_RINSE_PERIOD.HBM_MIN; 16 bits (12, R344) reset 0xF0 -/
  rinseHbm : Nat := 0xF0
  /-- MEM_RINSE_DONE passes and progress of HBM, in 256-byte units; 16 bits + position (12, R344) reset 0 -/
  rinsePasses : Nat := 0
  rinsePos : Nat := 0
  /-- time each background activity last made progress: Rinse of HBM, Rinse of SRAM, PHY calibration, telemetry; ns
  (05, R128) reset 0 -/
  washAt : Tbl Nat := []
  /-- MEM_UE_ADDR: kind and address once latched; 51 bits (12, R344) reset 0 -/
  ueAddr : Option (Nat × Nat) := none
  /-- MEM_FRAME_RETIRED; 32 bits (12, R344) reset 0 -/
  framesRetired : Nat := 0
  /-- frames of context memory retired, oldest first: the first 256 have a spare each (12, R321) reset empty -/
  retired : List Nat := []
  /-- uncorrectable words by frame: time of the latest, for the 24 h rule (12, R321) reset none -/
  frameUe : Tbl (Option Nat) := []
  /-- tags in quarantine: tag, end time (12, R332) reset empty -/
  quarantine : List (Nat × Nat) := []
  deriving DecidableEq, Repr, Inhabited

/-- States of a DMA channel; 4 bits (12, R347). -/
inductive ChSt where
  | idle | run | wait | halted | done
  deriving DecidableEq, Repr, Inhabited

/-- Error classes; 4 bits (12, R347). -/
inductive ErrClass where
  | none_ | bus | mmuFault | poison | chTimeout
  deriving DecidableEq, Repr, Inhabited

/-- A MOVE that is issued and not yet acknowledged (12, R338): instruction, index, transactions, loops around it. -/
structure OutMove where
  ins : List Byte := []
  index : Nat := 0
  tags : Nat := 0
  loops : List (Nat × Nat × Nat × Int × Int) := []
  /-- time of issue; ns (12, R332) -/
  since : Nat := 0
  deriving DecidableEq, Repr, Inhabited

/-- A DMA channel (12, R339-R347); TAGS is the transactions of `out`, at most the channel's own (12, R331, R347). -/
structure Chan where
  /-- STATE; 4 bits (12, R347) reset IDLE -/
  st : ChSt := .idle
  /-- CTX; 4 bits (12, R347) reset 0 -/
  ctx : Nat := 0
  /-- OWNED; 1 bit (12, R347) reset 0 -/
  owned : Bool := false
  /-- ABORTED; 1 bit (12, R347) reset 0 -/
  aborted : Bool := false
  /-- CMD_IGNORED; 1 bit W1C (12, R347) reset 0 -/
  cmdIgnored : Bool := false
  /-- WAIT_KIND; 3 bits (12, R347) reset 0 -/
  waitKind : Nat := 0
  /-- object and count of the pending WAIT (12, R336) reset 0 -/
  waitObj : Nat := 0
  waitCount : Nat := 0
  /-- MOVEs issued and not yet acknowledged, oldest first (12, R338) reset empty -/
  out : List OutMove := []
  /-- progress count; 16 bits saturating (12, R346) reset 0 -/
  progress : Nat := 0
  /-- instruction index; 16 bits (12, R346) reset 0 -/
  index : Nat := 0
  /-- DMA_CH_ERR.CLASS; 4 bits (12, R347) reset none -/
  cls : ErrClass := .none_
  /-- DMA_CH_ERR.WRITE; 1 bit (12, R347) reset 0 -/
  errWrite : Bool := false
  /-- DMA_CH_ERR.SPACE; 8 bits (12, R347) reset 0 -/
  errSpace : Nat := 0
  /-- DMA_CH_ERR.INDEX; 12 bits (12, R347) reset 0 -/
  errIndex : Nat := 0
  /-- DMA_CH_ADDR; 48 bits (12, R346) reset 0 -/
  errAddr : Nat := 0
  /-- DMA_CH_OFFSET; 32 bits (12, R346) reset 0 -/
  offset : Nat := 0
  /-- open loops, innermost first: index of the LOOP, target, iteration, source and destination advances (12, R335) -/
  loops : List (Nat × Nat × Nat × Int × Int) := []
  /-- loop iteration counts latched at a halt (12, R341) reset empty -/
  loopLatch : List Nat := []
  /-- the latest MOVE carries BARRIER and is not yet acknowledged (12, R338); 1 bit reset 0 -/
  moving : Bool := false
  /-- number of instructions of the program (12) reset 0 -/
  count : Nat := 0
  /-- doorbell word of the channel and its mask; 32 bits each (16, R439) reset 0, DESIGN CHOICE (log 39) -/
  bell : Word := 0
  bellMask : Word := 0
  /-- time of its latest access or instruction; ns (12, R340) reset 0 -/
  lastAt : Nat := 0
  deriving DecidableEq, Repr, Inhabited

/-- The DMA block (12, R346). -/
structure Dma where
  /-- DMA_TIMEOUT_MS; 10 bits (12, R346) reset 0x0A -/
  timeoutMs : Nat := 0x0A
  /-- channels 0-271 -/
  chans : Tbl Chan := []
  /-- DMA_EOC bits by channel; 272 bits W1C (12, R346) reset 0 -/
  eoc : Tbl Bool := []
  /-- chip event registers 0-63 (12, R336) reset 0 -/
  events : Tbl Nat := []
  /-- saved at an urgent switch: channel i of context c at 272 c + i (05, R130; 12, R343) reset empty -/
  savedChans : Tbl Chan := []
  deriving DecidableEq, Repr, Inhabited

/-- A bin of the mismatch map (13, R366, R367). -/
structure Bin where
  count : Word := 0
  sat : Bool := false
  raised : Bool := false
  lastAt : Nat := 0
  deriving DecidableEq, Repr, Inhabited

/-- A core as the Darner sees it (13, R371, R372). -/
structure DrnCore where
  confirmed : Bool := false
  /-- DRN_MSTEP of minorities within the window, newest first -/
  recent : List Nat := []
  minCnt : Word := 0
  /-- minorities since manufacture, from the lifetime summary (13, R370) -/
  total : Nat := 0
  last : Nat := 0
  deriving DecidableEq, Repr, Inhabited

/-- The latest mismatch (13, R373). -/
structure DrnLast where
  valid : Bool := false
  verdict : Nat := 0
  rep : Bool := false
  ctx : Nat := 0
  core : Nat := 0
  group : Nat := 0
  op : Nat := 0
  bin : Nat := 0
  step : Nat := 0
  deriving DecidableEq, Repr, Inhabited

/-- The DRN block (13, R371-R373). -/
structure Drn where
  /-- DRN_STATUS.DARNER_DRAIN; 1 bit (13, R372) reset 0 -/
  drain : Bool := false
  /-- DRN_STATUS.PATH_CONFIRMED; 1 bit (13, R372) reset 0 -/
  pathConfirmed : Bool := false
  /-- DRN_CONFIG.DIV; 11 bits (13, R372) reset 0x040 -/
  div : Nat := 0x40
  /-- DRN_CONFIG.ROT_FLOOR; 7 bits (13, R372) reset 0x10 -/
  rotFloor : Nat := 0x10
  /-- DRN_CONFIG.RAISED_DIV; 7 bits (13, R372) reset 0x08 -/
  raisedDiv : Nat := 0x08
  /-- DRN_RELEASE.RELEASE_STEPS; 32 bits (13, R371) reset 0x2710 -/
  release : Nat := 0x2710
  /-- values in effect for steps begun since: DIV, ROT_FLOOR, RAISED_DIV (13, R369) reset as above -/
  divNow : Nat := 0x40
  rotFloorNow : Nat := 0x10
  raisedDivNow : Nat := 0x08
  /-- DRN_MAP_SEL; 11 bits (13, R371) reset 0 -/
  mapSel : Nat := 0
  /-- map bins 0-2,047 -/
  map : Tbl Bin := []
  /-- cores 0-63 -/
  cores : Tbl DrnCore := []
  last : DrnLast := {}
  /-- DRN_MSTEP of path events within the window, newest first (13, R357) reset empty -/
  pathRecent : List Nat := []
  /-- earlier mismatches: operation, tile, core, for REPEAT (13, R357) reset empty -/
  history : List (Nat × Nat × Nat) := []
  /-- steps with eligible tiles of check unit 4 core + group (13, R351) reset 0 -/
  unitSteps : Tbl Nat := []
  /-- rotation samples still to take from unit u in the running step of context c, at 16 u + c (13, R351) reset 0 -/
  unitDue : Tbl Nat := []
  /-- unit u has produced an eligible tile in the running step of context c, at 16 u + c (13, R351); 1 bit reset 0 -/
  unitSeen : Tbl Bool := []
  deriving DecidableEq, Repr, Inhabited

/-- Keys of a context as the SEC block shows them; the key bits are the RTP's (14, R374, R397). -/
structure CtxKey where
  valid : Bool := false
  gen : Nat := 0
  rotating : Bool := false
  /-- the next generation is loaded and waits for the context's step boundary (14, R381) -/
  pendingGen : Bool := false
  deriving DecidableEq, Repr, Inhabited

/-- The set the module belongs to (14, R385). -/
structure DevSet where
  id : BitVec 64 := 0
  gen : Word := 0
  members : List (BitVec 128) := []
  owner : BitVec 384 := 0
  deriving DecidableEq, Repr, Inhabited

/-- An ATTEST report (14, R392, R394): what it says, with the layout inside the blocks left to the RTP. -/
structure Report where
  scope : Nat := 0xFF
  nonce : List Byte := []
  time : BitVec 64 := 0
  len : Nat := 0
  /-- block index and contents -/
  blocks : List (Nat × List Byte) := []
  /-- the log, where it was asked for -/
  log : List LogEntry := []
  deriving DecidableEq, Repr, Inhabited

/-- Identities and secrets of the RTP (14, R374, R375): the DeviceID pairs, CDI_1, the Alias pairs, the sealing key; each
pair ECDSA P-384 then ML-DSA-87; no command reads them. -/
structure Identity where
  /-- the two DeviceID key pairs (14, R375) -/
  deviceId : List (List Byte) := []
  /-- CDI_1 (14, R375) -/
  cdi1 : List Byte := []
  /-- the two Alias key pairs (14, R375) -/
  pairs1 : List (List Byte) := []
  /-- Alias certificates signed by the DeviceID keys (14, R376) -/
  certs : List (List Byte) := []
  /-- the sealing key (14, R375) -/
  sealing : List Byte := []
  deriving DecidableEq, Repr, Inhabited

/-- The SEC block (14, R396, R397). -/
structure Sec where
  /-- the RTP's identities, made at RTP_BOOT (14, R375) reset none -/
  ident : Identity := {}
  /-- SHA-384 of the running RTP firmware (14, R375, R392) reset 0 -/
  rtpDigest : BitVec 384 := 0
  /-- SHA-384 of the subordinate firmware, in bytes (14, R392) reset empty -/
  subDigest : List Byte := []
  /-- SEC_STATUS.RTP_LATE; 1 bit W1C (14, R397) reset 0 -/
  rtpLate : Bool := false
  /-- SEC_MODULE_ID; 128 bits, loaded at RTP_BOOT (14, R396) reset 0 -/
  moduleId : BitVec 128 := 0
  /-- SEC_RTP_SVN; 32 bits, loaded at RTP_BOOT (14, R396) reset 0 -/
  svn : Word := 0
  /-- version of the RTP firmware, for IDENTIFY; 32 bits (15, R418) reset 0 -/
  rtpVer : Word := 0
  /-- the set held: SET_ID, SET_GEN, SET_MEMBERS, SET_MEMBER (14, R396) reset none -/
  set_ : Option DevSet := none
  /-- SEC_IDE_CTRL; 17 bits (14, R396) reset 0 -/
  ideCtrl : BitVec 17 := 0
  /-- SEC_IDE_SECURE; 17 bits (14, R396) reset 0 -/
  ideSecure : BitVec 17 := 0
  /-- SEC_IDE_FAIL; 17 bits W1C (14, R396) reset 0 -/
  ideFail : BitVec 17 := 0
  /-- SEC_CTX_KEY[c], SEC_CTX_GEN[c] (14, R396) -/
  keys : Tbl CtxKey := []
  /-- the unit the re-encryption pass has in hand: context, entry or page, 256-byte units moved (14, R383) reset none -/
  pass : Option (Nat × Bool × Nat × Nat) := none
  /-- the ATTEST report last written to host memory (14, R394) reset none; the MODEL's own observation -/
  report : Report := {}
  deriving DecidableEq, Repr, Inhabited

/-- Settings of a video session (11, R281). -/
structure VidCfg where
  kind : Nat := 0
  prio : Nat := 0
  buffers : Nat := 0
  width : Nat := 0
  height : Nat := 0
  fmt : Nat := 0
  hashCheck : Bool := false
  ctu64 : Bool := false
  opPoint : Nat := 0
  row : Bool := false
  qpI : Nat := 0
  qpP : Nat := 0
  qpMin : Nat := 0
  qpMax : Nat := 0
  capBits : Nat := 0
  bitrate : Nat := 0
  interval : Nat := 0
  idrPeriod : Nat := 0
  iRatio : Nat := 0
  sliceRows : Nat := 0
  gmvLine : Option (Fin 16) := none
  dx : Int := 0
  dy : Int := 0
  ppm : Nat := 0
  deriving DecidableEq, Repr, Inhabited

/-- A submission (11, R288). -/
structure VidSub where
  tag : Nat := 0
  /-- 0 DECODE_AU, 1 ENCODE, 4 EOS -/
  kind : Nat := 0
  peg : Option Nat := none
  late : Bool := false
  /-- trigger and SEQ of the capture it names; CAPTURE_LATEST without any capture names none (11, R292) -/
  capture : Option (Nat × Word) := none
  captureStale : Bool := false
  forceIdr : Bool := false
  releaseSource : Bool := false
  source : Nat := 0
  addr : BitVec 64 := 0
  len : Nat := 0
  roi : List (List Byte) := []
  pictures : Nat := 0
  /-- flags its pictures gathered for AU_DONE -/
  flags : Nat := 0
  /-- the session's settings when it was accepted (11, R282) -/
  cfg : VidCfg := {}
  order : Nat := 0
  deriving DecidableEq, Repr, Inhabited

/-- A frame buffer of a session (11, R284, R285). -/
structure FrameBuf where
  /-- the reference mark that stands on it (11, R285) -/
  mark : Option RefMark := none
  /-- place in the session's decode order of the picture it holds, for R286, R295, R297; 0 without one -/
  markOrder : Nat := 0
  /-- waits for output -/
  output : Bool := false
  /-- consumer references of the host and of jobs -/
  hostRefs : Nat := 0
  jobRefs : Nat := 0
  /-- a pipe writes or reads it -/
  piped : Bool := false
  /-- capture of its frame descriptor: trigger, SEQ, position, PEG_TIME -/
  capture : Option (Nat × Word × Pos × BitVec 64) := none
  /-- the picture it holds, without its pixels, the tag of its submission and its flags (11, R294, R295) -/
  pic : PicResult := {}
  tag : Nat := 0
  flags : Nat := 0
  deriving DecidableEq, Repr, Inhabited

/-- Session states; 3 bits (11, R308). -/
inductive SessSt where
  | idle | running | waitBuffer | waitQueue | closing
  deriving DecidableEq, Repr, Inhabited

/-- A picture as the encode pipe codes it (11, R301-R306). -/
structure EncPic where
  /-- what it is coded from (11, R301) -/
  input : EncIn := {}
  /-- its CTUs as coded, in raster order (11, R305) -/
  ctus : List CtuCode := []
  /-- bytes of its slices (11, R307) -/
  slices : List (List Byte) := []
  /-- bits of each CTU row (11, R306) -/
  rowBits : List Nat := []
  /-- CTUs whose bits met the cap and were coded as skipped (11, R303) -/
  skipCtus : Nat := 0
  deriving DecidableEq, Repr, Inhabited

/-- A video session (11, R280-R308). -/
structure Sess where
  opened : Bool := false
  /-- which opening of a session this is, over the module (11, R293) -/
  uid : Nat := 0
  /-- its STATE (11, R308) -/
  st : SessSt := .idle
  /-- context that opened it (11, R280) -/
  ctx : Nat := 0
  /-- configuration it was opened with (11, R281, R282) -/
  cfg : VidCfg := {}
  /-- submissions queued or in progress, oldest first (11, R288) -/
  subs : List VidSub := []
  /-- frame buffers by index -/
  bufs : Tbl FrameBuf := []
  /-- context virtual address of buffer 0, and 2 MiB pages its buffers take (11, R284; 12, R330) -/
  base : Nat := 0
  pages : Nat := 0
  /-- encoded pictures so far; pictures since the last IDR (11, R294, R301) -/
  encoded : Nat := 0
  sinceIdr : Nat := 0
  /-- the next picture is coded IDR (11, R299) -/
  forceIdr : Bool := false
  /-- starting QPs of the next I and P picture in ROW mode, none before the first (11, R301) -/
  nextQpI : Option Nat := none
  nextQpP : Option Nat := none
  /-- capture time of the previous source (11, R304) -/
  prevCapture : Option (BitVec 64) := none
  /-- decode order of the last IRAP or key frame (11, R295 DERIVED) -/
  irapSeq : Nat := 0
  /-- coding units of the previous encoded picture (11, R305) -/
  prevCus : List Cu := []
  /-- the picture of its oldest submission was abandoned and starts again (11, R300) -/
  restart : Bool := false
  /-- waits for an IRAP with a conforming header (11, R297) -/
  discarding : Bool := false
  markSeq : Nat := 0
  deriving DecidableEq, Repr, Inhabited

/-- A codec pipe (11, R307, R308). -/
structure Pipe where
  /-- VID_PIPE.BUSY; 1 bit (11, R308) reset 0 -/
  busy : Bool := false
  session : Nat := 0
  enc : Bool := false
  ctx : Nat := 0
  /-- PHASE; 4 bits (11, R308) reset IDLE: 0 IDLE, 1 RUN, 2 CONCEAL, 3 RESET -/
  phase : Nat := 0
  /-- ROW; 9 bits (11, R308) reset 0 -/
  row : Nat := 0
  since : Nat := 0
  /-- watchdog limit of the picture, ns (11, R299) -/
  limit : Nat := 0
  /-- buffer being written (decode) -/
  target : Nat := 0
  /-- encode: picture is I; slices written; bits so far; GMV in quarter pixels -/
  intra : Bool := false
  forcedIdr : Bool := false
  slices : Nat := 0
  bits : Nat := 0
  gmvX : Int := 0
  gmvY : Int := 0
  startQp : Nat := 0
  /-- the picture as coded -/
  coded : EncPic := {}
  deriving DecidableEq, Repr, Inhabited

/-- The VID block (11, R307-R309). -/
structure Vid where
  /-- VID_CLK_MHZ; 32 bits, loaded at stage PLLS (11, R307) reset 0 -/
  clkMhz : Nat := 0
  /-- decode sessions 0-255, encode sessions at 256 + n -/
  sess : Tbl Sess := []
  /-- pipes 0, 1 decode, 2 encode -/
  pipes : Tbl Pipe := []
  /-- VID_FLAGS[c]; 8 bits W1C (11, R309) reset 0 -/
  flags : Tbl Byte := []
  /-- records kept because a context's event queue is full or off, oldest first (11, R293; 15, R404) -/
  kept : Tbl (List VidRec) := []
  /-- submissions accepted so far, for the submission order (11, R291) -/
  subSeq : Nat := 0
  /-- sessions opened so far -/
  opens : Nat := 0
  deriving DecidableEq, Repr, Inhabited

/-- A mailbox slot with its tag (16, R435, R456). -/
structure Slot where
  bytes : List Byte := []
  stamped : Bool := false
  cls : Nat := 0
  index : Nat := 0
  arrival : BitVec 16 := 0
  /-- of a peer message: its MAC verifies (16, R450) -/
  macOk : Bool := false
  deriving DecidableEq, Repr, Inhabited

/-- The MBX block and the internal doorbell words (16, R434-R439, R455). -/
structure Mbx where
  /-- mailboxes 0-23, at most 4 slots each, oldest first (16, R435) reset empty -/
  boxes : Tbl (List Slot) := []
  /-- MBX_OVF; 24 bits W1C (16, R455) reset 0 -/
  ovf : BitVec 24 := 0
  /-- MBX_STAGE[i], i = 0-15; 32 bits (16, R455) reset 0 -/
  stage : Tbl Word := []
  /-- arrival counts by mailbox; 16 bits wrapping (16, R435) reset 0 -/
  arrivals : Tbl (BitVec 16) := []
  /-- internal doorbell words: 0 core A, 1 core B, 2 RTP, 3 codec, 4 Peg unit, 5-8 link controllers (16, R439) reset 0 -/
  bells : Tbl Word := []
  /-- masks of those words; 32 bits each (16, R439) reset 0, DESIGN CHOICE (log 39) -/
  bellMasks : Tbl Word := []
  deriving DecidableEq, Repr, Inhabited

/-- Port states; 4 bits (16, R458). -/
inductive PortSt where
  | disabled | cableInit | train | up | retry
  deriving DecidableEq, Repr, Inhabited

/-- A Dyter port and its cable (16, R443, R458). -/
structure Port where
  st : PortSt := .disabled
  enabled : Bool := false
  allowX4 : Bool := false
  lanes : Byte := 0
  /-- retry delay in s (16, R443) reset 1, DEDUCED from 'waits 1 s, doubling' -/
  delay : Nat := 1
  /-- time the state was entered; ns -/
  since : Nat := 0
  present : Bool := false
  accepted : Bool := false
  alarm : Bool := false
  maxPower : Byte := 0
  temp : Byte := 0
  deriving DecidableEq, Repr, Inhabited

/-- Peer entry states (16, R441). -/
inductive PeerSt where
  | empty | seen | up | down
  deriving DecidableEq, Repr, Inhabited

/-- A frame this module sends: type and virtual channel (16, R447), epoch context, step and replay generation, and the
frame sequence a MBX_NAK answers. -/
structure OutFrame where
  typ : Nat := 0
  vc : Nat := 0
  ctx : Nat := 0
  step : Nat := 0
  gen : Nat := 0
  answers : Word := 0
  /-- payload length where a rule gives it, else left open (log 146) -/
  len : Option Nat := none
  deriving DecidableEq, Repr, Inhabited

/-- An entry of the peer table (16, R441, R445). -/
structure Peer where
  st : PeerSt := .empty
  id : BitVec 128 := 0
  port : Fin 4 := 0
  tag : Nat := 0
  minor : Nat := 0
  gen : Byte := 0
  member : Bool := false
  encrypted : Bool := false
  /-- highest authenticated message counter (16, R450) -/
  counter : Nat := 0
  lastHeard : Nat := 0
  lastSent : Nat := 0
  missed : Nat := 0
  /-- frame sequences sent (16, R447) -/
  txSeq : Word := 0
  rxSeq : Word := 0
  /-- index under which the peer sends in the closed configuration -/
  index : Nat := 0xFFFF
  /-- initial credits of the session's four channels (16, R448) -/
  credits : List Nat := [0, 0, 0, 0]
  /-- initial credits of the set retired last, none before the first (01, R28) -/
  retired : Option (List Nat) := none
  /-- epochs received and not yet confirmed: context, step, replay generation (13, R364) -/
  provisional : List (Nat × Nat × Nat) := []
  /-- epochs received while no step ran, which the next step to begin reads: context, step (13, R364; log 43) -/
  unread : List (Nat × Nat) := []
  /-- highest replay generation revoked, by epoch: messages at or below it are discarded (13, R364) -/
  revoked : List (Nat × Nat × Nat) := []
  /-- own epochs kept for a resend: context, step, committed, replay generation (16, 'Epochs across a session') -/
  sent : List (Nat × Nat × Bool × Nat) := []
  /-- frames that wait for a credit of their channel, oldest first (16, R448) -/
  waiting : List OutFrame := []
  /-- the frame sent last, and its header's bytes (16, R447); the MODEL's own observation -/
  lastTx : OutFrame := {}
  lastHead : List Byte := []
  /-- key exchanges the session has run, one at its securing and one after 2^32 frames in a direction (14, R389) -/
  exchanges : Nat := 0
  deriving DecidableEq, Repr, Inhabited

/-- The LNK block (16, R457, R458). -/
structure Lnk where
  /-- LNK_MODE.OPEN; 1 bit (16, R457) reset 0 -/
  open_ : Bool := false
  /-- LNK_MODE.OWN_INDEX; 5 bits (16, R457) reset 0 -/
  ownIndex : Nat := 0
  /-- identity table, index 0-31, all zeros clear (16, R440, R453) reset 0 -/
  table : Tbl (BitVec 128) := []
  /-- ports 0-3 -/
  ports : Tbl Port := []
  /-- peer entries 0-255 -/
  peers : Tbl Peer := []
  deriving DecidableEq, Repr, Inhabited

/-- Health states of a control core; 4 bits (17, R465, R487). -/
inductive Health where
  | off | booting | active | standbyOk | standbyFail | failed | recoveryRom
  deriving DecidableEq, Repr, Inhabited

/-- A control core (17, R486, R487). -/
structure CtlCore where
  health : Health := .off
  failCycles : Nat := 0
  lastFail : Nat := 0
  fwVer : Word := 0
  /-- SHA-384 of the control firmware it runs (14, R392) -/
  digest : BitVec 384 := 0
  /-- start of the current run of passing cycles; ns, none when there is none (17, R465) -/
  cleanSince : Option Nat := none
  /-- times it lost the interlock by heartbeat in the last 24 h: HB_LOSSES counts them (17, R465, R487) -/
  losses : List Nat := []
  deriving DecidableEq, Repr, Inhabited

/-- How the successor restored state; 2 bits (17, R487). -/
inductive Restore where
  | store | mirror | lost | none_
  deriving DecidableEq, Repr, Inhabited

/-- Staging states (17, R483). -/
inductive Staging where
  | empty | receiving | valid | invalid | pending | rejected
  deriving DecidableEq, Repr, Inhabited

/-- Update phases (17, R483). -/
inductive UpdPhase where
  | none_ | soakStandby | soakActive | awaitStart | rolledBack
  deriving DecidableEq, Repr, Inhabited

/-- The CTL block (17, R486, R487). -/
structure Ctl where
  /-- OWNER of the interlock; 2 bits (17, R459) reset NONE -/
  owner : Option CoreAB := none
  /-- core that wrote the handover store last: the owner, or in a gap the outgoing core (17, R469; 14, R394) reset A -/
  writer : CoreAB := .a
  /-- accesses by the core that is not the owner, which the interlock counts (17, R459) reset 0 -/
  refused : Nat := 0
  /-- successor named at release (17, R460) reset none -/
  successor : Option CoreAB := none
  /-- CTL_STATUS.GAP; 1 bit (17, R487) reset 0 -/
  gap : Bool := false
  /-- the second gap of R464; 1 bit reset 0 -/
  secondGap : Bool := false
  /-- time of the release; ns (17, R461) reset 0 -/
  gapSince : Nat := 0
  /-- CTL_STATUS.PLANNED; 1 bit (17, R487) reset 0 -/
  planned : Bool := false
  /-- a planned handover has begun: no new step begins (17, R468); 1 bit reset 0 -/
  plannedDue : Bool := false
  /-- handover store formats of the running image: written, oldest read; 8 bits each, of the image CORE_A starts (17,
  R477, R481) reset 0 -/
  storeFmt : Byte := 0
  oldestStoreFmt : Byte := 0
  /-- CTL_STATUS.RESTORE; 2 bits (17, R487) reset 0b11 -/
  restore : Restore := .none_
  /-- CTL_STATUS.UPDATE_PHASE; 4 bits (17, R487) reset 0 -/
  phase : UpdPhase := .none_
  phaseSince : Nat := 0
  /-- CTL_POLICY.PREFERRED; 1 bit (17, R487) reset A -/
  preferred : CoreAB := .a
  /-- CTL_POLICY.TAKEBACK_MIN; 11 bits (17, R487) reset 0x00A -/
  takebackMin : Nat := 0x00A
  /-- CTL_GAP_LAST_US; 32 bits (17, R486) reset 0 -/
  gapLastUs : Word := 0
  /-- CTL_GAP_MAX_US; 32 bits RW (17, R486) reset 0 -/
  gapMaxUs : Word := 0
  /-- CTL_MIRROR_STEP; 64 bits, all ones before the first (17, R486) reset none -/
  mirrorStep : Option Nat := none
  /-- tracked requests in that half: context, ID, sequence number of the command (17, R471, R472) reset empty -/
  mirrorReqs : List (Nat × Nat × Word) := []
  /-- CTL_BOOT.PENDING; 1 bit (17, R487) reset 0 -/
  pending : Bool := false
  /-- CTL_BOOT.ROLLBACK; 1 bit (17, R487) reset 0 -/
  rollback : Bool := false
  /-- CTL_BOOT.PRIMARY, set for slot B; 1 bit (17, R487) reset 0 -/
  primaryB : Bool := false
  /-- CTL_BOOT.SETTINGS_FMT; 8 bits (17, R487) reset 0 -/
  settingsFmt : Byte := 0
  /-- CTL_BOOT.DEFAULTED; 1 bit (17, R487) reset 0 -/
  defaulted : Bool := false
  /-- CTL_BOOT.MIGRATED; 1 bit (17, R487) reset 0 -/
  migrated : Bool := false
  /-- CTL_STAGE staging state; 4 bits (17, R486) reset EMPTY -/
  staging : Staging := .empty
  /-- CTL_STAGE KiB received; 17 bits (17, R486) reset 0 -/
  stagedKib : Nat := 0
  /-- the staged bundle (17, R477) reset none -/
  staged : Option Bundle := none
  /-- COMMIT_SVN was asked for by FW_ACTIVATE (17, R478); 1 bit reset 0 -/
  commitSvn : Bool := false
  /-- the bundle that each boot slot's component came from, slot A's type `t` at `t`, slot B's at 8 + t (17, R474, R475);
  reset: the images the module was made with, whose contents a stage brings -/
  boot : Tbl (Option Bundle) := []
  /-- the fuse count that commits have raised so far (17, R478) reset 0, the count the module was made with being
  the stage's to bring -/
  fuses : Word := 0
  /-- SOAK_STANDBY cycles passed (17, R482) reset 0 -/
  soakCycles : Nat := 0
  /-- core A at 0, core B at 1 -/
  cores : Tbl CtlCore := []
  /-- time of the owner's latest heartbeat; ns (17, R460) reset 0 -/
  lastBeat : Nat := 0
  /-- FW_STAGE in progress: chain length, hops good, first failed hop and cause, reports received, last frame time, own
  verdict (17, R479) -/
  chain : Nat := 0
  hopsGood : Nat := 0
  hopFail : Option (Nat × Nat) := none
  reported : List Nat := []
  /-- peer entries that relay frames come from and go to (17, R480) -/
  relayUp : Option Nat := none
  relayDown : Option Nat := none
  lastFrame : Nat := 0
  ownVerified : Bool := false
  /-- recovery: a verified bundle was written, reset due at this time (17, R484) -/
  recoveryAt : Option Nat := none
  deriving DecidableEq, Repr, Inhabited

/-- The CLK block (18, R512, R513). -/
structure Clk where
  /-- CLK_STATUS.XTAL_OK; 1 bit (18, R513) reset 0 -/
  xtalOk : Bool := false
  /-- CLK_STATUS.ON_ITO; 1 bit (18, R513) reset 1 -/
  onIto : Bool := true
  /-- CLK_STATUS.LOCK; 8 bits (18, R513) reset 0 -/
  lock : Byte := 0
  /-- CLK_CTL_SRC.BUSY; 1 bit (18, R513) reset 0 -/
  ctlBusy : Bool := false
  /-- CLK_CTL_SRC.SEL; 2 bits (18, R513) reset 0b00 -/
  ctlSel : Nat := 0
  /-- multiplexers 0-6 switching: the selection to come (18, R490) reset none -/
  muxTo : Tbl (Option Nat) := []
  /-- multiplexers 1-6: 0 ITO forced, 1 XTAL, 2 PLL (18, R490, R493); reset XTAL, DESIGN CHOICE (log 8) -/
  muxSel : Tbl Nat := []
  /-- CLK_QPLL[q].SETTING; 6 bits (18, R513) reset 0 -/
  qpll : Tbl Nat := []
  /-- PLL BUSY bits: 0-3 quadrants, 4 NoC, 5 codec; 1 bit each (18, R513) reset 0 -/
  pllBusy : Byte := 0
  /-- CLK_NOC_PLL.SETTING; 6 bits (18, R512) reset 0 -/
  nocPll : Nat := 0
  /-- CLK_CODEC_PLL.SETTING; 6 bits (18, R512) reset 0 -/
  codecPll : Nat := 0
  /-- CLK_FMEAS_CTRL.START; 1 bit (18, R513) reset 0 -/
  fStart : Bool := false
  /-- CLK_FMEAS_CTRL.DONE; 1 bit (18, R513) reset 0 -/
  fDone : Bool := false
  /-- CLK_FMEAS_CTRL.REF; 1 bit (18, R513) reset 0 -/
  fRef : Bool := false
  /-- CLK_FMEAS_CTRL.SRC; 4 bits (18, R513) reset 0 -/
  fSrc : Nat := 0
  /-- CLK_FMEAS_CTRL.WINDOW; 10 bits (18, R513) reset 0 -/
  fWindow : Nat := 0
  /-- CLK_FMEAS_RESULT; 32 bits (18, R512) reset 0 -/
  fResult : Word := 0
  /-- CLK_FAIL.XTAL_LOST; 1 bit W1C (18, R512) reset 0 -/
  xtalLost : Bool := false
  /-- CLK_FAIL.HUNG; 7 bits W1C (18, R512) reset 0 -/
  hung : BitVec 7 := 0
  /-- PLL settings on entry to DOZE, restored at exit (18, R510): quadrants, NoC, codec -/
  saved : List Nat := []
  deriving DecidableEq, Repr, Inhabited

/-- The PWR block (18, R514, R515). -/
structure Pwr where
  /-- PWR_STATUS.BRAKE; 1 bit (18, R515) reset 0 -/
  brake : Bool := false
  /-- PWR_STATUS.PWR_WARN; 1 bit (18, R515) reset 0 -/
  warn : Bool := false
  /-- PWR_STATUS.COOLANT_FAULT; 1 bit (18, R515) reset 0 -/
  coolant : Bool := false
  /-- PWR_STATUS.THROTTLE; 1 bit (18, R515) reset 0 -/
  throttle : Bool := false
  /-- PWR_STATUS.ORPHAN; 1 bit (18, R515) reset 0 -/
  orphan : Bool := false
  /-- PWR_STATUS.ORPHAN_HOLD; 1 bit (18, R515) reset 0 -/
  orphanHold : Bool := false
  /-- PWR_STATUS.STEAM; 1 bit (18, R515) reset 0 -/
  steam : Bool := false
  /-- PWR_STATUS.DUTY_HOLD; 1 bit (18, R515) reset 0 -/
  dutyHold : Bool := false
  /-- PWR_STATUS.DOZE_THERMAL; 1 bit (18, R515) reset 0 -/
  dozeThermal : Bool := false
  /-- PWR_STATUS.LIMIT; 4 bits (18, R515) reset 0x8 -/
  limit : Nat := 8
  /-- PWR_CAP.CAP in W; 10 bits (18, R514) reset 0x258 -/
  cap : Nat := 0x258
  /-- PWR_CAP.ORPHAN in W; 10 bits (18, R514) reset 0x140 -/
  orphanCap : Nat := 0x140
  /-- PWR_RAMP.UP in W/ms; 7 bits (18, R514) reset 0x19 -/
  up : Nat := 0x19
  /-- PWR_RAMP.DOWN in W/ms; 7 bits (18, R514) reset 0x19 -/
  down : Nat := 0x19
  /-- PWR_LIMITS.WARN_CAP; 10 bits (18, R514) reset 0x168 -/
  warnCap : Nat := 0x168
  /-- PWR_LIMITS.INLET_MAX; 8 bits (18, R514) reset 0x2D -/
  inletMax : Nat := 0x2D
  /-- PWR_LIMITS.T_THROTTLE; 8 bits (18, R514) reset 0x5F -/
  tThrottle : Nat := 0x5F
  /-- ceiling in mW (PWR_TARGET_W in W); (18, R498, R514) reset 0 -/
  ceilMw : Nat := 0
  /-- PWR_INPUT_W in 0.1 W; 16 bits (18, R514) reset 0 -/
  inputDw : Nat := 0
  /-- input power of the last 100 ticks, newest first, 0.1 W (18, R496, R514) reset empty -/
  samples : List Nat := []
  /-- a common step that waits for the next Press operation boundary (04, R100): the setting, reset none -/
  pressTo : Option Nat := none
  /-- load allowed and held in the latest tick, mW (18, R498) reset 0 -/
  allowMw : Nat := 0
  holdMw : Int := 0
  /-- thermal limit in W when THROTTLE, none otherwise (18, R497) reset none -/
  thermalW : Option Nat := none
  /-- PWR_TEMP inlet °C; 8 bits (18, R514) reset 0 -/
  inlet : Int := 0
  /-- PWR_TEMP hottest sensor °C and its index; 8 + 4 bits (18, R514) reset 0 -/
  hottest : Int := 0
  hotIndex : Nat := 0
  /-- PWR_EVENTS; 7 bits W1C (18, R514) reset 0 -/
  events : BitVec 7 := 0
  /-- time of the last heartbeat, none before the first (18, R505) reset none -/
  lastBeat : Option Nat := none
  /-- orphan rule armed (18, R505); 1 bit reset 0 -/
  orphanArmed : Bool := false
  orphanSince : Nat := 0
  /-- end of the forced window after a PWR_WARN# edge; ns (18, R498) reset 0 -/
  forcedEnd : Nat := 0
  /-- time since which every sensor is at or below 85 °C (18, R504) reset none -/
  coldSince : Option Nat := none
  /-- PMBus readings READ_VIN, READ_IIN, READ_PIN, READ_TEMPERATURE_1 (18, R496) reset 0 -/
  vin : Word := 0
  iin : Word := 0
  pin : Word := 0
  ptemp : Word := 0
  deriving DecidableEq, Repr, Inhabited

/-- The settings record in flash (17, R485); survives module reset. -/
structure Settings where
  cap : Nat := 0x258
  up : Nat := 0x19
  down : Nat := 0x19
  orphanCap : Nat := 0x140
  warnCap : Nat := 0x168
  inletMax : Nat := 0x2D
  tThrottle : Nat := 0x5F
  preferred : CoreAB := .a
  takebackMin : Nat := 0x00A
  orphanAtStart : Bool := false
  /-- format version of the record; 8 bits (17, R485) reset 0 -/
  fmt : Byte := 0
  deriving DecidableEq, Repr, Inhabited

/-- A lifetime record (19, R522, R523); its payload as numbers. -/
structure LtRec where
  kind : Nat := 0
  /-- the record continues the payload of the one before -/
  cont : Bool := false
  /-- number of the start it was written in (19, R522) -/
  start : Nat := 0
  /-- its number in the log (19, R522) -/
  seq : Nat := 0
  /-- TIME of writing (19, R522) -/
  time : BitVec 64 := 0
  /-- its payload as numbers (19, R523) -/
  payload : List Nat := []
  deriving DecidableEq, Repr, Inhabited

/-- A histogram (19, R517). -/
structure Hist where
  bins : Tbl Word := []
  sat : Bool := false
  deriving DecidableEq, Repr, Inhabited

/-- The TEL block and the lifetime record (19, R525, R526). -/
structure Tel where
  /-- event counters by the PF0 BAR0 offset of their _LO register (19, R516) reset 0 -/
  ev : Tbl EvCnt := []
  /-- conservation counters and stored gauges by counter ID (19, R520) reset 0 -/
  cons : Tbl Nat := []
  /-- TEL_EVENTS; 4 bits W1C (19, R525) reset 0 -/
  events : BitVec 4 := 0
  /-- TEL_WRAP_LAST; 26 bits (19, R525) reset 0 -/
  wrapLast : Nat := 0
  /-- TEL_PERIOD_MS; 14 bits (19, R525) reset 0x3E8 -/
  periodMs : Nat := 0x3E8
  /-- TEL_SNAP_CTRL.TAKE; 1 bit (19, R526) reset 0 -/
  take : Bool := false
  /-- TEL_SNAP_STATUS.PENDING; 1 bit (19, R526) reset 0 -/
  pending : Bool := false
  /-- TEL_SNAP_STATUS.IDENTITY_OK; 1 bit (19, R526) reset 0 -/
  identityOk : Bool := false
  /-- TEL_SNAP_STATUS.BAD_ID; 1 bit W1C (19, R526) reset 0 -/
  badId : Bool := false
  /-- TEL_SNAP_SEQ; 64 bits (19, R525) reset 0 -/
  snapSeq : Nat := 0
  /-- TEL_SNAP_TIME; 64 bits (19, R525) reset 0 -/
  snapTime : BitVec 64 := 0
  /-- TEL_SNAP_SEL; 32 bits (19, R525) reset 0 -/
  snapSel : Nat := 0
  /-- the held snapshot: values by counter ID (19, R518) reset empty -/
  snap : Tbl Nat := []
  /-- TEL_HIST_SEL; 3 bits (19, R525) reset 0 -/
  histSel : Nat := 0
  /-- histograms 0-5 -/
  hists : Tbl Hist := []
  /-- TEL_LT_SEQ; 64 bits (19, R525) reset 0 -/
  ltSeq : Nat := 0
  /-- lifetime records queued, oldest first, at most 256 (19, R523) reset empty -/
  ltQueue : List LtRec := []
  /-- suppressed types and their counts (19, R523) reset empty -/
  ltSuppressed : Tbl Nat := []
  /-- lifetime records in flash, oldest first (19, R522); survives module reset -/
  ltRing : List LtRec := []
  /-- summaries written (19, R522) reset 0 -/
  summaries : Nat := 0
  summaryAt : Nat := 0
  /-- totals of the summary: starts, BRAKE#, PWR_WARN#, trips, peak temperatures (19, R522) -/
  starts : Nat := 0
  brakes : Nat := 0
  warns : Nat := 0
  trips : Nat := 0
  peakDie : Int := 0
  peakInlet : Int := 0
  /-- further totals (19, R522): energy in µJ, ticks of 10 µs with the hottest sensor above T_THROTTLE, ns of power before
  the present power-on, uncorrectable words by memory kind, frames retired -/
  energyUj : Nat := 0
  hotTicks : Nat := 0
  onNs : Nat := 0
  ueTotal : Tbl Nat := []
  framesTotal : Nat := 0
  /-- time of the latest flush and of the latest periodic snapshot; ns -/
  flushAt : Nat := 0
  periodAt : Nat := 0
  /-- what the latest summary written holds, in R522's order, and the copy before it (19, R522) reset empty -/
  summary : List Nat := []
  summaryOld : List Nat := []
  deriving DecidableEq, Repr, Inhabited

/-- Connectors and the hot-swap controller (20, R530-R543). -/
structure Board where
  /-- EN_SENSE is held to RTN; 1 bit (20, R532) reset 0 -/
  enSense : Bool := false
  /-- the 54 V input lies within its limits (20, R531); 1 bit reset 0 -/
  inputOk : Bool := false
  /-- the hot-swap switch is closed (20, R532); 1 bit reset 0 -/
  closed : Bool := false
  /-- power good: the charge behind the switch has ended (20, R532); 1 bit reset 0 -/
  powered : Bool := false
  /-- the thermal-trip latch (20, R532); 1 bit reset 0 -/
  tripLatch : Bool := false
  /-- a trip is to be written at the next start (18, R504); 1 bit reset 0 -/
  tripNoted : Bool := false
  /-- CMD_HOTPLUG.LATCH_OPEN, the latch switch; 1 bit (15, R433) reset 0 -/
  latchOpen : Bool := false
  /-- PERST# asserted; 1 bit (20, R536) reset 1, DESIGN CHOICE (log 8) -/
  perst : Bool := true
  /-- output HEALTH on; 1 bit (20, R541) reset off -/
  health : Bool := false
  /-- output SUSPECT on; 1 bit (20, R541) reset on -/
  suspect : Bool := true
  deriving DecidableEq, Repr, Inhabited

/-- The module. -/
structure State where
  /-- commands waiting, first in first out; the MODEL's own field -/
  pending : List Instr := []
  /-- ns since power good: PEG_TIME is its low 64 bits (02, R39) reset 0 -/
  time : Nat := 0
  /-- counter of free values drawn; the MODEL's own field, DESIGN CHOICE (log 4) -/
  fresh : Nat := 0
  glb : Glb := {}
  peg : PegUnit := {}
  host : HostIf := {}
  /-- contexts 0-15 -/
  ctxs : Tbl Ctx := []
  kvp : Kvp := {}
  arr : Arr := {}
  atn : Atn := {}
  dpp : Dpp := {}
  tsu : Tsu := {}
  mem : Mem := {}
  dma : Dma := {}
  drn : Drn := {}
  sec : Sec := {}
  vid : Vid := {}
  mbx : Mbx := {}
  lnk : Lnk := {}
  ctl : Ctl := {}
  clk : Clk := {}
  pwr : Pwr := {}
  settings : Settings := {}
  /-- the previous area of the settings record (17, R485) -/
  settingsPrev : Settings := {}
  tel : Tel := {}
  board : Board := {}
  deriving DecidableEq, Repr, Inhabited

/-- The module as reset leaves it: unpowered, in INIT, every field at its reset value. -/
def State.reset : State := {}

end Sys2Proof.Machine
end

