-- ==== Sys2Proof/Machine/Ops.lean ====
section
/-!
DEFINITION. The operations the meanings share: reaching a block of the state, memory, counters, the lifetime record,
doorbells, and the frame of a host command (fetch, checks of R412, retries of R413, completion).
-/
namespace Sys2Proof.Machine

/-! ### Reaching into the state -/

def State.ctx (s : State) (c : Nat) : Ctx := s.ctxs.get c
def State.updCtx (s : State) (c : Nat) (f : Ctx → Ctx) : State := { s with ctxs := s.ctxs.upd c f }
def State.func (s : State) (f : Nat) : Func := s.host.funcs.get f
def State.updHost (s : State) (f : HostIf → HostIf) : State := { s with host := f s.host }
def State.updFunc (s : State) (k : Nat) (f : Func → Func) : State :=
  s.updHost fun h => { h with funcs := h.funcs.upd k f }
/-- The place of ring pair `n` of function `f`; 8 is the MCTP path (15, R431). -/
def ringKey (f n : Nat) : Nat := 9 * f + n
def State.ring (s : State) (f n : Nat) : Ring := s.host.rings.get (ringKey f n)
def State.updRing (s : State) (f n : Nat) (g : Ring → Ring) : State :=
  s.updHost fun h => { h with rings := h.rings.upd (ringKey f n) g }
def State.updGlb (s : State) (f : Glb → Glb) : State := { s with glb := f s.glb }
def State.updTel (s : State) (f : Tel → Tel) : State := { s with tel := f s.tel }
def State.updMem (s : State) (f : Mem → Mem) : State := { s with mem := f s.mem }
def State.updKvp (s : State) (f : Kvp → Kvp) : State := { s with kvp := f s.kvp }
def State.updPeg (s : State) (f : PegUnit → PegUnit) : State := { s with peg := f s.peg }
def State.updArr (s : State) (f : Arr → Arr) : State := { s with arr := f s.arr }
def State.updDrn (s : State) (f : Drn → Drn) : State := { s with drn := f s.drn }
def State.updSec (s : State) (f : Sec → Sec) : State := { s with sec := f s.sec }
def State.updVid (s : State) (f : Vid → Vid) : State := { s with vid := f s.vid }
def State.updTsu (s : State) (f : Tsu → Tsu) : State := { s with tsu := f s.tsu }
def State.updDpp (s : State) (f : Dpp → Dpp) : State := { s with dpp := f s.dpp }
def State.updDma (s : State) (f : Dma → Dma) : State := { s with dma := f s.dma }
def State.updMbx (s : State) (f : Mbx → Mbx) : State := { s with mbx := f s.mbx }
def State.updLnk (s : State) (f : Lnk → Lnk) : State := { s with lnk := f s.lnk }
def State.updCtl (s : State) (f : Ctl → Ctl) : State := { s with ctl := f s.ctl }
/-- A core that does not own the interlock makes an owner's access: a bus error, which the interlock counts (17, R459). -/
def State.notOwner (s : State) : State :=
  if s.board.powered then s.updCtl fun c => { c with refused := c.refused + 1 } else s
def State.updClk (s : State) (f : Clk → Clk) : State := { s with clk := f s.clk }
def State.updPwr (s : State) (f : Pwr → Pwr) : State := { s with pwr := f s.pwr }
def State.updBoard (s : State) (f : Board → Board) : State := { s with board := f s.board }
def State.actx (s : State) (c : Nat) : ArrCtx := s.arr.ctxs.get c
def State.updActx (s : State) (c : Nat) (f : ArrCtx → ArrCtx) : State :=
  s.updArr fun a => { a with ctxs := a.ctxs.upd c f }
def State.core (s : State) (n : Nat) : Core := s.arr.cores.get n
def State.updCore (s : State) (n : Nat) (f : Core → Core) : State :=
  s.updArr fun a => { a with cores := a.cores.upd n f }
def State.chan (s : State) (i : Nat) : Chan := s.dma.chans.get i
def State.updChan (s : State) (i : Nat) (f : Chan → Chan) : State :=
  s.updDma fun d => { d with chans := d.chans.upd i f }
def State.line (s : State) (n : Nat) : Line := s.peg.lines.get n
def State.updLine (s : State) (n : Nat) (f : Line → Line) : State :=
  s.updPeg fun p => { p with lines := p.lines.upd n f }
def State.pegAt (s : State) (n : Nat) : Peg := s.peg.pegs.get n
def State.updPegAt (s : State) (n : Nat) (f : Peg → Peg) : State :=
  s.updPeg fun p => { p with pegs := p.pegs.upd n f }
def State.page (s : State) (p : Nat) : Page := s.kvp.dir.get p
def State.updPage (s : State) (p : Nat) (f : Page → Page) : State :=
  s.updKvp fun k => { k with dir := k.dir.upd p f }
def State.sess (s : State) (k : Nat) : Sess := s.vid.sess.get k
def State.updSess (s : State) (k : Nat) (f : Sess → Sess) : State :=
  s.updVid fun v => { v with sess := v.sess.upd k f }
def State.peer (s : State) (e : Nat) : Peer := s.lnk.peers.get e
def State.updPeer (s : State) (e : Nat) (f : Peer → Peer) : State :=
  s.updLnk fun l => { l with peers := l.peers.upd e f }
def State.portAt (s : State) (p : Nat) : Port := s.lnk.ports.get p
def State.updPort (s : State) (p : Nat) (f : Port → Port) : State :=
  s.updLnk fun l => { l with ports := l.ports.upd p f }

/-- Run an update over a list, left to right. -/
def foldS {α : Type} (l : List α) (f : State → α → State) (s : State) : State := l.foldl f s

/-- The numbers 0 .. n-1. -/
def upto (n : Nat) : List Nat := List.range n

/-- All sixteen contexts. -/
def allCtxs : List Nat := upto 16

/-! ### Time and free values -/

/-- PEG_TIME (02, R39): time since power good, 64 bits. -/
def State.pegTime (s : State) : BitVec 64 := BitVec.ofNat 64 s.time

/-- What passes on an empty queue: 1 ns while the module is powered (DESIGN CHOICE, log 2). -/
def State.tick (s : State) : State := if s.board.powered then { s with time := s.time + 1 } else s

/-- Number of the next free value, and the state that has drawn it (log 4). -/
def State.draw (s : State) : Nat × State := (s.fresh, { s with fresh := s.fresh + 1 })

/-- One of the listed numbers, as firmware chooses: the only one, or a free choice (log 4). -/
def State.choose (s : State) : List Nat → Option (Nat × State)
  | [] => none
  | [x] => some (x, s)
  | x :: y :: r =>
    let (k, s) := s.draw
    some ((x :: y :: r).getD (Config.pick k (r.length + 1)).val x, s)

/-- One millisecond, one microsecond and one second in ns. -/
def msNs : Nat := 1000000
def usNs : Nat := 1000
def secNs : Nat := 1000000000

/-! ### Memory

One table of bytes for every memory (12, R310): HBM, Basket and local stores at their device address, the context
virtual space of context `c` at `ctxBase c + va`, and KV page `p` at `pageKey p + offset`.  Which frame or BASE stands
behind a virtual address or a page changes no byte that any access returns (log 5). -/

/-- Key of byte `va` of context `c`'s virtual space. -/
def ctxKey (c va : Nat) : Nat := 2 ^ 48 * (1 + c) + va
/-- Key of byte `off` of KV page `p`. -/
def pageKey (p off : Nat) : Nat := 2 ^ 48 * 32 + p * 2 ^ 30 + off

/-- The byte at a key; a byte nothing has written reads 0 (DESIGN CHOICE, log 3). -/
def Mem.byteAt (m : Mem) (k : Nat) : Byte := Tbl.get m.cells k
/-- The memory with one byte written. -/
def Mem.put (m : Mem) (k : Nat) (b : Byte) : Mem := { m with cells := Tbl.set m.cells k b }
/-- The memory with a run of bytes written from `k` up. -/
def Mem.putAll (m : Mem) (k : Nat) : List Byte → Mem
  | [] => m
  | b :: bs => (m.put k b).putAll (k + 1) bs
/-- A run of bytes from key `k` takes free values. -/
def State.freeRun (s : State) (k n : Nat) : State :=
  let d := s.fresh
  ({ s with fresh := d + n } : State).updMem fun m => m.putAll k ((upto n).map fun i => BitVec.ofNat 8 (Config.value (d + i)))
/-- The canonical form: keys strictly rising, no listed byte equal to what an unlisted one reads as. -/
def Mem.wf (m : Mem) : Bool := Tbl.wf m.cells
/-- `n` bytes from `k` up. -/
def Mem.bytesAt (m : Mem) (k : Nat) : Nat → List Byte
  | 0 => []
  | n + 1 => m.byteAt k :: m.bytesAt (k + 1) n
/-- `n` bytes from `k` as a number, least significant byte first (00, R3). -/
def Mem.leAt (m : Mem) (k n : Nat) : Nat := Sys2Proof.leAt m.byteAt k n
/-- Does the 64-bit word that holds `k` carry its poison bit (12, R317)? -/
def Mem.poisoned (m : Mem) (k : Nat) : Bool := m.poison.get (k / 8)
/-- Does any byte of a run lie in a poisoned word? -/
def Mem.poisonedRun (m : Mem) (k n : Nat) : Bool := (upto n).any fun i => m.poisoned (k + i)
/-- Set or clear the poison bit of the word that holds `k`. -/
def Mem.setPoison (m : Mem) (k : Nat) (v : Bool) : Mem := { m with poison := m.poison.set (k / 8) v }
/-- A run of bytes of the state's memory, in one update. -/
def State.putBytes (s : State) (k : Nat) (bs : List Byte) : State := s.updMem fun m => m.putAll k bs
/-- The same with clean check bits (12, R317). -/
def State.putClean (s : State) (k : Nat) (bs : List Byte) : State :=
  s.updMem fun m => { m.putAll k bs with poison := m.poison.filter fun e => bs.isEmpty || decide (e.1 < k / 8) || decide ((k + bs.length - 1) / 8 < e.1) }
def State.getLe (s : State) (k n : Nat) : Nat := s.mem.leAt k n
/-- Bytes of a context's virtual memory as a number. -/
def State.ctxLe (s : State) (c va n : Nat) : Nat := s.mem.leAt (ctxKey c va) n
/-- Drop every byte and poison bit whose key lies in `[lo, hi)`: what was there is gone. -/
def Mem.wipe (m : Mem) (lo hi : Nat) : Mem :=
  { m with
    cells := m.cells.filter fun e => e.1 < lo || hi ≤ e.1
    poison := m.poison.filter fun e => e.1 < lo / 8 || (hi + 7) / 8 ≤ e.1 }
/-- Clear the poison of every word that a run of bytes covers whole: such a word is written anew (12, R317). -/
def Mem.freshRun (m : Mem) (k n : Nat) : Mem :=
  { m with poison := m.poison.filter fun e => !(decide (k ≤ 8 * e.1) && decide (8 * e.1 + 8 ≤ k + n)) }

/-! ### Counters (19) -/

/-- Key of an event counter: the offset of its _LO register in PF0 BAR0 (19, R516). -/
def State.evAt (s : State) (off : Nat) : EvCnt := s.tel.ev.get off

/-- Value of a conservation counter or stored gauge (19, R520). -/
def State.cons (s : State) (id : Nat) : Nat := s.tel.cons.get id
/-- A conservation counter advances by `n` (19, R518). -/
def State.consAdd (s : State) (id n : Nat) : State := s.updTel fun t => { t with cons := t.cons.upd id (· + n) }
def State.consSet (s : State) (id n : Nat) : State := s.updTel fun t => { t with cons := t.cons.set id n }
/-- A counter ID: family in bits 31-24, index in bits 23-0 (19, R520). -/
def cid (fam idx : Nat) : Nat := fam * 2 ^ 24 + idx

/-- Types of lifetime records that are never dropped (19, R523): START, HBM_TRAIN_FAIL, IDENTITY_FAIL,
DARNER_CONFIRM, CONTROL_STATE_LOST. -/
def ltReserved (kind : Nat) : Bool :=
  kind == 0x0001 || kind == 0x0003 || kind == 0x0010 || kind == 0x0031 || kind == 0x0051

/-- A payload in the records that carry it: nine 32-bit words each (19, R522; log 130). -/
def ltParts (payload : List Nat) : List (List Nat) :=
  (upto (max 1 ((payload.length + 8) / 9))).map fun i => (payload.drop (9 * i)).take 9

/-- Queue a lifetime record, with CONT records for what its payload does not hold (19, R522, R523): 256 places, 16 of them for
the reserved types; without a place the record is counted and stands for one SUPPRESSED record later. -/
def State.lifetime (s : State) (kind : Nat) (payload : List Nat) : State :=
  let parts := ltParts payload
  s.updTel fun t =>
    if ltReserved kind || t.ltQueue.length + parts.length ≤ 240 then
      { t with ltQueue := t.ltQueue ++ (parts.zip (upto parts.length)).map fun (p : List Nat × Nat) =>
          { kind, cont := decide (0 < p.2), start := t.starts, time := s.pegTime, payload := p.1 } }
    else
      { t with ltSuppressed := t.ltSuppressed.upd kind (· + 1), events := t.events ||| 0b1000 }

/-- An event counter advances by `n`; past 2^48 - 1 it wraps as R516 says. -/
def State.bumpBy (s : State) (off n : Nat) : State :=
  let e := s.evAt off
  let sum := e.count.toNat + n
  if sum < 2 ^ 48 then
    s.updTel fun t => { t with ev := t.ev.set off { e with count := BitVec.ofNat 48 sum } }
  else
    let w := if e.wraps = 0xFFFF then 0xFFFF else e.wraps + 1
    (s.updTel fun t =>
      { t with ev := t.ev.set off { count := BitVec.ofNat 48 sum, wraps := w },
               events := t.events ||| 0b0001, wrapLast := off }).lifetime 0x0011 [off]

/-- An event counter advances by 1. -/
def State.bump (s : State) (off : Nat) : State := s.bumpBy off 1

/-- Bin of a histogram value (19, R517). -/
def histBin (v : Nat) : Nat := if v = 0 then 0 else min 15 (v.log2 + 1)

/-- A value is sampled into histogram `h`; a full bin stays and sets SAT (19, R517, R525). -/
def State.sample (s : State) (h v : Nat) : State :=
  s.updTel fun t =>
    let H := t.hists.get h
    let b := histBin v
    let n := H.bins.get b
    if n = 0xFFFFFFFF then { t with hists := t.hists.set h { H with sat := true }, events := t.events ||| 0b0010 }
    else { t with hists := t.hists.set h { H with bins := H.bins.set b (n + 1) } }

/-- A register that saturates: `v + n`, at most `m`. -/
def satAdd (v n m : Nat) : Nat := min (v + n) m

/-! ### Doorbells toward the host (15, R402) -/

/-- Raise doorbell bit `j` of function `f`; a bit already pending does nothing, an unmasked one sends its message. -/
def State.doorbell (s : State) (f j : Nat) : State :=
  let w := s.func f
  if w.dbPend.getLsbD j then s
  else
    let s := s.updFunc f fun w => { w with dbPend := w.dbPend ||| (1 <<< j) }
    if w.dbMask.getLsbD j || w.msixMask.getLsbD j then s
    else s.updHost fun h => { h with msgs := h.msgs.upd (32 * f + j) (· + 1) }

/-- Messages for the bits in `bits` that are pending and free of both masks: what unmasking sends (15, R402). -/
def State.sendPending (s : State) (f : Nat) (bits : Word) : State :=
  foldS (upto 32) (fun s j =>
    if bits.getLsbD j then s.updHost fun h => { h with msgs := h.msgs.upd (32 * f + j) (· + 1) } else s) s

/-- Bytes the module writes to host memory, from address `a` of function `f`'s space up. -/
def hostCells (m : Tbl Byte) (k : Nat) : List Byte → Tbl Byte
  | [] => m
  | b :: bs => hostCells (m.set k b) (k + 1) bs
def State.hostPut (s : State) (f a : Nat) (bs : List Byte) : State :=
  s.updHost fun h => { h with mem := hostCells h.mem (2 ^ 64 * f + a) bs }

/-- The 64-bit answer a register read leaves for its requester. -/
def State.answer (s : State) (v : Nat) : State := s.updHost fun h => { h with readData := BitVec.ofNat 64 v }

/-! ### Fields of a command (15, R411) -/

end Sys2Proof.Machine

namespace Sys2Proof

def Cmd.byte (c : Cmd) (i : Nat) : Byte := c.bytes.getD i 0
/-- The `n` bytes from byte `off`, little-endian (00, R3). -/
def Cmd.le (c : Cmd) (off n : Nat) : Nat := leAt c.byte off n
def Cmd.opcode (c : Cmd) : Nat := (c.byte 0).toNat
def Cmd.fence (c : Cmd) : Bool := (c.byte 1).getLsbD 0
def Cmd.noIrq (c : Cmd) : Bool := (c.byte 1).getLsbD 1
def Cmd.retry (c : Cmd) : Bool := (c.byte 1).getLsbD 2
def Cmd.minor (c : Cmd) : Nat := (c.byte 2).toNat
def Cmd.major (c : Cmd) : Nat := (c.byte 3).toNat
def Cmd.seq (c : Cmd) : Word := BitVec.ofNat 32 (c.le 4 4)
/-- Request or object ID, bytes 8-15. -/
def Cmd.objId (c : Cmd) : Nat := c.le 8 8
/-- The context a VF serves; 16 for PF0 (15, R400). -/
def Cmd.ownCtx (c : Cmd) : Nat := if c.fn.val = 0 then 16 else c.fn.val - 1
def Cmd.isPf0 (c : Cmd) : Bool := c.fn.val == 0
/-- The bytes with RETRY cleared: what R413 compares. -/
def Cmd.masked (c : Cmd) : List Byte := c.bytes.set 1 (c.byte 1 &&& 0xFB)
/-- First byte of the range that is not 0: a reserved field that fails R8/R412 (6). -/
def Cmd.firstNonZero (c : Cmd) (lo hi : Nat) : Option Nat :=
  ((List.range (hi + 1 - lo)).map (lo + ·)).find? fun i => c.byte i != 0

/-- First parameter byte (16-63) outside the ranges an opcode lists that is not 0: unlisted bytes are reserved. -/
def Cmd.unlisted (c : Cmd) (used : List (Nat × Nat)) : Option Nat :=
  ((List.range 48).map (16 + ·)).find? fun i => c.byte i != 0 && !(used.any fun r => decide (r.1 ≤ i) && decide (i ≤ r.2))

/-- Byte offset of the first field that fails: a reserved byte that is not 0, or a field whose rule (true: broken) is. -/
def Cmd.badParam (c : Cmd) (used : List (Nat × Nat)) (rules : List (Bool × Nat)) : Option Nat :=
  let offs := (Cmd.unlisted c used).toList ++ rules.filterMap fun r => if r.1 then some r.2 else none
  match offs with
  | [] => none
  | o :: r => some (r.foldl min o)

end Sys2Proof
namespace Sys2Proof.Machine

/-! ### Statuses (15, R416) -/

def stOk : Nat := 0x0000
def stAlready : Nat := 0x0001
def stBusy : Nat := 0x0010
def stHandover : Nat := 0x0011
def stBadOpcode : Nat := 0x0020
def stBadParam : Nat := 0x0021
def stBadVersion : Nat := 0x0022
def stBadSeq : Nat := 0x0023
def stNoRes : Nat := 0x0030
def stBudget : Nat := 0x0031
def stDenied : Nat := 0x0040
def stNotBound : Nat := 0x0041
def stDigest : Nat := 0x0042
def stCtxFault : Nat := 0x0050
def stMemFault : Nat := 0x0051
def stPoisoned : Nat := 0x0052
def stTimeout : Nat := 0x0060
def stAborted : Nat := 0x0061
def stCancelled : Nat := 0x0062
def stLost : Nat := 0x0063
def stDraining : Nat := 0x0070
def stSuspect : Nat := 0x0071
def stInternal : Nat := 0x00FF

/-- Status, detail and result bytes of a completion. -/
structure Reply where
  status : Nat := 0
  detail : Nat := 0
  result : List Byte := []
  deriving DecidableEq, Repr, Inhabited

/-- A status alone. -/
def Reply.of (st : Nat) : Reply := { status := st }
/-- BAD_PARAM at a byte offset (15, R411). -/
def Reply.bad (off : Nat) : Reply := { status := stBadParam, detail := off }
/-- OK with result bytes. -/
def Reply.ok (r : List Byte) : Reply := { status := stOk, result := r }

/-- What a command's own chapter answers: a completion now, or one owed later. -/
inductive Verdict where
  | reply (s : State) (r : Reply)
  | later (s : State) (w : WaitFor)

/-! ### Completions (15, R407, R410, R411, R413, R414) -/

/-- Entries of a submission or completion ring (15, R405). -/
def ringEntries (log : Nat) : Nat := 2 ^ (log + 4)

/-- The 32 bytes of a completion (15, R411). -/
def Completion.toBytes (c : Completion) : List Byte :=
  leBytes 4 c.seq.toNat ++ leBytes 2 c.status ++ leBytes 2 c.detail ++ (c.result ++ List.replicate 24 0).take 24

/-- Write one completion entry of ring `n` of function `f`: to the ring, or to the list kept for a later ENABLE while
completion writes fail (15, R410).  The MCTP path sends it as a message and keeps the latest. -/
def State.writeEntry (s : State) (f n : Nat) (c : Completion) (noIrq : Bool) : State :=
  let r := s.ring f n
  if n = 8 then s.updRing f n fun r => { r with cq := [c] }
  else if r.writeFails then
    (s.updRing f n fun r => { r with unwritten := r.unwritten ++ [(c, noIrq)], enable := false, writeErr := true }).doorbell f 24
  else
    let s := (s.hostPut f (r.cqBase.toNat + 32 * r.cqTail) c.toBytes).updRing f n fun r =>
      { r with cq := r.cq ++ [c], cqTail := (r.cqTail + 1) % ringEntries r.cqSize }
    if noIrq then s else s.doorbell f n

/-- Kept completions of a ring: the last 4,096, or as many as the ring has entries (15, R413); a command without its
completion stays. -/
def keepLimit (r : Ring) (n : Nat) : Nat := if n = 8 then 4096 else min 4096 (ringEntries r.sqSize)

/-- Drop the oldest completed entries beyond the limit (newest first list). -/
def trimKept (limit : Nat) : List Kept → List Kept
  | [] => []
  | k :: ks =>
    match k.comp with
    | none => k :: trimKept limit ks
    | some _ => match limit with
      | 0 => trimKept 0 ks
      | m + 1 => k :: trimKept m ks

/-- The completion of a fetched command: done count, histogram 1, the kept copy, the entry, and the copies owed to
retries that came before it (15, R407, R413, R414; 19, R517). -/
def State.finish (s : State) (f n : Nat) (seq : Word) (since : Nat) (noIrq : Bool) (r : Reply) : State :=
  let c : Completion := { seq, status := r.status, detail := r.detail, result := r.result }
  let s := (s.consAdd (cid 0x41 f) 1).sample 1 ((s.time - since) / usNs)
  let copies := ((s.ring f n).kept.find? fun k => k.seq = seq && k.comp.isNone).elim 0 Kept.copies
  let s := s.updRing f n fun r =>
    { r with kept := trimKept (keepLimit r n) (r.kept.map fun k =>
        if k.seq = seq && k.comp.isNone then { k with comp := some c, copies := 0 } else k) }
  let s := s.writeEntry f n c noIrq
  foldS (upto copies) (fun s _ => (s.writeEntry f n c noIrq).consAdd (cid 0x42 f) 1) s

/-- The completion of a fetched command that failed the sequence check: it is done and counted, and nothing kept changes
(15, R412, R413, R414). -/
def State.finishBadSeq (s : State) (c : Cmd) (detail : Nat) : State :=
  let f := c.fn.val
  ((((s.consAdd (cid 0x40 f) 1).consAdd (cid 0x41 f) 1).sample 1 0).writeEntry f c.ring.val
    { seq := c.seq, status := stBadSeq, detail, result := [] } c.noIrq)

/-- Complete a command in flight: take it off the list of commands in flight and finish it (15, R414). -/
def State.complete (s : State) (i : Inflight) (r : Reply) : State :=
  (s.updHost fun h => { h with inflight := h.inflight.erase i }).finish i.fn i.ring i.seq i.since i.noIrq r

/-- Complete every command in flight that waits for what `p` says, with the reply `g` gives it. -/
def State.completeAll (s : State) (p : WaitFor → Bool) (g : Inflight → Reply) : State :=
  foldS (s.host.inflight.filter fun i => p i.wait) (fun s i => s.complete i (g i)) s

/-- Commands in flight on ring `n` of function `f`. -/
def State.inflightOn (s : State) (f n : Nat) : Nat :=
  (s.host.inflight.filter fun i => i.fn = f && i.ring = n).length

/-- CMD_INFLIGHT[f] (15, R432). -/
def State.inflightOf (s : State) (f : Nat) : Nat := (s.host.inflight.filter fun i => i.fn = f).length

/-- Completion entries of a ring that stand or are owed: written, unwritten, and one for each command in flight and
each copy owed (15, R407, R549). -/
def State.cqUsed (s : State) (f n : Nat) : Nat :=
  let r := s.ring f n
  r.cq.length + r.unwritten.length + s.inflightOn f n + (r.kept.map Kept.copies).foldl (· + ·) 0

/-! ### The checks of a command (15, R412) -/

/-- Opcodes of R415. -/
def opcodeDefined (o : Nat) : Bool :=
  o ∈ [0x00, 0x01, 0x02, 0x08, 0x09, 0x0A, 0x0B, 0x10, 0x11, 0x14, 0x15, 0x18, 0x19, 0x1C, 0x1D, 0x20, 0x21, 0x22,
       0x24, 0x25, 0x28, 0x29, 0x30, 0x31, 0x38, 0x39, 0x3A, 0x3B, 0x40, 0x41, 0x42, 0x43, 0x48, 0x49, 0x4A, 0x50,
       0x51, 0x52, 0x58, 0x59, 0x5A, 0x60, 0x61, 0x68, 0x69, 0x70, 0x71, 0x78, 0x79]

/-- Opcodes accepted from PF0 alone (15, R415). -/
def pf0Only (o : Nat) : Bool :=
  o ∈ [0x08, 0x09, 0x40, 0x49, 0x4A, 0x50, 0x51, 0x52, 0x58, 0x59, 0x5A, 0x60, 0x61, 0x69, 0x70, 0x71, 0x78, 0x79]
/-- Opcodes accepted from VFs alone (15, R415). -/
def vfOnly (o : Nat) : Bool :=
  o ∈ [0x10, 0x11, 0x14, 0x15, 0x18, 0x19, 0x1C, 0x1D, 0x20, 0x21, 0x22, 0x24, 0x25, 0x28, 0x29, 0x30, 0x31,
       0x38, 0x39, 0x3A, 0x3B]

/-- The feature an opcode needs (15, R417). -/
def opcodeFeature (o : Nat) : Option Nat :=
  if o ∈ [0x38, 0x39, 0x3A, 0x3B] then some 1
  else if o ∈ [0x18, 0x19] then some 3
  else if o ∈ [0x28, 0x29] then some 4
  else none

/-- 'Queries only' of CLOCK_HOLD (01, R20): commands that only report; DEDUCED (log 10). -/
def isQuery (o : Nat) : Bool :=
  o ∈ [0x00, 0x02, 0x0B, 0x22, 0x25, 0x48, 0x52, 0x61, 0x68, 0x69, 0x71, 0x79]

/-- The status of the module-state check, none where the command passes (01, R20, R25; 15, R427; 17, R464, R483).  Which
opcodes are DOZE's 'power, telemetry and PEG commands', that SUSPECT's 'PF0 management' is every PF0 command but RESUME, and
that CLOCK_HOLD's list holds in a start-up too are the model's readings (DEDUCED, log 125). -/
def State.moduleCheck (s : State) (fn o : Nat) : Option Nat :=
  let early := o ∈ [0x00, 0x01, 0x02, 0x52]
  if s.glb.noControlCore && o ∉ [0x00, 0x48] then some stSuspect
  else if s.ctl.gap && o ∉ [0x00, 0x48] then some stHandover
  else match s.glb.state with
  | .init => if fn = 0 && early then none else some stBusy
  | .recovery => if fn = 0 && (early || o = 0x50) then none else some stBusy
  | .ready => none
  | .quiesced => none
  | .draining => if o ∈ [0x20, 0x30] then some stDraining else none
  | .suspect => if fn ≠ 0 || o = 0x5A then some stSuspect else none
  | .clockHold => if isQuery o then none else some stBusy
  | .doze => if fn = 0 && o ∈ [0x40, 0x41, 0x42, 0x43, 0x52, 0x60, 0x61, 0x68, 0x69] then none else some stBusy

/-- A VF's command on a context that is FREE names nothing that exists for it (14, R378; 15, R416); commands any
function may send, and CTX_QUERY, are answered: DEDUCED (log 11). -/
def State.contextCheck (s : State) (fn o : Nat) : Option Nat :=
  if fn ≠ 0 && o ∉ [0x00, 0x01, 0x02, 0x0B, 0x41, 0x42, 0x43, 0x48, 0x68] && (s.ctx (fn - 1)).st = .free then some stNotBound else none

/-- Has function `fn` been granted feature `k` (15, R417)? -/
def State.granted (s : State) (fn k : Nat) : Bool := (s.func fn).features.testBit k

/-- Checks 2 to 5 of R412 on a command whose sequence is good; `feats` are the features its parameters use. -/
def State.gate (s : State) (c : Cmd) (feats : List Nat) : Option Reply :=
  let fn := c.fn.val
  let o := c.opcode
  if o ≠ 0x01 && (c.major ≠ 2 || (s.func fn).minor < c.minor) then some (.of stBadVersion)
  -- NEGOTIATE is held to R417 in place of this check
  else if o = 0x01 && (c.major ≠ 2 || min (c.byte 17).toNat 3 < (c.byte 16).toNat) then
    some { status := stBadVersion, result := [0x03, 0x02] }
  else if !opcodeDefined o then some (.of stBadOpcode)
  else if (fn ≠ 0 && pf0Only o) || (fn = 0 && vfOnly o) then some (.of stDenied)
  else match ((opcodeFeature o).toList ++ feats).find? fun k => !s.granted fn k with
  | some k => some { status := stBadVersion, detail := k }
  | none => match s.moduleCheck fn o with
    | some st => some (.of st)
    | none =>
      if o = 0x01 && s.inflightOf fn ≠ 0 then some (.of stBusy)
      else (s.contextCheck fn o).map .of

/-- BUSY_RETRY carries a suggested wait whose figure the spec does not state: a free value (log 9). -/
def State.withWait (s : State) (r : Reply) : State × Reply :=
  if r.status = stBusy then
    let (k, s) := s.draw
    (s, { r with detail := (Config.busyWait k).toNat })
  else (s, r)

/-- Reserved flag bits of byte 1 (15, R411). -/
def Cmd.badFlags (c : Cmd) : Bool := (c.byte 1 &&& 0xF8) != 0

/-- ENFORCE is set for function `f` and its stream is not secure: it receives no TLPs (14, R390; 15, R399). -/
def State.shut (s : State) (f : Nat) : Bool := s.sec.ideCtrl.getLsbD f && !s.sec.ideSecure.getLsbD f

/-- A TLP that is discarded and reported as Unsupported Request (14, R390). -/
def State.turnAway (s : State) (f : Nat) : State :=
  if s.board.powered && s.host.linkUp && s.shut f then s.updHost fun h => { h with unsupported := h.unsupported + 1 } else s

/-- Can the module fetch the command now (14, R390; 15, R407, R408, R427)?  A command it cannot fetch waits in its ring. -/
def State.fetchable (s : State) (c : Cmd) : Bool :=
  let f := c.fn.val
  let n := c.ring.val
  let r := s.ring f n
  s.board.powered && decide (c.bytes.length = 64) &&
  (if n = 8 then f = 0 && decide (2 ≤ s.glb.stage)
   else r.enable && decide (r.sqHead ≠ r.sqTail) && decide (s.cqUsed f n + 1 < ringEntries r.cqSize) &&
     s.host.linkUp && !s.shut f && (f = 0 || (!s.ctl.gap && s.host.vfEnable && s.glb.readyReached)) ) &&
  !(c.fence && s.inflightOn f n != 0)

/-- Take the entry at SQ_HEAD (15, R407). -/
def State.takeEntry (s : State) (f n : Nat) : State :=
  if n = 8 then s else s.updRing f n fun r => { r with sqHead := (r.sqHead + 1) % ringEntries r.sqSize }

/-- Serial distance: is `seq` behind `e` (15, R413)? -/
def seqBehind (seq e : Word) : Bool := decide (0 < (e - seq).toNat) && decide ((e - seq).toNat < 2 ^ 31)

/-- A command taken off its ring in sequence: the next sequence number is expected, its bytes are kept and its fetch is
counted (15, R407, R413, R414). -/
def State.fetched (s : State) (c : Cmd) : State :=
  ((s.takeEntry c.fn.val c.ring.val).updRing c.fn.val c.ring.val fun r =>
    { r with expected := some (c.seq + 1), kept := { seq := c.seq, bytes := c.masked } :: r.kept }).consAdd
      (cid 0x40 c.fn.val) 1

/-- Checks 2 to 5 of R412, then the reserved flag bits, then what the command's own chapter says. -/
def State.checked (s : State) (c : Cmd) (feats : List Nat) (body : State → Verdict) : Verdict :=
  match s.gate c feats with
  | some rep => .reply s rep
  | none => if Cmd.badFlags c then .reply s (.bad 1) else body s

/-- What becomes of the command: its completion now, or a place among the commands in flight. -/
def State.conclude (c : Cmd) : Verdict → State
  | .reply s rep => (s.withWait rep).1.finish c.fn.val c.ring.val c.seq s.time c.noIrq (s.withWait rep).2
  | .later s w =>
    s.updHost fun h => { h with inflight := h.inflight ++
      [{ fn := c.fn.val, ring := c.ring.val, seq := c.seq, opcode := c.byte 0, noIrq := c.noIrq, since := s.time, wait := w }] }

/-- The sequence number the ring expects: any, before its first command (15, R413). -/
def State.expects (s : State) (c : Cmd) : Word := (s.ring c.fn.val c.ring.val).expected.getD c.seq

/-- A command out of sequence: a retry of a kept one gets its completion again, anything else BAD_SEQUENCE (15, R413). -/
def State.outOfSeq (s : State) (c : Cmd) : State :=
  let f := c.fn.val
  let n := c.ring.val
  match (s.ring f n).kept.find? fun k => k.seq = c.seq with
  | some k =>
    if k.bytes = c.masked then
      match k.comp with
      | some comp => (s.writeEntry f n comp c.noIrq).consAdd (cid 0x42 f) 1
      | none => s.updRing f n fun r =>
          { r with kept := r.kept.map fun j => if j = k then { j with copies := j.copies + 1 } else j }
    else s.finishBadSeq c 3
  | none => s.finishBadSeq c (if seqBehind c.seq (s.expects c) then 1 else 2)

/-- Fetch and run one command.  `feats` are the features its parameters use; `body` is what its own chapter says once
checks 1 to 5 of R412 pass. -/
def State.command (s : State) (c : Cmd) (feats : List Nat) (body : State → Verdict) : State :=
  if !s.fetchable c then s
  else if c.seq = s.expects c then State.conclude c ((s.fetched c).checked c feats body)
  else (s.takeEntry c.fn.val c.ring.val).outOfSeq c

/-- A host-command row: the packet carries the row's opcode, and the module runs it; a packet of another opcode is
none of this row's commands. -/
def State.row (s : State) (c : Cmd) (opcode : Nat) (feats : List Nat) (body : State → Verdict) : State :=
  if c.opcode = opcode then s.command c feats body else s

/-- Reply without any effect. -/
def refuse (s : State) (r : Reply) : Verdict := .reply s r

/-- The first reserved byte of the ranges that is not 0. -/
def Cmd.reservedAt (c : Cmd) (rs : List (Nat × Nat)) : Option Nat :=
  (rs.filterMap fun r => c.firstNonZero r.1 r.2).head?

/-- Run `k` once the reserved bytes are 0; otherwise BAD_PARAM at the first that is not (15, R412 order 6). -/
def needZero (s : State) (c : Cmd) (rs : List (Nat × Nat)) (k : Verdict) : Verdict :=
  match Cmd.reservedAt c rs with
  | some o => .reply s (.bad o)
  | none => k

/-- Run `k` once every parameter is good; otherwise BAD_PARAM at the first that is not (15, R411, R412). -/
def params (s : State) (c : Cmd) (used : List (Nat × Nat)) (rules : List (Bool × Nat)) (k : Verdict) : Verdict :=
  match Cmd.badParam c used rules with
  | some o => .reply s (.bad o)
  | none => k

/-- A row that is one operation of an opcode: `sel` says which packets are this row's. -/
def State.subRow (s : State) (c : Cmd) (opcode : Nat) (sel : Cmd → Bool) (feats : List Nat) (body : State → Verdict) :
    State :=
  if sel c then s.row c opcode feats body else s

/-- The first failing check of a list (condition, reply), else `k`. -/
def checks (s : State) : List (Bool × Reply) → Verdict → Verdict
  | [], k => k
  | (b, r) :: rest, k => if b then .reply s r else checks s rest k

end Sys2Proof.Machine
end

