-- ==== Sys2Proof/Machine/Darner.lean ====
section
/-!
DEFINITION. The Darner (13): choosing tiles, the mismatch map, minorities, path events, confirmation and draining.
-/
namespace Sys2Proof.Machine

/-! ### Clocks and cores -/

/-- Quadrant clock in MHz of a PLL setting (18, R513): 600 + 25 n. -/
def settingMhz (n : Nat) : Nat := 600 + 25 * n
def State.quadMhz (s : State) (q : Nat) : Nat := settingMhz (s.clk.qpll.get q)
/-- Quadrant of core n = 8 y + x (01, 'Engine, core and chip'). -/
def quadOf (n : Nat) : Nat := (if n % 8 < 4 then 0 else 1) + (if n / 8 % 8 < 4 then 0 else 2)
/-- The lowest quadrant clock in effect, MHz (05, R121, R132). -/
def State.lowMhz (s : State) : Nat := min (min (s.quadMhz 0) (s.quadMhz 1)) (min (s.quadMhz 2) (s.quadMhz 3))
/-- The buddy of a core: (x XOR 1, y), and its referee: ((x + 4) mod 8, (y + 4) mod 8) (13, R355, R356). -/
def buddyOf (n : Nat) : Nat := if n % 2 = 0 then n + 1 else n - 1
def refereeOf (n : Nat) : Nat := 8 * ((n / 8 + 4) % 8) + (n % 8 + 4) % 8

/-! ### Counters -/

def drnBase : Nat := 0x900000
/-- DRN_MSTEP with its wraps (13, R357). -/
def State.mstep (s : State) : Nat :=
  let e := s.evAt (drnBase + 0x10)
  e.wraps.toNat * 2 ^ 48 + e.count.toNat

/-- TBIN of a temperature (13, R366): bin b covers 8b - 16 up to 8b - 8 °C. -/
def tbin (t : Int) : Nat := if t < -16 then 0 else min 15 ((t + 16).toNat / 8)
/-- CBIN of a quadrant clock (13, R366). -/
def cbin (mhz : Nat) : Nat := min 7 ((mhz - 600) / 150)
/-- The bin index of an execution (13, R366). -/
def binIndex (t : Int) (press : Bool) (fclass mhz : Nat) : Nat :=
  tbin t * 128 + b2n press * 64 + fclass % 8 * 8 + cbin mhz
/-- The bin of an execution on core `n` now. -/
def State.binOf (s : State) (n fclass : Nat) : Nat :=
  binIndex (s.core n).temp (s.arr.mode == .press) fclass (s.quadMhz (quadOf n))
/-- The bin of the same work as run by another core of the quadrant: its own temperature, the rest as it was. -/
def State.binOn (s : State) (n bin : Nat) : Nat := tbin (s.core n).temp * 128 + bin % 128

/-! ### Choosing tiles (13, R351, R352, R360) -/

/-- The context's counts of a step begin anew: no unit has yet produced an eligible tile in it. -/
def State.clearUnits (s : State) (c : Nat) : State :=
  s.updDrn fun d => { d with unitSeen := d.unitSeen.filter fun e => e.1 % 16 ≠ c
                             unitDue := d.unitDue.filter fun e => e.1 % 16 ≠ c }

/-- Divisor of the sampling probability in a bin: DIV, or RAISED_DIV in a raised bin and while the Darner drains. -/
def State.divIn (s : State) (bin : Nat) : Nat :=
  if s.drn.drain || (s.drn.map.get bin).raised then s.drn.raisedDivNow else s.drn.divNow

/-- Is the eligible tile `t` of core `n` sampled, and was a random sample dropped for want of room?  The draws are free
values (log 4). -/
def State.sampleTile (s : State) (c n : Nat) (fclass : Fin 5) (t : TileRef) (again : Bool) : State × Bool :=
  let u := 4 * n + t.group.val
  let key := 16 * u + c
  let s := if s.drn.unitSeen.get key then s
    else
      let m := s.drn.unitSteps.get u + 1
      s.updDrn fun d => { d with unitSeen := d.unitSeen.set key true
                                 unitSteps := d.unitSteps.set u m
                                 unitDue := d.unitDue.set key (if m % 4 = 0 then d.rotFloorNow else 0) }
  let due := s.drn.unitDue.get key
  let (a, s) := s.draw
  let (b, s) := s.draw
  let rot := decide (Config.random a % (t.remaining + 1) < due)
  let rnd := decide (Config.random b % max 1 (s.divIn (s.binOf n fclass.val)) = 0)
  let s := if rot then s.updDrn fun d => { d with unitDue := d.unitDue.set key (due - 1) } else s
  if rot || again then (s, true)
  else if rnd then (if t.full then (s.bump (drnBase + 0x38), false) else (s, true))
  else (s, false)

/-! ### Draining and flagging (13, R368) -/

/-- Functions of the open contexts. -/
def State.openFns (s : State) : List Nat :=
  (allCtxs.filter fun c => decide ((s.ctx c).st ≠ .free)).map (· + 1)
/-- Raise a doorbell bit on every open context function. -/
def State.doorbellOpen (s : State) (j : Nat) : State := foldS s.openFns (fun s f => s.doorbell f j) s

/-- Enter DRAINING for a cause (01, R20): from READY, QUIESCED or DRAINING; the other states keep theirs. -/
def State.enterDrain (s : State) (cause : DrainCause) : State :=
  match s.glb.state with
  | .ready | .quiesced | .draining => s.updGlb fun g => { g with state := .draining, drainFor := cause }
  | _ => s

/-- Confirmation of a core (by number) or of the operand path (64), with the map bin. -/
def State.darnerDrain (s : State) (what bin : Nat) : State :=
  let s := (s.enterDrain .darner).lifetime 0x0031 [bin, what]
  let s := s.updDrn fun d =>
    { d with drain := true
             pathConfirmed := d.pathConfirmed || what == 64
             cores := if what < 64 then d.cores.upd what fun k => { k with confirmed := true } else d.cores }
  let s := (s.doorbell 0 13).doorbellOpen 13
  s.updBoard fun b => { b with health := false, suspect := true }

/-! ### Mismatches (13, R356, R357, R366, R367, R373) -/

/-- Count an event in a bin: it saturates and sets SAT, and the bin is raised. -/
def State.countBin (s : State) (bin : Nat) : State :=
  let now := s.mstep
  s.updDrn fun d => { d with map := d.map.upd bin fun b =>
    { b with count := if b.count = 0xFFFFFFFF then b.count else b.count + 1
             sat := b.sat || b.count == 0xFFFFFFFF
             raised := true
             lastAt := now } }

/-- Latch DRN_LAST; REPEAT when the same operation, tile and core mismatched before. -/
def State.latchLast (s : State) (verdict c core group op tile bin k : Nat) : State :=
  let key := (op, 4 * tile + group, core)
  s.updDrn fun d =>
    { d with
      last := { valid := true, verdict, rep := d.history.contains key, ctx := c, core, group, op := op % 65536, bin,
                step := k }
      history := if d.history.contains key then d.history else key :: d.history }

/-- Charge a minority to a core; the second within 1,000 counts confirms it.  Also: was it a further minority of a
confirmed core while the Darner drains? -/
def State.chargeMinority (s : State) (core bin : Nat) : State × Bool :=
  let now := s.mstep
  let d := s.drn.cores.get core
  let recent := now :: d.recent.filter fun t => decide (now - t < 1000)
  let further := d.confirmed && s.drn.drain
  let d' : DrnCore :=
    { d with recent
             minCnt := if d.minCnt = 0xFFFFFFFF then d.minCnt else d.minCnt + 1
             total := d.total + 1
             last := now }
  let s := (s.countBin bin).updDrn fun x => { x with cores := x.cores.set core d' }
  if recent.length ≥ 2 && !d.confirmed then (s.darnerDrain core bin, further) else (s, further)

/-- A path event; two within 1,000 counts confirm the operand path. -/
def State.pathEvent (s : State) (bin : Nat) : State :=
  let now := s.mstep
  let recent := now :: s.drn.pathRecent.filter fun t => decide (now - t < 1000)
  let s := ((s.countBin bin).bump (drnBase + 0x30)).updDrn fun d => { d with pathRecent := recent }
  if recent.length ≥ 2 && !s.drn.pathConfirmed then s.darnerDrain 64 bin else s

/-- The referee's verdict on a mismatched tile of context `c`'s step `k` (13, R356): the state, whether the step is
rewound, and whether a confirmed core was charged again. -/
def State.verdict (s : State) (c k : Nat) (t : Tile) (r : Referee) : State × Bool × Bool :=
  match r with
  | .original =>
    let b := buddyOf t.core
    let bin := s.binOn b t.bin
    let s := (s.lifetime 0x0030 [bin, b]).latchLast 0 c b t.group t.op t.index bin k
    let (s, f) := s.chargeMinority b bin
    (s, false, f)
  | .buddy =>
    let s := (s.lifetime 0x0030 [t.bin, t.core]).latchLast 1 c t.core t.group t.op t.index t.bin k
    let (s, f) := s.chargeMinority t.core t.bin
    (s, true, f)
  | .neither =>
    let s := (s.lifetime 0x0030 [t.bin, t.core]).latchLast 2 c t.core t.group t.op t.index t.bin k
    (s.pathEvent t.bin, true, false)

/-- A residue mismatch of core `n` (13, R350): a minority of the accumulating core. -/
def State.residueMismatch (s : State) (c k n op group index bin : Nat) : State × Bool :=
  let s := ((s.bump (drnBase + 0x40)).bump (drnBase + 0x20)).lifetime 0x0030 [bin, n]
  (s.latchLast 3 c n group op index bin k).chargeMinority n bin

/-- A lockstep mismatch of the DPP or TSU (06, R154; 10, R272): two within 1,000 steps drain the module. -/
def State.lockstepDrain (s : State) (last : Option Nat) (what : Nat) : State :=
  match last with
  | some t => if s.mstep - t < 1000 then s.darnerDrain what 0 else s
  | none => s

/-- Bins whose last mismatch lies RELEASE_STEPS counts back return to normal; their counts stay (13, R367). -/
def State.releaseBins (s : State) : State :=
  let now := s.mstep
  let settle : Nat → Nat × Bin → Nat × Bin := fun rel e =>
    if e.2.raised && decide (rel ≤ now - e.2.lastAt) then (e.1, { e.2 with raised := false }) else e
  s.updDrn fun d => { d with map := d.map.map (settle d.release) }

/-- GOALS_OFF (13, R354). -/
def State.goalsOff (s : State) : Bool := decide (64 < s.drn.div) || decide (s.drn.rotFloor < 16)
/-- Bins raised. -/
def State.raisedBins (s : State) : Nat := (s.drn.map.filter fun e => e.2.raised).length

/-- DRN_MSTEP advances at a step fence (13, R357); every 64 counts the owner copies the handover store into a mirror
half (17, R471). -/
def State.mstepTick (s : State) : State :=
  let s := (s.bump (drnBase + 0x10)).releaseBins
  if s.mstep % 64 = 0 && s.ctl.owner.isSome then
    let m := s.mstep
    let mirrorReqs := allCtxs.flatMap fun c => (s.ctx c).reqs.map fun r => (c, r.id, r.seq)
    s.updCtl fun c => { c with mirrorStep := some m, mirrorReqs }
  else s

end Sys2Proof.Machine
end

