-- ==== Sys2Proof/Machine/Flags.lean ====
section
/-!
DEFINITION. Sticky flags and counters that a step is charged with at its commit (03, R70; 06, R157; 07, R182; 10, R273).
-/
namespace Sys2Proof.Machine

def arrBase : Nat := 0xF00000
def dppBase : Nat := 0x1000000
def tsuBase : Nat := 0x1100000
def atnBase : Nat := 0x1200000

/-- Bits of ARR_SEAM_FLAGS (03, R72). -/
def seamOvf : BitVec 5 := 1
def seamLoss : BitVec 5 := 2
def seamSplit : BitVec 5 := 4
def seamNan : BitVec 5 := 8
def outSat : BitVec 5 := 16

/-- Advance an event counter by `n`, if any. -/
def State.bumpN (s : State) (off n : Nat) : State := if n = 0 then s else s.bumpBy off n

/-- Seam flags and counters (03, R70-R72). -/
def State.chargeSeam (s : State) (c : Nat) (h : Charge) : State :=
  let s := s.updActx c fun a =>
    { a with seamFlags := a.seamFlags ||| h.seam
             seamLastOp := match h.seamOp with
               | some op => if h.seam = 0 then a.seamLastOp else BitVec.ofNat 32 op
               | none => a.seamLastOp }
  ((s.bumpN (arrBase + 0x8008 + 0x20 * c) h.loss).bumpN (arrBase + 0x8010 + 0x20 * c) h.split).bumpN
    (arrBase + 0x8018 + 0x20 * c) h.ovf

/-- Attention flags and counters (07, R182, R183). -/
def State.chargeAtn (s : State) (c : Nat) (h : Charge) : State :=
  let s := { s with atn := { s.atn with
    flags := s.atn.flags.upd c (· ||| h.atn)
    lastOp := match h.atnOp with
      | some op => if h.atn = 0 then s.atn.lastOp else s.atn.lastOp.set c (some (BitVec.ofNat 32 op))
      | none => s.atn.lastOp } }
  ((s.bumpN (atnBase + 0x08) h.blocks).bumpN (atnBase + 0x10) h.skips).bumpN (atnBase + 0x1008 + 0x20 * c) h.emptyRows

/-- DPP flags and counters (06, R157). -/
def State.chargeDpp (s : State) (h : Charge) : State :=
  let s := s.updDpp fun d => { d with flags := d.flags ||| h.dpp }
  (((s.bumpN (dppBase + 0x08) h.images).bumpN (dppBase + 0x10) h.dropped).bumpN (dppBase + 0x18) h.truncs).bumpN
    (dppBase + 0x20) h.keepFulls

/-- TSU flags and counters (10, R273). -/
def State.chargeTsu (s : State) (c : Nat) (h : Charge) : State :=
  let s := s.updTsu fun t => { t with flags := t.flags.upd c (· ||| h.tsu) }
  ((((s.bumpN (tsuBase + 0x08) h.positions).bumpN (tsuBase + 0x1008 + 0x40 * c) h.proposed).bumpN
    (tsuBase + 0x1010 + 0x40 * c) h.accepted).bumpN (tsuBase + 0x1018 + 0x40 * c) h.fullRej).bumpN
    (tsuBase + 0x1020 + 0x40 * c) h.maskEmpty

/-- Everything a committed step is charged with. -/
def State.chargeStep (s : State) (c : Nat) (h : Charge) : State :=
  (((s.chargeSeam c h).chargeAtn c h).chargeDpp h).chargeTsu c h

/-- Two parts of one step's charge together; the first operation to set a flag stays the first. -/
def Charge.join (a b : Charge) : Charge :=
  { seam := a.seam ||| b.seam
    seamOp := if a.seam = 0 then b.seamOp else a.seamOp
    loss := a.loss + b.loss
    split := a.split + b.split
    ovf := a.ovf + b.ovf
    atn := a.atn ||| b.atn
    atnOp := if a.atn = 0 then b.atnOp else a.atnOp
    blocks := a.blocks + b.blocks
    skips := a.skips + b.skips
    emptyRows := a.emptyRows + b.emptyRows
    dpp := a.dpp ||| b.dpp
    images := a.images + b.images
    dropped := a.dropped + b.dropped
    truncs := a.truncs + b.truncs
    keepFulls := a.keepFulls + b.keepFulls
    tsu := a.tsu ||| b.tsu
    positions := a.positions + b.positions
    proposed := a.proposed + b.proposed
    accepted := a.accepted + b.accepted
    fullRej := a.fullRej + b.fullRej
    maskEmpty := a.maskEmpty + b.maskEmpty }

end Sys2Proof.Machine
end

