-- ==== Sys2Proof/Machine/Image.lean ====
section
/-!
DEFINITION. Reading the fields of a schedule image: header, operation list, buffer map, step preparation (05, R106-R112;
08, R197; 09, R230).
-/
namespace Sys2Proof.Machine

/-- `n` bytes of a byte list from `off`, as a number (00, R3). -/
def lb (l : List Byte) (off n : Nat) : Nat := leAt (fun i => l.getD i 0) off n

/-- A number of `w` bits read as two's complement. -/
def signedOf (w v : Nat) : Int := if v % 2 ^ w < 2 ^ (w - 1) then (v % 2 ^ w : Int) else (v % 2 ^ w : Int) - 2 ^ w

def imgStepCycles (g : Image) : Nat := lb g.header 16 4
def imgCheckDiv (g : Image) : Nat := lb g.header 28 2
def imgStartsPress (g : Image) : Bool := lb g.header 30 1 == 1
def imgWeightsId (g : Image) : Nat := lb g.header 40 8
def imgSeamStable (g : Image) : Bool := (lb g.header 6 2).testBit 0

/-- OPLIST entry of operation `op` (05, R109). -/
def imgOp (g : Image) (op : Nat) : Option (List Byte) := g.ops.find? fun e => lb e 0 4 == op
def opKind (e : List Byte) : Nat := lb e 4 1
def opPress (e : List Byte) : Bool := lb e 5 1 == 1
def opFmtA (e : List Byte) : Nat := lb e 6 1 / 16
def opFmtB (e : List Byte) : Nat := lb e 6 1 % 16
def opFmtOut (e : List Byte) : Nat := lb e 7 1 % 16
def opRtz (e : List Byte) : Bool := (lb e 7 1).testBit 4
def opFastReduce (e : List Byte) : Bool := (lb e 7 1).testBit 5
def opUrgentPoint (e : List Byte) : Bool := (lb e 7 1).testBit 6
def opCheckEligible (e : List Byte) : Bool := (lb e 7 1).testBit 7
def opAnchor (e : List Byte) : Int := signedOf 16 (lb e 8 2)
def opScale (e : List Byte) : Int := signedOf 8 (lb e 10 1)
def opCycles (e : List Byte) : Nat := lb e 12 4
def opLive (e : List Byte) : Nat := lb e 16 4
def opOutBuf (e : List Byte) : Nat := lb e 20 2

/-- Tiles eligible for Darner sampling. -/
def opTiles (e : List Byte) : Nat := lb e 22 2

/-- Is operation `op` an urgent point (05, R111)? -/
def imgUrgent (g : Image) (op : Nat) : Bool := ((imgOp g op).map opUrgentPoint).getD false

/-- BUFMAP entry of buffer `id` (05, R112). -/
def imgBuf (g : Image) (id : Nat) : Option (List Byte) := g.bufs.find? fun e => lb e 0 2 == id
def bufKind (e : List Byte) : Nat := lb e 2 1
def bufSpace (e : List Byte) : Nat := lb e 3 1
def bufOffset (e : List Byte) : Nat := lb e 8 8
def bufSize (e : List Byte) : Nat := lb e 16 8

/-- Descriptors of an operation kind, with their operation index. -/
def imgDescs (g : Image) (kind : Nat) : List (Nat × List Byte) :=
  g.descs.filter fun d => ((imgOp g d.1).map opKind).getD 0 == kind

/-- The descriptor of operation `op`, empty without one. -/
def imgDesc (g : Image) (op : Nat) : List Byte := ((g.descs.find? fun d => d.1 == op).map Prod.snd).getD []

/-- The KV_PREP descriptor: kind COPY, subtype 0x01 (08, R197). -/
def imgKvPrep (g : Image) : Option (List Byte) := ((imgDescs g 0x07).find? fun d => lb d.2 0 1 == 1).map Prod.snd
def imgField (g : Image) (off n : Nat) : Nat := ((imgKvPrep g).map fun d => lb d off n).getD 0
def imgCowMax (g : Image) : Nat := imgField g 2 2
def imgSeqEntries (g : Image) : Nat := imgField g 10 2
def imgMaxKeys (g : Image) : Nat := imgField g 12 4
/-- ROLE: 0 none, 1 PREFILL, 2 DECODE (09, R230). -/
def imgRole (g : Image) : Nat := imgField g 32 1
def imgDraftCap (g : Image) : Nat := imgField g 33 1
def imgSeqCap (g : Image) : Nat := imgField g 34 2
def imgPosCap (g : Image) : Nat := imgField g 36 4

/-- The image a context holds under a handle. -/
def State.image (s : State) (c h : Nat) : Option Image := (s.ctx c).images.get h

/-- QB_POS of the sequence table (07, R172, R173): that of the image's ATTENTION descriptors, 1 without one. -/
def imgQbPos (g : Image) : Nat := max 1 ((((imgDescs g 0x02).map fun d => lb d.2 7 1).head?).getD 1)
/-- The sequence-table buffer (08, R197). -/
def imgSeqBuf (g : Image) : Nat := imgField g 8 2
/-- Slots of one owner in a frame (05, R113). -/
def slotsOf (rs : List SlotRun) (o : Byte) : Nat := ((rs.filter fun r => r.owner = o).map (·.count)).foldl (· + ·) 0
/-- Does the frame of a resource hold WASH slots?  Of a resource the image has no frame for, nothing else takes slots. -/
def imgWash (g : Image) (res : Nat) : Bool :=
  match g.frames.find? fun f => f.1 == res with
  | some f => decide (0 < slotsOf f.2 0xE1)
  | none => true

/-- Vocabulary size of an image: that of its TSU operations (10, R270), 0 without one. -/
def imgVocab (g : Image) : Nat := (((imgDescs g 0x06).map fun d => lb d.2 8 4).head?).getD 0

end Sys2Proof.Machine
end

