-- ==== Sys2Proof/Machine/Kv.lean ====
section
/-!
DEFINITION. Key-value pages (08): the directory's events, page lists and roots, the boundary application and its
reversal, the layout of a page, step preparation and the walker.
-/
namespace Sys2Proof.Machine

/-! ### Directory -/

/-- Pages assigned to context `c`, in ascending ID order (08, R189). -/
def State.ctxPages (s : State) (c : Nat) : List (Nat × Page) := s.kvp.dir.filter fun e => e.2.owner = some c
def State.pagesIn (s : State) (c : Nat) (p : PageSt → Bool) : Nat :=
  ((s.ctxPages c).filter fun e => p e.2.st).length
/-- KVP_FREE[c], KVP_REF[c] and KVP_PEND[c] (08, R191). -/
def State.kvpFree (s : State) (c : Nat) : Nat := s.pagesIn c (· == .free)
def State.kvpRef (s : State) (c : Nat) : Nat := s.pagesIn c fun t => t != .free && t != .reclaim
def State.kvpPend (s : State) (c : Nat) : Nat := s.pagesIn c (· == .reclaim)
/-- KVP_TOTAL[c]. -/
def State.kvpTotal (s : State) (c : Nat) : Nat := (s.ctxPages c).length
/-- KVP_UNASSIGNED. -/
def State.kvpUnassigned (s : State) : Nat := 131072 - (s.kvp.dir.filter fun e => e.2.owner.isSome).length

/-- The slot a context's current key generation occupies: G mod 2 (14, R380). -/
def State.curSlot (s : State) (c : Nat) : Bool := (s.sec.keys.get c).gen % 2 == 1
/-- A unit enters slot `k` of context `c` (14, R382). -/
def State.unitEnter (s : State) (c : Nat) (k : Bool) : State := s.consAdd (cid 0x58 (2 * c + b2n k)) 1
/-- The old generation is retired once no unit remains under it: keys erased, ROTATING clear, doorbell bit 16. -/
def State.retireGen (s : State) (c : Nat) : State :=
  let k := s.sec.keys.get c
  let old := 2 * c + (k.gen + 1) % 2
  if k.rotating && !k.pendingGen && s.cons (cid 0x58 old) = s.cons (cid 0x59 old) then
    ((s.updSec fun x => { x with keys := x.keys.set c { k with rotating := false } }).doorbell 0 16).doorbell (c + 1) 16
  else s
/-- A unit leaves slot `k`; the old generation is retired exactly when its gauge reaches 0 (14, R382). -/
def State.unitLeave (s : State) (c : Nat) (k : Bool) : State := (s.consAdd (cid 0x59 (2 * c + b2n k)) 1).retireGen c

/-- State of a referenced page by its count (08, R190). -/
def refState (n : Nat) : PageSt := if n ≤ 1 then .active else .shared

/-- An added reference (08, R190).  A page that a pin takes while it is in RECLAIM returns from there with its GEN, KEYGEN
and contents, as in 13, R359: R190 has no row for it (DEDUCED, log 12). -/
def State.pageAdd (s : State) (p : Nat) : State :=
  let c := (s.page p).owner.getD 0
  if (s.page p).st = .reclaim then
    ((s.consAdd (cid 0x22 c) 1).consAdd (cid 0x20 c) 1).updPage p fun g =>
      { g with st := if g.scrub then .poisoned else .active, refs := 1, scrub := false }
  else s.updPage p fun g =>
    { g with
      refs := g.refs + 1
      st := if g.st = .active || g.st = .shared then refState (g.refs + 1) else g.st }

/-- A page returns to FREE (08, R190, R191, R210; 14, R382). -/
def State.pageFree (s : State) (p : Nat) : State :=
  let g := s.page p
  let c := g.owner.getD 0
  let s := (s.consAdd (cid 0x22 c) 1).unitLeave c g.keygen
  let s := if g.scrub then s.updMem fun m =>
      { m with poison := m.poison.filter fun e => e.1 < pageKey p 0 / 8 || pageKey (p + 1) 0 / 8 ≤ e.1 } else s
  s.updPage p fun g => { g with st := .free, refs := 0, scrub := false }

/-- A dropped reference in the boundary application after step `k`; `done` says that step has committed (08, R190,
R208). -/
def State.pageDrop (s : State) (p k : Nat) (done : Bool) : State :=
  let g := s.page p
  if g.refs ≤ 1 then
    let s := s.consAdd (cid 0x21 (g.owner.getD 0)) 1
    let s := s.updPage p fun g => { g with refs := 0, st := .reclaim, reclaimAt := k, scrub := g.st == .poisoned }
    if done then s.pageFree p else s
  else s.updPage p fun g =>
    { g with
      refs := g.refs - 1
      st := if g.st = .active || g.st = .shared then refState (g.refs - 1) else g.st }

/-- The lowest-numbered FREE page of context `c` (08, R194). -/
def State.lowestFree (s : State) (c : Nat) : Option Nat := ((s.ctxPages c).find? fun e => e.2.st = .free).map Prod.fst

/-- An allocation: the lowest FREE page becomes ACTIVE, or COW_PENDING as a copy destination (08, R190, R211). -/
def State.pageAlloc (s : State) (c : Nat) (copy : Bool) : Option (Nat × State) :=
  (s.lowestFree c).map fun p =>
    let k := s.curSlot c
    (p, ((s.consAdd (cid 0x20 c) 1).unitEnter c k).updPage p fun g =>
      { g with st := if copy then .cowPending else .active, refs := 1, gen := g.gen + 1, keygen := k })

/-! ### Lists and roots -/

def State.root (s : State) (slot : Nat) : Root := s.kvp.roots.get slot
/-- An entry as its granule holds it, 32 bits little-endian (08, R192). -/
def ListEnt.toBytes (e : ListEnt) : List Byte :=
  leBytes 4 (b2n e.valid * 2 ^ 31 + b2n e.tail * 2 ^ 30 + e.gen.toNat * 2 ^ 17 + e.page % 2 ^ 17)
/-- Index of entry `j` of a copy of a slot's list (08, R192). -/
def listKey (slot : Nat) (copy1 : Bool) (j : Nat) : Nat := (2 * slot + b2n copy1) * 2048 + j
/-- Entry `j` of the live list; entries at or beyond the page count do not exist (08, R193). -/
def State.liveEnt (s : State) (slot j : Nat) : ListEnt :=
  let r := s.root slot
  if r.valid && decide (j < r.count) then s.kvp.lists.get (listKey slot r.copy1 j) else {}
def State.liveEnts (s : State) (slot : Nat) : List ListEnt := (upto (s.root slot).count).map (s.liveEnt slot)

/-- Write a whole list into one copy. -/
def writeList (t : Tbl ListEnt) (lo : Nat) : Nat → List ListEnt → Tbl ListEnt
  | _, [] => t
  | j, e :: es => writeList (t.set (lo + j) e) lo (j + 1) es

/-- Key of the granule of a slot's lists: its place in HBM (08, R192; log 5). -/
def State.granuleKey (s : State) (slot : Nat) : Nat := 16384 * (s.root slot).granule
/-- Both copies of a slot's list hold `ents`, in the KVP's view and in the granule's bytes: firmware brings the new shadow up
to date after a swap, at once (08, R192, R193; log 138). -/
def State.loadLists (s : State) (slot : Nat) (ents : List ListEnt) : State :=
  let lo := listKey slot false 0
  let bytes := ents.flatMap ListEnt.toBytes
  let g := s.granuleKey slot
  (s.updKvp fun k =>
    { k with lists := writeList (writeList (k.lists.filter fun e => e.1 < lo || lo + 4096 ≤ e.1) lo 0 ents) (lo + 2048) 0
               ents }).updMem fun m => ((m.wipe g (g + 16384)).putAll g bytes).putAll (g + 8192) bytes

/-- Load the shadow with `ents` and swap the root to it (08, R193). -/
def State.swapRoot (s : State) (c slot : Nat) (valid : Bool) (ents : List ListEnt) : State :=
  (s.loadLists slot ents).updKvp fun k =>
    { k with roots := k.roots.upd slot fun r => { r with valid, ctx := c, count := ents.length, copy1 := !r.copy1 } }

/-- A list entry for a page just referenced, with its present GEN (08, R192). -/
def State.entFor (s : State) (p : Nat) (tail : Bool) : ListEnt :=
  { valid := true, tail, gen := (s.page p).gen, page := p }

/-- The list with position `j` replaced, lengthened as far as needed. -/
def setEnt (es : List ListEnt) (j : Nat) (e : ListEnt) : List ListEnt :=
  if j < es.length then es.set j e else es ++ List.replicate (j - es.length) default ++ [e]

/-! ### The boundary application (08, R194, R195) -/

/-- What one application has done so far: the state, the effects (newest first), the edited lists by slot, the slots of the
sequences left out, the allocations withdrawn with them, and the copies for KV_PREP. -/
structure Applied where
  s : State
  undo : List Undo := []
  lists : List (Nat × Option (List ListEnt)) := []
  out : List Nat := []
  withdrawn : List AllocReq := []
  copies : List (Nat × Nat × Nat × Bool) := []

/-- The list a slot will have after the edits applied so far. -/
def Applied.listOf (a : Applied) (slot : Nat) : List ListEnt :=
  match a.lists.find? fun e => e.1 = slot with
  | some (_, some es) => es
  | some (_, none) => []
  | none => a.s.liveEnts slot
def Applied.setList (a : Applied) (slot : Nat) (es : Option (List ListEnt)) : Applied :=
  { a with lists := (slot, es) :: a.lists.filter fun e => e.1 ≠ slot }

/-- Remove one occurrence of each element of `ys` from `xs`: a reference added and one dropped in the same
application cancel (DEDUCED, log 12). -/
def lessAll (xs ys : List Nat) : List Nat := ys.foldl List.erase xs

/-- Drop a reference, remembering what R359 reverses. -/
def Applied.drop (a : Applied) (k : Nat) (done again : Bool) (p : Nat) : Applied :=
  { a with s := a.s.pageDrop p k done, undo := .dropped p again :: a.undo }
def Applied.add (a : Applied) (p : Nat) : Applied :=
  let g := a.s.page p
  { a with s := a.s.pageAdd p, undo := (if g.st = .reclaim then .revived p g.reclaimAt else .added p) :: a.undo }

/-- One staged allocation, for a page that is known to be free. -/
def Applied.alloc (a : Applied) (c : Nat) (q : AllocReq) : Applied :=
  match a.s.pageAlloc c q.copyOf.isSome with
  | none => a
  | some (p, s) =>
    let a := { a with s := s, undo := .allocated p :: a.undo }
    let a := match q.copyOf with
      | some src => { a with s := a.s.bump (0x801030 + 0x40 * c), copies := a.copies ++ [(src, p, q.positions, q.req.isNone)] }
      | none => a
    let a := match q.req with
      | some _ => a.setList q.slot (some (setEnt (a.listOf q.slot) q.listPos (s.entFor p true)))
      | none =>
        -- a twin: the pin, if it still stands, and every joiner hold a reference; the allocation is one of them (08, R204)
        let n := q.joiners.length + b2n ((a.s.ctx c).pins.any (·.id = q.pin)) - 1
        let a := (List.replicate n p).foldl Applied.add a
        let a := q.joiners.foldl (fun a j => a.setList j.1 (some (setEnt (a.listOf j.1) j.2 (s.entFor p false)))) a
        { a with s := (a.s.updCtx c fun x => { x with pins := x.pins.map fun n =>
            if n.id = q.pin then { n with twins := n.twins ++ [(q.copyOf.getD 0, p)] } else n }).updKvp fun k =>
              { k with flags := k.flags.upd c (· ||| 0b10000) } }
    a

/-- Slots an allocation serves. -/
def AllocReq.slots (q : AllocReq) : List Nat := if q.req.isSome then [q.slot] else q.joiners.map Prod.fst
/-- What is left of an allocation that serves only some slots: a twin without a joiner is not made. -/
def AllocReq.only (p : Nat → Bool) (q : AllocReq) : Option AllocReq :=
  if q.req.isSome then (if p q.slot then some q else none)
  else
    let js := q.joiners.filter fun j => p j.1
    if js.isEmpty then none else some { q with joiners := js }

/-- A sequence's allocations together: served if all fit, otherwise withdrawn with NO_PAGE (08, R195). -/
def Applied.serve (a : Applied) (c : Nat) (qs : List AllocReq) : Applied :=
  if qs.length ≤ a.s.kvpFree c then qs.foldl (Applied.alloc · c) a
  else
    { a with s := a.s.updKvp fun v => { v with flags := v.flags.upd c (· ||| 0b01000) }
             out := a.out ++ qs.flatMap AllocReq.slots
             withdrawn := a.withdrawn ++ qs }

/-- Group consecutive allocations of one sequence. -/
def groupAllocs : List AllocReq → List (List AllocReq)
  | [] => []
  | q :: qs => match groupAllocs qs with
    | (r :: g) :: gs => if q.req.isSome && r.req = q.req then (q :: r :: g) :: gs else [q] :: (r :: g) :: gs
    | gs => [q] :: gs

def Applied.edit (a : Applied) : ListEdit → Applied
  | .tail slot j => a.setList slot (some ((a.listOf slot).modify j fun e => { e with tail := true }))
  | .install slot es => { a.setList slot (some es) with undo := .installed slot es :: a.undo }
  | .clear slot again =>
    let a := a.setList slot none
    if again then { a with undo := .cleared slot :: a.undo } else a

def ListEdit.slot : ListEdit → Nat
  | .tail k _ => k
  | .install k _ => k
  | .clear k _ => k
def ListEdit.isTail : ListEdit → Bool
  | .tail _ _ => true
  | _ => false
/-- Pages a staged list refers to. -/
def entPages (es : List ListEnt) : List Nat := es.filterMap fun e => if e.valid then some e.page else none
/-- Pages of the lists that sequences joining a prefix install: each is among the references to add. -/
def ListEdit.joined : ListEdit → List Nat
  | .install _ es => entPages es
  | _ => []

/-- The staged edits without those of some slots (08, R195). -/
def Staged.without (g : Staged) (out : List Nat) : Staged :=
  { g with
    adds := lessAll g.adds ((g.edits.filter fun e => e.slot ∈ out).flatMap ListEdit.joined)
    edits := g.edits.filter fun e => e.slot ∉ out
    allocs := g.allocs.filterMap (AllocReq.only fun k => !out.contains k) }
/-- What a sequence left out keeps staged for the next boundary: the list it joins with, and that list's references; its other
edits are made anew with the next batch (09, R233). -/
def Staged.keep (g : Staged) (out : List Nat) : Staged :=
  let installs := g.edits.filter fun e => e.slot ∈ out && !e.isTail
  { adds := installs.flatMap ListEdit.joined, edits := installs
    allocs := (g.allocs.filter (·.req.isNone)).filterMap (AllocReq.only out.contains) }

/-- One application in the order of R194, from the directory that step 1 leaves. -/
def State.applyOnce (s : State) (c k : Nat) (done : Bool) (g : Staged) : Applied :=
  let cow := g.allocs.filterMap fun (q : AllocReq) => if q.req.isSome then q.copyOf else none
  -- 2. drop references, those of copies on write among them; one staged for a page that the end drops takes the place of that
  let adds := lessAll g.adds g.drops
  let ends := g.stepDrops ++ cow
  let moved := lessAll ends (lessAll ends adds)
  let a : Applied := { s, undo := moved.map Undo.moved }
  let a := (lessAll g.drops g.adds).foldl (Applied.drop · k done true) a
  let a := (lessAll ends adds).foldl (Applied.drop · k done false) a
  -- list edits that the allocations build on
  let a := (g.edits.filter fun e => !e.isTail).foldl Applied.edit a
  -- 3. allocate, sequences first
  let a := (groupAllocs (g.allocs.filter (·.req.isSome)) ++ groupAllocs (g.allocs.filter (·.req.isNone))).foldl
    (Applied.serve · c) a
  let a := (g.edits.filter ListEdit.isTail).foldl Applied.edit a
  -- 4. add references
  let a := (lessAll adds ends).foldl Applied.add a
  -- 5. swap roots
  a.lists.reverse.foldl (fun a e =>
    { a with
      undo := .swapped e.1 (a.s.root e.1) (a.s.liveEnts e.1) :: a.undo
      s := a.s.swapRoot c e.1 e.2.isSome (e.2.getD []) }) a

/-- The application without the edits of the sequences that no page is left for: NO_PAGE, the sequences left out (R195).
Each round leaves out at least one more. -/
def State.applyFit (s : State) (c k : Nat) (done : Bool) (g : Staged) (lost : List AllocReq) : Nat → List Nat → Applied
  | 0, out => { s.applyOnce c k done (g.without out) with out, withdrawn := lost }
  | n + 1, out =>
    let a := s.applyOnce c k done (g.without out)
    if a.out.isEmpty then { a with out, withdrawn := lost }
    else
      (s.updKvp fun v => { v with flags := v.flags.upd c (· ||| 0b01000) }).applyFit c k done g (lost ++ a.withdrawn) n
        (out ++ a.out)

/-- The boundary application of context `c` after its step `k`; `done` says that step has committed, `commit` is the
latest committed step (08, R194). -/
def State.applyEdits (s : State) (c k : Nat) (done : Bool) (commit : Option Nat) : Applied :=
  let g := (s.ctx c).staged
  let s := s.updCtx c fun x => { x with staged := {} }
  -- 1. pages whose reclaim step has committed, but for one that a pin takes
  let due := (s.ctxPages c).filter fun e => e.2.st = .reclaim && e.1 ∉ g.adds && (match commit with
    | some m => decide (e.2.reclaimAt ≤ m)
    | none => false)
  let s := foldS (due.map Prod.fst) State.pageFree s
  let a := s.applyFit c k done g [] g.allocs.length []
  { a with s := a.s.updCtx c fun x => { x with staged := g.keep a.out } }

def State.stage (s : State) (c : Nat) (f : Staged → Staged) : State :=
  s.updCtx c fun x => { x with staged := f x.staged }

/-- A request that a rewind returns to the record `r` it had before: its cancel stays (13, R359), and its limit is lowered
again at the fence of its cancel point (09, R237); one that was QUEUED then stays as it was admitted, with nothing computed. -/
def restoreReq (r q : Req) : Req :=
  if r.st = .queued then
    { q with pagesLeft := q.pagesTotal, len := q.pinned, promptDone := q.pinned, counted := 0, deferred := false }
  else
    { r with
      cancel := q.cancel
      late := q.late
      tail := q.tail
      lenDone := q.lenDone
      countedDone := q.countedDone
      charged := q.charged }

/-- The reversal of one boundary effect, as an ordinary event (13, R359). -/
def State.reverseOne (s : State) (c : Nat) : Undo → State
  | .dropped p again =>
    let g := s.page p
    let s := if g.st = .reclaim then
      -- a page put in RECLAIM returns with its GEN, KEYGEN and contents
      ((s.consAdd (cid 0x22 c) 1).consAdd (cid 0x20 c) 1).updPage p fun g =>
        { g with st := if g.scrub then .poisoned else .active, refs := 1, scrub := false }
    else if g.st = .free then s else s.pageAdd p
    if again && g.st ≠ .free then s.stage c fun x => { x with drops := x.drops ++ [p] } else s
  | .allocated p => (s.consAdd (cid 0x21 c) 1).pageFree p
  | .added p => (s.pageDrop p 0 true).stage c fun x => { x with adds := x.adds ++ [p] }
  | .moved p => s.stage c fun x => { x with adds := x.adds ++ [p] }
  | .revived p k => ((s.consAdd (cid 0x21 c) 1).updPage p fun g =>
      { g with refs := 0, st := .reclaim, reclaimAt := k, scrub := g.st == .poisoned }).stage c fun x => { x with adds := x.adds ++ [p] }
  | .installed slot es => s.stage c fun x => { x with edits := x.edits ++ [.install slot es] }
  | .cleared slot => s.stage c fun x => { x with edits := x.edits ++ [.clear slot true] }
  | .swapped slot r es => (s.loadLists slot es).updKvp fun k => { k with roots := k.roots.set slot r }
  | .request r => s.updCtx c fun x =>
      { x with reqs := x.reqs.map fun q => if q.id = r.id then restoreReq r q else q }
  | .slotReleased _ _ => s.consAdd (cid 0x12 c) 1
  | .patchUnpinned k => (s.consAdd (cid 0x30 0) 1).updTsu fun t =>
      { t with patches := t.patches.upd k fun p => { p with pins := p.pins + 1 } }

def State.reverseAll (s : State) (c : Nat) (u : List Undo) : State := foldS u (fun s e => s.reverseOne c e) s

def ru64 (n : Nat) : Nat := (n + 63) / 64 * 64
def cdiv (a b : Nat) : Nat := (a + b - 1) / b

/-! ### The sequence table (07, R173) -/

/-- Entries of the sequence table for one sequence: one for each query-block group of its positions. -/
def Entry.groups (qb : Nat) (e : Entry) : List Entry :=
  if e.active ≤ qb then [e]
  else (upto (cdiv e.active qb)).map fun i => { e with first := e.first + qb * i, active := min qb (e.active - qb * i) }
/-- Entries of a step's sequence table. -/
def StepRec.table (r : StepRec) (qb : Nat) : List Entry := r.entries.flatMap (Entry.groups qb)

/-! ### Layout of a page (08, R187) -/

structure Geom where
  fmt : Nat := 0
  layers : Nat := 0
  heads : Nat := 0
  dim : Nat := 0
  deriving DecidableEq, Repr, Inhabited

def State.geom (s : State) (c : Nat) : Geom :=
  let x := s.ctx c
  { fmt := x.kvFmt, layers := x.layers, heads := x.heads, dim := x.dim }

/-- Element size in bytes of a KV format (05, R110). -/
def Geom.e (g : Geom) : Nat := if g.fmt = 0xB || g.fmt = 0xC then 2 else 1
def Geom.mx (g : Geom) : Bool := g.fmt == 0x3
def Geom.kElems (g : Geom) : Nat := 64 * ru64 (g.dim * g.e)
def Geom.kScales (g : Geom) : Nat := if g.mx then ru64 (64 * cdiv g.dim 32) else 0
def Geom.vElems (g : Geom) : Nat := g.dim * ru64 (64 * g.e)
def Geom.vScales (g : Geom) : Nat := if g.mx then ru64 (2 * g.dim) else 0
def Geom.part (g : Geom) : Nat := g.kElems + g.kScales + g.vElems + g.vScales
def Geom.bytes (g : Geom) : Nat := g.layers * g.heads * g.part
/-- PAGE_GRANULES. -/
def Geom.granules (g : Geom) : Nat := cdiv g.bytes 16384
def Geom.partOff (g : Geom) (layer head : Nat) : Nat := (layer * g.heads + head) * g.part
/-- Offsets within a page of the K element, K scale, V element and V scale of a position and component. -/
def Geom.kOff (g : Geom) (layer head pos comp : Nat) : Nat := g.partOff layer head + pos * ru64 (g.dim * g.e) + comp * g.e
def Geom.kScaleOff (g : Geom) (layer head pos block : Nat) : Nat :=
  g.partOff layer head + g.kElems + pos * cdiv g.dim 32 + block
def Geom.vOff (g : Geom) (layer head pos comp : Nat) : Nat :=
  g.partOff layer head + g.kElems + g.kScales + comp * ru64 (64 * g.e) + pos * g.e
def Geom.vScaleOff (g : Geom) (layer head comp block : Nat) : Nat :=
  g.partOff layer head + g.kElems + g.kScales + g.vElems + 2 * comp + block

/-- Lowest position that the 8-byte word at an offset of a page holds (R187). -/
def Geom.wordPos (g : Geom) (off : Nat) : Nat :=
  let o := off % g.part
  let v := o - g.kElems - g.kScales
  if o < g.kElems then o / ru64 (g.dim * g.e)
  else if o < g.kElems + g.kScales then (o - g.kElems) / cdiv g.dim 32
  else if v < g.vElems then v % ru64 (64 * g.e) / g.e
  else 0

/-- The byte runs of a page that hold positions below `n` of one part: K rows, K scales, V columns, V scales. -/
def Geom.runs (g : Geom) (layer head n : Nat) : List (Nat × Nat) :=
  (upto n).map (fun p => (g.kOff layer head p 0, g.dim * g.e)) ++
  (if g.mx then (upto n).map fun p => (g.kScaleOff layer head p 0, cdiv g.dim 32) else []) ++
  (upto g.dim).map (fun j => (g.vOff layer head 0 j, n * g.e)) ++
  (if g.mx then (upto g.dim).map fun j => (g.vScaleOff layer head j 0, cdiv n 32) else [])

/-- Copy `n` bytes with the poison of their words (12, R320). -/
def Mem.copyRun (m : Mem) (src dst : Nat) : Nat → Mem
  | 0 => m
  | n + 1 =>
    let m := m.put dst (m.byteAt src)
    let m := if m.poisoned src then m.setPoison dst true else m
    m.copyRun (src + 1) (dst + 1) n

/-- The copy of R205: positions below `n`, in every part; a word written whole anew loses its poison (12, R317). -/
def Mem.copyPage (m : Mem) (g : Geom) (src dst n : Nat) : Mem :=
  (upto g.layers).foldl (fun m l => (upto g.heads).foldl (fun m h =>
    (g.runs l h n).foldl (fun m r =>
      (m.freshRun (pageKey dst r.1) r.2).copyRun (pageKey src r.1) (pageKey dst r.1) r.2) m) m) m

/-! ### Walker (08, R197, R198) -/

/-- The walker row of a sequence: the live entries that cover `w` list positions. -/
def State.walkerRow (s : State) (slot w : Nat) : List ListEnt :=
  if slot = 0xFFFF then List.replicate w {} else (upto w).map (s.liveEnt slot)

/-- Does the walker fault this reference (08, R198)? -/
def State.listFault (s : State) (c : Nat) (e : ListEnt) : Bool :=
  let g := s.page e.page
  !e.valid || g.gen ≠ e.gen || g.owner ≠ some c || g.st = .free || g.st = .reclaim

/-- Set a sticky bit of KVP_FLAGS[c] (08, R216). -/
def State.kvpFlag (s : State) (c bitNo : Nat) : State :=
  s.updKvp fun k => { k with flags := k.flags.upd c (· ||| (1 <<< bitNo)) }

/-- Latch a poisoned page (08, R209, R215). -/
def State.latchPoison (s : State) (c p : Nat) : State := s.updKvp fun k => { k with poisonPage := some (c, p) }

end Sys2Proof.Machine
end

