-- ==== Sys2Proof/Machine/Serving.lean ====
section
/-!
DEFINITION. Serving control (09): accounts, order and admission, the end path, the batch of the next step, token batch
records, and the part of a step's fence and commit that belongs to requests.
-/
namespace Sys2Proof.Machine

/-! ### Pegs as deadlines -/

/-- Signed 48-bit difference `a - b` (02, R32). -/
def posDiff (a b : Pos) : Int := (a - b).toInt

/-- Estimated time to fire in µs of an ARMED peg (02, R46). -/
def State.fireEstimate (s : State) (p : Peg) : Nat :=
  let l := s.line p.line.val
  let v := l.vel.toInt
  let d := posDiff p.target l.hwm
  if v ≤ 0 || l.stopped then 0xFFFFFFFF
  else min 0xFFFFFFFE (cdiv (d.toNat * 65536 * 1000) v.toNat)

/-- ETA of the order key (09, R226): 0 once fired, the estimate while ARMED, otherwise 0xFFFF_FFFF; work that lost its
peg to a disarm orders with 0xFFFF_FFFF (02, R52). -/
def State.eta (s : State) (peg : Option Nat) (b : Binding) : Nat :=
  match peg with
  | none => 0xFFFFFFFF
  | some n =>
    let p := s.pegAt n
    if b ∉ p.bindings then 0xFFFFFFFF
    else match p.st with
      | .fired => 0
      | .armed => s.fireEstimate p
      | _ => 0xFFFFFFFF

/-- The order key (priority, ETA, acceptance order) as one number, smallest first (09, R226). -/
def keyOf (prio eta order : Nat) : Nat := prio * 2 ^ 96 + eta * 2 ^ 64 + order % 2 ^ 64

def State.reqKey (s : State) (c : Nat) (r : Req) : Nat := keyOf r.prio (s.eta r.peg (.request c r.id)) r.order

/-- Bind work to a peg. -/
def State.bindPeg (s : State) (n : Nat) (b : Binding) : State :=
  s.updPegAt n fun p => { p with bindings := p.bindings ++ [b] }

/-- Release a binding; the last one of a FIRED peg frees it (02, R41, R45). -/
def State.releasePeg (s : State) (peg : Option Nat) (b : Binding) : State :=
  match peg with
  | none => s
  | some n => if b ∈ (s.pegAt n).bindings then s.updPegAt n fun p =>
      let rest := p.bindings.erase b
      { p with
        bindings := rest
        releasedAt := if rest.isEmpty then some s.time else p.releasedAt
        st := if rest.isEmpty && p.st = .fired then .free else p.st }
    else s

/-! ### Accounts (09, R221-R225) -/

def State.acct (s : State) (c a : Nat) : Account := (s.ctx c).accounts.get a
def State.updAcct (s : State) (c a : Nat) (f : Account → Account) : State :=
  s.updCtx c fun x => { x with accounts := x.accounts.upd a f }
/-- Index of an account in families 0x01-0x07 (19, R520). -/
def accIdx (c a : Nat) : Nat := 1024 * c + a
/-- ACC_HELD: reserve - charge - refund (09, R224). -/
def State.accHeld (s : State) (c a : Nat) : Nat :=
  let i := accIdx c a
  s.cons (cid 0x03 i) - s.cons (cid 0x04 i) - s.cons (cid 0x05 i)

def State.accReserve (s : State) (c a n : Nat) : State :=
  (s.updAcct c a fun x => { x with level := x.level - n }).consAdd (cid 0x03 (accIdx c a)) n
def State.accCharge (s : State) (c a n : Nat) : State := s.consAdd (cid 0x04 (accIdx c a)) n
/-- Units above DEPTH are removed at once (09, R223). -/
def State.accTrim (s : State) (c a : Nat) : State :=
  let x := s.acct c a
  if x.depth < x.level then
    (s.updAcct c a fun x => { x with level := x.depth }).consAdd (cid 0x02 (accIdx c a)) (x.level - x.depth)
  else s
def State.accRefund (s : State) (c a n : Nat) : State :=
  ((s.updAcct c a fun x => { x with level := x.level + n }).consAdd (cid 0x05 (accIdx c a)) n).accTrim c a
/-- A grant that does not pass DEPTH (09, R222). -/
def State.accGrant (s : State) (c a n : Nat) : State :=
  let x := s.acct c a
  let n := min n (x.depth - x.level)
  (s.updAcct c a fun x => { x with level := x.level + n }).consAdd (cid 0x01 (accIdx c a)) n

/-! ### Requests -/

def State.findReq (s : State) (c id : Nat) : Option Req := (s.ctx c).reqs.find? (·.id = id)
def State.updReq (s : State) (c id : Nat) (f : Req → Req) : State :=
  s.updCtx c fun x => { x with reqs := x.reqs.map fun r => if r.id = id then f r else r }

/-- Requests by state (09, R247). -/
def State.reqsIn (s : State) (c : Nat) (p : ReqSt → Bool) : Nat := ((s.ctx c).reqs.filter fun r => p r.st).length
/-- Tracked requests of the whole module (09, R217). -/
def State.tracked (s : State) : Nat := (allCtxs.map fun c => (s.ctx c).reqs.length).foldl (· + ·) 0

/-- Sequence slots of the context in use, and those free. -/
def State.usedSlots (s : State) (c : Nat) : List Nat := (s.ctx c).reqs.filterMap (·.slot)
def State.freeSlots (s : State) (c : Nat) : List Nat := (s.ctx c).slots.filter (· ∉ s.usedSlots c)

/-- pages_available (09, R228): FREE and RECLAIM pages less the reservations not yet allocated. -/
def State.pagesAvailable (s : State) (c : Nat) : Nat :=
  s.kvpFree c + s.kvpPend c - ((s.ctx c).reqs.map (·.pagesLeft)).foldl (· + ·) 0

/-- Pages a request reserves (09, R228). -/
def reqPages (prompt newMax draftCap pinned : Nat) : Nat := cdiv (prompt + newMax + draftCap) 64 + 1 - pinned / 64

/-- Latest step of the context that has reached its fence: the cancel point of R237. -/
def State.lastFence (s : State) (c : Nat) : Option Nat :=
  match (s.ctx c).steps.reverse.find? (·.fenced) with
  | some r => some r.k
  | none => (s.actx c).commit

/-- Latch a cancel (09, R237): the cancel point, and in DECODE the remaining-token limit. -/
def State.cancelReq (s : State) (c id tail : Nat) (late : Bool) : State :=
  let cp := s.lastFence c
  s.updReq c id fun r =>
    if r.st = .ending || r.cancel.isSome then r
    else { r with
      cancel := some cp
      late
      tail
      limit := if r.st = .decode then min r.limit tail else r.limit }

/-- REQ_CANCEL's effect on every tracked request: DRAIN with CANCEL_ALL, or past its limit (15, R426). -/
def State.cancelAllReqs (s : State) (c : Nat) : State :=
  foldS (s.ctx c).reqs (fun s r => s.cancelReq c r.id r.tail false) s

/-! ### Token batch ring (09, R240-R245) -/

def ru8 (n : Nat) : Nat := (n + 7) / 8 * 8
/-- Length of a BATCH record of these entries (09, R241, R242). -/
def batchLen (es : List TbEntry) : Nat := ru64 (32 + (es.map fun e => 16 + ru8 (4 * e.toks.length)).foldl (· + ·) 0)

def State.tbSize (s : State) (c : Nat) : Nat := 2 ^ (s.ctx c).tbLog
/-- Bytes in the ring between TB_HEAD and TB_TAIL. -/
def State.tbUsed (s : State) (c : Nat) : Nat :=
  let f := s.func (c + 1)
  (f.tbTail + s.tbSize c - f.tbHead) % s.tbSize c
/-- Latest committed step of a context as records and results carry it: all ones before the first commit. -/
def State.commitWord (s : State) (c : Nat) : Nat := ((s.actx c).commit).getD (2 ^ 64 - 1)

/-- Bytes a record needs at the producer offset: its own, and a PAD's up to the end where it would straddle it. -/
def State.tbNeeds (s : State) (c len : Nat) : Nat :=
  let t := (s.func (c + 1)).tbTail
  if s.tbSize c < t + len then (s.tbSize c - t) + len else len
/-- Is there room (15, R549)? -/
def State.tbFits (s : State) (c len : Nat) : Bool := decide (s.tbUsed c + s.tbNeeds c len + 64 ≤ s.tbSize c)

/-- Code of a record's kind (09, R241). -/
def TbKind.code : TbKind → Nat
  | .batch => 1
  | .confirm => 2
  | .revoke => 3
  | .pad => 4

/-- Bytes of an entry, padded to a multiple of 8 (09, R242). -/
def TbEntry.toBytes (e : TbEntry) : List Byte :=
  leBytes 8 e.req ++ leBytes 2 e.status ++ leBytes 1 e.toks.length ++
  leBytes 1 (b2n e.fin + 2 * b2n e.dropped + 4 * b2n e.miss + 16 * e.reason) ++ leBytes 4 e.pos ++
  e.toks.flatMap (leBytes 4) ++ if e.toks.length % 2 = 1 then leBytes 4 0 else []

/-- Bytes of a record: the 32-byte header, the entries of a BATCH, zeros to its length (09, R241, R242). -/
def TbRec.toBytes (r : TbRec) : List Byte :=
  let head := leBytes 1 r.kind.code ++ leBytes 1 (b2n r.provisional + 2 * b2n r.replacement + 4 * b2n r.nostep) ++
    leBytes 2 (if r.kind = .batch then r.entries.length else 0) ++ leBytes 4 r.len ++ leBytes 8 r.step ++ leBytes 8 r.committed ++
    leBytes 8 r.time.toNat
  let body := head ++ if r.kind = .batch then r.entries.flatMap TbEntry.toBytes else []
  body ++ List.replicate (r.len - body.length) 0

/-- Put one record into the ring, a PAD before it where it would straddle the end, and ring doorbell bit 8 (09, R240). -/
def State.tbPut (s : State) (c : Nat) (r : TbRec) : State :=
  let size := s.tbSize c
  let t := (s.func (c + 1)).tbTail
  let stamp : TbRec → TbRec := fun r => { r with committed := s.commitWord c, time := s.pegTime }
  let pad := if size < t + r.len then [stamp { kind := .pad, step := s.commitWord c, len := size - t }] else []
  let s := foldS pad (fun s p => s.hostPut (c + 1) ((s.ctx c).tbBase.toNat + t) p.toBytes) s
  let t := if size < t + r.len then 0 else t
  let s := s.hostPut (c + 1) ((s.ctx c).tbBase.toNat + t) (stamp r).toBytes
  ((s.updCtx c fun x => { x with tbRing := x.tbRing ++ pad ++ [stamp r] }).updFunc (c + 1) fun f =>
    { f with tbTail := (t + r.len) % size }).doorbell (c + 1) 8

/-- Bytes waiting on the module (09, R245). -/
def State.tbHeld (s : State) (c : Nat) : Nat := (((s.ctx c).tbWait).map (·.len)).foldl (· + ·) 0

/-- Move waiting records to the ring while they fit, in order. -/
def tbDrainList (c : Nat) : List TbRec → State → State
  | [], s => s.updCtx c fun x => { x with tbWait := [] }
  | r :: rs, s => if s.tbFits c r.len then tbDrainList c rs (s.tbPut c r)
      else s.updCtx c fun x => { x with tbWait := r :: rs }
/-- Records formed in a switch-over gap wait for the successor (17, R461). -/
def State.tbDrain (s : State) (c : Nat) : State := if s.ctl.gap then s else tbDrainList c (s.ctx c).tbWait s

/-- Write a record: to the ring, or behind the waiting ones (09, R245). -/
def State.tbWrite (s : State) (c : Nat) (r : TbRec) : State :=
  let s := if (s.ctx c).tbWait.isEmpty then s.updCtx c fun x => { x with tbStall := s.time } else s
  (s.updCtx c fun x => { x with tbWait := x.tbWait ++ [r] }).tbDrain c

/-- Can the on-module buffer hold a maximum record (09, R245)? -/
def State.tbReady (s : State) (c : Nat) : Bool := decide (s.tbHeld c + 229440 ≤ 1048576)

/-- BATCH records of at most 4,096 entries: END entries of requests that ended without a step, NOSTEP (09, R242). -/
def chunks {α : Type} (n : Nat) : Nat → List α → List (List α)
  | 0, _ => []
  | _ + 1, [] => []
  | f + 1, xs => xs.take n :: chunks n f (xs.drop n)

def State.writeNostep (s : State) (c : Nat) : State :=
  let es := (s.ctx c).tbEnds
  let s := s.updCtx c fun x => { x with tbEnds := [] }
  foldS (chunks 4096 es.length es) (fun s g =>
    s.tbWrite c { kind := .batch, nostep := true, step := s.commitWord c, entries := g, len := batchLen g }) s

/-! ### The end path (09, R236) -/

/-- Final status of a reason (09, R235); reason 11 is NO_RESOURCE or, for a disabled account, DENIED. -/
def reasonStatus (reason : Nat) (denied : Bool) : Nat :=
  if reason = 1 || reason = 2 || reason = 3 || reason = 4 then stOk
  else if reason = 5 then stCancelled
  else if reason = 6 || reason = 7 then stTimeout
  else if reason = 8 then stPoisoned
  else if reason = 9 then stCtxFault
  else if reason = 10 then stLost
  else if denied then stDenied else stNoRes

def State.unpinPatch (s : State) (k : Nat) : State :=
  (s.consAdd (cid 0x31 0) 1).updTsu fun t => { t with patches := t.patches.upd k fun p => { p with pins := p.pins - 1 } }

/-- Add to the reversal list of the context's latest begun step. -/
def State.pushUndo (s : State) (c : Nat) (us : List Undo) : State :=
  s.updCtx c fun x => match x.steps.reverse with
    | [] => x
    | r :: rest => { x with steps := (({ r with undo := us ++ r.undo } : StepRec) :: rest).reverse }

/-- Records the ledger ring has room for: 64 MiB of 32 bytes (12, R311; 17, R471). -/
def ledgerSize : Nat := 2 ^ 21
/-- Append a record to the ledger. -/
def Ctx.note (x : Ctx) (id order : Nat) (ends : Bool) : Ctx :=
  let l := x.ledger ++ [(id, order, ends)]
  { x with ledger := l.drop (l.length - ledgerSize) }

/-- Second part: refund, peg binding, untracking (09, R236). -/
def State.finishReq (s : State) (c : Nat) (r : Req) : State :=
  let s := if r.reservation = 0 then s else s.accRefund c r.account (r.reservation - r.charged)
  let s := s.releasePeg r.peg (.request c r.id)
  (s.updCtx c fun x => ({ x with reqs := x.reqs.filter (·.id ≠ r.id) } : Ctx).note r.id r.order true).consAdd (cid 0x11 c) 1

/-- The position of a record entry that carries no token: a free value, another for every request and step (09, R242;
log 56). -/
def State.openPos (s : State) (c id k : Nat) : Nat :=
  Config.value (2 ^ 64 * (2 ^ 64 * (16 * (1 + id) + c) + k) + s.fresh) % 2 ^ 32

/-- Staging of an end's page edits for slot `k` (R236): the drop of every reference its list holds, with the list; a list that
has not been installed yet goes with the references and twins staged for it. -/
def Staged.endSlot (g : Staged) (k : Nat) (pages : List Nat) (byStep : Bool) : Staged :=
  if g.edits.any fun e => e.slot == k && !e.isTail then g.without [k]
  else
    { g with
      drops := if byStep then g.drops else g.drops ++ pages
      stepDrops := if byStep then g.stepDrops ++ pages else g.stepDrops
      edits := g.edits ++ [ListEdit.clear k !byStep] }

/-- End a request with `reason`: first part at the boundary; for an end without a step the second part at once, its END
entry in the next record (09, R235, R236, R242).  A cancel prevails over LENGTH (R238). -/
def State.endReq (s : State) (c : Nat) (r : Req) (reason : Nat) (denied : Bool) (step : Option Nat) : State :=
  let reason := if reason = 4 && r.cancel.isSome then 5 else reason
  let reason := if reason = 5 && r.late then 6 else reason
  let pages : List Nat := match r.slot with
    | some k => entPages (s.liveEnts k)
    | none => []
  let r' : Req :=
    { r with st := .ending, reason, status := reasonStatus reason denied, endStep := step, pagesLeft := 0, slot := none, pages
             patchSlot := none }
  let s := match r.slot with
    | some k =>
      let s := s.stage c fun g => g.endSlot k pages step.isSome
      let s := s.consAdd (cid 0x13 c) 1
      if step.isSome then s.pushUndo c [.slotReleased k r.id] else s
    | none => s
  let s := match r.patchSlot with
    | some k => let s := s.unpinPatch k
                if step.isSome then s.pushUndo c [.patchUnpinned k] else s
    | none => s
  let s := s.updReq c r.id fun _ => r'
  if step.isSome then s
  else
    let miss := match r.peg with
      | some n => (s.pegAt n).miss && (Binding.request c r.id ∈ (s.pegAt n).bindings)
      | none => false
    let s := s.updCtx c fun x => { x with tbEnds := x.tbEnds ++
      [{ req := r.id, status := r'.status, fin := true, miss, reason, pos := s.openPos c r.id 0 }] }
    s.finishReq c r'

/-! ### Admission (09, R227-R229; 08, R204; 10, R267) -/

/-- May requests be admitted: not while QUIESCED, DRAINING or in DOZE (09, R229), nor while the module has left service,
nor for a context that is FAULTED or being reset. -/
def State.mayAdmit (s : State) (c : Nat) : Bool :=
  s.glb.state == .ready && (match (s.ctx c).st with
    | .ready => true
    | .running => true
    | .suspended => true
    | _ => false)

/-- The page a joiner of a pin's page attaches to: the page, or a twin with room, or none when it takes a twin still to be made;
the references staged count too (08, R204). -/
def State.joinPage (s : State) (c : Nat) (n : Pin) (p : Nat) : Option Nat :=
  let load : Nat → Nat := fun q => (s.page q).refs + (s.ctx c).staged.adds.count q
  ((p :: (n.twins.filterMap fun t => if t.1 = p then some t.2 else none)).find? fun q => decide (load q < 1023))

/-- Attach a joiner to a twin: to one already staged for the boundary that has room, or else to a new one (08, R204).  The
page and 8 twins hold 9,207 references, more than there are slots. -/
def Staged.twin (g : Staged) (n : Pin) (p slot pos : Nat) : Staged :=
  let room : AllocReq → Bool := fun q => q.req.isNone && q.pin == n.id && q.copyOf == some p && decide (q.joiners.length < 1022)
  match g.allocs.findIdx? room with
  | some i => { g with allocs := g.allocs.modify i fun q => { q with joiners := q.joiners ++ [(slot, pos)] } }
  | none => { g with allocs := g.allocs ++
      [{ copyOf := some p, positions := min 64 (n.len - 64 * pos), pin := n.id, joiners := [(slot, pos)] }] }

/-- join_prefix: copies of the pin's entries with TAIL clear and one reference to each page, or a twin (08, R204). -/
def State.joinPrefix (s : State) (c slot : Nat) (n : Pin) : State :=
  let es := n.pages.map fun p => match s.joinPage c n p with
    | some q => ({ valid := true, tail := false, gen := (s.page q).gen, page := q } : ListEnt)
    | none => default
  let s := s.stage c fun g =>
    { g with
      edits := g.edits ++ [.install slot es]
      adds := g.adds ++ (es.filterMap fun e => if e.valid then some e.page else none) }
  foldS ((n.pages.zip es).zip (upto es.length)) (fun s e =>
    if e.1.2.valid then s
    else s.stage c fun g => g.twin n e.1.1 slot e.2) s

/-- The READY slot that holds the highest version of a patch ID for the context (10, R267). -/
def State.bestPatch (s : State) (c id : Nat) : Option Nat :=
  ((s.tsu.patches.filter fun e => e.2.st = .ready && e.2.owner = c && e.2.id = id).foldl
    (fun best e => match best with
      | none => some (e.1, e.2.version)
      | some b => if b.2 < e.2.version then some (e.1, e.2.version) else some b) none).map Prod.fst

/-- Draft length cap of a request: min(DRAFT_MAX, DRAFT_CAP) (10, R263). -/
def State.draftCapOf (s : State) (c : Nat) (r : Req) : Nat :=
  min r.sel.draftMax (((s.image c r.decImg).map imgDraftCap).getD 0)

/-- TSU state of a new sequence (10, R254). -/
def State.freshSeq (s : State) (c : Nat) (r : Req) : TsuSeq :=
  { gstate := match r.sel.grammar with
      | some g => (s.tsu.grams.get g).table.le 16 4
      | none => 0
    draftLen := s.draftCapOf c r, limit := r.newMax }

/-- Admit one request whose account, slot and pages suffice. -/
def State.admitOne (s : State) (c : Nat) (r : Req) (reservation slot pages : Nat) (pin : Option Pin) : State :=
  let a := s.acct c r.account
  let pinned := (pin.map (·.len)).getD 0
  let s := s.accReserve c r.account reservation
  let s := s.consAdd (cid 0x12 c) 1
  let s := match pin with
    | some n => s.joinPrefix c slot n
    | none => s.stage c fun g => { g with edits := g.edits ++ [ListEdit.install slot []] }
  let patch := r.sel.patch.bind (s.bestPatch c)
  let s := match patch with
    | some k => (s.consAdd (cid 0x30 0) 1).updTsu fun t =>
        { t with patches := t.patches.upd k fun p => { p with pins := p.pins + 1 } }
    | none => s
  let fresh := s.freshSeq c r
  let s := s.updTsu fun t => { t with seqs := (t.seqs.set (2 * slot) fresh).set (2 * slot + 1) fresh }
  let r' : Req :=
    { r with st := .prefill, reservation, inCost := a.inCost, outCost := a.outCost, slot := some slot, pinned,
             pagesTotal := pages, pagesLeft := pages, len := pinned, lenDone := pinned, promptDone := pinned,
             limit := r.newMax, patchSlot := patch }
  let s := s.updReq c r.id fun _ => r'
  -- no READY version of its patch: it ends with reason 11 (10, R267)
  if r.sel.patch.isSome && patch.isNone then s.endReq c r' 11 false none else s

/-- An edit of slot `k` as one of slot `f`. -/
def ListEdit.reslot (k f : Nat) : ListEdit → ListEdit
  | .install j es => .install (if j = k then f else j) es
  | .clear j again => .clear (if j = k then f else j) again
  | .tail j pos => .tail (if j = k then f else j) pos

/-- A request admitted after the end that a rewind takes back holds the slot which the ended request takes again: it
moves to a free slot, or without one returns to QUEUED with its reservation refunded (13, R359; log 54). -/
def State.yieldSlot (s : State) (c : Nat) (q : Req) (k : Nat) : State :=
  match (s.freeSlots c).head? with
  | some f =>
    let fresh := s.freshSeq c q
    let s := s.updTsu fun t => { t with seqs := (t.seqs.set (2 * f) fresh).set (2 * f + 1) fresh }
    let s := s.stage c fun g =>
      { g with edits := g.edits.map (ListEdit.reslot k f)
               allocs := g.allocs.map fun (a : AllocReq) =>
                 { a with slot := if a.slot = k then f else a.slot
                          joiners := a.joiners.map fun j => if j.1 = k then (f, j.2) else j } }
    s.updReq c q.id fun r => { r with slot := some f }
  | none =>
    let s := s.stage c fun g => g.without [k]
    let s := (s.consAdd (cid 0x13 c) 1).accRefund c q.account (q.reservation - q.charged)
    let s := match q.patchSlot with
      | some p => s.unpinPatch p
      | none => s
    s.updReq c q.id fun r =>
      { r with st := .queued, slot := none, reservation := 0, patchSlot := none, pinned := 0, pagesTotal := 0, pagesLeft := 0
               len := 0, lenDone := 0, promptDone := 0, counted := 0 }

/-- Slots that the ends taken back by a rewind need again. -/
def State.yieldSlots (s : State) (c : Nat) (us : List Undo) : State :=
  foldS us (fun s u => match u with
    | .slotReleased k id => foldS ((s.ctx c).reqs.filter fun q => q.id ≠ id && q.slot == some k) (fun s q => s.yieldSlot c q k) s
    | _ => s) s

/-- One pass over the queued requests in order-key order (09, R227): accounts short of budget are blocked, slots and
pages keep strict order. -/
def admitList (c : Nat) : List Req → List Nat → State → State
  | [], _, s => s
  | r :: rs, blocked, s =>
    if r.account ∈ blocked then admitList c rs blocked s
    else
      let a := s.acct c r.account
      let pin := r.pin.bind fun id => (s.ctx c).pins.find? (·.id = id)
      let pinned := (pin.map (·.len)).getD 0
      let need := (r.prompt - pinned) * a.inCost + r.newMax * a.outCost
      let pages := reqPages r.prompt r.newMax (((s.image c r.decImg).map imgDraftCap).getD 0) pinned
      if a.level < need then admitList c rs (r.account :: blocked) s
      else if (pin.map (·.poisoned)).getD false then admitList c rs blocked (s.endReq c r 8 false none)
      else if s.pagesAvailable c < pages then s
      else match s.choose (s.freeSlots c) with
        | none => s
        | some (slot, s) => admitList c rs blocked (s.admitOne c r need slot pages pin)

/-- Sort by key, smallest first. -/
def insertBy {α : Type} (key : α → Nat) (x : α) : List α → List α
  | [] => [x]
  | y :: ys => if key x < key y then x :: y :: ys else y :: insertBy key x ys
def sortBy {α : Type} (key : α → Nat) : List α → List α
  | [] => []
  | x :: xs => insertBy key x (sortBy key xs)

/-- Queued requests that will not end at the next boundary. -/
def State.admissible (s : State) (c : Nat) (r : Req) : Bool :=
  r.st == .queued && r.cancel.isNone && (s.acct c r.account).enable &&
  (match r.queueEnd with
   | some t => decide (s.time < t)
   | none => true)

/-- Admission of context `c` (09, R227). -/
def State.admission (s : State) (c : Nat) : State :=
  if s.mayAdmit c then
    admitList c (sortBy (s.reqKey c) ((s.ctx c).reqs.filter (s.admissible c))) [] s
  else s

/-! ### Ends at a boundary, for requests outside any step (09, R218, R229, R237; 08, R209) -/

/-- Does a live list hold a POISONED page? -/
def State.listPoisoned (s : State) (slot : Nat) : Bool :=
  (s.liveEnts slot).any fun e => e.valid && (s.page e.page).st = .poisoned

/-- Latest uncommitted step that a request rode in: an end determined at the boundary after it is that step's (09, R236). -/
def State.lastRide (s : State) (c id : Nat) : Option Nat :=
  ((s.ctx c).steps.reverse.find? fun q => q.entries.any fun e => e.req == id && e.slot != 0xFFFF).map (·.k)
/-- The step that is about to be repeated, if the request is in its table: it ends there at its fence, or now by R209. -/
def State.replayRide (s : State) (c id : Nat) : Option Nat :=
  ((s.ctx c).next.filter fun q => q.replayed && q.entries.any fun e => e.req == id).map (·.k)

/-- An end at a boundary. -/
def State.boundaryEnd (s : State) (c : Nat) (r : Req) : State :=
  let bad := (r.slot.map s.listPoisoned).getD false
  match r.st with
  | .queued =>
    if r.cancel.isSome then s.endReq c r 5 false none
    else if (match r.queueEnd with | some t => decide (t ≤ s.time) | none => false) then s.endReq c r 7 false none
    else if !(s.acct c r.account).enable then s.endReq c r 11 true none
    else s
  | .ending => s
  | st =>
    match s.replayRide c r.id with
    | some k => if bad then s.endReq c r 8 false (some k) else s
    | none =>
      let ride := s.lastRide c r.id
      if st = .prefill && r.cancel.isSome then s.endReq c r 5 false ride
      else if bad then s.endReq c r 8 false ride
      else if r.refusals ≥ 64 then s.endReq c r 11 false ride
      else s

def State.boundaryEnds (s : State) (c : Nat) : State := foldS (s.ctx c).reqs (fun s r => s.boundaryEnd c r) s

/-! ### The batch of the next step (09, R230-R233) -/

/-- Draft length of a slot for step `k`: the copy of its parity (10, R254). -/
def State.tsuSeq (s : State) (slot k : Nat) : TsuSeq := s.tsu.seqs.get (2 * slot + k % 2)

/-- Image a ready request needs next: the prefill image while prompt positions remain (09, R231). -/
def wantsImg (r : Req) : Nat := if r.promptDone < r.prompt then r.preImg else r.decImg

/-- Ready sequences in order-key order, those left out by R207 first (09, R231; 08, R207). -/
def State.readyReqs (s : State) (c : Nat) : List Req :=
  let rs := (s.ctx c).reqs.filter fun r =>
    (r.st == .prefill && r.cancel.isNone) || r.st == .decode
  sortBy (fun r => (if r.deferred then 0 else 2 ^ 128) + s.reqKey c r) rs

/-- Largest d' ≤ d with length + 1 + d' within MAX_KEYS, none if even 0 does not fit (09, R232). -/
def fitDraft (len maxKeys : Nat) : Nat → Option Nat
  | 0 => if len + 1 ≤ maxKeys then some 0 else none
  | d + 1 => if len + 1 + (d + 1) ≤ maxKeys then some (d + 1) else fitDraft len maxKeys d

/-- The list of a slot as its next boundary installs it, else the live one. -/
def State.listNow (s : State) (c slot : Nat) : List ListEnt :=
  match (s.ctx c).staged.edits.find? fun e => e.slot == slot && !e.isTail with
  | some (.install _ es) => es
  | _ => s.liveEnts slot

/-- The page work a sequence needs to write positions `first .. first + n - 1`: TAIL to set, allocations, copy
(08, R205). -/
def State.pageWork (s : State) (c : Nat) (r : Req) (slot n : Nat) : List ListEdit × List AllocReq :=
  let first := r.len
  let lo := first / 64
  let hi := (first + n - 1) / 64
  ((upto (hi + 1 - lo)).map (lo + ·)).foldl (fun (acc : List ListEdit × List AllocReq) j =>
    let e := (s.listNow c slot).getD j default
    if e.valid then
      if e.tail then acc
      else if (s.page e.page).refs + (s.ctx c).staged.adds.count e.page ≤ 1 then (acc.1 ++ [.tail slot j], acc.2)
      else (acc.1, acc.2 ++ [{ req := some r.id, slot, listPos := j, copyOf := some e.page, positions := r.len % 64 }])
    else if (s.ctx c).staged.allocs.any fun q => q.req.isNone && (slot, j) ∈ q.joiners then acc
    else (acc.1, acc.2 ++ [{ req := some r.id, slot, listPos := j }])) ([], [])

/-- What building a batch has so far. -/
structure Build where
  s : State
  entries : List Entry := []
  copies : Nat := 0

/-- Place one ready sequence in the batch of image `g` for step `k` (09, R231, R232; 08, R205, R207). -/
def Build.place (b : Build) (c k : Nat) (g : Image) (prefill : Bool) (r : Req) : Build :=
  if imgSeqCap g ≤ b.entries.length then b
  else match r.slot with
  | none => b
  | some slot =>
    let d? := if prefill then some 0
      else fitDraft r.len (imgMaxKeys g) (min (b.s.tsuSeq slot k).draftLen (imgDraftCap g))
    match d? with
    | none => { b with s := b.s.endReq c r 4 false (b.s.lastRide c r.id) }
    | some d =>
      let n := if prefill then min (imgPosCap g) (r.prompt - r.promptDone) else 1 + d
      let (edits, allocs) := b.s.pageWork c r slot n
      let cp := (allocs.filter (·.copyOf.isSome)).length
      if imgCowMax g < b.copies + cp then
        { b with s := ((b.s.kvpFlag c 2).bump (0x800000 + 0x1038 + 0x40 * c)).updReq c r.id fun r => { r with deferred := true } }
      else
        { s := (b.s.stage c fun q => { q with edits := q.edits ++ edits, allocs := q.allocs ++ allocs }).updReq c r.id
            fun r => { r with pagesLeft := r.pagesLeft - (allocs.filter (·.copyOf.isNone)).length - cp, deferred := false }
          entries := b.entries ++ [{ req := r.id, slot, first := r.len, active := n, drafts := d, pfx := r.pinned }]
          copies := b.copies + cp }

/-- The twins staged already take places in the copy list. -/
def State.twinsStaged (s : State) (c : Nat) : Nat := ((s.ctx c).staged.allocs.filter (·.req.isNone)).length

/-- Build the batch of step `k` (09, R231): the image of the first ready sequence, filled in order-key order; none when
no sequence is ready or the record buffer has no room for a maximum record (09, R245). -/
def State.buildBatch (s : State) (c k : Nat) : State × Option StepRec :=
  if !s.tbReady c then (s, none)
  else match s.readyReqs c with
  | [] => (s, none)
  | r :: rs =>
    let h := wantsImg r
    match s.image c h with
    | none => (s, none)
    | some g =>
      let pre := imgRole g == 1
      let b := ((r :: rs).filter fun q => wantsImg q = h).foldl (Build.place · c k g pre)
        { s, copies := s.twinsStaged c }
      if b.entries.isEmpty then (b.s, none)
      else (b.s, some { k, handle := h, isPrefill := pre, entries := b.entries })

/-- After the boundary application: sequences it left out do not ride (08, R195; 09, R233); each refusal is counted and
written to the lifetime record as a memory fault is; the copy list and its allocations go with the step. -/
def State.settleBatch (s : State) (c : Nat) (a : Applied) (b : Option StepRec) : State × Option StepRec :=
  let s := foldS ((s.ctx c).reqs) (fun s r =>
    if (r.slot.map a.out.contains).getD false then
      -- the table of R523 names no type for this record: the type is a free value
      let (v, s) := s.draw
      let back := (a.withdrawn.filter fun (q : AllocReq) => q.req == some r.id).length
      (s.lifetime (Config.value v % 65536) [c, r.id]).updReq c r.id fun r =>
        { r with refusals := r.refusals + 1, pagesLeft := r.pagesLeft + back }
    else s) s
  match b with
  | none => (s, none)
  | some b =>
    let es := b.entries.filter fun e => !a.out.contains e.slot
    let s := foldS es (fun s e => s.updReq c e.req fun r => { r with refusals := 0 }) s
    if es.isEmpty && b.job.isNone then (s, none) else (s, some { b with entries := es, copies := a.copies })

/-! ### A step's tokens at its fence (10, R262; 09, R235, R237, R238) -/

/-- Next grammar state after token `t` in state `st` (10, R257-R259): the transition for `t`, else the default. -/
def gramStateOff (t : Blob) (st : Nat) : Nat := t.le 24 4 + 16 * st
def gramAccept (t : Blob) (st : Nat) : Bool := (t.le (gramStateOff t st + 12) 4).testBit 31
def gramTrans (t : Blob) (st : Nat) : List (Nat × Nat) :=
  let o := gramStateOff t st
  (upto (t.le (o + 8) 4)).map fun i =>
    let q := t.le 32 4 + 8 * (t.le (o + 4) 4 + i)
    (t.le q 4, t.le (q + 4) 4)
def gramNext (t : Blob) (st tok : Nat) : Nat :=
  match (gramTrans t st).find? fun e => e.1 = tok with
  | some e => e.2
  | none =>
    let d := (t.le (gramStateOff t st + 12) 4) % 2 ^ 24
    if d = 0xFFFFFF then st else d

/-- Does the mask of a state allow token `t` (10, R255 step 1, R257)? -/
def gramMask (t : Blob) (st tok : Nat) : Bool :=
  let m := t.le (gramStateOff t st) 4
  if m = 0xFFFFFFFF then false
  else
    let e := t.le 28 4 + 16 * m
    let len := t.le (e + 4) 4
    let off := t.le 36 4 + t.le (e + 8) 4
    if t.le e 1 = 0 then decide (tok / 8 < len) && (t.at (off + tok / 8)).getLsbD (tok % 8)
    else (upto (len / 4)).any fun i => t.le (off + 4 * i) 4 = tok
/-- Is the mask of a state empty? -/
def gramMaskEmpty (t : Blob) (st : Nat) : Bool :=
  let m := t.le (gramStateOff t st) 4
  if m = 0xFFFFFFFF then true
  else
    let e := t.le 28 4 + 16 * m
    let len := t.le (e + 4) 4
    let off := t.le 36 4 + t.le (e + 8) 4
    if t.le e 1 = 0 then (upto len).all fun i => t.at (off + i) = 0 else len < 4

/-- Counting the tokens a step put out (10, R262): the tokens counted, the grammar state after them, and the reason that
stopped the count (0 none).  An end token never moves the grammar state; `left` is what the remaining-token limit and N
allow. -/
def countToks (gram : Option Blob) (ends : List Nat) : List Nat → Nat → Nat → List Nat × Nat × Nat
  | [], _, g => ([], g, 0)
  | _ :: _, 0, g => ([], g, 2)
  | t :: ts, left + 1, g =>
    if t ∈ ends then ([t], g, 1)
    else
      let g' := match gram with
        | some tab => gramNext tab g t
        | none => g
      let stop := match gram with
        | some tab => gramAccept tab g' && gramMaskEmpty tab g'
        | none => false
      if left = 0 then ([t], g', 2)
      else if stop then ([t], g', 3)
      else
        let (us, g2, why) := countToks gram ends ts left g'
        (t :: us, g2, why)

/-- What the fence of step `k` does with one row of its sequence table; the row with its counted tokens and reason. -/
def State.fenceEntry (s : State) (c k : Nat) (pre : Bool) (e : Entry) : State × Entry :=
  match s.findReq c e.req with
  | none => (s, e)
  | some r =>
    if r.st = .ending then (s, e)
    else
      let dropped := match r.cancel with
        | some cp => (match cp with | some p => decide (p < k) | none => true)
        | none => false
      let gram := r.sel.grammar.map fun g => (s.tsu.grams.get g).table
      let q := s.tsuSeq e.slot k
      let complete := !pre || decide (r.prompt ≤ r.promptDone + e.active)
      let (toks, g', why) := if complete then countToks gram r.sel.ends e.tokens r.limit q.gstate else ([], q.gstate, 0)
      -- an empty mask ends the request with its last token, once that is counted (10, R255)
      let why := if e.reason = 11 && toks.length = e.tokens.length then 11 else why
      let len := if pre then r.len + e.active else r.len + toks.length
      let win := (toks.reverse ++ q.window).take 4096
      let n := e.drafts
      -- the next draft length (10, R263); a step run with the length lowered by R232 leaves it as it was
      let cap := s.draftCapOf c r
      let (dl, zs) := if pre || q.draftLen ≠ n then (q.draftLen, q.zeroSteps)
        else if n = 0 then
          if cap = 0 then (0, 0) else if q.zeroSteps + 1 ≥ 64 then (1, 0) else (0, q.zeroSteps + 1)
        else if e.accepted = n then (min (n + 1) cap, 0)
        else if e.accepted = 0 then (n / 2, 0)
        else (n, 0)
      let limit := r.limit - toks.length
      let q' : TsuSeq := { gstate := g', window := win, draftLen := dl, zeroSteps := zs, limit }
      let s := s.updTsu fun t => { t with seqs := t.seqs.set (2 * e.slot + (k + 1) % 2) q' }
      let st := if pre then (if complete then ReqSt.decode else .prefill) else .decode
      let r' : Req :=
        { r with st, len, promptDone := if pre then r.promptDone + e.active else r.promptDone,
                 counted := r.counted + toks.length, limit }
      let s := s.updReq c r.id fun _ => r'
      -- a cancel prevails over the end the step would have had (R237, R238); a POISONED page ends what has no end yet (R209)
      let reason :=
        if r.cancel.isSome && (why ≠ 0 || (dropped && r.st = .prefill)) then 5
        else if why ≠ 0 then why
        else if s.listPoisoned e.slot then 8
        else 0
      let e' := { e with tokens := toks, reason }
      -- GRAMMAR_END, charged with the step (10, R275)
      let s := if reason = 3 then s.updCtx c fun x => { x with steps := x.steps.map fun (q : StepRec) =>
          if q.k = k then { q with charge := { q.charge with tsu := q.charge.tsu ||| 8 } } else q } else s
      if reason = 0 then (s, e') else (s.endReq c r' reason false (some k), e')

/-- The sequences that waited out step `k`: their TSU state goes over to the other copy, and a cancel whose point is this fence
lowers the limit of a request in DECODE, again after a rewind (10, R254; 09, R237). -/
def State.fenceOthers (s : State) (c k : Nat) (es : List Entry) : State :=
  let idle := (s.usedSlots c).filter fun j => !(es.any fun e => e.slot == j)
  let s := s.updTsu fun t => { t with seqs := idle.foldl (fun m j => m.set (2 * j + (k + 1) % 2) (m.get (2 * j + k % 2))) t.seqs }
  foldS (s.ctx c).reqs (fun s r =>
    if r.cancel == some (some k) && r.st == .decode then s.updReq c r.id fun r => { r with limit := min r.limit r.tail } else s) s

/-- The fence of a serving step: every row of its table. -/
def fenceEntries (c k : Nat) (pre : Bool) : List Entry → State → State × List Entry
  | [], s => (s, [])
  | e :: es, s =>
    let (s, e) := s.fenceEntry c k pre e
    let (s, es) := fenceEntries c k pre es s
    (s, e :: es)

/-! ### Records and charges at the commit (09, R223, R236, R243, R244) -/

/-- The record entry of a row, for a request that counted a token or formed its END entry; without a delivered token its
position is a free value, since the spec states none (09, R242; log 56). -/
def State.recEntry (s : State) (c k : Nat) (pre : Bool) (e : Entry) : Option TbEntry :=
  match s.findReq c e.req with
  | none => none
  | some r =>
    let fin := r.st == .ending && r.endStep == some k
    if e.tokens.isEmpty && !fin then none
    else
      let dropped := match r.cancel with
        | some cp => (match cp with | some p => decide (p < k) | none => true)
        | none => false
      let miss := match r.peg with
        | some n => (s.pegAt n).miss && (s.pegAt n).st == .fired && (Binding.request c r.id ∈ (s.pegAt n).bindings)
        | none => false
      some { req := r.id, status := if fin then r.status else 0, toks := if dropped then [] else e.tokens, fin, dropped,
             miss, reason := if fin then r.reason else 0
             pos := if dropped || e.tokens.isEmpty then s.openPos c r.id k
               else if pre then e.first + e.active else e.first + 1 }

/-- Is a request EARLY? -/
def State.isEarly (s : State) (c id : Nat) : Bool := ((s.findReq c id).map (·.early)).getD false

/-- At the fence: the provisional BATCH record of the EARLY requests (09, R244). -/
def State.writeEarly (s : State) (c : Nat) (b : StepRec) : State :=
  let mine := fun (e : Entry) => if s.isEarly c e.req then s.recEntry c b.k b.isPrefill e else none
  let es := b.entries.filterMap mine
  if es.isEmpty then s
  else
    (s.tbWrite c { kind := .batch, provisional := true, replacement := decide (b.k ≤ (s.ctx c).replaceTo), step := b.k, entries := es,
                   len := batchLen es }).updCtx c fun x => { x with steps := x.steps.map fun (r : StepRec) =>
      if r.k = b.k then
        { r with earlySent := true
                 entries := r.entries.map fun (e : Entry) => { e with sentEnd := ((mine e).map (·.fin)).getD false } }
      else r }

/-- The entry of a row in the record of the commit: an EARLY request has only an END entry that its EARLY record did not hold,
its end having been determined at the boundary (09, R236, R242, R244). -/
def State.commitEntry (s : State) (c : Nat) (b : StepRec) (e : Entry) : Option TbEntry :=
  if !s.isEarly c e.req then s.recEntry c b.k b.isPrefill e
  else if e.sentEnd then none
  else (s.recEntry c b.k b.isPrefill { e with tokens := [] }).filter (·.fin)

/-- At the commit: charges, the BATCH and CONFIRM records, and the second part of the end path. -/
def State.commitServing (s : State) (c : Nat) (b : StepRec) (serving : Bool) : State :=
  let s := foldS b.entries (fun s e => match s.findReq c e.req with
    | none => s
    | some r =>
      if e.slot = 0xFFFF then s else
      let pos := if b.isPrefill then e.active else 0
      let units := pos * r.inCost + e.tokens.length * r.outCost
      (s.accCharge c r.account units).updReq c r.id fun r =>
        { r with
          charged := r.charged + units
          lenDone := if b.isPrefill then e.first + e.active else e.first + e.tokens.length
          countedDone := r.countedDone + e.tokens.length }) s
  let es := b.entries.filterMap (s.commitEntry c b)
  let room := 4096 - es.length
  let ends := (s.ctx c).tbEnds
  let allEarly := !b.entries.isEmpty && b.entries.all fun e => s.isEarly c e.req
  let s := if (serving && !allEarly) || !es.isEmpty || !ends.isEmpty then
      let all := es ++ ends.take room
      ((s.updCtx c fun x => { x with tbEnds := ends.drop room }).tbWrite c
        { kind := .batch, replacement := decide (b.k ≤ (s.ctx c).replaceTo), step := b.k, entries := all, len := batchLen all }).writeNostep c
    else s
  let s := if b.earlySent then s.tbWrite c { kind := .confirm, step := b.k } else s
  foldS ((s.ctx c).reqs.filter fun r => r.st == .ending && r.endStep == some b.k) (fun s r => s.finishReq c r) s

end Sys2Proof.Machine
end

