-- ==== Sys2Proof/Machine/Mmu.lean ====
section
/-!
DEFINITION. Translation entries and frames: mapping, unmapping, and the room in context memory (12, R311, R328-R330;
08, R189; 14, R382).
-/
namespace Sys2Proof.Machine

/-- Bytes of a translation page (12, R328). -/
def pageBytes : Nat := 2 ^ 21

/-- The translation entry of virtual page `v` of context `c`. -/
def State.xlatAt (s : State) (c v : Nat) : Xlat := s.mem.xlat.get ((s.ctx c).mmuBase + v)
def State.setXlat (s : State) (c v : Nat) (e : Xlat) : State :=
  s.updMem fun m => { m with xlat := m.xlat.set ((s.ctx c).mmuBase + v) e }

/-- VALID entries of a context. -/
def State.validEntries (s : State) (c : Nat) : Nat :=
  let x := s.ctx c
  (s.mem.xlat.filter fun e => x.mmuBase ≤ e.1 && e.1 < x.mmuBase + x.mmuSize && e.2.valid).length

/-! ### Context memory (R311; 08, R189) -/

/-- Frames a number of granules takes; granules of one use share no frame with another (08, R189). -/
def granuleFrames (n : Nat) : Nat := cdiv n 128

/-- A run of granules with the rest of the frames it touches. -/
def frameRun (r : Nat × Nat) : Nat × Nat := (r.1 / 128 * 128, cdiv r.2 128 * 128)
/-- Granules of the pages of context `c`, and of its list granules. -/
def State.pageRuns (s : State) (c : Nat) : List (Nat × Nat) :=
  (s.ctxPages c).map fun e => (e.2.base.toNat, e.2.base.toNat + (s.ctx c).granules)
def State.listRuns (s : State) (c : Nat) : List (Nat × Nat) :=
  (s.ctx c).slots.map fun k => ((s.root k).granule, (s.root k).granule + 1)
/-- Granules of the frames that uses of context memory hold, but for what firmware holds: KV pages, list granules, mapped
translation entries. -/
def State.takenRuns (s : State) : List (Nat × Nat) :=
  (allCtxs.flatMap fun c => (s.pageRuns c ++ s.listRuns c).map frameRun) ++
    s.mem.xlat.filterMap fun e => if e.2.valid then some (128 * e.2.frame.toNat, 128 * e.2.frame.toNat + 128) else none

/-- Granules that firmware holds for schedule images, grammar tables and patch packages, each from a granule of its own
(DESIGN CHOICE, log 17). -/
def State.firmwareGranules (s : State) : Nat :=
  let g := fun (b : Blob) => cdiv b.len 16384
  (allCtxs.map fun c => ((s.ctx c).images.map fun e => (e.2.map fun (i : Image) => g i.raw).getD 0).foldl (· + ·) 0).foldl (· + ·) 0 +
    (s.tsu.grams.map fun e => g e.2.table).foldl (· + ·) 0 + (s.tsu.patches.map fun e => g e.2.pkg).foldl (· + ·) 0

/-- Numbers that a list of runs covers, by start. -/
def coverLen (rs : List (Nat × Nat)) : Nat :=
  ((sortBy Prod.fst rs).foldl (fun (a : Nat × Nat) r => (a.1 + (r.2 - max r.1 a.2), max a.2 r.2)) (0, 0)).1
/-- Frames that context memory may use: 97,280, and the spares that have taken the place of a retired one (R311, R321). -/
def State.frameSpan (s : State) : Nat := 97280 + min 256 s.mem.retired.length
/-- Granules that no use may take: those in use, and the retired frames. -/
def State.heldRuns (s : State) : List (Nat × Nat) := s.takenRuns ++ s.mem.retired.map fun f => (128 * f, 128 * f + 128)
/-- Frames of context memory that nothing holds, of the 97,280; a retirement without a spare takes one away (R311, R321). -/
def State.framesFree (s : State) : Nat :=
  97280 - (s.mem.retired.length - 256) - coverLen s.takenRuns / 128 - granuleFrames s.firmwareGranules
/-- Is there room for one more object of `n` bytes that firmware holds? -/
def State.objectFits (s : State) (n : Nat) : Bool :=
  decide (granuleFrames (s.firmwareGranules + cdiv n 16384) ≤ s.framesFree + granuleFrames s.firmwareGranules)

/-- Start of `n` consecutive places below `size` that no range of `used` (start and end) takes, wherever
firmware puts them (log 4); none if there is none. -/
def State.pickPlace (s : State) (size n : Nat) (used : List (Nat × Nat)) : Option (Nat × State) :=
  let (gaps, last) := (sortBy Prod.fst used).foldl (fun (a : List (Nat × Nat) × Nat) r => (a.1 ++ [(a.2, r.1 - a.2)], max a.2 r.2))
    ([], 0)
  let gaps := (gaps ++ [(last, size - last)]).filter fun g => n ≤ g.2
  match s.choose (upto gaps.length) with
  | none => none
  | some (i, s) =>
    let g := gaps.getD i (0, n)
    if g.2 = n then some (g.1, s)
    else
      let (k, s) := s.draw
      some (g.1 + (Config.pick k (g.2 - n)).val, s)

/-- Map virtual page `v` of context `c` to a free frame of firmware's choice, if there is one; a page mapped already keeps its
frame. -/
def State.mapPage (s : State) (c v : Nat) (write weight : Bool) : State :=
  let e := s.xlatAt c v
  if e.valid then s.setXlat c v { e with read := true, write := e.write || write, weight := e.weight || weight }
  else match s.pickPlace s.frameSpan 1 (s.heldRuns.map fun r => (r.1 / 128, r.2 / 128)) with
    | none => s
    | some (f, s) =>
      let g := s.curSlot c
      (s.unitEnter c g).setXlat c v { valid := true, read := true, write, weight, keygen := g, frame := BitVec.ofNat 17 f }

/-! ### Retirement (R321) -/

/-- The frame that takes a retired one's contents: the next spare, or with none left a free frame of context memory. -/
def State.newFrame (s : State) : Option (Nat × State) :=
  let n := s.mem.retired.length
  if n < 256 then some (97280 + n, s) else s.pickPlace s.frameSpan 1 (s.heldRuns.map fun r => (r.1 / 128, r.2 / 128))

/-- Granule `x` once frame `f` has moved to `g`. -/
def movedTo (f g x : Nat) : Nat := if x / 128 = f then 128 * g + x % 128 else x

/-- Frame `f` of context memory is retired: translation entries, pages and list granules that lay in it move with their
contents.  A page that another frame shares stays (log 145). -/
def State.retireFrame (s : State) (f : Nat) : State :=
  if s.frameSpan ≤ f || s.mem.retired.contains f then s
  else
    let note (s : State) : State := s.updMem fun m => { m with retired := m.retired ++ [f] }
    match s.newFrame with
    | none => note s
    | some (g, s) =>
      let s := s.updMem fun m => { m with xlat := m.xlat.map fun e =>
        if e.2.valid && e.2.frame.toNat == f then (e.1, { e.2 with frame := BitVec.ofNat 17 g }) else e }
      let s := s.updKvp fun k => { k with dir := k.dir.map fun e => match e.2.owner with
        | some c =>
          let b := e.2.base.toNat
          if (b + (s.ctx c).granules - 1) / 128 = f then (e.1, { e.2 with base := BitVec.ofNat 24 (movedTo f g b) }) else e
        | none => e }
      let s := foldS ((s.kvp.roots.filter fun e => e.2.granule / 128 == f).map Prod.fst) (fun s k =>
        let old := s.granuleKey k
        let bytes := (upto 16384).map fun i => s.mem.byteAt (old + i)
        let bad := (upto 2048).filter fun i => s.mem.poisoned (old + 8 * i)
        let s := s.updKvp fun v => { v with roots := v.roots.upd k fun r => { r with granule := movedTo f g r.granule } }
        let new := s.granuleKey k
        s.updMem fun m => bad.foldl (fun m i => m.setPoison (new + 8 * i) true) ((m.wipe old (old + 16384)).putAll new bytes)) s
      note s

/-- Reserve virtual page `v` for a mapping at its first access (12, R329, R330). -/
def State.reservePage (s : State) (c v : Nat) : State :=
  let e := s.xlatAt c v
  if e.valid then s else s.setXlat c v { onDemand := true, read := true, write := true }

/-- Unmap virtual page `v`; what it held is gone. -/
def State.unmapPage (s : State) (c v : Nat) : State :=
  let e := s.xlatAt c v
  let s := if e.valid then
      (s.unitLeave c e.keygen).updMem fun m => m.wipe (ctxKey c (v * pageBytes)) (ctxKey c ((v + 1) * pageBytes))
    else s
  s.setXlat c v {}

/-- Virtual pages a range of bytes touches. -/
def vaPages (va len : Nat) : List Nat :=
  if len = 0 then [] else (upto ((va + len - 1) / pageBytes - va / pageBytes + 1)).map (va / pageBytes + ·)

def State.mapRange (s : State) (c va len : Nat) (write weight : Bool) : State :=
  foldS (vaPages va len) (fun s v => s.mapPage c v write weight) s
def State.unmapRange (s : State) (c va len : Nat) : State := foldS (vaPages va len) (fun s v => s.unmapPage c v) s

/-- Is every page of a range within the context's space and mapped, or to be mapped at its first access, for this kind
of access? -/
def State.vaOk (s : State) (c va len : Nat) (write : Bool) : Bool :=
  decide (va + len ≤ (s.ctx c).mmuSize * pageBytes) &&
  (vaPages va len).all fun v =>
    let e := s.xlatAt c v
    (e.valid || e.onDemand) && (if write then e.write else e.read)

/-- Pages of a range that a mapping would newly take. -/
def State.newPages (s : State) (c va len : Nat) : Nat := ((vaPages va len).filter fun v => !(s.xlatAt c v).valid).length

/-- Map the ON_DEMAND pages of a range, zero-filled (12, R330). -/
def State.touchRange (s : State) (c va len : Nat) : State :=
  foldS (vaPages va len) (fun s v => if (s.xlatAt c v).onDemand && !(s.xlatAt c v).valid then s.mapPage c v true false else s) s

/-- Where firmware puts `n` new pages in a context's virtual space: any place whose entries are free (log 18). -/
def State.pickPages (s : State) (c n : Nat) : Option (Nat × State) :=
  let x := s.ctx c
  s.pickPlace x.mmuSize n <| (s.mem.xlat.filter fun e => x.mmuBase ≤ e.1 && e.1 < x.mmuBase + x.mmuSize).map fun e =>
    (e.1 - x.mmuBase, e.1 + 1 - x.mmuBase)

end Sys2Proof.Machine
end

