-- ==== Sys2Proof/Machine/FrameBufs.lean ====
section
/-!
DEFINITION. Frame buffers and records of video sessions: who holds a buffer, the event queue, and the closing of a session
(11, R283-R287, R293-R295).
-/
namespace Sys2Proof.Machine

/-- Number of a session in `Vid.sess` (11, R281): decode 0-255, encode 256 + n. -/
def sessKey (session : Nat) (enc : Bool) : Nat := session + 256 * b2n enc
/-- Session key and buffer index of a frame buffer handle (11, R284). -/
def handleSess (h : Nat) : Nat := sessKey (h / 2 ^ 24 % 256) (h.testBit 23)
def handleBuf (h : Nat) : Nat := h % 1024
/-- The handle of buffer `i` of session key `k`. -/
def handleOf (k i : Nat) : Nat := k % 256 * 2 ^ 24 + (if 256 ≤ k then 2 ^ 23 else 0) + i

/-- Is a buffer held (11, R285)? -/
def FrameBuf.held (b : FrameBuf) : Bool :=
  b.piped || b.mark.isSome || b.output || decide (b.hostRefs + b.jobRefs ≠ 0)

/-- Change a buffer, counting its transitions between free and held (11, R287). -/
def State.updBuf (s : State) (k i : Nat) (f : FrameBuf → FrameBuf) : State :=
  let c := (s.sess k).ctx
  let b := (s.sess k).bufs.get i
  let b' := f b
  let s := s.updSess k fun x => { x with bufs := x.bufs.set i b' }
  if b.held && !b'.held then s.consAdd (cid 0x39 c) 1
  else if !b.held && b'.held then s.consAdd (cid 0x38 c) 1
  else s

/-- Does handle `h` name a buffer of an open session of context `c`? -/
def State.handleOk (s : State) (c h : Nat) : Bool :=
  let x := s.sess (handleSess h)
  x.opened && x.ctx == c && decide (handleBuf h < x.cfg.buffers) && decide (h % 2 ^ 23 < 1024)

/-- Does a pipe work for the session? -/
def State.sessPiped (s : State) (k : Nat) : Bool :=
  (upto 3).any fun p => (s.vid.pipes.get p).busy && sessKey (s.vid.pipes.get p).session (s.vid.pipes.get p).enc == k

/-- Sessions of a context that are open. -/
def State.sessionsOf (s : State) (c : Nat) : List Nat :=
  (s.vid.sess.filter fun e => e.2.opened && e.2.ctx == c).map Prod.fst

/-- Unmap everything the context's commands mapped. -/
def State.unmapAll (s : State) (c : Nat) : State :=
  let x := s.ctx c
  let vs := (s.mem.xlat.filter fun e => x.mmuBase ≤ e.1 && e.1 < x.mmuBase + x.mmuSize).map fun e => e.1 - x.mmuBase
  foldS vs (fun s v => s.unmapPage c v) s

/-- The end of a close: keys destroyed, pages back to the unassigned IDs, ranges, slots, accounts and quotas given up, and
the context is FREE (14, R378, R379; 08, R189). -/
def State.freeCtx (s : State) (c : Nat) : State :=
  let s := foldS ((s.ctx c).accounts.map Prod.fst) (fun s a =>
    -- the level goes by ACC_REMOVE, so that R224 holds (log 15)
    let n := (s.acct c a).level
    (s.updAcct c a fun x => { x with level := 0 }).consAdd (cid 0x02 (accIdx c a)) n) s
  let s := s.unmapAll c
  let s := s.updKvp fun k =>
    { k with dir := k.dir.map fun e => if e.2.owner = some c then (e.1, { (default : Page) with gen := e.2.gen }) else e }
  let s := s.updKvp fun k => { k with dir := k.dir.filter fun e => e.2 ≠ default }
  let s := foldS (s.ctx c).slots (fun s j =>
    (s.updMem fun m => m.wipe (s.granuleKey j) (s.granuleKey j + 16384)).updKvp fun k => { k with roots := k.roots.del j }) s
  let s := s.updSec fun x => { x with keys := x.keys.set c {} }
  let s := { s with ctxs := s.ctxs.set c {} }
  s.completeAll (fun w => w == .ctxClose c) fun _ => .of stOk

/-- A reset is complete once every session of the context is freed: the context is READY and CTX_RESET completes; a
close that waited for it frees the context (14, R378, R379; 15, R420). -/
def State.tryResetDone (s : State) (c : Nat) : State :=
  if (s.ctx c).st = .resetting && (s.sessionsOf c).isEmpty then
    let close := (s.ctx c).closing
    let s := s.updCtx c fun x => { x with st := .ready, closing := false }
    let s := s.completeAll (fun w => w == .ctxReset c) fun _ => .of stOk
    if close then s.freeCtx c else s
  else s

/-- Address of buffer `i` of a session in its context's virtual space, and the bytes a buffer takes (11, R284). -/
def VidCfg.pitch (v : VidCfg) : Nat :=
  (v.width * (if v.fmt = 1 || v.fmt = 3 then 2 else 1) + 255) / 256 * 256
def VidCfg.bufBytes (v : VidCfg) : Nat :=
  let luma := v.pitch * ((v.height + 15) / 16 * 16)
  (4096 + luma + (if v.fmt < 2 then luma / 2 else 0) + 4095) / 4096 * 4096
def State.bufVa (s : State) (k i : Nat) : Nat := (s.sess k).base + i * (s.sess k).cfg.bufBytes

/-! ### The video event queue (R293, R294) -/

/-- Room for one more record (15, R404, R549). -/
def State.veqRoom (s : State) (f : Nat) : Bool :=
  let w := s.func f
  w.veqEnable && decide (w.veq.length + 1 < 2 ^ (w.veqLog + 6))

/-- Write a record, stamped with PEG_TIME; a FRAME record leaves its copy in the buffer; doorbell bit 9. -/
def State.veqPut (s : State) (c : Nat) (r : VidRec) : State :=
  let r := { r with bytes := r.bytes ++ leBytes 8 s.pegTime.toNat }
  let w := s.func (c + 1)
  let s := (s.hostPut (c + 1) (w.veqBase.toNat + 64 * w.veqTail) r.bytes).updFunc (c + 1) fun w => { w with veq := w.veq ++ [r], veqTail := (w.veqTail + 1) % 2 ^ (w.veqLog + 6) }
  let s := match r.dst with
    | some k => s.putBytes k r.bytes
    | none => s
  s.doorbell (c + 1) 9

/-- Does a session wait for its records to be written? -/
def State.sessKept (s : State) (c k : Nat) : Bool :=
  (s.vid.kept.get c).any fun r => r.uid == (s.sess k).uid

/-- A session's state between pictures. -/
def State.settleSess (s : State) (c k : Nat) : State :=
  s.updSess k fun x =>
    if x.st = .closing || x.st = .running then x
    else { x with st := if s.sessKept c k then .waitQueue else if x.st = .waitQueue then .idle else x.st }

/-- Write a record, or keep it behind the others while the queue is full or off. -/
def State.vidRecord (s : State) (c k : Nat) (r : VidRec) : State :=
  let r := { r with uid := (s.sess k).uid }
  if (s.vid.kept.get c).isEmpty && s.veqRoom (c + 1) then s.veqPut c r
  else
    let s := s.updVid fun v =>
      { v with kept := v.kept.upd c (· ++ [r]), flags := v.flags.upd c (· ||| 0x80) }
    s.settleSess c k

/-- Kept records move to the queue while it has room, in order. -/
def drainKept (c : Nat) : List VidRec → State → State
  | [], s => s
  | r :: rs, s =>
    if s.veqRoom (c + 1) then
      let s := (s.updVid fun v => { v with kept := v.kept.upd c List.tail }).veqPut c r
      drainKept c rs (s.settleSess c (sessKey r.session r.enc))
    else s
/-- Kept records of context `c` move on. -/
def State.veqDrain (s : State) (c : Nat) : State := drainKept c (s.vid.kept.get c) s

/-- Opening bytes of a record, 0-19 (R294). -/
def recHead (kind : Nat) (k tag flags : Nat) (mid : List Byte) : List Byte :=
  [BitVec.ofNat 8 kind, BitVec.ofNat 8 (k % 256), BitVec.ofNat 8 (k / 256), 0] ++ mid ++ leBytes 8 tag ++ leBytes 4 flags

/-- The end of a submission: DONE counts, the peg's binding is released, it leaves the session (R287, R291). -/
def State.subEnd (s : State) (c k : Nat) (q : VidSub) : State :=
  let s := (s.consAdd (cid 0x3B c) 1).releasePeg q.peg (.picture (k % 256) (decide (256 ≤ k)) q.order)
  s.updSess k fun x => { x with subs := x.subs.filter fun (r : VidSub) => r.order ≠ q.order }

/-- AU_DONE of a submission (R294). -/
def State.auDone (s : State) (c k : Nat) (q : VidSub) (status : Nat) : State :=
  let flags := q.flags ||| (if q.late then 0x80 else 0)
  let bytes := recHead 0x02 k q.tag flags (leBytes 2 q.pictures ++ leBytes 2 status) ++ List.replicate 36 0
  (s.vidRecord c k { kind := 0x02, session := k % 256, enc := decide (256 ≤ k), tag := q.tag, flags, bytes }).subEnd c k q

/-- What ENC_DONE tells of a picture (R294). -/
structure EncEnd where
  number : Nat := 0
  bits : Nat := 0
  meanQp : Nat := 0
  firstClamped : Nat := 0xFF
  skip : Nat := 0
  gmvX : Int := 0
  gmvY : Int := 0
  slices : Nat := 0
  flags : Nat := 0
  deriving DecidableEq, Repr, Inhabited

/-- ENC_DONE of a submission (R294). -/
def State.encDone (s : State) (c k : Nat) (q : VidSub) (status : Nat) (e : EncEnd) : State :=
  let flags := e.flags ||| (if q.late then 0x80 else 0)
  let bytes := recHead 0x04 k q.tag flags (leBytes 4 q.source) ++ leBytes 4 e.number ++ leBytes 4 e.bits ++
    leBytes 1 e.meanQp ++ leBytes 1 e.firstClamped ++ leBytes 2 (min 0xFFFF e.skip) ++
    leBytes 2 (e.gmvX % 65536).toNat ++ leBytes 2 (e.gmvY % 65536).toNat ++ leBytes 2 e.slices ++ leBytes 2 status ++
    List.replicate 16 0
  (s.vidRecord c k { kind := 0x04, session := k % 256, enc := decide (256 ≤ k), tag := q.tag, flags, bytes }).subEnd c k q

/-- Does a pipe work for the session's submission now? -/
def State.onPipe (s : State) (k : Nat) (q : VidSub) : Bool :=
  s.sessPiped k && (((s.sess k).subs.head?.map (·.order)) == some q.order)

/-- A submission ends ABORTED. -/
def State.abortSub (s : State) (c k : Nat) (q : VidSub) : State :=
  if q.kind = 1 then s.encDone c k q stAborted { number := (s.sess k).encoded } else s.auDone c k q stAborted

/-- A closing session is freed once no pipe uses a buffer and every step that reads one has committed; its pages are
unmapped and its VID_CLOSE completes OK (R283). -/
def State.trySessClose (s : State) (k : Nat) : State :=
  let x := s.sess k
  if x.opened && x.st == .closing && !s.sessPiped k && x.subs.isEmpty &&
      (upto x.cfg.buffers).all fun i => (x.bufs.get i).jobRefs == 0 && !(x.bufs.get i).piped then
    let s := foldS (upto x.cfg.buffers) (fun s i => s.updBuf k i fun _ => {}) s
    let s := s.unmapRange x.ctx x.base (x.pages * pageBytes)
    let s := s.updVid fun v => { v with sess := v.sess.set k {} }
    let s := s.completeAll (fun w => match w with
      | .vidClose n e => sessKey n e == k
      | _ => false) fun _ => .of stOk
    s.tryResetDone x.ctx
  else s

/-- Close a session (R283): queued submissions end ABORTED, marks, output waits and the host's references go; the picture
on a pipe, or abandoned by it and to start again (R300), finishes. -/
def State.closeSess (s : State) (k : Nat) : State :=
  let x := s.sess k
  let c := x.ctx
  let s := foldS (x.subs.filter fun q => !s.onPipe k q && !(x.restart && x.subs.head? == some q)) (fun s q => s.abortSub c k q) s
  let s := foldS (upto x.cfg.buffers) (fun s i =>
    s.updBuf k i fun b => { b with mark := none, output := false, hostRefs := 0 }) s
  (s.updSess k fun x => { x with st := .closing }).trySessClose k

/-- A job's references on its buffers are dropped (11, R285). -/
def State.dropJobRefs (s : State) (hs : List Nat) : State :=
  foldS hs (fun s h =>
    (s.updBuf (handleSess h) (handleBuf h) fun b => { b with jobRefs := b.jobRefs - 1 }).trySessClose (handleSess h)) s

/-- Entry to DOZE and CLOCK_HOLD: the pipes abandon their pictures without a record; sessions, buffers and queues stay
(11, R300). -/
def State.abandonPictures (s : State) : State :=
  foldS (upto 3) (fun s p =>
    let q := s.vid.pipes.get p
    if q.busy then
      let k := sessKey q.session q.enc
      let s := if q.enc then
          match (s.sess k).subs.head? with
          | some r => s.updBuf (handleSess r.source) (handleBuf r.source) fun b => { b with piped := false }
          | none => s
        else s.updBuf k q.target fun b => { b with piped := false }
      let s := s.updSess k fun x => { x with st := if x.st = .running then .idle else x.st, restart := true }
      s.updVid fun v => { v with pipes := v.pipes.set p {} }
    else s) s

end Sys2Proof.Machine
end

