-- ==== Sys2Proof/Machine/LinkOps.lean ====
section
/-!
DEFINITION. Frames toward peer modules and their credits (16, R447-R449), for the operations that send them.
-/
namespace Sys2Proof.Machine

/-- Initial credits of the four channels of a session (16, R448): VC0 for an ENCRYPTED session within the 64 of its
port. -/
def initCredits (vc0 : Bool) : List Nat := [if vc0 then 64 else 0, 32, 8, 16]

/-- Index of channel `v` of peer entry `e` in families 0x50-0x55 (19, R520). -/
def lnkIdx (e v : Nat) : Nat := 4 * e + v

/-- Does a frame type consume a credit (16, R448)? -/
def takesCredit (typ : Nat) : Bool := decide (1 ≤ typ) && decide (typ ≤ 6)

/-- Length of a frame's payload; CONFIRM, REVOKE, CREDIT, KEEPALIVE and BYE say all in their headers. -/
def OutFrame.payload (f : OutFrame) : Nat :=
  f.len.getD (if f.typ ∈ [0x02, 0x03, 0x07, 0x08, 0x0A] then 0 else (Config.payloadLen f.typ).toNat)

/-- The 32-byte header of a frame toward peer entry `e` (16, R447). -/
def State.frameHead (s : State) (e : Nat) (f : OutFrame) : List Byte :=
  let p := s.peer e
  leBytes 1 f.typ ++ leBytes 1 f.vc ++ leBytes 2 (if s.lnk.open_ then 0xFFFF else s.lnk.ownIndex) ++ leBytes 2 p.tag ++
  leBytes 2 f.payload ++ leBytes 8 f.step ++ leBytes 1 f.ctx ++ leBytes 1 f.gen ++ [p.gen, 0] ++ leBytes 4 p.txSeq.toNat ++
  List.replicate 8 0

/-- A new key exchange of an ENCRYPTED session once 2^32 frames have gone in a direction (14, R389). -/
def Peer.exchange (p : Peer) (seq : Word) : Peer :=
  if p.encrypted && seq == 0xFFFFFFFF then { p with exchanges := p.exchanges + 1 } else p

/-- A frame leaves for peer entry `e`. -/
def State.transmit (s : State) (e : Nat) (f : OutFrame) : State :=
  let s := if takesCredit f.typ then
      (s.consSet (cid 0x50 (lnkIdx e f.vc)) (s.cons (cid 0x50 (lnkIdx e f.vc)) - 1)).consAdd (cid 0x51 (lnkIdx e f.vc)) 1
    else s
  s.updPeer e fun p =>
    { p.exchange p.txSeq with txSeq := p.txSeq + 1, lastSent := s.time, lastTx := f, lastHead := s.frameHead e f }

/-- Send a frame to an UP session; one without a credit of its channel waits for one. -/
def State.sendFrame (s : State) (e : Nat) (f : OutFrame) : State :=
  if (s.peer e).st ≠ .up then s
  else if takesCredit f.typ && s.cons (cid 0x50 (lnkIdx e f.vc)) = 0 then
    s.updPeer e fun p => { p with waiting := p.waiting ++ [f] }
  else s.transmit e f

/-- Credits return to the sender, and frames that waited for them go, in order (16, R448, R449). -/
def drainWaiting (e v : Nat) : List OutFrame → State → State
  | [], s => s
  | f :: fs, s =>
    if f.vc = v && s.cons (cid 0x50 (lnkIdx e v)) ≠ 0 then
      drainWaiting e v fs ((s.updPeer e fun p => { p with waiting := p.waiting.erase f }).transmit e f)
    else drainWaiting e v fs s
def State.creditBack (s : State) (e v n : Nat) : State :=
  let s := (s.consAdd (cid 0x50 (lnkIdx e v)) n).consAdd (cid 0x52 (lnkIdx e v)) n
  drainWaiting e v (s.peer e).waiting s

/-- A received frame takes a buffer entry, and the entry is freed with a CREDIT frame in return (16, R448, R449). -/
def State.rxTake (s : State) (e v : Nat) : State :=
  (s.consSet (cid 0x53 (lnkIdx e v)) (s.cons (cid 0x53 (lnkIdx e v)) - 1)).consAdd (cid 0x54 (lnkIdx e v)) 1
def State.rxRelease (s : State) (e v : Nat) : State :=
  ((s.consAdd (cid 0x53 (lnkIdx e v)) 1).consAdd (cid 0x55 (lnkIdx e v)) 1).sendFrame e { typ := 0x07, vc := v }

/-- Retire the credit set of entry `e` with its final values, which stay readable (01, R28; 19, R520). -/
def State.retireCredits (s : State) (e : Nat) : State :=
  foldS [0x50, 0x51, 0x52, 0x53, 0x54, 0x55] (fun s fam => foldS (upto 4) (fun s v =>
    (s.consSet (cid fam (0x1000 + lnkIdx e v)) (s.cons (cid fam (lnkIdx e v)))).consSet (cid fam (lnkIdx e v)) 0) s)
    (s.updPeer e fun p => { p with retired := some p.credits })

/-- Open a fresh set at a session's opening (01, R28; 16, R444, R448). -/
def State.openCredits (s : State) (e : Nat) (init : List Nat) : State :=
  foldS (upto 4) (fun s v =>
    let c := init.getD v 0
    let s := (s.consSet (cid 0x50 (lnkIdx e v)) c).consSet (cid 0x53 (lnkIdx e v)) c
    foldS [0x51, 0x52, 0x54, 0x55] (fun s fam => s.consSet (cid fam (lnkIdx e v)) 0) s) s

/-! ### Sessions going down (16, R445, R446; 13, R365) -/

def lnkBase : Nat := 0xC00000

/-- A received epoch of peer entry `e` is revoked: the oldest uncommitted step that depends on it, in each context, is to be
rewound, and messages up to its replay generation are refused from now on (13, R364). -/
def State.revokeDeps (s : State) (e c k gen : Nat) : State :=
  let mark : List StepRec → List StepRec := fun rs =>
    match rs.find? fun r => r.deps.any fun d => d.1 == e && d.2.1 == c && d.2.2 == k with
    | some h => rs.map fun r => if r.k = h.k then { r with rewindDue := true } else r
    | none => rs
  let s := foldS allCtxs (fun s j => s.updCtx j fun x => { x with steps := mark x.steps }) s
  s.updPeer e fun p =>
    { p with provisional := p.provisional.filter fun x => !(x.1 == c && x.2.1 == k)
             unread := p.unread.filter fun x => !(x.1 == c && x.2 == k)
             revoked := (c, k, gen) :: p.revoked.filter fun x => !(x.1 == c && x.2.1 == k) }

/-- Result of FW_STAGE (17, R479): hops that hold the bundle, the first that failed, its cause. -/
def Ctl.stageReply (c : Ctl) : Reply :=
  { status := if c.ownVerified then stOk else stDigest
    result := leBytes 2 c.hopsGood ++ (match c.hopFail with
      | some (i, cause) => leBytes 2 i ++ [BitVec.ofNat 8 cause]
      | none => leBytes 2 0xFFFF ++ [0]) }

/-- Hop `i` failed: the first one that did is reported (17, R479). -/
def Ctl.hopFails (c : Ctl) (i cause : Nat) : Ctl :=
  { c with hopFail := match c.hopFail with
      | some (j, x) => if i < j then some (i, cause) else some (j, x)
      | none => some (i, cause) }

/-- FW_STAGE ends: every report has arrived, or counts as failed with `cause` (17, R479, R480). -/
def State.stageEnds (s : State) (cause : Nat) : State :=
  let missing := (upto s.ctl.chain).filter fun i => i ∉ s.ctl.reported
  let s := s.updCtl fun c => { missing.foldl (fun c i => c.hopFails i cause) c with reported := upto c.chain, relayDown := none }
  let r := s.ctl.stageReply
  s.completeAll (fun w => w == .fwStage) fun _ => r

/-- The downstream session of a bundle's stream goes DOWN (17, R480): the stream stops, and every module after it is
reported LINK, to the host by the origin, upstream by a hop. -/
def State.relayDrop (s : State) (e : Nat) : State :=
  let streaming := (s.peer e).waiting.any fun f => f.typ == 0x06
  if s.ctl.relayDown ≠ some e then s
  else if s.host.inflight.any fun i => i.wait == .fwStage then
    if streaming then s.stageEnds 1 else s.updCtl fun c => { c with relayDown := none }
  else
    let s := s.updCtl fun c => { c with relayDown := none }
    match s.ctl.relayUp with
    | some u => s.sendFrame u { typ := 0x06, vc := 3 }
    | none => s

/-- An UP session goes DOWN: its credit set is retired, its unconfirmed epochs count as revoked, doorbell bit 15 rings on
PF0. -/
def State.sessionDown (s : State) (e : Nat) : State :=
  let p := s.peer e
  if p.st ≠ .up then s
  else
    let s := s.relayDrop e
    let s := foldS p.provisional (fun s x => s.revokeDeps e x.1 x.2.1 x.2.2) s
    let s := s.retireCredits e
    let s := (s.bump (lnkBase + 0x110 + 0x40 * p.port.val)).updPeer e fun p => { p with st := .down, waiting := [], missed := 0 }
    s.doorbell 0 15

/-- Epochs that came while no step ran become dependencies of the step that begins (13, R364; log 43). -/
def State.takeUnread (s : State) (r : StepRec) : State × StepRec :=
  let new : List (Nat × Nat × Nat) :=
    s.lnk.peers.flatMap fun (e : Nat × Peer) => e.2.unread.map fun (x : Nat × Nat) => (e.1, x.1, x.2)
  if new.isEmpty then (s, r)
  else (s.updLnk fun l => { l with peers := l.peers.map fun e => (e.1, { e.2 with unread := [] }) }, { r with deps := r.deps ++ new })

/-- Entries of the peer table in a state. -/
def State.peersIn (s : State) (st : PeerSt) : List Nat := (s.lnk.peers.filter fun e => e.2.st = st).map Prod.fst

/-- A port leaves UP: every session on it goes DOWN at once. -/
def State.portSessionsDown (s : State) (p : Nat) : State :=
  foldS ((s.peersIn .up).filter fun e => (s.peer e).port.val = p) State.sessionDown s

/-- Entry to DOZE or CLOCK_HOLD: BYE on every UP session, then the ports are disabled (16, R446). -/
def State.closeLinks (s : State) : State :=
  let s := foldS (s.peersIn .up) (fun s e => (s.sendFrame e { typ := 0x0A }).sessionDown e) s
  foldS (upto 4) (fun s p => s.updPort p fun q => { q with st := .disabled, since := s.time, lanes := 0 }) s

/-- Return to READY: the ports that LINK_CONFIG enabled start again (16, R446). -/
def State.openLinks (s : State) : State :=
  foldS (upto 4) (fun s p => s.updPort p fun q =>
    if q.enabled && q.st = .disabled then { q with st := .cableInit, since := s.time } else q) s

end Sys2Proof.Machine
end

