-- ==== Sys2Proof/Machine/Steps.lean ====
section
/-!
DEFINITION. The life of a context's step: begin, fence, commit, rewind, switch, fault and drain (05, R116-R133;
13, R355-R365; 01, R20, R21; 14, R378).
-/
namespace Sys2Proof.Machine

/-! ### Clocks, nominal time and the watchdog (05, R121, R132) -/

/-- Watchdog limit in µs of an image at the lowest clock in effect: max(1 ms, 4 STEP_CYCLES / f), rounded down. -/
def wdogLimit (cycles mhz : Nat) : Nat := max 1000 (4 * cycles / mhz)

/-- STEP_CYCLES of the image a context's latest step runs. -/
def State.stepCycles (s : State) (c : Nat) : Nat :=
  ((s.image c (s.actx c).handle).map imgStepCycles).getD 0

/-- A step of the context has begun and not reached its fence. -/
def Ctx.running (x : Ctx) : Bool := x.steps.any fun r => !r.fenced

/-- Count the nominal time of the running step up to now at the clock that held until now.  `nomDone` is in MHz ns;
once the nominal time has elapsed `nomAt` is its end. -/
def State.advanceNominal (s : State) (c : Nat) : State :=
  let total := s.stepCycles c * 1000
  let f := s.lowMhz
  s.updCtx c fun x =>
    if total ≤ x.nomDone then x
    else
      let need := cdiv (total - x.nomDone) f
      if x.nomAt + need ≤ s.time then { x with nomDone := total, nomAt := x.nomAt + need }
      else { x with nomDone := x.nomDone + (s.time - x.nomAt) * f, nomAt := s.time }

/-- New quadrant settings (04, R99, R100; 05, R121, R132): the rate of nominal time of every step in the making changes from
now on, whenever a quadrant falls the watchdog limits are those of the new lowest clock, QCLK_EQUAL follows, and the
quadrants whose clock changes are in their step until the controller's next tick (04, R105). -/
def State.setQuads (s : State) (qs : List Nat) : State :=
  let falls := (upto 4).any fun q => decide (qs.getD q 0 < s.clk.qpll.get q)
  let s := foldS allCtxs (fun s c => if (s.ctx c).running then s.advanceNominal c else s) s
  let steps := ((upto 4).filter fun q => qs.getD q 0 ≠ s.clk.qpll.get q).foldl (fun (b : Byte) q => b ||| ((1 : Byte) <<< q)) 0
  let s := s.updClk fun k =>
    { k with qpll := (upto 4).foldl (fun t q => t.set q (qs.getD q 0)) k.qpll, pllBusy := k.pllBusy ||| steps }
  let s := s.updArr fun a => { a with qclkEqual := qs.all fun n => n == qs.headD 0 }
  if falls then
    foldS allCtxs (fun s c => if (s.ctx c).running then
      s.updActx c fun a => { a with wdogUs := wdogLimit (s.stepCycles c) s.lowMhz } else s) s
  else s
/-- The settings of the four quadrants. -/
def State.quads (s : State) : List Nat := (upto 4).map s.clk.qpll.get

/-- Bring the array into Press at a fence: unequal quadrants go to the lowest of their settings (04, R99). -/
def State.equalise (s : State) : State :=
  if s.arr.qclkEqual then s
  else
    let m := s.quads.foldl min (s.quads.headD 0)
    s.setQuads [m, m, m, m]

/-- New quadrant settings with the ratio limits of R495: the NoC between half the highest quadrant and the lowest, the
codec not above the NoC.  A change that waited for a Press boundary is overtaken. -/
def State.stepQuads (s : State) (qs : List Nat) : State :=
  let mhz := qs.map settingMhz
  let lo := mhz.foldl min (mhz.headD 600)
  let hi := mhz.foldl max 600
  let noc := 300 + 25 * s.clk.nocPll
  let noc := min lo (max noc ((hi + 1) / 2))
  let nocSet := cdiv (noc - 300) 25
  let codecSet := min s.clk.codecPll ((300 + 25 * nocSet - 100) / 25)
  ((s.updPwr fun p => { p with pressTo := none }).updClk fun k => { k with nocPll := nocSet, codecPll := codecSet }).setQuads qs

/-- The Press operation boundary at which a waiting common step takes effect (04, R100). -/
def State.pressBoundary (s : State) : State :=
  match s.pwr.pressTo with
  | some n => s.stepQuads [n, n, n, n]
  | none => s

/-- A 32-bit register that saturates. -/
def sat32 (n : Nat) : Word := BitVec.ofNat 32 (min n 0xFFFFFFFF)

/-- A mode fence completes: the clocks first, the mode, the fence's count and its excess over the compiled cost (04, R97,
R99, R103; 19, R517). -/
def State.changeMode (s : State) (press : Bool) (excessNs : Nat) : State :=
  let s := if press then s.equalise else s.pressBoundary
  let x := sat32 excessNs
  let s := s.updArr fun a =>
    { a with mode := if press then .press else .split, fenceLastNs := x
             fenceMaxNs := if a.fenceMaxNs.toNat < x.toNat then x else a.fenceMaxNs }
  (s.bump (arrBase + 0x08)).sample 3 (excessNs / 100)

/-- A mode change at a context switch, or between two steps, fence included; its excess is a free value (04, R97, R102;
log 127). -/
def State.setMode (s : State) (press : Bool) : State :=
  if s.arr.mode = (if press then ArrMode.press else .split) then s
  else
    let (d, s) := s.draw
    s.changeMode press (Config.value d)

/-! ### Modules in service -/

/-- May a step begin (01, R20; 17, R461; 18, R508)? -/
def State.mayStep (s : State) : Bool :=
  s.board.powered && (s.glb.state == .ready || s.glb.state == .draining) && !s.ctl.gap && !s.ctl.plannedDue && !s.glb.dozeEntering

/-- Every open context is DRAINED; a FAULTED one no longer holds the drain (DEDUCED, log 13). -/
def State.allDrained (s : State) : Bool :=
  allCtxs.all fun c => match (s.ctx c).st with
    | .free => true
    | .drained => true
    | .faulted => true
    | _ => false

/-- DRAINING: a context whose requests, jobs and steps have all ended is DRAINED; when all are, the module is QUIESCED or
SUSPECT by its cause, and a DRAIN completes, MODULE_SUSPECT where another cause has overtaken it (01, R20; 14, R378; 15, R426;
log 126). -/
def State.checkDrained (s : State) : State :=
  if s.glb.state ≠ .draining then s
  else
    let s := foldS allCtxs (fun s c =>
      let x := s.ctx c
      if x.st = .ready && x.reqs.isEmpty && x.jobs.isEmpty && x.steps.isEmpty then
        s.updCtx c fun x => { x with st := .drained } else s) s
    if !s.allDrained then s
    else match s.glb.drainFor with
    | .host => (s.updGlb fun g => { g with state := .quiesced, drainFor := .none_, drainLimit := none }).completeAll
        (fun w => w == .drained) fun _ => .of stOk
    | .none_ => s
    | _ => (s.updGlb fun g => { g with state := .suspect }).completeAll (fun w => w == .drained) fun _ => .of stSuspect

/-- QUIESCE completes once every begun step of every context has committed (15, R426). -/
def State.checkQuiesced (s : State) : State :=
  if allCtxs.all fun c => (s.ctx c).steps.isEmpty then
    s.completeAll (fun w => w == .quiesced) fun _ => .of stOk
  else s

/-! ### DOZE and CLOCK_HOLD (01, R20-R22; 18, R493, R494, R508-R511) -/

def clkBase : Nat := 0x100000
def pwrBase : Nat := 0x200000

/-- The return to a resume state from DOZE or CLOCK_HOLD: links enabled, a standby that DOZE had switched off booting again
(18, R509), and video records that had no place written where the host has made room (11, R293). -/
def State.resumeModule (s : State) : State :=
  let st := s.glb.resumeState.getD .ready
  let s := s.updGlb fun g => { g with state := st, resumeState := none, wakePending := false }
  let s := s.updCtl fun c => match c.owner with
    | some o => { c with cores := c.cores.upd (if o = .a then 1 else 0) fun k =>
        { k with health := if k.health = .off then .booting else k.health } }
    | none => c
  let bad := st = .suspect || s.glb.drainFor = .darner
  let s := s.updBoard fun b => if bad then b else { b with health := true, suspect := false }
  let s := foldS allCtxs State.veqDrain s
  (if st = .ready then s.openLinks else s).completeAll (fun w => w == .awake) fun _ => .of stOk

/-- Latch the abort of a job: the steps it has begun run to commit (15, R424). -/
def Job.latchAbort (j : Job) : Job := if j.aborting then j else { j with aborting := true, limit := j.begun }

/-- The DRAIN limit passed in DOZE: every tracked request is cancelled and every job aborted at exit (15, R426). -/
def State.cancelAll (s : State) : State :=
  foldS allCtxs (fun s c => (s.cancelAllReqs c).updCtx c fun x =>
    { x with jobs := x.jobs.map fun (j : Job) => if j.begun < j.steps then j.latchAbort else j }) s

/-- Outputs in their safe states (02, R53; 18, R493). -/
def State.safeOutputs (s : State) : State :=
  (s.updBoard fun b => { b with health := false, suspect := true }).updPeg fun p =>
    { p with missOut := false, missEnd := 0 }

/-- What every entry to CLOCK_HOLD does to the clocks and what runs on them (01, R21; 18, R488, R493): the control domain and
the Peg unit on the ITO, every PLL stopped, HBM in self-refresh, the plant outputs safe. -/
def State.holdClocks (s : State) : State :=
  let s := s.updClk fun k =>
    { k with xtalOk := false, onIto := true, lock := 0, ctlSel := 0, ctlBusy := false, muxTo := [], pllBusy := 0 }
  let s := (s.updPeg fun p => { p with timeIto := true }).updMem fun m => { m with rinseOn := false }
  ((s.bump (clkBase + 0x48)).lifetime 0x0060 []).safeOutputs

/-- Leave DOZE (18, R494, R510): with the crystal lost into CLOCK_HOLD, otherwise to the resume state, PLLs at the settings
they had on entry and an expired DRAIN limit's cancellations applied. -/
def State.dozeExit (s : State) : State :=
  let s := s.doorbellOpen 14
  let s := s.updPwr fun p => { p with dozeThermal := false }
  if !s.clk.xtalOk then
    (s.updGlb fun g => { g with state := .clockHold, wakePending := false, holdStage := 0, startingUp := false }).holdClocks
  else
    let s := s.updClk fun k => { k with lock := k.lock ||| 0xBF, nocPll := k.saved.getD 4 0, codecPll := k.saved.getD 5 0 }
    let s := s.setQuads ((upto 4).map fun q => s.clk.saved.getD q 0)
    let late := s.glb.drainLimitPassed
    let s := (s.updGlb fun g => { g with drainLimitPassed := false }).resumeModule
    if late then s.cancelAll else s

/-- DOZE entry completes once no context holds the array (18, R508): pictures are abandoned, links closed, quadrants off,
HBM in self-refresh; a WAKE that came meanwhile acts now, unless the entry was thermal. -/
def State.checkDoze (s : State) : State :=
  if !s.glb.dozeEntering || s.arr.cur.isSome then s
  else
    let s := s.abandonPictures.closeLinks
    let s := s.updClk fun k =>
      { k with saved := ((upto 4).map k.qpll.get) ++ [k.nocPll, k.codecPll], lock := k.lock &&& 0x40 }
    let s := s.updCtl fun c => match c.owner with
      | some o =>
        let other := if o = .a then 1 else 0
        { c with cores := c.cores.upd other fun k =>
            { k with health := if k.health = .failed then .failed else .off, cleanSince := none } }
      | none => c
    let s := s.updGlb fun g =>
      { g with state := .doze, dozeEntering := false, resumeState := some (g.resumeState.getD g.state) }
    let s := (s.bump (pwrBase + 0x40)).doorbellOpen 14
    let s := s.completeAll (fun w => w == .dozed) fun _ => .of stOk
    if s.glb.wakePending && !s.pwr.dozeThermal then s.dozeExit else s

/-! ### Ready work (09, R226, R231, R234; 15, R422) -/

def State.jobKey (s : State) (c : Nat) (j : Job) : Nat := keyOf j.prio (s.eta j.peg (.job c j.id)) j.order
/-- A job that may begin another step. -/
def Job.ready (j : Job) : Bool := decide (j.begun < (if j.aborting then j.limit else j.steps))
/-- Ready jobs, smallest order key first. -/
def State.readyJobs (s : State) (c : Nat) : List Job := sortBy (s.jobKey c) ((s.ctx c).jobs.filter Job.ready)

/-- Order key of a context's most urgent ready work: ready sequences and jobs, and the job of a step that is still to run or
to go on (09, R234); a context that holds only a step still to run for others comes last. -/
def State.workKey (s : State) (c : Nat) : Option Nat :=
  let x := s.ctx c
  let held := x.steps ++ x.next.toList
  let due := (x.steps.filter fun r => !r.fenced) ++ x.next.toList
  let jobs := due.filterMap fun r => r.job.bind fun id => (x.jobs.find? (·.id = id)).map (s.jobKey c)
  let ks := (s.readyReqs c).map (s.reqKey c) ++ (s.readyJobs c).map (s.jobKey c) ++ jobs
  match ks with
  | [] => if held.isEmpty then none else some (2 ^ 100)
  | k :: r => some (r.foldl min k)
/-- Priority and ETA of a key. -/
def keyPrio (k : Nat) : Nat := k / 2 ^ 96
def keyEta (k : Nat) : Nat := k / 2 ^ 64 % 2 ^ 32

/-- May the context hold the array: its state lets it run, no weight reload holds it back, and its records have room
(12, R322; 09, R245)? -/
def State.mayHold (s : State) (c : Nat) : Bool :=
  (match (s.ctx c).st with
   | .ready => true
   | .running => true
   | .suspended => true
   | _ => false) && (s.ctx c).reloading.isNone && s.tbReady c

/-- Does another context's work make firmware switch away from `c` (09, R234)? -/
def State.outranked (s : State) (c : Nat) : Bool :=
  match s.workKey c with
  | none => true
  | some k => allCtxs.any fun d => d ≠ c && s.mayHold d && (match s.workKey d with
    | some j => decide (keyPrio j < keyPrio k) || (decide (keyPrio j = keyPrio k) && decide (keyEta j + 300 ≤ keyEta k))
    | none => false)
/-- No other context's work comes before that of `c` for a free array. -/
def State.firstInLine (s : State) (c : Nat) : Bool :=
  match s.workKey c with
  | none => false
  | some k => allCtxs.all fun d => d = c || !s.mayHold d || (match s.workKey d with
    | some j => decide (k / 2 ^ 64 ≤ j / 2 ^ 64)
    | none => true)

/-! ### Cores and channels of a step -/

/-- A core before its segment: nothing queued, nothing in progress. -/
def Core.idled (k : Core) : Core :=
  { lsCollide := k.lsCollide, poisonOut := k.poisonOut, temp := k.temp, active := k.active, shadow := k.shadow }
/-- What a switch leaves of a core: weight tiles and lane contents are never carried across (04, R102). -/
def Core.bare (k : Core) : Core := { k.idled with active := none, shadow := none }
/-- A core as an urgent switch saves it. -/
def Core.bareTiles (k : Core) : Core := { k with active := none, shadow := none, west := [] }

/-- Take a step's work off the array: S engines idle, queues, tiles and accumulator banks empty (04, R102), the context's
operations and channels dropped. -/
def State.clearArray (s : State) (c : Nat) : State :=
  let s := s.updArr fun a =>
    { a with cores := (upto 64).foldl (fun t n => t.upd n Core.bare) a.cores, accs := [], pauseAct := none, pauseSince := none
             mode := if a.mode = .fence then .split else a.mode }
  let s := s.updDpp fun d =>
    let mine := (d.queue.head?.map fun o => o.ctx == c).getD false
    { d with queue := d.queue.filter fun o => o.ctx ≠ c, busy := d.busy && !mine, image := if mine then 0 else d.image }
  let mine := (s.tsu.queue.head?.map fun o => o.ctx == c).getD false
  let s := s.updTsu fun t =>
    { t with queue := t.queue.filter fun o => o.ctx ≠ c, busy := t.busy && !mine
             lanes := if mine then 0 else t.lanes }
  let s : State := { s with atn :=
    { s.atn with records := s.atn.records.filter fun (e : AtnRec) => e.ctx ≠ c
                 sparse := [], busy := s.atn.busy && s.atn.ctx != some c
                 ctx := if s.atn.ctx = some c then none else s.atn.ctx } }
  s.updDma fun d => { d with chans := d.chans.map fun e =>
    if e.2.owned && e.2.ctx = c then
      (e.1, { e.2 with st := .idle, out := [], loops := [], moving := false, waitKind := 0, waitObj := 0, waitCount := 0 })
    else e }

/-- Load the CREDITS section: free registers at the depth, full registers 0, and the gauges of family 0x60 (05, R123,
R124). -/
def State.loadCredits (s : State) (c : Nat) (g : Image) : State :=
  let s := s.updArr fun a =>
    { a with credits := g.credits.foldl (fun t h => t.set (32 * h.producer.val + h.freeReg.val) h.depth) []
             handoffs := g.credits }
  let s := s.updTel fun t =>
    { t with cons := t.cons.filter fun e =>
        !([0x63, 0x64].any fun f => cid f (4096 * c) ≤ e.1 && e.1 < cid f (4096 * (c + 1))) }
  foldS (g.credits.zip (upto g.credits.length)) (fun s e => s.consSet (cid 0x64 (4096 * c + e.2)) e.1.depth) s

/-- Number of channel `arg` of a DMA_PROG section: 4n + c, or 256 + m for 0x100 + m (05, R107). -/
def progChan (arg : Nat) : Nat := arg

/-- Start the channel programs of an image: progress 0, from index 0; a program of no instruction is DONE (12, R339). -/
def State.startChans (s : State) (c : Nat) (g : Image) : State :=
  foldS g.progs (fun s p =>
    let i := progChan p.1
    let n := p.2.length
    let s := s.updChan i fun k =>
      { k with st := if n = 0 then .done else .run, ctx := c, owned := true, aborted := false, progress := 0, index := 0
               count := n, loops := [], moving := false, out := [], offset := 0, cls := .none_
               waitKind := 0, waitCount := 0, lastAt := s.time }
    if n = 0 then s.updDma fun d => { d with eoc := d.eoc.set i true } else s) s

/-! ### Discarding steps (13, R358, R363) -/

/-- REVOKE for an epoch that sent provisional messages. -/
def State.revokeEpoch (s : State) (c : Nat) (r : StepRec) : State :=
  if r.sentTo.isEmpty then s
  else
    let s := foldS r.sentTo (fun s e => s.sendFrame e { typ := 0x03, vc := 1, ctx := c, step := r.k, gen := r.replayGen }) s
    s.bump (drnBase + 0x48)

/-- The host REVOKE record, for steps whose EARLY entries went out provisional (09, R244). -/
def State.revokeHost (s : State) (c : Nat) (rs : List StepRec) : State :=
  match rs.find? (·.earlySent) with
  | some _ => (s.tbWrite c { kind := .revoke, step := (rs.head?.map (·.k)).getD 0 }).updCtx c fun x =>
    { x with replaceTo := (rs.getLast?.map (·.k)).getD 0 }
  | none => s

/-- Restore the TSU sequence state a step began with (10, R254). -/
def State.restoreTsu (s : State) (r : StepRec) : State :=
  s.updTsu fun t => { t with seqs := r.tsuBefore.foldl (fun m e => m.set e.1 e.2) t.seqs }

/-- Discard every uncommitted step from `k` on: REVOKE, host REVOKE, reversal newest first, TSU state. -/
def State.discardFrom (s : State) (c k : Nat) : State :=
  let rs := (s.ctx c).steps.filter fun r => decide (k ≤ r.k)
  let s := foldS rs (fun s r => s.revokeEpoch c r) s
  let s := s.revokeHost c rs
  let s := foldS rs.reverse (fun s r => s.reverseAll c r.undo) s
  let s := foldS rs.reverse State.restoreTsu s
  let s := s.yieldSlots c (rs.flatMap StepRec.undo)
  s.updCtx c fun x => { x with steps := x.steps.filter (fun r => decide (r.k < k)), next := none }

/-- The step as it is to run again (13, R358, R360): rows whose request has ended are unused. -/
def State.replayOf (s : State) (c : Nat) (r : StepRec) : StepRec :=
  { k := r.k, handle := r.handle, job := r.job, isPrefill := r.isPrefill, copies := r.copies
    entries := r.entries.map fun e =>
      let live : Bool := match s.findReq c e.req with
        | some q => q.st != .ending && !((q.slot.map s.listPoisoned).getD false)
        | none => false
      { req := e.req, slot := bif live then e.slot else 0xFFFF, first := e.first, active := e.active, drafts := e.drafts,
        pfx := e.pfx }
    resample := r.mismatched ++ r.resample
    deps := r.deps.filter fun d => (s.peer d.1).provisional.any fun p => p.1 == d.2.1 && p.2.1 == d.2.2
    replayGen := r.replayGen + 1, replayed := true, lockstepReplay := r.lockstepReplay }

/-- Rewind the context to its uncommitted step `k` (13, R358). -/
def State.rewind (s : State) (c k : Nat) : State :=
  match (s.ctx c).steps.find? fun r => r.k = k with
  | none => s
  | some r =>
    let later := (s.ctx c).steps.filter fun q => decide (k < q.k)
    let s := (s.discardFrom c k).bump (drnBase + 0x28)
    let s := if s.arr.cur = some c then s.clearArray c else s
    let r' := s.replayOf c r
    -- the later steps that were discarded are built anew, so their jobs have them still to begin
    s.updCtx c fun x => { x with next := some r', jobs := x.jobs.map fun (j : Job) =>
      { j with begun := j.begun - (later.filter fun q => q.job == some j.id).length } }

/-! ### Jobs (15, R422-R425) -/

/-- A job ends: its completion (suppressed after a timeout), its buffers, its peg, and a waiting JOB_ABORT. -/
def State.endJob (s : State) (c : Nat) (j : Job) (r : Reply) (abortReply : Nat) : State :=
  let s := s.updCtx c fun x => { x with jobs := x.jobs.filter (·.id ≠ j.id) }
  let s := (s.dropJobRefs j.buffers).releasePeg j.peg (.job c j.id)
  let s := if j.silent then s else s.completeAll (fun w => w == .job c j.id) fun _ => r
  s.completeAll (fun w => w == .jobAbort c j.id) fun _ => .of abortReply

/-- Result bytes of a number. -/
def resLe (n v : Nat) : List Byte := leBytes n v

/-- Jobs that are over: the last step committed, or aborted with every begun step committed. -/
def State.settleJobs (s : State) (c : Nat) : State :=
  foldS (s.ctx c).jobs (fun s j =>
    if j.committed = j.steps then s.endJob c j (.ok (resLe 8 j.lastStep)) stAlready
    else if j.aborting && j.committed = j.limit then
      s.endJob c j { status := if j.late then stTimeout else stAborted, result := resLe 4 j.committed } stOk
    else s) s

/-- Latch a job's abort (15, R424): no further step begins; with its last step begun there is nothing to prevent. -/
def State.abortJob (s : State) (c id : Nat) (late silent : Bool) : State :=
  (s.updCtx c fun x => { x with jobs := x.jobs.map fun j =>
    if j.id = id && j.begun < j.steps then { j.latchAbort with late := j.late || late, silent := j.silent || silent }
    else if j.id = id then { j with silent := j.silent || silent }
    else j }).settleJobs c

/-! ### Patches (10, R266-R268) -/

/-- RETIRING slots whose pins have gone and whose last reader has committed return to FREE. -/
def State.freePatches (s : State) (c : Nat) : State :=
  let done := s.tsu.patches.filter fun e =>
    e.2.st = .retiring && e.2.owner = c && e.2.pins = 0 && (match e.2.lastRead with
      | none => true
      | some k => match (s.actx c).commit with
        | some m => decide (k ≤ m)
        | none => false)
  foldS done (fun s e =>
    let s := s.updTsu fun t => { t with patches := t.patches.set e.1 {} }
    let s := s.updCtx c fun x =>
      { x with freedPatches := (e.2.id, e.2.version) :: x.freedPatches
               log := x.log.filter fun l => !(l.kind == 3 && l.handle == e.1) }
    s.completeAll (fun w => w == .patchFree e.1) fun _ => .of stOk) s

/-- A step boundary makes LOADING slots READY, and their PATCH_LOADs complete (10, R266). -/
def State.readyPatches (s : State) (c : Nat) : State :=
  foldS (s.tsu.patches.filter fun e => e.2.st = .loading && e.2.owner = c) (fun s e =>
    let s := s.updTsu fun t => { t with patches := t.patches.upd e.1 fun p => { p with st := .ready } }
    let s := s.updCtx c fun x => { x with log := x.log ++
      [{ kind := 3, handle := e.1, version := e.2.version, id := e.2.id, digest := e.2.digest }] }
    s.completeAll (fun w => w == .patchReady e.1) fun _ => .ok (resLe 2 e.1)) s

/-! ### Keys (14, R381) -/

/-- The loaded next generation becomes current at a step boundary, or at once off the array; KEY_ROTATE completes. -/
def State.switchGen (s : State) (c : Nat) : State :=
  let k := s.sec.keys.get c
  if k.pendingGen then
    let s := s.updSec fun x => { x with keys := x.keys.set c { k with gen := k.gen + 1, pendingGen := false } }
    (s.completeAll (fun w => w == .keyGen c) fun _ => .ok (resLe 4 (k.gen + 1))).retireGen c
  else s

/-! ### Commit (05, R122) -/

/-- Every check of a step has compared equal, no replay of it is pending, and every epoch it depends on is confirmed. -/
def StepRec.clean (r : StepRec) : Bool :=
  r.fenced && r.unchecked.isEmpty && r.mismatched.isEmpty && !r.rewindDue && !r.poisoned && r.deps.isEmpty

/-- The hardware's part: ARR_COMMIT, flags and counters, CONFIRM to the peers. -/
def State.commitHw (s : State) (c : Nat) (r : StepRec) : State :=
  let s := (s.updActx c fun a => { a with commit := some r.k }).chargeStep c r.charge
  let s := foldS r.sentTo (fun s e =>
    (s.sendFrame e { typ := 0x02, vc := 1, ctx := c, step := r.k, gen := r.replayGen }).updPeer e fun p =>
      { p with sent := p.sent.map fun x => if x.1 = c && x.2.1 = r.k then (x.1, x.2.1, true, x.2.2.2) else x }) s
  s.updCtx c fun x => { x with steps := x.steps.filter fun q => q.k ≠ r.k }

/-- Firmware's part: charges, records, jobs, retired patches. -/
def State.commitFw (s : State) (c : Nat) (r : StepRec) : State :=
  let s := s.commitServing c r (r.job.isNone)
  let s := match r.job with
    | some id => s.updCtx c fun x => { x with jobs := x.jobs.map fun (j : Job) =>
        if j.id = id then { j with committed := j.committed + 1, lastStep := r.k } else j }
    | none => s
  ((s.settleJobs c).freePatches c)

/-- Commit a step; in a switch-over gap its records wait for the successor (17, R461). -/
def State.commit (s : State) (c : Nat) (r : StepRec) : State :=
  let s := s.commitHw c r
  if s.ctl.gap then s.updCtx c fun x => { x with owed := true, owedCommit := x.owedCommit ++ [r] }
  else s.commitFw c r

/-! ### Faults (05, R133; 14, R378; 15, R422) -/

/-- Give up the array. -/
def State.releaseArray (s : State) (c : Nat) (p : Phase) : State :=
  let s := s.updActx c fun a => { a with phase := p }
  if s.arr.cur = some c then (s.clearArray c).updArr fun a => { a with cur := none } else s

/-- Every tracked request ends with `reason` and that reason's status (09, R235), every job with the fault's own; the pages
follow in one boundary application. -/
def State.endWork (s : State) (c reason status : Nat) : State :=
  let s := foldS (s.ctx c).reqs (fun s r => s.endReq c r reason false none) s
  let s := foldS (s.ctx c).jobs (fun s j => s.endJob c j (.of status) stAlready) s
  let last := ((s.actx c).commit).getD 0
  (s.applyEdits c last true (s.actx c).commit).s

/-- What an urgent switch saved of the context's step is given up. -/
def State.dropSaved (s : State) (c : Nat) : State :=
  let s := s.updArr fun a =>
    { a with savedCores := a.savedCores.filter fun e => e.1 / 64 ≠ c
             savedCredits := a.savedCredits.filter fun e => e.1 / 2048 ≠ c
             savedHandoffs := a.savedHandoffs.set c []
             savedCells := a.savedCells.set c [], savedPoison := a.savedPoison.set c [] }
  let s : State := { s with atn := { s.atn with saved := s.atn.saved.filter fun (e : AtnRec) => e.ctx ≠ c } }
  let s := s.updDma fun d => { d with savedChans := d.savedChans.filter fun e => e.1 / 272 ≠ c }
  let s := s.updDpp fun d => { d with saved := d.saved.filter fun o => o.ctx ≠ c }
  s.updTsu fun t => { t with saved := t.saved.filter fun o => o.ctx ≠ c }

/-- Step k - 1 of a context whose step k the watchdog ends commits if its checks have all compared equal (05, R133). -/
def State.commitBefore (s : State) (c : Nat) : State :=
  match (s.ctx c).steps with
  | r :: _ :: _ => if r.clean then s.commit c r else s
  | _ => s

/-- The context's fault: every uncommitted step is discarded with REVOKE, since no commit point of R122 is reached, its
work ends with `status`, and the context is FAULTED. -/
def State.faultCtx (s : State) (c status : Nat) : State :=
  let s := match (s.ctx c).steps with
    | r :: _ => s.discardFrom c r.k
    | [] => s.updCtx c fun x => { x with next := none }
  let s := ((s.releaseArray c .idle).dropSaved c).endWork c 9 status
  let s := s.updCtx c fun x => { x with st := .faulted, midStep := false, leaving := false, reloading := none }
  (((s.switchGen c).checkDrained).checkQuiesced).checkDoze

/-- A further minority of a confirmed core (13, R368): every context FAULTED with MODULE_SUSPECT, the module SUSPECT. -/
def State.suspectAll (s : State) : State :=
  let s := foldS allCtxs (fun s c => match (s.ctx c).st with
    | .ready | .running | .suspended | .drained => s.faultCtx c stSuspect
    | _ => s) s
  let s := s.updGlb fun g => { g with state := .suspect }
  s.completeAll (fun w => w == .drained) fun _ => .of stSuspect

/-! ### Boundary (09, R231; 08, R194) -/

/-- A step's record with the TSU state that the context's slots begin it with. -/
def State.withTsu (s : State) (c : Nat) (r : StepRec) : StepRec :=
  { r with tsuBefore := (s.usedSlots c).flatMap fun j => [(2 * j, s.tsu.seqs.get (2 * j)), (2 * j + 1, s.tsu.seqs.get (2 * j + 1))] }

/-- The step number a context's next step gets. -/
def State.nextStep (s : State) (c : Nat) : Nat := (s.actx c).step + 1

/-- Entries of the built step whose requests have ended become unused (09, R231); a step left without work is not run, but for
a repeated one. -/
def State.retable (s : State) (c : Nat) : State :=
  s.updCtx c fun x =>
    let live := fun (e : Entry) => x.reqs.any fun q => q.id == e.req && q.st != .ending
    let row := fun (e : Entry) => if live e then e else { e with slot := 0xFFFF }
    let next := x.next.map fun (r : StepRec) => { r with entries := r.entries.map row }
    { x with next := next.filter fun r => r.replayed || r.job.isSome || r.entries.any fun e => e.slot != 0xFFFF }

/-- Firmware's work at a step boundary of context `c`: ends without a step, admission, the next step's batch or job, the
boundary application, patches and key generation. -/
def State.boundary (s : State) (c : Nat) : State :=
  let s := (((s.boundaryEnds c).retable c).admission c)
  let last := match (s.ctx c).steps.getLast? with
    | some r => r.k
    | none => ((s.actx c).commit).getD 0
  let done := (s.ctx c).steps.isEmpty
  let s := match (s.ctx c).next with
    | some r =>
      -- a replay, or a step built before: the edits staged meanwhile are applied
      let a := s.applyEdits c last done (s.actx c).commit
      let s := a.s.pushUndo c a.undo
      let (s, _) := s.settleBatch c { a with s := s } none
      s.updCtx c fun x => { x with next := some { r with copies := r.copies ++ a.copies } }
    | none =>
      let k := s.nextStep c
      let (s, b) :=
        match s.readyJobs c with
        | [] => s.buildBatch c k
        | j :: _ =>
          let serve := match s.readyReqs c with
            | [] => false
            | r :: _ => decide (s.reqKey c r < s.jobKey c j)
          if serve then s.buildBatch c k
          else (s, some { k, handle := j.handle, job := some j.id })
      let a := s.applyEdits c last done (s.actx c).commit
      let s := a.s.pushUndo c a.undo
      let (s, b) := s.settleBatch c { a with s := s } b
      s.updCtx c fun x => { x with next := b }
  (((s.readyPatches c).freePatches c).switchGen c)

/-! ### Checks and the referee (13, R355, R356) -/

/-- The results of checks of a step's unchecked tiles: how many were taken, and the tiles that did not compare equal.
A tile with a poisoned operand is skipped. -/
def takeChecks : List Tile → List Bool → List Tile × List Tile × Nat
  | [], _ => ([], [], 0)
  | t :: ts, eq =>
    if t.poisoned then takeChecks ts eq
    else match eq with
    | [] => let (u, m, n) := takeChecks ts []; (t :: u, m, n)
    | e :: es => let (u, m, n) := takeChecks ts es; (u, if e then m else t :: m, n + 1)

/-- Changes one of the context's step records. -/
def State.updStep (s : State) (c k : Nat) (f : StepRec → StepRec) : State :=
  s.updCtx c fun x => { x with steps := x.steps.map fun r => if r.k = k then f r else r }

/-- Apply check results to the unchecked tiles `p` selects of step `k`, counting tiles and mismatches. -/
def State.applyChecks (s : State) (c k : Nat) (p : Tile → Bool) (eq : List Bool) : State :=
  match (s.ctx c).steps.find? fun r => r.k = k with
  | none => s
  | some r =>
    let (u, m, n) := takeChecks (r.unchecked.filter p) eq
    let s := (s.bumpN (drnBase + 0x18) n).bumpN (drnBase + 0x20) m.length
    s.updStep c k fun r => { r with unchecked := u ++ r.unchecked.filter (fun t => !p t), mismatched := r.mismatched ++ m }

/-- Tiles of a step that still need a check. -/
def StepRec.checksLeft (r : StepRec) : Nat := (r.unchecked.filter fun t => !t.poisoned).length

/-- The referee's verdicts on the mismatched tiles of step `k`; the step is marked for a rewind unless every tile stands. -/
def verdicts (c k : Nat) : List (Tile × Referee) → State → State × Bool × Bool
  | [], s => (s, false, false)
  | (t, r) :: rest, s =>
    let (s, re, f) := s.verdict c k t r
    let (s, re2, f2) := verdicts c k rest s
    (s, re || re2, f || f2)

def State.referee (s : State) (c k : Nat) (rs : List Referee) : State × Bool :=
  match (s.ctx c).steps.find? fun r => r.k = k with
  | none => (s, false)
  | some r =>
    let (s, re, f) := verdicts c k (r.mismatched.zip rs) s
    (s.updStep c k fun r => if re then { r with rewindDue := true, unchecked := [] } else { r with mismatched := [] }, f)

/-! ### Poison (13, R361, R362; 08, R209; 12, R321, R322) -/

/-- An uncorrectable word in frame `f` of HBM: the second within 24 hours retires the frame (12, R321). -/
def State.frameUe (s : State) (f : Nat) : State :=
  match s.mem.frameUe.get f with
  | some t =>
    if s.time - t ≤ 24 * 3600 * secNs then
      (((s.retireFrame f).updMem fun m => { m with framesRetired := m.framesRetired + 1, frameUe := m.frameUe.set f none }).updTel fun k =>
        { k with framesTotal := k.framesTotal + 1 }).lifetime 0x0041 [f]
    else s.updMem fun m => { m with frameUe := m.frameUe.set f (some s.time) }
  | none => s.updMem fun m => { m with frameUe := m.frameUe.set f (some s.time) }

/-- A page becomes POISONED (08, R209, R210); pins that hold it are marked. -/
def State.poisonPage (s : State) (c p : Nat) : State :=
  let s := (s.updPage p fun g => if g.st = .active || g.st = .shared then { g with st := .poisoned } else g).kvpFlag c 1
  (s.latchPoison c p).updCtx c fun x => { x with pins := x.pins.map fun n =>
    if p ∈ n.pages || (n.twins.any fun t => t.2 = p) then { n with poisoned := true } else n }

/-- Is a poisoned word of page `p` settled: does its position lie below the length that a sequence whose list holds the page had
accepted at its latest committed step (08, R209)? -/
def State.settledWord (s : State) (c p : Nat) : Bool :=
  let g := s.geom c
  let words := (s.mem.poison.filter fun e => e.2 && pageKey p 0 ≤ 8 * e.1 && 8 * e.1 < pageKey p 0 + g.bytes).map fun e =>
    g.wordPos (8 * e.1 - pageKey p 0)
  (s.ctx c).reqs.any fun r =>
    let pages := match r.slot with
      | some k => (s.liveEnts k).map fun (e : ListEnt) => if e.valid then some e.page else none
      | none => r.pages.map some
    (pages.zip (upto pages.length)).any fun q => q.1 == some p && words.any fun w => decide (64 * q.2 + w < r.lenDone)

/-- The repair the word's owner sets; the status of the fault when there is none to make. -/
def State.repair (s : State) (c : Nat) : Option PoisonOwner → State × Option Nat
  | none => (s, none)
  | some (.kvPage p) => if s.settledWord c p then (s.poisonPage c p, none) else (s.latchPoison c p, none)
  | some (.weightPage va) =>
    if (s.ctx c).weights.any fun w => w.copyHeld && decide (w.va ≤ va) && decide (va < w.va + w.len) then
      (s.updCtx c fun x => { x with reloading := some (va / 2 ^ 21 * 2 ^ 21), reloadSince := s.time }, none)
    else (s, some stPoisoned)
  | some (.frame f) => (s.frameUe f, none)
  | some .retainOrPersist => (s, some stPoisoned)
  | some .sameWordAgain => (s, some stPoisoned)

/-! ### Switch-out (05, R122, R130, R131; 15, R423) -/

/-- The context leaves the array at a boundary.  `ext` holds check results for its last step's tiles; without all of
them it waits in a check extension. -/
def State.leave (s : State) (c : Nat) (ext : List Bool) : State :=
  let left := match (s.ctx c).steps.getLast? with
    | some r => r.checksLeft
    | none => 0
  if ext.length < left then
    (s.updCtx c fun x => { x with leaving := true }).updActx c fun a => { a with phase := .checkExt }
  else
    let s := match (s.ctx c).steps.getLast? with
      | some r => s.applyChecks c r.k (fun _ => true) ext
      | none => s
    -- committed in order; what cannot commit stays, its REVOKE sent for a mismatch
    let s := foldS (s.ctx c).steps (fun s r =>
      match (s.ctx c).steps.head? with
      | some h => if h.k = r.k && h.clean then s.commit c h else s
      | none => s) s
    let s := foldS ((s.ctx c).steps.filter fun r => !r.mismatched.isEmpty) (fun s r =>
      (s.revokeEpoch c r).updStep c r.k fun r => { r with sentTo := [] }) s
    let held := !(s.ctx c).steps.isEmpty
    let s := s.releaseArray c (if held then .switchedOut else .idle)
    let s := s.updCtx c fun x =>
      { x with leaving := false, st := if x.st = .running then (if held then .suspended else .ready) else x.st }
    (((s.switchGen c).checkDrained).checkQuiesced).checkDoze

/-- At a boundary: does the context's turn end (R423, R234)? -/
def State.turnEnds (s : State) (c : Nat) : Bool :=
  !s.mayStep || (s.ctx c).next.isNone || !s.mayHold c || s.outranked c

/-- The context takes the array in the mode its next step starts in (04, R102; 14, R378). -/
def State.takeArray (s : State) (c : Nat) (press : Bool) : State :=
  ((s.updArr fun a => { a with cur := some c }).updCtx c fun x => { x with st := .running }).setMode press

/-! ### The fence (05, R120; 13; 09) -/

/-- Channels of the context that are not idle (05, R120). -/
def State.chansBusy (s : State) (c : Nat) : Bool :=
  s.dma.chans.any fun e => e.2.owned && e.2.ctx == c && !(e.2.st == .idle || e.2.st == .done)

/-- Are all 64 S engines waiting at the step fence? -/
def State.atStepFence (s : State) (c : Nat) : Bool :=
  ((upto 64).all fun n =>
    let k := s.core n
    k.atFence && (upto 4).all fun q => (k.queues.get q).isEmpty) &&
  !s.chansBusy c && !(s.dpp.queue.any fun o => o.ctx == c) && !(s.tsu.queue.any fun o => o.ctx == c)

/-- Hand-off buffers not at their initial credits (05, R126). -/
def State.badHandoffs (s : State) : List (Nat × HandOff) :=
  ((upto s.arr.handoffs.length).zip s.arr.handoffs).filter fun e =>
    s.arr.credits.get (32 * e.2.producer.val + e.2.freeReg.val) ≠ e.2.depth ||
    s.arr.credits.get (32 * e.2.consumer.val + e.2.fullReg.val) ≠ 0

/-- Requests at the fence, for the reversal. -/
def State.undoReqs (s : State) (c : Nat) : List Undo := (s.ctx c).reqs.map Undo.request

/-- The serving part of a fence: counted tokens, ends, patches read, and the EARLY record. -/
def State.fenceServing (s : State) (c k : Nat) : State :=
  match (s.ctx c).steps.find? fun r => r.k = k with
  | none => s
  | some r =>
    let s := s.pushUndo c (s.undoReqs c)
    let s := foldS r.entries (fun s e => match (s.findReq c e.req).bind (·.patchSlot) with
      | some p => s.updTsu fun t => { t with patches := t.patches.upd p fun q => { q with lastRead := some k } }
      | none => s) s
    let (s, es) := fenceEntries c k r.isPrefill r.entries s
    let s := (s.fenceOthers c k r.entries).updStep c k fun r => { r with entries := es }
    match (s.ctx c).steps.find? fun r => r.k = k with
    | some r => s.writeEarly c r
    | none => s

/-- Firmware's part of a fence, at once or after a gap: a rewind that is due, or the commit of the step before, the
tokens of the step that ended, the boundary, and the end of the turn. -/
def State.fenceFirmware (s : State) (c : Nat) (ext : List Bool) : State :=
  let owed := (s.ctx c).owedCommit
  let s := s.updCtx c fun x => { x with owed := false, owedCommit := [] }
  let s := foldS owed (fun s r => s.commitFw c r) s
  match (s.ctx c).steps.find? (·.rewindDue) with
  | some r =>
    -- the step before a rewound one still commits at this fence (05, R122)
    let s := match (s.ctx c).steps with
      | h :: _ :: _ => if h.k ≠ r.k && h.clean then s.commit c h else s
      | _ => s
    let s := (s.rewind c r.k).boundary c
    if s.turnEnds c then s.leave c ext else s
  | none =>
    let s := match (s.ctx c).steps with
      | r :: _ :: _ => if r.clean then s.commit c r else s
      | _ => s
    let s := match (s.ctx c).steps.getLast? with
      | some r => s.fenceServing c r.k
      | none => s
    let s := s.boundary c
    if s.turnEnds c then s.leave c ext else s

/-- Lag of the step that reaches its fence, ns (05, R121). -/
def State.lag (s : State) (c : Nat) : Nat :=
  let x := (s.advanceNominal c).ctx c
  if s.stepCycles c * 1000 ≤ x.nomDone then s.time - x.nomAt else 0

/-- The fence of the running step has completed: lag, DRN_MSTEP, poison, and firmware's part or its debt. -/
def State.endFence (s : State) (c : Nat) (r : StepRec) (inp : FenceInput) (ext : List Bool) : State :=
  let lag := s.lag c
  let s := s.updActx c fun a =>
    { a with phase := .stepFence, lagNs := sat32 lag
             lagMaxNs := if a.lagMaxNs.toNat < (sat32 lag).toNat then sat32 lag else a.lagMaxNs }
  let s := ((s.sample 0 (lag / usNs)).mstepTick).updStep c r.k fun r => { r with fenced := true }
  if r.poisoned then
    let (s, why) := s.repair c inp.poison
    match why with
    | some st => s.faultCtx c st
    | none =>
      let s := s.updCtx c fun x => { x with steps := match x.steps with
        | h :: t => { h with rewindDue := true } :: t
        | [] => [] }
      if s.ctl.gap then s.updCtx c fun x => { x with owed := true } else s.fenceFirmware c ext
  else if s.ctl.gap then
    let s := match (s.ctx c).steps with
      | h :: _ :: _ => if h.clean then s.commit c h else s
      | _ => s
    s.updCtx c fun x => { x with owed := true }
  else s.fenceFirmware c ext

end Sys2Proof.Machine
end

