-- ==== Sys2Proof/Machine/Startup.lean ====
section
/-!
DEFINITION. Power, start-up and the module's own states: hot-swap switch, stages, module reset, DOZE and CLOCK_HOLD entry
(01, R19-R26; 17, R474, R475, R484, R485; 18, R489-R494, R508-R511; 20, R529-R533).
-/
namespace Sys2Proof.Machine

/-! ### Entry to DOZE and CLOCK_HOLD -/

/-- DOZE entry begins (18, R508): no step begins from now on; with the array free it completes at once. -/
def State.enterDoze (s : State) (thermal : Bool) : State :=
  let s := if thermal then s.updPwr fun p => { p with dozeThermal := true, events := p.events ||| 1 } else s
  if s.glb.dozeEntering then
    if thermal then s.updGlb fun g => { g with dozeSince := s.time } else s
  else
    let s := s.updGlb fun g => { g with dozeEntering := true, dozeSince := s.time }
    let s := match s.arr.cur with
      | some c => if (s.ctx c).running || (s.ctx c).leaving || (s.ctx c).owed then s else s.leave c []
      | none => s
    s.checkDoze

/-- CLOCK_HOLD (01, R21; 18, R493, R511; 11, R300; 16, R446): the control domain on the ITO, every PLL stopped, RUNNING
contexts FAULTED, pictures and sessions abandoned, outputs safe. -/
def State.enterClockHold (s : State) : State :=
  let entering := s.glb.dozeEntering
  let starting := s.glb.state == .init
  let s := s.updGlb fun g =>
    { g with
      resumeState := if starting then g.resumeState else some (g.resumeState.getD g.state)
      startingUp := starting
      state := .clockHold
      stage := if starting then min g.stage 4 else g.stage
      holdStage := 0
      dozeEntering := false
      wakePending := false }
  let s := s.holdClocks
  let s := foldS allCtxs (fun s c => if (s.ctx c).st = .running then s.faultCtx c stCtxFault else s) s
  let s := if starting then s else s.abandonPictures.closeLinks
  if entering then s.completeAll (fun w => w == .dozed) fun _ => .of stBusy else s

/-! ### Module reset and power -/

/-- What module reset keeps: flash, the RTP's sealed set, the totals of the summary, the signals and switches outside the
module, PEG_TIME (counted since power good, 02, R39), and the model's own queue and counter of free values. -/
def State.moduleReset (s : State) : State :=
  { pending := s.pending, fresh := s.fresh, time := s.time
    board := { s.board with health := false, suspect := true }
    settings := s.settings, settingsPrev := s.settingsPrev
    glb := { bootFails := s.glb.bootFails, bootSince := s.time, stageSince := s.time }
    sec := { set_ := s.sec.set_ }
    drn := { cores := (s.drn.cores.map fun e => (e.1, { total := e.2.total })) }
    ctl := { primaryB := s.ctl.primaryB, pending := s.ctl.pending, staging := s.ctl.staging, staged := s.ctl.staged
             stagedKib := s.ctl.stagedKib, boot := s.ctl.boot, fuses := s.ctl.fuses
             commitSvn := s.ctl.commitSvn && s.ctl.phase != .soakStandby, phase := if s.ctl.phase = .rolledBack then .rolledBack else .none_ }
    pwr := { brake := s.pwr.brake, warn := s.pwr.warn, coolant := s.pwr.coolant }
    tel := { ltRing := s.tel.ltRing, ltSeq := s.tel.ltSeq, starts := s.tel.starts, brakes := s.tel.brakes
             warns := s.tel.warns, trips := s.tel.trips, peakDie := s.tel.peakDie, peakInlet := s.tel.peakInlet
             summaries := s.tel.summaries, summary := s.tel.summary, summaryOld := s.tel.summaryOld, energyUj := s.tel.energyUj, hotTicks := s.tel.hotTicks
             onNs := s.tel.onNs, ueTotal := s.tel.ueTotal, framesTotal := s.tel.framesTotal } }

/-- The switch opens and the module loses power at once (20, R533): flash and what lies outside the module stay. -/
def State.powerOff (s : State) : State :=
  let s := s.moduleReset
  { s with time := 0, glb := { bootFails := s.glb.bootFails }
           tel := { s.tel with onNs := s.tel.onNs + s.time }
           board := { s.board with closed := false, powered := false } }

/-- The hot-swap controller closes its switch if EN_SENSE is held, the input lies within its limits and no thermal trip is
latched (20, R532). -/
def State.tryClose (s : State) : State :=
  s.updBoard fun b => if b.enSense && b.inputOk && !b.tripLatch then { b with closed := true } else b

/-- EN_SENSE_MAKE: EN_SENSE held to RTN for 100 ms without a break (20, R532). -/
def execEnSenseMake (s : State) : Host.Outcome State Fault Refusal :=
  .next (s.updBoard fun b => { b with enSense := true }).tryClose

/-- INPUT_IN_RANGE (20, R531, R532). -/
def execInputInRange (s : State) : Host.Outcome State Fault Refusal :=
  .next (s.updBoard fun b => { b with inputOk := true }).tryClose

/-- The switch opens for a cause (20, R532, R533). -/
def State.openSwitch (s : State) (cause : OpenCause) : State :=
  let s := s.updBoard fun b => match cause with
    | .enSense => { b with enSense := false, tripLatch := false }
    | .underVoltage => { b with inputOk := false }
    | .overVoltage => { b with inputOk := false }
    | .overCurrent => b
    | .thermalTrip => { b with tripLatch := true, tripNoted := true }
  s.powerOff

/-- TRIP_LATCH_CLEAR: the input stayed below 37 V for 1 s (20, R532). -/
def execTripLatchClear (s : State) : Host.Outcome State Fault Refusal :=
  .next ((s.openSwitch .underVoltage).updBoard fun b => { b with tripLatch := false })

/-- SWITCH_OPEN. -/
def execSwitchOpen (cause : OpenCause) (s : State) : Host.Outcome State Fault Refusal := .next (s.openSwitch cause)

/-- POWER_GOOD: the charge behind the closed switch has ended; stage POWER_GOOD (01, R23; 20, R532). -/
def execPowerGood (s : State) : Host.Outcome State Fault Refusal :=
  if s.board.closed && !s.board.powered then
    .next { s with
      time := 0
      board := { s.board with powered := true }
      tel := { s.tel with starts := s.tel.starts + 1 } }
  else .next s

/-! ### Start-up (01, R23-R26; 17, R475) -/

/-- Number of a stage's code once it has completed. -/
def stageNo : Stage → Nat
  | .ito => 1
  | .rtpBoot => 2
  | .coreA => 3
  | .reload => 4
  | .crystal => 5
  | .plls => 6
  | .hbmTrain => 7

/-- A failed boot (01, R26): BOOT_FAILS counts, and start-up begins again from the other slot, or in RECOVERY once it
reaches 2 (17, R484). -/
def State.bootFailure (s : State) : State :=
  let n := min 2 (s.glb.bootFails + 1)
  let failedA := (s.ctl.cores.get 0).health == .failed
  let s := s.lifetime 0x0002 [s.glb.stage, n]
  let q := s.tel.ltQueue
  let other := !s.glb.fallbackBoot
  let s := s.moduleReset
  let s := s.updTel fun t => { t with ltQueue := q, starts := t.starts + 1 }
  let s := s.updGlb fun g => { g with bootFails := n, fallbackBoot := other }
  if n < 2 then s
  else
    -- the recovery ROM serves PF0; the blocks of stage CORE_A are its registers
    let s := s.updGlb fun g => { g with state := .recovery, stage := 3 }
    let core := if failedA then 1 else 0
    let s := s.updCtl fun c =>
      { c with owner := some (if failedA then .b else .a), lastBeat := s.time
               cores := c.cores.set core { (c.cores.get core) with health := .recoveryRom } }
    -- every Dyter port comes up at version 1.0 CLEAR (17, R484)
    s.updLnk fun l => { l with ports := (upto 4).foldl (fun t p => t.upd p fun q =>
      { q with enabled := true, st := .cableInit, since := s.time }) l.ports }

/-- The pairs of a secret in both algorithms. -/
def keyPairs (secret : List Byte) : List (List Byte) := [Config.keyPair false secret, Config.keyPair true secret]

/-- The RTP's identities (14, R375, R376): DeviceID from the UDS, CDI_1 and Alias from the UDS and the RTP firmware's
digest, the sealing key from the UDS and the fuse count. -/
def identityOf (digest : BitVec 384) (svn : Word) : Identity :=
  let device := keyPairs (hkdf384 Config.uds 0 [])
  let cdi := hkdf384 Config.uds 1 (leBytes 48 digest.toNat)
  let second := keyPairs (hkdf384 cdi 2 [])
  { deviceId := device, cdi1 := cdi, pairs1 := second
    certs := List.zipWith (fun d a => Config.certificate d a digest svn.toNat) device second
    sealing := hkdf384 Config.uds 3 (leBytes 4 svn.toNat) }

/-! ### Boot slots (17, R474, R475) -/

/-- The slot that start-up boots from: the primary one, or after a boot failure the other. -/
def State.bootSlot (s : State) : Nat := b2n (s.ctl.primaryB != s.glb.fallbackBoot)

/-- Bundle `b`'s components of the given types are written into a slot. -/
def Ctl.flash (c : Ctl) (slot : Nat) (kinds : List Nat) (b : Bundle) : Ctl :=
  { c with boot := (kinds.filter fun t => (b.part t).isSome).foldl (fun m t => m.set (8 * slot + t) (some b)) c.boot }

/-- The slot that is not primary. -/
def Ctl.spareSlot (c : Ctl) : Nat := b2n !c.primaryB

/-- What RTP_BOOT does first with PENDING: RTP firmware and boot chain go from staging into the other slot, which becomes
primary. -/
def State.takePending (s : State) : State :=
  if !s.ctl.pending then s
  else s.updCtl fun c =>
    let c := match c.staged with
      | some b => c.flash c.spareSlot [1, 2] b
      | none => c
    { c with pending := false, primaryB := !c.primaryB, staging := if c.staging = .pending then .valid else c.staging }

/-- The bundle that the image of type `t` in the slot booted from came from. -/
def State.bootImage (s : State) (t : Nat) : Option Bundle := s.ctl.boot.get (8 * s.bootSlot + t)

/-- What a stage finds in a slot whose images the model knows, in place of what it brings: versions, digests and formats.  A
fuse count never falls, and an image below it does not verify (R478). -/
def State.fromFlash (s : State) (st : Stage) (r : StageResult) : StageResult :=
  match st with
  | .rtpBoot =>
    let s := s.takePending
    let svn := if r.svn.toNat < s.ctl.fuses.toNat then s.ctl.fuses else r.svn
    match s.bootImage 1 with
    | some b => { r with good := r.good && decide (svn.toNat ≤ b.svn.toNat), svn, fwVersion := b.version, digest := b.partDigest 1 }
    | none => { r with svn }
  | .coreA =>
    match s.bootImage 3 with
    | some b =>
      { r with good := r.good && decide (s.sec.svn.toNat ≤ b.svn.toNat), fwVersion := b.version, digest := b.ctlDigest
               settingsFmt := b.settingsFmt, storeFmt := b.storeFmt, oldestStoreFmt := b.oldestStoreFmt }
    | none => r
  | .reload =>
    { r with subDigests := (upto 4).map fun i => match s.bootImage (4 + i) with
        | some b => b.partDigest (4 + i)
        | none => r.subDigests.getD i 0 }
  | _ => r

/-- The fuse count rises to the bundle's that has started, and the store is sealed anew before (14, R375; R478). -/
def State.raiseSvn (s : State) (b : Bundle) : State :=
  if !s.ctl.commitSvn then s
  else
    (s.updSec fun x => { x with svn := b.svn, ident := { x.ident with sealing := (identityOf x.rtpDigest b.svn).sealing } }).updCtl
      fun c => { c with commitSvn := false, fuses := b.svn }

/-- READY is reached (01, R19, R23, R26): the rings of the VFs open, the standby starts, the outputs leave their safe
states.  A bundle that waited for this start with COMMIT_SVN has started. -/
def State.reachReady (s : State) : State :=
  let s := match s.ctl.staged with
    | some b => if s.glb.fallbackBoot || s.ctl.pending then s else s.raiseSvn b
    | none => s
  let s := s.updGlb fun g =>
    { g with state := .ready, stage := 8, readyReached := true, bootFails := 0, startingUp := false, stageHalted := false }
  let s := s.updBoard fun b => { b with health := true, suspect := false }
  s.updCtl fun c =>
    let other := match c.owner with | some .b => 0 | _ => 1
    let own := c.cores.get (1 - other)
    { c with cores := c.cores.upd other fun k =>
        if k.health = .off then { k with health := .booting, fwVer := own.fwVer, digest := own.digest } else k }

/-- CORE_A (17, R475, R485; 18, R514): the control core runs, settings are loaded, START and a noted trip are recorded. -/
def State.coreStarts (s : State) (r : StageResult) : State :=
  let owner := if r.coreAFails then CoreAB.b else .a
  let n := if r.coreAFails then 1 else 0
  -- the settings record: the current area, the previous one, or defaults
  let cur := s.settings
  let s : State :=
    if r.defaulted then { s with settings := { fmt := r.settingsFmt } }
    else if r.migrated then { s with settings := { cur with fmt := r.settingsFmt }, settingsPrev := cur }
    else if r.settingsFmt.toNat < cur.fmt.toNat then { s with settings := s.settingsPrev }
    else s
  let g := s.settings
  let s := s.updCtl fun c =>
    let cores := if r.coreAFails then c.cores.set 0 { (c.cores.get 0) with health := .failed, lastFail := 1 } else c.cores
    { c with
      owner := some owner
      writer := owner
      lastBeat := s.time
      storeFmt := r.storeFmt
      oldestStoreFmt := r.oldestStoreFmt
      cores := cores.set n { (cores.get n) with health := .active, fwVer := r.fwVersion, digest := r.digest }
      preferred := g.preferred
      takebackMin := g.takebackMin
      settingsFmt := g.fmt
      migrated := r.migrated
      defaulted := r.defaulted }
  let s := s.updPwr fun p =>
    { p with cap := g.cap, up := g.up, down := g.down, orphanCap := g.orphanCap, warnCap := g.warnCap
             inletMax := g.inletMax, tThrottle := g.tThrottle, orphanArmed := g.orphanAtStart, orphanSince := s.time }
  -- the code of the reset's cause is not in the spec
  let (k, s) := s.draw
  let slot := if s.ctl.primaryB != s.glb.fallbackBoot then 1 else 0
  let s := s.lifetime 0x0001 [3, s.glb.bootFails, slot, Config.value k]
  let s := if r.defaulted then s.lifetime 0x0053 [] else s
  if s.board.tripNoted then
    ((s.lifetime 0x0063 []).updTel fun t => { t with trips := t.trips + 1 }).updBoard fun b => { b with tripNoted := false }
  else s

/-- CRYSTAL (18, R489, R492): the control domain runs on the control PLL, the Peg unit on the crystal, but in CLOCK_HOLD still
on the ITO (02, R39). -/
def State.crystalOn (s : State) : State :=
  (s.updClk fun k => { k with xtalOk := true, onIto := false, ctlSel := 2, lock := k.lock ||| 0x40 }).updPeg fun p =>
    { p with timeIto := s.glb.state == .clockHold }

/-- PLLS (18, R512): quadrants 1,500 MHz, NoC and codec 1,000 MHz. -/
def State.pllsOn (s : State) : State :=
  let s := s.updClk fun k =>
    { k with nocPll := 0x1C, codecPll := 0x24, lock := k.lock ||| 0x3F
             muxSel := (upto 6).foldl (fun t m => t.set (m + 1) 2) k.muxSel }
  (s.setQuads [0x24, 0x24, 0x24, 0x24]).updVid fun v => { v with clkMhz := 1000 }

/-- What a completed stage does. -/
def State.stageDone (s : State) (st : Stage) (r : StageResult) : State :=
  match st with
  | .ito => s
  | .rtpBoot =>
    let s := s.updSec fun x => 
      { x with moduleId := r.moduleId, svn := r.svn, rtpVer := r.fwVersion, rtpDigest := r.digest
               ident := identityOf r.digest r.svn }
    s.takePending
  | .coreA => s.coreStarts r
  | .reload =>
    let s := s.updSec fun x => { x with subDigest := sha384 (r.subDigests.flatMap fun d => leBytes 48 d.toNat) }
    -- start-up from the fallback slot has succeeded (R475)
    if s.glb.fallbackBoot then s.updCtl fun c =>
      { c with rollback := true, commitSvn := false, primaryB := !c.primaryB, staging := if c.staging = .empty then .empty else .rejected }
    else s
  | .crystal => s.crystalOn
  | .plls => s.pllsOn
  | .hbmTrain => (s.updMem fun m => { m with hbmUp := 0xFF, rinseOn := true }).updClk fun k => { k with lock := k.lock ||| 0x80 }

/-- HBM training failure (01, R26). -/
def State.hbmFails (s : State) (stackMask : Byte) : State :=
  ((s.updMem fun m => { m with hbmUp := stackMask }).lifetime 0x0003 [stackMask.toNat]).updGlb fun g =>
    { g with state := .suspect, resumeState := none, startingUp := false }

/-- The end of CLOCK_HOLD (18, R494, R511): start-up goes on to READY; otherwise the resume state, or DOZE if a sensor is
at or above 105 °C. -/
def State.holdEnds (s : State) : State :=
  let s := s.updPeg fun p => { p with timeIto := false }
  if s.glb.startingUp then s.reachReady
  else if 105 ≤ s.pwr.hottest then s.enterDoze true
  else
    let s := s.resumeModule
    (s.checkDrained).checkQuiesced

/-- A stage ends successfully while start-up or the repetition stands before it. -/
def State.stageGood (s : State) (st : Stage) (r : StageResult) : State :=
  let n := stageNo st
  let repeating := s.glb.state == .clockHold && !s.glb.startingUp
  let s := if repeating then s.updGlb fun g => { g with holdStage := n, stageSince := s.time }
    else s.updGlb fun g => { g with stage := n, stageSince := s.time, stageHalted := g.thermalHeld }
  let s := s.stageDone st r
  if st = .hbmTrain then
    if s.glb.state = .clockHold then s.holdEnds
    else if s.glb.stageHalted then s
    else s.reachReady
  else s

/-- May stage `n` complete now? -/
def State.stageRuns (s : State) (n : Nat) : Bool :=
  s.board.powered && !s.glb.stageHalted &&
  (match s.glb.state with
   | .init => n == s.glb.stage + 1
   | .clockHold => s.clk.xtalOk && (if s.glb.startingUp then n == s.glb.stage + 1 else n == s.glb.holdStage + 1)
   | _ => false)

/-- STAGE_COMPLETE.  RTP_BOOT takes up a PENDING bundle before it verifies, so a failed one has done so too. -/
def execStageComplete (stage : Stage) (res : StageResult) (s : State) : Host.Outcome State Fault Refusal :=
  let n := stageNo stage
  let res := s.fromFlash stage res
  if !s.stageRuns n then .next s
  else if n ≤ 4 && !res.good then .next (if n = 1 then s else (if n = 2 then s.takePending else s).bootFailure)
  else if stage = .hbmTrain && (res.stackMask ≠ 0xFF || !res.good) then .next (s.hbmFails res.stackMask)
  else if !res.good then .next s
  else .next (s.stageGood stage res)

/-- Limit of a stage in ms (17, R475), none without one. -/
def stageLimit (n : Nat) : Option Nat :=
  if n = 2 then some 500 else if n = 3 then some 800 else if n = 4 then some 600 else none

/-- STAGE_TIMEOUT (17, R475). -/
def execStageTimeout (s : State) : Host.Outcome State Fault Refusal :=
  match stageLimit (s.glb.stage + 1) with
  | some ms =>
    if s.stageRuns (s.glb.stage + 1) && s.glb.state == .init && decide (s.glb.stageSince + ms * msNs < s.time) then
      .next (if s.glb.stage = 1 then s.takePending else s).bootFailure
    else .next s
  | none => .next s

/-- CRYSTAL_TIMEOUT (01, R26; 18, R489). -/
def execCrystalTimeout (s : State) : Host.Outcome State Fault Refusal :=
  if s.glb.state == .init && s.glb.stage == 4 && s.stageRuns 5 && decide (s.glb.stageSince + 100 * msNs ≤ s.time) then
    .next s.enterClockHold
  else .next s

/-! ### Crystal and multiplexers (18, R490-R494) -/

/-- XTAL_LOST: in DOZE the module stays in DOZE; in RECOVERY and before stage CRYSTAL nothing runs on the crystal. -/
def execXtalLost (s : State) : Host.Outcome State Fault Refusal :=
  if !s.board.powered then .next s
  else
    let lost : State := s.updClk fun k => { k with xtalLost := true, xtalOk := false }
    match s.glb.state with
    | .recovery => .next s
    | .init => if 5 ≤ s.glb.stage then .next lost.enterClockHold else .next s
    | .doze => .next ((lost.updClk fun k => { k with onIto := true }).updPeg fun p => { p with timeIto := true })
    | .clockHold =>
      .next ((lost.updGlb fun g => { g with holdStage := 0, stage := if g.startingUp then 4 else g.stage }).updClk fun k =>
        { k with onIto := true, lock := 0, ctlSel := 0 })
    | _ => .next lost.enterClockHold

/-- CRYSTAL_STABLE: within ±3 % of the ITO for 100 ms without a break; in CLOCK_HOLD the stages CRYSTAL to HBM_TRAIN run
again. -/
def execCrystalStable (s : State) : Host.Outcome State Fault Refusal :=
  if !s.board.powered then .next s
  else match s.glb.state with
  | .clockHold => .next ((s.updClk fun k => { k with xtalOk := true }).updGlb fun g =>
      { g with holdStage := 4, stageSince := s.time })
  | .doze => .next ((s.updClk fun k => { k with xtalOk := true, onIto := false }).updPeg fun p => { p with timeIto := false })
  | _ => .next s

/-- Is the CLK block valid (01, R23)? -/
def State.clkValid (s : State) : Bool := s.board.powered && decide (5 ≤ s.glb.stage) && s.glb.state != .recovery

/-- CLK_CTL_SRC_WRITE (R492, R512, R513): from a control core alone; the reserved selection changes nothing. -/
def execClkCtlSrcWrite (by_ : Requester) (value : Word) (s : State) : Host.Outcome State Fault Refusal :=
  let sel := value.toNat % 4
  let core := match by_ with | .controlA => true | .controlB => true | _ => false
  if !core || !s.clkValid || sel = 3 || s.clk.ctlBusy then .next s
  else .next (s.updClk fun k => { k with ctlSel := sel, ctlBusy := true, muxTo := k.muxTo.set 0 (some sel) })

/-- MUX_SWITCH_DONE (R490): the selection takes effect and BUSY clears; of multiplexers 1-6 also the PLL behind it is in
step again. -/
def execMuxSwitchDone (mux : Fin 7) (s : State) : Host.Outcome State Fault Refusal :=
  if mux.val = 0 then
    match s.clk.muxTo.get 0 with
    | some sel => .next (s.updClk fun k => { k with ctlBusy := false, muxTo := k.muxTo.set 0 none, onIto := sel == 0 })
    | none => .next s
  else
    .next (s.updClk fun k =>
      let done : Byte := 1 <<< (mux.val - 1)
      match k.muxTo.get mux.val with
      | some sel => { k with muxTo := k.muxTo.set mux.val none, muxSel := k.muxSel.set mux.val sel
                             lock := if sel = 2 then k.lock ||| done else k.lock, pllBusy := k.pllBusy &&& ~~~done }
      | none => { k with pllBusy := k.pllBusy &&& ~~~done })

/-- MUX_HUNG (R493): forced to the ITO; for multiplexers 1-6 every RUNNING context is FAULTED and firmware relocks the PLL
and restores the domain. -/
def execMuxHung (mux : Fin 7) (s : State) : Host.Outcome State Fault Refusal :=
  if !s.clkValid then .next s
  else
    let m := mux.val
    let s := s.updClk fun k => { k with hung := k.hung ||| (1 <<< m) }
    if m = 0 then
      .next (s.updClk fun k => { k with onIto := true, ctlSel := 0, ctlBusy := false, muxTo := k.muxTo.set 0 none })
    else
      let s := s.updClk fun k =>
        { k with muxSel := k.muxSel.set m 0, muxTo := k.muxTo.set m (some 2), lock := k.lock &&& ~~~((1 : Byte) <<< (m - 1)) }
      .next (foldS allCtxs (fun s c => if (s.ctx c).st = .running then s.faultCtx c stCtxFault else s) s)

/-- FMEAS_START (R491, R513): a write of CLK_FMEAS_CTRL; a reserved source changes nothing. -/
def execFmeasStart (value : Word) (s : State) : Host.Outcome State Fault Refusal :=
  if !s.clkValid then .next s
  else
    let v := value.toNat
    let src := fieldOf v 19 16
    .next (s.updClk fun k =>
      { k with
        fRef := bit v 29
        fSrc := if src ≤ 10 then src else k.fSrc
        fWindow := fieldOf v 9 0
        fStart := k.fStart || bit v 31
        fDone := k.fDone && !bit v 31 })

/-- FMEAS_DONE (R491). -/
def execFmeasDone (edges : Word) (s : State) : Host.Outcome State Fault Refusal :=
  if s.clk.fStart then .next (s.updClk fun k => { k with fStart := false, fDone := true, fResult := edges }) else .next s

/-- The results of the Press operations that run become undefined: what they have written now takes free values, what they
are still to write will (04, R101; log 111). -/
def State.undefinePress (s : State) : State :=
  match s.arr.cur with
  | none => s
  | some c =>
    let g := (s.image c (s.actx c).handle).getD {}
    let ops := ((upto 64).map fun n => (s.core n).op.toNat).eraseDups.filter fun o => ((imgOp g o).map opPress).getD false
    if s.arr.mode ≠ .press || !(s.ctx c).running || ops.isEmpty then s
    else
      let mine := s.arr.pressOut.filter fun r => decide (r.1 ∈ ops)
      let s := s.updArr fun a => { a with pressUndefined := ops ++ a.pressUndefined }
      foldS mine (fun s r => s.freeRun r.2.1 r.2.2) s

/-- CLK_PLL_SETTING_WRITE (04, R101; 18, R512): PLL 0-3 quadrants, 4 NoC, 5 codec; a setting outside its range changes
nothing.  A quadrant written under a running Press operation leaves its results undefined. -/
def execClkPllSettingWrite (pll : Fin 6) (value : Word) (s : State) : Host.Outcome State Fault Refusal :=
  let n := value.toNat % 64
  let lim := if pll.val < 4 then 42 else if pll.val = 4 then 54 else 36
  if !s.clkValid || lim < n then .next s
  else
    let s := s.updClk fun k => { k with pllBusy := k.pllBusy ||| (1 <<< pll.val) }
    if pll.val < 4 then .next (s.undefinePress.setQuads (s.quads.set pll.val n))
    else if pll.val = 4 then .next (s.updClk fun k => { k with nocPll := n })
    else .next (s.updClk fun k => { k with codecPll := n })

/-! ### Thermal release (18, R504, R511) -/

/-- THERMAL_RELEASE: every sensor at or below 85 °C for 10 s and no coolant fault: the module leaves a thermal DOZE, or its
start-up goes on.  A start-up held for heat that has fallen into CLOCK_HOLD is released there. -/
def execThermalRelease (s : State) : Host.Outcome State Fault Refusal :=
  let cold := match s.pwr.coldSince with
    | some t => decide (t + 10 * secNs ≤ s.time)
    | none => false
  if !cold || s.pwr.coolant || !s.pwr.dozeThermal then .next s
  else match s.glb.state with
  | .doze => .next s.dozeExit
  | .init =>
    let s := (s.updPwr fun p => { p with dozeThermal := false }).updGlb fun g =>
      { g with thermalHeld := false, stageHalted := false, stageSince := s.time }
    if s.glb.stage = 7 then .next s.reachReady else .next s
  | .recovery => .next (s.updPwr fun p => { p with dozeThermal := false })
  | .clockHold => .next ((s.updPwr fun p => { p with dozeThermal := false }).updGlb fun g =>
      { g with thermalHeld := false, stageHalted := false })
  | _ => .next s

/-- DOZE_ENTRY_TIMEOUT (18, R508): 20 ms of a thermal entry. -/
def execDozeEntryTimeout (s : State) : Host.Outcome State Fault Refusal :=
  if s.glb.dozeEntering && s.pwr.dozeThermal && decide (s.glb.dozeSince + 20 * msNs ≤ s.time) then
    .next ((foldS allCtxs (fun s c => if (s.ctx c).st = .running then s.faultCtx c stCtxFault else s) s).checkDoze)
  else .next s

/-! ### PERST# and the latch (01, R24; 15, R429, R430) -/

/-- PERST_ASSERT: module reset. -/
def execPerstAssert (s : State) : Host.Outcome State Fault Refusal :=
  if !s.board.powered then .next (s.updBoard fun b => { b with perst := true })
  else
    let s := s.moduleReset
    .next ((s.updBoard fun b => { b with perst := true }).updTel fun t => { t with starts := t.starts + 1 })

/-- PERST_DEASSERT. -/
def execPerstDeassert (s : State) : Host.Outcome State Fault Refusal :=
  .next ((s.updBoard fun b => { b with perst := false }).updGlb fun g => { g with bootSince := s.time })

/-- The latch changes: LATCH_EVT with the unit powered, and doorbell bit 15 of PF0 when it opens. -/
def State.latch (s : State) (opens : Bool) : State :=
  if s.board.latchOpen = opens then s
  else
    let s := s.updBoard fun b => { b with latchOpen := opens }
    if s.board.powered && decide (3 ≤ s.glb.stage) then
      let s := s.updHost fun h => { h with latchEvt := true }
      if opens then s.doorbell 0 15 else s
    else s

/-- LATCH_OPEN. -/
def execLatchOpen (s : State) : Host.Outcome State Fault Refusal := .next (s.latch true)
/-- LATCH_CLOSE. -/
def execLatchClose (s : State) : Host.Outcome State Fault Refusal := .next (s.latch false)

end Sys2Proof.Machine
end

