-- ==== Sys2Proof/Machine/Motion.lean ====
section
/-!
DEFINITION. The encode pipe's picture (11, R301-R306): row QPs and regions, candidates and refinement of the motion search,
the clamps, and the slices.  What ITU-T H.265 or the encoder's own division of CTUs settles is a function of the
inputs without a body (Config), so that equal inputs give equal bits (R305).
-/
namespace Sys2Proof.Machine

/-- Side of a CTU, columns and rows of CTUs, slices of a picture (R276, R281, R306). -/
def VidCfg.ctu (v : VidCfg) : Nat := if v.ctu64 then 64 else 32
def VidCfg.cols (v : VidCfg) : Nat := cdiv v.width v.ctu
def VidCfg.rows (v : VidCfg) : Nat := cdiv v.height v.ctu
def VidCfg.slices (v : VidCfg) : Nat := if v.sliceRows = 0 then 1 else cdiv v.rows v.sliceRows

/-! ### Rows and regions (R301-R303) -/

/-- A quotient rounded to the nearest; which way a tie goes is not in the spec. -/
def roundDiv (num : Int) (den : Nat) : Int :=
  let q := num.fdiv den
  let r := (num - q * den).natAbs
  if 2 * r < den then q else if den < 2 * r then q + 1 else q + b2n (Config.tieUp num den)

/-- Target bits of a picture as a fraction (R301). -/
def targetBits (v : VidCfg) (intra : Bool) : Nat × Nat :=
  let g := if v.idrPeriod = 0 then 60 else v.idrPeriod
  let num := v.bitrate * v.interval * g * 16
  let den := 1000000 * (v.iRatio + 16 * (g - 1))
  if intra then (num * v.iRatio, den * 16) else (num, den)

/-- Step of the row QP (R301) with `e = u - T j / R` and `r = T / R`, all times `R den`. -/
def qpStep (e r : Int) : Int :=
  if r < e then 2 else if r < 4 * e then 1 else if -r ≤ 4 * e then 0 else if -r ≤ e then -1 else -2

/-- Row QPs before any clamp, and the first clamped row, 0xFF for none (R301, R303), by the bits of the rows. -/
def rowQps (v : VidCfg) (intra : Bool) (start : Nat) (bits : List Nat) : List Nat × Nat :=
  let n := v.rows
  let (tn, td) := targetBits v intra
  let go := (upto n).foldl (fun (a : List Nat × Nat × Nat × Nat) j =>
    let (qs, qp, u, clamp) := a
    let clamp := if clamp = 0xFF && decide (1 ≤ j) && decide (v.capBits * j < u * n) then min j 0xFE else clamp
    let qp := if j = 0 || !v.row then qp
      else
        let e : Int := (u * n * td : Nat) - (tn * j : Nat)
        let q : Int := (qp : Int) + qpStep e tn
        (max (v.qpMin : Int) (min (v.qpMax : Int) q)).toNat
    (if clamp = 0xFF then qs ++ [qp] else qs, qp, u + bits.getD j 0, clamp)) ([], start, 0, 0xFF)
  (go.1, go.2.2.2)

/-- QP of the CTU at (col, row): the row QP with the first ROI that holds it; 51 from the first clamped row on. -/
def ctuQp (roi : List (List Byte)) (qs : List Nat) (col row : Nat) : Nat :=
  match qs[row]? with
  | none => 51
  | some qp =>
    match roi.find? fun e => decide (lb e 0 2 ≤ col) && decide (col < lb e 0 2 + lb e 4 2) && decide (lb e 2 2 ≤ row) &&
        decide (row < lb e 2 2 + lb e 6 2) with
    | none => qp
    | some e => if lb e 8 1 = 1 then lb e 9 1 else (max 0 (min 51 ((qp : Int) + signedOf 8 (lb e 9 1)))).toNat

/-! ### The motion search (R305) -/

/-- A plane of samples, read with its edges extended. -/
def planeAt (l : List Nat) (w h : Nat) (x y : Int) : Nat :=
  let cx := (max 0 (min ((w : Int) - 1) x)).toNat
  let cy := (max 0 (min ((h : Int) - 1) y)).toNat
  l.getD (cy * w + cx) 0

/-- The sample the unit predicts from at (x, y) with a vector in quarter pixels. -/
def EncIn.predict (e : EncIn) (mx my : Int) (x y : Nat) : Nat :=
  let ref := planeAt e.refLuma e.width e.height
  let qx := 4 * (x : Int) + mx
  let qy := 4 * (y : Int) + my
  if qx % 4 = 0 && qy % 4 = 0 then ref (qx / 4) (qy / 4) else Config.subPixel ref qx qy

/-- Differences of a unit, row by row, under a vector. -/
def EncIn.diffs (e : EncIn) (u : Cu) (mx my : Int) : List Int :=
  (upto u.size).flatMap fun j => (upto u.size).map fun i =>
    let x := u.x + i
    let y := u.y + j
    Int.ofNat (planeAt e.luma e.width e.height x y) - EncIn.predict e mx my x y

/-- The SAD of a unit under a vector. -/
def EncIn.sad (e : EncIn) (u : Cu) (mv : Int × Int) : Nat :=
  (EncIn.diffs e u mv.1 mv.2).foldl (fun a d => a + d.natAbs) 0

/-- The final cost: Hadamard cost and a rate term of the QP alone. -/
def EncIn.cost (e : EncIn) (u : Cu) (qp : Nat) (mv : Int × Int) : Nat :=
  Config.hadamard u.size (EncIn.diffs e u mv.1 mv.2) + Config.rateTerm qp

/-- The candidate of least cost; ties go to the earlier. -/
def firstBest (cost : Int × Int → Nat) : List (Int × Int) → Int × Int
  | [] => (0, 0)
  | c :: r => r.foldl (fun b d => if cost d < cost b then d else b) c

/-- The place of least cost of a search: of equally good ones, which is not in the spec. -/
def searchBest (cost : Int × Int → Nat) (l : List (Int × Int)) : Int × Int :=
  let m := l.map cost
  let low := m.foldl min (m.headD 0)
  let ties := l.filter fun d => cost d == low
  ties.getD (Config.searchTie ties % max 1 ties.length) (0, 0)

/-- Places at `d` times -n to n around a vector in both directions. -/
def around (mv : Int × Int) (d : Int) (n : Nat) : List (Int × Int) :=
  (upto (2 * n + 1)).flatMap fun j => (upto (2 * n + 1)).map fun i =>
    (mv.1 + d * (Int.ofNat i - n), mv.2 + d * (Int.ofNat j - n))

/-- The unit that holds a place, if there is one. -/
def cuAt (l : List Cu) (x y : Int) : Option (Int × Int) :=
  if x < 0 || y < 0 then none
  else (l.find? fun u => decide (u.x ≤ x.toNat) && decide (x.toNat < u.x + u.size) && decide (u.y ≤ y.toNat) &&
    decide (y.toNat < u.y + u.size)).map fun u => (u.mvX, u.mvY)

/-- The predictor candidates of a unit, in their order: a neighbour outside the slice gives none (log 140). -/
def EncIn.candidates (e : EncIn) (prev slice : List Cu) (u : Cu) : List (Int × Int) :=
  let x : Int := u.x
  let y : Int := u.y
  [(e.gmvX, e.gmvY), (0, 0)] ++
  ([cuAt slice (x - 1) y, cuAt slice x (y - 1), cuAt slice (x + u.size) (y - 1), cuAt prev x y].filterMap id)

/-- The vector of a unit of a P picture: best candidate by SAD at full-pixel precision, a full-pixel search within 16
pixels, then the 8 half-pixel and the 8 quarter-pixel neighbours. -/
def EncIn.motion (e : EncIn) (prev slice : List Cu) (qp : Nat) (u : Cu) : Cu :=
  let cands := (EncIn.candidates e prev slice u).map fun c => (Config.fullPixel c.1, Config.fullPixel c.2)
  let c := firstBest (EncIn.sad e u) cands
  let full := searchBest (EncIn.sad e u) (around c 4 16)
  let half := searchBest (EncIn.cost e u qp) (around full 2 1)
  let best := searchBest (EncIn.cost e u qp) (around half 1 1)
  { u with mvX := best.1, mvY := best.2 }

/-! ### The coded picture (R301-R303, R306) -/

/-- A picture being coded: its finished slices, and the CTUs of the slice under way. -/
structure EncAcc where
  pic : EncPic := {}
  slice : List CtuCode := []
  clamped : Bool := false
  /-- bits at the start of the row -/
  rowStart : Nat := 0

/-- Bits written so far. -/
def EncAcc.bits (a : EncAcc) : Nat :=
  8 * (a.pic.slices.map List.length).foldl (· + ·) 0 +
  (if a.slice.isEmpty then 0 else Config.sliceBits a.pic.input a.pic.slices.length a.slice)

/-- Finish the slice under way. -/
def EncAcc.close (a : EncAcc) : EncAcc :=
  if a.slice.isEmpty then a
  else { a with
    pic := { a.pic with slices := a.pic.slices ++ [Config.sliceBytes a.pic.input a.pic.slices.length a.slice] }
    slice := [] }

/-- Code the CTU at (col, row); the skip clamp rolls it back and holds it and the rest (R303). -/
def EncAcc.ctu (v : VidCfg) (prev : List Cu) (roi : List (List Byte)) (qs : List Nat) (row : Nat) (a : EncAcc) (col : Nat) :
    EncAcc :=
  let e := a.pic.input
  let qp := ctuQp roi qs col row
  let units (l : List (Nat × Nat × Nat)) : List Cu := l.foldl (fun (done : List Cu) p =>
    let u : Cu := { x := p.1, y := p.2.1, size := p.2.2 }
    done ++ [if e.intra then u else EncIn.motion e prev ((a.slice.flatMap (·.cus)) ++ done) qp u]) []
  let coded : CtuCode := { col, row, qp, cus := units (Config.cuSplit e a.slice col row qp) }
  let skip : CtuCode := { col, row, qp, skip := true, cus := [{ x := v.ctu * col, y := v.ctu * row, size := v.ctu }] }
  let put (k : CtuCode) : EncAcc := { a with slice := a.slice ++ [k], pic := { a.pic with ctus := a.pic.ctus ++ [k] } }
  let left := v.cols * v.rows - (row * v.cols + col + 1)
  let unbegun := v.slices - (a.pic.slices.length + 1)
  let full := a.clamped || decide (v.capBits < (put coded).bits + 16 * left + 1024 * unbegun)
  let b := put (if full then skip else coded)
  { b with clamped := full, pic := { b.pic with skipCtus := b.pic.skipCtus + b2n full } }

/-- Code a row of CTUs; a slice begins every SLICE_ROWS rows (R306). -/
def EncAcc.row (v : VidCfg) (start : Nat) (prev : List Cu) (roi : List (List Byte)) (a : EncAcc) (j : Nat) : EncAcc :=
  let a := if v.sliceRows ≠ 0 && j % v.sliceRows = 0 then a.close else a
  let qs := (rowQps v a.pic.input.intra start a.pic.rowBits).1
  let u := a.bits
  let b := (upto v.cols).foldl (EncAcc.ctu v prev roi qs j) { a with rowStart := u }
  let last := decide (j + 1 = v.rows) || (v.sliceRows ≠ 0 && decide ((j + 1) % v.sliceRows = 0))
  let b := if last then b.close else b
  { b with pic := { b.pic with rowBits := b.pic.rowBits ++ [b.bits - u] } }

/-- The coded picture of an input. -/
def encodePicture (v : VidCfg) (start : Nat) (prev : List Cu) (roi : List (List Byte)) (e : EncIn) : EncPic :=
  ((upto v.rows).foldl (EncAcc.row v start prev roi) { pic := { input := e } }).pic

/-! ### Planes of a frame buffer (R284, R297) -/

/-- Are samples two bytes wide; has the buffer a chroma plane? -/
def VidCfg.wide (v : VidCfg) : Bool := v.fmt == 1 || v.fmt == 3
def VidCfg.colour (v : VidCfg) : Bool := decide (v.fmt < 2)
/-- Bytes of a sample of 8 bits, or of 10 in bits 15-6 (R284). -/
def VidCfg.sample (v : VidCfg) (x : Nat) : List Byte := if v.wide then leBytes 2 (64 * x) else [BitVec.ofNat 8 x]
/-- Mid-grey (R297). -/
def VidCfg.grey (v : VidCfg) : Nat := if v.wide then 512 else 128
/-- Offset of the chroma plane in a buffer (R284). -/
def VidCfg.chromaOff (v : VidCfg) : Nat := 4096 + v.pitch * ((v.height + 15) / 16 * 16)
/-- The sample at column `x` of row `y` of the plane at key `k`. -/
def VidCfg.sampleAt (v : VidCfg) (m : Mem) (k x y : Nat) : Nat :=
  if v.wide then m.leAt (k + v.pitch * y + 2 * x) 2 / 64 else m.leAt (k + v.pitch * y + x) 1

/-- Write `w` samples of each of `h` rows of a plane at key `k`, within the session's picture. -/
def State.putPlane (s : State) (v : VidCfg) (k w h : Nat) (f : Nat → Nat → Nat) : State :=
  foldS (upto h) (fun s y => s.putClean (k + v.pitch * y) ((upto (min w v.width)).flatMap fun x => v.sample (f x y))) s

/-- Write both planes of buffer `i` of session `k` for a picture of `w` by `h` samples; the chroma plane has half the rows. -/
def State.putPlanes (s : State) (k i w h : Nat) (luma chroma : Nat → Nat → Nat) : State :=
  let x := s.sess k
  let v := x.cfg
  let base := ctxKey x.ctx (s.bufVa k i)
  let h := min h v.height
  let s := s.putPlane v (base + 4096) w h luma
  if v.colour then s.putPlane v (base + v.chromaOff) w (cdiv h 2) chroma else s

/-- Samples of both planes of buffer `i` of session `k`, `w` columns of `h` rows. -/
def State.planesOf (s : State) (k i w h : Nat) : List Nat × List Nat :=
  let x := s.sess k
  let v := x.cfg
  let base := ctxKey x.ctx (s.bufVa k i)
  let read (off h : Nat) : List Nat := (upto h).flatMap fun y => (upto w).map fun c => v.sampleAt s.mem (base + off) c y
  (read 4096 h, if v.colour then read v.chromaOff (cdiv h 2) else [])

/-- Sample (x, y) of a decoded picture in its standard's depth. -/
def Planes.get (p : Planes) (b : Blob) (x y : Nat) : Nat :=
  let i := p.width * y + x
  if p.ten then b.le (2 * i) 2 % 1024 else (b.at i).toNat
/-- The same in the depth of the session's buffers: an 8-bit stream in a 10-bit buffer is shifted (R297). -/
def VidCfg.shifted (v : VidCfg) (p : Planes) (n : Nat) : Nat := if v.wide && !p.ten then 4 * n else n

/-- Does unit `u` of a picture lie in a run that an error took? -/
def unitHit (bad : List (Nat × Nat)) (u : Nat) : Bool := bad.any fun r => decide (r.1 ≤ u) && decide (u < r.1 + r.2)

/-- Units concealed, and units in all, of a picture (R294, R297). -/
def PicResult.units (r : PicResult) : Nat := cdiv r.planes.width (max 1 r.unit) * cdiv r.planes.height (max 1 r.unit)
def PicResult.concealed (r : PicResult) : Nat := ((upto (PicResult.units r)).filter (unitHit r.bad)).length

/-- The most recent decoded picture of the layer in the session's buffers, buffer `i` apart (R297). -/
def Sess.substitute (x : Sess) (i layer : Nat) : Option Nat :=
  let done := (upto x.cfg.buffers).filter fun j =>
    let b := x.bufs.get j
    j != i && decide (0 < b.markOrder) && b.pic.layer == layer
  (sortBy (fun j => (x.bufs.get j).markOrder) done).getLast?

/-- Write a decoded picture into buffer `i`: concealed units take the substitute's samples or mid-grey, a monochrome
stream mid-grey chroma, within the planes (R284, R296, R297). -/
def State.putPicture (s : State) (k i : Nat) (r : PicResult) : State :=
  let x := s.sess k
  let v := x.cfg
  let p := r.planes
  let side := max 1 r.unit
  let from_ := x.substitute i r.layer
  let old (off cx y : Nat) : Nat := match from_ with
    | some j => v.sampleAt s.mem (ctxKey x.ctx (s.bufVa k j) + off) cx y
    | none => v.grey
  let hit (cx y : Nat) : Bool := unitHit r.bad (y / side * cdiv p.width side + cx / side)
  s.putPlanes k i p.width p.height
    (fun cx y => if hit cx y then old 4096 cx y else v.shifted p (Planes.get p p.luma cx y))
    (fun cx y => if p.mono then v.grey else if hit cx (2 * y) then old v.chromaOff cx y else v.shifted p (Planes.get p p.chroma cx y))

end Sys2Proof.Machine
end

