-- ==== Sys2Proof/Machine/Video.lean ====
section
/-!
DEFINITION. Video sessions: the commands VID_OPEN, VID_SUBMIT, VID_CLOSE and VID_RECONFIG, and the codec's pictures, slices
and watchdogs (11).
-/
namespace Sys2Proof.Machine

def vidBase : Nat := 0xB00000

/-! ### VID_OPEN and VID_RECONFIG (R281, R282) -/

/-- The settings of bytes 17-57. -/
def vidCfgOf (c : Cmd) (kind : Nat) : VidCfg :=
  { kind
    prio := (c.byte 17).toNat
    buffers := c.le 18 2
    width := c.le 20 2
    height := c.le 22 2
    fmt := (c.byte 24).toNat
    hashCheck := (c.byte 25).getLsbD 0
    ctu64 := (c.byte 25).getLsbD 1
    opPoint := (c.byte 26).toNat
    row := (c.byte 27) == 1
    qpI := (c.byte 28).toNat
    qpP := (c.byte 29).toNat
    qpMin := (c.byte 30).toNat
    qpMax := (c.byte 31).toNat
    capBits := c.le 32 4
    bitrate := c.le 36 4
    interval := c.le 40 4
    idrPeriod := c.le 44 2
    iRatio := (c.byte 46).toNat
    sliceRows := (c.byte 47).toNat
    gmvLine := if (c.byte 48).toNat < 16 then some (Fin.ofNat 16 (c.byte 48).toNat) else none
    dx := signedOf 16 (c.le 50 2)
    dy := signedOf 16 (c.le 52 2)
    ppm := c.le 54 4 }

/-- Is a direction within 1 % of a unit vector, or zero (R281)? -/
def directionOk (dx dy : Int) : Bool :=
  (dx == 0 && dy == 0) || decide (100 * (dx * dx + dy * dy - 2 ^ 28).natAbs ≤ 2 ^ 28)

/-- Rules of the fields of an encode session that VID_RECONFIG may change. -/
def encRules (c : Cmd) (v : VidCfg) : List (Bool × Nat) :=
  [(decide (1 < (c.byte 27).toNat), 27), (decide (51 < v.qpI), 28), (decide (51 < v.qpP), 29), (decide (v.qpMax < v.qpMin), 30),
   (decide (51 < v.qpMax), 31), (decide (v.capBits < 8192 + 16 * (v.cols * v.rows) + 1024 * v.slices), 32),
   (v.row && v.bitrate == 0, 36), (decide (v.interval < 1000) || decide (1000000 < v.interval), 40),
   (v.row && decide (v.iRatio < 0x10), 46), (decide (15 < (c.byte 48).toNat) && (c.byte 48).toNat != 0xFF, 48),
   (!directionOk v.dx v.dy, 50), (v.gmvLine.isSome && v.ppm == 0, 54)]

/-- A session number of the kind that no open session of the context's other kind has, if there is one (log 16). -/
def State.pickSession (s : State) (c : Nat) (enc : Bool) : Option (Nat × State) :=
  let free := (upto (if enc then 64 else 256)).filter fun n => !(s.sess (sessKey n enc)).opened
  let lone := free.filter fun n =>
    let o := s.sess (sessKey n (!enc))
    !(decide (n < 256) && o.opened && o.ctx == c)
  s.choose (if lone.isEmpty then free else lone)

/-- VID_OPEN. -/
def execVidOpen (c : Cmd) (s : State) : Host.Outcome State Fault Refusal :=
  .next <| s.row c 0x38 [] fun s =>
    let x := Cmd.ownCtx c
    let kind := (c.byte 16).toNat
    let enc := kind == 2
    let v := vidCfgOf c kind
    let outside (n hi : Nat) : Bool := decide (n < 64) || decide (hi < n) || (enc && n % 8 != 0)
    params s c [(16, 48), (50, 57)]
      ([(decide (2 < kind), 16), (decide (7 < v.prio), 17),
        (decide (v.buffers < (if enc then 3 else 2)) || decide (1024 < v.buffers), 18),
        (outside v.width 8192, 20), (outside v.height 4352, 22), (decide (3 < v.fmt), 24),
        (decide (3 < (c.byte 25).toNat), 25), (kind == 1 && decide (31 < v.opPoint), 26)] ++
       (if enc then encRules c v else [])) <|
    let held := ((s.sessionsOf x).map fun k => (s.sess k).cfg.buffers).foldl (· + ·) 0
    let pages := cdiv (v.buffers * v.bufBytes) pageBytes
    if 1024 < held + v.buffers then .reply s (.of stNoRes)
    else match s.pickSession x enc with
    | none => .reply s (.of stNoRes)
    | some (n, s) =>
      if s.framesFree < pages then .reply s (.of stNoRes)
      else match s.pickPages x pages with
      | none => .reply s (.of stNoRes)
      | some (gap, s) =>
        let k := sessKey n enc
        let s := s.mapRange x (gap * pageBytes) (pages * pageBytes) true false
        let s := (s.updVid fun u => { u with opens := u.opens + 1 }).updSess k fun _ =>
          { opened := true, uid := s.vid.opens + 1, ctx := x, cfg := v, base := gap * pageBytes, pages }
        -- two buffers of an encode session are held for reconstruction
        let s := if enc then foldS [v.buffers - 2, v.buffers - 1] (fun s i => s.updBuf k i fun b => { b with mark := some .recon }) s
          else s
        .reply s (.ok [BitVec.ofNat 8 n])

/-- The open session of context `x` that a command's byte names where it does not say of which kind: the decode session
if there is one (log 16). -/
def State.namedSess (s : State) (x n : Nat) : Option Nat :=
  let d := s.sess (sessKey n false)
  let e := s.sess (sessKey n true)
  if d.opened && d.ctx == x then some (sessKey n false)
  else if decide (n < 64) && e.opened && e.ctx == x then some (sessKey n true)
  else none

/-- VID_RECONFIG (R282). -/
def execVidReconfig (c : Cmd) (s : State) : Host.Outcome State Fault Refusal :=
  .next <| s.row c 0x3B [] fun s =>
    let x := Cmd.ownCtx c
    match s.namedSess x (c.byte 16).toNat with
    | none => .reply s (.of stNotBound)
    | some k =>
      let o := (s.sess k).cfg
      let v := vidCfgOf c o.kind
      let enc := decide (256 ≤ k)
      let fixed : List (Bool × Nat) :=
        [(v.buffers != o.buffers, 18), (v.width != o.width, 20), (v.height != o.height, 22), (v.fmt != o.fmt, 24)]
      let rules := if enc then
          fixed ++ [(v.hashCheck != o.hashCheck || v.ctu64 != o.ctu64 || decide (3 < (c.byte 25).toNat), 25),
            (v.opPoint != o.opPoint, 26)] ++ encRules c v
        else
          let w := { v with prio := o.prio, hashCheck := o.hashCheck, ctu64 := o.ctu64 }
          fixed ++ [(decide (3 < (c.byte 25).toNat), 25), (v.opPoint != o.opPoint, 26),
            (w != { o with buffers := w.buffers, width := w.width, height := w.height, fmt := w.fmt, opPoint := w.opPoint }, 27)]
      params s c [(16, 48), (50, 57)]
        ((decide (7 < v.prio), 17) :: rules) <|
      .reply (s.updSess k fun y => { y with cfg := v }) (.of stOk)

/-- VID_CLOSE (R283). -/
def execVidClose (c : Cmd) (s : State) : Host.Outcome State Fault Refusal :=
  .next <| s.row c 0x3A [] fun s =>
    let x := Cmd.ownCtx c
    let n := (c.byte 16).toNat
    params s c [(16, 16)] [] <|
    match s.namedSess x n with
    | none => .reply s (.of stNotBound)
    | some k =>
      if (s.sess k).st = .closing then .later s (.vidClose n (decide (256 ≤ k)))
      else
        let s := s.closeSess k
        if (s.sess k).opened then .later s (.vidClose n (decide (256 ≤ k))) else .reply s (.of stOk)

/-! ### VID_SUBMIT (R288-R292) -/

/-- Is peg `n` one the function owns, ARMED or WAITING? -/
def State.pegUsable (s : State) (f n : Nat) : Bool :=
  let p := s.pegAt n
  p.armedBy == some f && (p.st == .armed || p.st == .waiting)

/-- Does the packet bind a peg? -/
def Cmd.usesPeg (c : Cmd) : Bool := (c.byte 18).getLsbD 0

/-- Rules that every submission shares. -/
def subRules (s : State) (c : Cmd) (maxKind : Nat) : List (Bool × Nat) :=
  [(decide (maxKind < (c.byte 17).toNat), 17), (decide (31 < (c.byte 18).toNat), 18),
   (Cmd.usesPeg c && !s.pegUsable c.fn.val (c.byte 19).toNat, 19),
   (((c.byte 18).getLsbD 1 || (c.byte 18).getLsbD 2) && decide (3 < (c.byte 20).toNat), 20)]

/-- Bytes R288 lists. -/
def subBytes : List (Nat × Nat) := [(16, 20), (24, 40), (44, 55)]

/-- The capture a submission names (R292): none without one, and whether it is stale already. -/
def State.captureOf (s : State) (c : Cmd) : Option (Nat × Word) × Bool :=
  let m := (c.byte 20).toNat
  if (c.byte 18).getLsbD 1 then (some (m, BitVec.ofNat 32 (c.le 24 4)), false)
  else if (c.byte 18).getLsbD 2 then
    match (s.peg.trigs.get m).history with
    | h :: _ => (some (m, h.seq), false)
    | [] => (none, true)
  else (none, false)

/-- Accept a submission to session `k` (R287, R288, R291). -/
def State.accept (s : State) (c : Cmd) (k : Nat) (q : VidSub) : State :=
  let o := s.vid.subSeq
  let (cap, stale) := s.captureOf c
  let peg := if Cmd.usesPeg c then some (c.byte 19).toNat else none
  let q := { q with tag := c.objId, peg, capture := cap, captureStale := stale, order := o, cfg := (s.sess k).cfg }
  let s := (s.updVid fun v => { v with subSeq := o + 1 }).updSess k fun x => { x with subs := x.subs ++ [q] }
  let s := match peg with
    | some n => s.bindPeg n (.picture (k % 256) (decide (256 ≤ k)) o)
    | none => s
  s.consAdd (cid 0x3A (s.sess k).ctx) 1

/-- Bytes of a FRAME record for buffer `i` of session `k` (R294). -/
def State.frameBytes (s : State) (k i : Nat) : List Byte :=
  let b := (s.sess k).bufs.get i
  let p := b.pic
  let (v, m, q, pos, t) := match b.capture with
    | some (m, q, pos, t) => (1, m, q.toNat, pos.toNat, t.toNat)
    | none => (0, 0, 0, 0, 0)
  recHead 0x01 k b.tag b.flags (leBytes 4 (handleOf k i)) ++ leBytes 2 p.width ++ leBytes 2 p.height ++ leBytes 2 p.cropX ++
  leBytes 2 p.cropY ++ leBytes 4 (p.order % 2 ^ 32).toNat ++ leBytes 1 (s.sess k).cfg.fmt ++ leBytes 1 (b2n (!p.irap)) ++
  leBytes 2 (min 0xFFFF (PicResult.concealed p)) ++ leBytes 1 (128 * v + m) ++ leBytes 3 q ++ leBytes 6 pos ++ [0, 0] ++ leBytes 8 t

/-- Output buffer `i`: it no longer waits, the host takes a reference, its FRAME record is formed (R285, R294). -/
def State.outputBuf (s : State) (c k i : Nat) : State :=
  let s := s.updBuf k i fun b => { b with output := false, hostRefs := b.hostRefs + 1 }
  let b := (s.sess k).bufs.get i
  s.vidRecord c k { kind := 0x01, session := k % 256, enc := false, tag := b.tag, flags := b.flags, bytes := s.frameBytes k i
                    dst := some (ctxKey c (s.bufVa k i)) }

/-- EOS submissions at the head of a session: every waiting picture is output in picture order, then AU_DONE (R289). -/
def serveEos (c k : Nat) : Nat → State → State
  | 0, s => s
  | n + 1, s =>
    match (s.sess k).subs with
    | q :: _ =>
      if q.kind = 4 && !s.sessPiped k then
        let x := s.sess k
        let due := sortBy (fun i => ((x.bufs.get i).pic.order + 2 ^ 40).toNat) ((upto x.cfg.buffers).filter fun i => (x.bufs.get i).output)
        serveEos c k n ((foldS due (fun s i => s.outputBuf c k i) s).auDone c k q stOk)
      else s
    | [] => s

/-- The session of a submission: open, of the context, of the kind, not closing. -/
def State.subSess (s : State) (c : Cmd) (enc : Bool) : Option Nat :=
  let k := sessKey (c.byte 16).toNat enc
  let x := s.sess k
  if (!enc || decide ((c.byte 16).toNat < 64)) && x.opened && x.ctx == Cmd.ownCtx c && x.st != .closing then some k else none

/-- Submissions a session queues: the one in progress is none of them (R288, R308). -/
def State.queued (s : State) (k : Nat) : Nat := (s.sess k).subs.length - b2n (s.sessPiped k)

/-- VID_SUBMIT of one kind. -/
def subKind (n : Nat) (c : Cmd) : Bool := (c.byte 17).toNat == n

/-- DECODE_AU (R290). -/
def execDecodeAu (c : Cmd) (s : State) : Host.Outcome State Fault Refusal :=
  .next <| s.subRow c 0x39 (fun c => subKind 0 c || decide (4 < (c.byte 17).toNat)) [] fun s =>
    params s c subBytes ((decide (2 ^ 25 < c.le 28 4), 28) :: subRules s c 4) <|
    match s.subSess c false with
    | none => .reply s (.of stNotBound)
    | some k =>
      if 16 ≤ s.queued k then .reply s (.of stBusy)
      else .reply (s.accept c k { kind := 0, addr := BitVec.ofNat 64 (c.le 32 8), len := c.le 28 4 }) (.of stOk)

/-- An ROI entry within the rules of R302. -/
def roiOk (v : VidCfg) (e : List Byte) : Bool :=
  let l := lb e 0 2
  let t := lb e 2 2
  let w := lb e 4 2
  let h := lb e 6 2
  let mode := lb e 8 1
  let val := lb e 9 1
  decide (1 ≤ w) && decide (1 ≤ h) && decide (l + w ≤ v.cols) && decide (t + h ≤ v.rows) &&
  ((mode == 0 && decide (-15 ≤ signedOf 8 val) && decide (signedOf 8 val ≤ 15)) || (mode == 1 && decide (val ≤ 51)))

/-- ENCODE. -/
def execEncode (c : Cmd) (s : State) : Host.Outcome State Fault Refusal :=
  .next <| s.subRow c 0x39 (subKind 1) [] fun s =>
    match s.subSess c true with
    | none => params s c subBytes (subRules s c 4) <| .reply s (.of stNotBound)
    | some k =>
      let x := Cmd.ownCtx c
      let v := (s.sess k).cfg
      let n := (c.byte 40).toNat
      let va := c.le 48 8
      let roi := (upto (min n 16)).map fun i => s.mem.bytesAt (ctxKey x (va + 16 * i)) 16
      params s c subBytes ([(decide (8 * c.le 28 4 < v.capBits), 28), (decide (16 < n), 40),
        (decide (1 ≤ n) && decide (n ≤ 16) && (!s.vaOk x va (16 * n) false || !roi.all (roiOk v)), 48)] ++ subRules s c 4) <|
      let src := c.le 44 4
      if !s.handleOk x src then .reply s (.of stNotBound)
      else if 16 ≤ s.queued k then .reply s (.of stBusy)
      else .reply (s.accept c k
        { kind := 1, addr := BitVec.ofNat 64 (c.le 32 8), len := c.le 28 4, source := src, roi
          forceIdr := (c.byte 18).getLsbD 3, releaseSource := (c.byte 18).getLsbD 4 }) (.of stOk)

/-- Drop one host reference from each handle; none if one has no reference left (R289). -/
def dropHandles (c : Nat) : List Nat → State → Option State
  | [], s => some s
  | h :: hs, s =>
    if s.handleOk c h && decide (0 < ((s.sess (handleSess h)).bufs.get (handleBuf h)).hostRefs) then
      dropHandles c hs (s.updBuf (handleSess h) (handleBuf h) fun b => { b with hostRefs := b.hostRefs - 1 })
    else none

/-- Does a handle name a buffer of another context's session (R280)? -/
def State.foreign (s : State) (c h : Nat) : Bool :=
  let x := s.sess (handleSess h)
  x.opened && x.ctx != c && s.handleOk x.ctx h

/-- Sessions whose buffers were freed no longer wait for one. -/
def State.bufFreed (s : State) (k : Nat) : State :=
  s.updSess k fun x => { x with st := if x.st = .waitBuffer then .idle else x.st }

/-- RELEASE (R289): the handle list lies in host memory, or in the context's.  A handle that is not bound, or has no host
reference, is BAD_PARAM; one of another context's buffers, or a session the context has not open, is NOT_BOUND (R280). -/
def execRelease (c : Cmd) (hostList : List (BitVec 32)) (s : State) : Host.Outcome State Fault Refusal :=
  .next <| s.subRow c 0x39 (subKind 2) [] fun s =>
    let x := Cmd.ownCtx c
    let n := c.le 28 4
    let addr := c.le 32 8
    let va := addr % 2 ^ 63
    let inCtx := addr.testBit 63
    params s c subBytes ([(decide (n < 1) || decide (64 < n), 28), (inCtx && decide (n ≤ 64) && !s.vaOk x va (4 * n) false, 32)] ++
      subRules s c 4) <|
    let hs := if inCtx then (upto n).map fun i => s.ctxLe x (va + 4 * i) 4
      else (upto n).map fun i => (hostList.getD i 0).toNat
    match dropHandles x (hs.filter fun h => !s.foreign x h) s with
    | none => .reply s (.bad 32)
    | some t =>
      if (s.namedSess x (c.byte 16).toNat).isNone || hs.any (s.foreign x) then .reply s (.of stNotBound)
      else .reply (foldS hs (fun s h => s.bufFreed (handleSess h)) t) (.of stOk)

/-- ACQUIRE (R289). -/
def execAcquire (c : Cmd) (s : State) : Host.Outcome State Fault Refusal :=
  .next <| s.subRow c 0x39 (subKind 3) [] fun s =>
    params s c subBytes (subRules s c 4) <|
    match s.subSess c true with
    | none => .reply s (.of stNotBound)
    | some k =>
      let x := s.sess k
      match s.choose ((upto x.cfg.buffers).filter fun i => !(x.bufs.get i).held) with
      | none => .reply s (.of stNoRes)
      | some (i, s) =>
        let s := s.updBuf k i fun b => { b with hostRefs := 1 }
        .reply s (.ok (leBytes 4 (handleOf k i) ++ leBytes 4 0 ++ leBytes 8 (s.bufVa k i)))

/-- EOS (R289). -/
def execEos (c : Cmd) (s : State) : Host.Outcome State Fault Refusal :=
  .next <| s.subRow c 0x39 (subKind 4) [] fun s =>
    params s c subBytes (subRules s c 4) <|
    match s.subSess c false with
    | none => .reply s (.of stNotBound)
    | some k =>
      if 16 ≤ s.queued k then .reply s (.of stBusy)
      else
        let s := s.accept c k { kind := 4 }
        .reply (serveEos (s.sess k).ctx k 16 s) (.of stOk)

/-! ### Pictures start (R286, R291, R299, R304) -/

/-- Do pictures run in this module state (R300; 01, R23)? -/
def State.codecOn (s : State) : Bool :=
  s.board.powered && decide (6 ≤ s.glb.stage) && (match s.glb.state with
    | .ready | .quiesced | .draining | .suspect => true
    | _ => false)

/-- Codec clock in MHz (18, R512). -/
def State.codecMhz (s : State) : Nat := 100 + 25 * s.clk.codecPll

/-- Watchdog limit in ns of a picture of `samples` luma samples and `bins` entropy-coded bins (R299): 4 times the nominal
time at 1 luma sample a cycle in encode, and in decode at 2, or at 4 bins a cycle where that takes longer (R277). -/
def State.pictureLimit (s : State) (samples bins : Nat) (enc : Bool) : Nat :=
  let halfCycles := if enc then 2 * samples else max samples (bins / 2)
  max msNs (min (100 * msNs) (4 * halfCycles * 1000 / (2 * s.codecMhz)))

/-- Order of a session's next picture (R291): an encode session's priority is the one its submission was accepted under
(R282). -/
def State.subKey (s : State) (k : Nat) (q : VidSub) : Nat :=
  keyOf (if 256 ≤ k then q.cfg.prio else (s.sess k).cfg.prio) (s.eta q.peg (.picture (k % 256) (decide (256 ≤ k)) q.order)) q.order

/-- The submission a session could start a picture of now; a closing one only repeats a picture that was abandoned
(R283, R300). -/
def State.pictureOf (s : State) (k : Nat) : Option VidSub :=
  let x := s.sess k
  let ctxOk := match (s.ctx x.ctx).st with
    | .faulted | .free | .opening => false
    | _ => true
  if x.opened && (x.st != .closing || x.restart) && ctxOk && !s.sessPiped k && !s.sessKept x.ctx k then
    match x.subs with
    | q :: _ => if q.kind = 4 then none else some q
    | [] => none
  else none

/-- Buffers of a session that are free. -/
def Sess.freeBufs (x : Sess) : List Nat := (upto x.cfg.buffers).filter fun i => !(x.bufs.get i).held

/-- R286: while there is no free buffer, and marks and output waits alone hold all but one, the oldest short-term mark
goes; at most `n` of them. -/
def evict (k : Nat) : Nat → State → State
  | 0, s => s
  | n + 1, s =>
    let x := s.sess k
    let alone := (upto x.cfg.buffers).filter fun i =>
      let b := x.bufs.get i
      (b.mark.isSome || b.output) && b.hostRefs + b.jobRefs == 0 && !b.piped
    let short := (upto x.cfg.buffers).filter fun i => (x.bufs.get i).mark == some .short
    if x.freeBufs.isEmpty && decide (x.cfg.buffers ≤ alone.length + 1) then
      match sortBy (fun i => (x.bufs.get i).markOrder) short with
      | i :: _ => evict k n ((s.updBuf k i fun b => { b with mark := none }).bump (vidBase + 0x1018 + 0x40 * x.ctx))
      | [] => s
    else s

/-- The global motion vector in quarter pixels (R304). -/
def State.gmv (s : State) (v : VidCfg) (intra : Bool) (dtNs : Nat) : Int × Int :=
  match v.gmvLine with
  | none => (0, 0)
  | some l =>
    let x := s.line l.val
    if x.stopped || intra then (0, 0)
    else
      let g : Int := x.vel.toInt * x.scale.toNat * v.ppm * dtNs
      let den := 2 ^ 48 * 1000000 * 2 ^ 14
      (max (-8192) (min 8192 (roundDiv (4 * g * v.dx) den)), max (-4096) (min 4096 (roundDiv (4 * g * v.dy) den)))

/-- The settings of an encode session as numbers. -/
def VidCfg.numbers (v : VidCfg) : List Nat :=
  [v.fmt, b2n v.ctu64, b2n v.row, v.qpI, v.qpP, v.qpMin, v.qpMax, v.capBits, v.bitrate, v.interval, v.idrPeriod, v.iRatio, v.sliceRows]

/-- Buffer of an encode session that takes the reconstruction of its picture `n`: the last two in turn (R281). -/
def VidCfg.reconBuf (v : VidCfg) (n : Nat) : Nat := v.buffers - 1 - n % 2

/-- Start the picture of submission `q` of encode session `k`. -/
def State.startEncode (s : State) (k : Nat) (q : VidSub) : State :=
  let x := s.sess k
  let c := x.ctx
  if !s.handleOk c q.source then (s.abortSub c k q).trySessClose k
  else
    let v := q.cfg
    let due := x.encoded = 0 || (decide (0 < v.idrPeriod) && decide (v.idrPeriod ≤ x.sinceIdr))
    let forced := (q.forceIdr || x.forceIdr) && !due
    let intra := due || forced
    let cap := ((s.sess (handleSess q.source)).bufs.get (handleBuf q.source)).capture.map fun r => r.2.2.2
    let dt := match cap, x.prevCapture with
      | some a, some b => (a - b).toNat
      | _, _ => v.interval * 1000
    let (gx, gy) := s.gmv v intra dt
    let src := s.planesOf (handleSess q.source) (handleBuf q.source) v.width v.height
    let ref := if intra then ([], []) else s.planesOf k (v.reconBuf (x.encoded + 1)) v.width v.height
    let input : EncIn :=
      { width := v.width, height := v.height, ctu := v.ctu, settings := v.numbers, number := x.encoded, intra
        gmvX := gx, gmvY := gy, luma := src.1, chroma := src.2, refLuma := ref.1, refChroma := ref.2 }
    let s := s.updBuf (handleSess q.source) (handleBuf q.source) fun b => { b with piped := true }
    let start := if intra then x.nextQpI.getD v.qpI else x.nextQpP.getD v.qpP
    let start := if v.row then start else (if intra then v.qpI else v.qpP)
    let s := s.updSess k fun y =>
      { y with st := if y.st = .closing then .closing else .running, prevCapture := cap, forceIdr := false, restart := false }
    let pipe : Pipe :=
      { busy := true, session := k % 256, enc := true, ctx := c, phase := 1, since := s.time
        limit := s.pictureLimit (v.width * v.height) 0 true, intra, forcedIdr := forced, gmvX := gx, gmvY := gy
        startQp := start, coded := encodePicture v start x.prevCus q.roi input }
    s.updVid fun u => { u with pipes := u.pipes.set 2 pipe }

/-- Start a picture of decode session `k` on pipe `p`, or wait for a buffer. -/
def State.startDecode (s : State) (p k samples bins : Nat) : State :=
  let s := evict k (s.sess k).cfg.buffers s
  match s.choose (s.sess k).freeBufs with
  | none => s.updSess k fun x => { x with st := if x.st = .closing then .closing else .waitBuffer }
  | some (i, s) =>
    let x := s.sess k
    let s := s.updBuf k i fun b => { b with piped := true }
    let s := s.updSess k fun y => { y with st := if y.st = .closing then .closing else .running, restart := false }
    let pipe : Pipe :=
      { busy := true, session := k, ctx := x.ctx, phase := 1, since := s.time, limit := s.pictureLimit samples bins false
        target := i }
    s.updVid fun u => { u with pipes := u.pipes.set p pipe }

/-- Take the first session that has a picture and, in decode, a buffer. -/
def startFirst (p samples bins : Nat) : List (Nat × VidSub) → State → State
  | [], s => s
  | (k, q) :: rest, s =>
    if p = 2 then s.startEncode k q
    else
      let s := s.startDecode p k samples bins
      if (s.vid.pipes.get p).busy then s else startFirst p samples bins rest s

/-- PICTURE_START: an idle pipe takes the first submission in order that can start; samples and bins are what its headers
and data say of it (R286, R291, R299; log 19). -/
def execPictureStart (pic : PictureTaken) (s : State) : Host.Outcome State Fault Refusal :=
  let p := pic.pipe.val
  if !s.codecOn || (s.vid.pipes.get p).busy then .next s
  else
    let ks := (s.vid.sess.map Prod.fst).filter fun k => decide (256 ≤ k) == (p == 2) && decide (k < 320)
    let ready := ks.filterMap fun k => (s.pictureOf k).map fun q => (k, q)
    .next (startFirst p pic.samples pic.bins (sortBy (fun e => s.subKey e.1 e.2) ready) s)

/-! ### Decoded pictures (R294-R298) -/

/-- A capture's values, if it is still in its trigger's history (R292). -/
def State.resolveCapture (s : State) (m : Nat) (q : Word) : Option (Nat × Word × Pos × BitVec 64) :=
  ((s.peg.trigs.get m).history.find? fun h => h.seq == q).map fun h => (m, h.seq, h.pos, h.time)

/-- Sticky flags of VID_FLAGS that a picture's flags set (R309). -/
def vidSticky (f : Nat) : Byte :=
  BitVec.ofNat 8 (b2n (f.testBit 0) + 2 * b2n (f.testBit 1 || f.testBit 2) + 4 * b2n (f.testBit 4) + 8 * b2n (f.testBit 9) +
    16 * b2n (f.testBit 5) + 32 * b2n (f.testBit 12) + 64 * b2n (f.testBit 14))

/-- Does a stream's sequence stay within its session (R276, R297)?  A colour stream in a Y8 or Y16 session leaves its chroma
out (DEDUCED, log 140). -/
def VidCfg.fits (v : VidCfg) (r : PicResult) : Bool :=
  !r.beyond && decide (r.seqWidth ≤ v.width) && decide (r.seqHeight ≤ v.height) && decide (r.planes.width ≤ v.width) &&
  decide (r.planes.height ≤ v.height) && (v.wide || !r.planes.ten)

/-- Does a picture predict from one CONCEALED or DERIVED since the last IRAP (R295)? -/
def Sess.derived (x : Sess) (r : PicResult) : Bool :=
  !r.irap && r.refs.any fun i =>
    let b := x.bufs.get i
    decide (x.irapSeq ≤ b.markOrder) && decide (0 < b.markOrder) && (b.flags.testBit 0 || b.flags.testBit 3)

/-- The flags of R295 that a decoded picture sets, the watchdog's `extra` among them. -/
def Sess.picFlags (x : Sess) (i : Nat) (r : PicResult) (extra : Nat) : Nat :=
  let miss := decide (0 < r.missingRefs)
  let sub := (x.substitute i r.layer).isSome
  extra ||| b2n (miss || !r.bad.isEmpty || r.poisonIn) + 2 * b2n (miss && sub) + 4 * b2n (miss && !sub) + 8 * b2n (x.derived r) +
    0x20 * b2n (x.cfg.hashCheck && x.cfg.kind == 0 && r.hashBad) + 0x40 * b2n (x.cfg.kind == 1 && r.grain) +
    0x1000 * b2n r.poisonIn + 0x4000 * b2n (!x.cfg.fits r)

/-- A decode pipe ends its picture: the buffer, its marks and the buffers output, their FRAME records, and the AU_DONE of
a finished submission. -/
def State.decodeEnds (s : State) (p : Nat) (res : PicResult) (extra : Nat) : State :=
  let pipe := s.vid.pipes.get p
  let k := sessKey pipe.session false
  let x := s.sess k
  let c := pipe.ctx
  match x.subs.head? with
  | none => s.updVid fun v => { v with pipes := v.pipes.set p {} }
  | some q =>
    let own (i : Nat) : Nat := if i = res.buffer then pipe.target else i
    -- a poisoned word of a bitstream in context memory ends its slice (R298)
    let res := { res with poisonIn := res.poisonIn || (q.addr.getLsbD 63 && s.mem.poisonedRun (ctxKey c (q.addr.toNat % 2 ^ 63)) q.len) }
    let s := s.updVid fun v => { v with pipes := v.pipes.set p {} }
    let s := s.updBuf k pipe.target fun b => { b with piped := false }
    let unsupported := !x.cfg.fits res
    let drop := !res.decoded || unsupported || (x.discarding && !res.irap)
    let cap := q.capture.bind fun m => s.resolveCapture m.1 m.2
    let stale := q.captureStale || (q.capture.isSome && cap.isNone)
    let f := x.picFlags pipe.target res extra ||| (if q.late then 0x80 else 0) ||| (if stale then 0x100 else 0)
    let f := if drop then (f &&& 0x5180) ||| 0x2000 else f
    let s := s.updVid fun v => { v with flags := v.flags.upd c (· ||| vidSticky f) }
    let s := if drop then s.updSess k fun y => { y with discarding := y.discarding || unsupported }
      else
        let s := s.bumpN (vidBase + 0x1020 + 0x40 * c) res.missingRefs
        let s := if res.bad.isEmpty then s else s.bump (vidBase + 0x1018 + 0x40 * c)
        let s := s.bump (vidBase + 0x1010 + 0x40 * c)
        let n := x.markSeq + 1
        let s := s.putPicture k pipe.target res
        let s := s.updSess k fun y => { y with discarding := false, markSeq := n, irapSeq := if res.irap then n else y.irapSeq }
        let s := s.updBuf k pipe.target fun b =>
          { b with output := res.shown, pic := { res with planes := {} }, tag := q.tag, flags := f &&& 0x1FFF, capture := cap, markOrder := n }
        let ms := res.marks.map fun m => (own m.1, m.2)
        let s := foldS (upto x.cfg.buffers) (fun s i =>
          s.updBuf k i fun b => { b with mark := (ms.find? fun m => m.1 == i).map Prod.snd }) s
        foldS (res.outputs.map own) (fun s i =>
          if ((s.sess k).bufs.get i).output then s.outputBuf c k i else s) s
    let s := s.updSess k fun y =>
      { y with
        st := if y.st = .running then .idle else y.st
        subs := match y.subs with
          | h :: t => { h with pictures := h.pictures + b2n (!drop), flags := h.flags ||| (f &&& 0x717F) } :: t
          | [] => [] }
    let s := s.settleSess c k
    let closing := x.st == .closing
    let s := if res.lastOfAu || closing then
        match (s.sess k).subs.head? with
        | some q => s.auDone c k q (if res.lastOfAu then stOk else stAborted)
        | none => s
      else s
    -- the references of closed sessions do not come back
    let s := if closing then
        foldS (upto x.cfg.buffers) (fun s i =>
          s.updBuf k i fun b => { b with mark := none, output := false, hostRefs := 0 }) s
      else serveEos c k 16 s
    s.trySessClose k

/-! ### Encoded pictures (R301-R306) -/

/-- SLICE_DONE (R306): the next slice's bytes go to the output behind the slices before it, nothing beyond its length, and
its SLICE record is formed. -/
def State.sliceEnds (s : State) : State :=
  let pipe := s.vid.pipes.get 2
  let k := sessKey pipe.session true
  let c := pipe.ctx
  match (s.sess k).subs.head?, pipe.coded.slices[pipe.slices]? with
  | some q, some data =>
    let off := pipe.bits / 8
    let row := if q.cfg.sliceRows = 0 then 0 else q.cfg.sliceRows * pipe.slices
    let out := data.take (q.len - off)
    let va := q.addr.toNat % 2 ^ 63 + off
    let s := if q.addr.getLsbD 63 then s.putClean (ctxKey c va) out else s.hostPut (c + 1) va out
    let last := decide (pipe.slices + 1 = pipe.coded.slices.length)
    let bytes := recHead 0x03 k q.tag (if q.late then 0x80 else 0) (leBytes 4 q.source) ++ leBytes 4 (s.sess k).encoded ++
      leBytes 2 pipe.slices ++ leBytes 2 row ++ leBytes 4 off ++ leBytes 4 data.length ++ leBytes 1 (b2n last) ++
      List.replicate 19 0
    let s := s.updVid fun v => { v with pipes := v.pipes.upd 2 fun p =>
      { p with slices := p.slices + 1, bits := 8 * (off + data.length), row := row + q.cfg.sliceRows } }
    s.vidRecord c k { kind := 0x03, session := k % 256, enc := true, tag := q.tag, bytes }
  | _, _ => s

/-- The slice that the encode pipe has coded next: its bits, LAST, its bytes. -/
def Pipe.nextSlice (p : Pipe) : Option (Nat × Bool × List Byte) :=
  p.coded.slices[p.slices]?.map fun data => (8 * data.length, decide (p.slices + 1 = p.coded.slices.length), data)

/-- SLICE_DONE: the pipe's next slice; a report of another is no event of this pipe, and nothing happens. -/
def execSliceDone (bits : Nat) (last : Bool) (data : List Byte) (s : State) : Host.Outcome State Fault Refusal :=
  let pipe := s.vid.pipes.get 2
  .next (if pipe.busy && pipe.nextSlice == some (bits, last, data) then s.sliceEnds else s)

/-- The encode pipe ends its picture: ENC_DONE behind the LAST slice, counters, the next starting QP, the reconstruction, the
source.  On its watchdog only the slices written count (R299). -/
def State.encodeEnds (s : State) (wdog : Bool) : State :=
  let s := if wdog then s
    else foldS ((s.vid.pipes.get 2).coded.slices.drop (s.vid.pipes.get 2).slices) (fun s _ => s.sliceEnds) s
  let pipe := s.vid.pipes.get 2
  let k := sessKey pipe.session true
  let x := s.sess k
  let c := pipe.ctx
  let s := s.updVid fun v => { v with pipes := v.pipes.set 2 {} }
  match x.subs.head? with
  | none => s
  | some q =>
    let v := q.cfg
    let pic := pipe.coded
    let rows := if wdog then min v.rows (pipe.slices * v.sliceRows) else v.rows
    let (qs, first) := rowQps v pipe.intra pipe.startQp pic.rowBits
    let first := if first < rows then first else 0xFF
    let ctus := pic.ctus.filter fun m => decide (m.row < rows)
    let mean := roundDiv ((ctus.map (·.qp)).foldl (· + ·) 0 : Nat) (max 1 ctus.length)
    let qs := qs.take rows
    let rowMean := roundDiv (qs.foldl (· + ·) 0 : Nat) (max 1 qs.length)
    let (tn, td) := targetBits v pipe.intra
    let u := pipe.bits
    let next : Int := rowMean + (if 11 * tn < 10 * u * td then 1 else if 10 * u * td < 9 * tn then -1 else 0)
    let next := (max (v.qpMin : Int) (min (v.qpMax : Int) next)).toNat
    let skips := (ctus.filter (·.skip)).length
    let clamped := first != 0xFF || decide (0 < skips)
    let f := (if wdog then 0x10 else 0) ||| (if clamped then 0x200 else 0) ||| (if 0 < skips then 0x400 else 0) |||
      (if pipe.forcedIdr then 0x800 else 0)
    let s := s.updVid fun v => { v with flags := v.flags.upd c (· ||| vidSticky f) }
    let s := s.bump (vidBase + 0x1038 + 0x40 * c)
    let s := if clamped then s.bump (vidBase + 0x1030 + 0x40 * c) else s
    let number := x.encoded
    let s := if wdog then s
      else s.putPlanes k (x.cfg.reconBuf number) v.width v.height (Config.recon pic.input pic.ctus false)
        (Config.recon pic.input pic.ctus true)
    let s := s.updSess k fun y =>
      { y with
        st := if y.st = .running then .idle else y.st
        encoded := y.encoded + 1
        sinceIdr := if pipe.intra then 1 else y.sinceIdr + 1
        forceIdr := wdog
        prevCus := if pipe.intra then [] else pic.ctus.flatMap (·.cus)
        nextQpI := if pipe.intra && v.row then some next else y.nextQpI
        nextQpP := if !pipe.intra && v.row then some next else y.nextQpP }
    let sk := handleSess q.source
    let s := s.updBuf sk (handleBuf q.source) fun b =>
      { b with piped := false, hostRefs := if q.releaseSource then b.hostRefs - 1 else b.hostRefs }
    let s := s.encDone c k q stOk
      { number, bits := u, meanQp := mean.toNat, firstClamped := first, skip := skips, gmvX := pipe.gmvX
        gmvY := pipe.gmvY, slices := pipe.slices, flags := f }
    ((((s.settleSess c k).bufFreed sk).trySessClose sk).trySessClose k)

/-- PICTURE_DONE. -/
def execPictureDone (pipe : Fin 3) (res : PicResult) (s : State) : Host.Outcome State Fault Refusal :=
  if !(s.vid.pipes.get pipe.val).busy then .next s
  else if pipe.val = 2 then .next (s.encodeEnds false)
  else .next (s.decodeEnds pipe.val res 0)

/-- PICTURE_WATCHDOG (R299): decode conceals the rest, at least one unit; encode ends with the slices written, and an IDR
comes next. -/
def execPictureWatchdog (pipe : Fin 3) (res : PicResult) (s : State) : Host.Outcome State Fault Refusal :=
  let q := s.vid.pipes.get pipe.val
  if !q.busy || s.time < q.since + q.limit then .next s
  else
    let s := s.bump (vidBase + 0x1028 + 0x40 * q.ctx)
    if pipe.val = 2 then .next (s.encodeEnds true)
    else .next (s.decodeEnds pipe.val { res with decoded := true, bad := if res.bad.isEmpty then [(0, 1)] else res.bad } 0x11)

end Sys2Proof.Machine
end

