-- ==== Sys2Proof/Machine/Contexts.lean ====
section
/-!
DEFINITION. Contexts: open, reset, close and query, jobs, and the module state commands (15, R419-R426; 14, R378, R379;
08, R186, R189, R212).
-/
namespace Sys2Proof.Machine

/-! ### Reset and close (R378, R379, R420; 08, R212) -/

/-- Every page of the context returns to FREE in one application, every pin dropped (08, R212). -/
def State.resetPages (s : State) (c : Nat) : State :=
  let s := foldS (s.ctxPages c) (fun s e => match e.2.st with
    | .free => s
    | .reclaim => s.pageFree e.1
    | _ => ((s.consAdd (cid 0x21 c) 1).updPage e.1 fun g => { g with scrub := g.st == .poisoned }).pageFree e.1) s
  let s := foldS (s.ctx c).slots (fun s j => s.updKvp fun k =>
    { k with roots := k.roots.upd j fun r => { granule := r.granule, copy1 := r.copy1 } }) s
  s.updCtx c fun x => { x with pins := [], staged := {} }

/-- Patches and grammars of the context are unloaded (R379); loads and retirements that wait for them end. -/
def State.resetTsu (s : State) (c : Nat) : State :=
  let ps := s.tsu.patches.filter fun e => e.2.st != .free && e.2.owner == c
  let s := foldS ps (fun s e =>
    let s := s.updTsu fun t => { t with patches := t.patches.set e.1 {} }
    let s := s.completeAll (fun w => w == .patchReady e.1) fun _ => .of stCtxFault
    s.completeAll (fun w => w == .patchFree e.1) fun _ => .of stOk) s
  s.updTsu fun t => { t with grams := t.grams.filter fun e => e.2.owner ≠ c, flags := t.flags.set c 0 }

/-- CTX_RESET's effect: the log empties first (14, R396), uncommitted steps are discarded, work ends, objects are unloaded,
sessions close.  The context is READY once its sessions are freed. -/
def State.resetCtx (s : State) (c : Nat) : State :=
  let s := s.updCtx c fun x =>
    { x with st := .resetting, log := [], tbWait := [], tbEnds := [], owed := false, owedCommit := [] }
  let s := match (s.ctx c).steps with
    | r :: _ => s.discardFrom c r.k
    | [] => s.updCtx c fun x => { x with next := none }
  let s := (s.releaseArray c .idle).dropSaved c
  let s := s.updDma fun d =>
    { d with chans := d.chans.map fun e => if e.2.owned && e.2.ctx = c then (e.1, { e.2 with st := .idle, owned := false }) else e }
  let s := foldS (s.ctx c).reqs (fun s r => s.endReq c r 9 false none) s
  let s := foldS (s.ctx c).jobs (fun s j => s.endJob c j (.of stCtxFault) stAlready) s
  let s := (s.resetPages c).resetTsu c
  let s := s.updCtx c fun x =>
    { x with images := [], weights := [], reloading := none, midStep := false, leaving := false, stepStart := 0
             freedPatches := [] }
  let s := s.updActx c fun a => { a with seamFlags := 0, seamLastOp := 0xFFFFFFFF }
  let s : State := { s with atn := { s.atn with flags := s.atn.flags.set c 0, lastOp := s.atn.lastOp.set c none } }
  let s := s.updVid fun v => { v with flags := v.flags.set c 0 }
  let s := foldS (s.sessionsOf c) State.closeSess s
  -- what no session holds is unmapped; a closing session unmaps its own buffers
  let s := if (s.sessionsOf c).isEmpty then s.unmapAll c else s
  let s := (s.writeNostep c).switchGen c
  s.tryResetDone c

/-- Does the context hold any object (R420)? -/
def State.holdsAny (s : State) (c : Nat) : Bool :=
  let x := s.ctx c
  !(x.images.isEmpty && x.weights.isEmpty && x.reqs.isEmpty && x.jobs.isEmpty && x.pins.isEmpty && x.steps.isEmpty &&
    x.log.isEmpty && (s.sessionsOf c).isEmpty && s.validEntries c == 0 && s.kvpFree c == s.kvpTotal c) || x.st == .faulted || x.st == .suspended || x.st == .running

/-- A reset that a close waits for is done: the context is freed. -/
def State.closeCtx (s : State) (c : Nat) : State :=
  let s := if s.holdsAny c && (s.ctx c).st ≠ .resetting then s.resetCtx c else s
  if (s.ctx c).st = .resetting then s.updCtx c fun x => { x with closing := true }
  else (s.freeCtx c).checkDrained

/-! ### CTX_OPEN (R419) -/

/-- The `n` lowest page IDs that are assigned to no context; `owned` are the assigned ones in ascending order. -/
def lowestIds : Nat → Nat → Nat → List Nat → List Nat
  | 0, _, _, _ => []
  | _, 0, _, _ => []
  | f + 1, n + 1, p, owned =>
    match owned with
    | o :: os => if p = o then lowestIds f (n + 1) (p + 1) os else p :: lowestIds f n (p + 1) (o :: os)
    | [] => p :: lowestIds f n (p + 1) []

/-- Start of a range of `n` free translation entries, wherever firmware puts it (12, R328). -/
def State.pickRange (s : State) (n : Nat) : Option (Nat × State) :=
  s.pickPlace 262144 n <| sortBy Prod.fst <| allCtxs.filterMap fun c =>
    let x := s.ctx c
    if x.st = .free then none else some (x.mmuBase, x.mmuBase + x.mmuSize)

/-- Put runs of `n` places below `size`, one for each of the given numbers, clear of each other and of `used`: wherever
firmware puts them, or, where that leaves no room for all, each at the lowest place. -/
def pickRuns (size n : Nat) : List Nat → List (Nat × Nat) → State → Option (List (Nat × Nat) × State)
  | [], _, s => some ([], s)
  | p :: ps, used, s => match s.pickPlace size n used with
    | none => none
    | some (b, s) => (pickRuns size n ps ((b, b + n) :: used) s).map fun r => ((p, b) :: r.1, r.2)
def packRuns (size n : Nat) : List Nat → List (Nat × Nat) → Option (List (Nat × Nat))
  | [], _ => some []
  | p :: ps, used =>
    let fits := fun (b : Nat) => decide (b + n ≤ size) && used.all fun r => decide (b + n ≤ r.1) || decide (r.2 ≤ b)
    match (0 :: (sortBy id (used.map Prod.snd))).find? fits with
    | none => none
    | some b => (packRuns size n ps ((b, b + n) :: used)).map ((p, b) :: ·)
def State.placeRuns (s : State) (size n : Nat) (ps : List Nat) (used : List (Nat × Nat)) : Option (List (Nat × Nat) × State) :=
  match pickRuns size n ps used s with
  | some r => some r
  | none => (packRuns size n ps used).map fun l => (l, s)
/-- Granules of context memory for a context's pages and for its slots' lists, in frames that no other use holds (08, R189). -/
def State.placeCtx (s : State) (n : Nat) (ids slots : List Nat) : Option (List (Nat × Nat) × List (Nat × Nat) × State) :=
  let size := 128 * s.frameSpan
  match s.placeRuns size n ids s.heldRuns with
  | none => none
  | some (pages, s) =>
    (s.placeRuns size 1 slots (s.heldRuns ++ pages.map fun e => frameRun (e.2, e.2 + n))).map fun l => (pages, l.1, l.2)

/-- CTX_OPEN.  The states OPENING and READY follow each other within the command. -/
def execCtxOpen (c : Cmd) (s : State) : Host.Outcome State Fault Refusal :=
  .next <| s.row c 0x08 [] fun s =>
    let x := (c.byte 16).toNat
    let fmt := (c.byte 17).toNat
    let L := c.le 18 2
    let H := (c.byte 20).toNat
    let d := c.le 22 2
    let quota := c.le 24 4
    let reqs := c.le 28 2
    let slots := c.le 30 2
    let entries := c.le 32 4
    let log := (c.byte 36).toNat
    let base := c.le 40 8
    let out (lo hi n : Nat) : Bool := decide (n < lo) || decide (hi < n)
    params s c [(16, 20), (22, 36), (40, 47)]
      [(decide (15 < x), 16), (!(fmt ∈ [0x1, 0x2, 0x3, 0xB, 0xC]), 17), (out 1 256 L, 18), (out 1 64 H, 20), (out 1 256 d, 22),
       (decide (131072 < quota), 24), (out 1 131072 entries, 32), (out 16 24 log, 36), (base % 4096 != 0, 40)] <|
    if (s.ctx x).st ≠ .free then .reply s (.of stDenied)
    else
      let geom : Geom := { fmt, layers := L, heads := H, dim := d }
      let sum (f : Ctx → Nat) : Nat := (allCtxs.map fun i => f (s.ctx i)).foldl (· + ·) 0
      let frames := granuleFrames (quota * geom.granules) + granuleFrames slots
      if s.kvpUnassigned < quota || 16384 < sum (·.reqQuota) + reqs || 8192 < sum (·.slots.length) + slots || s.framesFree < frames then
        .reply s (.of stNoRes)
      else match s.pickRange entries with
      | none => .reply s (.of stNoRes)
      | some (lo, s) =>
        let owned := (s.kvp.dir.filter fun e => e.2.owner.isSome).map Prod.fst
        let ids := lowestIds (quota + owned.length) quota 0 owned
        let taken := allCtxs.flatMap fun i => (s.ctx i).slots
        let mine := ((upto 8192).filter fun k => !taken.contains k).take slots
        match s.placeCtx geom.granules ids mine with
        | none => .reply s (.of stNoRes)
        | some (pages, lists, s) =>
        let s := foldS pages (fun s e => s.updPage e.1 fun g =>
          { g with owner := some x, st := .free, refs := 0, base := BitVec.ofNat 24 e.2 }) s
        let s := foldS lists (fun s e => s.updKvp fun k => { k with roots := k.roots.set e.1 { granule := e.2 } }) s
        let new : Ctx :=
          { st := .ready, kvFmt := fmt, layers := L, heads := H, dim := d, granules := geom.granules, pageQuota := quota
            reqQuota := reqs, slotQuota := slots, mmuBase := lo, mmuSize := entries, slots := mine
            tbBase := BitVec.ofNat 64 base, tbLog := log }
        let s := { s with ctxs := s.ctxs.set x new }
        let s := s.updFunc (x + 1) fun w => { w with tbHead := 0, tbTail := 0 }
        let s := s.updSec fun y => { y with keys := y.keys.set x { valid := true } }
        .reply s (.of stOk)

/-- The context a CTX_RESET or CTX_CLOSE names: a VF names its own (R420). -/
def Cmd.namedCtx (c : Cmd) : Nat := if c.fn.val = 0 then (c.byte 16).toNat else c.fn.val - 1
/-- Rule of byte 16. -/
def ctxRule (c : Cmd) : Bool × Nat := (c.fn.val == 0 && decide (15 < (c.byte 16).toNat), 16)

/-- CTX_RESET. -/
def execCtxReset (c : Cmd) (s : State) : Host.Outcome State Fault Refusal :=
  .next <| s.row c 0x0A [] fun s =>
    let x := Cmd.namedCtx c
    params s c [(16, 16)] [ctxRule c] <|
    match (s.ctx x).st with
    | .free | .opening => .reply s (.of stNotBound)
    | .resetting => .later s (.ctxReset x)
    | _ =>
      let s := s.resetCtx x
      let s := (s.checkDrained).checkQuiesced
      if (s.ctx x).st = .resetting then .later s (.ctxReset x) else .reply s (.of stOk)

/-- CTX_CLOSE. -/
def execCtxClose (c : Cmd) (s : State) : Host.Outcome State Fault Refusal :=
  .next <| s.row c 0x09 [] fun s =>
    let x := Cmd.namedCtx c
    params s c [(16, 16)] [ctxRule c] <|
    if (s.ctx x).st = .free then .reply s (.of stNotBound)
    else
      let s := s.closeCtx x
      if (s.ctx x).st = .free then .reply s (.of stOk) else .later s (.ctxClose x)

/-- Code of a context state (14, R378). -/
def CtxState.code : CtxState → Nat
  | .free => 0
  | .opening => 1
  | .ready => 2
  | .running => 3
  | .suspended => 4
  | .faulted => 5
  | .resetting => 6
  | .drained => 7

/-- Images a context holds. -/
def Ctx.imageCount (x : Ctx) : Nat := x.images.length

/-- CTX_QUERY; a VF naming a context that is not its own is DENIED (R415, R420). -/
def execCtxQuery (c : Cmd) (s : State) : Host.Outcome State Fault Refusal :=
  .next <| s.row c 0x0B [] fun s =>
    let x := (c.byte 16).toNat
    if c.fn.val ≠ 0 ∧ x ≠ c.fn.val - 1 then .reply s (.of stDenied)
    else
    params s c [(16, 16)] [(decide (15 < x), 16)] <|
    let y := s.ctx x
    .reply s (.ok ([BitVec.ofNat 8 (CtxState.code y.st), BitVec.ofNat 8 y.imageCount, 0, 0] ++ leBytes 4 y.reqs.length ++
      leBytes 4 (s.kvpRef x + s.kvpPend x) ++ leBytes 4 0 ++ leBytes 8 (s.commitWord x)))

/-! ### Jobs (R422-R425) -/

/-- Binding `i` of a list at `va`: buffer, kind, handle, address. -/
def State.binding (s : State) (c va i : Nat) : Nat × Nat × Nat × Nat :=
  let a := va + 16 * i
  (s.ctxLe c a 2, s.ctxLe c (a + 2) 1, s.ctxLe c (a + 4) 4, s.ctxLe c (a + 8) 8)

/-- JOB_RUN. -/
def execJobRun (c : Cmd) (s : State) : Host.Outcome State Fault Refusal :=
  .next <| s.row c 0x30 [] fun s =>
    let x := Cmd.ownCtx c
    let h := (c.byte 16).toNat
    let usesPeg := (c.byte 19).getLsbD 0
    let dropLate := (c.byte 19).getLsbD 1
    let steps := c.le 20 4
    let va := c.le 24 8
    let n := c.le 32 2
    let img := s.image x h
    let bs := (upto (min n 64)).map (s.binding x va)
    let readable := s.vaOk x va (16 * n) false
    let badList := decide (1 ≤ n) && decide (n ≤ 64) && (!readable || bs.any fun b =>
      decide (1 < b.2.1) || (img.bind fun g => imgBuf g b.1).isNone)
    params s c [(16, 33)]
      [((img.map imgRole) != some 0, 16), (decide (7 < (c.byte 17).toNat), 17),
       (usesPeg && !s.pegUsable c.fn.val (c.byte 18).toNat, 18),
       (decide (3 < (c.byte 19).toNat) || (dropLate && !usesPeg), 19),
       (decide (steps < 1) || decide (65535 < steps), 20), (va % 16 != 0 || badList, 24), (decide (64 < n), 32),
       ((s.ctx x).jobs.any fun j => j.id == c.objId, 8)] <|
    let handles := (bs.filter fun b => b.2.1 = 0).map fun b => b.2.2.1
    if !handles.all (s.handleOk x) then .reply s (.of stNotBound)
    else if handles.any fun k => decide (255 ≤ (let b := (s.sess (handleSess k)).bufs.get (handleBuf k); b.hostRefs + b.jobRefs)) then
      .reply s (.of stNoRes)
    else
      let s := foldS handles (fun s k =>
        s.updBuf (handleSess k) (handleBuf k) fun b => { b with jobRefs := b.jobRefs + 1 }) s
      let peg := if usesPeg then some (c.byte 18).toNat else none
      let j : Job :=
        { id := c.objId, handle := h, prio := (c.byte 17).toNat, peg, dropLate, steps, buffers := handles
          bindings := bs.map fun b => (b.1, if b.2.1 = 0 then s.bufVa (handleSess b.2.2.1) (handleBuf b.2.2.1) else b.2.2.2)
          order := (s.ctx x).accepted }
      let s := s.updCtx x fun y => { y with jobs := y.jobs ++ [j], accepted := y.accepted + 1 }
      let s := match peg with
        | some p => s.bindPeg p (.job x j.id)
        | none => s
      .later s (.job x j.id)

/-- JOB_ABORT. -/
def execJobAbort (c : Cmd) (s : State) : Host.Outcome State Fault Refusal :=
  .next <| s.row c 0x31 [] fun s =>
    let x := Cmd.ownCtx c
    let id := c.objId
    params s c [] [] <|
    match (s.ctx x).jobs.find? (·.id = id) with
    | none => .reply s (.of (if (upto 8).any (fun r => (s.ring c.fn.val r).kept.any (fun k =>
        (k.bytes.getD 0 0) == 0x30 && leAt (fun i => k.bytes.getD i 0) 8 8 == id &&
        (k.comp.map Completion.status) == some stOk)) then stAlready else stNotBound))
    | some j =>
      if j.begun = j.steps then .later (s.abortJob x id false false) (.jobAbort x id)
      else
        let s := s.abortJob x id false false
        if ((s.ctx x).jobs.any fun k => k.id = id) then .later s (.jobAbort x id) else .reply s (.of stOk)

/-! ### QUIESCE, DRAIN, RESUME (R426; 01, R20) -/

/-- QUIESCE. -/
def execQuiesce (c : Cmd) (s : State) : Host.Outcome State Fault Refusal :=
  .next <| s.row c 0x58 [] fun s =>
    params s c [] [] <|
    match s.glb.state with
    | .ready =>
      let s := s.updGlb fun g => { g with state := .quiesced }
      if allCtxs.all fun i => (s.ctx i).steps.isEmpty then .reply s (.of stOk) else .later s .quiesced
    | .quiesced => .reply s (.of stAlready)
    | .suspect => .reply s (.of stSuspect)
    | _ => .reply s (.of stBusy)

/-- DRAIN. -/
def execDrain (c : Cmd) (s : State) : Host.Outcome State Fault Refusal :=
  .next <| s.row c 0x59 [] fun s =>
    let ms := c.le 20 4
    params s c [(16, 16), (20, 23)] [(decide (1 < (c.byte 16).toNat), 16)] <|
    match s.glb.state with
    | .ready | .quiesced =>
      let s := s.enterDrain .host
      let s := s.updGlb fun g => { g with drainLimit := if ms = 0 then none else some (s.time + ms * msNs) }
      let s := if (c.byte 16).getLsbD 0 then s.cancelAll else s
      let s := foldS allCtxs (fun s i => s.settleJobs i) s
      let s := s.checkDrained
      if s.glb.state = .quiesced then .reply s (.of stOk) else .later s .drained
    | .suspect => .reply s (.of stSuspect)
    | _ => .reply s (.of stBusy)

/-- RESUME. -/
def execResume (c : Cmd) (s : State) : Host.Outcome State Fault Refusal :=
  .next <| s.row c 0x5A [] fun s =>
    params s c [] [] <|
    match s.glb.state with
    | .quiesced =>
      let s := s.updGlb fun g => { g with state := .ready, drainFor := .none_ }
      let s := foldS allCtxs (fun s i => s.updCtx i fun x => { x with st := if x.st = .drained then .ready else x.st }) s
      .reply s (.of stOk)
    | .ready => .reply s (.of stAlready)
    | .suspect => .reply s (.of stSuspect)
    | _ => .reply s (.of stBusy)

/-- DRAIN_LIMIT: the limit passes; in DOZE its cancellations wait for the exit (18, R511). -/
def execDrainLimit (s : State) : Host.Outcome State Fault Refusal :=
  match s.glb.drainLimit with
  | none => .next s
  | some t =>
    if s.time < t then .next s
    else
      let s := s.updGlb fun g => { g with drainLimit := none }
      match s.glb.state with
      | .draining =>
        let s := s.cancelAll
        .next ((foldS allCtxs (fun s i => s.settleJobs i) s).checkDrained)
      | .doze | .clockHold => .next (s.updGlb fun g => { g with drainLimitPassed := true })
      | _ => .next s

end Sys2Proof.Machine
end

