-- ==== Sys2Proof/Machine/DmaOps.lean ====
section
/-!
DEFINITION. DMA channels (12, R331-R343): an instruction that completes, a halt, a wait.
-/
namespace Sys2Proof.Machine

/-- A channel past its last instruction with nothing outstanding is DONE (R339). -/
def Chan.settle (k : Chan) : Chan :=
  if k.st = .run && k.count ≤ k.index && k.out.isEmpty then { k with st := .done, index := k.count - 1, moving := false } else k

/-- The progress count, which saturates (R339, R346). -/
def Chan.advance (k : Chan) (n : Nat) : Chan := { k with progress := min 0xFFFF (k.progress + n) }

/-- The instruction in hand completes and the next is taken up (R339). -/
def Chan.next (k : Chan) (now : Nat) : Chan :=
  ({ k.advance 1 with index := k.index + 1, offset := 0, st := .run, waitKind := 0, waitObj := 0, waitCount := 0
                      moving := false, lastAt := now } : Chan).settle

/-- A halt with its latch at the instruction in hand (R341): the accesses still out complete. -/
def Chan.halt (k : Chan) (cls : ErrClass) (write : Bool) (space addr offset : Nat) : Chan :=
  { k.advance k.out.length with
      st := .halted, cls, errWrite := write, errSpace := space % 256, errIndex := k.index % 4096, errAddr := addr % 2 ^ 48
      offset, loopLatch := k.loops.map fun l => l.2.2.1, out := [], moving := false }

/-- A channel that meets its end raises DMA_EOC and interrupts the control core (R339). -/
def State.putChan (s : State) (i : Nat) (k : Chan) : State :=
  let was := (s.chan i).st
  let s := s.updChan i fun _ => k
  if k.st = .done && was != .done then s.updDma fun d => { d with eoc := d.eoc.set i true } else s

/-- The instruction in hand of channel `i` completes. -/
def State.chanNext (s : State) (i : Nat) : State := s.putChan i ((s.chan i).next s.time)
/-- A halt of channel `i`. -/
def State.chanHalt (s : State) (i : Nat) (cls : ErrClass) (write : Bool) (space addr offset : Nat) : State :=
  s.putChan i ((s.chan i).halt cls write space addr offset)

/-- A WAIT that cannot complete halts with CH_TIMEOUT (R340; 02, R47).  No access fails, so the direction, the space and
the address that R341 latches are free values `v`, `v + 1` and `v + 2` (log 119). -/
def Chan.timeout (v : Nat) (k : Chan) : Chan :=
  k.halt .chTimeout (decide (Config.value v % 2 = 1)) (Config.value (v + 1)) (Config.value (v + 2)) k.offset
def State.chanTimeout (s : State) (i : Nat) : State :=
  ({ s with fresh := s.fresh + 3 } : State).putChan i ((s.chan i).timeout s.fresh)

/-- Does the channel wait on peg `n`? -/
def Chan.waitsPeg (n : Nat) (k : Chan) : Bool := k.st == .wait && k.waitKind == 2 && k.waitObj == n
/-- Channels that wait on peg `n`. -/
def State.pegWaiters (s : State) (n : Nat) : List Nat := (s.dma.chans.filter fun e => e.2.waitsPeg n).map Prod.fst
/-- What happens to the waits on peg `n`, also those of contexts switched out inside a step (R343); `f` is told the
channel, a saved one as 272 and its place. -/
def State.overWaiters (s : State) (n : Nat) (f : Nat → Chan → Chan) : State :=
  let s := foldS (s.pegWaiters n) (fun s i => s.putChan i (f i (s.chan i))) s
  s.updDma fun d => { d with savedChans := d.savedChans.map fun e => if e.2.waitsPeg n then (e.1, f (272 + e.1) e.2) else e }
/-- Does any channel wait on peg `n`? -/
def State.pegAwaited (s : State) (n : Nat) : Bool :=
  (s.dma.chans.any fun e => e.2.waitsPeg n) || s.dma.savedChans.any fun e => e.2.waitsPeg n
/-- The peg fires: its WAITs complete (02, R47). -/
def State.pegFired (s : State) (n : Nat) : State := s.overWaiters n fun _ k => k.next s.time
/-- The peg is freed: its WAITs halt. -/
def State.pegGone (s : State) (n : Nat) : State :=
  if s.pegAwaited n then
    ({ s with fresh := s.fresh + 3 * 8192 } : State).overWaiters n fun i k => k.timeout (s.fresh + 3 * i)
  else s

end Sys2Proof.Machine
end

