-- ==== Sys2Proof/Machine/Operands.lean ====
section
/-!
DEFINITION. Number formats (03, R58-R61), exact values and their one rounding (R69, R75, R78, R79), and operands in
memory: places, rows of elements, vectors.
-/
namespace Sys2Proof.Machine

/-! ### Values -/

/-- What a bit pattern of a number format stands for: `(-1)^neg m 2^e`, an infinity, or NaN. -/
inductive Val where
  | nan
  | inf (neg : Bool)
  | fin (neg : Bool) (m : Nat) (e : Int)
  deriving DecidableEq, Repr, Inhabited

/-- A floating-point format (R58): mantissa bits, lowest unit exponent, width, magnitudes of the largest finite value, of
infinity and of the canonical NaN (R59). -/
structure FpFmt where
  t : Nat
  bias : Nat
  width : Nat
  maxBits : Nat
  infBits : Option Nat
  nanBits : Option Nat
  deriving DecidableEq, Repr, Inhabited

def fp32 : FpFmt := ⟨23, 127, 32, 0x7F7FFFFF, some 0x7F800000, some 0x7FC00000⟩
def bf16 : FpFmt := ⟨7, 127, 16, 0x7F7F, some 0x7F80, some 0x7FC0⟩
def fp16 : FpFmt := ⟨10, 15, 16, 0x7BFF, some 0x7C00, some 0x7E00⟩
def e5m2 : FpFmt := ⟨2, 15, 8, 0x7B, some 0x7C, some 0x7E⟩
def e4m3 : FpFmt := ⟨3, 7, 8, 0x7E, none, some 0x7F⟩
def e3m2 : FpFmt := ⟨2, 3, 6, 0x1F, none, none⟩
def e2m3 : FpFmt := ⟨3, 1, 6, 0x1F, none, none⟩
def e2m1 : FpFmt := ⟨1, 1, 4, 0x7, none, none⟩

/-- Exponent of the unit in the last place of the subnormals. -/
def FpFmt.qmin (f : FpFmt) : Int := 1 - (f.bias : Int) - (f.t : Int)
/-- The value of a bit pattern. -/
def FpFmt.decode (f : FpFmt) (bits : Nat) : Val :=
  let neg := bits.testBit (f.width - 1)
  let mag := bits % 2 ^ (f.width - 1)
  if f.infBits = some mag then .inf neg
  else if f.maxBits < mag then .nan
  else
    let ex := mag / 2 ^ f.t
    if ex = 0 then .fin neg mag f.qmin else .fin neg (2 ^ f.t + mag % 2 ^ f.t) (f.qmin + ex - 1)

/-! ### Rounding -/

/-- `m / 2^d` rounded to an integer, to nearest even or toward zero. -/
def shiftRound (rtz : Bool) (m d : Nat) : Nat :=
  let q := m >>> d
  let r := m % 2 ^ d
  if rtz || d = 0 then q
  else if 2 ^ (d - 1) < r || (r = 2 ^ (d - 1) && q % 2 = 1) then q + 1 else q

/-- `m 2^e` rounded to an integer. -/
def roundInt (rtz : Bool) (m : Nat) (e : Int) : Nat :=
  if 0 ≤ e then m * 2 ^ e.toNat else shiftRound rtz m (-e).toNat

/-- Magnitude bits of `m 2^e` rounded once in format `f` with its exponent range unbounded above: a result beyond
`maxBits` is an overflow (R69). -/
def FpFmt.magBits (f : FpFmt) (rtz : Bool) (m : Nat) (e : Int) : Nat :=
  if m = 0 then 0
  else
    let q := max (e + m.log2 - f.t) f.qmin
    (q - f.qmin).toNat * 2 ^ f.t + (if q ≤ e then m * 2 ^ (e - q).toNat else shiftRound rtz m (q - e).toNat)

def FpFmt.sign (f : FpFmt) (neg : Bool) : Nat := b2n neg * 2 ^ (f.width - 1)

/-- IEEE rounding of an exact value (R75): overflow to infinity under RNE, to the largest finite value under RTZ. -/
def FpFmt.ieee (f : FpFmt) (rtz : Bool) : Val → Nat
  | .nan => f.nanBits.getD 0
  | .inf neg => f.sign neg + f.infBits.getD f.maxBits
  | .fin neg m e =>
    let b := f.magBits rtz m e
    f.sign neg + (if f.maxBits < b then (if rtz then f.maxBits else f.infBits.getD f.maxBits) else b)

/-- Conversion of R78. -/
def FpFmt.convert (f : FpFmt) (rtz nonsat : Bool) : Val → Nat
  | .nan => f.nanBits.getD 0
  | .inf neg => overflow neg
  | .fin neg m e =>
    let b := f.magBits rtz m e
    if f.maxBits < b then overflow neg else f.sign neg + b
where
  overflow (neg : Bool) : Nat :=
    if !nonsat then f.sign neg + f.maxBits
    else match f.infBits, f.nanBits with
      | some i, _ => f.sign neg + i
      | none, some n => n
      | none, none => f.sign neg + f.maxBits

/-- Two's complement of `w` bits of a signed magnitude, saturating; was it clamped? -/
def intSat (w : Nat) (neg : Bool) (m : Nat) : Nat × Bool :=
  if neg then (if 2 ^ (w - 1) < m then (2 ^ (w - 1), true) else ((2 ^ w - m) % 2 ^ w, false))
  else (if 2 ^ (w - 1) ≤ m then (2 ^ (w - 1) - 1, true) else (m, false))

/-- Conversion to an integer format: saturates, NaN is 0 (R78). -/
def intConvert (w : Nat) (rtz : Bool) : Val → Nat
  | .nan => 0
  | .inf neg => (intSat w neg (2 ^ w)).1
  | .fin neg m e => (intSat w neg (roundInt rtz m e)).1

/-! ### Formats by code (05, R110) -/

/-- Bits of an element; the MX codes name their element format. -/
def fmtBits (fmt : Nat) : Nat :=
  match fmt with
  | 0x1 | 0x2 | 0x3 | 0x4 | 0x8 | 0x9 => 8
  | 0x5 | 0x6 => 6
  | 0x7 | 0xA => 4
  | 0xB | 0xC => 16
  | 0xD | 0xE => 32
  | _ => 0
/-- The floating-point format of a code, none for the integers. -/
def fmtFp (fmt : Nat) : Option FpFmt :=
  match fmt with
  | 0x1 | 0x3 => some e4m3
  | 0x2 | 0x4 => some e5m2
  | 0x5 => some e3m2
  | 0x6 => some e2m3
  | 0x7 => some e2m1
  | 0xB => some bf16
  | 0xC => some fp16
  | 0xD => some fp32
  | _ => none
/-- Is the code one of the MX formats? -/
def fmtMx (fmt : Nat) : Bool := decide (3 ≤ fmt) && decide (fmt ≤ 8)
/-- The value of an element's bits: an MXINT8 element is its INT8 value times 2^-6 (R60). -/
def fmtVal (fmt bits : Nat) : Val :=
  match fmtFp fmt with
  | some f => f.decode bits
  | none =>
    let w := fmtBits fmt
    let neg := bits.testBit (w - 1)
    .fin neg (if neg then 2 ^ w - bits % 2 ^ w else bits % 2 ^ w) (if fmt = 8 then -6 else 0)
/-- Conversion of R78 to a format code. -/
def fmtConvert (fmt : Nat) (rtz nonsat : Bool) (v : Val) : Nat :=
  match fmtFp fmt with
  | some f => f.convert rtz nonsat v
  | none => intConvert (fmtBits fmt) rtz v

/-- The value times 2^x. -/
def Val.scale (x : Int) : Val → Val
  | .fin n m e => .fin n m (e + x)
  | v => v
/-- Unbiased exponent of an E8M0 scale, none for NaN (R60). -/
def scaleExp (b : Nat) : Option Int := if b = 0xFF then none else some ((b : Int) - 127)

/-! ### Places (05, R112; 12, R310) -/

def basketKey (off : Nat) : Nat := 0x004000000000 + off
def storeKey (core off : Nat) : Nat := 0x004100000000 + 0x00400000 * core + off
/-- Key of the byte `off` beyond a place, for context `c`. -/
def placeKey (c : Nat) (p : Place) (off : Nat) : Nat :=
  match p with
  | .store core o => storeKey core.val (o + off)
  | .basket o => basketKey (o + off)
  | .ctxVa va => ctxKey c (va + off)

/-- The image whose step the context runs. -/
def State.runImage (s : State) (c : Nat) : Image := (s.image c (s.actx c).handle).getD {}
/-- Place of a buffer of an image: space and offset, a RETAIN buffer at the copy of the step's parity (05, R112). -/
def imgPlace (g : Image) (id k : Nat) : Place :=
  match imgBuf g id with
  | none => .basket 0
  | some b =>
    let off := bufOffset b + (if bufKind b = 6 then k % 2 * bufSize b else 0)
    if bufSpace b = 0x40 then .basket off
    else if bufSpace b = 0x41 then .ctxVa off
    else .store (Fin.ofNat 64 (bufSpace b)) off
def State.bufPlace (s : State) (c id k : Nat) : Place := imgPlace (s.runImage c) id k

/-- Bits `[w i, w (i+1))` of the little-endian bit string that starts at `k`: element `i` of a packed row (R61). -/
def Mem.elemAt (m : Mem) (k w i : Nat) : Nat := (m.leAt (k + w * i / 8) ((w * i % 8 + w + 7) / 8) >>> (w * i % 8)) % 2 ^ w
/-- Does any byte of the element lie in a poisoned word? -/
def Mem.elemPoison (m : Mem) (k w i : Nat) : Bool := m.poisoned (k + w * i / 8) || m.poisoned (k + (w * (i + 1) - 1) / 8)

/-- Bank and row of a local-store offset: 64-byte lines over 24 banks (04, R86). -/
def bankOf (off : Nat) : Nat := off / 64 % 24
def bankRow (off : Nat) : Nat := off / 64 / 24
/-- A port access is aligned to 64 bytes: the offset of its line (04, R86). -/
def lineOf (off : Nat) : Nat := off / 64 * 64
/-- Bytes of a core's local store (04, R86). -/
def storeBytes : Nat := 0x300000

/-- Element `i` of row `r` of a matrix operand: value, scale exponent (some 0 without scales; none: NaN), poison. -/
def State.matAt (s : State) (c : Nat) (a : MatRef) (r i : Nat) : Val × Option Int × Bool :=
  let w := fmtBits a.fmt
  let k := placeKey c a.place (r * a.pitch)
  let sk := placeKey c a.scales (r * a.scalePitch + i / 32)
  (fmtVal a.fmt (s.mem.elemAt k w i), if fmtMx a.fmt then scaleExp (s.mem.leAt sk 1) else some 0,
   s.mem.elemPoison k w i || (fmtMx a.fmt && s.mem.poisoned sk))

/-- `k` positions, at most 128, of the rows of a matrix operand, as a port reads them (04, R82, R83, R91). -/
def State.readSlab (s : State) (c : Nat) (a : MatRef) (k : Nat) : Slab :=
  let w := fmtBits a.fmt
  let k := min k 128
  { fmt := a.fmt, k
    els := (upto a.rows).map fun r => (upto k).map fun i =>
      let b := placeKey c a.place (r * a.pitch)
      (s.mem.elemAt b w i, s.mem.elemPoison b w i)
    scales := if fmtMx a.fmt then (upto a.rows).map fun r => (upto ((k + 31) / 32)).map fun j =>
      let b := placeKey c a.scales (r * a.scalePitch + j)
      (s.mem.leAt b 1, s.mem.poisoned b) else [] }
/-- Element `i` of row `r` of rows read. -/
def Slab.at (a : Slab) (r i : Nat) : Val × Option Int × Bool :=
  let (b, p) := (a.els.getD r []).getD i (0, false)
  if fmtMx a.fmt then
    let (x, q) := (a.scales.getD r []).getD (i / 32) (0, false)
    (fmtVal a.fmt b, scaleExp x, p || q)
  else (fmtVal a.fmt b, some 0, p)
/-- Is any word of the rows poisoned? -/
def Slab.poisoned (a : Slab) : Bool := a.els.any (·.any Prod.snd) || a.scales.any (·.any Prod.snd)

/-- Bytes of a packed row. -/
def rowBytes (fmt n : Nat) : Nat := (fmtBits fmt * n + 7) / 8

/-- Key of the scale byte of element `i` of an MX vector: behind the elements (log 33). -/
def vecScaleKey (c : Nat) (a : VecRef) (i : Nat) : Nat := placeKey c a.place (rowBytes a.fmt a.len + i / 32)
/-- Element `i` of a vector operand; an element of an MX block is its value times the block's scale (R60). -/
def State.vecAt (s : State) (c : Nat) (a : VecRef) (i : Nat) : Val :=
  let v := fmtVal a.fmt (s.mem.elemAt (placeKey c a.place 0) (fmtBits a.fmt) i)
  if fmtMx a.fmt then
    match scaleExp (s.mem.leAt (vecScaleKey c a i) 1) with
    | some x => v.scale x
    | none => .nan
  else v
def State.vecPoison (s : State) (c : Nat) (a : VecRef) (i : Nat) : Bool :=
  s.mem.elemPoison (placeKey c a.place 0) (fmtBits a.fmt) i || (fmtMx a.fmt && s.mem.poisoned (vecScaleKey c a i))

/-- Write element `i` of width `w` at key `k`; an element within a byte keeps the byte's other bits.  Words written take
the poison given. -/
def Mem.putElem (m : Mem) (k w i v : Nat) (poison : Bool) : Mem :=
  let b := k + w * i / 8
  let sh := w * i % 8
  let n := (sh + w + 7) / 8
  let old := m.leAt b n
  let new := old % 2 ^ sh + (v % 2 ^ w) * 2 ^ sh + old / 2 ^ (sh + w) * 2 ^ (sh + w)
  let m := m.putAll b (leBytes n new)
  if poison then (m.setPoison b true).setPoison (b + n - 1) true else m

/-- Write a row of elements of one width from key `k`, with their poison. -/
def Mem.putRow (m : Mem) (k w : Nat) (vs : List (Nat × Bool)) : Mem :=
  let m := m.freshRun k (w * vs.length / 8)
  (vs.zip (List.range vs.length)).foldl (fun m e => m.putElem k w e.2 e.1.1 e.1.2) m

/-! ### Exact arithmetic -/

/-- A signed value `i 2^e` as a `Val`; a zero takes the sign given. -/
def ofInt (zeroNeg : Bool) (i : Int) (e : Int) : Val :=
  if i = 0 then .fin zeroNeg 0 e else .fin (decide (i < 0)) i.natAbs e
/-- The signed integer of a finite value in units of 2^u, for u at or below its exponent. -/
def toUnits (neg : Bool) (m : Nat) (e u : Int) : Int :=
  let v : Int := m * 2 ^ (e - u).toNat
  if neg then -v else v

/-- Exact sum (R75); a zero sum of unlike signs is +0. -/
def Val.add : Val → Val → Val
  | .nan, _ => .nan
  | _, .nan => .nan
  | .inf a, .inf b => if a = b then .inf a else .nan
  | .inf a, _ => .inf a
  | _, .inf b => .inf b
  | .fin a m e, .fin b n f =>
    let u := min e f
    ofInt (a && b) (toUnits a m e u + toUnits b n f u) u
/-- Exact product. -/
def Val.mul : Val → Val → Val
  | .nan, _ => .nan
  | _, .nan => .nan
  | .inf a, .inf b => .inf (a != b)
  | .inf a, .fin b n _ => if n = 0 then .nan else .inf (a != b)
  | .fin a m _, .inf b => if m = 0 then .nan else .inf (a != b)
  | .fin a m e, .fin b n f => .fin (a != b) (m * n) (e + f)
/-- Strictly less, of values that are not NaN; -0 lies below +0. -/
def Val.lt : Val → Val → Bool
  | .inf a, .inf b => a && !b
  | .inf a, _ => a
  | _, .inf b => !b
  | .fin a m e, .fin b n f =>
    let u := min e f
    let x := toUnits a m e u
    let y := toUnits b n f u
    decide (x < y) || (decide (x = y) && a && !b)
  | _, _ => false
def Val.isNan : Val → Bool
  | .nan => true
  | _ => false
/-- Minimum and maximum (R75): NaN with anything is NaN. -/
def Val.min (a b : Val) : Val := if a.isNan || b.isNan then .nan else if b.lt a then b else a
def Val.max (a b : Val) : Val := if a.isNan || b.isNan then .nan else if a.lt b then b else a
def Val.neg : Val → Val
  | .nan => .nan
  | .inf a => .inf (!a)
  | .fin a m e => .fin (!a) m e
def Val.isZero : Val → Bool
  | .fin _ 0 _ => true
  | _ => false

/-! ### FP32 arithmetic of the V engines (R75) -/

/-- The value of an FP32 pattern, and rounding to one. -/
def Word.val (w : Word) : Val := fp32.decode w.toNat
def toFp32 (v : Val) : Word := BitVec.ofNat 32 (fp32.ieee false v)
def fAdd (a b : Word) : Word := toFp32 ((Word.val a).add (Word.val b))
def fSub (a b : Word) : Word := toFp32 ((Word.val a).add (Word.val b).neg)
def fMul (a b : Word) : Word := toFp32 ((Word.val a).mul (Word.val b))
def fFma (a b c : Word) : Word := toFp32 (((Word.val a).mul (Word.val b)).add (Word.val c))
def fMin (a b : Word) : Word := toFp32 ((Word.val a).min (Word.val b))
def fMax (a b : Word) : Word := toFp32 ((Word.val a).max (Word.val b))
def fLt (a b : Word) : Bool := !(Word.val a).isNan && !(Word.val b).isNan && (Word.val a).lt (Word.val b) &&
  !((Word.val a).isZero && (Word.val b).isZero)
def fNan (a : Word) : Bool := (Word.val a).isNan
def fZero : Word := 0
def fOne : Word := 0x3F800000
def fInf : Word := 0x7F800000
def fNinf : Word := 0xFF800000
/-- A natural number in FP32. -/
def fNat (n : Nat) : Word := toFp32 (.fin false n 0)
/-- The quotient of two finite magnitudes with 64 bits and a sticky bit: its rounding is that of the exact quotient. -/
def quotBits (m n : Nat) (e f : Int) : Nat × Int :=
  let sh := 64 + n.log2
  let q := m * 2 ^ sh / n
  (2 * q + (if m * 2 ^ sh % n = 0 then 0 else 1), e - f - sh - 1)
/-- Correctly rounded quotient, by the rules of IEEE 754. -/
def Val.div : Val → Val → Val
  | .nan, _ => .nan
  | _, .nan => .nan
  | .inf _, .inf _ => .nan
  | .inf a, .fin b _ _ => .inf (a != b)
  | .fin a _ _, .inf b => .fin (a != b) 0 0
  | .fin a m e, .fin b n f =>
    if n = 0 then (if m = 0 then .nan else .inf (a != b))
    else
      let (q, x) := quotBits m n e f
      .fin (a != b) q x
def fDiv (a b : Word) : Word := toFp32 ((Word.val a).div (Word.val b))

/-- The canonical tree of R76 over one level: pairs, an odd last element rises unchanged. -/
def pairUp {α : Type} (op : α → α → α) : List α → List α
  | x :: y :: r => op x y :: pairUp op r
  | l => l
/-- Fold a list to one element by levels. -/
def treeUp {α : Type} (op : α → α → α) : Nat → List α → List α
  | 0, l => l
  | n + 1, l => match l with
    | _ :: _ :: _ => treeUp op n (pairUp op l)
    | l => l
/-- Chunks of 256. -/
def chunks256 {α : Type} : Nat → List α → List (List α)
  | 0, _ => []
  | n + 1, l => if l.isEmpty then [] else l.take 256 :: chunks256 n (l.drop 256)
/-- The canonical reduction (R76): leaves of 256 padded with the identity, then the leaf tree. -/
def canonicalReduce (op : Word → Word → Word) (ident : Word) (x : List Word) : Word :=
  let leaves := (chunks256 x.length x).map fun l =>
    (treeUp op 8 (l ++ List.replicate (256 - l.length) ident)).headD ident
  (treeUp op 64 leaves).headD ident
def redSum (x : List Word) : Word := canonicalReduce fAdd fZero x
def redMax (x : List Word) : Word := canonicalReduce fMax fNinf x
def redMin (x : List Word) : Word := canonicalReduce fMin fInf x
def redSumSq (x : List Word) : Word := canonicalReduce fAdd fZero (x.map fun w => fMul w w)

/-! ### MX quantisation (R79) -/

/-- Exponent of a format's largest power of two. -/
def mxEmax (fmt : Nat) : Int :=
  match fmt with
  | 0x3 => 8
  | 0x4 => 15
  | 0x5 => 4
  | 0x6 => 2
  | 0x7 => 2
  | _ => 0
/-- Floor of log2 of a finite non-zero value. -/
def Val.floorLog : Val → Int
  | .fin _ m e => e + m.log2
  | _ => 0
/-- The scale byte and the element bits of one block. -/
def mxQuantise (fmt : Nat) (vs : List Val) : Nat × List Nat :=
  if vs.any Val.isNan then (0xFF, vs.map fun _ => 0)
  else
    let mags := vs.map fun v => match v with
      | .inf _ => fp32.decode fp32.maxBits
      | .fin _ m e => .fin false m e
      | .nan => .nan
    let amax := mags.foldl Val.max (.fin false 0 0)
    let x : Int := if amax.isZero then -127 else Max.max (-127) (Min.min 127 (amax.floorLog - mxEmax fmt))
    let el := fun (v : Val) =>
      if fmt = 8 then intConvert 8 false (v.scale (6 - x)) else fmtConvert fmt false false (v.scale (-x))
    ((x + 127).toNat, vs.map el)

end Sys2Proof.Machine
end

