-- ==== Sys2Proof/Machine/Seam.lean ====
section
/-!
DEFINITION. Seam accumulation (03, R62-R69; 04, R84, R85): contributions, slices, accumulators and output conversion.
-/
namespace Sys2Proof.Machine

/-! ### Contributions (R62, R63, R68) -/

/-- A contribution fitted to the window: units of 2^A, class, whether it reached the ceiling or lost bits. -/
structure Fit where
  units : Int := 0
  cls : Cls := .finite
  ovf : Bool := false
  loss : Bool := false
  deriving DecidableEq, Repr, Inhabited

/-- Fit an exact value to the window of anchor `A` (R63). -/
def fit (A : Int) : Val → Fit
  | .nan => { cls := .nan }
  | .inf neg => { cls := if neg then .negInf else .posInf }
  | .fin neg m e =>
    let sh := e - A
    if m = 0 then {}
    else if 119 ≤ sh + m.log2 then { units := if neg then -(2 ^ 119 - 1) else 2 ^ 119 - 1, ovf := true }
    else
      let q := if 0 ≤ sh then m * 2 ^ sh.toNat else m >>> (-sh).toNat
      { units := if neg then -(q : Int) else q, loss := decide (sh < 0) && decide (m % 2 ^ (-sh).toNat ≠ 0) }

/-- The contribution of two elements with their block scales, none for a NaN scale (R63, R68). -/
def contribution (a b : Val) (sa sb : Option Int) : Val :=
  match sa, sb with
  | some x, some y => (a.mul b).scale (x + y)
  | _, _ => .nan

/-- Combination of classes (R68). -/
def Cls.join : Cls → Cls → Cls
  | .nan, _ => .nan
  | _, .nan => .nan
  | .posInf, .negInf => .nan
  | .negInf, .posInf => .nan
  | .posInf, _ => .posInf
  | _, .posInf => .posInf
  | .negInf, _ => .negInf
  | _, .negInf => .negInf
  | .finite, .finite => .finite

/-! ### Slices (R64, R65) -/

/-- Is `T` one partial word: `S 2^k` with `k` from 0 to 63 and `S` of 64 bits? -/
def oneWord (t : Int) : Bool :=
  (List.range 64).any fun k => t % 2 ^ k = 0 && decide (-(2 ^ 63) ≤ t / 2 ^ k) && decide (t / 2 ^ k < 2 ^ 63)

/-- Do the combined scales of a slice's block pairs differ by more than 24?  `none` is a pair left out. -/
def scalesApart (l : List (Option Int)) : Bool :=
  let l := l.filterMap id
  match l with
  | [] => false
  | x :: r => decide (24 < r.foldl max x - r.foldl min x)

/-- What a slice or a tile gives an accumulator: integer, class, poison, and the charge. -/
structure Part where
  sum : Int := 0
  cls : Cls := .finite
  poison : Bool := false
  ovf : Nat := 0
  loss : Nat := 0
  split : Nat := 0
  deriving DecidableEq, Repr, Inhabited

def Part.join (a b : Part) : Part :=
  { sum := a.sum + b.sum, cls := a.cls.join b.cls, poison := a.poison || b.poison, ovf := a.ovf + b.ovf
    loss := a.loss + b.loss, split := a.split + b.split }

/-- A fitted contribution as part of a sum. -/
def Fit.part (f : Fit) (poison : Bool) : Part :=
  { sum := f.units, cls := f.cls, poison, ovf := b2n f.ovf, loss := b2n f.loss }

/-- An operand element as the M engine reads it: value, scale exponent of its block (none: NaN), poison. -/
abbrev Elem := Val × Option Int × Bool

/-- Combined scale of block pair `j` of an output element's operands, none if it is left out of the test of R65. -/
def pairScale (fa fb : Nat → Elem) (k j : Nat) : Option Int :=
  let zero := fun (f : Nat → Elem) => (upto 32).all fun i => decide (k ≤ 32 * j + i) || (f (32 * j + i)).1.isZero
  match (fa (32 * j)).2.1, (fb (32 * j)).2.1 with
  | some x, some y => if zero fa || zero fb then none else some (x + y)
  | _, _ => none

/-- One slice of 128 positions from `lo` of a sum of products over `k` positions. -/
def seamSlice (A : Int) (mx : Bool) (fa fb : Nat → Elem) (k lo : Nat) : Part :=
  let hi := min k (lo + 128)
  let p := ((upto (hi - lo)).map fun d =>
    let (x, sx, px) := fa (lo + d)
    let (y, sy, py) := fb (lo + d)
    (fit A (contribution x y sx sy)).part (px || py)).foldl Part.join {}
  let apart := mx && scalesApart ((upto ((hi - lo + 31) / 32)).map fun j => pairScale fa fb k (lo / 32 + j))
  { p with split := b2n (apart || !oneWord p.sum) }

/-- A sum of products over `k` positions, slice by slice. -/
def seamDot (A : Int) (mx : Bool) (fa fb : Nat → Elem) (k : Nat) : Part :=
  ((upto ((k + 127) / 128)).map fun i => seamSlice A mx fa fb k (128 * i)).foldl Part.join {}

/-- The product of activation row `r` and row `n` of the weight tile (an output column) over the tile's positions. -/
def Slab.dot (A : Int) (a tile : Slab) (r n : Nat) : Part :=
  seamDot A (fmtMx a.fmt && fmtMx tile.fmt) (a.at r) (tile.at n) tile.k

/-- The charge of a part, for operation `op`. -/
def Part.charge (p : Part) (op : Nat) : Charge :=
  let f : BitVec 5 := (if p.ovf = 0 then 0 else seamOvf) ||| (if p.loss = 0 then 0 else seamLoss) |||
    (if p.split = 0 then 0 else seamSplit) ||| (if p.cls = .nan then seamNan else 0)
  { seam := f, seamOp := some op, ovf := p.ovf, loss := p.loss, split := p.split }

/-! ### Accumulators (R67; 04, R84) -/

/-- Index of an accumulator. -/
def accKey (core bank row col : Nat) : Nat := ((2 * core + bank) * 64 + row) * 96 + col

/-- Add a part to an accumulator. -/
def Acc.add (x : Acc) (p : Part) : Acc := { sum := x.sum + p.sum, cls := x.cls.join p.cls, poison := x.poison || p.poison }

/-- Add parts to accumulators of a bank, joining their charge; an accumulator that reaches NAN sets SEAM_NAN. -/
def addParts (op : Nat) : List (Nat × Part) → Tbl Acc → Charge → Tbl Acc × Charge
  | [], t, h => (t, h)
  | (k, p) :: ps, t, h =>
    let x := (t.get k).add p
    addParts op ps (t.set k x) (h.join ({ p with cls := x.cls }.charge op))

/-- Zero a bank: a new output tile. -/
def clearBank (t : Tbl Acc) (core bank : Nat) : Tbl Acc :=
  t.filter fun e => e.1 < accKey core bank 0 0 || accKey core (bank + 1) 0 0 ≤ e.1

/-- Places of a tile of rows and columns. -/
def tilePlaces (rows cols : Nat) : List (Nat × Nat) := (upto rows).flatMap fun r => (upto cols).map fun n => (r, n)

/-! ### Output conversion (R69) -/

/-- An accumulator as a value: units of 2^A, times 2^s. -/
def Acc.val (x : Acc) (A s : Int) : Val :=
  match x.cls with
  | .nan => .nan
  | .posInf => .inf false
  | .negInf => .inf true
  | .finite => ofInt false x.sum (A + s)

/-- Bits in the output format, and whether OUT_SAT is set. -/
def outConvert (fmt : Nat) (rtz : Bool) (v : Val) : Nat × Bool :=
  match fmtFp fmt with
  | some f =>
    match v with
    | .nan => (f.nanBits.getD 0, false)
    | .inf neg => (f.sign neg + f.infBits.getD f.maxBits, f.infBits.isNone)
    | .fin neg m e =>
      let b := f.magBits rtz m e
      if f.maxBits < b then (f.sign neg + f.maxBits, true) else (f.sign neg + b, false)
  | none =>
    match v with
    | .nan => (0, false)
    | .inf neg => ((intSat (fmtBits fmt) neg (2 ^ fmtBits fmt)).1, true)
    | .fin neg m e => intSat (fmtBits fmt) neg (roundInt rtz m e)

end Sys2Proof.Machine
end

