-- ==== Sys2Proof/Machine/Sfu.lean ====
section
/-!
DEFINITION. The special functions of R77, correctly rounded.  Reciprocal and roots are computed exactly; the others in
fixed point with 448 fraction bits, far beyond the distance of any FP32 argument's result from a rounding boundary
(PRESUMED, log 28).
-/
namespace Sys2Proof.Machine

/-- Fraction bits of the fixed point. -/
def fxP : Nat := 448
def fxOne : Int := 2 ^ fxP
/-- ln 2 and pi, rounded down. -/
def fxLn2 : Int := 0xb17217f7d1cf79abc9e3b39803f2f6af40f343267298b62d8a0d175b8baafa2be7b876206debac98559552fb4afa1b10ed2eae35c1382144
def fxPi : Int := 0x3243f6a8885a308d313198a2e03707344a4093822299f31d0082efa98ec4e6c89452821e638d01377be5466cf34e90c6cc0ac29b7c97c50dd

/-- A finite value in fixed point; exact for every FP32 value. -/
def toFx (neg : Bool) (m : Nat) (e : Int) : Int := toUnits neg m e (-(fxP : Int))
def fxMul (a b : Int) : Int := (a * b) >>> fxP
def fxDiv (a b : Int) : Int := a * 2 ^ fxP / b
/-- Fixed point to a value. -/
def ofFx (x : Int) : Val := ofInt false x (-(fxP : Int))

/-- `1 + r + r^2/2! + ...`, from term `t` of index `n`. -/
def expSeries (r : Int) : Nat → Nat → Int → Int
  | 0, _, _ => 0
  | fuel + 1, n, t => t + expSeries r fuel (n + 1) (fxMul t r / (n + 1 : Nat))
/-- `e^r` for `|r| < 1`. -/
def fxExp (r : Int) : Int := expSeries r 110 0 fxOne
/-- Nearest integer of `x / u`. -/
def nearInt (x u : Int) : Int := (2 * x + u) / (2 * u)
/-- `e^x` as a fixed-point significand and a power of two. -/
def expParts (x : Int) : Int × Int :=
  let n := nearInt x fxLn2
  (fxExp (x - n * fxLn2), n)

/-- `z + z^3/3 + z^5/5 + ...`: the power `t` of odd index `n`. -/
def atanhSeries (z2 : Int) : Nat → Nat → Int → Int
  | 0, _, _ => 0
  | fuel + 1, n, t => t / (n : Nat) + atanhSeries z2 fuel (n + 2) (fxMul t z2)
/-- ln of `m 2^e`, m positive. -/
def fxLn (m : Nat) (e : Int) : Int :=
  let k0 : Int := e + m.log2
  let y0 : Int := m * 2 ^ (fxP - m.log2)
  let (y, k) := if y0 < 3 * 2 ^ (fxP - 1) then (y0, k0) else (y0 / 2, k0 + 1)
  let z := fxDiv (y - fxOne) (y + fxOne)
  2 * atanhSeries (fxMul z z) 110 1 z + k * fxLn2

/-- Terms of sine and cosine: `t - t r2/((n+1)(n+2)) + ...`. -/
def trigSeries (r2 : Int) : Nat → Nat → Int → Int
  | 0, _, _ => 0
  | fuel + 1, n, t => t + trigSeries r2 fuel (n + 2) (-(fxMul t r2 / ((n + 1) * (n + 2) : Nat)))
/-- Sine of `x + q pi/2` (q = 0, 1, 2, 3). -/
def fxSinQ (x : Int) (q : Int) : Int :=
  let k := nearInt (2 * x) fxPi
  let r := x - k * fxPi / 2
  let r2 := fxMul r r
  let s := trigSeries r2 60 1 r
  let c := trigSeries r2 60 0 fxOne
  match (k + q) % 4 with
  | 0 => s
  | 1 => c
  | 2 => -s
  | _ => -c

/-- `2/sqrt(pi) (x - x^3/3 + x^5/(2! 5) - ...)`, the power over factorial `t` of index `n`. -/
def erfSeries (x2 : Int) : Nat → Nat → Int → Int
  | 0, _, _ => 0
  | fuel + 1, n, t => t / (2 * n + 1 : Nat) + erfSeries x2 fuel (n + 1) (-(fxMul t x2 / (n + 1 : Nat)))

/-- Integer square root by bits, below `2^n`. -/
def isqrtBits (x : Nat) : Nat → Nat → Nat
  | 0, r => r
  | n + 1, r => isqrtBits x n (if (r + 2 ^ n) * (r + 2 ^ n) ≤ x then r + 2 ^ n else r)
def isqrt (x : Nat) : Nat := isqrtBits x (x.log2 / 2 + 1) 0
def fxErf (x : Int) : Int :=
  let s := erfSeries (fxMul x x) 420 0 x
  let rootPi : Int := isqrt (fxPi.toNat * 2 ^ fxP)
  fxDiv (2 * s) rootPi

/-- A root with its sticky bit. -/
def rootVal (x : Nat) (e : Int) : Val :=
  let r := isqrt x
  .fin false (2 * r + (if r * r = x then 0 else 1)) (e - 1)
/-- `m 2^e` with an even exponent. -/
def evenExp (m : Nat) (e : Int) : Nat × Int := if e % 2 = 0 then (m, e) else (2 * m, e - 1)
def sqrtVal (m : Nat) (e : Int) : Val :=
  let (m, e) := evenExp m e
  rootVal (m * 2 ^ 128) (e / 2 - 64)
/-- `1/sqrt(m 2^e)`: the root of `2^320 / m`, sticky unless exact. -/
def rsqrtVal (m : Nat) (e : Int) : Val :=
  let (m, e) := evenExp m e
  let r := isqrt (2 ^ 320 / m)
  .fin false (2 * r + (if r * r * m = 2 ^ 320 then 0 else 1)) (-(e / 2) - 161)

/-- A value just below `v`'s power of two: what rounds as `1 - tiny` does. -/
def nearOne (neg : Bool) : Val := .fin neg (2 ^ 64 - 1) (-64)
/-- A positive value far below every FP32 value. -/
def tiny : Val := .fin false 1 (-1000)
/-- A value far above every FP32 value. -/
def huge : Val := .fin false 1 1000

/-- exp of a finite value. -/
def expVal (neg : Bool) (m : Nat) (e : Int) : Val :=
  if 1024 ≤ m * 2 ^ (e + 149).toNat / 2 ^ 149 then (if neg then tiny else huge)
  else
    let (y, n) := expParts (toFx neg m e)
    .fin false y.toNat (n - fxP)
/-- exp2 of a finite value; an integer's is exact. -/
def exp2Val (neg : Bool) (m : Nat) (e : Int) : Val :=
  if 1024 ≤ m * 2 ^ (e + 149).toNat / 2 ^ 149 then (if neg then tiny else huge)
  else
    let x := toFx neg m e
    if x % fxOne = 0 then .fin false 1 (x / fxOne)
    else
      let i := x / fxOne
      .fin false (fxExp (fxMul (x - i * fxOne) fxLn2)).toNat (i - fxP)

/-- The function on a finite non-zero value. -/
def sfuFin (f : Sfu) (neg : Bool) (m : Nat) (e : Int) : Val :=
  let big : Bool := decide (64 ≤ m * 2 ^ (e + 149).toNat / 2 ^ 149)
  let x := toFx neg m e
  match f with
  | .recip => (Val.fin false 1 0).div (.fin neg m e)
  | .sqrt => if neg then .nan else sqrtVal m e
  | .rsqrt => if neg then .nan else rsqrtVal m e
  | .exp2 => exp2Val neg m e
  | .exp => expVal neg m e
  | .log2 =>
    if neg then .nan
    else if m = 2 ^ m.log2 then ofInt false (e + m.log2) 0
    else ofFx (fxDiv (fxLn m e) fxLn2)
  | .ln => if neg then .nan else ofFx (fxLn m e)
  | .tanh =>
    if big then nearOne neg
    else
      let (y, n) := expParts (2 * x)
      let y := if 0 ≤ n then y * 2 ^ n.toNat else y / 2 ^ (-n).toNat
      ofFx (fxDiv (y - fxOne) (y + fxOne))
  | .sigmoid =>
    if big then (if neg then expVal true m e else nearOne false)
    else
      let (y, n) := expParts (-(toFx false m e))
      let y := y / 2 ^ (-n).toNat
      ofFx (if neg then fxDiv y (fxOne + y) else fxDiv fxOne (fxOne + y))
  | .erf => if decide (8 ≤ m * 2 ^ (e + 149).toNat / 2 ^ 149) then nearOne neg else ofFx (fxErf x)
  | .sin => ofFx (fxSinQ x 0)
  | .cos => ofFx (fxSinQ x 1)

/-- The function on any value, special inputs as R77 lists them. -/
def sfuVal (f : Sfu) : Val → Val
  | .nan => .nan
  | .inf neg => match f with
    | .recip => .fin neg 0 0
    | .sqrt => if neg then .nan else .inf false
    | .rsqrt => if neg then .nan else .fin false 0 0
    | .exp2 | .exp => if neg then .fin false 0 0 else .inf false
    | .log2 | .ln => if neg then .nan else .inf false
    | .tanh | .erf => .fin neg 1 0
    | .sigmoid => if neg then .fin false 0 0 else .fin false 1 0
    | .sin | .cos => .nan
  | .fin neg 0 _ => match f with
    | .recip => .inf neg
    | .sqrt => .fin neg 0 0
    | .rsqrt => .inf false
    | .exp2 | .exp | .cos => .fin false 1 0
    | .log2 | .ln => .inf true
    | .tanh | .erf | .sin => .fin neg 0 0
    | .sigmoid => .fin false 1 (-1)
  | .fin neg m e => sfuFin f neg m e

/-- The function in FP32. -/
def sfu (f : Sfu) (w : Word) : Word := toFp32 (sfuVal f (Word.val w))

end Sys2Proof.Machine
end

