-- ==== Sys2Proof/Machine/Compute.lean ====
section
/-!
DEFINITION. What engine descriptors compute (03, 04, 06, 10): M-engine products, output conversion, V-engine
instructions, patch points, and the translation of their addresses.
-/
namespace Sys2Proof.Machine

/-! ### The running step -/

/-- Add to what the running step of context `c` will be charged with. -/
def State.chargeRun (s : State) (c : Nat) (h : Charge) : State :=
  match (s.ctx c).steps.getLast? with
  | some r => s.updStep c r.k fun r => { r with charge := r.charge.join h }
  | none => s
/-- The running step of context `c` has written a poisoned result (13, R361). -/
def State.poisonRun (s : State) (c : Nat) (p : Bool) : State :=
  if !p then s
  else match (s.ctx c).steps.getLast? with
  | some r => s.updStep c r.k fun r => { r with poisoned := true }
  | none => s

/-! ### Translation on the compute path (12, R330, R345) -/

/-- Cause code of a translation fault at virtual page `v`, none where the access passes: 0 not VALID, 1 ON_DEMAND, 2 beyond
the range, 3 permission. -/
def State.vaCause (s : State) (c v : Nat) (write : Bool) : Option Nat :=
  if (s.ctx c).mmuSize ≤ v then some 2
  else
    let e := s.xlatAt c v
    if !e.valid then some (if e.onDemand then 1 else 0)
    else if (if write then e.write else e.read) then none else some 3
/-- The first fault of a range: virtual address and cause. -/
def State.vaFault (s : State) (c va len : Nat) (write : Bool) : Option (Nat × Nat) :=
  (vaPages va len).findSome? fun v => (s.vaCause c v write).map fun x => (max va (v * pageBytes), x)
/-- Latch a fault of context `c` (R345). -/
def State.latchFault (s : State) (c : Nat) (write : Bool) (f : Nat × Nat) : State :=
  s.updMem fun m => { m with faults := m.faults.set c { valid := true, write, cause := f.2, va := f.1 } }

/-- A run of bytes at a place, if the place lies in the context's virtual space: address, length, write. -/
def placeVa (p : Place) (len : Nat) (write : Bool) : List (Nat × Nat × Bool) :=
  match p with
  | .ctxVa va => if len = 0 then [] else [(va, len, write)]
  | _ => []
/-- Ranges a matrix operand reads. -/
def matVas (a : MatRef) (rows k : Nat) : List (Nat × Nat × Bool) :=
  (upto rows).flatMap fun r =>
    placeVa (match a.place with | .ctxVa va => .ctxVa (va + r * a.pitch) | p => p) (rowBytes a.fmt k) false ++
    (if fmtMx a.fmt then
      placeVa (match a.scales with | .ctxVa va => .ctxVa (va + r * a.scalePitch) | p => p) ((k + 31) / 32) false else [])
/-- Ranges a vector operand reads. -/
def vecVas (a : VecRef) : List (Nat × Nat × Bool) :=
  placeVa a.place (rowBytes a.fmt a.len + if fmtMx a.fmt then (a.len + 31) / 32 else 0) false
/-- Ranges of rows written from a place with a pitch. -/
def rowVas (p : Place) (rows pitch len : Nat) : List (Nat × Nat × Bool) :=
  (upto rows).flatMap fun r => placeVa (match p with | .ctxVa va => .ctxVa (va + r * pitch) | q => q) len true

/-! ### M engine -/

/-- OPLIST entry of operation `op` of the running image, empty without one. -/
def State.opEntry (s : State) (c op : Nat) : List Byte := (imgOp (s.runImage c) op).getD []
/-- A matrix operand in the operand format its operation's entry gives (05, R109). -/
def State.operandA (s : State) (c op : Nat) (a : MatRef) : MatRef := { a with fmt := opFmtA (s.opEntry c op) }
def State.operandB (s : State) (c op : Nat) (b : MatRef) : MatRef := { b with fmt := opFmtB (s.opEntry c op) }

/-- The core whose accumulator file takes the partials of core `n`: the output edge of its column in Press, its own in Split
(04, R92, R96). -/
def State.accCore (s : State) (n : Nat) : Nat := if s.arr.mode = .press then 56 + n % 8 else n
/-- Does core `n` take its activation rows from the west lane: in Press, off the west column (04, R91)? -/
def State.onLane (s : State) (n : Nat) : Bool := s.arr.mode == .press && n % 8 != 0

/-- LOAD: the weight tile goes into the shadow tile (04, R83). -/
def State.doLoad (s : State) (c n op : Nat) (b : MatRef) (k : Nat) : State :=
  let tile := s.readSlab c (s.operandB c op b) k
  s.updCore n fun x => { x with shadow := some tile }

/-- May a piece of work start: a load needs an empty shadow tile, a stream its tile and, off the west column in Press, its
rows on the lane (04, R83, R91)? -/
def State.tileReady (s : State) (n : Nat) : Work → Bool
  | .load _ _ _ => (s.core n).shadow.isNone
  | .stream _ _ _ switch _ _ =>
    (if switch then (s.core n).shadow.isSome else (s.core n).active.isSome) && (!s.onLane n || !(s.core n).west.isEmpty)
  | _ => true

/-- The rows a stream works on: read through port 0, or taken from the west lane (04, R91). -/
def State.streamRows (s : State) (c n op : Nat) (a : MatRef) (k : Nat) : Slab :=
  if s.onLane n then (s.core n).west.headD {} else s.readSlab c (s.operandA c op a) k

/-- The tile switch at a tagged row, and the rows' way along the lane: the west column's reach every core of the row
(04, R83, R91). -/
def State.takeRows (s : State) (n : Nat) (switch : Bool) (rows : Slab) : State :=
  let s := if switch then s.updCore n fun x => { x with active := x.shadow, shadow := none } else s
  if s.onLane n then s.updCore n fun x => { x with west := x.west.drop 1 }
  else if s.arr.mode = .press then
    s.updArr fun a => { a with cores := (upto 7).foldl (fun t x => t.upd (n + x + 1) fun k =>
      { k with west := k.west ++ [rows] }) a.cores }
  else s

/-- STREAM: the product of the rows and the active tile into a bank. -/
def State.doStream (s : State) (c n op bank : Nat) (fresh switch : Bool) (a : MatRef) (k : Nat) : State :=
  let rows := s.streamRows c n op a k
  let s := s.takeRows n switch rows
  let tile := (s.core n).active.getD {}
  let A := opAnchor (s.opEntry c op)
  let m := s.accCore n
  let ps := (tilePlaces (min 64 rows.els.length) (min 96 tile.els.length)).map fun e =>
    (accKey m bank e.1 e.2, rows.dot A tile e.1 e.2)
  let t := if fresh then clearBank s.arr.accs m bank else s.arr.accs
  let (t, h) := addParts op ps t {}
  (s.updArr fun x => { x with accs := t }).chargeRun c h

/-- Element `i` of an optional bias or residual, as a contribution of its own (03, R67). -/
def State.extraPart (s : State) (c : Nat) (A : Int) (v : Option VecRef) (i : Nat) : Part :=
  match v with
  | some v => (fit A (s.vecAt c v i)).part (s.vecPoison c v i)
  | none => {}

/-- POISON_OUT: output conversion on core `n` has written a poisoned result (04, R85, R105). -/
def State.poisonOut (s : State) (n : Nat) (p : Bool) : State :=
  if p then s.updCore n fun k => { k with poisonOut := true } else s

/-- DRAIN: bias and residual, one conversion under the entry's anchor, scale, format and rounding, results written (03, R67,
R69; 04, R85; 05, R109).  The bias has one value for each column, the residual one for each result, row by row. -/
def State.doDrain (s : State) (c n op bank rows cols : Nat) (bias residual : Option VecRef) (out : Place) (pitch : Nat) :
    State :=
  let e := s.opEntry c op
  let A := opAnchor e
  let fmt := opFmtOut e
  let ps := (tilePlaces rows cols).map fun q => (accKey n bank q.1 q.2,
    (s.extraPart c A bias q.2).join (s.extraPart c A residual (q.1 * cols + q.2)))
  let (t, h) := addParts op ps s.arr.accs {}
  let res := (upto rows).map fun r => (upto cols).map fun j =>
    let x := t.get (accKey n bank r j)
    let (b, sat) := outConvert fmt (opRtz e) (x.val A (opScale e))
    ((b, x.poison), sat)
  let sat := res.any fun row => row.any fun q => q.2
  let poison := res.any fun row => row.any fun q => q.1.2
  let h := h.join { seam := if sat then outSat else 0, seamOp := some op }
  let s := s.updMem fun m => (res.zip (upto rows)).foldl (fun m q =>
    m.putRow (placeKey c out (q.2 * pitch)) (fmtBits fmt) (q.1.map Prod.fst)) m
  (((s.updArr fun x => { x with accs := t }).poisonOut n poison).chargeRun c h).poisonRun c poison

/-! ### Patches (10, R264, R265) -/

def patchRankOf (p : Blob) : Nat := (p.at 4).toNat
def patchExp (p : Blob) : Int := signedOf 8 (p.at 5).toNat
/-- A point of a patch package: K, N and the offset of its data. -/
def patchPoint (p : Blob) (op : Nat) : Option (Nat × Nat × Nat) :=
  ((upto (p.le 8 4)).find? fun i => p.le (64 + 16 * i) 4 == op).map fun i =>
    (p.le (64 + 16 * i + 4) 4, p.le (64 + 16 * i + 8) 4, p.le (64 + 16 * i + 12) 4)
/-- BF16 value `j` of the data at `off`. -/
def patchVal (p : Blob) (off j : Nat) : Val := bf16.decode (p.le (off + 2 * j) 2)

/-- The patch package that the sequence of activation row `row` has pinned, if it has one. -/
def State.rowPatch (s : State) (c : Nat) (g : Image) (r : StepRec) (row : Nat) : Option Blob :=
  match (r.table (imgQbPos g))[row / imgQbPos g]? with
  | some e => if e.slot = 0xFFFF then none
    else ((s.findReq c e.req).bind (·.patchSlot)).map fun p => (s.tsu.patches.get p).pkg
  | none => none

/-- PATCH: with the patch of each row's sequence, h = x A^T in BF16 and 2^e h B into the accumulators of the base product; a
row without a patch contributes zero (R264).  OUT_SAT is not set by the conversion of h, an intermediate (DEDUCED, log 132). -/
def State.doPatch (s : State) (c n op bank row0 col0 cols : Nat) (x : MatRef) (k : Nat) : State :=
  let g := s.runImage c
  let r := ((s.ctx c).steps.getLast?).getD {}
  let x := s.operandA c op x
  let A := opAnchor (s.opEntry c op)
  let m := s.accCore n
  let parts := (upto x.rows).map fun i =>
    match (s.rowPatch c g r (row0 + i)).bind fun p => (patchPoint p op).map fun q => (p, q) with
    | none => ([], ({} : Charge))
    | some (p, pk, pn, off) =>
      let rank := patchRankOf p
      let hs := (upto rank).map fun a =>
        let t := seamDot A false (s.matAt c x i) (fun j => (patchVal p off (pk * a + j), some 0, false)) (min k pk)
        let v : Acc := { sum := t.sum, cls := t.cls }
        ((bf16.decode (outConvert 0xB false (v.val A 0)).1, t.poison), t)
      let outs := (upto (min cols (pn - col0))).map fun j =>
        (accKey m bank i j, seamDot A false
          (fun a => let h := (hs.getD a default).1; (h.1, some (patchExp p), h.2))
          (fun a => (patchVal p (off + 2 * rank * pk) (pn * a + col0 + j), some 0, false)) rank)
      (outs, (hs.map fun h => h.2.charge op).foldl Charge.join {})
  let (t, h) := addParts op (parts.flatMap Prod.fst) s.arr.accs {}
  (s.updArr fun z => { z with accs := t }).chargeRun c ((parts.map Prod.snd).foldl Charge.join h)

/-! ### V engines (03, R75-R79; 06, R140, R145, R146; 07, R178) -/

/-- One result element: value bits at its width, and poison. -/
abbrev OutEl := Nat × Bool

/-- Rotary post-operation (07, R178) on a row. -/
def rotary (pos width : Nat) (half : Bool) (x freq : List Word) : List Word :=
  let h := width / 2
  (upto x.length).map fun j =>
    if width ≤ j then x.getD j 0
    else
      let (i, second, other) :=
        if half then (j % h, decide (h ≤ j), if h ≤ j then j - h else j + h) else (j / 2, j % 2 == 1, if j % 2 = 1 then j - 1 else j + 1)
      let phi := fMul (fNat pos) (freq.getD i 0)
      let (co, si) := (sfu .cos phi, sfu .sin phi)
      let (a, b) := (x.getD j 0, x.getD other 0)
      -- first of the pair: fma(x, c, -(y s)); second: fma(x, s, y c)
      if second then fFma b si (fMul a co) else fFma a co (fMul b si ^^^ 0x80000000)

/-- Elementwise V-engine arithmetic on exact operand values, rounded once.  An MX element enters with its exact value, its
block's scale applied, also where that lies beyond FP32: R75 speaks of no conversion (DEDUCED, log 133). -/
def vecElem (v : VOp) (a b c : Val) : Option Word :=
  match v with
  | .add => some (toFp32 (a.add b))
  | .mul => some (toFp32 (a.mul b))
  | .fma => some (toFp32 ((a.mul b).add c))
  | .minimum => some (toFp32 (a.min b))
  | .maximum => some (toFp32 (a.max b))
  | .addRtz => some (BitVec.ofNat 32 (fp32.ieee true (a.add b)))
  | .mulRtz => some (BitVec.ofNat 32 (fp32.ieee true (a.mul b)))
  | .fmaRtz => some (BitVec.ofNat 32 (fp32.ieee true ((a.mul b).add c)))
  | .sfu f => some (toFp32 (sfuVal f a))
  | _ => none

/-- Element `i` of a list and the others. -/
def pluck {α : Type} : Nat → List α → List α
  | _, [] => []
  | 0, _ :: r => r
  | n + 1, x :: r => x :: pluck n r
/-- A fold in an order that free values choose: FAST_REDUCE takes values as they arrive (03, R73). -/
def foldFree (op : Word → Word → Word) : Nat → Nat → Word → List Word → Word
  | 0, _, acc, _ => acc
  | n + 1, k, acc, l =>
    let i := (Config.pick k (l.length - 1)).val
    foldFree op n (k + 1) (op acc (l.getD i acc)) (pluck i l)
/-- A reduction of an operation with FAST_REDUCE: the order of arrival is a free value (03, R73). -/
def redFast (r : Red) (k : Nat) (x : List Word) : Word :=
  let go := fun (op : Word → Word → Word) (ident : Word) (x : List Word) => match x with
    | [] => ident
    | _ => foldFree op x.length k ident x
  match r with
  | .sum => go fAdd fZero x
  | .max => go fMax fNinf x
  | .min => go fMin fInf x
  | .sumsq => go fAdd fZero (x.map fun w => fMul w w)
/-- A reduction by the canonical tree (03, R76). -/
def redRun (r : Red) (x : List Word) : Word :=
  match r with
  | .sum => redSum x
  | .max => redMax x
  | .min => redMin x
  | .sumsq => redSumSq x

/-- Position of output row `row` of an operation on the step's sequence table (07, R173, R178). -/
def State.rowPos (s : State) (c : Nat) (row : Nat) : Nat :=
  let qb := imgQbPos (s.runImage c)
  let r := ((s.ctx c).steps.getLast?).getD {}
  ((r.table qb).getD (row / qb) {}).first + row % qb

/-- Results of a V-engine instruction of operation `op`: their width in bits and the elements; scale bytes of an MX
quantisation follow.  Conversions of R78 take format and rounding of the operation's entry; `k0` numbers the free values a
FAST_REDUCE reduction draws. -/
def State.vecOut (s : State) (c op : Nat) (v : VOp) (a b d : VecRef) (bf : Bool) (k0 : Nat) : Nat × List OutEl × List Nat :=
  let e := s.opEntry c op
  let n := a.len
  let va := s.vecAt c a
  let vb := s.vecAt c b
  let vd := s.vecAt c d
  let pa := s.vecPoison c a
  let fa := (upto n).map fun i => toFp32 (va i)
  let anyA := (upto n).any pa
  let w := if bf then 16 else 32
  let fin := fun (x : Word) => if bf then bf16.ieee false (Word.val x) else x.toNat
  let out := fun (nonsat : Bool) (x : Word) => fmtConvert (opFmtOut e) (opRtz e) nonsat (Word.val x)
  let int := fun (mul : Bool) => (upto n).map fun i =>
    let x := signedOf 32 (s.mem.elemAt (placeKey c a.place 0) 32 i)
    let y := signedOf 32 (s.mem.elemAt (placeKey c b.place 0) 32 i)
    let z := if mul then x * y else x + y
    let fits := decide (-(2 ^ 31) ≤ z) && decide (z < 2 ^ 31)
    ((if fits then (z % 2 ^ 32).toNat else Config.intLane mul x y % 2 ^ 32), pa i || s.vecPoison c b i)
  match v with
  | .int32Add => (32, int false, [])
  | .int32Mul => (32, int true, [])
  | .reduce r => (w, [(fin (if opFastReduce e then redFast r k0 fa else redRun r fa), anyA)], [])
  | .convert fmt nonsat => (fmtBits fmt, (upto n).map fun i => (fmtConvert fmt (opRtz e) nonsat (va i), pa i), [])
  | .quantise fmt =>
    let blocks := (upto ((n + 31) / 32)).map fun j =>
      mxQuantise fmt ((upto (min 32 (n - 32 * j))).map fun i => va (32 * j + i))
    (fmtBits fmt, ((blocks.flatMap Prod.snd).zip (upto n)).map fun e => (e.1, pa e.2), blocks.map Prod.fst)
  | .depthwise _ _ taps nonsat =>
    let start := if d.len = 0 then fZero else toFp32 (vd 0)
    let used := (taps.zip (upto taps.length)).filterMap fun e => e.1.map fun x => (e.2, x)
    let acc := used.foldl (fun acc e => fFma (toFp32 (vb e.1)) (toFp32 (va e.2)) acc) start
    (fmtBits (opFmtOut e), [(out nonsat acc,
      (used.any fun e => pa e.2 || s.vecPoison c b e.1) || (d.len != 0 && s.vecPoison c d 0))], [])
  | .maxPool win =>
    let x := win.foldl (fun m i => m.max (va i)) (Val.inf true)
    (w, [(fin (toFp32 x), win.any pa)], [])
  | .avgPool win full countPad nonsat =>
    let x := redSum (win.map fun i => toFp32 (va i))
    let q := sfu .recip (fNat (if countPad then full else win.length))
    (fmtBits (opFmtOut e), [(out nonsat (fMul x q), win.any pa)], [])
  | .rotary row width half =>
    let width := min width (s.ctx c).dim
    let fr := (upto (width / 2)).map fun i => toFp32 (vb i)
    let p := anyA || (upto (width / 2)).any fun i => s.vecPoison c b i
    (w, (rotary (s.rowPos c row) width half fa fr).map fun x => (fin x, p), [])
  | v =>
    (w, (upto n).map fun i =>
      (fin ((vecElem v (va i) (vb i) (vd i)).getD 0),
       pa i || (i < b.len && s.vecPoison c b i) || (i < d.len && s.vecPoison c d i)), [])

/-- Free values an instruction may draw. -/
def State.vecDraws (s : State) (c op : Nat) (v : VOp) (n : Nat) : Nat :=
  match v with
  | .reduce _ => if opFastReduce (s.opEntry c op) then n else 0
  | _ => 0

/-- A V-engine instruction: results from `out` on, packed; scale bytes directly behind them. -/
def State.doVec (s : State) (c op : Nat) (v : VOp) (a b d : VecRef) (bf : Bool) (out : Place) : State :=
  let (w, els, scales) := s.vecOut c op v a b d bf s.fresh
  let poison := els.any (·.2)
  let s := { s with fresh := s.fresh + s.vecDraws c op v a.len }
  let s := s.updMem fun m =>
    let m := m.putRow (placeKey c out 0) w els
    m.putRow (placeKey c out ((w * els.length + 7) / 8)) 8 (scales.map fun x => (x, poison))
  s.poisonRun c poison

/-- Bytes a V-engine instruction of operation `op` writes. -/
def State.vecOutBytes (s : State) (c op : Nat) (v : VOp) (a : VecRef) (bf : Bool) : Nat :=
  let e := if bf then 2 else 4
  match v with
  | .reduce _ | .maxPool _ => e
  | .depthwise _ _ _ _ | .avgPool _ _ _ _ => rowBytes (opFmtOut (s.opEntry c op)) 1
  | .convert fmt _ => rowBytes fmt a.len
  | .quantise fmt => rowBytes fmt a.len + (a.len + 31) / 32
  | .int32Add | .int32Mul => 4 * a.len
  | _ => e * a.len

end Sys2Proof.Machine
end

