-- ==== Sys2Proof/Machine/Attention.lean ====
section
/-!
DEFINITION. Attention units (07, R160-R182), step preparation and the append path (08, R197-R201).
-/
namespace Sys2Proof.Machine

/-! ### Step preparation (08, R197) -/

/-- The sequence table of a context's running step (07, R173). -/
def State.stepTable (s : State) (c : Nat) (r : StepRec) : List Entry := r.table (imgQbPos (s.runImage c))

/-- Step preparation: the snapshot of every sequence's list, whose rows go into the walker-table buffer's copy of the step's
parity, then the copies, whose destinations become ACTIVE.  A destination that has left COW_PENDING keeps its state: a replay
repeats the copy alone (R206). -/
def State.doKvPrep (s : State) (c op : Nat) : State :=
  match (s.ctx c).steps.getLast? with
  | none => s
  | some r =>
    let desc := imgDesc (s.runImage c) op
    let w := cdiv (lb desc 12 4) 64
    let used := s.stepTable c r
    let rows := (used ++ List.replicate (lb desc 10 2 - used.length) ({} : Entry)).map fun e => s.walkerRow e.slot w
    let g := s.geom c
    let table := placeKey c (s.bufPlace c (lb desc 6 2) r.k) 0
    let s := s.updMem fun m => m.putAll table (rows.flatMap fun row => row.flatMap ListEnt.toBytes)
    let s := s.updStep c r.k fun r => { r with walker := rows }
    foldS r.copies (fun s q =>
      let (src, dst, n, _) := q
      let s := s.updMem fun m => m.copyPage g src dst n
      s.updPage dst fun p => if p.st = .cowPending then { p with st := refState p.refs } else p) s

/-- A page list entry of row `i` of the running step's snapshot. -/
def StepRec.ent (r : StepRec) (i j : Nat) : ListEnt := (r.walker.getD i []).getD j {}

/-- A fault that acts at the OP_END of operation `op` on core `n` (04, R89; 07, R171; 08, R198); with that OP_END already
past it acts at once. -/
def State.opFault (s : State) (c n op : Nat) : State :=
  if (s.core n).op.toNat ≠ op then s.faultCtx c stCtxFault
  else match (s.ctx c).steps.getLast? with
  | some r => s.updStep c r.k fun r => { r with faultOps := (n, op) :: r.faultOps }
  | none => s

/-- LIST_FAULT (08, R198, R216). -/
def State.listFaulted (s : State) (c n op : Nat) (bad : Bool) : State := if bad then (s.kvpFlag c 0).opFault c n op else s

/-! ### Append (08, R199, R201) -/

/-- Key count of a slot at the running step: its length with the positions of the step (07, R168). -/
def StepRec.keyCount (r : StepRec) (slot : Nat) : Nat :=
  ((r.entries.filter fun e => e.slot = slot).map fun e => e.first + e.active).foldl max 0

/-- One appended position: row of values, page and position, or none for a row that is not written. -/
def StepRec.appendRow (r : StepRec) (table : List Entry) (qbPos row : Nat) : Option (Nat × ListEnt) :=
  match table[row / qbPos]? with
  | some e => if e.slot = 0xFFFF || e.active ≤ row % qbPos then none
    else some (e.first + row % qbPos, r.ent (row / qbPos) ((e.first + row % qbPos) / 64))
  | none => none

/-- K row of one head in its page; MXFP8 quantises along d (R199). -/
def State.putK (s : State) (c layer head pos page : Nat) (vs : List (Val × Bool)) (rtz : Bool) : State :=
  let g := s.geom c
  let bad := vs.any (·.2)
  let w := 8 * g.e
  if g.mx then
    let blocks := (upto (cdiv g.dim 32)).map fun b => mxQuantise 3 (((vs.drop (32 * b)).take 32).map Prod.fst)
    s.updMem fun m =>
      let m := m.putRow (pageKey page (g.kOff layer head pos 0)) 8 ((blocks.flatMap Prod.snd).map fun x => (x, bad))
      m.putRow (pageKey page (g.kScaleOff layer head pos 0)) 8 (blocks.map fun b => (b.1, bad))
  else s.updMem fun m =>
    m.putRow (pageKey page (g.kOff layer head pos 0)) w (vs.map fun v => (fmtConvert g.fmt rtz false v.1, v.2))

/-- V values of one head at one position, component by component. -/
def State.putV (s : State) (c layer head pos page : Nat) (vs : List (Val × Bool)) (rtz : Bool) : State :=
  let g := s.geom c
  s.updMem fun m => (vs.zip (upto vs.length)).foldl (fun m e =>
    m.putElem (pageKey page (g.vOff layer head pos e.2)) (8 * g.e) 0 (fmtConvert g.fmt rtz false e.1.1) e.1.2) m

/-- V block of 32 positions of one component in MXFP8 (R79, R199): quantised where the step writes the block whole; a block
written in part shares its scale with positions written before, and what it then holds at the written positions the spec
does not state: free values, a function of the values appended and of what the block held (log 29). -/
def State.putVBlock (s : State) (c layer head comp page blk : Nat) (vs : List (Option (Val × Bool))) : State :=
  let g := s.geom c
  let at_ := fun i => pageKey page (g.vOff layer head (32 * blk + i) comp)
  let bad := vs.any fun v => match v with | some x => x.2 | none => false
  if vs.all Option.isSome then
    let (sc, els) := mxQuantise 3 (vs.map fun v => (v.map Prod.fst).getD .nan)
    s.updMem fun m => ((els.zip (upto 32)).foldl (fun m e => m.putElem (at_ e.2) 8 0 e.1 bad) m).putElem
      (pageKey page (g.vScaleOff layer head comp blk)) 8 0 sc bad
  else
    let sk := pageKey page (g.vScaleOff layer head comp blk)
    let held := ((upto 32).map fun i => s.mem.leAt (at_ i) 1) ++ [s.mem.leAt sk 1]
    let new := vs.map fun v => v.map fun x => (toFp32 x.1).toNat
    s.updMem fun m => ((vs.zip (upto 32)).foldl (fun m e => match e.1 with
      | some _ => m.putElem (at_ e.2) 8 0 (Config.partBlock new held e.2) bad
      | none => m) m).putElem sk 8 0 (Config.partBlock new held 32) bad

/-- BUFMAP entry of an operation's output buffer, empty without one. -/
def State.outBuf (s : State) (c op : Nat) : List Byte := (imgBuf (s.runImage c) (opOutBuf (s.opEntry c op))).getD []

/-- APPEND: rows of the step's positions converted to the KV format and written to their pages; layer, role and QB_POS are
those of the operation's output buffer (R199). -/
def State.doAppend (s : State) (c n op : Nat) (src : MatRef) : State :=
  match (s.ctx c).steps.getLast? with
  | none => s
  | some r =>
    let g := s.geom c
    let rtz := opRtz (s.opEntry c op)
    let buf := s.outBuf c op
    let layer := lb buf 4 1
    let roleV := lb buf 5 1 == 1
    let qbPos := lb buf 6 1
    let table := s.stepTable c r
    let val := fun row head j =>
      let (v, _, p) := s.matAt c src row (head * g.dim + j)
      (v, p)
    let rows := (upto src.rows).filterMap fun row => (r.appendRow table (max 1 qbPos) row).map fun q => (row, q.1, q.2)
    let bad := rows.any fun q => s.listFault c q.2.2
    let good := rows.filter fun q => !s.listFault c q.2.2
    let poison := rows.any fun q => (upto (g.heads * g.dim)).any fun j => (s.matAt c src q.1 j).2.2
    let vals := fun row head => (upto g.dim).map (val row head)
    let s' :=
      if !roleV then
        foldS good (fun s q => foldS (upto g.heads) (fun s h => s.putK c layer h (q.2.1 % 64) q.2.2.page (vals q.1 h) rtz) s) s
      else if !g.mx then
        foldS good (fun s q => foldS (upto g.heads) (fun s h => s.putV c layer h (q.2.1 % 64) q.2.2.page (vals q.1 h) rtz) s) s
      else
        -- the blocks of 32 positions the rows fall in, each once
        let keys := (good.map fun q => (q.2.2.page, q.2.1 % 64 / 32)).eraseDups
        foldS keys (fun s kb => foldS (upto g.heads) (fun s h => foldS (upto g.dim) (fun s j =>
          s.putVBlock c layer h j kb.1 kb.2 ((upto 32).map fun i =>
            (good.find? fun q => q.2.2.page = kb.1 && q.2.1 % 64 = 32 * kb.2 + i).map fun q => val q.1 h j)) s) s) s
    (s'.poisonRun c poison).listFaulted c n op bad

/-! ### Distance bias and masks (07, R166-R171) -/

/-- Smallest integer at or above `64 2^(j/16)`: the sixteenth root of `64^16 2^j` rounded up. -/
def rootUp (x : Nat) : Nat → Nat → Nat
  | 0, r => r
  | n + 1, r => rootUp x n (if (r + 2 ^ n) ^ 16 < x then r + 2 ^ n else r)
def bucketT (j : Nat) : Nat := rootUp (64 ^ 16 * 2 ^ j) 24 0 + 1
/-- Bucket of a distance (R167). -/
def bucket (g : Nat) : Nat := if g < 64 then g else 63 + ((upto 192).filter fun j => decide (bucketT j ≤ g)).length

/-- What one attention unit works on, read once. -/
structure AtnUnit where
  d : Nat := 0
  g : Nat := 1
  qb : Nat := 1
  kvFmt : Nat := 1
  pFmt : Nat := 1
  flags : Nat := 0
  tau : Word := 0
  maxKeys : Nat := 0
  window : Nat := 0
  seg : Nat := 1
  pvAnchor : Int := 0
  layer : Nat := 0
  nb : Nat := 1
  /-- query position of query position 0; active positions; prefix length; key count, cut at MAX_KEYS -/
  first : Nat := 0
  active : Nat := 0
  pfx : Nat := 0
  keys : Nat := 0
  head : Nat := 0
  /-- FP32 bias at (query head, backward?, bucket), and its poison -/
  bias : Nat → Bool → Nat → Word × Bool
  /-- global positions -/
  globals : List Nat := []
  /-- sparse bitmap bit of (query group, key block) -/
  sparse : Nat → Nat → Bool

def AtnUnit.causal (u : AtnUnit) : Bool := u.flags.testBit 0
def AtnUnit.prefixed (u : AtnUnit) : Bool := u.flags.testBit 1
def AtnUnit.windowed (u : AtnUnit) : Bool := u.flags.testBit 2
def AtnUnit.hasGlobal (u : AtnUnit) : Bool := u.flags.testBit 3
def AtnUnit.blockSparse (u : AtnUnit) : Bool := u.flags.testBit 4
def AtnUnit.biased (u : AtnUnit) : Bool := u.flags.testBit 5
def AtnUnit.biasSym (u : AtnUnit) : Bool := u.flags.testBit 6

/-- Query position and query head of column `j`: position by position, the heads of one position together (log 31). -/
def AtnUnit.colPos (u : AtnUnit) (j : Nat) : Nat := u.first + j / u.g
def AtnUnit.colHead (u : AtnUnit) (j : Nat) : Nat := u.head * u.g + j % u.g
def AtnUnit.colActive (u : AtnUnit) (j : Nat) : Bool := decide (j / u.g < u.active)

/-- Do CAUSAL with PREFIX and the length rule keep the score (R168)? -/
def AtnUnit.orderKeeps (u : AtnUnit) (q k : Nat) : Bool :=
  decide (k < u.keys) &&
  (!u.causal || decide (k ≤ q) || (u.prefixed && decide (q < u.pfx) && decide (k < u.pfx)))
/-- Do all enabled rules keep it in a window block (R168)? -/
def AtnUnit.keeps (u : AtnUnit) (q k : Nat) : Bool :=
  u.orderKeeps q k &&
  (!u.windowed || (if u.causal then decide (q < k + u.window) else decide (q < k + u.window) && decide (k < q + u.window))) &&
  (!u.blockSparse || u.sparse (q / 64) (k / 128))
/-- In the global block: kept unless a window block keeps it (R169). -/
def AtnUnit.keepsGlobal (u : AtnUnit) (q k : Nat) : Bool := u.orderKeeps q k && !u.keeps q k

/-- Distance bias of a column at key `k`, and its poison (R166, R167). -/
def AtnUnit.biasAt (u : AtnUnit) (j k : Nat) : Word × Bool :=
  if !u.biased then (fZero, false)
  else
    let q := u.colPos j
    let g := if k ≤ q then q - k else k - q
    u.bias (u.colHead j) (!u.biasSym && decide (q < k)) (min (bucket g) (u.nb - 1))

/-! ### Fold and combine (R161) -/

/-- A record being folded. -/
structure AtnCol where
  m : Word := fNinf
  l : Word := fZero
  o : List Word := []
  poison : Bool := false
  charge : Charge := {}

/-- One key block folded into a column: keys and their kept scores, P in P_FMT, and the P V product. -/
def AtnUnit.fold (u : AtnUnit) (op : Nat) (r : AtnCol) (z : List Word) (v : Nat → Nat → Elem) : AtnCol :=
  let mb := redMax z
  let m := fMax r.m mb
  if m = fNinf then r
  else
    let a := sfu .exp (fSub r.m m)
    let e := z.map fun zi => sfu .exp (fSub zi m)
    let mx := u.pFmt == 3
    let p : List (Val × Option Int) :=
      if mx then
        (upto 4).flatMap fun b =>
          let (sc, els) := mxQuantise 3 (((e.drop (32 * b)).take 32).map Word.val)
          els.map fun x => (e4m3.decode x, scaleExp sc)
      else e.map fun x => (fmtVal u.pFmt (fmtConvert u.pFmt false false (Word.val x)), some 0)
    let float := fun (q : Val × Option Int) => match q.2 with
      | some x => toFp32 (q.1.scale x)
      | none => toFp32 .nan
    let lb := redSum (p.map float)
    let parts := (upto u.d).map fun j => seamDot u.pvAnchor mx
      (fun i => let q := p.getD i default; (q.1, q.2, false)) (fun i => v j i) 128
    let pv := parts.map fun t =>
      let x : Acc := { sum := t.sum, cls := t.cls }
      BitVec.ofNat 32 (outConvert 0xD false (x.val u.pvAnchor 0)).1
    let sat := parts.any fun t =>
      let x : Acc := { sum := t.sum, cls := t.cls }
      (outConvert 0xD false (x.val u.pvAnchor 0)).2
    { m, l := fFma a r.l lb, o := ((upto u.d).map fun j => fFma a (r.o.getD j fZero) (pv.getD j fZero))
      poison := r.poison || parts.any (·.poison)
      charge := (r.charge.join ((parts.map fun t => t.charge op).foldl Charge.join {})).join
        { seam := if sat then outSat else 0, seamOp := some op } }

/-- Two records together. -/
def combineCol (d : Nat) (r1 r2 : AtnCol) : AtnCol :=
  let m := fMax r1.m r2.m
  let bad := r1.poison || r2.poison
  if m = fNinf then { r1 with poison := bad }
  else
    let a1 := sfu .exp (fSub r1.m m)
    let a2 := sfu .exp (fSub r2.m m)
    { m, l := fFma a1 r1.l (fMul a2 r2.l), poison := bad
      o := (upto d).map fun j => fFma a1 (r1.o.getD j fZero) (fMul a2 (r2.o.getD j fZero)) }

/-- The result row of a column (R161), whether its sum is empty, and whether it is NaN. -/
def finishCol (d fmt : Nat) (rtz : Bool) (r : AtnCol) : List Nat × Bool × Bool :=
  if r.l = fZero then (List.replicate d 0, true, false)
  else
    let q := sfu .recip r.l
    ((upto d).map fun j => fmtConvert fmt rtz false (Word.val (fMul (r.o.getD j fZero) q)), false, fNan r.m)

/-! ### One unit (R162, R164, R175, R176) -/

/-- Key `k` of row `i` of the snapshot: page and position in it. -/
def keyAt (r : StepRec) (i k : Nat) : ListEnt × Nat := (r.ent i (k / 64), k % 64)

/-- The K row component and V component of key `k`, as the M engine reads them. -/
def State.kElem (s : State) (c : Nat) (r : StepRec) (i layer head k j : Nat) : Elem :=
  let g := s.geom c
  let (e, p) := keyAt r i k
  let a := pageKey e.page (g.kOff layer head p j)
  let sk := pageKey e.page (g.kScaleOff layer head p (j / 32))
  (fmtVal g.fmt (s.mem.leAt a g.e), if g.mx then scaleExp (s.mem.leAt sk 1) else some 0,
   s.mem.poisoned a || (g.mx && s.mem.poisoned sk))
def State.vElem (s : State) (c : Nat) (r : StepRec) (i layer head k j : Nat) : Elem :=
  let g := s.geom c
  let (e, p) := keyAt r i k
  let a := pageKey e.page (g.vOff layer head p j)
  let sk := pageKey e.page (g.vScaleOff layer head j (p / 32))
  (fmtVal g.fmt (s.mem.leAt a g.e), if g.mx then scaleExp (s.mem.leAt sk 1) else some 0,
   s.mem.poisoned a || (g.mx && s.mem.poisoned sk))

/-- Bytes of the sparse bitmap of an ATTENTION operation as memory holds them (R168). -/
def State.readSparse (s : State) (c op : Nat) : List Byte :=
  let d := imgDesc (s.runImage c) op
  let k := (((s.ctx c).steps.getLast?).map (·.k)).getD 0
  if (lb d 2 1).testBit 4 then
    s.mem.bytesAt (placeKey c (s.bufPlace c (lb d 32 2) k) 0) (cdiv (lb d 12 4) 64 * cdiv (lb d 12 4) 1024)
  else []

/-- The unit of operation `op`, table entry `i` and KV head `head` (R172, R173); the sparse bitmap is the one that the
operation has read (R168). -/
def State.atnUnit (s : State) (c : Nat) (r : StepRec) (op i head : Nat) : AtnUnit :=
  let d := imgDesc (s.runImage c) op
  let e := (s.stepTable c r).getD i {}
  let bits := s.atn.sparse.get op
  let place := fun off id => placeKey c (s.bufPlace c id r.k) off
  let maxKeys := lb d 12 4
  let nb := lb d 23 1 + 1
  let sym := (lb d 2 1).testBit 6
  let count := if e.slot = 0xFFFF then 0 else r.keyCount e.slot
  let listId := lb d 30 2
  let listLen := min 128 (((imgBuf (s.runImage c) listId).map bufSize).getD 0 / 4)
  { d := lb d 4 2, g := lb d 6 1, qb := lb d 7 1, kvFmt := lb d 0 1, pFmt := lb d 1 1, flags := lb d 2 1
    tau := BitVec.ofNat 32 (lb d 8 4), maxKeys, window := lb d 16 2, seg := lb d 18 2
    pvAnchor := signedOf 16 (lb d 20 2), layer := lb d 22 1, nb, head
    first := e.first, active := if e.slot = 0xFFFF then 0 else e.active, pfx := e.pfx, keys := min count maxKeys
    bias := fun h back b =>
      let k := place (4 * (((if sym then h else 2 * h + b2n back)) * nb + b)) (lb d 28 2)
      (BitVec.ofNat 32 (s.mem.leAt k 4), s.mem.poisoned k)
    globals := if (lb d 2 1).testBit 3 then (upto listLen).map fun j => s.mem.leAt (place (4 * j) listId) 4 else []
    sparse := fun q k => (bits.getD (q * cdiv maxKeys 1024 + k / 8) 0).getLsbD (k % 8) }

/-- Key positions of segment `g`: blocks of 128, or the global block for index 0; a position at or beyond the key count
is a masked place. -/
def AtnUnit.segBlocks (u : AtnUnit) (g : Nat) : List (List Nat) :=
  if g = 0 then (if u.hasGlobal then [u.globals ++ List.replicate (128 - u.globals.length) u.maxKeys] else [])
  else ((upto u.seg).map fun b => (g - 1) * u.seg + b).filterMap fun b =>
    if 128 * b < u.keys then some ((upto 128).map fun i => 128 * b + i) else none

/-- The record of column `j` over segment `g`. -/
def State.segRecord (s : State) (c : Nat) (r : StepRec) (u : AtnUnit) (i op : Nat) (A : Int) (q : MatRef) (g j : Nat) : AtnCol :=
  (u.segBlocks g).foldl (fun col ks =>
    let scores := ks.map fun k =>
      let live := decide (k < u.keys)
      let t := if live then
          seamDot A (fmtMx q.fmt && u.kvFmt == 3) (s.kElem c r i u.layer u.head k) (s.matAt c q j) u.d
        else {}
      let x : Acc := { sum := t.sum, cls := t.cls }
      let (b, sat) := outConvert 0xD false (x.val A 0)
      let (bias, bad) := if live then u.biasAt j k else (fZero, false)
      let z := fFma (BitVec.ofNat 32 b) u.tau bias
      let kept := if g = 0 then u.keepsGlobal (u.colPos j) k else u.keeps (u.colPos j) k
      (if kept then z else fNinf, { t with poison := t.poison || bad }, sat && live)
    let h := (scores.map fun t => (t.2.1.charge op).join { seam := if t.2.2 then outSat else 0, seamOp := some op }).foldl Charge.join {}
    let bad := scores.any fun t => t.2.1.poison
    let col := { col with poison := col.poison || bad, charge := col.charge.join h }
    u.fold op col (scores.map Prod.fst) fun comp n =>
      let k := ks.getD n 0
      if k < u.keys then s.vElem c r i u.layer u.head k comp else (.fin false 0 0, some 0, false))
    { o := List.replicate u.d fZero }

/-- Pages with a poisoned word among those a unit reads. -/
def State.poisonedPages (s : State) (r : StepRec) (u : AtnUnit) (i : Nat) (segs : List Nat) : List Nat :=
  let pages := ((segs.flatMap fun g => (u.segBlocks g).flatMap id).filter (· < u.keys)).map fun k => (r.ent i (k / 64)).page
  pages.eraseDups.filter fun p => s.mem.poison.any fun e => decide (pageKey p 0 / 8 ≤ e.1) && decide (e.1 < pageKey (p + 1) 0 / 8)

/-- Where a unit may run: in PRESS_GRID the query blocks go to core columns, one segment to a core, and the combination to the
output edge; in SPLIT_UNITS the unit table names the core (R175, R176).  Eight consecutive entries make a pass (log 134). -/
def State.atnPlaced (s : State) (c n : Nat) : Work → Bool
  | .attn op entry _ lo hi final _ _ =>
    lb (imgDesc (s.runImage c) op) 3 1 != 1 || (n % 8 == entry % 8 && decide (hi ≤ lo) && (!final || decide (56 ≤ n)))
  | _ => true

/-- ATTENTION unit: records of the segments `lo..hi` of entry `i` and head `head`; a final unit combines all records of
the sequence in segment order, normalises and writes its columns.  The score anchor, output format and rounding are those of
the OPLIST entry, the rest is the descriptor's (R164, R172). -/
def State.doAttn (s : State) (c n op i head lo hi : Nat) (final : Bool) (q : MatRef) (out : Place) : State :=
  match (s.ctx c).steps.getLast? with
  | none => s
  | some r =>
    let A := opAnchor (s.opEntry c op)
    let fmt := opFmtOut (s.opEntry c op)
    let rtz := opRtz (s.opEntry c op)
    let q := s.operandA c op q
    let u := s.atnUnit c r op i head
    let e := (s.stepTable c r).getD i {}
    let segs := (upto (hi + 1 - lo)).map (lo + ·)
    let cols := upto (u.g * u.qb)
    let live := cols.filter u.colActive
    let used := e.slot ≠ 0xFFFF
    -- checks of the walker, for positions below the key count that the segments hold
    let ents := (((segs.flatMap fun g => (u.segBlocks g).flatMap id).filter (· < u.keys)).map (· / 64)).eraseDups
    let bad := used && ents.any fun j => s.listFault c (r.ent i j)
    let tooMany := used && decide (u.maxKeys < r.keyCount e.slot)
    let s := if tooMany then
        ({ s with atn := { s.atn with flags := s.atn.flags.upd c (· ||| 8) } } : State).opFault c n op
      else s
    if bad then s.listFaulted c n op true
    else
      -- columns that are not active count in no counter (R174)
      let blocks := if live.isEmpty then 0 else ((segs.map fun g => (u.segBlocks g).length)).foldl (· + ·) 0
      let recs := live.flatMap fun j => segs.map fun g => (j, g, s.segRecord c r u i op A q g j)
      let pages := s.poisonedPages r u i segs
      let seam := (recs.map fun t => t.2.2.charge).foldl Charge.join {}
      let keep := recs.map fun t =>
        ({ ctx := c, op, entry := i, head, seg := t.2.1, col := t.1, m := t.2.2.m, l := t.2.2.l, o := t.2.2.o, poison := t.2.2.poison } : AtnRec)
      let mine := fun (x : AtnRec) => x.ctx == c && x.op == op && x.entry == i && x.head == head
      let bad := recs.any fun t => t.2.2.poison
      let s := foldS pages (fun s p => if bad then s.latchPoison c p else s) s
      let s := s.chargeRun c (seam.join { blocks, atn := if bad then 4 else 0, atnOp := some op })
      let s := (s.poisonOut n bad).poisonRun c bad
      if !final then { s with atn := { s.atn with records := s.atn.records ++ keep } }
      else
        let all := s.atn.records.filter mine ++ keep
        let s : State := { s with atn := { s.atn with records := s.atn.records.filter fun x => !mine x } }
        let top := (all.map fun x => x.seg).foldl max 0
        let res := cols.map fun j =>
          if !u.colActive j then (List.replicate u.d 0, false, false, false)
          else
            let rs := (upto (top + 1)).map fun g => match all.find? fun x => x.seg = g && x.col = j with
              | some x => ({ m := x.m, l := x.l, o := x.o, poison := x.poison } : AtnCol)
              | none => { o := List.replicate u.d fZero }
            let t := (treeUp (combineCol u.d) 16 rs).headD {}
            let (row, empty, nan) := finishCol u.d fmt rtz t
            (row, empty, nan, t.poison)
        let w := fmtBits fmt
        let pitch := rowBytes fmt u.d
        let s := s.updMem fun m => (res.zip cols).foldl (fun m t =>
          m.putRow (placeKey c out (t.2 * pitch)) w (t.1.1.map fun x => (x, t.1.2.2.2))) m
        let empties := (res.filter fun t => t.2.1).length
        let flags : BitVec 4 := (if empties = 0 then 0 else 1) ||| (if res.any fun t => t.2.2.1 then 2 else 0) |||
          (if res.any fun t => t.2.2.2 then 4 else 0)
        let bad := res.any fun t => t.2.2.2
        ((s.chargeRun c { atn := flags, atnOp := some op, emptyRows := empties }).poisonOut n bad).poisonRun c bad

end Sys2Proof.Machine
end

