-- ==== Sys2Proof/Machine/Ecc.lean ====
section
/-!
DEFINITION. The device map and the protection code (12, R310, R317-R319, R327): the place of a device address, what a read that
meets errors counts, and what it delivers.
-/
namespace Sys2Proof.Machine

/-! ### Places in the device map -/

/-- Context and virtual page that a frame is mapped to (R328). -/
def State.frameOwner (s : State) (f : Nat) : Option (Nat × Nat) :=
  s.mem.xlat.findSome? fun e =>
    if e.2.valid && e.2.frame.toNat == f then
      (allCtxs.find? fun c => decide ((s.ctx c).mmuBase ≤ e.1) && decide (e.1 < (s.ctx c).mmuBase + (s.ctx c).mmuSize)).map
        fun c => (c, e.1 - (s.ctx c).mmuBase)
    else none

/-- KV page whose granules hold an HBM address (08, R188). -/
def State.granulePage (s : State) (addr : Nat) : Option Nat :=
  (s.kvp.dir.find? fun e => match e.2.owner with
    | none => false
    | some c => decide (e.2.base.toNat * 16384 ≤ addr) && decide (addr < (e.2.base.toNat + (s.ctx c).granules) * 16384)).map Prod.fst

/-- Bytes of HBM. -/
def hbmBytes : Nat := 0x003000000000

/-- Key of a device address: what is mapped there, or the place itself (log 5). -/
def State.deviceKey (s : State) (addr : Nat) : Nat :=
  if hbmBytes ≤ addr then addr
  else match s.frameOwner (addr / pageBytes) with
    | some (c, v) => ctxKey c (v * pageBytes + addr % pageBytes)
    | none => match s.granulePage addr with
      | some p => pageKey p (addr - (s.page p).base.toNat * 16384)
      | none => addr

/-- Does an address lie in the memory of a kind (R310, R344)? -/
def kindHas (kind addr : Nat) : Bool :=
  match kind with
  | 0 => decide (addr < hbmBytes)
  | 1 => decide (0x004100000000 ≤ addr) && decide (addr < 0x004110000000) && decide (addr % 0x400000 < 0x300000)
  | 2 => decide (0x004000000000 ≤ addr) && decide (addr < 0x004006000000)
  | _ => decide (0x004200000000 ≤ addr) && decide (addr < 0x004202000000)

/-! ### Reads that meet errors -/

/-- Words of the unit's memory that an uncorrectable word poisons: both of its 16-byte block in HBM (R327). -/
def ueWords (kind addr : Nat) : List Nat := if kind = 0 then [addr / 16 * 16, addr / 16 * 16 + 8] else [addr]

/-- What a read of a codeword counts and latches (R318). -/
def State.eccCount (s : State) (kind addr : Nat) : EccHit → State
  | .clean => s
  | .single => s.bump (0x700100 + 0x20 * kind)
  | .double => s.bump (0x700108 + 0x20 * kind)
  | .uncorrectable =>
    let s := s.bump (0x700110 + 0x20 * kind)
    let s := s.updMem fun m => { m with ueAddr := some (kind, addr) }
    let s := s.updTel fun t => { t with ueTotal := t.ueTotal.upd kind (· + 1) }
    s.lifetime 0x0040 [kind, addr]
  | .miscorrected => s

/-- The read names a word of its memory. -/
def EccRead.real (e : EccRead) : Bool := kindHas e.kind.val e.addr && decide (e.addr % 8 = 0)

/-- One read on the compute path: a word poisoned already is not counted again (R319); the keys of the words it delivers
poisoned, and of the word it delivers wrong, with its bytes. -/
def State.eccRead (s : State) (e : EccRead) : State × List Nat × List (Nat × List Byte) :=
  let key := s.deviceKey e.addr
  if s.mem.poisoned key then (s, [], [])
  else
    let t := s.eccCount e.kind.val e.addr e.hit
    match e.hit with
    | .uncorrectable => (t, (ueWords e.kind.val e.addr).map s.deviceKey, [])
    | .miscorrected => let (d, t) := t.draw; (t, [], [(key, (upto 8).map fun i => (Config.bytes d 8).getD i 0)])
    | _ => (t, [], [])

def State.eccReads (s : State) : List EccRead → State × List Nat × List (Nat × List Byte)
  | [] => (s, [], [])
  | e :: es =>
    let (s, p, w) := s.eccRead e
    let (s, ps, ws) := s.eccReads es
    (s, p ++ ps, w ++ ws)

/-- Run `f`, accesses of the compute path, with the errors that its reads meet.  Memory itself stays as it was but for what `f`
writes (R319). -/
def State.reading (s : State) (es : List EccRead) (f : State → State) : State :=
  let (s, bad, wrong) := s.eccReads (es.filter EccRead.real)
  let was := (bad ++ wrong.map Prod.fst).map fun k => (k, s.mem.bytesAt k 8, s.mem.poisoned k)
  let s := s.updMem fun m => wrong.foldl (fun m e => m.putAll e.1 e.2) (bad.foldl (fun m k => m.setPoison k true) m)
  let met := was.map fun e => s.mem.bytesAt e.1 8
  (f s).updMem fun m => (was.zip met).foldl (fun m e =>
    if m.bytesAt e.1.1 8 = e.2 then (m.putAll e.1.1 e.1.2.1).setPoison e.1.1 e.1.2.2 else m) m

end Sys2Proof.Machine
end

