-- ==== Sys2Proof/Machine/Power.lean ====
section
/-!
DEFINITION. The power controller, the cabinet's signals, the rack manager and the POWER commands (18, R496-R507).
-/
namespace Sys2Proof.Machine

/-! ### The effective limit (R497) -/

/-- Start-up or recovery held by the 105 °C rule (R511). -/
def State.startHeld (s : State) : Bool :=
  s.pwr.dozeThermal && (s.glb.state == .init || s.glb.state == .recovery)

/-- The limits active now with their LIMIT codes (R497, R515), in W. -/
def State.limits (s : State) : List (Nat × Nat) :=
  let p := s.pwr
  [(p.cap, 0)] ++ (if p.orphan then [(p.orphanCap, 2)] else []) ++ (if p.coolant then [(120, 3)] else []) ++
  (p.thermalW.toList.map fun w => (w, 4)) ++ (if s.startHeld then [(120, 4)] else []) ++
  (if p.warn then [(p.warnCap, 5)] else []) ++ (if p.brake then [(120, 6)] else [])

/-- The least of them: watts and code; the first of equals. -/
def State.effLimit (s : State) : Nat × Nat :=
  s.limits.foldl (fun b l => if l.1 < b.1 then l else b) (s.pwr.cap, 0)

/-- PWR_TRACK_MS (R501). -/
def State.trackMs (s : State) : Nat :=
  let lim := s.effLimit.1 * 1000
  if s.pwr.ceilMw ≤ lim then 0 else (s.pwr.ceilMw - lim + s.pwr.down * 1000 - 1) / (s.pwr.down * 1000)

/-- PWR_INPUT_W: the input averaged over 1 ms, 0.1 W, rounded down (R514). -/
def State.inputAvg (s : State) : Nat :=
  if s.pwr.samples.isEmpty then 0 else s.pwr.samples.foldl (· + ·) 0 / s.pwr.samples.length

/-- PWR_STATUS (R515). -/
def State.pwrStatus (s : State) : Nat :=
  let p := s.pwr
  2 ^ 31 * b2n (decide (s.effLimit.1 * 1000 < p.ceilMw)) + 2 ^ 30 * b2n p.brake + 2 ^ 29 * b2n p.warn + 2 ^ 28 * b2n p.coolant +
  2 ^ 27 * b2n p.throttle + 2 ^ 26 * b2n p.orphan + 2 ^ 25 * b2n p.orphanHold + 2 ^ 24 * b2n p.steam +
  2 ^ 23 * b2n p.dutyHold + 2 ^ 22 * b2n p.dozeThermal + 2 ^ 16 * p.limit

/-- PWR_HB_AGE_MS (R514). -/
def State.hbAge (s : State) : Nat :=
  match s.pwr.lastBeat with
  | none => 0xFFFFFFFF
  | some t => min 0xFFFFFFFF ((s.time - t) / msNs)

/-! ### Clocks under the controller (R495, R499; 04, R99, R100) -/

/-- Are the quadrants powered and locked? -/
def State.quadsOn (s : State) : Bool := (s.clk.lock &&& 0x0F) == 0x0F

/-- Change the quadrants: in Press, while a step runs, all four at the next Press operation boundary (04, R100). -/
def State.moveQuads (s : State) (qs : List Nat) : State :=
  let running := match s.arr.cur with | some c => (s.ctx c).running | none => false
  if s.arr.mode = .press && running then s.updPwr fun p => { p with pressTo := some (qs.foldl min (qs.headD 0)) }
  else s.stepQuads qs

/-- Index of the first element equal to `m`. -/
def firstOf (l : List Nat) (m : Nat) : Nat := l.findIdx (· == m)

/-- One step of 25 MHz down: the highest quadrant in Split, all four in Press. -/
def State.lowerQuads (s : State) : State :=
  let qs := s.quads
  let hi := qs.foldl max 0
  if hi = 0 then s
  else if s.arr.mode = .press then s.moveQuads (qs.map (· - 1))
  else s.moveQuads (qs.set (firstOf qs hi) (hi - 1))

/-- One step of 25 MHz up: the lowest quadrant in Split, all four in Press. -/
def State.raiseQuads (s : State) : State :=
  let qs := s.quads
  let lo := qs.foldl min (qs.headD 0)
  if 42 ≤ lo then s
  else if s.arr.mode = .press then s.moveQuads (qs.map fun n => min 42 (n + 1))
  else s.moveQuads (qs.set (firstOf qs lo) (lo + 1))

/-! ### The tick (R498-R501) -/

/-- STEAM_MAX in mW at the input (R500). -/
def steamMax : Int := 480000

/-- POWER_CONTROLLER_TICK: the ceiling, what the load may rise and fall to, and the means to hold it there.  One clock step
a tick, and whether it raises a clock, are choices of the model (log 14); steam runs when the load has sunk to what the
tick before let it sink to (log 122). -/
def execPowerControllerTick (inputDw thermalW : Nat) (s : State) : Host.Outcome State Fault Refusal :=
  if !s.board.powered then .next s
  else
    let p := inputDw * 100
    let prev := (s.pwr.samples.headD inputDw) * 100
    let s := s.updPwr fun w =>
      { w with samples := (inputDw :: w.samples).take 100, inputDw, thermalW := if w.throttle then some thermalW else none }
    let s := s.updClk fun k => { k with pllBusy := 0 }
    let s := s.updTel fun t =>
      { t with energyUj := t.energyUj + inputDw, hotTicks := t.hotTicks + b2n (decide ((s.pwr.tThrottle : Int) < s.pwr.hottest)) }
    let (lim, code) := s.effLimit
    let forced := s.pwr.brake || decide (s.time < s.pwr.forcedEnd)
    let down := s.pwr.down * 10
    let up := s.pwr.up * 10
    let ceil := if forced then 120000 else max (lim * 1000) (s.pwr.ceilMw - down)
    let hold : Int := if forced then 0 else min ((p : Int) - down) steamMax
    let allow := min ceil (p + up)
    let shed := !forced && decide (480000 < (prev : Int) - down) && decide ((p : Int) < prev - down)
    let doze := s.glb.state == .doze
    let allLow := s.quads.all (· == 0)
    let s := s.updPwr fun w =>
      { w with
        ceilMw := ceil, allowMw := allow, holdMw := hold
        events := if shed then w.events ||| 0x40 else w.events
        dutyHold := s.quadsOn && allLow && decide (allow < p)
        steam := s.quadsOn && !forced && decide (0 < w.holdMw ∧ (p : Int) ≤ w.holdMw)
        limit := if doze then 7
          else if forced then (if w.brake then 6 else 5)
          else if p < allow then 8
          else if allow < ceil || lim * 1000 < ceil then 1
          else code }
    if !s.quadsOn then .next s
    else if allow < p then .next s.lowerQuads
    else
      let (k, s) := s.draw
      if (Config.pick k 1).val = 1 && decide (p < allow) then .next s.raiseQuads else .next s

/-- PMBUS_TELEMETRY (R496). -/
def execPmbusTelemetry (vin iin pin temp : Word) (s : State) : Host.Outcome State Fault Refusal :=
  if s.board.powered then .next (s.updPwr fun p => { p with vin, iin, pin, ptemp := temp }) else .next s

/-! ### Cabinet signals (R502, R503) -/

/-- All quadrants step together at once to their lowest clock (04, R100). -/
def State.dropQuads (s : State) : State :=
  if s.quadsOn then s.stepQuads [0, 0, 0, 0] else s

/-- BRAKE_ASSERT. -/
def execBrakeAssert (s : State) : Host.Outcome State Fault Refusal :=
  if s.pwr.brake then .next s
  else if !s.board.powered then .next (s.updPwr fun p => { p with brake := true })
  else
    let s := s.updPwr fun p => { p with brake := true, events := p.events ||| 0x02 }
    let s := (s.updTel fun t => { t with brakes := t.brakes + 1 }).bump (pwrBase + 0x28)
    .next (s.dropQuads.doorbell 0 14)

/-- BRAKE_RELEASE. -/
def execBrakeRelease (s : State) : Host.Outcome State Fault Refusal :=
  .next (s.updPwr fun p => { p with brake := false })

/-- PWR_WARN_ASSERT: forced for the first 50 µs, then under WARN_CAP. -/
def execPwrWarnAssert (s : State) : Host.Outcome State Fault Refusal :=
  if s.pwr.warn then .next s
  else if !s.board.powered then .next (s.updPwr fun p => { p with warn := true })
  else
    let s := s.updPwr fun p => { p with warn := true, events := p.events ||| 0x04, forcedEnd := s.time + 50 * usNs }
    let s := (s.updTel fun t => { t with warns := t.warns + 1 }).bump (pwrBase + 0x30)
    .next (s.dropQuads.doorbell 0 14)

/-- PWR_WARN_RELEASE. -/
def execPwrWarnRelease (s : State) : Host.Outcome State Fault Refusal :=
  .next (s.updPwr fun p => { p with warn := false })

/-- COOLANT_FAULT: flow absent for 50 ms, or the inlet above INLET_MAX for 1 s. -/
def execCoolantFault (flow : Bool) (inlet : Int) (s : State) : Host.Outcome State Fault Refusal :=
  let bad := !flow || decide ((s.pwr.inletMax : Int) < inlet)
  if !s.board.powered then .next (s.updPwr fun p => { p with coolant := p.coolant || bad })
  else
    let s := (s.updPwr fun p => { p with inlet }).updTel fun t => { t with peakInlet := max t.peakInlet inlet }
    if s.pwr.coolant || !bad then .next s
    else
      let s := s.updPwr fun p => { p with coolant := true, events := p.events ||| 0x08 }
      .next ((s.lifetime 0x0061 [b2n flow, (inlet % 256).toNat]).doorbell 0 14)

/-- COOLANT_FAULT_CLEAR: both conditions have been clear for 10 s. -/
def execCoolantFaultClear (flow : Bool) (inlet : Int) (s : State) : Host.Outcome State Fault Refusal :=
  if !s.board.powered then
    .next (s.updPwr fun p => { p with coolant := p.coolant && !(flow && decide (inlet ≤ p.inletMax)) })
  else
    let s := s.updPwr fun p => { p with inlet }
    if flow && decide (inlet ≤ s.pwr.inletMax) then .next (s.updPwr fun p => { p with coolant := false }) else .next s

/-! ### Die sensors (R504, R511) -/

/-- A sensor at 105 °C, by the module's state (R511). -/
def State.thermalAct (s : State) : State :=
  match s.glb.state with
  | .ready | .quiesced | .draining | .suspect => if s.glb.dozeEntering && s.pwr.dozeThermal then s else s.enterDoze true
  | .init => (s.updPwr fun p => { p with dozeThermal := true, events := p.events ||| 1 }).updGlb fun g =>
      { g with thermalHeld := true }
  | .recovery => s.updPwr fun p => { p with dozeThermal := true, events := p.events ||| 1 }
  | .clockHold => s
  | .doze => s

/-- DIE_SENSOR_READ: the sixteen sensors. -/
def execDieSensorRead (temps : List Int) (s : State) : Host.Outcome State Fault Refusal :=
  if !s.board.powered || temps.length ≠ 16 then .next s
  else
    let hot := temps.foldl max (temps.headD 0)
    let idx := temps.findIdx (· == hot)
    if 115 ≤ hot then .next (s.openSwitch .thermalTrip)
    else
      let s := s.updTel fun t => { t with peakDie := max t.peakDie hot }
      let s := s.updPwr fun p =>
        let th := decide ((p.tThrottle : Int) < hot) || (p.throttle && decide ((p.tThrottle : Int) ≤ hot))
        { p with
          hottest := hot, hotIndex := idx, throttle := th
          events := if th && !p.throttle then p.events ||| 0x10 else p.events
          thermalW := if th then p.thermalW else none
          coldSince := if hot ≤ 85 then some (p.coldSince.getD s.time) else none }
      if 105 ≤ hot then .next s.thermalAct else .next s

/-! ### The rack manager (R505) -/

/-- A heartbeat. -/
def State.beat (s : State) : State :=
  s.updPwr fun p => { p with lastBeat := some s.time, orphanArmed := true, orphanHold := false, orphan := false }

/-- HEARTBEAT_LOSS: 2 s without one. -/
def execHeartbeatLoss (s : State) : Host.Outcome State Fault Refusal :=
  let since := s.pwr.lastBeat.getD s.pwr.orphanSince
  if s.board.powered && s.pwr.orphanArmed && !s.pwr.orphanHold && !s.pwr.orphan && decide (since + 2 * secNs ≤ s.time) then
    .next (s.updPwr fun p => { p with orphanHold := true, orphanSince := s.time, events := p.events ||| 0x20 })
  else .next s

/-- ORPHAN: 60 s more. -/
def execOrphan (s : State) : Host.Outcome State Fault Refusal :=
  if s.board.powered && s.pwr.orphanHold && !s.pwr.orphan && decide (s.pwr.orphanSince + 60 * secNs ≤ s.time) then
    let s := s.updPwr fun p => { p with orphan := true }
    .next (((s.bump (pwrBase + 0x38)).doorbell 0 14).lifetime 0x0062 [])
  else .next s

/-! ### POWER_SET and POWER_QUERY (R506, R507) -/

/-- A POWER command: any that arrives on MCTP counts as a heartbeat, whatever it completes with (R505). -/
def State.powerRow (s : State) (c : Cmd) (opcode : Nat) (sel : Cmd → Bool) (body : State → Verdict) : State :=
  if sel c && c.opcode == opcode && c.ring.val == 8 && s.fetchable c then s.beat.subRow c opcode sel [] body
  else s.subRow c opcode sel [] body

/-- Is PERSIST set? -/
def Cmd.persist (c : Cmd) : Bool := (c.byte 17).getLsbD 0

/-- Change the settings record if the command says so (R506). -/
def State.keepSettings (s : State) (c : Cmd) (f : Settings → Settings) : State :=
  if Cmd.persist c then { s with settings := f s.settings } else s

/-- Out of a closed range. -/
def outOf (lo hi n : Nat) : Bool := decide (n < lo) || decide (hi < n)

/-- The rule of byte 17 that every POWER_SET shares: bit 0 PERSIST. -/
def persistRule (c : Cmd) : Bool × Nat := (decide (1 < (c.byte 17).toNat), 17)

/-- SET_CAP. -/
def execSetCap (c : Cmd) (s : State) : Host.Outcome State Fault Refusal :=
  .next <| s.powerRow c 0x60 (fun c => (c.byte 16).toNat == 0 || decide (5 < (c.byte 16).toNat)) fun s =>
    let w := c.le 20 2
    params s c [(16, 17), (20, 21)] [(decide (5 < (c.byte 16).toNat), 16), persistRule c, (outOf 120 640 w, 20)] <|
    let s := s.updPwr fun p => { p with cap := w }
    .reply (s.keepSettings c fun g => { g with cap := w }) (.of stOk)

/-- SET_RAMP. -/
def execSetRamp (c : Cmd) (s : State) : Host.Outcome State Fault Refusal :=
  .next <| s.powerRow c 0x60 (fun c => (c.byte 16).toNat == 1) fun s =>
    let up := c.le 22 2
    let down := c.le 24 2
    params s c [(16, 17), (22, 25)] [persistRule c, (outOf 1 100 up, 22), (outOf 1 100 down, 24)] <|
    let s := s.updPwr fun p => { p with up, down }
    .reply (s.keepSettings c fun g => { g with up, down }) (.of stOk)

/-- HEARTBEAT. -/
def execHeartbeat (c : Cmd) (s : State) : Host.Outcome State Fault Refusal :=
  .next <| s.powerRow c 0x60 (fun c => (c.byte 16).toNat == 2) fun s =>
    params s c [(16, 17)] [persistRule c] <| .reply s (.of stOk)

/-- DOZE (R508). -/
def execDoze (c : Cmd) (s : State) : Host.Outcome State Fault Refusal :=
  .next <| s.powerRow c 0x60 (fun c => (c.byte 16).toNat == 3) fun s =>
    params s c [(16, 17)] [persistRule c] <|
    match s.glb.state with
    | .doze => .reply s (.of stAlready)
    | .ready | .quiesced =>
      let s := s.enterDoze false
      if s.glb.dozeEntering then .later s .dozed else .reply s (.of stOk)
    | _ => .reply s (.of stBusy)

/-- WAKE (R504, R510). -/
def execWake (c : Cmd) (s : State) : Host.Outcome State Fault Refusal :=
  .next <| s.powerRow c 0x60 (fun c => (c.byte 16).toNat == 4) fun s =>
    params s c [(16, 17)] [persistRule c] <|
    if s.glb.state ≠ .doze then .reply s (.of stAlready)
    else if s.pwr.dozeThermal then .reply s (.of stBusy)
    else
      let s := s.dozeExit
      if s.glb.state = .clockHold then .later s .awake else .reply s (.of stOk)

/-- SET_LIMITS. -/
def execSetLimits (c : Cmd) (s : State) : Host.Outcome State Fault Refusal :=
  .next <| s.powerRow c 0x60 (fun c => (c.byte 16).toNat == 5) fun s =>
    let orphanCap := c.le 26 2
    let warnCap := c.le 28 2
    let tThrottle := (c.byte 30).toNat
    let inletMax := (c.byte 31).toNat
    params s c [(16, 17), (26, 31)]
      [persistRule c, (outOf 120 640 orphanCap, 26), (outOf 120 640 warnCap, 28), (outOf 70 100 tThrottle, 30),
       (outOf 20 60 inletMax, 31)] <|
    let s := s.updPwr fun p => { p with orphanCap, warnCap, tThrottle, inletMax }
    .reply (s.keepSettings c fun g => { g with orphanCap, warnCap, tThrottle, inletMax }) (.of stOk)

/-- A signed byte. -/
def signedByte (v : Int) : Nat := (v % 256).toNat

/-- Quadrant 0's clock in MHz, 0 while it has none. -/
def State.quad0 (s : State) : Nat := if s.clk.lock.getLsbD 0 then s.quadMhz 0 else 0

/-- POWER_QUERY. -/
def execPowerQuery (c : Cmd) (s : State) : Host.Outcome State Fault Refusal :=
  .next <| s.powerRow c 0x61 (fun _ => true) fun s =>
    params s c [] [] <|
    .reply s (.ok (leBytes 2 s.inputAvg ++ leBytes 2 (s.pwr.ceilMw / 1000) ++ leBytes 2 s.effLimit.1 ++
      leBytes 2 (min 0xFFFF s.trackMs) ++ leBytes 4 s.pwrStatus ++ leBytes 1 (signedByte s.pwr.hottest) ++
      leBytes 1 (signedByte s.pwr.inlet) ++ leBytes 2 s.quad0 ++ leBytes 4 s.hbAge))

end Sys2Proof.Machine
end

