-- ==== Sys2Proof/Machine/Requests.lean ====
section
/-!
DEFINITION. Requests, accounts and prefix pins as the host commands them (09, R219-R229, R237, R246; 10, R249, R250; 08,
R202, R203).
-/
namespace Sys2Proof.Machine

/-! ### Selection blocks (10, R249) -/

/-- A non-negative FP32 value up to `hi`; -0 is 0. -/
def fpTo (hi w : Nat) : Bool := decide (w ≤ hi) || w == 0x80000000

/-- What a selection block at `va` holds. -/
def State.selAt (s : State) (c va : Nat) : Sel :=
  let le := fun off n => s.ctxLe c (va + off) n
  let flags := le 14 1
  { seed := le 0 8, temp := BitVec.ofNat 32 (le 8 4), topK := le 12 2, draftMax := le 15 1
    topP := BitVec.ofNat 32 (le 16 4), minP := BitVec.ofNat 32 (le 20 4), rep := BitVec.ofNat 32 (le 24 4)
    pres := BitVec.ofNat 32 (le 28 4), freq := BitVec.ofNat 32 (le 32 4), window := le 36 2
    grammar := if flags.testBit 0 then some (le 38 1) else none
    patch := if flags.testBit 2 then some (le 40 8) else none
    allow := if flags.testBit 1 then
        some ((upto (min 4096 (le 48 4))).map fun i => s.ctxLe c (le 56 8 + 4 * i) 4) else none
    ends := (upto (min 8 (le 64 1))).map fun i => le (68 + 4 * i) 4 }

/-- Does the block at `va` lie outside R249? -/
def State.selBad (s : State) (c va vocab : Nat) : Bool :=
  let le := fun off n => s.ctxLe c (va + off) n
  let flags := le 14 1
  let temp := le 8 4
  va % 64 != 0 || !s.vaOk c va 128 false || decide (7 < flags) ||
  !(fpTo 0 temp || (decide (0x3B800000 ≤ temp) && decide (temp ≤ 0x41800000))) ||
  decide (1024 < le 12 2) || decide (8 < le 15 1) ||
  le 16 4 == 0 || decide (0x3F800000 < le 16 4) ||
  !fpTo 0x3F7FFFFF (le 20 4) ||
  decide (le 24 4 < 0x3F800000) || decide (0x41000000 < le 24 4) ||
  !fpTo 0x41800000 (le 28 4) || !fpTo 0x41800000 (le 32 4) || decide (4096 < le 36 2) ||
  (flags.testBit 0 && decide (63 < le 38 1)) ||
  (flags.testBit 1 && (le 48 4 == 0 || decide (4096 < le 48 4) || !s.vaOk c (le 56 8) (4 * le 48 4) false)) ||
  decide (8 < le 64 1) || ((upto (min 8 (le 64 1))).any fun i => decide (vocab ≤ le (68 + 4 * i) 4)) ||
  ([(39, 1), (52, 4), (65, 3), (100, 28)].any fun r => le r.1 r.2 != 0)

/-- Features a REQ_SUBMIT uses (15, R417): DRAFTS and PATCHES by its selection block, PREFIX, EARLY. -/
def State.submitFeats (s : State) (c : Cmd) : List Nat :=
  let x := Cmd.ownCtx c
  let va := c.le 56 8
  let read := s.vaOk x va 128 false
  let f := (c.byte 21).toNat
  (if read && s.ctxLe x (va + 15) 1 != 0 then [2] else []) ++
  (if read && (s.ctxLe x (va + 14) 1).testBit 2 then [3] else []) ++
  (if f.testBit 2 then [4] else []) ++ (if f.testBit 3 || f.testBit 4 then [5] else [])

/-! ### REQ_SUBMIT (09, R219, R220) -/

/-- Vocabulary of a loaded grammar slot of context `c`, none if it does not hold it. -/
def State.gramVocab (s : State) (c slot : Nat) : Option Nat :=
  let g := s.tsu.grams.get slot
  if g.loaded && g.owner = c then some (g.table.le 8 4) else none

/-- Rules of R219 and the BAD_PARAM cases of R220 and R250; `d` and `p` are the decode and prefill images. -/
def State.submitRules (s : State) (c : Cmd) (d p : Option Image) (sel : Sel) : List (Bool × Nat) :=
  let x := Cmd.ownCtx c
  let f := (c.byte 21).toNat
  let P := c.le 24 4
  let N := c.le 28 4
  let maxKeys := (d.map imgMaxKeys).getD 0
  let vocab := (d.map imgVocab).getD 0
  let peg := s.pegAt (c.byte 20).toNat
  let gramBad := match sel.grammar.bind (s.gramVocab x) with
    | some v => v != vocab || ((p.map imgVocab).getD 0 != 0 && v != (p.map imgVocab).getD 0)
    | none => false
  [(d.map imgRole != some 2 || p.map imgRole != some 1, 16), (decide (7 < (c.byte 17).toNat), 17),
   (decide (1023 < c.le 18 2), 18),
   (f.testBit 0 && peg.st != .free && peg.armedBy != some c.fn.val, 20),
   (decide (31 < f) || (f.testBit 1 && !f.testBit 0), 21), (f.testBit 4 && c.byte 22 == 0, 22),
   (P == 0 || decide (maxKeys < P), 24),
   (N == 0 || decide (131071 < N) || decide (maxKeys < P + N + (d.map imgDraftCap).getD 0), 28),
   (c.le 32 8 % 64 != 0, 32),
   (s.selBad x (c.le 56 8) vocab || gramBad, 56),
   ((s.findReq x c.objId).isSome, 8)]

/-- REQ_SUBMIT. -/
def execReqSubmit (c : Cmd) (s : State) : Host.Outcome State Fault Refusal :=
  .next <| s.row c 0x20 (s.submitFeats c) fun s =>
    let x := Cmd.ownCtx c
    let f := (c.byte 21).toNat
    let dh := (c.byte 16).toNat / 16
    let ph := (c.byte 16).toNat % 16
    let va := c.le 56 8
    let sel := if s.vaOk x va 128 false then s.selAt x va else {}
    let P := c.le 24 4
    let N := c.le 28 4
    let an := c.le 18 2
    let a := s.acct x an
    let pegNo := (c.byte 20).toNat
    let usesPeg := f.testBit 0
    let pst := (s.pegAt pegNo).st
    let pinId := c.le 40 8
    let pin := if f.testBit 2 then (s.ctx x).pins.find? (·.id = pinId) else none
    params s c [(16, 22), (24, 51), (56, 63)] (s.submitRules c (s.image x dh) (s.image x ph) sel) <|
    let S := (pin.map (·.len)).getD 0
    let reservation := (P - S) * a.inCost + N * a.outCost
    checks s
      [(!a.enable || (f.testBit 2 && pin.isNone) || (usesPeg && pst != .armed && pst != .waiting) ||
          (sel.grammar.any fun g => (s.gramVocab x g).isNone) || (sel.patch.any fun p => (s.bestPatch x p).isNone),
        .of stNotBound),
       ((pin.map (·.poisoned)).getD false, .of stPoisoned),
       (decide (a.depth < reservation) || (a.noQueue && decide (a.level < reservation)), .of stBudget),
       (decide ((s.ctx x).reqQuota ≤ (s.ctx x).reqs.length) || decide (16384 ≤ s.tracked), .of stNoRes)] <|
    let r : Req :=
      { id := c.objId, decImg := dh, preImg := ph, prio := (c.byte 17).toNat, account := an
        peg := if usesPeg then some pegNo else none, dropLate := f.testBit 1, early := f.testBit 3
        tail := if f.testBit 4 then (c.byte 22).toNat else 1
        prompt := P, newMax := N, source := BitVec.ofNat 64 (c.le 32 8), pin := pin.map (·.id)
        queueEnd := if c.le 48 4 = 0 then none else some (s.time + c.le 48 4 * msNs)
        sel, limit := N, order := (s.ctx x).accepted, fn := c.fn.val, ring := c.ring.val, seq := c.seq }
    let s := s.updCtx x fun y => ({ y with reqs := y.reqs ++ [r], accepted := y.accepted + 1 } : Ctx).note r.id r.order false
    let s := s.consAdd (cid 0x10 x) 1
    let s := if usesPeg then s.bindPeg pegNo (.request x r.id) else s
    let s := s.admission x
    let st := ((s.findReq x r.id).map fun q => b2n (q.st != .queued)).getD 1
    .reply s (.ok (leBytes 8 reservation ++ [BitVec.ofNat 8 st]))

/-! ### REQ_CANCEL and REQ_QUERY (09, R237, R238, R246) -/

/-- REQ_CANCEL. -/
def execReqCancel (c : Cmd) (s : State) : Host.Outcome State Fault Refusal :=
  .next <| s.row c 0x21 [] fun s =>
    let x := Cmd.ownCtx c
    params s c [] [] <|
    match s.findReq x c.objId with
    | none => .reply s (.of stNotBound)
    | some r =>
      if r.st = .ending || r.cancel.isSome then .reply s (.of stAlready)
      else .reply (s.cancelReq x r.id r.tail false) (.of stOk)

/-- Code of a request state. -/
def ReqSt.code : ReqSt → Nat
  | .queued => 0
  | .prefill => 1
  | .decode => 2
  | .ending => 3

/-- What a request waits on (R246). -/
def State.waitingOn (s : State) (x : Nat) (r : Req) : Nat :=
  match r.st with
  | .queued =>
    let a := s.acct x r.account
    let pinned := ((r.pin.bind fun id => (s.ctx x).pins.find? (·.id = id)).map (·.len)).getD 0
    let need := (r.prompt - pinned) * a.inCost + r.newMax * a.outCost
    let pages := reqPages r.prompt r.newMax (((s.image x r.decImg).map imgDraftCap).getD 0) pinned
    if a.level < need then 1
    else if (s.freeSlots x).isEmpty then 2
    else if s.pagesAvailable x < pages then 3
    else 4
  | .ending => 0
  | _ => if s.tbReady x then 0 else 5

/-- REQ_QUERY. -/
def execReqQuery (c : Cmd) (s : State) : Host.Outcome State Fault Refusal :=
  .next <| s.row c 0x22 [] fun s =>
    let x := Cmd.ownCtx c
    params s c [] [] <|
    match s.findReq x c.objId with
    | none => .reply s (.of stNotBound)
    | some r =>
      .reply s (.ok ([BitVec.ofNat 8 (ReqSt.code r.st), BitVec.ofNat 8 (s.waitingOn x r)] ++ leBytes 2 (r.slot.getD 0xFFFF) ++
        leBytes 4 r.lenDone ++ leBytes 4 r.countedDone ++ leBytes 4 r.limit ++ leBytes 8 r.charged))

/-! ### Accounts (09, R221, R223, R225) -/

/-- ACCOUNT_SET. -/
def execAccountSet (c : Cmd) (s : State) : Host.Outcome State Fault Refusal :=
  .next <| s.row c 0x24 [] fun s =>
    let x := Cmd.ownCtx c
    let a := c.le 16 2
    let f := (c.byte 18).toNat
    let depth := c.le 32 8
    let level := c.le 40 8
    params s c [(16, 18), (20, 27), (32, 47)]
      [(decide (1023 < a), 16), (decide (7 < f), 18), (c.le 22 2 == 0, 22),
       (depth == 0 || decide (2 ^ 48 < depth), 32), (f.testBit 2 && decide (depth < level), 40)] <|
    let s := s.updAcct x a fun y =>
      { y with known := true, enable := f.testBit 0, noQueue := f.testBit 1, inCost := c.le 20 2, outCost := c.le 22 2
               rate := c.le 24 4, depth }
    let s := s.accTrim x a
    let now := (s.acct x a).level
    let s := if !f.testBit 2 then s
      else if now ≤ level then s.accGrant x a (level - now)
      else (s.updAcct x a fun y => { y with level }).consAdd (cid 0x02 (accIdx x a)) (now - level)
    .reply (s.admission x) (.of stOk)

/-- ACCOUNT_QUERY. -/
def execAccountQuery (c : Cmd) (s : State) : Host.Outcome State Fault Refusal :=
  .next <| s.row c 0x25 [] fun s =>
    let x := Cmd.ownCtx c
    let a := c.le 16 2
    params s c [(16, 17)] [(decide (1023 < a), 16)] <|
    if !(s.acct x a).known then .reply s (.of stNotBound)
    else
      let mine := (s.ctx x).reqs.filter fun r => decide (r.account = a)
      let q := (mine.filter fun r => r.st == .queued).length
      .reply s (.ok (leBytes 8 (s.acct x a).level ++ leBytes 8 (s.accHeld x a) ++ leBytes 4 q ++ leBytes 4 (mine.length - q)))

/-! ### Prefix pins (08, R202, R203) -/

/-- PREFIX_PIN: its references take effect with the next boundary application (08, R194). -/
def execPrefixPin (c : Cmd) (s : State) : Host.Outcome State Fault Refusal :=
  .next <| s.row c 0x28 [] fun s =>
    let x := Cmd.ownCtx c
    let src := s.findReq x (c.le 16 8)
    let len := c.le 24 4
    -- pages of the source's list; an ENDING one is tracked until the commit, with the pages its list held (08, R202)
    let held := src.bind fun r => match r.slot with
      | some slot => some ((s.listNow x slot).map fun e => if e.valid then some e.page else none)
      | none => if r.st = .ending then some (r.pages.map some) else none
    match src, held with
    | some r, some list =>
      params s c [(16, 27)]
        [(len == 0 || decide (r.lenDone < len), 24), ((s.ctx x).pins.any fun p => p.id == c.objId, 8)] <|
      let n := cdiv len 64
      let pages := (list.take n).filterMap id
      if 256 ≤ (s.ctx x).pins.length || pages.length < n ||
          pages.any (fun p => decide (1023 ≤ (s.page p).refs + (s.ctx x).staged.adds.count p)) then .reply s (.of stNoRes)
      else
        let pin : Pin := { id := c.objId, pages, len, poisoned := pages.any fun p => (s.page p).st == .poisoned }
        let s := s.updCtx x fun y => { y with pins := y.pins ++ [pin] }
        .reply (s.stage x fun g => { g with adds := g.adds ++ pages }) (.ok (leBytes 4 pages.length))
    | some _, none =>
      -- a QUEUED request holds no position: every length is out of range
      params s c [(16, 27)] [(true, 24)] <| .reply s (.of stBadParam)
    | none, _ => params s c [(16, 27)] [] <| .reply s (.of stNotBound)

/-- PREFIX_RELEASE. -/
def execPrefixRelease (c : Cmd) (s : State) : Host.Outcome State Fault Refusal :=
  .next <| s.row c 0x29 [] fun s =>
    let x := Cmd.ownCtx c
    params s c [] [] <|
    match (s.ctx x).pins.find? (·.id = c.objId) with
    | none => .reply s (.of stNotBound)
    | some p =>
      let s := s.updCtx x fun y => { y with pins := y.pins.filter fun q => q.id ≠ c.objId }
      .reply (s.stage x fun g => { g with drops := g.drops ++ p.pages ++ p.twins.map Prod.snd }) (.of stOk)

end Sys2Proof.Machine
end

