-- ==== Sys2Proof/Machine/Objects.lean ====
section
/-!
DEFINITION. Objects a context loads beside its images: weight packages, patches and grammars (15, R421; 14, R387, R388, R393;
10, R256-R258, R265-R268; 12, R322).
-/
namespace Sys2Proof.Machine

/-! ### Patches (10, R265-R268) -/

/-- Is a patch package well formed: header, points and data within its length, a 48-byte trailer behind (R265, R266)? -/
def patchOk (pkg : Blob) (len : Nat) : Bool :=
  let r := pkg.le 4 1
  let e := signedOf 8 (pkg.le 5 1)
  let n := pkg.le 8 4
  pkg.le 0 4 == 0x48544150 && decide (1 ≤ r) && decide (r ≤ 64) && decide (-32 ≤ e) && decide (e ≤ 0) &&
  decide (1 ≤ n) && decide (n ≤ 1024) && decide (64 + 16 * n + 48 ≤ len) &&
  (upto (min n 1024)).all fun i =>
    let o := 64 + 16 * i
    decide (pkg.le (o + 12) 4 + 2 * r * (pkg.le (o + 4) 4 + pkg.le (o + 8) 4) + 48 ≤ len)

/-- The largest rank the context's images accept. -/
def Ctx.maxRank (x : Ctx) : Nat := x.images.foldl (fun m e => max m ((e.2.map (·.patchRank)).getD 0)) 0

/-- FREE patch slots. -/
def State.freePatchSlots (s : State) : List Nat := (upto 512).filter fun k => (s.tsu.patches.get k).st = .free

/-- PATCH_LOAD: a FREE slot is LOADING until the next step boundary; the digest covers the package before its trailer. -/
def execPatchLoad (c : Cmd) (pkg : Blob) (s : State) : Host.Outcome State Fault Refusal :=
  .next <| s.row c 0x18 [] fun s =>
    let x := Cmd.ownCtx c
    let id := c.objId
    let ver := c.le 16 4
    let len := c.le 32 4
    let rank := pkg.le 4 1
    params s c [(16, 19), (24, 36)]
      [(decide (1 < (c.byte 36).toNat), 36), (!patchOk pkg len || decide ((s.ctx x).maxRank < rank), 24),
       (s.tsu.patches.any fun e => e.2.st != .free && e.2.owner == x && e.2.id == id && e.2.version == ver, 8)] <|
    let bytes := pkg.bytes.take len
    let digest := sha384 (bytes.take (len - 48))
    if (c.byte 36).getLsbD 0 && digest != bytes.drop (len - 48) then .reply s (.of stDigest)
    else if !s.objectFits len then .reply s (.of stNoRes)
    else match s.choose s.freePatchSlots with
    | none => .reply s (.of stNoRes)
    | some (k, s) =>
      let new : PatchSlot := { st := .loading, owner := x, rank, version := ver, id, digest, pkg }
      .later (s.updTsu fun t => { t with patches := t.patches.set k new }) (.patchReady k)

/-- PATCH_RETIRE; a version still LOADING is not there to be retired yet. -/
def execPatchRetire (c : Cmd) (s : State) : Host.Outcome State Fault Refusal :=
  .next <| s.row c 0x19 [] fun s =>
    let x := Cmd.ownCtx c
    let id := c.objId
    let ver := c.le 16 4
    params s c [(16, 19)] [] <|
    match s.tsu.patches.find? fun e => e.2.st != .free && e.2.owner == x && e.2.id == id && e.2.version == ver with
    | none => .reply s (.of (if (id, ver) ∈ (s.ctx x).freedPatches then stAlready else stNotBound))
    | some (k, p) =>
      if p.st = .loading then .reply s (.of stBusy)
      else
        let s := s.updTsu fun t => { t with patches := t.patches.upd k fun p => { p with st := .retiring } }
        let s := s.freePatches x
        if (s.tsu.patches.get k).st = .free then .reply s (.of stOk) else .later s (.patchFree k)

/-! ### Grammars (10, R256-R258) -/

/-- Do the numbers of a list rise strictly? -/
def rising : List Nat → Bool
  | a :: b :: r => decide (a < b) && rising (b :: r)
  | _ => true

/-- Tokens of mask `m`. -/
def gramMaskToks (t : Blob) (m : Nat) : List Nat :=
  let e := t.le 28 4 + 16 * m
  let len := t.le (e + 4) 4
  let off := t.le 36 4 + t.le (e + 8) 4
  if t.le e 1 = 0 then (upto (8 * len)).filter fun k => (t.at (off + k / 8)).getLsbD (k % 8)
  else (upto (len / 4)).map fun i => t.le (off + 4 * i) 4

/-- Is mask `m` as R258 asks? -/
def gramMaskOk (t : Blob) (len m : Nat) : Bool :=
  let v := t.le 8 4
  let e := t.le 28 4 + 16 * m
  let n := t.le (e + 4) 4
  let inside := decide (t.le 36 4 + t.le (e + 8) 4 + n ≤ len)
  let toks := gramMaskToks t m
  inside && (match t.le e 1 with
    | 0 => decide (n ≤ cdiv v 8)
    | 1 => n % 4 == 0 && rising toks
    | _ => false) && toks.all fun k => decide (k < v)

/-- Is state `i` as R257 and R258 ask? -/
def gramStateOk (t : Blob) (len i : Nat) : Bool :=
  let v := t.le 8 4
  let n := t.le 12 4
  let o := gramStateOff t i
  let m := t.le o 4
  let dflt := t.le (o + 12) 4 % 2 ^ 24
  let inside := decide (t.le 32 4 + 8 * (t.le (o + 4) 4 + t.le (o + 8) 4) ≤ len)
  let maskIn := m == 0xFFFFFFFF || decide (m < t.le 20 4)
  inside && maskIn && (dflt == 0xFFFFFF || decide (dflt < n)) &&
  (let ts := gramTrans t i
   let toks := if m = 0xFFFFFFFF then [] else gramMaskToks t m
   rising (ts.map Prod.fst) && (ts.all fun e => decide (e.1 < v) && decide (e.2 < n) && toks.contains e.1) &&
   (dflt != 0xFFFFFF || toks.all fun k => ts.any fun e => e.1 == k) &&
   (!toks.isEmpty || gramAccept t i))

/-- Does a table pass every check of R257 and R258? -/
def gramOk (t : Blob) (len : Nat) : Bool :=
  let v := t.le 8 4
  let n := t.le 12 4
  let masks := t.le 20 4
  decide (64 ≤ len) && decide (len ≤ 2 ^ 26) && t.le 0 4 == 0x544D5247 && t.le 4 1 == 1 &&
  decide (2 ≤ v) && decide (v ≤ 262144) && decide (1 ≤ n) && decide (n ≤ 16777215) && decide (t.le 16 4 < n) &&
  decide (t.le 24 4 + 16 * n ≤ len) && decide (t.le 28 4 + 16 * masks ≤ len) && decide (t.le 32 4 ≤ len) &&
  decide (t.le 36 4 ≤ len) && (upto masks).all (gramMaskOk t len) && (upto n).all (gramStateOk t len)

/-- GRAMMAR_LOAD. -/
def execGrammarLoad (c : Cmd) (table : Blob) (s : State) : Host.Outcome State Fault Refusal :=
  .next <| s.row c 0x1C [] fun s =>
    let x := Cmd.ownCtx c
    let k := (c.byte 16).toNat
    let len := c.le 32 4
    params s c [(16, 16), (24, 35)] [(decide (63 < k), 16), (!gramOk table len, 24)] <|
    if (s.tsu.grams.get k).loaded || !s.objectFits len then .reply s (.of stNoRes)
    else
      let digest := sha384 (table.bytes.take len)
      let s := s.updTsu fun t => { t with grams := t.grams.set k { loaded := true, owner := x, table, digest } }
      .reply (s.updCtx x fun y => { y with log := y.log ++ [{ kind := 4, handle := k, digest }] }) (.of stOk)

/-- GRAMMAR_UNLOAD. -/
def execGrammarUnload (c : Cmd) (s : State) : Host.Outcome State Fault Refusal :=
  .next <| s.row c 0x1D [] fun s =>
    let x := Cmd.ownCtx c
    let k := (c.byte 16).toNat
    params s c [(16, 16)] [(decide (63 < k), 16)] <|
    if (s.gramVocab x k).isNone then .reply s (.of stNotBound)
    else if (s.ctx x).reqs.any fun r => r.sel.grammar == some k then .reply s (.of stBusy)
    else
      let s := s.updTsu fun t => { t with grams := t.grams.set k {} }
      .reply (s.updCtx x fun y => { y with log := y.log.filter fun l => !(l.kind == 4 && l.handle == k) }) (.of stOk)

/-! ### Weight packages (15, R421; 14, R387, R388) -/

/-- Is a sealed package's header well formed, and its length that of its chunks (R387)? -/
def sealedOk (pkg : Blob) (len : Nat) : Bool :=
  let n := pkg.le 40 4
  let used := [(0, 6), (8, 12), (24, 20), (48, 60), (112, 48)]
  decide (512 ≤ len) && pkg.le 0 4 == 0x4C414553 && pkg.le 4 1 == 1 && decide (pkg.le 5 1 ≤ 1) && decide (1 ≤ n) &&
  len == 512 + 16 * n + n * 2 ^ 20 &&
  (upto 512).all fun i => pkg.at i == 0 || used.any fun r => decide (r.1 ≤ i) && decide (i < r.1 + r.2)

/-- Is the package bound to this module or to the set it holds (R388)? -/
def State.bindingOk (s : State) (pkg : Blob) : Bool :=
  if pkg.le 5 1 = 1 then pkg.le 24 16 == s.sec.moduleId.toNat
  else match s.sec.set_ with
    | some d => pkg.le 8 8 == d.id.toNat && pkg.le 16 4 == d.gen.toNat
    | none => false

/-- A subkey of the set key, for one of the labels peer-mac, link and weights (14, R386; log 141). -/
def DevSet.subkey (d : DevSet) (label : Byte) : List Byte := hkdf384 (Config.setKey d.id d.gen) label []
def weightsLabel : Byte := 2

/-- What a sealed package holds: its package key comes under the weights subkey of the set, or under a key agreed with the
module (R387, R388). -/
def State.unsealed (s : State) (pkg : Blob) : List Byte :=
  Config.unsealed (if pkg.le 5 1 = 1 then Config.agreedKey pkg else ((s.sec.set_.getD {}).subkey weightsLabel).take 32) pkg

/-- Put `bytes` into the weight region of context `x` at `va`; WEIGHT marks a region with a registered host copy (12, R329). -/
def State.loadWeights (s : State) (x va : Nat) (copy : Bool) (bytes : List Byte) : State :=
  (s.mapRange x va bytes.length false copy).putBytes (ctxKey x va) bytes

/-- WEIGHTS_LOAD.  A plain package is copied as it stands; what a sealed one decrypts to hangs on its key: bytes left free,
measured by the digest of its header. -/
def execWeightsLoad (c : Cmd) (pkg : Blob) (unwrapOk tagsOk : Bool) (s : State) : Host.Outcome State Fault Refusal :=
  .next <| s.row c 0x14 (if (c.byte 16).getLsbD 0 then [0] else []) fun s =>
    let x := Cmd.ownCtx c
    let id := c.objId
    let isSealed := (c.byte 16).getLsbD 0
    let copy := (c.byte 16).getLsbD 1
    let len := c.le 32 8
    let va := c.le 40 8
    let chunks := pkg.le 40 4
    let region := if isSealed then chunks * 2 ^ 20 else len
    params s c [(16, 16), (24, 47)]
      [((s.ctx x).weights.any fun w => w.id == id, 8), (decide (3 < (c.byte 16).toNat), 16),
       (isSealed && !sealedOk pkg len, 24), (len == 0, 32),
       (va % pageBytes != 0 || decide ((s.ctx x).mmuSize * pageBytes < va + region), 40)] <|
    if isSealed && !s.bindingOk pkg then .reply s (.of stDenied)
    else if isSealed && (!unwrapOk || !tagsOk) then .reply s (.of stDigest)
    else if s.framesFree < s.newPages x va region then .reply s (.of stNoRes)
    else
      let (bytes, digest) := if isSealed then
          let plain := s.unsealed pkg
          (plain.take region ++ List.replicate (region - plain.length) 0,
           (pkg.bytes.drop 112).take 48)
        else (pkg.bytes.take len, sha384 (pkg.bytes.take len))
      let s := s.loadWeights x va copy bytes
      let s := s.updCtx x fun y =>
        { y with weights := y.weights ++ [{ id, va, len := region, copyHeld := copy, isSealed, digest, bytes := if copy then bytes else [] }]
                 log := y.log ++ [{ kind := 2, id, digest }] }
      .reply s (.of stOk)

/-- WEIGHTS_UNLOAD. -/
def execWeightsUnload (c : Cmd) (s : State) : Host.Outcome State Fault Refusal :=
  .next <| s.row c 0x15 [] fun s =>
    let x := Cmd.ownCtx c
    let id := c.objId
    params s c [] [] <|
    match (s.ctx x).weights.find? (·.id = id) with
    | none => .reply s (.of stNotBound)
    | some w =>
      if (s.ctx x).images.any fun e => (e.2.map imgWeightsId) == some id then .reply s (.of stBusy)
      else
        let s := s.unmapRange x w.va w.len
        .reply (s.updCtx x fun y =>
          { y with weights := y.weights.filter fun v => v.id ≠ id
                   log := y.log.filter fun l => !(l.kind == 2 && l.id == id) }) (.of stOk)

/-! ### Reload of a poisoned weight page (12, R322) -/

/-- WEIGHT_RELOAD_DONE: the page holds its weights again, from the registered copy, and the context may go on with the replay. -/
def execWeightReloadDone (ctx : CtxId) (s : State) : Host.Outcome State Fault Refusal :=
  let c := ctx.val
  .next <| match (s.ctx c).reloading with
    | none => s
    | some va =>
      let s := match (s.ctx c).weights.find? fun w => w.copyHeld && decide (w.va ≤ va) && decide (va < w.va + w.len) with
        | some w => s.putBytes (ctxKey c va) ((w.bytes.drop (va - w.va)).take pageBytes)
        | none => s
      let lo := ctxKey c va / 8
      let s := s.updMem fun m =>
        { m with poison := m.poison.filter fun e => decide (e.1 < lo) || decide (lo + pageBytes / 8 ≤ e.1) }
      s.updCtx c fun x => { x with reloading := none }

/-- WEIGHT_RELOAD_TIMEOUT: the host copy is not read within the host command timeout. -/
def execWeightReloadTimeout (ctx : CtxId) (s : State) : Host.Outcome State Fault Refusal :=
  let c := ctx.val
  .next <|
    if (s.ctx c).reloading.isNone || s.time < (s.ctx c).reloadSince + s.host.timeoutS * secNs then s
    else s.faultCtx c stPoisoned

end Sys2Proof.Machine
end

