-- ==== Sys2Proof/Machine/Schedule.lean ====
section
/-!
DEFINITION. SCHED_LOAD and SCHED_UNLOAD: the checks of a schedule image in the order of R117 (05, R106-R119, R123-R125;
03, R57, R62, R69, R73; 06, R137, R144, R147; 07, R163, R170, R172; 08, R186, R197, R199; 09, R230; 10, R270; 12, R333-R338;
13, R349).
-/
namespace Sys2Proof.Machine

/-- Is every byte outside the listed ranges (first, count) of an `n`-byte record 0 (R106)? -/
def restZero (l : List Byte) (n : Nat) (used : List (Nat × Nat)) : Bool :=
  (upto n).all fun i => l.getD i 0 == 0 || used.any fun r => decide (r.1 ≤ i) && decide (i < r.1 + r.2)

/-- Is `n` in the closed range? -/
def within (lo hi n : Nat) : Bool := decide (lo ≤ n) && decide (n ≤ hi)

/-! ### Check 1: layout (R106, R107) -/

def imgMagic (g : Image) : Nat := lb g.header 0 4
def imgLen (g : Image) : Nat := lb g.header 8 4
def imgFlags (g : Image) : Nat := lb g.header 6 2
def imgNocLen (g : Image) : Nat := lb g.header 20 4

/-- Sections of one type. -/
def imgSecs (g : Image) (t : Nat) : List DirEntry := g.dir.filter fun e => e.kind = t

/-- No number twice. -/
def distinct (l : List Nat) : Bool := decide l.Nodup

/-- Do two sections share a byte? -/
def secsMeet (a b : DirEntry) : Bool := decide (a.offset < b.offset + b.length) && decide (b.offset < a.offset + a.length)
/-- No two of the list meet. -/
def noMeet {α : Type} (p : α → α → Bool) : List α → Bool
  | [] => true
  | x :: xs => xs.all (fun y => !p x y) && noMeet p xs

/-- Section type and argument. -/
def secArgOk (e : DirEntry) : Bool :=
  match e.kind with
  | 2 => decide (e.arg < 64)
  | 3 => decide (e.arg < 0x110)
  | 5 => decide (e.arg < 8) || e.arg == 0x10 || within 0x20 0x2F e.arg
  | 1 | 4 | 6 | 7 => e.arg == 0
  | _ => false

/-- What the sections hold is what the directory lists. -/
def secsMatch (g : Image) : Bool :=
  (imgSecs g 1).all (fun e => e.length == 32 * g.ops.length) && (imgSecs g 4).all (fun e => e.length == 32 * g.bufs.length) &&
  decide ((imgSecs g 2).map (·.arg) = g.segs.map Prod.fst) && decide ((imgSecs g 3).map (·.arg) = g.progs.map Prod.fst) &&
  decide ((imgSecs g 5).map (·.arg) = g.frames.map Prod.fst) &&
  ((imgSecs g 2).zip g.segs).all (fun e => decide (8 * e.2.2.length ≤ e.1.length)) &&
  ((imgSecs g 3).zip g.progs).all (fun e => e.1.length == 32 * e.2.2.length) &&
  ((imgSecs g 5).zip g.frames).all (fun e => e.1.length == (e.2.2.map (·.count)).foldl (· + ·) 0)

/-- Units of `grain` bytes, numbered modulo `n`, that a run of bytes touches. -/
def unitsOf (grain n : Nat) (r : Nat × Nat) : List Nat :=
  if r.2 = 0 then [] else (upto (min n ((r.1 + r.2 - 1) / grain + 1 - r.1 / grain))).map fun i => (r.1 / grain + i) % n
/-- Runs of a space that the image's buffers take; a KV buffer has no place of its own. -/
def bufRuns (g : Image) (space : Nat) : List (Nat × Nat) :=
  (g.bufs.filter fun b => bufSpace b = space && bufKind b ≠ 2).map fun b =>
    (bufOffset b, if bufKind b = 6 then 2 * bufSize b else bufSize b)
/-- Resources the image uses: the NoC, the bank groups of its Basket buffers, the stacks of its HBM buffers, all of them for KV
pages (R107; 12, R312, R316; log 108). -/
def usedResources (g : Image) : List Nat :=
  0x10 :: ((bufRuns g 0x40).flatMap (unitsOf 128 16)).map (0x20 + ·) ++ (bufRuns g 0x41).flatMap (unitsOf 256 8) ++
    (if g.bufs.any fun b => bufKind b == 2 then upto 8 else [])

def checkLayout (g : Image) (len : Nat) : Bool :=
  let n := g.dir.length
  let secEnd := 64 + 16 * n
  imgMagic g == 0x4843535A && imgLen g == len && decide (len ≤ 2 ^ 26) && lb g.header 12 4 == n && decide (n ≤ 1024) &&
  decide (imgFlags g < 8) && restZero g.header 64 [(0, 31), (32, 16)] && g.dir.all secArgOk &&
  g.dir.all (fun e => e.offset % 64 == 0 && decide (secEnd ≤ e.offset) && decide (e.offset + e.length ≤ len)) &&
  noMeet secsMeet g.dir &&
  [1, 4, 6, 7].all (fun t => (imgSecs g t).length == 1) && (imgSecs g 2).length == 64 &&
  [2, 3, 5].all (fun t => distinct ((imgSecs g t).map (·.arg))) &&
  (imgSecs g 7).all (fun e => g.dir.all fun d => decide (d.offset ≤ e.offset)) &&
  (usedResources g).all (fun r => (imgSecs g 5).any fun e => e.arg == r) && secsMatch g

/-! ### Check 4: operations, buffers, descriptors -/

/-- Rows of R57. -/
def pairClass (f : Nat) : Nat :=
  if f = 1 || f = 2 then 1 else if within 3 8 f then 2 else if f = 9 || f = 10 then 3 else if f = 11 || f = 12 then 4 else 0
/-- Does the M engine accept the operand pair (03, R57)? -/
def pairOk (a b : Nat) : Bool := pairClass a != 0 && pairClass a == pairClass b
/-- Output formats of 03, R69. -/
def outFmtOk (f : Nat) : Bool := f ∈ [0x1, 0x2, 0x9, 0xB, 0xC, 0xD, 0xE]

/-- Formats of 07, R163: Q and KV. -/
def qkPairOk (q kv : Nat) : Bool := (q, kv) ∈ [(1, 1), (2, 1), (1, 2), (2, 2), (3, 3), (0xB, 0xB), (0xC, 0xC), (0xB, 0xC)]

/-- Depthwise: as many groups as input channels (06, R140). -/
def convDepthwise : List Nat → Bool
  | [_, _, _, _, _, _, _, _, _, _, gr, ci, _] => gr == ci
  | _ => false

/-- Operand pairs (R57): what the M engine multiplies; a depthwise convolution runs on the V engines, which take any operand
format (06, R137, R140); ATTENTION's Q format goes with its descriptor's KV format (07, R163). -/
def opPairOk (g : Image) (i : Nat) (e : List Byte) : Bool :=
  let a := opFmtA e
  let b := opFmtB e
  match opKind e with
  | 1 => pairOk a b
  | 2 => pairOk a b && qkPairOk a (lb (imgDesc g i) 0 1)
  | 3 => (g.conv.find? fun p => p.1 == i).any fun p => if convDepthwise p.2 then a != 0 && b != 0 else pairOk a b
  | _ => true

/-- An ATTENTION, DPP or TSU operation carries its descriptor, a convolution its parameters (06, R137, R147; 07, R172; 10,
R270). -/
def opHasDesc (g : Image) (i : Nat) (e : List Byte) : Bool :=
  match opKind e with
  | 2 | 5 | 6 => g.descs.any fun d => d.1 == i
  | 3 => g.conv.any fun p => p.1 == i
  | _ => true

def checkOp (g : Image) (i : Nat) (e : List Byte) : Bool :=
  let k := opKind e
  let b7 := lb e 7 1
  lb e 0 4 == i && within 1 7 k && decide (lb e 5 1 ≤ 1) && opFmtA e != 15 && opFmtB e != 15 && opFmtOut e != 15 &&
  opPairOk g i e && opHasDesc g i e &&
  (outFmtOk (opFmtOut e) || (decide (4 < k) && opFmtOut e == 0)) &&
  decide (-512 ≤ opAnchor e) && decide (opAnchor e ≤ 511) && decide (-127 ≤ opScale e) &&
  !(b7.testBit 5 && b7.testBit 7) && !(k == 5 && b7.testBit 7) && restZero e 32 [(0, 11), (12, 12)]

/-- Is `id` in BUFMAP? -/
def inMap (g : Image) (id : Nat) : Bool := (imgBuf g id).isSome

/-- A BUFMAP entry (R112; 08, R199), against the context's geometry. -/
def checkBuf (x : Ctx) (g : Image) (e : List Byte) : Bool :=
  let kv := bufKind e == 2
  decide (bufKind e ≤ 6) && decide (bufSpace e ≤ 0x41) &&
  restZero e 32 (if kv then [(0, 7), (8, 16), (24, 2)] else [(0, 4), (8, 16)]) &&
  (!kv || (bufSpace e == 0x41 && decide (lb e 4 1 < x.layers) && decide (lb e 5 1 ≤ 1) && decide (1 ≤ lb e 6 1) &&
    inMap g (lb e 24 2)))

/-- A finite FP32 pattern. -/
def fpFinite (w : Nat) : Bool := w / 2 ^ 23 % 256 != 255

/-- Formats of 07, R163: KV format and P_FMT. -/
def kvPairOk (kv p : Nat) : Bool := (kv, p) ∈ [(1, 1), (2, 1), (3, 3), (0xB, 0xB), (0xC, 0xB)]

/-- An ATTENTION descriptor (07, R170, R172; 08, R186). -/
def checkAttn (x : Ctx) (g : Image) (op : List Byte) (d : List Byte) : Bool :=
  let f := lb d 2 1
  let kv := lb d 0 1
  let maxKeys := lb d 12 4
  let w := lb d 16 2
  let flag (b id : Nat) : Bool := !f.testBit b || inMap g id
  let split := lb d 3 1 == 0
  kvPairOk kv (lb d 1 1) && kv == x.kvFmt && decide (f < 128) && (!f.testBit 1 || f.testBit 0) &&
  lb d 3 1 == b2n (opPress op) && within 1 256 (lb d 4 2) && lb d 4 2 == x.dim && within 1 96 (lb d 6 1) &&
  within 1 96 (lb d 7 1) && decide (lb d 6 1 * lb d 7 1 ≤ 96) && fpFinite (lb d 8 4) && lb d 8 4 % 2 ^ 31 != 0 &&
  decide (maxKeys ≤ 131072) &&
  (decide (maxKeys ≤ 16384) || (f.testBit 2 && decide (w ≤ 8192) && !f.testBit 4)) &&
  (!f.testBit 2 || within 1 8192 w) && within 1 128 (lb d 18 2) &&
  decide (-512 ≤ signedOf 16 (lb d 20 2)) && decide (signedOf 16 (lb d 20 2) ≤ 511) &&
  decide (lb d 22 1 < x.layers) && inMap g (lb d 24 2) && inMap g (lb d 26 2) && flag 5 (lb d 28 2) && flag 3 (lb d 30 2) &&
  flag 4 (lb d 32 2) && (!split || (inMap g (lb d 34 2) && inMap g (lb d 36 2))) && lb d 38 1 == x.heads &&
  -- the global list holds at most 128 positions of 4 bytes
  (!f.testBit 3 || ((imgBuf g (lb d 30 2)).map bufSize).getD 0 ≤ 512) && restZero d 64 [(0, 39)]

/-- A DPP descriptor (06, R147). -/
def checkDpp (g : Image) (d : List Byte) : Bool :=
  let f := lb d 2 1
  let mode := lb d 0 1
  let elt := if lb d 1 1 = 0xD then 4 else 2
  let n := lb d 8 4
  let imgs := lb d 6 2
  let params := if mode = 1 || mode = 4 then 5 else 4
  let aux := if mode = 2 then 16 else if mode = 3 || mode = 4 then 12 else 0
  let size (id : Nat) : Nat := ((imgBuf g id).map bufSize).getD 0
  decide (mode ≤ 4) && (lb d 1 1 ∈ [0xB, 0xC, 0xD]) && decide (f < 8) && (!f.testBit 2 || !(mode == 1 || mode == 4)) &&
  within 1 256 (lb d 4 2) && within 1 64 imgs && within 1 32768 n && within 1 32768 (lb d 12 4) && within 1 2048 (lb d 16 2) &&
  fpFinite (lb d 20 4) && lb d 24 4 != 0 && decide (lb d 24 4 ≤ 0x3F800000) && fpFinite (lb d 28 4) &&
  ((upto 4).all fun i => fpFinite (lb d (32 + 4 * i) 4)) && within 1 8192 (lb d 48 2) && within 1 8192 (lb d 50 2) &&
  inMap g (lb d 52 2) && inMap g (lb d 54 2) && inMap g (lb d 56 2) &&
  decide (imgs * n * (params + lb d 4 2) * elt ≤ size (lb d 52 2)) && decide (n * aux ≤ size (lb d 54 2)) &&
  decide (imgs * (32 + 32 * lb d 16 2) ≤ size (lb d 56 2)) &&
  decide (lb d 58 1 ≤ 15) && decide (lb d 59 1 ≤ 15) && lb d 58 1 != lb d 59 1 && decide (lb d 60 1 ≤ 63) && decide (lb d 61 1 ≤ 31) &&
  restZero d 64 [(0, 3), (4, 14), (20, 42)]

/-- A TSU descriptor (10, R270). -/
def checkTsu (g : Image) (d : List Byte) : Bool :=
  let ph := lb d 0 1
  decide (ph ≤ 2) && (ph != 0 || imgRole g == 1) && (ph != 1 || decide (lb d 1 1 < imgDraftCap g)) &&
  inMap g (lb d 2 2) && inMap g (lb d 4 2) && (ph == 0 || inMap g (lb d 6 2)) && within 2 262144 (lb d 8 4) && inMap g (lb d 12 2) &&
  decide (lb d 14 1 ≤ 63) && decide (lb d 15 1 ≤ 31) &&
  restZero d 32 [(0, 16)]

/-- A KV_PREP descriptor with the serving fields (08, R197; 09, R230). -/
def checkKvPrep (g : Image) (d : List Byte) : Bool :=
  let attn := (imgDescs g 0x02).map Prod.snd
  let maxKeys := attn.foldl (fun m a => max m (lb a 12 4)) 0
  let w := cdiv (lb d 12 4) 64
  let retain (id n : Nat) : Bool := match imgBuf g id with
    | some b => bufKind b == 6 && bufSpace b == 0x40 && decide (n ≤ bufSize b)
    | none => false
  let role := lb d 32 1
  let cap := lb d 33 1
  decide (lb d 2 2 ≤ 256) && retain (lb d 4 2) (16 + 16 * lb d 2 2) && retain (lb d 6 2) (4 * w * lb d 10 2) &&
  inMap g (lb d 8 2) && attn.all (fun a => lb a 26 2 == lb d 8 2) && decide (1 ≤ lb d 10 2) && lb d 12 4 == maxKeys &&
  decide (role ≤ 2) && decide (cap ≤ 8) && (role != 1 || cap == 0) &&
  (role != 2 || attn.all fun a => cap + 1 == lb a 7 1) && within 1 4096 (lb d 34 2) && decide (1 ≤ lb d 36 4) &&
  (role != 2 || lb d 36 4 == cap + 1) && restZero d 64 [(0, 1), (2, 14), (32, 8)]

/-- Parameters of a CONV operation (06, R137): kernel, stride and dilation in both directions, padding on the four sides,
groups, input and output channels. -/
def convOk : List Nat → Bool
  | [kh, kw, sy, sx, dy, dx, pt, pb, pl, pr, gr, ci, co] =>
    within 1 15 kh && within 1 15 kw && within 1 4 sy && within 1 4 sx && within 1 8 dy && within 1 8 dx &&
    [pt, pb].all (fun p => decide (p ≤ (kh - 1) * dy)) && [pl, pr].all (fun p => decide (p ≤ (kw - 1) * dx)) &&
    decide (1 ≤ gr) && ci % gr == 0 && co % gr == 0
  | _ => false

/-- Parameters of a pooling operation (06, R144): window and stride in both directions, padding on the four sides, and
whether it is global. -/
def poolOk : List Nat → Bool
  | [wh, ww, sy, sx, pt, pb, pl, pr, global] =>
    global == 1 || (within 1 32 wh && within 1 32 ww && within 1 32 sy && within 1 32 sx &&
      [pt, pb].all (fun p => decide (p < wh)) && [pl, pr].all (fun p => decide (p < ww)))
  | _ => false

/-- A descriptor, by the kind of its operation. -/
def checkDesc (x : Ctx) (g : Image) (d : Nat × List Byte) : Bool :=
  match imgOp g d.1 with
  | none => false
  | some op => match opKind op with
    | 2 => checkAttn x g op d.2
    | 5 => checkDpp g d.2
    | 6 => checkTsu g d.2
    | 7 => lb d.2 0 1 != 1 || checkKvPrep g d.2
    | _ => true
def checkConv (g : Image) (p : Nat × List Nat) : Bool :=
  match (imgOp g p.1).map opKind with
  | some 3 => convOk p.2
  | some 4 => poolOk p.2
  | _ => false

/-- Each channel instruction before a SIGNAL: does the last MOVE carry BARRIER (12, R338)? -/
def barriers : Bool → List (List Byte) → Bool
  | _, [] => true
  | last, i :: is =>
    match lb i 0 1 with
    | 1 => barriers ((lb i 1 1).testBit 0) is
    | 4 => last && barriers last is
    | _ => barriers last is

/-- Capacity of a space with 64-byte grain: a local store, the Basket (04, R86; 12, R310). -/
def spaceSize (sp : Nat) : Option Nat := if sp ≤ 0x3F then some 0x300000 else if sp = 0x40 then some 0x6000000 else none

/-- A MOVE's side: space, address, row length, stride (12, R334). -/
def sideOk (sp addr row stride : Nat) : Bool :=
  decide (sp ≤ 0x42) && (match spaceSize sp with
    | some n => addr % 64 == 0 && row % 64 == 0 && stride % 64 == 0 && decide (addr + row ≤ n)
    | none => true)

/-- An instruction of an image's channel program (12, R333-R337), at index `i` of channel `ch`. -/
def insOk (ch i : Nat) (b : List Byte) : Bool :=
  match lb b 0 1 with
  | 1 =>
    let fill := (lb b 1 1).testBit 1
    let row := lb b 16 4
    decide (lb b 1 1 ≤ 3) && (fill || sideOk (lb b 2 1) (lb b 4 6) row (lb b 24 4)) && sideOk (lb b 3 1) (lb b 10 6) row (lb b 28 4) &&
    within 1 (2 ^ 24) row && decide (1 ≤ lb b 20 2) && restZero b 32 [(0, 22), (24, 8)]
  | 2 => decide (1 ≤ lb b 4 4) && decide (lb b 8 2 ≤ i) && restZero b 32 [(0, 1), (4, 6), (16, 8)]
  | 3 =>
    (match lb b 1 1 with
     | 0 => decide (lb b 4 2 ≤ 31)
     | 1 => decide (lb b 4 1 ≤ 31) && decide (lb b 5 1 ≤ 63) && (decide (256 ≤ ch) || lb b 5 1 == ch / 4)
     | 2 => decide (lb b 4 2 ≤ 255)
     | 3 => decide (lb b 4 2 ≤ 63)
     | _ => false) && restZero b 32 [(0, 2), (4, 2), (8, 4)]
  | 4 =>
    (match lb b 1 1 with
     | 0 => decide (lb b 4 1 ≤ 31) && decide (lb b 6 2 < 272)
     | 1 => decide (lb b 4 1 ≤ 31) && decide (lb b 5 1 ≤ 63)
     | 2 => decide (lb b 4 1 ≤ 63)
     | _ => false) && restZero b 32 [(0, 2), (4, 2), (6, 2), (8, 4)]
  | _ => false

/-- Bodies of the loops of a list, as (first, last) index: do any two overlap without one holding the other? -/
def crossed (a b : Nat × Nat) : Bool :=
  decide (a.1 ≤ b.2) && decide (b.1 ≤ a.2) && !(decide (a.1 ≤ b.1) && decide (b.2 ≤ a.2)) && !(decide (b.1 ≤ a.1) && decide (a.2 ≤ b.2))
/-- Loops nested to a depth of 4 and never crossed. -/
def loopsOk (l : List (Nat × Nat)) : Bool :=
  noMeet crossed l && l.all fun a => decide ((l.filter fun b => decide (b.1 ≤ a.1) && decide (a.2 ≤ b.2)).length ≤ 4)

def progOk (p : Nat × List (List Byte)) : Bool :=
  let n := p.2.length
  let idx := (upto n).zip p.2
  decide (n ≤ 4096) && idx.all (fun e => insOk p.1 e.1 e.2) && barriers true p.2 &&
  loopsOk (idx.filterMap fun e => if lb e.2 0 1 = 2 then some (lb e.2 8 2, e.1) else none)

/-- Ranges of the header (R106). -/
def headerOk (g : Image) : Bool :=
  decide (1 ≤ imgStepCycles g) && within 4096 65536 (imgNocLen g) && within 8 64 (imgCheckDiv g) && decide (lb g.header 30 1 ≤ 1) &&
  within 1 65535 (lb g.header 32 4) && lb g.header 32 4 == g.ops.length && within 1 4096 (lb g.header 36 4) &&
  lb g.header 36 4 == g.bufs.length

def checkContents (x : Ctx) (g : Image) : Bool :=
  headerOk g && ((upto g.ops.length).zip g.ops).all (fun e => checkOp g e.1 e.2) && g.bufs.all (checkBuf x g) &&
  distinct (g.bufs.map fun b => lb b 0 2) && g.descs.all (checkDesc x g) && g.conv.all (checkConv g) && g.progs.all progOk &&
  decide (g.patchRank ≤ 64)

/-! ### Checks 5 and 6: seam-stable, frames (R73, R113-R115) -/

/-- The conditions of R73 that the image shows: no operation carries FAST_REDUCE.  The header's FAST_REDUCE_USED beside
operations without it settles nothing: condition 4 speaks of the operations (DEDUCED, log 137). -/
def checkSeam (g : Image) : Bool := !imgSeamStable g || !g.ops.any opFastReduce

/-- Largest run of slots that are not OPEN, with the run in hand. -/
def gapRuns : List SlotRun → Nat → Nat
  | [], cur => cur
  | r :: rs, cur => if r.owner = 0xE0 && r.count ≠ 0 then max cur (gapRuns rs 0) else gapRuns rs (cur + r.count)
/-- Cycles between two consecutive OPEN slots, counted across the repeat. -/
def openGap (rs : List SlotRun) : Nat := gapRuns (rs ++ rs) 0

def ownerOk (res : Nat) (o : Byte) : Bool :=
  decide (o.toNat < 0x50) || o == 0xE0 || o == 0xE1 || o == 0xE2 || o == 0xFF || (o == 0xE3 && decide (res < 8)) ||
  (o == 0x50 && decide (0x20 ≤ res))

/-- First run of REFRESH slots. -/
def leadRefresh : List SlotRun → Nat
  | [] => 0
  | r :: rs => if r.owner = 0xE3 then r.count + leadRefresh rs else if r.count = 0 then leadRefresh rs else 0

def frameOk (g : Image) (pct : Nat) (f : Nat × List SlotRun) : Bool :=
  let len := (f.2.map (·.count)).foldl (· + ·) 0
  f.2.all (fun r => ownerOk f.1 r.owner) &&
  if f.1 < 8 then len == 19200 && slotsOf f.2 0xE3 == 960 && leadRefresh f.2 == 960 && decide (384 ≤ slotsOf f.2 0xE0)
  else len == imgNocLen g && (f.1 != 0x10 || (decide (pct * len ≤ 100 * slotsOf f.2 0xE0) && decide (openGap f.2 ≤ 15000)))

def checkFrames (g : Image) (pct : Nat) : Bool :=
  decide (10 * pct ≤ lb g.header 24 2) && decide (lb g.header 26 2 ≤ 15000) && g.frames.all (frameOk g pct)

/-! ### Check 7: credits (R123, R125) -/

/-- Where a core stands in its segment: next instruction and open loops. -/
structure SegPos where
  pc : Nat := 0
  loops : List (Nat × Nat) := []
  deriving DecidableEq, Repr, Inhabited

/-- The place after a LOOP at `pc`: back to the target while passes remain (R111). -/
def SegPos.loop (p : SegPos) (count target : Nat) : SegPos :=
  match p.loops with
  | (i, left) :: rest =>
    if i = p.pc then (if left ≤ 1 then { pc := p.pc + 1, loops := rest } else { pc := target, loops := (i, left - 1) :: rest })
    else if count ≤ 1 then { p with pc := p.pc + 1 } else { pc := target, loops := (p.pc, count - 1) :: p.loops }
  | [] => if count ≤ 1 then { p with pc := p.pc + 1 } else { pc := target, loops := [(p.pc, count - 1)] }

/-- Instructions a segment runs with its loops unrolled, at most. -/
def segWork (is : List SInstr) : Nat :=
  is.foldl (fun n i => match i with
    | .loop count _ => (n + 1) * max 1 count
    | _ => n + 1) 0

/-- How often instruction `i` of a channel program runs: the product of the counts of the LOOPs around it (12, R335). -/
def progPasses (p : List (List Byte)) (i : Nat) : Nat :=
  ((upto p.length).zip p).foldl (fun n e =>
    if lb e.2 0 1 = 2 && decide (lb e.2 8 2 ≤ i) && decide (i < e.1) then n * lb e.2 4 4 else n) 1
/-- Credits the image's channel programs and units add to a register beside the S engines, and those WAITs take, each as often
as its loops run it. -/
def sideCredits (g : Image) (reg : Nat) : Nat × Nat :=
  let sum := fun (kind : Nat) => (g.progs.map fun p => (((upto p.2.length).zip p.2).map fun e =>
    if lb e.2 0 1 = kind && lb e.2 1 1 = 1 && 32 * lb e.2 5 1 + lb e.2 4 1 = reg then progPasses p.2 e.1 * lb e.2 8 4
    else 0).foldl (· + ·) 0).foldl (· + ·) 0
  let dpp := ((imgDescs g 5).filter fun d => 32 * lb d.2 60 1 + lb d.2 61 1 = reg).length
  let tsu := ((imgDescs g 6).filter fun d => 32 * lb d.2 14 1 + lb d.2 15 1 = reg).length
  (sum 4 + dpp + tsu, sum 3)

/-- A core of the check: its place, and the credit masks that wait in its four engine queues (R81, R111). -/
structure SegSim where
  pos : SegPos := {}
  queues : List (List (List (Fin 32))) := [[], [], [], []]
  deriving DecidableEq, Repr, Inhabited

/-- Engine starts of one queue: each takes a credit of every register its mask names, in queue order. -/
def startQueue (core : Nat) : List (List (Fin 32)) → Tbl Nat → List (List (Fin 32)) × Tbl Nat
  | [], t => ([], t)
  | m :: ms, t =>
    if m.all fun r => decide (0 < t.get (32 * core + r.val)) then
      startQueue core ms (m.foldl (fun t r => t.upd (32 * core + r.val) (· - 1)) t)
    else (m :: ms, t)
/-- Engine starts of all queues of a core. -/
def startQueues (core : Nat) : List (List (List (Fin 32))) → Tbl Nat → List (List (List (Fin 32))) × Tbl Nat
  | [], t => ([], t)
  | q :: qs, t =>
    let (q, t) := startQueue core q t
    let (qs, t) := startQueues core qs t
    (q :: qs, t)

/-- Run one core's segment until it ends or waits for credits or a place in a queue that it has not got. -/
def runSeg (core : Nat) (is : List SInstr) : Nat → SegSim → Tbl Nat → SegSim × Tbl Nat
  | 0, p, t => (p, t)
  | f + 1, p, t =>
    let (queues, t) := startQueues core p.queues t
    let p : SegSim := { p with queues := queues }
    let next : SegSim := { p with pos := { p.pos with pc := p.pos.pc + 1 } }
    match is[p.pos.pc]? with
    | none => (p, t)
    | some (.issue q _ mask) =>
      if 8 ≤ (p.queues.getD q.val []).length then (p, t)
      else runSeg core is f { next with queues := p.queues.modify q.val (· ++ [mask]) } t
    | some (.creditWait r n) =>
      let k := 32 * core + r.val
      if t.get k < n then (p, t) else runSeg core is f next (t.set k (t.get k - n))
    | some (.creditSend dst r n) => runSeg core is f next (t.upd (32 * dst.val + r.val) (· + n))
    | some (.loop n tgt) => runSeg core is f { p with pos := p.pos.loop n tgt } t
    | some _ => runSeg core is f next t

/-- All cores in turn, until none gets on. -/
def runSegs (segs : List (Nat × List SInstr)) : Nat → List SegSim → Tbl Nat → List SegSim × Tbl Nat
  | 0, ps, t => (ps, t)
  | f + 1, ps, t =>
    let (ps', t') := (segs.zip ps).foldl (fun (a : List SegSim × Tbl Nat) e =>
      let (p, t) := runSeg e.1.1 e.1.2 (segWork e.1.2 + 1) e.2 a.2
      (a.1 ++ [p], t)) ([], t)
    if ps' = ps then (ps', t') else runSegs segs f ps' t'

/-- The credit graph of R125, checked by running every segment's waits, sends and engine starts with the loops unrolled: a wait
that never ends is a cycle, and a hand-off register off its first value is a buffer out of balance (DEDUCED, log 22). -/
def checkCredits (g : Image) : Bool :=
  let regs := (upto 2048).filter fun r => sideCredits g r != (0, 0)
  let start := g.credits.foldl (fun (t : Tbl Nat) h => t.set (32 * h.producer.val + h.freeReg.val) h.depth) []
  let start := regs.foldl (fun (t : Tbl Nat) r => t.upd r (· + (sideCredits g r).1)) start
  let rounds := (g.segs.map fun e => segWork e.2).foldl (· + ·) 1
  let (ps, t) := runSegs g.segs rounds (g.segs.map fun _ => {}) start
  g.credits.all (fun h => within 1 255 h.depth) &&
  (g.segs.zip ps).all (fun e => decide (e.1.2.length ≤ e.2.pos.pc) && e.2.queues.all List.isEmpty) &&
  g.credits.all fun h =>
    let rest := fun r => t.get r - (sideCredits g r).2
    rest (32 * h.producer.val + h.freeReg.val) == h.depth && rest (32 * h.consumer.val + h.fullReg.val) == 0

/-! ### Check 8: segments, urgent points, buffers (R111, R112, R118) -/

def isStepFence : SInstr → Bool
  | .stepFence => true
  | _ => false
def isModeFence : SInstr → Bool
  | .modeFence _ => true
  | _ => false

/-- Loops of a segment as bodies; none if a target lies after its LOOP. -/
def segLoops (is : List SInstr) : List (Nat × Nat) :=
  ((upto is.length).zip is).filterMap fun e => match e.2 with
    | .loop _ t => some (t, e.1)
    | _ => none

def segOk (is : List SInstr) : Bool :=
  (is.filter isStepFence).length == 1 && (is.getLast?.map isStepFence).getD false && (segLoops is).all (fun l => decide (l.1 ≤ l.2)) &&
  loopsOk (segLoops is)

/-- Is every span between urgent points at most 90,000 compiled cycles? -/
def spansOk (g : Image) (is : List SInstr) : Nat → SegPos → Nat → Bool
  | 0, _, run => decide (run ≤ 90000)
  | f + 1, p, run =>
    let next : SegPos := { p with pc := p.pc + 1 }
    match is[p.pc]? with
    | none => decide (run ≤ 90000)
    | some (.opEnd o) =>
      let run := run + ((imgOp g o).map opCycles).getD 0
      if imgUrgent g o then decide (run ≤ 90000) && spansOk g is f next 0 else spansOk g is f next run
    | some (.loop n t) => spansOk g is f (p.loop n t) run
    | some _ => spansOk g is f next run

/-- Space a buffer takes: a RETAIN buffer is allocated twice, one copy behind the other (DEDUCED, log 23). -/
def bufSpan (b : List Byte) : Nat := if bufKind b = 6 then 2 * bufSize b else bufSize b
def bufsMeet (a b : List Byte) : Bool :=
  bufSpace a == bufSpace b && decide (bufOffset a < bufOffset b + bufSpan b) && decide (bufOffset b < bufOffset a + bufSpan a)
/-- Buffers that may not overlap: SCRATCH and KV have no place of their own. -/
def placedBufs (g : Image) : List (List Byte) := g.bufs.filter fun b => bufKind b ≠ 4 && bufKind b ≠ 2

def checkSegments (g : Image) : Bool :=
  g.segs.all (fun e => segOk e.2) &&
  g.segs.all (fun e => (e.2.filter isModeFence).length == ((g.segs.head?.map fun h => (h.2.filter isModeFence).length)).getD 0) &&
  g.segs.all (fun e => spansOk g e.2 (segWork e.2 + 1) {} 0) && noMeet bufsMeet (placedBufs g)

/-! ### Check 9 and the commands (R119) -/

/-- HBM buffers of an image that SCHED_LOAD maps; those of kind WEIGHT are mapped by WEIGHTS_LOAD. -/
def hbmBufs (g : Image) : List (List Byte) := g.bufs.filter fun b => bufSpace b = 0x41 && bufKind b ≠ 0 && bufKind b ≠ 2
/-- Virtual pages they touch. -/
def imgPages (g : Image) (scratch : Bool) : List Nat :=
  ((hbmBufs g).filter fun b => decide (bufKind b = 4) == scratch).flatMap fun b => vaPages (bufOffset b) (bufSpan b)

/-- Is there room for the image's buffers and a handle? -/
def State.imageFits (s : State) (c : Nat) (g : Image) : Bool :=
  let x := s.ctx c
  decide (x.images.length < 16) &&
  g.bufs.all (fun b => bufKind b == 2 || (match spaceSize (bufSpace b) with
    | some n => decide (bufOffset b + bufSpan b ≤ n)
    | none => decide (bufOffset b + bufSpan b ≤ x.mmuSize * pageBytes))) &&
  decide (((imgPages g false).eraseDups.filter fun v => !(s.xlatAt c v).valid).length +
    granuleFrames (s.firmwareGranules + cdiv g.raw.len 16384) ≤ s.framesFree + granuleFrames s.firmwareGranules)

/-- SHA-384 of every byte of the image before its DIGEST section (R108). -/
def imgDigest (g : Image) : List Byte := sha384 (g.raw.bytes.take (((imgSecs g 7).head?.map (·.offset)).getD 0))

/-- Detail 16 names the image (15, R411). -/
def State.schedCheck (s : State) (c len : Nat) (g : Image) : Option Reply :=
  let bad := some (Reply.bad 16)
  if !checkLayout g len then bad
  else if lb g.header 5 1 ≠ 5 || 4 < lb g.header 4 1 then some (.of stBadVersion)
  else if g.digest ≠ imgDigest g then some (.of stDigest)
  else if !checkContents (s.ctx c) g || !checkSeam g || !checkFrames g s.arr.openMinPct || !checkCredits g || !checkSegments g then
    bad
  else if !s.imageFits c g then some (.of stNoRes)
  else none

/-- Map an image's buffers: SCRATCH at their first access, the others now (12, R330). -/
def State.mapImage (s : State) (c : Nat) (g : Image) : State :=
  let s := foldS (imgPages g false) (fun s v => s.mapPage c v true false) s
  foldS (imgPages g true) (fun s v => s.reservePage c v) s

/-- Pages of a context that other objects still use. -/
def State.pagesHeld (s : State) (c : Nat) : List Nat :=
  let x := s.ctx c
  (x.images.flatMap fun e => match e.2 with
    | some g => imgPages g false ++ imgPages g true
    | none => []) ++ (x.weights.flatMap fun w => vaPages w.va w.len) ++
  ((s.sessionsOf c).flatMap fun k => (upto (s.sess k).pages).map ((s.sess k).base / pageBytes + ·))

/-- SCHED_LOAD: the checks of R117 in their order, then a handle. -/
def execSchedLoad (c : Cmd) (img : Image) (s : State) : Host.Outcome State Fault Refusal :=
  .next <| s.row c 0x10 [] fun s =>
    let x := Cmd.ownCtx c
    params s c [(16, 27)] [] <|
    match s.schedCheck x (c.le 24 4) img with
    | some r => .reply s r
    | none =>
      match s.choose ((upto 16).filter fun h => (s.image x h).isNone) with
      | none => .reply s (.of stNoRes)
      | some (h, s) =>
        let s := (s.mapImage x img).updCtx x fun y =>
          { y with images := y.images.set h (some img)
                   log := y.log ++ [{ kind := 1, handle := h, digest := img.digest }] }
        .reply s (.ok [BitVec.ofNat 8 h])

/-- Does a step that has not committed, or one built, run the image? -/
def Ctx.runsImage (x : Ctx) (h : Nat) : Bool := (x.steps ++ x.next.toList).any fun r => r.handle == h

/-- SCHED_UNLOAD. -/
def execSchedUnload (c : Cmd) (s : State) : Host.Outcome State Fault Refusal :=
  .next <| s.row c 0x11 [] fun s =>
    let x := Cmd.ownCtx c
    let h := (c.byte 16).toNat
    params s c [(16, 16)] [(decide (15 < h), 16)] <|
    match s.image x h with
    | none => .reply s (.of stNotBound)
    | some g =>
      if (s.ctx x).runsImage h || (s.ctx x).reqs.any (fun r => r.st != .queued && (r.decImg == h || r.preImg == h)) then
        .reply s (.of stBusy)
      else
        let s := s.updCtx x fun y =>
          { y with images := y.images.set h none, log := y.log.filter fun l => !(l.kind == 1 && l.handle == h) }
        let held := s.pagesHeld x
        .reply (foldS ((imgPages g false ++ imgPages g true).filter fun v => !held.contains v) (fun s v => s.unmapPage x v) s)
          (.of stOk)

end Sys2Proof.Machine
end

