-- ==== Sys2Proof/Machine/StepRows.lean ====
section
/-!
DEFINITION. Steps as events: begin, fence, watchdog, forced wash pause, urgent switch, and the boundaries without a step
(05, R120-R133; 09, R222, R242, R245).
-/
namespace Sys2Proof.Machine

/-! ### Begin (05, R120; 13, R351, R369) -/

/-- A row of the sequence table, 16 bytes (07, R173). -/
def Entry.toBytes (e : Entry) : List Byte :=
  leBytes 2 e.slot ++ leBytes 1 e.active ++ [0] ++ leBytes 4 e.first ++ leBytes 4 e.pfx ++ [0, 0, 0, 0]
/-- The copy list: a 16-byte header and an entry of 16 bytes for each copy (08, R197). -/
def copyListBytes (cs : List (Nat × Nat × Nat × Bool)) : List Byte :=
  leBytes 16 cs.length ++ cs.flatMap fun q =>
    leBytes 4 q.1 ++ leBytes 4 q.2.1 ++ leBytes 1 q.2.2.1 ++ leBytes 7 (b2n q.2.2.2)
/-- Serving control writes the sequence table and the copy list before the step, into the copies of its parity (07, R173; 08,
R197); an image without step preparation has neither. -/
def State.writeTables (s : State) (c : Nat) (g : Image) (r : StepRec) : State :=
  if (imgKvPrep g).isNone then s
  else
    let used := r.table (imgQbPos g)
    let rows := used ++ List.replicate (imgSeqEntries g - used.length) ({} : Entry)
    s.updMem fun m =>
      (m.putAll (placeKey c (imgPlace g (imgSeqBuf g) r.k) 0) (rows.flatMap Entry.toBytes)).putAll
        (placeKey c (imgPlace g (imgField g 4 2) r.k) 0) (copyListBytes r.copies)

/-- Begin the step `r` of a context that holds the array: its image must be loaded and its weights bound (05, R106).  An image
that starts in another mode than the array is in takes a mode fence first, between steps of one context too (DEDUCED, log 127). -/
def State.beginStep (s : State) (c : Nat) (r : StepRec) : State :=
  match s.image c r.handle with
  | none => s.faultCtx c stCtxFault
  | some g =>
    if !((s.ctx c).weights.any fun w => w.id == imgWeightsId g) then s.faultCtx c stCtxFault
    else
      let (s, r) := s.takeUnread (s.withTsu c r)
      let s := (s.setMode (imgStartsPress g)).clearUnits c
      let s := s.updDrn fun d => { d with divNow := d.div, rotFloorNow := d.rotFloor, raisedDivNow := d.raisedDiv }
      let s := s.updCtx c fun x =>
        { x with steps := x.steps ++ [r], next := none, nomDone := 0, nomAt := s.time, stepStart := s.time
                 jobs := x.jobs.map fun (j : Job) =>
                   if some j.id = r.job && !r.replayed then { j with begun := j.begun + 1 } else j }
      let s := s.updActx c fun a =>
        { a with step := r.k, phase := .running, handle := r.handle, wdogUs := wdogLimit (imgStepCycles g) s.lowMhz }
      let s := s.updArr fun a =>
        { a with pressUndefined := [], pressOut := [], pauseSince := none
                 cores := (upto 64).foldl (fun t n => t.upd n fun k => { k.idled with sstate := .run }) a.cores }
      ((s.writeTables c g r).loadCredits c g).startChans c g

/-- Runs of bytes that the image's buffers take in the local stores and the Basket: what holds live bytes at an urgent switch
(05, R130; log 131). -/
def liveRuns (g : Image) : List (Nat × Nat) :=
  g.bufs.filterMap fun b => if bufSpace b ≤ 0x40 then some (placeKey 0 (imgPlace g (lb b 0 2) 0) 0, (if bufKind b = 6 then 2 else 1) * bufSize b)
    else none
def inRuns (rs : List (Nat × Nat)) (k : Nat) : Bool := rs.any fun r => decide (r.1 ≤ k) && decide (k < r.1 + r.2)
/-- Save the live bytes of context `c`, and bring them back. -/
def State.saveLive (s : State) (c : Nat) : State :=
  let rs := liveRuns (s.runImage c)
  s.updArr fun a =>
    { a with savedCells := a.savedCells.set c (s.mem.cells.filter fun e => inRuns rs e.1)
             savedPoison := a.savedPoison.set c (s.mem.poison.filter fun e => inRuns rs (8 * e.1)) }
def State.restoreLive (s : State) (c : Nat) : State :=
  let rs := liveRuns (s.runImage c)
  let cells := s.arr.savedCells.get c
  let poison := s.arr.savedPoison.get c
  let s := s.updMem fun m =>
    { m with cells := cells.foldl (fun t e => Tbl.set t e.1 e.2) (m.cells.filter fun e => !inRuns rs e.1)
             poison := poison.foldl (fun t e => Tbl.set t e.1 e.2) (m.poison.filter fun e => !inRuns rs (8 * e.1)) }
  s.updArr fun a => { a with savedCells := a.savedCells.set c [], savedPoison := a.savedPoison.set c [] }

/-- State an urgent switch saves comes back, and the step goes on (05, R130, R131). -/
def State.resumeStep (s : State) (c : Nat) : State :=
  let s := s.restoreLive c
  let s : State := { s with atn := { s.atn with records := s.atn.records ++ s.atn.saved.filter (·.ctx = c)
                                                saved := s.atn.saved.filter (·.ctx ≠ c) } }
  let s := s.updArr fun a =>
    { a with cores := (upto 64).foldl (fun t n => t.set n (a.savedCores.get (64 * c + n))) a.cores
             credits := (upto 2048).foldl (fun t r => t.set r (a.savedCredits.get (2048 * c + r))) a.credits
             handoffs := a.savedHandoffs.get c
             savedCores := a.savedCores.filter fun e => e.1 / 64 ≠ c
             savedCredits := a.savedCredits.filter fun e => e.1 / 2048 ≠ c
             savedHandoffs := a.savedHandoffs.set c [] }
  let s := s.updDma fun d =>
    { d with chans := (upto 272).foldl (fun t i =>
               let k := d.savedChans.get (272 * c + i)
               if k.owned then t.set i k else t) d.chans
             savedChans := d.savedChans.filter fun e => e.1 / 272 ≠ c }
  let s := s.updDpp fun d =>
    { d with queue := d.queue ++ d.saved.filter (·.ctx = c), saved := d.saved.filter (·.ctx ≠ c) }
  let s := s.updTsu fun t =>
    { t with queue := t.queue ++ t.saved.filter (·.ctx = c), saved := t.saved.filter (·.ctx ≠ c) }
  (s.updCtx c fun x => { x with midStep := false, stepStart := s.time - x.stepStart }).updActx c fun a =>
    { a with phase := .running }

/-- Something of an earlier step must be settled before another begins. -/
def Ctx.unsettled (x : Ctx) : Bool :=
  x.leaving || x.owed || x.running || decide (1 < x.steps.length) ||
  x.steps.any fun r => r.rewindDue || !r.mismatched.isEmpty

/-- STEP_BEGIN: the context that holds the array, or that is first in line for a free one, begins its next step; a
context switched out inside a step takes it up again. -/
def execStepBegin (ctx : CtxId) (s : State) : Host.Outcome State Fault Refusal :=
  let c := ctx.val
  let x := s.ctx c
  if !s.mayStep || !s.mayHold c then .next s
  else match s.arr.cur with
  | some d =>
    if d ≠ c || x.unsettled || x.midStep then .next s
    else
      let s := if x.next.isNone then s.boundary c else s
      match (s.ctx c).next with
      | none => .next (s.leave c [])
      | some r => .next (s.beginStep c r)
  | none =>
    if !s.firstInLine c || (match s.arr.urgentTo with | some d => decide (d ≠ c) && s.mayHold d && (s.workKey d).isSome | none => false)
    then .next s
    else
      let s := s.updArr fun a => { a with urgentTo := none }
      if x.midStep then .next ((s.takeArray c x.savedPress).resumeStep c)
      else
        let s := s.takeArray c (s.arr.mode == .press)
        if x.unsettled then .next s
        else
          let s := if x.next.isNone then s.boundary c else s
          match (s.ctx c).next with
          | none => .next (s.leave c [])
          | some r => .next (s.beginStep c r)

/-! ### Urgent switch (05, R130, R131) -/

/-- Save the array's state of context `c` and give the array up inside the step. -/
def State.saveStep (s : State) (c : Nat) : State :=
  let s := s.saveLive c
  let s : State := { s with atn := { s.atn with
    saved := s.atn.saved.filter (·.ctx ≠ c) ++ s.atn.records.filter (·.ctx = c) } }
  let s := s.updArr fun a =>
    { a with savedCores := (upto 64).foldl (fun t n => t.set (64 * c + n)
               { (a.cores.get n).bareTiles with paused := false, sstate := if (a.cores.get n).atFence then .waitFence else .run }) a.savedCores
             savedCredits := (upto 2048).foldl (fun t r => t.set (2048 * c + r) (a.credits.get r)) a.savedCredits
             savedHandoffs := a.savedHandoffs.set c a.handoffs }
  let s := s.updDma fun d =>
    { d with savedChans := d.chans.foldl (fun t e =>
        if e.2.owned && e.2.ctx = c then t.set (272 * c + e.1) e.2 else t) d.savedChans }
  let s := s.updDpp fun d =>
    { d with saved := d.saved.filter (·.ctx ≠ c) ++ (match d.queue.filter (·.ctx = c) with
               | o :: r => { o with image := if d.busy then d.image else o.image } :: r
               | [] => []) }
  let s := s.updTsu fun t => { t with saved := t.saved.filter (·.ctx ≠ c) ++ t.queue.filter (·.ctx = c) }
  let press := s.arr.mode == .press
  let s := s.updCtx c fun x =>
    { x with midStep := true, savedPress := press, st := .suspended, leaving := false, stepStart := s.time - x.stepStart }
  s.releaseArray c .switchedOut

/-- The urgent switch once every S engine has stopped at its urgent point: the step before commits under a check
extension first; a pending rewind takes its steps with it. -/
def State.urgentSwitch (s : State) (c : Nat) (ext : List Bool) : State :=
  match (s.ctx c).steps with
  | p :: r :: _ =>
    if ext.length < p.checksLeft then
      (s.updCtx c fun x => { x with leaving := true }).updActx c fun a => { a with phase := .checkExt }
    else
      let s := s.applyChecks c p.k (fun _ => true) ext
      match (s.ctx c).steps.head? with
      | some h =>
        if h.rewindDue then
          let s := (s.rewind c h.k).releaseArray c .switchedOut
          s.updCtx c fun x => { x with leaving := false, st := .suspended }
        else if h.clean then (s.commit c h).saveStep c
        else
          -- a mismatch found here: REVOKE goes out, the rest waits for the context's return (13, R365)
          let s := if h.mismatched.isEmpty then s
            else ((s.revokeEpoch c h).revokeEpoch c r).updCtx c fun x =>
              { x with steps := x.steps.map fun (q : StepRec) => { q with sentTo := [] } }
          s.saveStep c
      | none => s.saveStep c
  | _ => s.saveStep c

/-! ### Fence (05, R120, R126, R127) -/

/-- R126: each hand-off buffer found off its initial credits, with its registers; then the context faults. -/
def State.creditFault (s : State) (c : Nat) (bad : List (Nat × HandOff)) : State :=
  let s := foldS bad (fun s e => s.lifetime 0x0021 [c, e.1, e.2.buffer,
    s.arr.credits.get (32 * e.2.producer.val + e.2.freeReg.val),
    s.arr.credits.get (32 * e.2.consumer.val + e.2.fullReg.val)]) s
  -- their credits stay counted as full
  let s := foldS bad (fun s e =>
    let i := 4096 * c + e.1
    let flying := s.cons (cid 0x60 i) - s.cons (cid 0x61 i)
    s.consSet (cid 0x63 i) (e.2.depth - s.arr.credits.get (32 * e.2.producer.val + e.2.freeReg.val) - flying)) s
  (s.updActx c fun a => { a with creditFault := true }).faultCtx c stCtxFault

/-- A context that holds the array with no step running: what a check extension or a referee still owes. -/
def State.settleFence (s : State) (c : Nat) (inp : FenceInput) : State :=
  if (s.ctx c).leaving then s.leave c inp.extension
  else match (s.ctx c).steps.find? fun r => !r.mismatched.isEmpty && !r.rewindDue with
  | some r =>
    if inp.referee.length < r.mismatched.length then s.updActx c fun a => { a with phase := .checkExt }
    else
      let (s, further) := s.referee c r.k inp.referee
      if further then s.suspectAll
      else match (s.ctx c).steps.find? (·.rewindDue) with
        | some q => (s.rewind c q.k).boundary c
        | none => s
  | none => match (s.ctx c).steps.find? (·.rewindDue) with
    | some q => if s.ctl.gap then s else (s.rewind c q.k).boundary c
    | none => if s.turnEnds c then s.leave c inp.extension else s

/-- STEP_FENCE_COMPLETE: all 64 S engines wait at the step fence and the step ends, check extensions included. -/
def execStepFenceComplete (ctx : CtxId) (inp : FenceInput) (s : State) : Host.Outcome State Fault Refusal :=
  let c := ctx.val
  if s.arr.cur ≠ some c then .next s
  else match (s.ctx c).steps.getLast? with
  | none => .next s
  | some r =>
    if r.fenced then .next (s.settleFence c inp)
    else if (s.ctx c).leaving then .next (s.urgentSwitch c inp.extension)
    else if !s.atStepFence c then .next s
    else
      let wait : State := s.updActx c fun a => { a with phase := .checkExt }
      match (s.ctx c).steps with
      | p :: _ :: _ =>
        let need := p.checksLeft
        if inp.extension.length < need then .next wait
        else
          let s1 := s.applyChecks c p.k (fun _ => true) (inp.extension.take need)
          let mism := (((s1.ctx c).steps.head?).map (·.mismatched.length)).getD 0
          if inp.referee.length < mism then .next wait
          else
            let (s2, further) := if mism = 0 then (s1, false) else s1.referee c p.k inp.referee
            let h := ((s2.ctx c).steps.head?).getD p
            if further then .next s2.suspectAll
            else if !h.rewindDue && !h.deps.isEmpty && !r.poisoned then .next wait
            else if !s2.badHandoffs.isEmpty then .next (s2.creditFault c s2.badHandoffs)
            else .next (s2.endFence c r inp (inp.extension.drop need))
      | _ =>
        if !s.badHandoffs.isEmpty then .next (s.creditFault c s.badHandoffs)
        else .next (s.endFence c r inp inp.extension)

/-! ### Watchdog (05, R132, R133) -/

/-- Code of an S-engine state (04, R105). -/
def SState.code : SState → Nat
  | .idle => 0
  | .run => 1
  | .waitCredit => 2
  | .waitFence => 3
  | .waitDma => 4
  | .stallFault => 5
  | .clockStep => 6

/-- SSTATE of core `n` as it reads: an engine that a step of its quadrant clock stalls shows CLOCK_STEP (04, R99, R100,
R105). -/
def State.shown (s : State) (n : Nat) : SState :=
  let k := s.core n
  if k.stalled then .stallFault
  else if k.sstate ≠ .idle && s.clk.pllBusy.getLsbD (quadOf n) then .clockStep
  else k.sstate

/-- STEP_WATCHDOG_EXPIRY: the step of the context that holds the array has used up its limit. -/
def execStepWatchdogExpiry (ctx : CtxId) (s : State) : Host.Outcome State Fault Refusal :=
  let c := ctx.val
  let x := s.ctx c
  if s.arr.cur ≠ some c || !x.running || s.time < x.stepStart + (s.actx c).wdogUs * usNs then .next s
  else
    let late := (upto 64).filter fun n => !(s.core n).atFence
    let k := (s.actx c).step
    let s := s.lifetime 0x0022 (c :: k :: late.map fun n => 16 * n + (s.shown n).code)
    let s := (s.commitBefore c).faultCtx c stCtxFault
    .next (s.updActx c fun a => { a with wdogExpired := true, phase := .watchdog })

/-! ### Forced wash pause (05, R128, R129) -/

/-- Number of an activity, and its maximum postponement in ns (05, R128). -/
def washNo : WashAct → Nat
  | .rinseHbm => 0
  | .rinseSram => 1
  | .phyCal => 2
  | .snapshot => 3
def washMax : WashAct → Nat
  | .rinseHbm => 8 * secNs
  | .rinseSram => 8 * secNs
  | .phyCal => 250 * msNs
  | .snapshot => secNs

/-- PHY calibration runs in the WASH slots of every HBM frame, and in the idle frame while no step runs (05, R116, R128). -/
def State.phySlots (s : State) : Bool :=
  match s.arr.cur with
  | none => true
  | some c => !(s.ctx c).running || (upto 8).all (imgWash (s.runImage c))

/-- FORCED_WASH_PAUSE: an activity that has waited its maximum asks for a pause of the running step; without a step every
slot is already OPEN or WASH (05, R116). -/
def execForcedWashPause (act : WashAct) (s : State) : Host.Outcome State Fault Refusal :=
  if s.time < s.mem.washAt.get (washNo act) + washMax act || s.ctl.owner.isNone then .next s
  else if act = .phyCal && s.phySlots then .next (s.updMem fun m => { m with washAt := m.washAt.set 2 s.time })
  else match s.arr.cur with
  | none => .next s
  | some c =>
    if !(s.ctx c).running || s.arr.pauseAct.isSome then .next s
    else
      let s := if washNo act < 2 then s.updMem fun m => { m with rinseBehind := true } else s
      .next (s.updArr fun a => { a with pauseAct := some act })

/-- Every S engine has stopped at an urgent point, or waits at the step fence behind its last one. -/
def State.stopped (s : State) : Bool :=
  ((upto 64).all fun n => (s.core n).paused || (s.core n).atFence) && (upto 64).any fun n => (s.core n).paused
/-- Nothing is left in an engine queue. -/
def State.queuesEmpty (s : State) : Bool := (upto 64).all fun n => (upto 4).all fun q => ((s.core n).queues.get q).isEmpty

/-- All 64 S engines have arrived: the pause begins; an urgent switch takes effect once the queues are empty and no pause is
under way (05, R129, R130). -/
def State.settlePause (s : State) (c : Nat) : State :=
  if !s.stopped || !(s.ctx c).running then s
  else match s.arr.pauseAct, s.arr.pauseSince with
  | some _, none => (s.updArr fun a => { a with pauseSince := some s.time }).updActx c fun a => { a with phase := .washPause }
  | some _, some _ => s
  | none, _ => if s.arr.urgentTo.isSome && s.queuesEmpty then s.urgentSwitch c [] else s

/-- WASH_PAUSE_END: the pause ends and the step goes on, or the urgent switch that waited for it takes effect. -/
def execWashPauseEnd (s : State) : Host.Outcome State Fault Refusal :=
  match s.arr.cur, s.arr.pauseSince, s.arr.pauseAct with
  | some c, some t, some act =>
    let s := (s.bump (arrBase + 0x28)).sample 4 ((s.time - t) / usNs)
    let s := s.updMem fun m =>
      { m with washAt := m.washAt.set (washNo act) s.time, rinseBehind := m.rinseBehind && decide (2 ≤ washNo act) }
    let s := s.updArr fun a => { a with pauseAct := none, pauseSince := none }
    if s.arr.urgentTo.isSome then .next ((s.updActx c fun a => { a with phase := .running }).settlePause c)
    else
      let s := s.updArr fun a => { a with cores := (upto 64).foldl (fun t n => t.upd n fun k =>
        if k.paused then { k with paused := false, sstate := .run } else k) a.cores }
      .next (s.updActx c fun a => { a with phase := .running })
  | _, _, _ => .next s

/-! ### Boundaries without a step, refill, token ring (09) -/

/-- Requests of steps begun and not committed, or built. -/
def Ctx.inStep (x : Ctx) (id : Nat) : Bool :=
  (x.steps ++ x.next.toList).any fun r => r.entries.any fun e => e.req == id

/-- NOSTEP_BOUNDARY: every 1 ms, each context that runs no step meets a boundary for ends without one (09, R242). -/
def execNostepBoundary (s : State) : Host.Outcome State Fault Refusal :=
  if s.ctl.owner.isNone || s.ctl.gap then .next s
  else
    .next (foldS allCtxs (fun s c =>
      let x := s.ctx c
      if x.st = .free || x.running then s
      else
        let s := foldS (x.reqs.filter fun r => !x.inStep r.id) (fun s r => s.boundaryEnd c r) s
        let s := s.admission c
        let s := if (s.ctx c).steps.isEmpty && (s.ctx c).next.isNone then
            let a := s.applyEdits c (((s.actx c).commit).getD 0) true (s.actx c).commit
            (a.s.settleBatch c a none).1
          else s
        let s := if s.arr.cur = some c then s else ((s.readyPatches c).freePatches c).switchGen c
        if (s.ctx c).tbEnds.isEmpty then s else s.writeNostep c) s).checkDrained

/-- ACCOUNT_REFILL: one 1 ms tick of every account (09, R222). -/
def execAccountRefill (s : State) : Host.Outcome State Fault Refusal :=
  match s.glb.state with
  | .doze | .clockHold | .quiesced | .init | .recovery => .next s
  | _ =>
    if s.ctl.owner.isNone || s.ctl.gap then .next s
    else .next (foldS allCtxs (fun s c => foldS (s.ctx c).accounts (fun s e =>
      let sum := e.2.rem + e.2.rate
      (s.updAcct c e.1 fun a => { a with rem := sum % 1000 }).accGrant c e.1 (sum / 1000)) s) s)

/-- TOKEN_RING_TIMEOUT: TB_HEAD has not advanced for 30 s while records wait (09, R245). -/
def execTokenRingTimeout (ctx : CtxId) (s : State) : Host.Outcome State Fault Refusal :=
  let c := ctx.val
  let x := s.ctx c
  match x.st with
  | .free | .opening | .faulted | .resetting => .next s
  | _ =>
    if x.tbWait.isEmpty || s.time < x.tbStall + 30 * secNs then .next s
    else .next ((s.faultCtx c stCtxFault).writeNostep c)

end Sys2Proof.Machine
end

