-- ==== Sys2Proof/Machine/SEngine.lean ====
section
/-!
DEFINITION. S-engine instructions and the work their engines do: the commands of a running step (05, R111, R120-R130;
04, R81, R89, R97-R100; 13, R350-R352).  A command for a core that does not run its segment changes nothing.
-/
namespace Sys2Proof.Machine

/-- The context whose segment core `n` executes: it holds the array with a step running, and the S engine is in RUN. -/
def State.segOf (s : State) (n : Nat) : Option Nat :=
  let k := s.core n
  match s.arr.cur with
  | some c => if (s.ctx c).running && k.sstate == .run && !k.stalled && !k.atFence && !k.paused then some c else none
  | none => none
/-- The next instruction of the segment. -/
def State.pcNext (s : State) (n : Nat) : State := s.updCore n fun k => { k with pc := k.pc + 1 }
/-- The instruction at core `n`'s place in its segment of the running image (05, R111). -/
def State.segAt (s : State) (c n : Nat) : Option SInstr :=
  ((s.runImage c).segs.find? fun e => e.1 == n).bind fun e => e.2[(s.core n).pc]?
/-- Run instruction `i` of core `n`'s segment, if the core executes it: it is the one its segment holds next. -/
def State.onCore (s : State) (n : Nat) (i : SInstr) (f : Nat → State) : Host.Outcome State Fault Refusal :=
  match s.segOf n with
  | some c => if s.segAt c n = some i then .next (f c) else .next s
  | none => .next s

/-! ### Credits (05, R123, R124; 19, R520) -/

/-- Register `r` of core `n`. -/
def creditKey (n r : Nat) : Nat := 32 * n + r
/-- Hand-off buffers whose free or full register it is: credits sent on the buffer. -/
def State.buffersOf (s : State) (n r : Nat) : List Nat :=
  (((upto s.arr.handoffs.length).zip s.arr.handoffs).filter fun e =>
    (e.2.producer.val == n && e.2.freeReg.val == r) || (e.2.consumer.val == n && e.2.fullReg.val == r)).map Prod.fst
/-- Credits are sent to a register of 16 bits, and added; what a sum above 65,535 leaves the spec does not state: a free
value (log 34). -/
def State.addCredit (s : State) (c n r count : Nat) : State :=
  let v := s.arr.credits.get (creditKey n r) + count
  let (d, s') := s.draw
  let s := if v ≤ 0xFFFF then s.updArr fun a => { a with credits := a.credits.set (creditKey n r) v }
    else s'.updArr fun a => { a with credits := a.credits.set (creditKey n r) (Config.value d % 65536) }
  foldS (s.buffersOf n r) (fun s b =>
    (s.consAdd (cid 0x60 (4096 * c + b)) count).consAdd (cid 0x61 (4096 * c + b)) count) s
/-- Credits are taken from a register that holds them. -/
def State.takeCredit (s : State) (n r count : Nat) : State :=
  s.updArr fun a => { a with credits := a.credits.upd (creditKey n r) (· - count) }
def State.hasCredit (s : State) (n r count : Nat) : Bool := decide (count ≤ s.arr.credits.get (creditKey n r))

/-! ### Instructions of a segment -/

/-- Is any core still in operation `op`? -/
def State.opRunning (s : State) (op : Nat) : Bool := (upto 64).any fun n => (s.core n).op.toNat == op

/-- OP_BEGIN: the core's part of operation `op` starts; an ATTENTION operation shows in ATN_STATUS (07, R184), and its first
core reads the sparse bitmap for all of it (07, R168). -/
def execOpBegin (core : CoreId) (op : Nat) (temp : Int) (s : State) : Host.Outcome State Fault Refusal :=
  s.onCore core.val (.opBegin op) fun c =>
    let first := !s.opRunning op
    let s := s.updCore core.val fun k => { k with op := BitVec.ofNat 32 op, temp, pc := k.pc + 1 }
    match imgOp (s.runImage c) op with
    | some e =>
      if opKind e = 2 then
        { s with atn := { s.atn with busy := true, ctx := some c, press := opPress e, op := op % 65536
                                     sparse := if first then s.atn.sparse.set op (s.readSparse c op) else s.atn.sparse } }
      else s
    | none => s

/-- ISSUE: the descriptor at the offset the instruction names moves to an engine queue with the instruction's credit mask; a
full queue stalls the S engine (04, R81). -/
def execIssue (core : CoreId) (queue : Fin 4) (desc : Desc) (s : State) : Host.Outcome State Fault Refusal :=
  s.onCore core.val (.issue queue desc.off desc.credits) fun _ =>
    if 8 ≤ ((s.core core.val).queues.get queue.val).length then s
    else s.updCore core.val fun k => { k with queues := k.queues.upd queue.val (· ++ [desc]), pc := k.pc + 1 }

/-- CREDIT_WAIT: the count is subtracted at once, or the S engine waits for it. -/
def execCreditWait (core : CoreId) (reg : Fin 32) (count : Nat) (s : State) : Host.Outcome State Fault Refusal :=
  s.onCore core.val (.creditWait reg count) fun _ =>
    if s.hasCredit core.val reg.val count then (s.takeCredit core.val reg.val count).pcNext core.val
    else s.updCore core.val fun k => { k with sstate := .waitCredit, waitOn := reg.val, waitCount := count }

/-- CREDIT_WAIT_RELEASE: the register has reached the count. -/
def execCreditWaitRelease (core : CoreId) (s : State) : Host.Outcome State Fault Refusal :=
  let n := core.val
  let k := s.core n
  if k.sstate = .waitCredit && s.arr.cur.isSome && s.hasCredit n k.waitOn k.waitCount then
    .next ((s.takeCredit n k.waitOn k.waitCount).updCore n fun k =>
      { k with sstate := .run, waitOn := 0, waitCount := 0, pc := k.pc + 1 })
  else .next s

/-- CREDIT_SEND. -/
def execCreditSend (core dst : CoreId) (reg : Fin 32) (count : Nat) (s : State) : Host.Outcome State Fault Refusal :=
  s.onCore core.val (.creditSend dst reg count) fun c => (s.addCredit c dst.val reg.val count).pcNext core.val

/-- CHECK_SLOT: the Darner re-runs tiles of the previous step whose buddy this core is (13, R355); `equal` are the results
of the checks that fit. -/
def execCheckSlot (core : CoreId) (cycles : Nat) (equal : List Bool) (s : State) : Host.Outcome State Fault Refusal :=
  s.onCore core.val (.checkSlot cycles) fun c =>
    let s := match (s.ctx c).steps with
      | p :: _ :: _ => if cycles = 0 then s else s.applyChecks c p.k (fun t => t.core = buddyOf core.val) equal
      | _ => s
    s.pcNext core.val

/-- All 64 S engines wait at a mode fence for one target and nothing is left in their queues. -/
def State.fenceTarget (s : State) : Option Bool :=
  match (s.core 0).modeFence with
  | some m => if ((upto 64).all fun n => (s.core n).modeFence == some m) && s.queuesEmpty then some m else none
  | none => none
/-- ARR_MODE shows the fence in progress: once all 64 wait with nothing queued and the change of mode itself runs, not from
the first that waits (DEDUCED, log 127). -/
def State.noteFence (s : State) : State :=
  if s.fenceTarget.isSome then s.updArr fun a => { a with mode := .fence } else s

/-- MODE_FENCE: the S engine waits in WAIT_FENCE. -/
def execModeFence (core : CoreId) (press : Bool) (s : State) : Host.Outcome State Fault Refusal :=
  s.onCore core.val (.modeFence press) fun _ =>
    (s.updCore core.val fun k => { k with sstate := .waitFence, modeFence := some press }).noteFence

/-- MODE_FENCE_PROCEED: the array changes mode and all S engines resume together; `excessNs` is the time beyond the compiled
cost (04, R97, R103; 19, R517). -/
def execModeFenceProceed (excessNs : Nat) (s : State) : Host.Outcome State Fault Refusal :=
  match s.fenceTarget with
  | none => .next s
  | some press =>
    let s := s.changeMode press excessNs
    .next (s.updArr fun a => { a with cores := (upto 64).foldl (fun t n => t.upd n fun k =>
      { k with sstate := .run, modeFence := none, pc := k.pc + 1 }) a.cores })

/-- STEP_FENCE: the segment ends. -/
def execStepFence (core : CoreId) (s : State) : Host.Outcome State Fault Refusal :=
  s.onCore core.val .stepFence fun c =>
    (s.updCore core.val fun k => { k with sstate := .waitFence, atFence := true }).settlePause c

/-- LOOP. -/
def execLoop (core : CoreId) (count target : Nat) (s : State) : Host.Outcome State Fault Refusal :=
  s.onCore core.val (.loop count target) fun _ =>
    s.updCore core.val fun k =>
      let p := SegPos.loop { pc := k.pc, loops := k.loops } count target
      { k with pc := p.pc, loops := p.loops }

/-- Has channel `ch` of core `n` reached the count? -/
def State.dmaReached (s : State) (n ch count : Nat) : Bool := decide (count ≤ (s.chan (4 * n + ch)).progress)

/-- WAIT_DMA: the S engine waits until the channel's progress count reaches the value. -/
def execWaitDma (core : CoreId) (channel : Fin 4) (count : Nat) (s : State) : Host.Outcome State Fault Refusal :=
  s.onCore core.val (.waitDma channel count) fun _ =>
    if s.dmaReached core.val channel.val count then s.pcNext core.val
    else s.updCore core.val fun k => { k with sstate := .waitDma, waitOn := channel.val, waitCount := count }

/-- WAIT_DMA_RELEASE. -/
def execWaitDmaRelease (core : CoreId) (s : State) : Host.Outcome State Fault Refusal :=
  let n := core.val
  let k := s.core n
  if k.sstate = .waitDma && s.arr.cur.isSome && s.dmaReached n k.waitOn k.waitCount then
    .next (s.updCore n fun k => { k with sstate := .run, waitOn := 0, waitCount := 0, pc := k.pc + 1 })
  else .next s

/-- Does a context outrank the one that holds the array (09, R234)? -/
def State.outranks (s : State) (d c : Nat) : Bool :=
  d ≠ c && s.mayHold d && (match s.workKey d, s.workKey c with
    | some j, some k => decide (keyPrio j < keyPrio k) || (decide (keyPrio j = keyPrio k) && decide (keyEta j + 300 ≤ keyEta k))
    | some _, none => true
    | none, _ => false)

/-- Is a core in an ATTENTION operation? -/
def State.attnRunning (s : State) (c : Nat) : Bool := (upto 64).any fun n => opKind (s.opEntry c (s.core n).op.toNat) == 2
/-- Operation `op` is over on every core: what it held for attention goes, and ATN_STATUS names a running operation's context
only while one runs (07, R184). -/
def State.attnOver (s : State) (c op : Nat) : State :=
  let busy := s.attnRunning c
  { s with atn := { s.atn with busy, ctx := if busy then s.atn.ctx else none, sparse := s.atn.sparse.del op } }

/-- OP_END: the core's part of the operation ends.  A fault that acts here is taken; the end of a Press operation lets a
waiting clock step in; at an urgent point the core stops for a pause or a switch that is asked for: `urgent` is the context
firmware asks for now. -/
def execOpEnd (core : CoreId) (op : Nat) (urgent : Option CtxId) (s : State) : Host.Outcome State Fault Refusal :=
  s.onCore core.val (.opEnd op) fun c =>
    let n := core.val
    let s := s.updCore n fun k => { k with op := 0xFFFFFFFF, pc := k.pc + 1 }
    if (((s.ctx c).steps.getLast?).map fun r => decide ((n, op) ∈ r.faultOps)).getD false then s.faultCtx c stCtxFault
    else
      let opOver := !s.opRunning op
      let s := if opOver then s.attnOver c op else s
      let s := if opOver && opPress (s.opEntry c op) then s.pressBoundary else s
      let s := match urgent with
        | some d => if s.outranks d.val c then s.updArr fun a => { a with urgentTo := some d.val } else s
        | none => s
      if imgUrgent (s.runImage c) op && (s.arr.pauseAct.isSome || s.arr.urgentTo.isSome) then
        (s.updCore n fun k => { k with paused := true, sstate := .waitFence }).settlePause c
      else s

/-! ### Engines (04, R81, R89) -/

/-- Virtual ranges a descriptor's work touches on core `n`: address, length, write. -/
def State.workVas (s : State) (c n : Nat) (w : Work) : List (Nat × Nat × Bool) :=
  match w with
  | .load op b k => matVas (s.operandB c op b) b.rows k
  | .stream op _ _ _ a k => if s.onLane n then [] else matVas (s.operandA c op a) a.rows k
  | .drain op _ rows cols bias residual out pitch =>
    (bias.map vecVas).getD [] ++ (residual.map vecVas).getD [] ++
      rowVas out rows pitch (rowBytes (opFmtOut (s.opEntry c op)) cols)
  | .vec op v a b d bf out => vecVas a ++ vecVas b ++ vecVas d ++ placeVa out (s.vecOutBytes c op v a bf) true
  | .attn op entry head _ _ final q out =>
    let u := s.atnUnit c (((s.ctx c).steps.getLast?).getD {}) op entry head
    let row := rowBytes (opFmtOut (s.opEntry c op)) u.d
    matVas (s.operandA c op q) q.rows u.d ++ (if final then rowVas out (u.g * u.qb) row row else [])
  | .patch op _ _ _ _ x k => matVas (s.operandA c op x) x.rows k
  | .append _ src => matVas src src.rows ((s.ctx c).heads * (s.ctx c).dim)
  | .attnSkip _ _ => []
  | .kvPrep _ => []
  | .dpp _ => []
  | .tsu _ => []
  | .dma _ => []
/-- The first access that faults: was it a write, where and why. -/
def State.workFault (s : State) (c n : Nat) (w : Work) : Option (Bool × Nat × Nat) :=
  (s.workVas c n w).findSome? fun e => (s.vaFault c e.1 e.2.1 e.2.2).map fun f => (e.2.2, f.1, f.2)

/-- Operation of a descriptor's work; the core's own where the descriptor names none. -/
def workOp (now : Nat) : Work → Nat
  | .load op _ _ => op
  | .stream op _ _ _ _ _ => op
  | .drain op _ _ _ _ _ _ _ => op
  | .vec op _ _ _ _ _ _ => op
  | .attn op _ _ _ _ _ _ _ => op
  | .attnSkip op _ => op
  | .patch op _ _ _ _ _ _ => op
  | .kvPrep op => op
  | .append op _ => op
  | .dpp op => op
  | .tsu op => op
  | .dma _ => now

/-- Does the work read a poisoned operand (13, R355)? -/
def State.workPoison (s : State) (c n : Nat) (w : Work) : Bool :=
  let mat := fun (a : MatRef) (rows k : Nat) => (upto rows).any fun r => (upto k).any fun i => (s.matAt c a r i).2.2
  let vec := fun (a : VecRef) => (upto a.len).any (s.vecPoison c a)
  match w with
  | .load op b k => (s.readSlab c (s.operandB c op b) k).poisoned
  | .stream op _ _ switch a k =>
    (s.streamRows c n op a k).poisoned || ((if switch then (s.core n).shadow else (s.core n).active).getD {}).poisoned
  | .vec _ _ a b d _ _ => vec a || vec b || vec d
  | .patch op _ _ _ _ x k => mat (s.operandA c op x) x.rows k
  | .attn op entry head lo hi _ q _ =>
    let r := ((s.ctx c).steps.getLast?).getD {}
    let u := s.atnUnit c r op entry head
    mat (s.operandA c op q) q.rows u.d || !(s.poisonedPages r u entry ((upto (hi + 1 - lo)).map (lo + ·))).isEmpty
  | _ => false

/-- Places free in the DPP and the TSU: one operation runs, 4 wait (06, R147; 10, R270); both take their operations from an X
queue. -/
def State.unitFull (s : State) (queue : Fin 4) : Work → Bool
  | .dpp _ => queue.val != 3 || decide (4 + b2n s.dpp.busy ≤ s.dpp.queue.length)
  | .tsu _ => queue.val != 3 || decide (4 + b2n s.tsu.busy ≤ s.tsu.queue.length)
  | _ => false

/-- A direct write of the CLK block has broken a ratio limit (18, R495). -/
def State.limitsBroken (s : State) : Bool :=
  let noc := 300 + 25 * s.clk.nocPll
  (s.quads.any fun q => decide (2 * noc < settingMhz q) || decide (settingMhz q < noc)) ||
    decide (noc < 100 + 25 * s.clk.codecPll) || (s.arr.mode == .press && s.quads.any (· != s.quads.headD 0))
/-- Results of an operation that a direct PLL write has left undefined, and of any operation while a ratio limit is broken,
are free bytes (R101; 18, R495; log 111); those of a Press operation are remembered until the step ends. -/
def State.undefine (s : State) (c op : Nat) (runs : List (Nat × Nat)) : State :=
  if s.limitsBroken || op ∈ s.arr.pressUndefined then foldS runs (fun s r => s.freeRun r.1 r.2) s
  else if opPress (s.opEntry c op) then
    s.updArr fun a => { a with pressOut := runs.map (fun r => (op, r.1, r.2)) ++ a.pressOut }
  else s
/-- The runs of bytes that a work's results fill. -/
def State.resultRuns (s : State) (c : Nat) (w : Work) : List (Nat × Nat) :=
  match w with
  | .drain op _ rows cols _ _ out pitch =>
    (upto rows).map fun r => (placeKey c out (r * pitch), rowBytes (opFmtOut (s.opEntry c op)) cols)
  | .vec op v a _ _ bf out => [(placeKey c out 0, s.vecOutBytes c op v a bf)]
  | .attn op entry head _ _ final _ out =>
    let u := s.atnUnit c (((s.ctx c).steps.getLast?).getD {}) op entry head
    let row := rowBytes (opFmtOut (s.opEntry c op)) u.d
    if final then (upto (u.g * u.qb)).map fun r => (placeKey c out (r * row), row) else []
  | _ => []

/-- The effect of a descriptor's work on core `n`. -/
def State.doWork (s : State) (c n : Nat) (w : Work) : State :=
  match w with
  | .load op b k => s.doLoad c n op b k
  | .stream op bank fresh switch a k => s.doStream c n op bank.val fresh switch a k
  | .drain op bank rows cols bias residual out pitch => s.doDrain c n op bank.val rows cols bias residual out pitch
  | .vec op v a b d bf out => s.doVec c op v a b d bf out
  | .attn op entry head lo hi final q out => s.doAttn c n op entry head lo hi final q out
  | .attnSkip _ blocks => s.chargeRun c { skips := blocks }
  | .patch op bank row0 col0 cols x k => s.doPatch c n op bank.val row0 col0 cols x k
  | .kvPrep op => s.doKvPrep c op
  | .append op src => s.doAppend c n op src
  | .dpp op => s.updDpp fun d => { d with queue := d.queue ++ [{ ctx := c, op, desc := imgDesc (s.runImage c) op }] }
  | .tsu op => s.updTsu fun t => { t with queue := t.queue ++ [{ ctx := c, op, desc := imgDesc (s.runImage c) op }] }
  -- a channel's program runs from the step's begin (12, R339)
  | .dma _ => s

/-- A line of 64 bytes of core `n`'s local store: bytes and poison. -/
def State.storeLine (s : State) (n off : Nat) : List Byte × List Bool :=
  let k := storeKey n (lineOf off)
  (s.mem.bytesAt k 64, (upto 8).map fun i => s.mem.poisoned (k + 8 * i))
/-- The line of a discarded write as it was. -/
def State.putLine (s : State) (n off : Nat) (l : List Byte × List Bool) : State :=
  let k := storeKey n (lineOf off)
  s.updMem fun m => (l.2.zip (upto 8)).foldl (fun m e => m.setPoison (k + 8 * e.2) e.1) (m.putAll k l.1)
/-- Poison bits of a line after a read that returned it poisoned: as before, but for words written since. -/
def State.healLine (s : State) (n off : Nat) (l : List Byte × List Bool) : State :=
  let k := storeKey n (lineOf off)
  s.updMem fun m => (l.2.zip (upto 8)).foldl (fun m e =>
    if m.bytesAt (k + 8 * e.2) 8 = (l.1.drop (8 * e.2)).take 8 then m.setPoison (k + 8 * e.2) e.1 else m) m
/-- A line that reads with the poison bit set. -/
def State.poisonLine (s : State) (n off : Nat) : State :=
  s.updMem fun m => (upto 8).foldl (fun m i => m.setPoison (storeKey n (lineOf off) + 8 * i) true) m

/-- Two ports meet on one bank: the other port's access is lost (R86, R89). -/
def Collide.real (e : Collide) : Bool := decide (e.lo < e.hi) && bankOf e.loOff == bankOf e.hiOff

/-- A collision's mark (R89): LS_COLLIDE, its counter, the lifetime record, and the fault at the operation's end. -/
def State.collided (s : State) (c n op : Nat) (e : Collide) : State :=
  let s := (s.updCore n fun k => { k with lsCollide := true }).bump (arrBase + 0x18)
  (s.lifetime 0x0020 [n, s.time, e.lo.val, e.hi.val]).opFault c n op
/-- The marks of several, while the context holds the array. -/
def State.collidedAll (s : State) (c n op : Nat) (es : List Collide) : State :=
  foldS es (fun s e => if s.arr.cur = some c then s.collided c n op e else s) s

/-- Run `f`, an access of core `n`, with the accesses it loses: a read returns its line poisoned, a write is discarded (R89). -/
def State.losing (s : State) (n : Nat) (es : List Collide) (f : State → State) : State :=
  let lines := es.map fun e => (e, s.storeLine n e.hiOff)
  let s := foldS lines (fun s q => if q.1.write then s else s.poisonLine n q.1.hiOff) s
  foldS lines (fun s q => if q.1.write then s.putLine n q.1.hiOff q.2 else s.healLine n q.1.hiOff q.2) (f s)

/-- Run the work with the errors its reads meet and its bank collisions. -/
def State.workCollide (s : State) (c n : Nat) (d : Desc) : State :=
  s.reading d.ecc fun s => s.losing n (d.collide.filter Collide.real) fun s =>
    (s.doWork c n d.work).undefine c (workOp (s.core n).op.toNat d.work) (s.resultRuns c d.work)

/-- An eligible tile is sampled or not; a tile that mismatched before the replay is sampled again (13, R351, R360). -/
def State.tileDone (s : State) (c n : Nat) (fclass : Fin 5) (poisoned : Bool) (t : TileRef) : State :=
  match (s.ctx c).steps.getLast? with
  | none => s
  | some r =>
    let same := fun (x : Tile) => x.op == t.op && x.core == n && x.group == t.group.val && x.index == t.index
    let (s, yes) := s.sampleTile c n fclass t (r.resample.any same)
    let tile : Tile := { op := t.op, core := n, group := t.group.val, index := t.index, bin := s.binOf n fclass.val, poisoned }
    if yes then s.updStep c r.k fun r => { r with unchecked := r.unchecked ++ [tile] } else s

/-- A residue mismatch of output conversion (13, R350): a minority, and the step is rewound. -/
def State.residueBad (s : State) (c n op : Nat) (fclass : Fin 5) (t : Option TileRef) : State :=
  match (s.ctx c).steps.getLast? with
  | none => s
  | some r =>
    let (g, i) := match t with
      | some t => (t.group.val, t.index)
      | none => (0, 0)
    let (s, further) := s.residueMismatch c r.k n op g i (s.binOf n fclass.val)
    let s := s.updStep c r.k fun r => { r with rewindDue := true }
    if further then s.suspectAll else s

def workDrains : Work → Bool
  | .drain _ _ _ _ _ _ _ _ => true
  | _ => false

/-- FCLASS of work on a queue (13, R366): V-engine work, or the class of the operation's operand pair. -/
def State.fclass (s : State) (c : Nat) (queue : Fin 4) (op : Nat) : Fin 5 :=
  let a := opFmtA (s.opEntry c op)
  let b := opFmtB (s.opEntry c op)
  if queue.val = 1 || queue.val = 2 then 4
  else if a = 0xB || a = 0xC then 3
  else if (a = 7 && b = 7) || (a = 0xA && b = 0xA) then 2
  else if fmtMx a then 1
  else 0

/-- Tiles of a descriptor that may be sampled: its operation has CHECK_ELIGIBLE set, and the tile is one of those its entry
counts (05, R109; 07, R181). -/
def State.eligibleTiles (s : State) (c : Nat) (ts : List TileRef) : List TileRef :=
  ts.filter fun t => opCheckEligible (s.opEntry c t.op) && decide (t.index < opTiles (s.opEntry c t.op))

/-- ENGINE_INSTRUCTION_START: the instruction at a queue's head runs once a credit of every register its mask names has
arrived; it takes them (log 32).  A translation fault leaves it at the head, the core in STALL_FAULT (12, R330). -/
def execEngineInstructionStart (core : CoreId) (queue : Fin 4) (s : State) : Host.Outcome State Fault Refusal :=
  let n := core.val
  match s.arr.cur, (s.core n).queues.get queue.val with
  | some c, d :: rest =>
    if !(s.ctx c).running || !(d.credits.all fun r => s.hasCredit n r.val 1) || s.unitFull queue d.work ||
        !s.tileReady n d.work || !s.atnPlaced c n d.work then .next s
    else match s.workFault c n d.work with
    | some (w, va, cause) => .next ((s.latchFault c w (va, cause)).updCore n fun k => { k with stalled := true })
    | none =>
      let s := foldS d.credits (fun s r => s.takeCredit n r.val 1) s
      let s := s.updCore n fun k => { k with queues := k.queues.set queue.val rest, stalled := false }
      let op := workOp (s.core n).op.toNat d.work
      let poisoned := s.workPoison c n d.work
      let s := (s.workCollide c n d).collidedAll c n op (d.collide.filter Collide.real)
      if s.arr.cur ≠ some c then .next s
      else
        let s := foldS (s.eligibleTiles c d.tiles) (fun s t => s.tileDone c n (s.fclass c queue t.op) poisoned t) s
        let s := if d.residueBad && workDrains d.work then s.residueBad c n op (s.fclass c queue op) d.tiles.head? else s
        if s.arr.cur ≠ some c then .next s else .next (s.noteFence.settlePause c)
  | _, _ => .next s

end Sys2Proof.Machine
end

