-- ==== Sys2Proof/Machine/Dpp.lean ====
section
/-!
DEFINITION. The detection post-processor: decode, selection, suppression, output of one image, and lockstep faults
(06, R147-R157).
-/
namespace Sys2Proof.Machine

/-! ### Boxes -/

/-- An FP32 constant: pi and pi / 2 rounded to nearest (log 35). -/
def fPi : Word := 0x40490FDB
def fHalfPi : Word := 0x3FC90FDB
def fHalf : Word := 0x3F000000
def fNeg (a : Word) : Word := a ^^^ 0x80000000
def fAbs (a : Word) : Word := a &&& 0x7FFFFFFF
def fFinite (a : Word) : Bool := a.toNat / 2 ^ 23 % 256 != 255
/-- `a ≤ b`, false for a NaN. -/
def fLe (a b : Word) : Bool := !fNan a && !fNan b && !fLt b a
/-- Largest integer at or below an FP32 value. -/
def fFloor (a : Word) : Word :=
  match Word.val a with
  | .fin neg m e =>
    if 0 ≤ e then a
    else
      let d := (-e).toNat
      let q := m >>> d
      let up := neg && decide (m % 2 ^ d ≠ 0)
      toFp32 (.fin neg (if up then q + 1 else q) 0)
  | _ => a
/-- Reduction of an angle to [-pi/2, pi/2) (R148). -/
def reduceAngle (t : Word) : Word := fSub t (fMul fPi (fFloor (fDiv (fAdd t fHalfPi) fPi)))

/-- A decoded candidate: an axis-aligned box holds x1, y1, x2, y2, a rotated one cx, cy, w, h and its angle. -/
structure Cand where
  index : Nat := 0
  b0 : Word := 0
  b1 : Word := 0
  b2 : Word := 0
  b3 : Word := 0
  theta : Word := 0
  score : Word := 0
  cls : Nat := 0
  deriving DecidableEq, Repr, Inhabited

/-- A DPP descriptor, read (R147). -/
structure DppD where
  mode : Nat
  fmt : Nat
  sigmoid : Bool
  agnostic : Bool
  clip : Bool
  classes : Nat
  images : Nat
  n : Nat
  topN : Nat
  keepMax : Nat
  scoreThr : Word
  iouThr : Word
  dwClip : Word
  vx : Word
  vy : Word
  vw : Word
  vh : Word
  width : Nat
  height : Nat
  input : Nat
  aux : Nat
  output : Nat
  /-- chip channels it reads and writes through, 0-15 -/
  readCh : Nat
  writeCh : Nat
  core : Nat
  reg : Nat

def dppRead (d : List Byte) : DppD :=
  let w := fun (i : Nat) => BitVec.ofNat 32 (lb d i 4)
  { mode := lb d 0 1, fmt := lb d 1 1, sigmoid := (lb d 2 1).testBit 0, agnostic := (lb d 2 1).testBit 1
    clip := (lb d 2 1).testBit 2, classes := lb d 4 2, images := lb d 6 2, n := lb d 8 4, topN := lb d 12 4
    keepMax := lb d 16 2, scoreThr := w 20, iouThr := w 24, dwClip := w 28, vx := w 32, vy := w 36, vw := w 40, vh := w 44
    width := lb d 48 2, height := lb d 50 2, input := lb d 52 2, aux := lb d 54 2, output := lb d 56 2
    readCh := lb d 58 1, writeCh := lb d 59 1, core := lb d 60 1, reg := lb d 61 1 }
/-- Modes 1 and 4 hold rotated boxes; 2, 3 and 4 read the auxiliary table of 4 or 3 FP32 values a candidate. -/
def DppD.rotated (d : DppD) : Bool := d.mode == 1 || d.mode == 4
def DppD.params (d : DppD) : Nat := if d.rotated then 5 else 4
def DppD.auxLen (d : DppD) : Nat := if d.mode = 2 then 4 else if d.mode = 3 || d.mode = 4 then 3 else 0
def DppD.row (d : DppD) : Nat := d.params + d.classes
/-- Bytes of an image's output. -/
def DppD.outLen (d : DppD) : Nat := 32 + 32 * d.keepMax

/-- The box of a candidate (R148): parameters `p`, auxiliary values `a`. -/
def DppD.box (d : DppD) (p a : Nat → Word) : Word × Word × Word × Word × Word :=
  match d.mode with
  | 0 => (p 0, p 1, p 2, p 3, 0)
  | 1 => (p 0, p 1, p 2, p 3, reduceAngle (p 4))
  | 2 =>
    let cx := fAdd (a 0) (fMul (fMul (p 0) d.vx) (a 2))
    let cy := fAdd (a 1) (fMul (fMul (p 1) d.vy) (a 3))
    let w := fMul (a 2) (sfu .exp (fMin (fMul (p 2) d.vw) d.dwClip))
    let h := fMul (a 3) (sfu .exp (fMin (fMul (p 3) d.vh) d.dwClip))
    (fSub cx (fMul fHalf w), fSub cy (fMul fHalf h), fAdd cx (fMul fHalf w), fAdd cy (fMul fHalf h), 0)
  | 3 =>
    (fSub (a 0) (fMul (p 0) (a 2)), fSub (a 1) (fMul (p 1) (a 2)), fAdd (a 0) (fMul (p 2) (a 2)),
     fAdd (a 1) (fMul (p 3) (a 2)), 0)
  | _ =>
    (fAdd (a 0) (fMul (p 0) (a 2)), fAdd (a 1) (fMul (p 1) (a 2)), fMul (a 2) (sfu .exp (fMin (p 2) d.dwClip)),
     fMul (a 2) (sfu .exp (fMin (p 3) d.dwClip)), reduceAngle (p 4))

/-- With CLIP, coordinates within the image. -/
def DppD.clamp (d : DppD) (b : Word × Word × Word × Word × Word) : Word × Word × Word × Word × Word :=
  if !d.clip then b
  else
    let c := fun (v : Word) (m : Nat) => fMin (fMax v fZero) (fNat m)
    (c b.1 d.width, c b.2.1 d.height, c b.2.2.1 d.width, c b.2.2.2.1 d.height, b.2.2.2.2)

/-- Score and class (R149): the largest, the lowest index that attains it. -/
def bestScore (xs : List Word) : Word × Nat :=
  match xs with
  | [] => (0, 0)
  | x :: r => ((r.zip (upto r.length)).foldl (fun b e => if fLt b.1 e.1 then (e.1, e.2 + 1) else b) (x, 0))

/-- One candidate row: none if it is invalid. -/
def DppD.cand (d : DppD) (i : Nat) (x a : Nat → Word) : Option Cand :=
  if !((upto d.row).all fun j => fFinite (x j)) then none
  else
    let b := d.clamp (d.box x a)
    let w := if d.rotated then b.2.2.1 else fSub b.2.2.1 b.1
    let h := if d.rotated then b.2.2.2.1 else fSub b.2.2.2.1 b.2.1
    if fLe w fZero || fLe h fZero then none
    else
      let sc := (upto d.classes).map fun j => let z := x (d.params + j); if d.sigmoid then sfu .sigmoid z else z
      let (s, k) := bestScore sc
      some { index := i, b0 := b.1, b1 := b.2.1, b2 := b.2.2.1, b3 := b.2.2.2.1, theta := b.2.2.2.2, score := s, cls := k }

/-! ### Suppression (R150, R151) -/

/-- Corners of a rotated box in the order of R151. -/
def Cand.corners (c : Cand) : List (Word × Word) :=
  let co := sfu .cos c.theta
  let si := sfu .sin c.theta
  let hx := fMul fHalf c.b2
  let hy := fMul fHalf c.b3
  [(false, false), (true, false), (true, true), (false, true)].map fun e =>
    let x := if e.1 then fNeg hx else hx
    let y := if e.2 then fNeg hy else hy
    (fAdd c.b0 (fSub (fMul x co) (fMul y si)), fAdd c.b1 (fAdd (fMul x si) (fMul y co)))

/-- Signed distance from the edge `a b`, positive on the inner side, times the edge's length: the crossing parameter is a
ratio of two of them (log 35). -/
def sideOf (a b p : Word × Word) : Word :=
  fSub (fMul (fSub b.1 a.1) (fSub p.2 a.2)) (fMul (fSub b.2 a.2) (fSub p.1 a.1))

/-- One pass: clip a polygon against an edge. -/
def clipEdge (a b : Word × Word) (poly : List (Word × Word)) : List (Word × Word) :=
  let next := poly.drop 1 ++ poly.take 1
  (poly.zip next).flatMap fun e =>
    let d0 := sideOf a b e.1
    let d1 := sideOf a b e.2
    let keep := if fLe fZero d0 then [e.1] else []
    let cross := (fLt d0 fZero && fLt fZero d1) || (fLt fZero d0 && fLt d1 fZero)
    if cross then
      let t := fDiv d0 (fSub d0 d1)
      keep ++ [(fAdd e.1.1 (fMul t (fSub e.2.1 e.1.1)), fAdd e.1.2 (fMul t (fSub e.2.2 e.1.2)))]
    else keep

/-- Half the absolute shoelace sum. -/
def polyArea (poly : List (Word × Word)) : Word :=
  let next := poly.drop 1 ++ poly.take 1
  let sum := (poly.zip next).foldl (fun acc e => fAdd acc (fSub (fMul e.1.1 e.2.2) (fMul e.2.1 e.1.2))) fZero
  fMul fHalf (fAbs sum)

def Cand.area (rotated : Bool) (c : Cand) : Word :=
  if rotated then fMul c.b2 c.b3 else fMul (fSub c.b2 c.b0) (fSub c.b3 c.b1)
/-- Intersection of a kept box and a candidate. -/
def intersection (rotated : Bool) (k c : Cand) : Word :=
  if rotated then
    let cs := c.corners
    let edges := cs.zip (cs.drop 1 ++ cs.take 1)
    let poly := edges.foldl (fun p e => clipEdge e.1 e.2 p) k.corners
    fMin (polyArea poly) (fMin (k.area true) (c.area true))
  else
    let w := fMax fZero (fSub (fMin k.b2 c.b2) (fMax k.b0 c.b0))
    let h := fMax fZero (fSub (fMin k.b3 c.b3) (fMax k.b1 c.b1))
    fMul w h
def overlaps (rotated : Bool) (thr : Word) (k c : Cand) : Bool :=
  let inter := intersection rotated k c
  let union := fSub (fAdd (k.area rotated) (c.area rotated)) inter
  fLt (fMul thr union) inter

/-- The kept boxes in kept order, and whether candidates remained when the list was full. -/
def suppress (d : DppD) : List Cand → List Cand → List Cand × Bool
  | [], kept => (kept, false)
  | c :: cs, kept =>
    if kept.length = d.keepMax then (kept, true)
    else if kept.any fun k => (d.agnostic || k.cls == c.cls) && overlaps d.rotated d.iouThr k c then suppress d cs kept
    else suppress d cs (kept ++ [c])

/-- Insert by descending score, ties by ascending index: the list comes in index order. -/
def insScore (c : Cand) : List Cand → List Cand
  | [] => [c]
  | k :: ks => if fLt k.score c.score then c :: k :: ks else k :: insScore c ks
def sortScore (l : List Cand) : List Cand := l.foldl (fun acc c => insScore c acc) []

/-! ### One image (R152, R153) -/

/-- What one image gives: header counts and kept boxes. -/
structure DppOut where
  kept : List Cand := []
  passed : Nat := 0
  invalid : Nat := 0
  trunc : Bool := false
  keepFull : Bool := false

def DppD.run (d : DppD) (x a : Nat → Nat → Word) : DppOut :=
  let cs := (upto d.n).map fun i => d.cand i (x i) (a i)
  let good := cs.filterMap id
  let pass := good.filter fun c => fLe d.scoreThr c.score
  let (kept, full) := suppress d ((sortScore pass).take d.topN) []
  { kept, passed := pass.length, invalid := d.n - good.length, trunc := decide (d.topN < pass.length), keepFull := full }

def wordLe (w : Word) : List Byte := leBytes 4 w.toNat
/-- Header and records. -/
def DppD.bytes (d : DppD) (o : DppOut) (poison replayed : Bool) : List Byte :=
  let flags := b2n o.trunc + 2 * b2n o.keepFull + 4 * b2n poison + 8 * b2n replayed
  let recs := (o.kept.zip (upto o.kept.length)).flatMap fun e =>
    let c := e.1
    wordLe c.b0 ++ wordLe c.b1 ++ wordLe c.b2 ++ wordLe c.b3 ++ wordLe c.theta ++ wordLe c.score ++ leBytes 2 c.cls ++
      leBytes 2 e.2 ++ leBytes 4 c.index
  leBytes 4 o.kept.length ++ leBytes 4 d.n ++ leBytes 4 o.passed ++ leBytes 4 o.invalid ++ leBytes 2 flags ++
    List.replicate 14 0 ++ recs ++ List.replicate (32 * (d.keepMax - o.kept.length)) 0

/-- Place of element `i` of a buffer whose elements lie packed. -/
def placeVas (p : Place) (off len : Nat) (write : Bool) : List (Nat × Nat × Bool) :=
  match p with
  | .ctxVa va => if len = 0 then [] else [(va + off, len, write)]
  | _ => []

/-- The image in hand of the running operation: its output written, flags and counts to the step's charge. -/
def State.dppImage (s : State) (o : DppOp) (i : Nat) : State :=
  let c := o.ctx
  let d := dppRead o.desc
  let k := (((s.ctx c).steps.getLast?).map (·.k)).getD 0
  let replayed := (((s.ctx c).steps.getLast?).map (·.lockstepReplay)).getD false
  let inp := s.bufPlace c d.input k
  let aux := s.bufPlace c d.aux k
  let out := s.bufPlace c d.output k
  let w := fmtBits d.fmt
  let first := i * d.n * d.row
  let pk := placeKey c inp 0
  let ak := placeKey c aux 0
  let x := fun r j => toFp32 (fmtVal d.fmt (s.mem.elemAt pk w (first + r * d.row + j)))
  let a := fun r j => BitVec.ofNat 32 (s.mem.leAt (ak + 4 * (r * d.auxLen + j)) 4)
  let poison := ((upto (d.n * d.row)).any fun j => s.mem.elemPoison pk w (first + j)) ||
    (upto (d.n * d.auxLen)).any fun j => s.mem.poisoned (ak + 4 * j)
  let r := d.run x a
  let bytes := d.bytes r poison replayed
  let ok := placeKey c out (i * d.outLen)
  let s := s.updMem fun m => m.putRow ok 8 (bytes.map fun b => (b.toNat, poison))
  let flags : BitVec 5 := (if r.trunc then 1 else 0) ||| (if r.keepFull then 2 else 0) |||
    (if r.invalid = 0 then 0 else 4) ||| (if poison then 8 else 0)
  (s.chargeRun c { dpp := flags, images := 1, dropped := r.invalid, truncs := b2n r.trunc, keepFulls := b2n r.keepFull }).poisonRun
    c poison

/-- DMA channel of an access of the operation: the read or the write channel its descriptor names (R147). -/
def DppD.chan (d : DppD) (write : Bool) : Nat := 256 + (if write then d.writeCh else d.readCh)
/-- Both channels carry accesses: neither is HALTED (12, R341). -/
def State.dppOpen (s : State) (d : DppD) : Bool := [false, true].all fun w => (s.chan (d.chan w)).st != .halted
/-- An access fails its translation: the context's latch takes it, and the channel it went through halts with MMU_FAULT (12,
R330, R341). -/
def State.dppHalt (s : State) (c : Nat) (d : DppD) (write : Bool) (f : Nat × Nat) : State :=
  ((s.latchFault c write f).updChan (d.chan write) fun k => { k with ctx := c }).chanHalt (d.chan write) .mmuFault write 0x41 f.1 0

/-- The first access of the image in hand that its translation refuses. -/
def State.dppFault (s : State) (o : DppOp) (i : Nat) : Option (Bool × Nat × Nat) :=
  let c := o.ctx
  let d := dppRead o.desc
  let k := (((s.ctx c).steps.getLast?).map (·.k)).getD 0
  let row := d.row * fmtBits d.fmt / 8
  let vas := placeVas (s.bufPlace c d.input k) (i * d.n * row) (d.n * row) false ++
    placeVas (s.bufPlace c d.aux k) 0 (4 * d.n * d.auxLen) false ++
    placeVas (s.bufPlace c d.output k) (i * d.outLen) d.outLen true
  vas.findSome? fun e => (s.vaFault c e.1 e.2.1 e.2.2).map fun f => (e.2.2, f.1, f.2)

/-! ### Lockstep (R154; 10, R272; 13, R358) -/

/-- A step whose unit faulted in lockstep is replayed: its operation never completes, so it is rewound as it stands, or after
a switch-over gap (log 36). -/
def State.lockstepRewind (s : State) (c : Nat) : State :=
  if s.ctl.gap then s
  else match (s.ctx c).steps.find? fun r => !r.fenced && r.lockstepReplay && r.rewindDue with
  | some r => (s.rewind c r.k).boundary c
  | none => s

/-- The running step is to be replayed, its images marked. -/
def State.markLockstep (s : State) (c : Nat) : State :=
  match (s.ctx c).steps.getLast? with
  | some r => (s.updStep c r.k fun r => { r with rewindDue := true, lockstepReplay := true }).lockstepRewind c
  | none => s

/-- DPP_OPERATION: the DPP takes up the operation at the head of its queue; with `mismatch` its two copies differ, at the
start or within the operation: the operation is abandoned, and two mismatches within 1,000 steps drain the module. -/
def execDppOperation (mismatch : Bool) (s : State) : Host.Outcome State Fault Refusal :=
  match s.dpp.queue with
  | [] => .next s
  | o :: rest =>
    let s := if s.dpp.busy then s else s.updDpp fun d => { d with busy := true, image := o.image }
    if !mismatch then .next s
    else
      let now := s.mstep
      let s := ((s.bump (dppBase + 0x28)).lifetime 0x0023 [0]).lockstepDrain s.dpp.lastLockstep 65
      let s := s.updDpp fun d =>
        { d with queue := rest, busy := false, image := 0, flags := d.flags ||| 16, lastLockstep := some now }
      .next (s.markLockstep o.ctx)

/-- DPP_IMAGE_DONE: one image's output is written in `cycles` of the NoC clock, its accesses through the two chip channels;
after the last one the operation ends with a credit to its completion register. -/
def execDppImageDone (cycles : Word) (s : State) : Host.Outcome State Fault Refusal :=
  match s.dpp.queue with
  | [] => .next s
  | o :: rest =>
    let d := dppRead o.desc
    if !s.dpp.busy || !s.dppOpen d then .next s
    else
      let i := s.dpp.image
      match s.dppFault o i with
      | some (w, va, cause) => .next (s.dppHalt o.ctx d w (va, cause))
      | none =>
        let s := s.dppImage o i
        let s := s.updDpp fun u =>
          { u with lastCycles := cycles, maxCycles := if u.maxCycles.toNat < cycles.toNat then cycles else u.maxCycles }
        if i + 1 < d.images then .next (s.updDpp fun u => { u with image := i + 1 })
        else
          let s := s.updDpp fun u => { u with queue := rest, busy := false, image := 0 }
          .next (s.addCredit o.ctx d.core d.reg 1)

end Sys2Proof.Machine
end

