-- ==== Sys2Proof/Machine/Mailbox.lean ====
section
/-!
DEFINITION. Mailboxes and internal doorbells (16, R434-R439, R450, R455).
-/
namespace Sys2Proof.Machine

def mbxBase : Nat := 0x400000

/-- Do the MBX registers work: from stage RELOAD, in DOZE too (01, R22, R23)? -/
def State.mbxValid (s : State) : Bool := s.board.powered && decide (4 ≤ s.glb.stage)

/-- Doorbell words of the receiver of mailbox `m` (R434, R439): the control core that holds the interlock, both while
none does. -/
def State.receivers (s : State) (m : Nat) : List Nat :=
  if m = 0 then []
  else if m = 3 then [2]
  else if m = 5 then [3]
  else if m = 7 then [4]
  else if 8 ≤ m && m < 12 then [5 + (m - 8)]
  else match s.ctl.owner with
    | some .a => [0]
    | some .b => [1]
    | none => [0, 1]

/-- A message arrives in mailbox `m` with the tag hardware gives it, or is rejected by a full one (R435, R436). -/
def State.mailPut (s : State) (m : Nat) (slot : Slot) : Bool × State :=
  if 4 ≤ (s.mbx.boxes.get m).length then
    (false, (s.updMbx fun b => { b with ovf := b.ovf ||| (1 <<< m) }).bump (mbxBase + 0x18))
  else
    let n := s.mbx.arrivals.get m + 1
    let s := s.updMbx fun b => { b with boxes := b.boxes.upd m (· ++ [{ slot with arrival := n }]), arrivals := b.arrivals.set m n }
    let s := s.updMbx fun b => { b with bells := (s.receivers m).foldl (fun t e => t.upd e (· ||| ((1 : Word) <<< m))) b.bells }
    let s := s.consAdd (cid 0x48 m) 1
    (true, if m = 0 then s.doorbell 0 11 else s)

/-- The head slot of mailbox `m` is removed. -/
def State.mailPop (s : State) (m : Nat) : State :=
  match s.mbx.boxes.get m with
  | [] => s
  | _ :: r => (s.updMbx fun b => { b with boxes := b.boxes.set m r }).consAdd (cid 0x49 m) 1

/-- Is this the sender class of mailbox `m`'s sending path (R434, R435)?  The active control core alone sends to PF0. -/
def State.sendsTo (s : State) (m cls idx : Nat) : Bool :=
  if m = 0 then cls == 0 && s.ctl.owner == some (if idx = 0 then .a else .b) && decide (idx < 2)
  else if m = 2 then cls == 2 && idx == 0
  else if m = 4 then cls == 3 && idx == 0
  else if m = 6 then cls == 4 && idx == 0
  else if m = 3 || m = 5 || m = 7 || (8 ≤ m && m < 12) then cls == 0 && decide (idx < 2)
  else if 12 ≤ m && m < 16 then cls == 5 && idx == m - 12
  else false

/-- 64 bytes of a slot. -/
def slotBytes (bs : List Byte) : List Byte := (upto 64).map fun i => bs.getD i 0

/-- MAILBOX_WRITE: an internal sender writes on its own path; a full mailbox answers with a bus error (R436). -/
def execMailboxWrite (m : Fin 24) (senderClass senderIndex : Nat) (bytes : List Byte) (s : State) :
    Host.Outcome State Fault Refusal :=
  .next <|
    if !s.mbxValid || !s.sendsTo m.val senderClass senderIndex then s
    else (s.mailPut m.val { bytes := slotBytes bytes, stamped := true, cls := senderClass, index := senderIndex }).2

/-- MBX_POST: PF0 posts MBX_STAGE to mailbox 1; a rejected write is an Unsupported Request (R436, R455). -/
def execMbxPost (_ : Word) (s : State) : Host.Outcome State Fault Refusal :=
  .next <|
    if !s.mbxValid then s
    else
      let bs := (upto 16).flatMap fun i => leBytes 4 (s.mbx.stage.get i).toNat
      let (ok, s) := s.mailPut 1 { bytes := bs, stamped := true, cls := 1, index := 0 }
      if ok then s else s.updHost fun h => { h with unsupported := h.unsupported + 1 }

/-- MBX_RX_POP (R455). -/
def execMbxRxPop (_ : Word) (s : State) : Host.Outcome State Fault Refusal :=
  .next (if s.mbxValid then s.mailPop 0 else s)

/-- A peer message as firmware takes it (R450): one whose type needs authority is discarded unless AUTH is set, the MAC
verifies and its counter is above the highest recorded for the claimed module ID; otherwise an authenticated counter is
recorded. -/
def State.peerMessage (s : State) (x : Slot) : State :=
  let id : BitVec 128 := BitVec.ofNat 128 (lb x.bytes 16 16)
  let n := lb x.bytes 8 8
  let at_ := s.lnk.peers.find? fun (e : Nat × Peer) => e.2.st != .empty && e.2.id == id
  let top := (at_.map fun (e : Nat × Peer) => e.2.counter).getD 0
  let proved := (lb x.bytes 2 1).testBit 0 && x.macOk && decide (top < n)
  if Config.needsAuth (lb x.bytes 0 2) && !proved then s.bump (mbxBase + 0x20)
  else match at_ with
    | some (e, _) => if proved then s.updPeer e fun p => { p with counter := n } else s
    | none => s

/-- The receiver of mailbox `m`, if it runs, takes its head message, its doorbell bit cleared first (R434, R439). -/
def State.mailTake (s : State) (m : Nat) : State :=
  let runs := if m = 3 || m = 5 || m = 7 || (8 ≤ m && m < 12) then s.mbxValid else s.mbxValid && s.ctl.owner.isSome && !s.ctl.gap
  match s.mbx.boxes.get m with
  | [] => s
  | x :: _ =>
    if m = 0 || !runs then s
    else
      let s := s.updMbx fun b =>
        { b with bells := (s.receivers m).foldl (fun t e => t.upd e (· &&& ~~~((1 : Word) <<< m))) b.bells }
      let s := s.mailPop m
      if 16 ≤ m && m < 20 then s.peerMessage x else s

/-- What passes while no command waits: 1 ns, and every internal receiver that runs takes the next message of each of its
mailboxes (DESIGN CHOICE, logs 2 and 46). -/
def State.idle (s : State) : State := foldS (upto 24) State.mailTake s.tick

end Sys2Proof.Machine
end

