-- ==== Sys2Proof/Machine/Links.lean ====
section
/-!
DEFINITION. Dyter ports, cables, peer sessions and frames (16, R440-R454; 13, R364).
-/
namespace Sys2Proof.Machine

/-! ### Commands (R453, R454) -/

/-- A LINK_CONFIG operation: byte 16 selects it; the first row also takes the values no operation has. -/
def State.linkRow (s : State) (c : Cmd) (op : Nat) (body : State → Verdict) : State :=
  s.subRow c 0x78 (fun c => (c.byte 16).toNat == op || (op == 0 && decide (3 < (c.byte 16).toNat))) [] body

/-- SET_MODE. -/
def execSetMode (c : Cmd) (s : State) : Host.Outcome State Fault Refusal :=
  .next <| s.linkRow c 0 fun s =>
    let open_ := (c.byte 17).toNat == 1
    params s c [(16, 18)]
      [(decide (3 < (c.byte 16).toNat), 16), (decide (1 < (c.byte 17).toNat), 17), (!open_ && decide (31 < (c.byte 18).toNat), 18)] <|
    if (upto 4).any fun p => (s.portAt p).st != .disabled then .reply s (.of stBusy)
    else .reply (s.updLnk fun l => { l with open_, ownIndex := (c.byte 18).toNat % 32 }) (.of stOk)

/-- TABLE_ENTRY. -/
def execTableEntry (c : Cmd) (s : State) : Host.Outcome State Fault Refusal :=
  .next <| s.linkRow c 1 fun s =>
    params s c [(16, 17), (24, 39)] [(s.lnk.open_, 16), (decide (31 < (c.byte 17).toNat), 17)] <|
    .reply (s.updLnk fun l => { l with table := l.table.set (c.byte 17).toNat (BitVec.ofNat 128 (c.le 24 16)) }) (.of stOk)

/-- A port leaves whatever it does, its sessions with it. -/
def State.portTo (s : State) (p : Nat) (st : PortSt) : State :=
  let s := if (s.portAt p).st = .up then s.portSessionsDown p else s
  s.updPort p fun q => { q with st, since := s.time, lanes := 0 }

/-- PORT (R443). -/
def execPort (c : Cmd) (s : State) : Host.Outcome State Fault Refusal :=
  .next <| s.linkRow c 2 fun s =>
    let p := (c.byte 17).toNat
    let on := (c.byte 18).getLsbD 0
    params s c [(16, 18)] [(decide (3 < p), 17), (decide (3 < (c.byte 18).toNat), 18)] <|
    let s := s.updPort p fun q => { q with enabled := on, allowX4 := (c.byte 18).getLsbD 1 }
    let asleep := s.glb.state == .doze || s.glb.state == .clockHold
    if !on then .reply (s.portTo p .disabled) (.of stOk)
    else if (s.portAt p).st = .disabled && !asleep then .reply (s.portTo p .cableInit) (.of stOk)
    else .reply s (.of stOk)

/-- DROP_PEER. -/
def execDropPeer (c : Cmd) (s : State) : Host.Outcome State Fault Refusal :=
  .next <| s.linkRow c 3 fun s =>
    let e := c.le 18 2
    params s c [(16, 16), (18, 19)] [(decide (255 < e), 18)] <|
    .reply ((s.sessionDown e).updPeer e fun _ => {}) (.of stOk)

/-- Codes of port and entry states (R454, R458). -/
def PortSt.code : PortSt → Nat
  | .disabled => 0
  | .cableInit => 1
  | .train => 2
  | .up => 3
  | .retry => 4
def PeerSt.code : PeerSt → Nat
  | .empty => 0
  | .seen => 1
  | .up => 2
  | .down => 3

/-- Sessions UP on a port, and the highest minor among them. -/
def State.portSessions (s : State) (p : Nat) : List Nat := (s.peersIn .up).filter fun e => (s.peer e).port.val == p
def State.portMinor (s : State) (p : Nat) : Nat := ((s.portSessions p).map fun e => (s.peer e).minor).foldl max 0

/-- LINK_QUERY (R454).  How long ago an EMPTY entry was heard from is a free value: the spec states none. -/
def execLinkQuery (c : Cmd) (s : State) : Host.Outcome State Fault Refusal :=
  .next <| s.row c 0x79 [] fun s =>
    let sel := (c.byte 16).toNat
    if sel = 1 then
      let e := c.le 18 2
      params s c [(16, 16), (18, 19)] [(decide (255 < e), 18)] <|
      let p := s.peer e
      let (d, s') := s.draw
      let gone := p.st == .empty
      let ms := if gone then Config.value d % 2 ^ 32 else min 0xFFFFFFFF ((s.time - p.lastHeard) / msNs)
      .reply (if gone then s' else s)
        (.ok ([BitVec.ofNat 8 p.st.code, BitVec.ofNat 8 p.port.val, BitVec.ofNat 8 p.minor,
               BitVec.ofNat 8 (b2n p.encrypted + 2 * b2n p.member), p.gen, 0, 0, 0] ++
              leBytes 4 ms ++ leBytes 4 0 ++ leBytes 8 p.id.toNat))
    else
      let p := (c.byte 17).toNat
      params s c [(16, 17)] [(decide (1 < sel), 16), (decide (3 < p), 17)] <|
      let q := s.portAt p
      .reply s (.ok ([BitVec.ofNat 8 q.st.code, BitVec.ofNat 8 (s.portMinor p), q.lanes, 0] ++
        leBytes 2 (s.portSessions p).length ++ [q.temp]))

/-! ### Ports and cables (R443, R451, R452) -/

/-- Do the link controllers run: from stage RELOAD (01, R23), and under the recovery ROM (17, R484)? -/
def State.linksRun (s : State) : Bool := s.mbxValid || (s.board.powered && s.glb.state == .recovery)

/-- CABLE_INSERTION: the retry delay returns to 1 s. -/
def execCableInsertion (port : Fin 4) (s : State) : Host.Outcome State Fault Refusal :=
  .next (if s.linksRun then s.updPort port.val fun q => { q with present := true, delay := 1 } else s)

/-- CABLE_REMOVAL: a port that uses its cable goes to RETRY. -/
def execCableRemoval (port : Fin 4) (s : State) : Host.Outcome State Fault Refusal :=
  .next <|
    let p := port.val
    let st := (s.portAt p).st
    if !s.linksRun then s
    else
      let s := if st = .disabled || st = .retry then s else s.portTo p .retry
      s.updPort p fun q => { q with present := false, accepted := false }

/-- CABLE_INIT_DONE: the cable is accepted if it is active, needs at most 7.0 W and is ready in time (R452). -/
def execCableInitDone (port : Fin 4) (active : Bool) (maxPower : Byte) (ready : Bool) (temp : Byte) (s : State) :
    Host.Outcome State Fault Refusal :=
  .next <|
    let p := port.val
    if (s.portAt p).st ≠ .cableInit then s
    else
      let ok := active && decide (maxPower.toNat ≤ 28) && ready && decide (s.time ≤ (s.portAt p).since + 200 * msNs)
      let s := s.updPort p fun q => { q with present := true, accepted := ok, maxPower, temp }
      s.portTo p (if ok then .train else .retry)

/-- CABLE_INIT_TIMEOUT: 200 ms. -/
def execCableInitTimeout (port : Fin 4) (s : State) : Host.Outcome State Fault Refusal :=
  .next <|
    let p := port.val
    if (s.portAt p).st = .cableInit && (s.portAt p).since + 200 * msNs ≤ s.time then s.portTo p .retry else s

/-- Lanes in a bitmap. -/
def laneCount (b : Byte) : Nat := ((upto 8).filter fun i => b.getLsbD i).length

/-- TRAIN_DONE: width x8, or x4 where ALLOW_X4 is set and the peer offers version 1.2. -/
def execTrainDone (port : Fin 4) (lanes : Byte) (peerV12 : Bool) (s : State) : Host.Outcome State Fault Refusal :=
  .next <|
    let p := port.val
    let q := s.portAt p
    if q.st ≠ .train then s
    else if laneCount lanes = 8 || (laneCount lanes = 4 && q.allowX4 && peerV12) then
      (s.portTo p .up).updPort p fun q => { q with lanes }
    else s.portTo p .retry

/-- TRAIN_TIMEOUT: 500 ms. -/
def execTrainTimeout (port : Fin 4) (s : State) : Host.Outcome State Fault Refusal :=
  .next <|
    let p := port.val
    if (s.portAt p).st = .train && (s.portAt p).since + 500 * msNs ≤ s.time then s.portTo p .retry else s

/-- RETRY_EXPIRY: back to CABLE_INIT; the next delay is twice as long, at most 32 s. -/
def execRetryExpiry (port : Fin 4) (s : State) : Host.Outcome State Fault Refusal :=
  .next <|
    let p := port.val
    let q := s.portAt p
    if q.st = .retry && q.since + q.delay * secNs ≤ s.time then
      (s.portTo p .cableInit).updPort p fun q => { q with delay := min 32 (2 * q.delay) }
    else s

/-- LANE_LOSS: a lane in use loses signal or lock. -/
def execLaneLoss (port : Fin 4) (s : State) : Host.Outcome State Fault Refusal :=
  .next (if (s.portAt port.val).st = .up then s.portTo port.val .retry else s)

/-- CABLE_POLL: an alarm rings doorbell bit 15 on PF0, and the link stays up. -/
def execCablePoll (port : Fin 4) (alarm : Bool) (temp : Byte) (s : State) : Host.Outcome State Fault Refusal :=
  .next <|
    if (s.portAt port.val).st ≠ .up then s
    else
      let s := s.updPort port.val fun q => { q with temp, alarm := q.alarm || alarm }
      if alarm then s.doorbell 0 15 else s

/-! ### Sessions (R440-R446) -/

/-- KEEPALIVE_SEND: no frame sent for 500 µs. -/
def execKeepaliveSend (entry : Fin 256) (s : State) : Host.Outcome State Fault Refusal :=
  .next <|
    let p := s.peer entry.val
    if p.st = .up && p.lastSent + 500 * usNs ≤ s.time then s.sendFrame entry.val { typ := 0x08 } else s

/-- MISSED_WINDOW: each further 1 ms without a frame; the tenth in a row takes the session DOWN. -/
def execMissedWindow (entry : Fin 256) (s : State) : Host.Outcome State Fault Refusal :=
  .next <|
    let e := entry.val
    let p := s.peer e
    if p.st ≠ .up || s.time < p.lastHeard + (p.missed + 1) * msNs then s
    else
      let s := (s.bump (lnkBase + 0x108 + 0x40 * p.port.val)).updPeer e fun p => { p with missed := p.missed + 1 }
      if 10 ≤ p.missed + 1 then s.sessionDown e else s

/-- A HELLO that is refused (R440, R441). -/
def State.helloRefused (s : State) : State := s.bump (lnkBase + 8)

/-- Entry for a HELLO of module `id` (R441): its own, an EMPTY one, or the DOWN one silent longest, for at least 60 s. -/
def State.helloEntry (s : State) (id : BitVec 128) : Option Nat :=
  match (upto 256).find? fun e => (s.peer e).st != .empty && (s.peer e).id == id with
  | some e => some e
  | none => match (upto 256).find? fun e => (s.peer e).st == .empty with
    | some e => some e
    | none =>
      let olds := (upto 256).filter fun e => (s.peer e).st == .down && decide ((s.peer e).lastHeard + 60 * secNs ≤ s.time)
      olds.foldl (fun (b : Option Nat) e => match b with
        | none => some e
        | some f => if (s.peer e).lastHeard < (s.peer f).lastHeard then some e else some f) none

/-- The DATA frames of the last two epochs go again with the next replay generation, each followed by CONFIRM if its
epoch has committed ('Epochs across a session that goes down'). -/
def State.resend (s : State) (e : Nat) : State :=
  let sent : List (Nat × Nat × Bool × Nat) := (s.peer e).sent.map fun (x : Nat × Nat × Bool × Nat) => (x.1, x.2.1, x.2.2.1, (x.2.2.2 + 1) % 256)
  let s := s.updPeer e fun p => { p with sent }
  foldS sent (fun s (x : Nat × Nat × Bool × Nat) =>
    let s := s.sendFrame e { typ := 0x01, vc := 0, ctx := x.1, step := x.2.1, gen := x.2.2.2 }
    if x.2.2.1 then s.sendFrame e { typ := 0x02, vc := 1, ctx := x.1, step := x.2.1, gen := x.2.2.2 } else s) s

/-- ENCRYPTED sessions UP on a port (R448). -/
def State.encryptedOn (s : State) (p : Nat) : Nat := ((s.portSessions p).filter fun e => (s.peer e).encrypted).length

/-- HELLO (R440, R441, R444): a session opens in its entry, ENCRYPTED between members of one set and generation at
version 1.1 or above once the RTPs have secured it, otherwise CLEAR. -/
def execHello (f : Frame) (h : Hello) (s : State) : Host.Outcome State Fault Refusal :=
  .next <|
    -- the recovery ROM runs every port at version 1.0 and takes any peer (17, R484)
    let recovery := s.glb.state == .recovery
    if (s.portAt f.port.val).st ≠ .up || h.major ≠ 1 then s
    else if !recovery && !s.lnk.open_ && (32 ≤ f.src || f.peer == 0 || s.lnk.table.get f.src != f.peer) then s.helloRefused
    else match s.helloEntry f.peer with
    | none => s.helloRefused
    | some e =>
      let old := s.peer e
      let known := old.st != .empty && old.id == f.peer
      let s := s.sessionDown e
      let minor := if recovery then 0 else min 2 h.minor
      let sameSet := match s.sec.set_ with
        | some d => d.id == h.setId && d.gen == h.setGen
        | none => false
      let member := match s.sec.set_ with
        | some d => d.members.any (· == f.peer)
        | none => false
      let enc := sameSet && decide (1 ≤ minor)
      let base : Peer := if known then s.peer e else {}
      let p : Peer :=
        { base with
            st := .seen, id := f.peer, port := f.port, tag := h.routeTag, minor, member, encrypted := enc
            gen := if known then base.gen + 1 else 0, lastHeard := s.time, lastSent := s.time, missed := 0, txSeq := 0
            rxSeq := f.seq, exchanges := base.exchanges + b2n (enc && h.secured), index := if s.lnk.open_ then 0xFFFF else f.src, waiting := [] }
      let s := s.updPeer e fun _ => p
      if enc && !h.secured then s
      else
        let init := initCredits (enc && decide (s.encryptedOn f.port.val < 64))
        let s := (s.updPeer e fun p => { p with st := .up, credits := init }).openCredits e init
        let s := s.transmit e { typ := 0x09 }
        if enc then s.resend e else s

/-- Virtual channel of a credited frame type (R448). -/
def frameVc (typ : Nat) : Nat :=
  if typ = 1 then 0 else if typ ≤ 3 then 1 else if typ ≤ 5 then 2 else 3

/-- The UP session a frame arrives on, of its port and module. -/
def State.frameEntry (s : State) (f : Frame) : Option Nat :=
  (s.peersIn .up).find? fun e => (s.peer e).id == f.peer && (s.peer e).port == f.port

/-- A frame arrives (R389, R442, R445): another session generation discards it, a tag failure takes the session DOWN. -/
def State.onFrame (s : State) (f : Frame) (g : Nat → State → State) : State :=
  match s.frameEntry f with
  | none => s
  | some e =>
    let p := s.peer e
    if p.gen ≠ f.sessGen then s
    else if p.encrypted && !f.tagOk then (s.bump (lnkBase + 0x118 + 0x40 * p.port.val)).sessionDown e
    else g e (s.updPeer e fun p => { p.exchange f.seq with lastHeard := s.time, missed := 0, rxSeq := f.seq })

/-- Does the session carry frames of this type: below version 1.2 the open configuration carries VC3 alone, and a CLEAR
session no epoch-tagged frame (R389, R444, R448)? -/
def State.carries (s : State) (e typ : Nat) : Bool :=
  let p := s.peer e
  (frameVc typ == 3 || (s.glb.state != .recovery && (!s.lnk.open_ || decide (2 ≤ p.minor)))) && (p.encrypted || decide (4 ≤ typ))

/-- A credited frame: it takes a buffer entry, is acted on, and the entry's credit goes back (R448, R449).  A frame for
which the session has no entry free breaks the credit rule and is discarded. -/
def State.onCredited (s : State) (f : Frame) (typ : Nat) (g : Nat → State → State) : State :=
  s.onFrame f fun e s =>
    if !s.carries e typ || s.cons (cid 0x53 (lnkIdx e (frameVc typ))) = 0 then s
    else
      let s := g e (s.rxTake e (frameVc typ))
      s.rxRelease e (frameVc typ)

/-- Is the frame's replay generation one of those revoked for its epoch (13, R364)? -/
def State.staleGen (s : State) (e : Nat) (f : Frame) : Bool :=
  (s.peer e).revoked.any fun x => x.1 == f.ctx.val && x.2.1 == f.step && decide (f.replayGen.toNat ≤ x.2.2)

/-- The step that runs on the array reads what arrives while it runs; without one, the next step to begin does (log 43). -/
def State.addDep (s : State) (e c k : Nat) : State :=
  let running := s.arr.cur.bind fun d => (((s.ctx d).steps.find? fun r => !r.fenced).map fun (r : StepRec) => (d, r.k))
  match running with
  | some (d, j) => s.updStep d j fun r => if (e, c, k) ∈ r.deps then r else { r with deps := r.deps ++ [(e, c, k)] }
  | none => s.updPeer e fun p => if (c, k) ∈ p.unread then p else { p with unread := p.unread ++ [(c, k)] }

/-- DATA: its epoch is provisional until its CONFIRM (13, R364). -/
def execData (f : Frame) (s : State) : Host.Outcome State Fault Refusal :=
  .next <| s.onCredited f 1 fun e s =>
    if s.staleGen e f then s
    else
      let c := f.ctx.val
      let s := s.updPeer e fun p => { p with provisional :=
        (p.provisional.filter fun x => !(x.1 == c && x.2.1 == f.step)) ++ [(c, f.step, f.replayGen.toNat)] }
      s.addDep e c f.step

/-- CONFIRM: the epoch no longer holds a step's commit back. -/
def execConfirm (f : Frame) (s : State) : Host.Outcome State Fault Refusal :=
  .next <| s.onCredited f 2 fun e s =>
    if s.staleGen e f then s
    else
      let c := f.ctx.val
      let s := s.updPeer e fun p =>
        { p with provisional := p.provisional.filter fun x => !(x.1 == c && x.2.1 == f.step)
                 unread := p.unread.filter fun x => !(x.1 == c && x.2 == f.step) }
      foldS allCtxs (fun s j => s.updCtx j fun x =>
        { x with steps := x.steps.map fun (r : StepRec) =>
            { r with deps := r.deps.filter fun d => !(d.1 == e && d.2.1 == c && d.2.2 == f.step) } }) s

/-- REVOKE. -/
def execRevoke (f : Frame) (s : State) : Host.Outcome State Fault Refusal :=
  .next <| s.onCredited f 3 fun e s =>
    if s.staleGen e f then s else s.revokeDeps e f.ctx.val f.step f.replayGen.toNat

/-- MBX: the message enters mailbox 16 + port, its tag stamped in the closed configuration, or is answered with MBX_NAK
(R434-R436, R448, R450). -/
def execMbx (f : Frame) (macOk : Bool) (s : State) : Host.Outcome State Fault Refusal :=
  .next <| s.onCredited f 4 fun e s =>
    let closed := !s.lnk.open_
    let (ok, s) := s.mailPut (16 + f.port.val)
      { bytes := slotBytes f.payload, stamped := closed, cls := 6, index := if closed then f.src % 32 else 0xFF, macOk }
    if ok then s else s.sendFrame e { typ := 0x05, vc := 2, answers := f.seq }

/-- MBX_NAK (R448). -/
def execMbxNak (f : Frame) (s : State) : Host.Outcome State Fault Refusal :=
  .next <| s.onCredited f 5 fun _ s => s.bump (lnkBase + 0x120 + 0x40 * f.port.val)

/-- CREDIT: credits come back, no more than are out (R448, R449). -/
def execCredit (f : Frame) (count : Nat) (s : State) : Host.Outcome State Fault Refusal :=
  .next <| s.onFrame f fun e s =>
    let i := lnkIdx e f.vc.val
    s.creditBack e f.vc.val (min count (s.cons (cid 0x51 i) - s.cons (cid 0x52 i)))

/-- KEEPALIVE. -/
def execKeepalive (f : Frame) (s : State) : Host.Outcome State Fault Refusal := .next (s.onFrame f fun _ s => s)

/-- BYE. -/
def execBye (f : Frame) (s : State) : Host.Outcome State Fault Refusal := .next (s.onFrame f fun e s => s.sessionDown e)

end Sys2Proof.Machine
end

