-- ==== Sys2Proof/Machine/Control.lean ====
section
/-!
DEFINITION. The ownership interlock, handover and self-test, firmware staging, the relay chain and live update (17,
R459-R484).
-/
namespace Sys2Proof.Machine

def ctlBase : Nat := 0xD00000

/-- Index of a core, and the other core. -/
def coreNo : CoreAB → Nat
  | .a => 0
  | .b => 1
def coreOther : CoreAB → CoreAB
  | .a => .b
  | .b => .a
def State.ctlCore (s : State) (k : CoreAB) : CtlCore := s.ctl.cores.get (coreNo k)
def State.updCtlCore (s : State) (k : CoreAB) (f : CtlCore → CtlCore) : State :=
  s.updCtl fun c => { c with cores := c.cores.upd (coreNo k) f }

/-- Losses of the interlock by heartbeat within the last 24 h (R465, R487). -/
def lossesNow (l : List Nat) (now : Nat) : List Nat := l.filter fun t => decide (now ≤ t + 24 * 3600 * secNs)

/-- A live update that fails or falls back leaves the old image in place (R482). -/
def State.rolledBack (s : State) : State :=
  ((s.updCtl fun c => { c with staging := .rejected, phase := .rolledBack, commitSvn := false }).doorbell 0 15).lifetime 0x0052 [4]

/-- The interlock releases (R460, R466): its successor is the other core if that is STANDBY_OK, otherwise the released
core, restarted; a core that lost it by heartbeat twice in 24 h is FAILED and is not restarted (R465; log 47).  A live update
whose standby is not the successor ends (log 124). -/
def State.release (s : State) (k : CoreAB) (planned beat : Bool) : State :=
  let me := s.ctlCore k
  let losses := lossesNow (if beat then s.time :: me.losses else me.losses) s.time
  let dead := beat && decide (2 ≤ losses.length)
  let succ : Option CoreAB :=
    if (s.ctlCore (coreOther k)).health = .standbyOk then some (coreOther k) else if dead then none else some k
  let s := s.updCtlCore k fun x =>
    { x with health := if dead then .failed else .booting, failCycles := 0, losses, cleanSince := none }
  let s := s.updCtl fun c =>
    { c with owner := none, successor := succ, gap := true, secondGap := false, gapSince := s.time, planned, plannedDue := false }
  let s := s.bump (ctlBase + if planned then 0x18 else 0x10)
  if !planned && s.ctl.phase = .soakActive then s.rolledBack
  else if s.ctl.phase = .soakStandby && (!planned && s.ctl.soakCycles < 10 || succ ≠ some (coreOther k)) then
    s.updCtl fun c => { c with phase := .none_, commitSvn := false }
  else s

/-- INTERLOCK_HEARTBEAT: of the owner; the other core's access is refused and counted (R459). -/
def execInterlockHeartbeat (core : CoreAB) (s : State) : Host.Outcome State Fault Refusal :=
  .next (if s.ctl.owner = some core then s.updCtl fun c => { c with lastBeat := s.time } else s.notOwner)

/-- RELEASE_FAULT. -/
def execReleaseFault (core : CoreAB) (s : State) : Host.Outcome State Fault Refusal :=
  .next (if s.ctl.owner = some core then s.release core false false else s.notOwner)

/-- A step runs that has not reached its fence (R468). -/
def State.stepRuns (s : State) : Bool :=
  match s.arr.cur with
  | some c => (s.ctx c).running
  | none => false

/-- RELEASE_PLANNED: the owner releases once the step in progress has reached its fence (R468). -/
def execReleasePlanned (core : CoreAB) (s : State) : Host.Outcome State Fault Refusal :=
  .next <|
    if s.ctl.owner ≠ some core then s.notOwner
    else if s.stepRuns then s.updCtl fun c => { c with plannedDue := true }
    else s.release core true false

/-- HEARTBEAT_TIMEOUT: none for 5 ms (R460). -/
def execHeartbeatTimeout (s : State) : Host.Outcome State Fault Refusal :=
  .next <| match s.ctl.owner with
    | some k =>
      if s.board.powered && s.glb.state != .recovery && decide (s.ctl.lastBeat + 5 * msNs ≤ s.time) then s.release k false true
      else s
    | none => s

/-- GAP_EXPIRY (R464): after 40 ms the RTP resets both clusters and starts whichever core is not FAILED, preferring A;
after 40 ms more no control core runs, the module is SUSPECT, and every command in flight completes. -/
def execGapExpiry (s : State) : Host.Outcome State Fault Refusal :=
  .next <|
    if !s.ctl.gap then s
    else if !s.ctl.secondGap then
      if s.time < s.ctl.gapSince + 40 * msNs then s
      else
        let succ : Option CoreAB :=
          if (s.ctlCore .a).health ≠ .failed then some .a else if (s.ctlCore .b).health ≠ .failed then some .b else none
        let boot (k : CtlCore) : CtlCore := { k with health := if k.health = .failed then .failed else .booting, cleanSince := none }
        let soaks := s.ctl.phase == .soakStandby
        ((s.updCtl fun c =>
          { c with secondGap := true, successor := succ, phase := if soaks then .none_ else c.phase
                   commitSvn := c.commitSvn && !soaks }).updCtlCore .a boot).updCtlCore .b boot
    else if s.time < s.ctl.gapSince + 80 * msNs then s
    else
      let s := s.updCtl fun c => { c with gap := false, successor := none }
      let s := s.updGlb fun g => { g with state := .suspect, noControlCore := true, dozeEntering := false }
      let s := s.updBoard fun b => { b with health := false, suspect := true }
      s.completeAll (fun w => w != .attest) fun _ => .of stSuspect

/-! ### TAKE (R463, R470-R473; 09, R248) -/

/-- A counter's ID and its 64-bit value, as the words of a lifetime record (19, R523; log 130). -/
def idWords (id v : Nat) : List Nat := [id, v % 2 ^ 32, v / 2 ^ 32 % 2 ^ 32]

/-- A broken conservation identity (01, R29; 19, R525): the counters go to the lifetime record, doorbell bit 13 rings on
PF0, and the module drains toward SUSPECT. -/
def State.identityFails (s : State) (values : List Nat) : State :=
  (((s.lifetime 0x0010 values).updTel fun t => { t with events := t.events ||| 4 }).doorbell 0 13).enterDrain .identity

/-- What a lost control state leaves of a context's page edits: the staged ones are gone (08, R196), and so are the pins, whose
references are dropped (R212) unless they were only staged; a list without a tracked request goes with them. -/
def State.looseEdits (s : State) (c : Nat) : State :=
  let g := (s.ctx c).staged
  let pins := (s.ctx c).pins.flatMap fun n => n.pages ++ n.twins.map Prod.snd
  let held := lessAll pins (lessAll g.adds (g.edits.flatMap ListEdit.joined))
  let loose := (s.ctx c).slots.filter fun k => (s.root k).valid && !(s.usedSlots c).contains k
  s.updCtx c fun x =>
    { x with
      pins := []
      staged := { drops := held ++ loose.flatMap fun k => entPages (s.liveEnts k), edits := loose.map fun k => .clear k true } }

/-- The work of an open context when no control state is left: every request and job ends LOST, each account gets its
whole ACC_HELD back, and the context is FAULTED. -/
def State.lostCtx (s : State) (c : Nat) : State :=
  if (s.ctx c).st = .free then s
  else
    let s := match (s.ctx c).steps with
      | r :: _ => s.discardFrom c r.k
      | [] => s.updCtx c fun x => { x with next := none }
    let s := (((s.releaseArray c .idle).dropSaved c).looseEdits c).endWork c 10 stLost
    let s := foldS ((s.ctx c).accounts.map Prod.fst) (fun s a => s.accRefund c a (s.accHeld c a)) s
    s.updCtx c fun x =>
      { x with st := .faulted, midStep := false, leaving := false, reloading := none, owed := false, owedCommit := [] }

/-- CONTROL_STATE_LOST. -/
def State.controlLost (s : State) (ledgerOk : Bool) : State :=
  let s := ((foldS allCtxs State.lostCtx s).lifetime 0x0051 []).doorbell 0 15
  -- the request identities of R247 cannot balance
  if ledgerOk then s
  else s.identityFails <| allCtxs.flatMap fun c =>
    [(0x10, s.cons (cid 0x10 c)), (0x11, s.cons (cid 0x11 c)), (0x14, s.reqsIn c (· == .queued)),
     (0x15, s.reqsIn c fun r => r == .prefill || r == .decode), (0x16, s.reqsIn c (· == .ending))].flatMap fun (e : Nat × Nat) =>
      idWords (cid e.1 c) e.2

/-- A request that the mirror cannot bring back, accepted after it or at odds with the hardware, ends with reason 10
(R472). -/
def State.lostReq (s : State) (c id : Nat) : State :=
  match s.findReq c id with
  | some r => s.endReq c r 10 false none
  | none => s

/-- How the successor restores state (R472). -/
def State.restore (s : State) (inp : RestoreInput) : State :=
  if inp.storeOk then s.updCtl fun c => { c with restore := .store }
  else if inp.mirrorOk && s.ctl.mirrorStep.isSome then
    let s := s.updCtl fun c => { c with restore := .mirror }
    let s := s.updHost fun h => { h with rings := h.rings.map fun e =>
      (e.1, { e.2 with kept := e.2.kept.filter fun k => k.comp.isNone }) }
    let after := allCtxs.flatMap fun c =>
      ((s.ctx c).reqs.filter fun r => !s.ctl.mirrorReqs.contains (c, r.id, r.seq)).map fun r => (c, r.id)
    foldS (after ++ inp.lostRequests) (fun s r => s.lostReq (r.1 % 16) r.2) s
  else (s.updCtl fun c => { c with restore := .lost }).controlLost inp.ledgerOk

/-- A live update whose new image has taken the interlock goes on to SOAK_ACTIVE, and its command completes; one given up
before completes TIMEOUT (R482). -/
def State.updateTaken (s : State) (k : CoreAB) : State :=
  if s.ctl.phase = .soakStandby then
    let v := s.ctl.staged.getD {}
    let s := s.updCtl fun c =>
      { c with phase := .soakActive, phaseSince := s.time
               storeFmt := if c.storeFmt.toNat < v.storeFmt.toNat then c.storeFmt else v.storeFmt }
    ((s.raiseSvn v).lifetime 0x0052 [2, (coreNo k), v.version.toNat]).completeAll (fun w => w == .liveTaken) fun _ => .of stOk
  else s.completeAll (fun w => w == .liveTaken) fun _ => .of stTimeout

/-- What a switch-over gap held back comes after it (R462, R463): rewinds, the fences whose work is owed, and records. -/
def State.catchUp (s : State) (c : Nat) : State :=
  let s := s.lockstepRewind c
  let s := if (s.ctx c).owed then s.fenceFirmware c [] else s
  s.tbDrain c

/-- TAKE: from the successor alone; any other core's access is refused and counted.  Edits staged before the gap are
staged again as they were (08, R196), and commands in flight go on (R470).  A periodic snapshot follows (19, R519). -/
def execTake (core : CoreAB) (inp : RestoreInput) (s : State) : Host.Outcome State Fault Refusal :=
  .next <|
    if !s.ctl.gap || s.ctl.successor ≠ some core then s.notOwner
    else
      let us := (s.time - s.ctl.gapSince) / usNs
      let s := s.restore inp
      let s := s.updCtl fun c =>
        { c with owner := some core, writer := core, successor := none, gap := false, secondGap := false, lastBeat := s.time
                 gapLastUs := sat32 us
                 gapMaxUs := if c.gapMaxUs.toNat < us then sat32 us else c.gapMaxUs }
      let s := (s.updCtlCore core fun k => { k with health := .active, cleanSince := none, failCycles := 0 }).doorbell 0 15
      let s := s.lifetime 0x0050 [(coreNo core), b2n s.ctl.planned, us]
      let s := s.updateTaken core
      let s := foldS allCtxs State.catchUp s
      let s := (((s.checkDrained).checkQuiesced).checkDoze)
      s.updTel fun t => { t with pending := true, periodAt := s.time }

/-! ### Self-test and take-back (R465-R467) -/

/-- SELF_TEST_CYCLE of the standby: 0 passes, 1-4 the test that fails.  The test of the interlock path makes an owner's access,
which the interlock refuses and counts unless that test fails (R459).  While a new image soaks the cycles passed count
(R482); one that fails ends the soak (log 48). -/
def execSelfTestCycle (fail : Fin 5) (s : State) : Host.Outcome State Fault Refusal :=
  .next <| match s.ctl.owner with
    | none => s
    | some k =>
      let o := (coreOther k)
      let h := (s.ctlCore o).health
      if s.ctl.gap || !(h = .booting || h = .standbyOk || h = .standbyFail) then s
      else
        let soaking := s.ctl.phase == .soakStandby
        let s := if fail.val = 4 then s else s.notOwner
        if fail.val = 0 then
          let s := s.updCtlCore o fun x =>
            { x with health := .standbyOk, failCycles := 0, cleanSince := some (x.cleanSince.getD s.time) }
          if soaking then s.updCtl fun c => { c with soakCycles := min 10 (c.soakCycles + 1) } else s
        else
          let n := (s.ctlCore o).failCycles + 1
          let s := s.updCtlCore o fun x =>
            { x with health := if 3 ≤ n then .failed else .standbyFail, failCycles := n, lastFail := fail.val, cleanSince := none }
          if soaking && s.ctl.soakCycles < 10 then
            let s := (s.updCtl fun c => { c with phase := .none_, commitSvn := false }).updCtlCore o fun x => { x with fwVer := (s.ctlCore k).fwVer, digest := (s.ctlCore k).digest }
            s.completeAll (fun w => w == .liveTaken) fun _ => .of stTimeout
          else s

/-- A live update is in progress (R479, R481, R482). -/
def Ctl.updating (c : Ctl) : Bool := c.phase == .soakStandby || c.phase == .soakActive || c.phase == .awaitStart

/-- Clean time of a core in s (R465). -/
def State.cleanS (s : State) (k : CoreAB) : Nat :=
  match (s.ctlCore k).cleanSince with
  | some t => min 0xFFFFFFFF ((s.time - t) / secNs)
  | none => 0

/-- TAKE_BACK: a planned handover to the preferred core begins, and no step begins until it is done (R467, R468). -/
def execTakeBack (s : State) : Host.Outcome State Fault Refusal :=
  .next <| match s.ctl.owner with
    | none => s
    | some k =>
      let p := s.ctl.preferred
      if k ≠ p && (s.ctlCore p).health = .standbyOk && s.ctl.takebackMin ≠ 0 && s.ctl.takebackMin * 60 ≤ s.cleanS p &&
          !s.ctl.updating && (s.glb.state = .ready || s.glb.state = .quiesced) then
        s.updCtl fun c => { c with plannedDue := true }
      else s

/-- SUB_HEARTBEAT_MISS: 0 the codec microcontroller, 1-4 the link controllers, 5 the Peg unit; the owner restarts it from
its verified copy (R476).  The codec's pictures start again, a link controller's sessions go DOWN. -/
def execSubHeartbeatMiss (sub : Fin 6) (s : State) : Host.Outcome State Fault Refusal :=
  .next <|
    if s.ctl.owner.isNone || s.ctl.gap || s.glb.stage < 4 || !s.board.powered then s
    else
      let s := s.bump (ctlBase + 0x20)
      if sub.val = 0 then s.abandonPictures
      else if sub.val < 5 then s.portSessionsDown (sub.val - 1)
      else s

/-! ### Staging and the relay chain (R477-R480, R484) -/

/-- Is a bundle verified (R478)? -/
def State.verified (s : State) (b : Bundle) : Bool :=
  b.headerOk && b.signaturesOk && b.digestsOk && decide (s.sec.svn.toNat ≤ b.svn.toNat)

/-- The bundle lies complete in staging: VALID only if it is verified; in RECOVERY it then goes into both boot slots, and
the module resets 1 s later (R484). -/
def State.staged (s : State) (b : Bundle) : State :=
  let good := s.verified b
  let s := s.updCtl fun c =>
    { c with staging := if good then .valid else .invalid, staged := some b, stagedKib := min 0x10000 ((b.length + 1023) / 1024) }
  if good && s.glb.state = .recovery then
    s.updCtl fun c => { (c.flash 0 (List.range 8) b).flash 1 (List.range 8) b with recoveryAt := some (s.time + secNs) }
  else s

/-- The UP session of a module. -/
def State.sessionOf (s : State) (id : BitVec 128) : Option Nat := (s.peersIn .up).find? fun e => (s.peer e).id == id

/-- FW_STAGE: the bundle goes into the own staging and as RELAY frames of 2,048 bytes to the first listed module. -/
def execFwStage (c : Cmd) (bundle : Bundle) (chain : List (BitVec 128)) (s : State) : Host.Outcome State Fault Refusal :=
  .next <| s.row c 0x50 [] fun s =>
    let len := c.le 32 4
    let n := c.le 48 2
    params s c [(24, 35), (40, 49)]
      [(decide (64 * 2 ^ 20 < len), 32), (decide (255 < n) || (s.glb.state == .recovery && n != 0), 48)] <|
    if s.ctl.updating || s.ctl.staging = .pending ||
        (s.host.inflight.any fun i => i.wait == .fwStage) then .reply s (.of stBusy)
    else
      let s := s.staged bundle
      let s := s.updCtl fun k =>
        { k with chain := n, hopsGood := 0, hopFail := none, reported := [], lastFrame := s.time, ownVerified := s.verified bundle
                 relayUp := none, relayDown := none }
      if n = 0 then .reply s s.ctl.stageReply
      else match chain.head?.bind s.sessionOf with
      | none =>
        let s := s.updCtl fun k => { k with hopFail := some (0, 1), reported := upto n }
        .reply s s.ctl.stageReply
      | some e =>
        let s := s.updCtl fun k => { k with relayDown := some e }
        .later (foldS (upto (cdiv len 2048)) (fun s i =>
          s.sendFrame e { typ := 0x06, vc := 3, len := some (min 2048 (len - 2048 * i)) }) s) .fwStage

/-- A hop's report to the module the bundle came from. -/
def State.reportUp (s : State) : State :=
  match s.ctl.relayUp with
  | some u => s.sendFrame u { typ := 0x06, vc := 3 }
  | none => s

/-- RELAY: a frame of a bundle is written to staging and forwarded at once; the complete bundle is verified and reported.
A hop that holds the same bundle VALID only forwards; one with an update in hand, PENDING staging or an own FW_STAGE is
BUSY.  Without a downstream session it reports LINK for the modules after it. -/
def execRelay (f : Frame) (last : Bool) (bundle : Bundle) (next : Option (BitVec 128)) (s : State) :
    Host.Outcome State Fault Refusal :=
  .next <| s.onCredited f 6 fun e s =>
    let held := s.ctl.staging == .valid && (match s.ctl.staged with
      | some b => b.digest == bundle.digest
      | none => false)
    let busy := s.ctl.updating || s.ctl.staging == .pending || s.host.inflight.any fun i => i.wait == .fwStage
    let s := s.updCtl fun c => { c with relayUp := some e }
    let s :=
      if held || busy then s
      else if last then s.staged bundle
      else s.updCtl fun c =>
        { c with staging := .receiving, stagedKib := min 0x10000 ((if c.staging = .receiving then c.stagedKib else 0) + 2) }
    let s := match next with
      | none => s
      | some id => match s.sessionOf id with
        | some d => (s.updCtl fun c => { c with relayDown := if last then none else some d }).sendFrame d
            { typ := 0x06, vc := 3, len := some f.payload.length }
        | none => if last then s.reportUp else s
    if last then s.reportUp else s

/-- A report enters the mailbox of its port (16, R434), with contents the spec does not lay out. -/
def State.reportMail (s : State) : Bool × State :=
  match s.ctl.relayDown with
  | some e =>
    let (d, s) := s.draw
    s.mailPut (20 + (s.peer e).port.val) { bytes := slotBytes (Config.bytes d 64), stamped := !s.lnk.open_, cls := 6
                                           index := if s.lnk.open_ then 0xFF else (s.peer e).index % 32 }
  | none => (true, s)

/-- RELAY_REPORT: 0 VALID, 5 ALREADY, otherwise the cause of hop `hop`'s failure.  The origin collects it; a hop passes it
upstream. -/
def execRelayReport (hop : Nat) (cause : Fin 6) (s : State) : Host.Outcome State Fault Refusal :=
  .next <|
    let origin := s.host.inflight.any fun i => i.wait == .fwStage
    if !origin then s.reportUp
    else if s.ctl.chain ≤ hop || hop ∈ s.ctl.reported then s
    else
      let (ok, s) := s.reportMail
      if !ok then s
      else
        let good := cause.val == 0 || cause.val == 5
        let s := s.updCtl fun c =>
          let c := if good then { c with hopsGood := c.hopsGood + 1 } else c.hopFails hop cause.val
          { c with reported := hop :: c.reported }
        if s.ctl.chain ≤ s.ctl.reported.length then s.stageEnds 4 else s

/-- RELAY_REPORT_TIMEOUT: what has not come 60 s after the last frame counts as UNKNOWN (R480). -/
def execRelayReportTimeout (s : State) : Host.Outcome State Fault Refusal :=
  .next <|
    if (s.host.inflight.any fun i => i.wait == .fwStage) && decide (s.ctl.lastFrame + 60 * secNs ≤ s.time) then s.stageEnds 4
    else s

/-- RECOVERY_RESET. -/
def execRecoveryReset (s : State) : Host.Outcome State Fault Refusal :=
  .next <| match s.ctl.recoveryAt with
    | some t =>
      if s.glb.state = .recovery && t ≤ s.time then s.moduleReset.updTel fun k => { k with starts := k.starts + 1 } else s
    | none => s

/-! ### FW_ACTIVATE and FW_STATUS (R481-R483) -/

/-- Do the store formats of the staged bundle and the running image overlap (R477, R481)? -/
def Ctl.formatsMeet (c : Ctl) (b : Bundle) : Bool :=
  decide (max c.oldestStoreFmt.toNat b.oldestStoreFmt.toNat ≤ min c.storeFmt.toNat b.storeFmt.toNat)

/-- FW_ACTIVATE in one of its modes: R481's cases in their order, then `k` on the staged bundle. -/
def State.activateRow (s : State) (c : Cmd) (sel : Cmd → Bool) (live : Bool) (k : State → Bundle → Verdict) : State :=
  s.subRow c 0x51 sel [] fun s =>
    params s c [(16, 17)] [(decide (1 < (c.byte 16).toNat), 16), (decide (1 < (c.byte 17).toNat), 17)] <|
    let standby := (s.ctl.owner.map fun o => (s.ctlCore (coreOther o)).health).getD .off
    match s.ctl.staged with
    | none => .reply s (.of stNotBound)
    | some b =>
      checks s
        [(s.ctl.staging != .valid, .of stNotBound), (s.ctl.updating, .of stBusy), (live && standby != .standbyOk, .of stBusy),
         (live && !s.ctl.formatsMeet b, .of stBadVersion), (decide (b.svn.toNat < s.sec.svn.toNat), .of stDenied)] <|
      k (s.updCtl fun x => { x with commitSvn := (c.byte 17).getLsbD 0 }) b

/-- LIVE: SOAK_STANDBY begins, the standby on the new firmware; the command completes when the successor takes. -/
def execLive (c : Cmd) (s : State) : Host.Outcome State Fault Refusal :=
  .next <| s.activateRow c (fun c => (c.byte 16).toNat != 1) true fun s b =>
    let s := s.updCtl fun k => { k with phase := .soakStandby, phaseSince := s.time, soakCycles := 0 }
    let s := match s.ctl.owner with
      | some o => s.updCtlCore (coreOther o) fun k => { k with health := .booting, fwVer := b.version, digest := b.ctlDigest, cleanSince := none, failCycles := 0 }
      | none => s
    .later s .liveTaken

/-- The staged control and subordinate images go into the non-primary slot, and PENDING is set. -/
def State.setPending (s : State) : State := s.updCtl fun c =>
  let c := match c.staged with
    | some b => c.flash c.spareSlot [3, 4, 5, 6, 7] b
    | none => c
  { c with pending := true, staging := .pending }

/-- NEXT_START. -/
def execNextStart (c : Cmd) (s : State) : Host.Outcome State Fault Refusal :=
  .next <| s.activateRow c (fun c => (c.byte 16).toNat == 1) false fun s _ => .reply s.setPending (.of stOk)

/-- SOAK_STANDBY_DONE: ten cycles passed; the planned handover begins (R468, R482). -/
def execSoakStandbyDone (s : State) : Host.Outcome State Fault Refusal :=
  .next <|
    if s.ctl.phase = .soakStandby && 10 ≤ s.ctl.soakCycles && s.ctl.owner.isSome then
      s.updCtl fun c => { c with plannedDue := true }
    else s

/-- SOAK_STANDBY_TIMEOUT: 30 s; the standby returns to the old image, and the command completes TIMEOUT. -/
def execSoakStandbyTimeout (s : State) : Host.Outcome State Fault Refusal :=
  .next <|
    if s.ctl.phase = .soakStandby && s.ctl.soakCycles < 10 && s.ctl.phaseSince + 30 * secNs ≤ s.time then
      let s := s.updCtl fun c => { c with phase := .none_, commitSvn := false }
      let s := match s.ctl.owner with
        | some o => s.updCtlCore (coreOther o) fun k => { k with health := .booting, fwVer := (s.ctlCore o).fwVer, digest := (s.ctlCore o).digest, cleanSince := none }
        | none => s
      s.completeAll (fun w => w == .liveTaken) fun _ => .of stTimeout
    else s

/-- SOAK_ACTIVE_END: after 10 min the former active core reloads the new image, and the update waits for the next start. -/
def execSoakActiveEnd (s : State) : Host.Outcome State Fault Refusal :=
  .next <|
    if s.ctl.phase = .soakActive && s.ctl.phaseSince + 600 * secNs ≤ s.time then
      let v := s.ctl.staged.getD {}
      let s := s.updCtl fun c => { c with phase := .awaitStart, phaseSince := s.time, storeFmt := v.storeFmt, oldestStoreFmt := v.oldestStoreFmt }
      let s := match s.ctl.owner with
        | some o => s.updCtlCore (coreOther o) fun k => { k with health := .booting, fwVer := v.version, digest := v.ctlDigest, cleanSince := none, failCycles := 0 }
        | none => s
      s.setPending.lifetime 0x0052 [3, v.version.toNat]
    else s

/-- Codes of R483 and R487. -/
def Staging.code : Staging → Nat
  | .empty => 0
  | .receiving => 1
  | .valid => 2
  | .invalid => 3
  | .pending => 4
  | .rejected => 5
def UpdPhase.code : UpdPhase → Nat
  | .none_ => 0
  | .soakStandby => 1
  | .soakActive => 2
  | .awaitStart => 3
  | .rolledBack => 4
def Health.code : Health → Nat
  | .off => 0
  | .booting => 1
  | .active => 2
  | .standbyOk => 3
  | .standbyFail => 4
  | .failed => 5
  | .recoveryRom => 6
def Restore.code : Restore → Nat
  | .store => 0
  | .mirror => 1
  | .lost => 2
  | .none_ => 3

/-- FW_STATUS (R483). -/
def execFwStatus (c : Cmd) (s : State) : Host.Outcome State Fault Refusal :=
  .next <| s.row c 0x52 [] fun s =>
    params s c [] [] <|
    let o := s.ctl.owner.getD .a
    .reply s (.ok (leBytes 1 s.ctl.staging.code ++ leBytes 1 s.ctl.phase.code ++ leBytes 1 (coreNo o) ++
      leBytes 1 (s.ctlCore (coreOther o)).health.code ++ leBytes 4 ((s.ctl.staged.map fun b => b.version.toNat).getD 0) ++
      leBytes 4 (s.ctlCore o).fwVer.toNat ++ leBytes 4 s.ctl.stagedKib ++ leBytes 1 s.glb.bootFails ++
      leBytes 1 s.ctl.restore.code ++ leBytes 1 (b2n s.ctl.migrated + 2 * b2n s.ctl.defaulted) ++ leBytes 1 (b2n s.ctl.primaryB) ++
      leBytes 4 (s.cleanS (coreOther o))))

end Sys2Proof.Machine
end

