-- ==== Sys2Proof/Machine/DarnerRows.lean ====
section
/-!
DEFINITION. The Darner's commands and the register write that clears its latest mismatch (13, R369, R370, R373).
-/
namespace Sys2Proof.Machine

/-- Every bin returns to normal; counts stay (R367, R369). -/
def State.clearMap (s : State) : State :=
  s.updDrn fun d => { d with map := d.map.map fun e => (e.1, { e.2 with raised := false }) }
/-- CLEAR_CORE: the minorities in the window and CONFIRMED are forgotten. -/
def State.clearCore (s : State) (n : Nat) : State :=
  s.updDrn fun d => { d with cores := d.cores.upd n fun k => { k with confirmed := false, recent := [] } }

/-- CHECK_CONFIG.  A field is read only where its SET bit stands (DEDUCED, log 24). -/
def execCheckConfig (c : Cmd) (s : State) : Host.Outcome State Fault Refusal :=
  .next <| s.row c 0x70 [] fun s =>
    let f := c.le 16 1
    let out := fun lo hi n => decide (n < lo) || decide (hi < n)
    let d := if f.testBit 0 then c.le 20 2 else s.drn.div
    let r := if f.testBit 2 then c.le 23 1 else s.drn.raisedDiv
    let core := c.le 28 1
    params s c [(16, 16), (20, 28)]
      [(decide (63 < f), 16), (f.testBit 0 && out 8 1024 (c.le 20 2), 20), (f.testBit 1 && out 1 64 (c.le 22 1), 22),
       (f.testBit 2 && out 2 64 (c.le 23 1), 23), ((f.testBit 0 || f.testBit 2) && decide (d < r), if f.testBit 2 then 23 else 20),
       (f.testBit 3 && out 1000 1000000 (c.le 24 4), 24), (f.testBit 5 && decide (63 < core) && core != 0xFF, 28)] <|
    if f.testBit 5 && s.drn.drain then .reply s (.of stDenied)
    else
      let s := s.updDrn fun x =>
        { x with div := d, raisedDiv := r
                 rotFloor := if f.testBit 1 then c.le 22 1 else x.rotFloor
                 release := if f.testBit 3 then c.le 24 4 else x.release }
      let s := if f.testBit 4 then s.clearMap else s
      let s := if f.testBit 5 then (if core = 0xFF then foldS (upto 64) State.clearCore s else s.clearCore core) else s
      let s := if f = 0 then s else s.lifetime 0x0032 [f, s.drn.div, s.drn.rotFloor, s.drn.raisedDiv, s.drn.release, core]
      .reply s (.of stOk)

/-- DRN_MSTEP counts since a bin's last mismatch, at most `m`; 0 before any. -/
def State.binSince (s : State) (b : Bin) (m : Nat) : Nat := if b.count = 0 then 0 else min m (s.mstep - b.lastAt)
/-- Minorities of a core within the current window (R357). -/
def State.minWindow (s : State) (n : Nat) : Nat :=
  min 2 ((s.drn.cores.get n).recent.filter fun t => decide (s.mstep - t < 1000)).length

/-- CHECK_QUERY. -/
def execCheckQuery (c : Cmd) (s : State) : Host.Outcome State Fault Refusal :=
  .next <| s.row c 0x71 [] fun s =>
    let cnt := fun off => leBytes 6 (s.evAt (drnBase + off)).count.toNat
    match c.le 16 1 with
    | 0 => params s c [(16, 16)] [] <| .reply s (.ok (cnt 0x18 ++ leBytes 2 s.raisedBins ++ cnt 0x20 ++ [0, 0] ++ cnt 0x28 ++
        [BitVec.ofNat 8 (s.drn.cores.filter fun e => e.2.confirmed).length,
         BitVec.ofNat 8 (b2n s.goalsOff + 2 * b2n s.drn.pathConfirmed)]))
    | 1 => params s c [(16, 16), (18, 19)] [(decide (2047 < c.le 18 2), 18)] <|
        let b := s.drn.map.get (c.le 18 2)
        .reply s (.ok (leBytes 4 b.count.toNat ++ [BitVec.ofNat 8 (b2n b.raised + 2 * b2n b.sat), 0, 0, 0] ++
          leBytes 4 (s.binSince b 0xFFFFFFFF)))
    | 2 => params s c [(16, 16), (18, 18)] [(decide (63 < c.le 18 1), 18)] <|
        let n := c.le 18 1
        let k := s.drn.cores.get n
        .reply s (.ok ([BitVec.ofNat 8 (s.minWindow n), BitVec.ofNat 8 (b2n k.confirmed), 0, 0] ++ leBytes 4 k.total ++
          leBytes 8 k.last))
    | _ => .reply s (.bad 16)

/-- Is the DRN block valid and accessible (01, R22, R23)? -/
def State.drnValid (s : State) : Bool := s.board.powered && decide (7 ≤ s.glb.stage) && s.glb.state != .doze

/-- DRN_LAST_CLEAR: a write of 1 to VALID clears DRN_LAST; its bin and step registers keep their values. -/
def execDrnLastClear (value : Word) (s : State) : Host.Outcome State Fault Refusal :=
  .next <| if s.drnValid && value.getLsbD 31 then
      s.updDrn fun d => { d with last := { bin := d.last.bin, step := d.last.step } }
    else s

end Sys2Proof.Machine
end

