-- ==== Sys2Proof/Machine/Handover.lean ====
section
/-!
DEFINITION. The handover store (17, R469, R470): its regions and what lies in them.  Every change of state is journalled and
replayed into the regions before it shows outside the control core, so the store is read off the state (log 142); bytes
of an entry whose layout the spec does not give are functions of the entry without a body.
-/
namespace Sys2Proof

/-- Byte `i` of a request's 512, of an account's 64: the spec gives no layout (17, R469). -/
opaque Config.requestEntry : Machine.Req → (i : Nat) → Byte
opaque Config.accountEntry : Machine.Account → (i : Nat) → Byte
/-- Byte `i` of the object registry, by the objects it holds. -/
opaque Config.registryByte : List Machine.Ctx → Tbl Machine.PatchSlot → Tbl Machine.Gram → Tbl Machine.Sess → (i : Nat) → Byte
/-- Byte `i` of the journal ring, and the number of the latest checkpoint, as they stand at a time. -/
opaque Config.journalByte : (time i : Nat) → Byte
opaque Config.checkpoint : (time : Nat) → Nat

namespace Machine

/-- A region of the store: offset and size (R469). -/
structure StoreRegion where
  off : Nat
  size : Nat
  deriving DecidableEq, Repr

def storeHeader : StoreRegion := ⟨0, 0x10000⟩
def storeJournal : StoreRegion := ⟨0x10000, 3 * 2 ^ 20⟩
def storeRequests : StoreRegion := ⟨0x310000, 8 * 2 ^ 20⟩
def storeAccounts : StoreRegion := ⟨0xB10000, 2 ^ 20⟩
def storeRegistry : StoreRegion := ⟨0xC10000, 2 * 2 ^ 20⟩
def storeKept : StoreRegion := ⟨0xE10000, 17 * 2 ^ 20 + 2 ^ 17⟩

/-- Device address of the store (12, R310). -/
def storeBase : Nat := 0x004200000000

/-- Entry `n` of the request table, which is as long as the module tracks requests (09, R217): context by context, in the order
each tracks them. -/
def State.requestByte (s : State) (o : Nat) : Byte :=
  match (allCtxs.flatMap fun c => (s.ctx c).reqs)[o / 512]? with
  | some r => Config.requestEntry r (o % 512)
  | none => 0

/-- Account parameters: account `a` of context `c` is entry 1,024 c + a. -/
def State.accountByte (s : State) (o : Nat) : Byte :=
  let n := o / 64
  match (s.ctx (n / 1024)).accounts.find? fun e => e.1 == n % 1024 with
  | some e => Config.accountEntry e.2 (o % 64)
  | none => 0

/-- Kept completions: 4,096 of 32 bytes for each ring, ring `n` of function `f` at 8 f + n and the MCTP ring 8 last; a
completion lies at its sequence number modulo 4,096 (15, R413). -/
def State.keptByte (s : State) (o : Nat) : Byte :=
  let ring := o / 2 ^ 17
  let at_ := o / 32 % 4096
  let r := if ring = 136 then s.ring 0 8 else s.ring (ring / 8) (ring % 8)
  match (r.kept.find? fun k => decide (k.seq.toNat % 4096 = at_)).bind (·.comp) with
  | some c => c.toBytes.getD (o % 32) 0
  | none => 0

/-- Byte `o` of a region behind the header. -/
def State.regionByte (s : State) (r : StoreRegion) (o : Nat) : Byte :=
  if r = storeJournal then Config.journalByte s.time o
  else if r = storeRequests then s.requestByte o
  else if r = storeAccounts then s.accountByte o
  else if r = storeRegistry then Config.registryByte (allCtxs.map s.ctx) s.tsu.patches s.tsu.grams s.vid.sess o
  else if r = storeKept then s.keptByte o
  else 0

/-- The regions behind the header, in order. -/
def storeRegions : List StoreRegion := [storeJournal, storeRequests, storeAccounts, storeRegistry, storeKept]

/-- Digest of a region. -/
def State.regionDigest (s : State) (r : StoreRegion) : List Byte := sha384 ((upto r.size).map (s.regionByte r))

/-- The header's fields one behind the other: format version, writing core, latest checkpoint, digests of the regions. -/
def State.headerByte (s : State) (o : Nat) : Byte :=
  if o = 0 then s.ctl.storeFmt
  else if o = 1 then BitVec.ofNat 8 (b2n (s.ctl.writer == .b))
  else if o < 10 then (leBytes 8 (Config.checkpoint s.time)).getD (o - 2) 0
  else match storeRegions[(o - 10) / 48]? with
    | some r => (s.regionDigest r).getD ((o - 10) % 48) 0
    | none => 0

/-- Byte `o` of the store. -/
def State.storeByte (s : State) (o : Nat) : Byte :=
  if o < storeHeader.size then s.headerByte o
  else match storeRegions.find? fun r => decide (r.off ≤ o) && decide (o < r.off + r.size) with
    | some r => s.regionByte r (o - r.off)
    | none => 0

/-- The store's bytes from offset `o` on, laid where a program reads them. -/
def State.showStore (s : State) (o n : Nat) : State := s.putClean (storeBase + o) ((upto n).map fun i => s.storeByte (o + i))

end Machine
end Sys2Proof
end

