-- ==== Sys2Proof/Machine/Dma.lean ====
section
/-!
DEFINITION. The rows of channel programs, their faults and the patrol of Rinse (12, R310-R347).  A channel that an image
owns runs the image's program; a chip channel without one runs instructions of firmware programs, each taken as a
program of one instruction (log 38).
-/
namespace Sys2Proof.Machine

/-! ### Spaces -/

/-- Key of byte `addr` of a MOVE space (R334), for a program of context `c`. -/
def State.spaceKey (s : State) (c space addr : Nat) : Nat :=
  if space < 0x40 then storeKey space addr
  else if space = 0x40 then basketKey addr
  else if space = 0x41 then ctxKey c addr
  else if space = 0x42 then pageKey 0 addr
  else if space = 0x44 then 0x004200000000 + addr
  else s.deviceKey addr

/-- Error of an access, from the byte of a run where it begins; a translation fault with its address and cause. -/
structure RunFault where
  at_ : Nat := 0
  cls : ErrClass := .bus
  va : Option (Nat × Nat) := none
  deriving DecidableEq, Repr, Inhabited

/-- A run must end at or below `lim`. -/
def runEnd (addr len lim : Nat) : Option RunFault := if addr + len ≤ lim then none else some { at_ := lim - addr }

/-- The part of the device map that a chip channel reaches without translation (R310). -/
def deviceEnd (addr : Nat) : Nat :=
  if addr < hbmBytes then hbmBytes
  else if 0x004000000000 ≤ addr && addr < 0x004006000000 then 0x004006000000
  else if 0x004100000000 ≤ addr && addr < 0x004110000000 && addr % 0x400000 < 0x300000 then addr / 0x400000 * 0x400000 + 0x300000
  else addr

/-- The first fault of a run in a space (R310, R330, R334). -/
def State.runFault (s : State) (k : Chan) (space addr len : Nat) (write : Bool) : Option RunFault :=
  if space < 0x40 then runEnd addr len 0x300000
  else if space = 0x40 then runEnd addr len 0x6000000
  else if space = 0x41 then (s.vaFault k.ctx addr len write).map fun f => { at_ := f.1 - addr, cls := .mmuFault, va := some f }
  else if space = 0x42 then
    let g := s.page (addr / 2 ^ 30 % 2 ^ 17)
    let own := match g.owner with
      | none => false
      | some c => !k.owned || c == k.ctx
    if !own || g.st = .free || g.st = .reclaim then some { cls := .mmuFault }
    else runEnd (addr % 2 ^ 30) len ((s.ctx (g.owner.getD 0)).granules * 16384)
  else if k.owned then some {}
  else if space = 0x43 then runEnd addr len (2 ^ 48)
  else if space = 0x44 then runEnd addr len 0x2000000
  else if space = 0x45 then runEnd addr len (deviceEnd addr)
  else some {}

/-! ### MOVE -/

def mvBarrier (ins : List Byte) : Bool := (lb ins 1 1).testBit 0
def mvFill (ins : List Byte) : Bool := (lb ins 1 1).testBit 1
def mvLen (ins : List Byte) : Nat := lb ins 16 4
def mvRows (ins : List Byte) : Nat := lb ins 20 2
/-- Addresses of row `i`, 48 bits, with the loop advances of R335. -/
def mvSrc (k : Chan) (ins : List Byte) (i : Nat) : Nat :=
  (((lb ins 4 6 : Int) + i * signedOf 32 (lb ins 24 4) + (k.loops.map fun (l : Nat × Nat × Nat × Int × Int) => (l.2.2.1 : Int) * l.2.2.2.1).foldl (· + ·) 0)
    % 2 ^ 48).toNat
def mvDst (k : Chan) (ins : List Byte) (i : Nat) : Nat :=
  (((lb ins 10 6 : Int) + i * signedOf 32 (lb ins 28 4) + (k.loops.map fun (l : Nat × Nat × Nat × Int × Int) => (l.2.2.1 : Int) * l.2.2.2.2).foldl (· + ·) 0)
    % 2 ^ 48).toNat

/-- Where a MOVE stops: offset, class, direction, space, address, and the translation fault to latch. -/
structure MoveStop where
  offset : Nat
  cls : ErrClass
  write : Bool
  space : Nat
  addr : Nat
  va : Option (Nat × Nat)
  deriving DecidableEq, Repr, Inhabited

/-- The first poisoned byte of a row that goes to host memory (R320). -/
def State.hostPoison (s : State) (k : Chan) (ins : List Byte) (src len : Nat) : Option Nat :=
  if lb ins 3 1 = 0x43 && lb ins 2 1 != 0x43 && !mvFill ins then
    (upto len).find? fun j => s.mem.poisoned (s.spaceKey k.ctx (lb ins 2 1) (src + j))
  else none

/-- The stop of row `i` from its byte `j` on: the read is checked before the write. -/
def State.rowStop (s : State) (k : Chan) (ins : List Byte) (i j : Nat) : Option MoveStop :=
  let n := mvLen ins - j
  let src := mvSrc k ins i + j
  let dst := mvDst k ins i + j
  let base := i * mvLen ins + j
  let rd := if mvFill ins then none else s.runFault k (lb ins 2 1) src n false
  let wr := s.runFault k (lb ins 3 1) dst n true
  let stop (f : RunFault) (write : Bool) (space addr : Nat) : MoveStop :=
    { offset := base + f.at_, cls := f.cls, write, space, addr := addr + f.at_, va := f.va }
  let acc : Option MoveStop := match rd, wr with
    | none, none => none
    | some f, none => some (stop f false (lb ins 2 1) src)
    | none, some g => some (stop g true (lb ins 3 1) dst)
    | some f, some g => some (if f.at_ ≤ g.at_ then stop f false (lb ins 2 1) src else stop g true (lb ins 3 1) dst)
  let good := match acc with
    | none => n
    | some m => m.offset - base
  match s.hostPoison k ins src good with
  | some p => some { offset := base + p, cls := .poison, write := true, space := 0x43, addr := dst + p, va := none }
  | none => acc

/-- The stop of a MOVE that is issued from offset `off` on. -/
def State.moveStop (s : State) (k : Chan) (ins : List Byte) (off : Nat) : Option MoveStop :=
  (upto (mvRows ins)).findSome? fun i =>
    if (i + 1) * mvLen ins ≤ off then none else s.rowStop k ins i (off - i * mvLen ins)

/-- Pieces of a run, cut where either address reaches a granule. -/
def pieces (src dst : Nat) : Nat → Nat → Nat → List (Nat × Nat)
  | 0, _, _ => []
  | _, 0, _ => []
  | fuel + 1, len, at_ =>
    let n := min len (min (16384 - (src + at_) % 16384) (16384 - (dst + at_) % 16384))
    (at_, n) :: pieces src dst fuel (len - n) (at_ + n)

/-- Bytes `j` up to `j + n` of row `i` are moved, those to host memory in PF0's name (log 135); poison goes with the words (R320), a word written whole anew loses it. -/
def State.moveRow (s : State) (k : Chan) (ins : List Byte) (host : Blob) (i j n : Nat) : State :=
  let src := mvSrc k ins i + j
  let dst := mvDst k ins i + j
  let sk := s.spaceKey k.ctx (lb ins 2 1)
  let s := if lb ins 2 1 = 0x44 && !mvFill ins then s.showStore src n else s
  if lb ins 3 1 = 0x43 then
    s.hostPut 0 dst ((upto n).map fun b =>
      if mvFill ins then 0 else if lb ins 2 1 = 0x43 then host.at (i * mvLen ins + j + b) else s.mem.byteAt (sk (src + b)))
  else
    let key := s.spaceKey k.ctx (lb ins 3 1)
    let ps := pieces src dst n n 0
    let s := s.updMem fun m => ps.foldl (fun m (p : Nat × Nat) => m.freshRun (key (dst + p.1)) p.2) m
    s.updMem fun m => ps.foldl (fun m (p : Nat × Nat) =>
      if mvFill ins then m.putAll (key (dst + p.1)) (List.replicate p.2 0)
      else if lb ins 2 1 = 0x43 then
        m.putAll (key (dst + p.1)) ((upto p.2).map fun b => host.at (i * mvLen ins + j + p.1 + b))
      else m.copyRun (sk (src + p.1)) (key (dst + p.1)) p.2) m

/-- Bytes of a MOVE from offset `lo` up to `hi`. -/
def State.moveSpan (s : State) (k : Chan) (ins : List Byte) (host : Blob) (lo hi : Nat) : State :=
  foldS (upto (mvRows ins)) (fun s i =>
    let a := max lo (i * mvLen ins)
    let b := min hi ((i + 1) * mvLen ins)
    if a < b then s.moveRow k ins host i (a - i * mvLen ins) (b - a) else s) s

/-- DMA is there: its registers are valid from RELOAD and nothing runs in DOZE or CLOCK_HOLD (01, R22, R23). -/
def State.dmaLive (s : State) : Bool :=
  s.board.powered && decide (4 ≤ s.glb.stage) && !(s.glb.state == .doze || s.glb.state == .clockHold)

/-- Does the image of the context on the array name the channel (R333)? -/
def State.chanNamed (s : State) (i : Nat) : Bool :=
  match s.arr.cur with
  | some c => (s.runImage c).progs.any fun p => progChan p.1 == i
  | none => false

/-- The channel takes up an instruction: of its image's program the one in hand, or one of a firmware program. -/
def State.takeUp (s : State) (i : Nat) (ins : List Byte) : Option State :=
  let k := s.chan i
  let ready := k.st == .run && !k.moving && decide (k.index < k.count)
  if !s.dmaLive then none
  else if k.owned && (s.chanNamed i || k.st == .run) then
    let prog := ((s.runImage k.ctx).progs.find? fun p => progChan p.1 == i).map Prod.snd
    if ready && (prog.bind fun p => p[k.index]?) == some ins then some s else none
  else if i < 256 then none
  else if k.st = .idle || k.st = .done then
    some (s.updChan i fun k =>
      { k with st := .run, owned := false, aborted := false, progress := 0, index := 0, count := 1, loops := [], moving := false
               out := [], offset := 0, cls := .none_, waitKind := 0, waitObj := 0, waitCount := 0, lastAt := s.time })
  else if ready then some s else none

/-- Accesses a MOVE of a core channel loses at port 5: those to banks that a lower port is served at in their cycles (04, R88,
R89). -/
def portFive (ch : Nat) (lost : List Collide) : List Collide :=
  if ch < 256 then lost.filter fun e => Collide.real e && e.hi.val == 5 else []

/-- MOVE (R334, R338, R341): the accesses are issued; below a failing one they complete.  A core channel's accesses that lose
their bank are not performed (04, R89), and its reads may meet errors (R318). -/
def execMove (ch : Fin 272) (ins : List Byte) (meets : MoveMeets) (s : State) : Host.Outcome State Fault Refusal :=
  .next <|
    if lb ins 0 1 ≠ 1 then s
    else match s.takeUp ch.val ins with
    | none => s
    | some s => s.reading meets.ecc fun s =>
      let k := s.chan ch.val
      let n := ch.val / 4
      let es := portFive ch.val meets.lost
      match s.moveStop k ins k.offset with
      | some m =>
        let s := (s.losing n es fun s => s.moveSpan k ins meets.host k.offset m.offset).chanHalt ch.val m.cls m.write m.space
          m.addr m.offset
        let s := match m.va with
          | some f => s.latchFault k.ctx m.write f
          | none => s
        s.collidedAll k.ctx n (s.core n).op.toNat es
      | none =>
        let s := (s.losing n es fun s => s.moveSpan k ins meets.host k.offset (mvRows ins * mvLen ins)).collidedAll k.ctx n
          (s.core n).op.toNat es
        if (s.chan ch.val).st ≠ .run then s else
        let o : OutMove :=
          { ins, index := k.index, tags := mvRows ins * cdiv (mvLen ins) 256, loops := k.loops, since := s.time }
        s.updChan ch.val fun k =>
          let k := { k with out := k.out ++ [o], offset := 0, lastAt := s.time }
          if mvBarrier ins then { k with moving := true } else { k with index := k.index + 1 }

/-- The oldest MOVE is acknowledged (R338, R339). -/
def Chan.ack (k : Chan) (now : Nat) : Chan :=
  match k.out with
  | [] => k
  | _ :: r =>
    let k := { k.advance 1 with out := r, lastAt := now }
    (if k.moving && r.isEmpty then { k with moving := false, index := k.index + 1, offset := 0 } else k).settle

/-- MOVE_COMPLETE. -/
def execMoveComplete (ch : Fin 272) (s : State) : Host.Outcome State Fault Refusal :=
  .next (s.putChan ch.val ((s.chan ch.val).ack s.time))

/-! ### LOOP, WAIT, SIGNAL -/

/-- A LOOP at its end: back to its target for a further iteration, or on (R335). -/
def Chan.loop (k : Chan) (count target : Nat) (sa da : Int) (now : Nat) : Chan :=
  let back (it : Nat) (outer : List (Nat × Nat × Nat × Int × Int)) : Chan :=
    { k.advance 1 with loops := (k.index, target, it, sa, da) :: outer, index := target, offset := 0, lastAt := now }
  match k.loops with
  | (at_, _, it, _, _) :: outer =>
    if at_ = k.index then
      if it + 1 < count then back (it + 1) outer else { k with loops := outer }.next now
    else if 1 < count then back 1 k.loops else k.next now
  | [] => if 1 < count then back 1 [] else k.next now

/-- DMA_LOOP (R335): the LOOP itself counts as completed each time it is reached (log 41). -/
def execDmaLoop (ch : Fin 272) (ins : List Byte) (s : State) : Host.Outcome State Fault Refusal :=
  .next <|
    if lb ins 0 1 ≠ 2 then s
    else match s.takeUp ch.val ins with
    | none => s
    | some s =>
      s.putChan ch.val ((s.chan ch.val).loop (lb ins 4 4) (lb ins 8 2) (signedOf 32 (lb ins 16 4)) (signedOf 32 (lb ins 20 4)) s.time)

/-- Object of a WAIT: a bit, a credit register of a core (a core channel's own), a peg, an event register. -/
def waitObject (i : Nat) (ins : List Byte) : Nat :=
  match lb ins 1 1 with
  | 0 => lb ins 4 2 % 32
  | 1 => creditKey (if i < 256 then i / 4 else lb ins 5 1 % 64) (lb ins 4 1 % 32)
  | 2 => lb ins 4 2 % 256
  | _ => lb ins 4 2 % 64

/-- Is the condition of a WAIT met, and what meeting it takes (R336)? -/
def State.waitMet (s : State) (i kind obj count : Nat) : Option State :=
  match kind with
  | 0 =>
    if (s.chan i).bell.getLsbD obj then some (s.updChan i fun k => { k with bell := k.bell &&& ~~~((1 : Word) <<< obj) }) else none
  | 1 => if s.hasCredit (obj / 32) (obj % 32) count then some (s.takeCredit (obj / 32) (obj % 32) count) else none
  | 2 => if (s.pegAt obj).st = .fired then some s else none
  | _ =>
    if count ≤ s.dma.events.get obj then some (s.updDma fun d => { d with events := d.events.upd obj (· - count) }) else none

/-- A peg the channel may not wait for: FREE (02, R47), or not armed by the function of the program's context (R336). -/
def State.pegBarred (s : State) (k : Chan) (n : Nat) : Bool :=
  (s.pegAt n).st == .free || (k.owned && (s.pegAt n).armedBy != some (k.ctx + 1))

/-- WAIT. -/
def execWait (ch : Fin 272) (ins : List Byte) (s : State) : Host.Outcome State Fault Refusal :=
  .next <|
    let kind := lb ins 1 1
    let obj := waitObject ch.val ins
    if lb ins 0 1 ≠ 3 || 3 < kind then s
    else match s.takeUp ch.val ins with
    | none => s
    | some s =>
      if kind = 2 && s.pegBarred (s.chan ch.val) obj then s.chanTimeout ch.val
      else match s.waitMet ch.val kind obj (lb ins 8 4) with
      | some s => s.chanNext ch.val
      | none => s.updChan ch.val fun k =>
          { k with st := .wait, waitKind := kind, waitObj := obj, waitCount := lb ins 8 4, lastAt := s.time }

/-- WAIT_SATISFIED. -/
def execWaitSatisfied (ch : Fin 272) (s : State) : Host.Outcome State Fault Refusal :=
  .next <|
    let k := s.chan ch.val
    if k.st ≠ .wait || !s.dmaLive then s
    else match s.waitMet ch.val k.waitKind k.waitObj k.waitCount with
    | some s => s.chanNext ch.val
    | none => s

/-- SIGNAL (R337): a bit beyond the word, a channel or a function that is not there takes nothing. -/
def execSignal (ch : Fin 272) (ins : List Byte) (s : State) : Host.Outcome State Fault Refusal :=
  .next <|
    let b := lb ins 4 1
    let dst := lb ins 6 2
    if lb ins 0 1 ≠ 4 || 2 < lb ins 1 1 then s
    else match s.takeUp ch.val ins with
    | none => s
    | some s =>
      let k := s.chan ch.val
      let s := match lb ins 1 1 with
        | 0 =>
          if 0x8000 ≤ dst then
            if !k.owned && decide (dst % 0x8000 < 17) && decide (24 ≤ b) && decide (b < 32) then s.doorbell (dst % 0x8000) b else s
          else if dst < 272 && b < 32 then s.updChan dst fun k => { k with bell := k.bell ||| ((1 : Word) <<< b) }
          else s
        | 1 => s.addCredit k.ctx (lb ins 5 1 % 64) (b % 32) (lb ins 8 4)
        | _ => s.updDma fun d => { d with events := d.events.upd (b % 64) (· + lb ins 8 4) }
      s.chanNext ch.val

/-! ### Errors -/

/-- An access of the oldest MOVE still out fails: the channel goes back to it and halts (R341). -/
def Chan.failOldest (k : Chan) (cls : ErrClass) (write : Bool) (space addr offset : Nat) : Chan :=
  match k.out with
  | [] => k
  | m :: _ => { k with index := m.index, loops := m.loops, out := [] }.halt cls write space addr offset

/-- ACCESS_ERROR. -/
def execAccessError (ch : Fin 272) (err : AccessErr) (write : Bool) (space addr offset : Nat) (s : State) :
    Host.Outcome State Fault Refusal :=
  let cls := match err with
    | .bus => ErrClass.bus
    | .poison => ErrClass.poison
  .next (s.putChan ch.val ((s.chan ch.val).failOldest cls write space addr offset))

/-- TRANSACTION_TIMEOUT: 2 µs since its issue at the earliest: class BUS, and the tag goes into quarantine for 64 µs (R332). -/
def execTransactionTimeout (ch : Fin 272) (tag : Nat) (write : Bool) (space addr offset : Nat) (s : State) :
    Host.Outcome State Fault Refusal :=
  .next <|
    if (s.chan ch.val).out.all fun o => decide (s.time < o.since + 2 * usNs) then s
    else
      let s := s.putChan ch.val ((s.chan ch.val).failOldest .bus write space addr offset)
      s.updMem fun m => { m with quarantine := (m.quarantine.filter fun q => q.1 != tag % 65536) ++ [(tag % 65536, s.time + 64 * usNs)] }

/-- LATE_RESPONSE: discarded and counted (R332). -/
def execLateResponse (tag : Nat) (s : State) : Host.Outcome State Fault Refusal :=
  .next (if s.mem.quarantine.any fun q => q.1 == tag then s.bump 0x700020 else s)

/-- TAG_QUARANTINE_END. -/
def execTagQuarantineEnd (tag : Nat) (s : State) : Host.Outcome State Fault Refusal :=
  .next (s.updMem fun m => { m with quarantine := m.quarantine.filter fun q => q.1 != tag || decide (s.time < q.2) })

/-- CH_TIMEOUT: no access and no instruction for DMA_TIMEOUT_MS; waiting on a peg does not count (R340). -/
def execChTimeout (ch : Fin 272) (s : State) : Host.Outcome State Fault Refusal :=
  .next <|
    let k := s.chan ch.val
    if (k.st = .run || (k.st = .wait && k.waitKind ≠ 2)) && k.lastAt + s.dma.timeoutMs * msNs ≤ s.time && s.dmaLive then
      s.chanTimeout ch.val
    else s

/-- Does a control core own the interlock, outside a switch-over gap? -/
def State.controlRuns (s : State) : Bool := s.ctl.owner.isSome && !s.ctl.gap

/-- A write of DMA_CH_CMD (R342; 17, R459): only the interlock's owner acts; the other core's access ends in a bus error
that the interlock counts; any other requester's is ignored. -/
def State.chanCommand (s : State) (by_ : Requester) (i : Nat) (f : State → State) : State :=
  let mine (core : CoreAB) : State :=
    if s.ctl.owner ≠ some core then s.notOwner
    else if !s.dmaLive then s
    else if (s.chan i).st ≠ .halted then s.updChan i fun k => { k with cmdIgnored := true }
    else f s
  match by_ with
  | .controlA => mine .a
  | .controlB => mine .b
  | _ => s

/-- RESUME: the program goes on from the latched offset; a channel without one, which a DPP access halted (06, R147), is IDLE. -/
def execDmaChResume (by_ : Requester) (ch : Fin 272) (s : State) : Host.Outcome State Fault Refusal :=
  .next (s.chanCommand by_ ch.val fun s => s.updChan ch.val fun k =>
    { k with st := if k.count = 0 then .idle else .run, lastAt := s.time })

/-- SKIP: the failed instruction counts as complete. -/
def execDmaChSkip (by_ : Requester) (ch : Fin 272) (s : State) : Host.Outcome State Fault Refusal :=
  .next (s.chanCommand by_ ch.val fun s => s.chanNext ch.val)

/-- ABORT: the program ends; an image's takes its context with it (R343). -/
def execDmaChAbort (by_ : Requester) (ch : Fin 272) (s : State) : Host.Outcome State Fault Refusal :=
  .next (s.chanCommand by_ ch.val fun s =>
    let k := s.chan ch.val
    let s := if k.owned then s.faultCtx k.ctx (if k.cls = .chTimeout then stCtxFault else stMemFault) else s
    (s.updChan ch.val fun j => { j with st := .done, aborted := true, out := [], moving := false, loops := [] }).updDma fun d =>
      { d with eoc := d.eoc.set ch.val true })

/-- MMU_FAULT_RESOLVE (R330, R343): the control core maps the page that was asked for and resumes who asked, a channel
(also one saved on an urgent switch), a core, or, where neither is named, the DPP or TSU, which makes its access anew; an
access that no mapping can serve faults the context. -/
def execMmuFaultResolve (ctx : CtxId) (ch : Option (Fin 272)) (core : Option CoreId) (s : State) :
    Host.Outcome State Fault Refusal :=
  .next <|
    let c := ctx.val
    let waits (k : Chan) : Bool := k.st == .halted && k.cls == .mmuFault && k.ctx == c
    let f := s.mem.faults.get c
    let savedKey := (ch.map fun i => 272 * c + i.val).getD 0
    let live := (ch.map fun i => waits (s.chan i.val)).getD false
    let saved := !live && (ch.map fun _ => waits (s.dma.savedChans.get savedKey)).getD false
    let cores := !live && !saved && s.arr.cur == some c && (core.map fun n => (s.core n.val).stalled).getD false && f.valid
    let unit := ch.isNone && core.isNone && s.arr.cur == some c && f.valid
    if !s.controlRuns || !(live || saved || cores || unit) then s
    else
      let k := if live then s.chan ((ch.map Fin.val).getD 0) else s.dma.savedChans.get savedKey
      let va := if cores || unit then f.va else k.errAddr
      let write := if cores || unit then f.write else k.errWrite
      let resumed (s : State) : State :=
        if live then s.updChan ((ch.map Fin.val).getD 0) fun k => { k with st := .run, lastAt := s.time }
        else if saved then
          s.updDma fun d => { d with savedChans := d.savedChans.upd savedKey fun k => { k with st := .run, lastAt := s.time } }
        else if unit then s
        else s.updCore ((core.map Fin.val).getD 0) fun n => { n with stalled := false }
      if !cores && !unit && k.errSpace ≠ 0x41 then s.faultCtx c stMemFault
      else match s.vaCause c (va / pageBytes) write with
      | none => resumed s
      | some 1 => if s.framesFree = 0 then s.faultCtx c stMemFault else resumed (s.mapPage c (va / pageBytes) true false)
      | some _ => s.faultCtx c stMemFault

/-! ### Rinse -/

/-- What firmware does about an uncorrectable word of HBM (R209, R321, R322, R324). -/
def State.ueOwner (s : State) (addr : Nat) : State :=
  let frame := addr / pageBytes
  let s := match s.frameOwner frame with
    | some (c, v) =>
      if (s.xlatAt c v).weight then
        let (s, st) := s.repair c (some (.weightPage (v * pageBytes)))
        match st with
        | some e => s.faultCtx c e
        | none => s
      else s
    | none => match s.granulePage addr with
      | some p => s.poisonPage (((s.page p).owner).getD 0) p
      | none => s
  s.frameUe frame

/-- An HBM address that no translation entry, page or part of the reserved area covers (R324). -/
def State.hbmUnmapped (s : State) (addr : Nat) : Bool :=
  decide (addr < 0x002F80000000) && (s.frameOwner (addr / pageBytes)).isNone && (s.granulePage addr).isNone

/-- One codeword as Rinse reads it (R318, R324). -/
def State.rinseWord (s : State) (kind addr : Nat) : EccHit → State
  | .clean => s
  | .single => s.eccCount kind addr .single
  | .double => s.eccCount kind addr .double
  | .uncorrectable =>
    let s := s.eccCount kind addr .uncorrectable
    if kind = 0 && s.hbmUnmapped addr then
      s.updMem fun m => (m.setPoison addr false).putAll addr (List.replicate 8 0)
    else
      let keys := (ueWords kind addr).map s.deviceKey
      let s := s.updMem fun m => keys.foldl (fun m k => m.setPoison k true) m
      if kind = 0 then s.ueOwner addr else s
  | .miscorrected =>
    let (d, s) := s.draw
    s.putBytes (s.deviceKey addr) (Config.bytes d 8)

/-- Has background work a slot at an address now: with no step running or in a pause every slot but OPEN and REFRESH is WASH;
inside a step the running image's frames must hold WASH slots, of the address's stack or of the Basket; the grants of port 5 are
not in the image (05, R116, R128, R129; log 136). -/
def State.washOpen (s : State) (kind addr : Nat) : Bool :=
  match s.arr.cur with
  | none => true
  | some c =>
    let g := s.runImage c
    !(s.ctx c).running || s.arr.pauseSince.isSome || (match kind with
      | 0 => imgWash g (addr / 256 % 8)
      | 1 => true
      | _ => (upto 16).any fun b => imgWash g (0x20 + b))

/-- RINSE_UNIT (R323, R324): one unit of 256 bytes is read and its corrected words written back. -/
def execRinseUnit (kind : Fin 4) (addr : Nat) (hits : List EccHit) (s : State) : Host.Outcome State Fault Refusal :=
  .next <|
    let base := addr / 256 * 256
    if !s.mem.rinseOn || s.glb.state = .doze || !kindHas kind.val base || !s.washOpen kind.val base then s
    else
      let s := foldS (upto (min 32 hits.length)) (fun s j => s.rinseWord kind.val (base + 8 * j) (hits.getD j .clean)) s
      s.updMem fun m =>
        let m := { m with washAt := m.washAt.set (if kind.val = 0 then 0 else 1) s.time, rinseBehind := false }
        if kind.val ≠ 0 then m
        else if m.rinsePos + 1 < hbmBytes / 256 then { m with rinsePos := m.rinsePos + 1 }
        else { m with rinsePos := 0, rinsePasses := (m.rinsePasses + 1) % 65536 }

end Sys2Proof.Machine
end

