-- ==== Sys2Proof/Machine/Pegs.lean ====
section
/-!
DEFINITION. Lines, pegs and captures (02): the commands LINE_CONFIG, LINE_POSITION, PEG_ARM and PEG_DISARM, and the
events of the plant.
-/
namespace Sys2Proof.Machine

def pegBase : Nat := 0x300000

/-! ### Firing (R43-R45) -/

/-- Places in a function's peg event queue (15, R404, R549): one always stays unused. -/
def State.peqRoom (s : State) (f : Nat) : Bool :=
  let w := s.func f
  w.peqEnable && decide (w.peq.length + 1 < 2 ^ (w.peqLog + 6))

/-- The 16 bytes of a fire record (R44). -/
def PegRec.toBytes (r : PegRec) : List Byte :=
  [r.peg, BitVec.ofNat 8 (16 * r.line.toNat + 8 * b2n r.past + 4 * b2n r.miss + 2 * b2n r.wake + b2n r.lineOff)] ++
  leBytes 6 r.hwm.toNat ++ leBytes 8 r.time.toNat

/-- Write a fire record to the owner's queue, or drop it and count it in PEG_QOVF; doorbell bit 10 rings (R44, R51). -/
def State.pegRecord (s : State) (f : Nat) (r : PegRec) : State :=
  let s := if s.peqRoom f then
      (s.hostPut f ((s.func f).peqBase.toNat + 16 * (s.func f).peqTail) r.toBytes).updFunc f fun w =>
        { w with peq := w.peq ++ [r], peqTail := (w.peqTail + 1) % 2 ^ (w.peqLog + 6) }
    else s.updPeg fun p => { p with qovf := if p.qovf = 0xFFFFFFFF then p.qovf else p.qovf + 1 }
  s.doorbell f 10

/-- Do the plant outputs follow OUT_CTRL (R53)? -/
def State.outputsLive (s : State) : Bool :=
  match s.glb.state with
  | .init | .recovery | .clockHold => false
  | _ => true

/-- The plant outputs as they stand: HEALTH, SUSPECT, DEADLINE_MISS, USER, true for on (20, R538, R541).  USER follows
OUT_CTRL, but off in CLOCK_HOLD and during start-up (R53). -/
def State.outputs (s : State) : List Bool :=
  [s.board.health, s.board.suspect, s.peg.missOut && s.outputsLive, s.peg.user && s.outputsLive]

/-- What late work does: requests with DROP_LATE are cancelled with a tail of 1, jobs with DROP_LATE are aborted, pictures
become LATE (09, R239; 15, R422; 11, R291). -/
def State.lateWork (s : State) (b : Binding) : State :=
  match b with
  | .request c id =>
    match s.findReq c id with
    | some r => if r.dropLate then s.cancelReq c id 1 true else s
    | none => s
  | .job c id =>
    match (s.ctx c).jobs.find? (·.id = id) with
    | some j => if j.dropLate then s.abortJob c id true false else s
    | none => s
  | .picture k enc tag => s.updSess (sessKey k enc) fun x =>
      { x with subs := x.subs.map fun (q : VidSub) => if q.order = tag then { q with late := true } else q }

/-- A peg with WAKE brings the module out of DOZE (01, R20; 18, R504, R508). -/
def State.pegWake (s : State) : State :=
  if s.glb.state = .doze && !s.pwr.dozeThermal then s.dozeExit
  else if s.glb.state = .doze || s.glb.dozeEntering then s.updGlb fun g => { g with wakePending := true }
  else s

/-- Peg `n` fires (R43-R45, R47); `past` says that its target was reached when it was armed. -/
def State.firePeg (s : State) (past : Bool) (n : Nat) : State :=
  let p := s.pegAt n
  let f := p.armedBy.getD 0
  let s := s.pegFired n
  let miss := !p.bindings.isEmpty
  let s := s.pegRecord f
    { peg := BitVec.ofNat 8 n, line := BitVec.ofNat 4 p.line.val, past, miss, wake := p.wake, lineOff := false
      hwm := (s.line p.line.val).hwm
      time := s.pegTime }
  let s := s.updPeg fun u => { u with fired := u.fired.upd (n / 32) (· ||| (1 <<< (n % 32))) }
  let s := s.updPegAt n fun p => { p with st := if miss then .fired else .free, miss, firedAt := some s.time }
  let s := if miss then
      let s := s.bump (pegBase + 0x30)
      if !p.noMissOut && s.peg.missHold ≠ 0 && s.outputsLive then
        s.updPeg fun u => { u with missOut := true, missEnd := s.time + u.missHold.toNat * msNs }
      else s
    else match p.releasedAt with
      | some t => s.sample 2 ((s.time - t) / msNs)
      | none => s
  let s := foldS p.bindings State.lateWork s
  if p.wake then s.pegWake else s

/-- Pegs of line `l` that are due: ascending target, ties in ascending number (R35, R43). -/
def State.duePegs (s : State) (l : Nat) : List Nat :=
  let h := (s.line l).hwm
  let due := (upto 256).filter fun n =>
    let p := s.pegAt n
    p.st == .armed && p.line.val == l && decide (posDiff p.target h ≤ 0)
  sortBy (fun n => (posDiff (s.pegAt n).target h + 2 ^ 48).toNat * 256 + n) due

def State.fireLine (s : State) (l : Nat) : State := foldS (s.duePegs l) (State.firePeg · false ·) s

/-- The position of line `l` moves to `q` by a count or a LINE_POSITION (R30, R32, R33, R35, R37, R38). -/
def State.moveLine (s : State) (l : Nat) (q : Pos) : State :=
  let s := s.updLine l fun x =>
    { x with
      pos := q
      reverse := x.reverse || (decide (0 ≤ posDiff x.pos x.hwm) && decide (posDiff q x.hwm < 0))
      hwm := if 0 < posDiff q x.hwm then q else x.hwm
      window := ((s.time, q) :: if x.stopped then [] else x.window).take 1024
      lastEvent := s.time
      stopped := false }
  s.fireLine l

/-- BEHIND (R33). -/
def Line.behind (x : Line) : Bool := decide (posDiff x.pos x.hwm < 0)

/-- LINE_STATUS[n] (02, R56). -/
def Line.status (l : Line) : Nat :=
  2 ^ 31 * b2n l.reverse + 2 ^ 30 * b2n l.behind + 2 ^ 29 * b2n l.stopped + 2 ^ 28 * b2n l.overspeed +
  2 ^ 27 * b2n l.encErr + 2 ^ 26 * b2n l.indexSeen + l.errCnt.toNat

/-- Pegs of the context of function `f` that are not FREE. -/
def State.pegsOf (s : State) (f : Nat) : Nat :=
  ((upto 256).filter fun n => (s.pegAt n).st != .free && (s.pegAt n).armedBy == some f).length

/-- A peg is freed without a fire: its work loses the deadline, a DMA WAIT on it halts (R47, R52). -/
def State.freePeg (s : State) (n : Nat) : State :=
  (s.updPegAt n fun p => { p with st := .free, bindings := [], releasedAt := none }).pegGone n

/-- A line leaves from under a peg (R51): a LINE_OFF record and a doorbell.  A WAITING peg that its trigger takes to a disabled
line stands on that line already, and its record names it and its HWM (DESIGN CHOICE, log 128). -/
def State.lineOffPeg (s : State) (n : Nat) : State :=
  let p := s.pegAt n
  let s := s.pegRecord (p.armedBy.getD 0)
    { peg := BitVec.ofNat 8 n, line := BitVec.ofNat 4 p.line.val, past := false, miss := false, wake := p.wake, lineOff := true
      hwm := (s.line p.line.val).hwm, time := s.pegTime }
  s.freePeg n

/-- Pegs on a line in any state but FREE, in ascending number, the order in which a line that goes off frees them (DESIGN
CHOICE, log 128); a WAITING peg lies on the line its trigger captures (R42). -/
def State.pegsOn (s : State) (l : Nat) : List Nat :=
  (upto 256).filter fun n => (s.pegAt n).st != .free && (s.pegAt n).line.val == l

/-! ### Commands (R48-R52) -/

def isPhysical (l : Nat) : Bool := decide (l < 8)

/-- LINE_CONFIG of a line (R49-R51). -/
def execLineConfigLine (c : Cmd) (s : State) : Host.Outcome State Fault Refusal :=
  .next <| s.subRow c 0x40 (fun c => decide ((c.byte 16).toNat < 0x10) || decide (0x13 < (c.byte 16).toNat)) [] fun s =>
    let l := (c.byte 16).toNat
    let phys := isPhysical l
    let used := if phys then [(16, 18), (20, 29)] else [(16, 29)]
    let owner := (c.byte 19).toNat
    params s c used
      [(decide (0x13 < l), 16), ((c.byte 17).toNat > 15, 17),
       (!phys && decide (0xF < owner) && owner != 0x1F, 19)] <|
    let ln := s.line l
    let enable := (c.byte 17).getLsbD 0
    let preset := (c.byte 17).getLsbD 3
    let at_ : Pos := BitVec.ofNat 48 (c.le 24 6)
    let s := s.updLine l fun x =>
      { x with
        enable
        invert := (c.byte 17).getLsbD 1
        indexLatch := (c.byte 17).getLsbD 2
        filter := c.byte 18
        owner := if phys then x.owner else BitVec.ofNat 5 owner
        scale := BitVec.ofNat 32 (c.le 20 4) }
    -- ENABLE cleared: the line's pegs are freed
    let s := if ln.enable && !enable then
        (foldS (s.pegsOn l) State.lineOffPeg s).updLine l fun x => { x with stopped := true, vel := 0 }
      else s
    let s := if !ln.enable && enable then s.updLine l fun x =>
        { x with pos := if preset then at_ else 0, hwm := if preset then at_ else 0, stopped := true, vel := 0
                 window := [], lastEvent := s.time }
      else if preset then s.updLine l fun x => { x with pos := at_, hwm := at_, window := [], vel := 0 }
      else s
    let s := if preset && enable then s.fireLine l else s
    .reply s (.of stOk)

/-- LINE_CONFIG of a trigger (R40, R49, R51). -/
def execLineConfigTrigger (c : Cmd) (s : State) : Host.Outcome State Fault Refusal :=
  .next <| s.subRow c 0x40 (fun c => decide (0x10 ≤ (c.byte 16).toNat) && decide ((c.byte 16).toNat ≤ 0x13)) [] fun s =>
    let m := (c.byte 16).toNat - 0x10
    let line := (c.byte 18).toNat
    params s c [(16, 18), (20, 21)]
      [((c.byte 17).toNat > 3, 17), (decide (15 < line), 18), (c.le 20 2 == 0, 20)] <|
    let l : Fin 16 := Fin.ofNat 16 line
    let old := (s.peg.trigs.get m).line
    let s := s.updPeg fun p => { p with trigs := p.trigs.upd m fun t =>
      { t with enable := (c.byte 17).getLsbD 0, falling := (c.byte 17).getLsbD 1, line := l
               filter := BitVec.ofNat 16 (c.le 20 2) } }
    if old = l then .reply s (.of stOk)
    else
      -- WAITING pegs of the trigger move to its new line, or are freed if that line is disabled
      let ws := (upto 256).filter fun n => (s.pegAt n).st == .waiting && ((s.pegAt n).trigger.map Fin.val) == some m
      let s := foldS ws (fun s n => s.updPegAt n fun p => { p with line := l }) s
      let s := if (s.line line).enable then s else foldS ws State.lineOffPeg s
      .reply s (.of stOk)

/-- LINE_POSITION (R35, R48): the sender is checked before the reserved bytes (15, R412). -/
def execLinePosition (c : Cmd) (s : State) : Host.Outcome State Fault Refusal :=
  .next <| s.row c 0x41 [] fun s =>
    let l := (c.byte 16).toNat
    let ln := s.line l
    let sender := if c.fn.val = 0 then 0x1F else c.fn.val - 1
    if l ≤ 15 && !isPhysical l && ln.owner.toNat != sender then .reply s (.of stDenied)
    else
    params s c [(16, 16), (24, 29)] [(decide (15 < l) || isPhysical l, 16)] <|
    if !ln.enable then .reply s (.bad 16)
    else .reply (s.moveLine l (BitVec.ofNat 48 (c.le 24 6))) (.of stOk)

/-- PEG_ARM (R42, R43, R48, R49).  With CAPTURE clear byte 18 names nothing and is held to 0 (DEDUCED, log 128). -/
def execPegArm (c : Cmd) (s : State) : Host.Outcome State Fault Refusal :=
  .next <| s.row c 0x42 [] fun s =>
    let l := (c.byte 16).toNat
    let flags := c.byte 17
    let capture := flags.getLsbD 0
    let wake := flags.getLsbD 1
    let trig := (c.byte 18).toNat
    let value : Pos := BitVec.ofNat 48 (c.le 24 6)
    if wake && c.fn.val ≠ 0 then .reply s (.of stDenied)
    else
    params s c (if capture then [(16, 18), (24, 29)] else [(16, 17), (24, 29)])
      [(decide (15 < l) || !(s.line l).enable, 16),
       (capture && decide (trig < 4) && decide (l ≤ 15) && (s.peg.trigs.get trig).line.val != l, 16),
       (decide (7 < flags.toNat), 17),
       (capture && decide (3 < trig), 18),
       (!capture && decide ((2 : Int) ^ 46 - 1 < posDiff value (s.line l).hwm), 24),
       (capture && (decide (value.toInt < 0) || decide ((2 : Int) ^ 46 - 1 < value.toInt)), 24)] <|
    if c.fn.val ≠ 0 && decide (64 ≤ s.pegsOf c.fn.val) then .reply s (.of stNoRes)
    else match (upto 256).find? fun n => (s.pegAt n).st == .free with
    | none => .reply s (.of stNoRes)
    | some n =>
      let s := s.updPeg fun u => { u with armSeq := u.armSeq + 1 }
      let s := s.updPegAt n fun _ =>
        { st := if capture then .waiting else .armed, armedBy := some c.fn.val, line := Fin.ofNat 16 l
          trigger := if capture then some (Fin.ofNat 4 trig) else none, target := value, wake
          noMissOut := flags.getLsbD 2, order := s.peg.armSeq }
      let s := if !capture && decide (posDiff value (s.line l).hwm ≤ 0) then s.firePeg true n else s
      .reply s (.ok [BitVec.ofNat 8 n])

/-- PEG_DISARM (R48, R52): one latched in the ns in which its peg fired meets that fire, which stands (log 129). -/
def execPegDisarm (c : Cmd) (s : State) : Host.Outcome State Fault Refusal :=
  .next <| s.row c 0x43 [] fun s =>
    params s c [(16, 16)] [] <|
    let n := (c.byte 16).toNat
    let p := s.pegAt n
    if p.st = .free then .reply s (.of (if p.armedBy = some c.fn.val then stAlready else stNotBound))
    else if p.armedBy ≠ some c.fn.val then .reply s (.of stDenied)
    else .reply (s.freePeg n) (.of (if p.firedAt = some s.time then stAlready else stOk))

/-! ### Events of the plant -/

/-- Is the Peg unit running: valid from stage RELOAD, in every later state (R36, R53)? -/
def State.pegLive (s : State) : Bool := s.board.powered && decide (4 ≤ s.glb.stage)

/-- ENCODER_TRANSITION (R30-R33).  Transitions less than 100 ns apart, and `tooFast`, which says that transitions came that
the unit could not resolve, set OVERSPEED. -/
def execEncoderTransition (line : Fin 8) (kind : Enc) (tooFast : Bool) (s : State) : Host.Outcome State Fault Refusal :=
  let l := line.val
  let x := s.line l
  if !s.pegLive || !x.enable then .next s
  else
    let near := match x.lastTrans with
      | some t => decide (s.time < t + 100)
      | none => false
    let s := s.updLine l fun x => { x with overspeed := x.overspeed || tooFast || near, lastTrans := some s.time }
    match kind with
    | .both => .next (s.updLine l fun x =>
        { x with encErr := true, errCnt := if x.errCnt = 0xFFFF then x.errCnt else x.errCnt + 1 })
    | .up => .next (s.moveLine l (if x.invert then x.pos - 1 else x.pos + 1))
    | .down => .next (s.moveLine l (if x.invert then x.pos + 1 else x.pos - 1))

/-- INDEX_PULSE (R34). -/
def execIndexPulse (line : Fin 8) (s : State) : Host.Outcome State Fault Refusal :=
  let x := s.line line.val
  if s.pegLive && x.enable && x.indexLatch then
    .next (s.updLine line.val fun x => { x with idx := x.pos, indexSeen := true })
  else .next s

/-- TRIGGER_EDGE (R40, R42, R43): an edge of the trigger's active kind that has passed its filter. -/
def execTriggerEdge (trigger : Fin 4) (rising : Bool) (s : State) : Host.Outcome State Fault Refusal :=
  let m := trigger.val
  let t := s.peg.trigs.get m
  let l := t.line.val
  if !s.pegLive || !t.enable || rising == t.falling || !(s.line l).enable then .next s
  else
    let pos := (s.line l).pos
    let s := s.updPeg fun p => { p with trigs := p.trigs.upd m fun t =>
      { t with capPos := pos, capTime := s.pegTime, seq := t.seq + 1
               history := ({ seq := t.seq + 1, pos, time := s.pegTime } :: t.history).take 64 } }
    let ws := (upto 256).filter fun n => (s.pegAt n).st == .waiting && (s.pegAt n).trigger == some trigger
    match sortBy (fun n => (s.pegAt n).order) ws with
    | [] => .next s
    | n :: _ =>
      let s := s.updPegAt n fun p => { p with st := .armed, target := pos + p.target, line := t.line }
      if posDiff (s.pegAt n).target (s.line l).hwm ≤ 0 then .next (s.firePeg true n) else .next s

/-- LINE_STOPPED: no count and no LINE_POSITION for 1 s (R38). -/
def execLineStopped (line : Fin 16) (s : State) : Host.Outcome State Fault Refusal :=
  let x := s.line line.val
  if s.pegLive && x.enable && !x.stopped && decide (x.lastEvent + secNs ≤ s.time) then
    .next (s.updLine line.val fun x => { x with stopped := true, vel := 0 })
  else .next s

/-- Velocity of a line (R37): LU per ms, Q16.16, truncated toward zero, clamped to 32 bits; `open_` stands for the quotient
of a window in which no time has passed, which the spec does not state. -/
def lineVel (x : Line) (now : Nat) (open_ : Word) : Word :=
  match x.window.getLast? with
  | none => 0
  | some (t, p) =>
    if x.window.length < 2 || x.stopped || !x.enable then 0
    else if now ≤ t then open_
    else
      let q := (posDiff x.pos p * 65536 * 1000000).tdiv ((now - t : Nat) : Int)
      if (2 : Int) ^ 31 - 1 < q then 0x7FFFFFFF
      else if q < -(2 : Int) ^ 31 then 0x80000000
      else BitVec.ofInt 32 q

/-- VELOCITY_UPDATE: every 10 µs, every line. -/
def execVelocityUpdate (s : State) : Host.Outcome State Fault Refusal :=
  if !s.pegLive then .next s
  else
    let (k, s) := s.draw
    let v := BitVec.ofNat 32 (Config.value k)
    .next (foldS (upto 16) (fun s l => s.updLine l fun x => { x with vel := lineVel x s.time v }) s)

/-- MISS_HOLD_EXPIRY (R45). -/
def execMissHoldExpiry (s : State) : Host.Outcome State Fault Refusal :=
  if s.peg.missOut && decide (s.peg.missEnd ≤ s.time) then .next (s.updPeg fun p => { p with missOut := false }) else .next s

end Sys2Proof.Machine
end

