-- ==== Sys2Proof/Machine/Host.lean ====
section
/-!
DEFINITION. The host interface (15; 14, R390, R391, R395): NOP, NEGOTIATE, IDENTIFY, ring and queue registers, doorbells,
command timeouts, function-level resets and the PCIe link.
-/
namespace Sys2Proof.Machine

def cmdBase : Nat := 0x500000

/-! ### NOP, NEGOTIATE, IDENTIFY (R415, R417, R418) -/

/-- NOP. -/
def execNop (c : Cmd) (s : State) : Host.Outcome State Fault Refusal :=
  .next <| s.row c 0x00 [] fun s => params s c [] [] <| .reply s (.of stOk)

/-- Minimum minors of the features, bit 0 up (R417). -/
def featureMinors : List Nat := [0, 0, 1, 1, 2, 3]

/-- The requested features a minor grants. -/
def grantedFeatures (asked minor : Nat) : Nat :=
  ((upto 6).map fun k => if asked.testBit k && decide (featureMinors.getD k 0 ≤ minor) then 2 ^ k else 0).foldl (· + ·) 0

/-- NEGOTIATE; versions that do not meet, and a command outstanding, are answered by the checks before this one. -/
def execNegotiate (c : Cmd) (s : State) : Host.Outcome State Fault Refusal :=
  .next <| s.row c 0x01 [] fun s => params s c [(16, 17), (24, 31)] [] <|
    let minor := min (c.byte 17).toNat 3
    let feats := grantedFeatures (c.le 24 8) minor
    .reply (s.updFunc c.fn.val fun f => { f with minor, features := feats })
      (.ok ([BitVec.ofNat 8 minor, 0, 0, 0, 0, 0, 0, 0] ++ leBytes 8 feats))

/-- Version of the firmware that runs on the core that holds the interlock. -/
def State.fwVersion (s : State) : Nat :=
  match s.ctl.owner with
  | some .a => (s.ctl.cores.get 0).fwVer.toNat
  | some .b => (s.ctl.cores.get 1).fwVer.toNat
  | none => 0

/-- IDENTIFY. -/
def execIdentify (c : Cmd) (s : State) : Host.Outcome State Fault Refusal :=
  .next <| s.row c 0x02 [] fun s => params s c [] [] <|
    .reply s (.ok ([0xA1, BitVec.ofNat 8 (b2n Config.marine), 0x03, 0x02, 0x04, 0x05, 0, 0] ++ leBytes 4 s.fwVersion ++
      leBytes 4 s.sec.rtpVer.toNat ++ leBytes 8 s.sec.moduleId.toNat))

/-- UNDEFINED_OPCODE: a code R415 does not list; its BAD_OPCODE is one of the checks of R412. -/
def execUndefinedOpcode (c : Cmd) (s : State) : Host.Outcome State Fault Refusal :=
  .next <| if opcodeDefined c.opcode then s else s.command c [] fun s => .reply s (.of stBadOpcode)

/-! ### Ring and queue registers (R404-R410, R548) -/

/-- Are the window registers of function `f` valid and reachable (R399, R404)? -/
def State.windowUp (s : State) (f : Nat) : Bool :=
  s.board.powered && s.host.linkUp && !s.shut f && (if f = 0 then decide (3 ≤ s.glb.stage) else s.glb.readyReached && s.host.vfEnable)

/-- A fetch ends in a PCIe error if there is anything to fetch (R410). -/
def State.fetchFails (s : State) (f n : Nat) : State :=
  let r := s.ring f n
  if r.enable && r.sqHead ≠ r.sqTail then
    (s.updRing f n fun r => { r with enable := false, fetchErr := true }).doorbell f 24
  else s

/-- How the transfers that follow end. -/
def State.pcieEnds (s : State) (f n : Nat) : Pcie → State
  | .good => s
  | .fetchError => s.fetchFails f n
  | .writeError => s.updRing f n fun r => { r with writeFails := true }

/-- SQ_TAIL_WRITE. -/
def execSqTailWrite (fn : Fn) (ring : Fin 8) (value : Word) (pcie : Pcie) (s : State) : Host.Outcome State Fault Refusal :=
  let f := fn.val
  let n := ring.val
  .next <|
    if !s.windowUp f then s.turnAway f
    else if ringEntries (s.ring f n).sqSize ≤ value.toNat then s.updRing f n fun r => { r with tailErr := true }
    else (s.updRing f n fun r => { r with sqTail := value.toNat }).pcieEnds f n pcie

/-- CQ_HEAD_WRITE: entries up to the new head are consumed. -/
def execCqHeadWrite (fn : Fn) (ring : Fin 8) (value : Word) (s : State) : Host.Outcome State Fault Refusal :=
  let f := fn.val
  let n := ring.val
  let v := value.toNat
  .next <|
    if !s.windowUp f then s.turnAway f
    else if ringEntries (s.ring f n).cqSize ≤ v then s
    else s.updRing f n fun r =>
      { r with cqHead := v, cq := r.cq.drop ((v + ringEntries r.cqSize - r.cqHead) % ringEntries r.cqSize) }

/-- Write the completions whose write had failed, oldest first (R410). -/
def State.rewrite (s : State) (f n : Nat) : State :=
  let l := (s.ring f n).unwritten
  foldS l (fun s e => s.writeEntry f n e.1 e.2) (s.updRing f n fun r => { r with unwritten := [] })

/-- RING_ENABLE_WRITE: a write of RING_CTRL (R406). -/
def execRingEnableWrite (fn : Fn) (ring : Fin 8) (value : Word) (pcie : Pcie) (s : State) :
    Host.Outcome State Fault Refusal :=
  let f := fn.val
  let n := ring.val
  .next <|
    if !s.windowUp f then s.turnAway f
    else
      let on := value.getLsbD 31
      let s := s.updRing f n fun r =>
        { r with enable := on
                 writeFails := if on then pcie == .writeError else r.writeFails
                 fetchErr := r.fetchErr && !value.getLsbD 29
                 writeErr := r.writeErr && !value.getLsbD 28
                 tailErr := r.tailErr && !value.getLsbD 27 }
      if !on then s
      else
        let s := s.rewrite f n
        if pcie = .fetchError then s.fetchFails f n else s

/-- A 64-bit register with one half written. -/
def setHalf (v : BitVec 64) (hi : Bool) (w : Word) : BitVec 64 :=
  if hi then w ++ v.extractLsb' 0 32 else v.extractLsb' 32 32 ++ w

/-- The pair begins anew with its base and size registers as written (R407). -/
def Ring.restart (r : Ring) : Ring :=
  { r with sqHead := 0, sqTail := 0, cqHead := 0, cqTail := 0, cq := [], kept := [], expected := none }

/-- The ring with base or size register `reg` written: SQ_BASE _LO, _HI, SQ_SIZE, CQ_BASE _LO, _HI, CQ_SIZE; none where
R405 or R548 ignores the value. -/
def Ring.setReg (r : Ring) (reg : Nat) (w : Word) : Option Ring :=
  let lowOk := w.extractLsb' 0 12 == 0
  let log := w.toNat % 16
  match reg with
  | 0 => if lowOk then some { r with sqBase := setHalf r.sqBase false w } else none
  | 1 => some { r with sqBase := setHalf r.sqBase true w }
  | 2 => if log ≤ 12 then some { r with sqSize := log } else none
  | 3 => if lowOk then some { r with cqBase := setHalf r.cqBase false w } else none
  | 4 => some { r with cqBase := setHalf r.cqBase true w }
  | _ => if log ≤ 12 then some { r with cqSize := log } else none

/-- RING_RECONFIGURE: accepted only while ENABLE is 0 and IDLE is 1 (R407). -/
def execRingReconfigure (fn : Fn) (ring : Fin 8) (reg : Fin 6) (value : Word) (s : State) :
    Host.Outcome State Fault Refusal :=
  let f := fn.val
  let n := ring.val
  .next <|
    if !s.windowUp f then s.turnAway f
    else if (s.ring f n).enable || s.inflightOn f n ≠ 0 then s
    else match (s.ring f n).setReg reg.val value with
    | some r => s.updRing f n fun _ => r.restart
    | none => s

/-- The records of a token batch ring that remain once `n` bytes of them are consumed. -/
def dropRecs : Nat → List TbRec → List TbRec
  | _, [] => []
  | n, r :: rs => if r.len ≤ n && n ≠ 0 then dropRecs (n - r.len) rs else r :: rs

/-- TB_HEAD_WRITE: room for waiting records (09, R245). -/
def execTbHeadWrite (fn : Fn) (value : Word) (s : State) : Host.Outcome State Fault Refusal :=
  let f := fn.val
  let c := f - 1
  let v := value.toNat
  .next <|
    if !s.windowUp f then s.turnAway f
    else if f = 0 || v % 64 ≠ 0 || s.tbSize c ≤ v then s
    else
      let h := (s.func f).tbHead
      let s := s.updCtx c fun x =>
        { x with tbRing := dropRecs ((v + s.tbSize c - h) % s.tbSize c) x.tbRing, tbStall := if v = h then x.tbStall else s.time }
      (s.updFunc f fun w => { w with tbHead := v }).tbDrain c

/-- VEQ_HEAD_WRITE: room for kept records (11, R293), which an exit from DOZE writes. -/
def execVeqHeadWrite (fn : Fn) (value : Word) (s : State) : Host.Outcome State Fault Refusal :=
  let f := fn.val
  let v := value.toNat
  .next <|
    if !s.windowUp f then s.turnAway f
    else if 2 ^ ((s.func f).veqLog + 6) ≤ v then s
    else
      let n := 2 ^ ((s.func f).veqLog + 6)
      let s := s.updFunc f fun w => { w with veqHead := v, veq := w.veq.drop ((v + n - w.veqHead) % n) }
      if s.glb.state = .doze || f = 0 then s else s.veqDrain (f - 1)

/-! ### Doorbells (R401, R402) -/

/-- DB_MASK_WRITE. -/
def execDbMaskWrite (fn : Fn) (value : Word) (s : State) : Host.Outcome State Fault Refusal :=
  let f := fn.val
  .next <|
    if !s.windowUp f then s.turnAway f
    else
      let w := s.func f
      (s.updFunc f fun w => { w with dbMask := value }).sendPending f (w.dbPend &&& w.dbMask &&& ~~~value &&& ~~~w.msixMask)

/-- MSIX_UNMASK. -/
def execMsixUnmask (fn : Fn) (vector : Fin 32) (s : State) : Host.Outcome State Fault Refusal :=
  let f := fn.val
  let b : Word := 1 <<< vector.val
  .next <|
    if !s.windowUp f then s.turnAway f
    else
      let w := s.func f
      (s.updFunc f fun w => { w with msixMask := w.msixMask &&& ~~~b }).sendPending f
        (w.dbPend &&& w.msixMask &&& b &&& ~~~w.dbMask)

/-- UNSUPPORTED_ACCESS (00, R7): discarded and reported; a read so discarded returns all ones. -/
def execUnsupportedAccess (_fn : Fn) (off width : Nat) (isRead : Bool) (s : State) : Host.Outcome State Fault Refusal :=
  .next <|
    if (width = 4 || width = 8) && off % width = 0 then s
    else
      let s := s.updHost fun h => { h with unsupported := h.unsupported + 1 }
      if isRead then s.answer (2 ^ (8 * min width 8) - 1) else s

/-! ### Resets (R429) -/

/-- The window registers and rings of function `f` return to their reset values; MCTP ring 8 of PF0 is no part of them. -/
def State.resetWindow (s : State) (f : Nat) : State :=
  let s := s.updHost fun h =>
    { h with funcs := h.funcs.set f {}
             rings := h.rings.filter fun e => e.1 < ringKey f 0 || ringKey f 8 ≤ e.1 }
  if f = 0 then s else s.updCtx (f - 1) fun x => { x with tbRing := [] }

/-- Commands in flight whose rings are gone: done, without a completion entry (R414, R429). -/
def State.dropInflight (s : State) (p : Inflight → Bool) : State :=
  let l := s.host.inflight.filter p
  foldS l (fun s i => s.consAdd (cid 0x41 i.fn) 1) (s.updHost fun h => { h with inflight := h.inflight.filter fun i => !p i })

/-- FLR of a VF. -/
def execFlrVf (ctx : CtxId) (s : State) : Host.Outcome State Fault Refusal :=
  let c := ctx.val
  .next <|
    if !s.board.powered then s
    else
      let s := (s.dropInflight fun i => i.fn == c + 1).resetWindow (c + 1)
      match (s.ctx c).st with
      | .free | .opening | .resetting => s
      | _ => ((s.resetCtx c).checkDrained).checkQuiesced

/-- FLR of PF0: every window resets, nothing in flight on a ring completes, and every open context is closed. -/
def State.resetHost (s : State) : State :=
  let s := s.dropInflight fun i => i.ring != 8
  let s := foldS (upto 17) (fun s f => s.resetWindow f) s
  let s := s.updHost fun h => { h with vfEnable := false }
  let s := foldS allCtxs (fun s c => if (s.ctx c).st = .free then s else s.closeCtx c) s
  (s.checkDrained).checkQuiesced

/-- FLR_PF0: an FLR of PF0, or VF Enable cleared. -/
def execFlrPf0 (_vfEnableCleared : Bool) (s : State) : Host.Outcome State Fault Refusal :=
  .next <| if s.board.powered then s.resetHost else s

/-- LINK_LOSS: hot reset, or link down without PERST#. -/
def execLinkLoss (s : State) : Host.Outcome State Fault Refusal :=
  .next <|
    if !s.board.powered || !s.host.linkUp then s
    else
      let s := s.resetHost
      (s.updHost fun h => { h with linkUp := false, flit := false, speed := 0, width := 0, linkLossEvt := true }).lifetime
        0x0071 []

/-- PCIE_LINK_UP: 64 GT/s in FLIT mode, 32 and 16 GT/s without (R398, R433); during and after stage CORE_A's training. -/
def execPcieLinkUp (speed width : Nat) (s : State) : Host.Outcome State Fault Refusal :=
  .next <|
    if !s.board.powered || s.board.perst || s.glb.stage < 2 || s.host.linkUp || !(4 ≤ speed && speed ≤ 6) ||
        !(width = 4 || width = 8 || width = 16) then s
    else s.updHost fun h => { h with linkUp := true, flit := speed == 6, speed, width }

/-- CONFIG_REQUEST (01, R24): Retry Status until CORE_A is complete; a write may set or clear VF Enable on PF0. -/
def execConfigRequest (fn : Fn) (vfEnable : Option Bool) (s : State) : Host.Outcome State Fault Refusal :=
  .next <|
    if !s.board.powered || !s.host.linkUp then s
    else if s.glb.stage < 3 then s.updHost fun h => { h with cfgRetry := true }
    else
      let s := s.updHost fun h => { h with cfgRetry := false }
      if fn.val ≠ 0 then s
      else match vfEnable with
      | none => s
      | some true => s.updHost fun h => { h with vfEnable := true }
      | some false => if s.host.vfEnable then s.resetHost else s

/-! ### Command timeout (R428) -/

/-- What a command that is abandoned has begun is taken back, so far as it can be (log 21). -/
def State.abandon (s : State) : WaitFor → State
  | .ctxReset _ => s
  | .ctxClose c => s.updCtx c fun x => { x with closing := false }
  | .patchReady k => s.updTsu fun t => { t with patches := t.patches.set k {} }
  -- the slot stays RETIRING (10, R268)
  | .patchFree _ => s
  | .job c id => s.abortJob c id false true
  | .jobAbort c id => s.updCtx c fun x =>
      { x with jobs := x.jobs.map fun (j : Job) => if j.id = id && !j.late && !j.silent then { j with aborting := false } else j }
  | .vidClose _ _ => s
  | .attest => s
  | .keyGen c => s.updSec fun x => { x with keys := x.keys.upd c fun k =>
      if k.pendingGen then { k with pendingGen := false, rotating := false } else k }
  | .quiesced => s.updGlb fun g => { g with state := if g.state = .quiesced then .ready else g.state }
  | .dozed => if s.pwr.dozeThermal then s else s.updGlb fun g => { g with dozeEntering := false, wakePending := false }
  | .awake => s.updGlb fun g => { g with wakePending := false }
  | .sponsor _ _ _ _ => s
  | .drained | .fwStage | .liveTaken | .snapshot _ _ _ => s

/-- Commands without a timeout: DRAIN, FW_STAGE and FW_ACTIVATE. -/
def WaitFor.untimed : WaitFor → Bool
  | .drained | .fwStage | .liveTaken => true
  | _ => false

/-- COMMAND_TIMEOUT. -/
def execCommandTimeout (fn : Fn) (ring : Fin 9) (seq : Word) (s : State) : Host.Outcome State Fault Refusal :=
  .next <|
    match s.host.inflight.find? fun i => i.fn == fn.val && i.ring == ring.val && i.seq == seq with
    | none => s
    | some i =>
      if i.wait.untimed || s.time < i.since + s.host.timeoutS * secNs then s
      else
        let s := s.complete i (.of stTimeout)
        s.abandon i.wait

/-- RTP_LATE (14, R395): ATTEST without an answer for 500 ms. -/
def execRtpLate (s : State) : Host.Outcome State Fault Refusal :=
  let late := s.host.inflight.filter fun i => i.wait == .attest && decide (i.since + 500 * msNs ≤ s.time)
  .next <|
    if late.isEmpty then s
    else
      let s := foldS late (fun s i => (s.complete i (.of stTimeout)).lifetime 0x0070 []) s
      s.updSec fun x => { x with rtpLate := true }

/-! ### IDE and DOE (14, R390, R391; 15, R399) -/

/-- DOE_REQUEST: IDE_KM puts the stream of a function into the secure state, or takes it out; below 64 GT/s no stream is
secure. -/
def execDoeRequest (fn : Fn) (secure : Bool) (s : State) : Host.Outcome State Fault Refusal :=
  .next <|
    if !s.board.powered || !s.host.linkUp || s.glb.stage < 3 then s
    else
      let b : BitVec 17 := 1 <<< fn.val
      let s := s.updHost fun h => { h with mctpAnswered := h.mctpAnswered + 1 }
      s.updSec fun x =>
        { x with ideSecure := if secure && s.host.flit then x.ideSecure ||| b
                              else if secure then x.ideSecure else x.ideSecure &&& ~~~b }

/-- IDE_INTEGRITY_FAIL. -/
def execIdeIntegrityFail (fn : Fn) (s : State) : Host.Outcome State Fault Refusal :=
  let b : BitVec 17 := 1 <<< fn.val
  .next <|
    if (s.sec.ideSecure &&& b) = 0 then s
    else (s.updSec fun x => { x with ideSecure := x.ideSecure &&& ~~~b, ideFail := x.ideFail ||| b }).doorbell 0 16

/-- TLP_OUTSIDE_STREAM: discarded and reported where ENFORCE is set. -/
def execTlpOutsideStream (fn : Fn) (s : State) : Host.Outcome State Fault Refusal :=
  .next <|
    if (s.sec.ideCtrl &&& (1 <<< fn.val)) = 0 then s
    else s.updHost fun h => { h with unsupported := h.unsupported + 1 }

end Sys2Proof.Machine
end

