-- ==== Sys2Proof/Machine/Security.lean ====
section
/-!
DEFINITION. Reports, key rotation, the re-encryption pass and device sets (14, R376-R395).
-/
namespace Sys2Proof.Machine

/-! ### SEC_STATUS (R397) -/

/-- Codes of the module states (01, R19). -/
def ModState.code : ModState → Nat
  | .init => 0
  | .recovery => 1
  | .ready => 2
  | .quiesced => 3
  | .draining => 4
  | .suspect => 5
  | .clockHold => 6
  | .doze => 7

/-- Staged firmware that keeps UPDATE_IN_PROGRESS set (R394 'Attestation during a firmware update'): a verified image, until
both cores run it or the next start has taken it. -/
def State.updating (s : State) : Bool :=
  s.ctl.staging == .valid || s.ctl.staging == .pending || s.ctl.phase == .soakStandby || s.ctl.phase == .soakActive ||
  s.ctl.phase == .awaitStart
/-- A switch-over has begun and the incoming core has not taken the interlock (R394 'Attestation during a handover'). -/
def State.handingOver (s : State) : Bool := s.ctl.gap
/-- Bits 31-29 of SEC_STATUS. -/
def State.secTop (s : State) : Nat :=
  4 * b2n s.updating + 2 * b2n s.handingOver + b2n s.sec.set_.isSome
/-- SEC_STATUS. -/
def State.secStatus (s : State) : Nat :=
  s.secTop * 2 ^ 29 + b2n s.sec.rtpLate * 2 ^ 28 +
    (allCtxs.map fun c => b2n (s.sec.keys.get c).rotating * 2 ^ c).foldl (· + ·) 0

/-! ### ATTEST (R391-R395) -/

/-- A log entry in its 64 bytes (R393). -/
def LogEntry.toBytes (e : LogEntry) : List Byte :=
  [BitVec.ofNat 8 e.kind, 0] ++ leBytes 2 e.handle ++ leBytes 4 e.version ++ leBytes 8 e.id ++ (e.digest ++ List.replicate 48 0).take 48
/-- Order of the entries in the log digest: type, handle, version. -/
def LogEntry.key (e : LogEntry) : Nat := (e.kind * 2 ^ 16 + e.handle) * 2 ^ 32 + e.version
/-- The digest of a context's log. -/
def logDigest (l : List LogEntry) : List Byte := sha384 ((sortBy LogEntry.key l).flatMap LogEntry.toBytes)

/-- The settings record as numbers, and its digest: the record's layout is not in the spec (17, R485). -/
def Settings.numbers (g : Settings) : List Nat :=
  [g.cap, g.up, g.down, g.orphanCap, g.warnCap, g.inletMax, g.tThrottle, b2n (g.preferred == .b), g.takebackMin,
   b2n g.orphanAtStart, g.fmt.toNat]
def digestBytes (d : BitVec 384) : List Byte := leBytes 48 d.toNat
/-- 48 zero bytes: an absent object. -/
def absent : List Byte := List.replicate 48 0

/-- The control core's digest at index `n`. -/
def State.coreDigest (s : State) (k : CoreAB) : List Byte := digestBytes (s.ctl.cores.get (if k = .a then 0 else 1)).digest
/-- Is a core running an image? -/
def CtlCore.runs (k : CtlCore) : Bool := k.health == .standbyOk || k.health == .standbyFail || k.health == .active
/-- Block 0x04: a staged image that has been verified, else the standby's image; in a gap the standby is the core that is
not outgoing. -/
def State.otherFirmware (s : State) : List Byte :=
  let other : CoreAB := if s.ctl.writer = .a then .b else .a
  let standby := if (s.ctl.cores.get (if other = .a then 0 else 1)).runs then s.coreDigest other else absent
  match s.ctl.staging, s.ctl.staged with
  | .valid, some b => digestBytes b.ctlDigest
  | .pending, some b => digestBytes b.ctlDigest
  | _, _ => standby
/-- Block 0x10 + c. -/
def State.ctxBlock (s : State) (c : Nat) : List Byte :=
  let x := s.ctx c
  let st := match x.st with
    | .free => 0 | .opening => 1 | .ready => 2 | .running => 3 | .suspended => 4 | .faulted => 5 | .resetting => 6
    | .drained => 7
  [BitVec.ofNat 8 st, BitVec.ofNat 8 (b2n (s.sec.keys.get c).rotating)] ++ leBytes 2 x.log.length ++ [0, 0, 0, 0] ++
    logDigest x.log

/-- The measurement blocks (R392) for a scope. -/
def State.blocks (s : State) (scope : Nat) : List (Nat × List Byte) :=
  let set := match s.sec.set_ with
    | some d => leBytes 8 d.id.toNat ++ leBytes 4 d.gen.toNat ++ leBytes 48 d.owner.toNat
    | none => List.replicate 60 0
  let staged := match s.ctl.staging, s.ctl.staged with
    | .pending, some b => if b.hasRtp then leBytes 48 b.digest.toNat else absent
    | .valid, some b => if b.hasRtp then leBytes 48 b.digest.toNat else absent
    | _, _ => absent
  let raw := [BitVec.ofNat 8 s.glb.state.code, BitVec.ofNat 8 s.secTop, BitVec.ofNat 8 s.glb.bootFails]
  let fw := if s.ctl.owner.isSome || s.ctl.gap then s.coreDigest s.ctl.writer else absent
  [(1, digestBytes Config.romDigest), (2, digestBytes s.sec.rtpDigest), (3, fw), (4, s.otherFirmware),
   (5, if s.sec.subDigest.isEmpty then absent else s.sec.subDigest), (6, digestBytes (Config.settingsDigest s.settings.numbers)), (7, raw),
   (8, set), (9, staged)] ++ (if scope < 16 then [(0x10 + scope, s.ctxBlock scope)] else [])

/-- Length of a report: header, blocks, log and chains where asked for, both signatures (R394). -/
def State.reportLen (s : State) (scope flags : Nat) : Nat :=
  128 + (Config.blockBytes (decide (scope < 16))).toNat + (if flags.testBit 0 && scope < 16 then 64 * (s.ctx scope).log.length else 0) +
    (if flags.testBit 1 then Config.certBytes.toNat else 0) + 96 + 4627

/-- ATTEST.  `answers`: the RTP replies within 500 ms. -/
def execAttest (c : Cmd) (answers : Bool) (s : State) : Host.Outcome State Fault Refusal :=
  .next <| s.row c 0x48 [] fun s =>
    let scope := c.le 16 1
    let flags := c.le 17 1
    if !c.isPf0 && scope ≠ c.ownCtx then .reply s (.of stDenied)
    else params s c [(16, 17), (24, 35), (40, 63)]
      [(decide (15 < scope) && scope != 0xFF, 16), (decide (3 < flags), 17)] <|
      if !answers then .later s .attest
      else
        let n := s.reportLen scope flags
        if c.le 32 4 < n then .reply s { status := stBadParam, detail := 32, result := leBytes 4 n }
        else
          let bs := s.blocks scope
          let log := if flags.testBit 0 && scope < 16 then (s.ctx scope).log else []
          let r : Report := { scope, nonce := (upto 24).map fun i => c.byte (40 + i), time := s.pegTime, len := n, blocks := bs, log }
          .reply (s.updSec fun x => { x with report := r }) (.ok (leBytes 4 n))

/-! ### Key rotation (R380-R384) -/

/-- KEY_ROTATE: the next generation is loaded; it becomes current at the context's next step boundary, or at once off the
array. -/
def execKeyRotate (c : Cmd) (s : State) : Host.Outcome State Fault Refusal :=
  .next <| s.row c 0x49 [] fun s => params s c [(16, 16)] [(decide (15 < c.le 16 1), 16)] <|
    let x := c.le 16 1
    let k := s.sec.keys.get x
    if (s.ctx x).st = .free || (s.ctx x).st = .opening then .reply s (.of stNotBound)
    else if k.rotating then .reply s (.of stBusy)
    else
      let s := s.updSec fun y => { y with keys := y.keys.set x { k with rotating := true, pendingGen := true } }
      if s.arr.cur = some x then .later s (.keyGen x)
      else .reply (s.switchGen x) (.ok (leBytes 4 (k.gen + 1)))

/-- Is unit (page or entry, number) of context `c` still under slot `old`, and not skipped? -/
def State.passUnitOk (s : State) (c : Nat) (old : Bool) (isPage : Bool) (n : Nat) : Bool :=
  if isPage then
    let g := s.page n
    g.owner == some c && g.st != .free && g.st != .reclaim && g.keygen == old
  else
    let e := s.mem.xlat.get n
    decide ((s.ctx c).mmuBase ≤ n) && decide (n < (s.ctx c).mmuBase + (s.ctx c).mmuSize) && e.valid && e.keygen == old

/-- Units the pass may take next, as `2 n + (page)`. -/
def State.passUnits (s : State) (c : Nat) (old : Bool) : List Nat :=
  ((s.mem.xlat.map Prod.fst).filter fun n => s.passUnitOk c old false n).map (2 * ·) ++
  ((s.ctxPages c).filter fun e => s.passUnitOk c old true e.1).map fun e => 2 * e.1 + 1

/-- 256-byte units in a unit of the pass. -/
def State.passSize (s : State) (c : Nat) (isPage : Bool) : Nat :=
  if isPage then (s.ctx c).granules * 64 else 8192

/-- The unit's KEYGEN flips: it leaves the old slot and enters the new one. -/
def State.flipUnit (s : State) (c : Nat) (isPage : Bool) (n : Nat) (old : Bool) : State :=
  let s := (s.unitLeave c old).unitEnter c (!old)
  if isPage then s.updPage n fun g => { g with keygen := !old }
  else s.updMem fun m => { m with xlat := m.xlat.upd n fun e => { e with keygen := !old } }

/-- KEY_PASS_UNIT: one 256-byte unit of the pass over context `ctx`; `raced` says that a write to it was accepted between
the pass's read and its write.  The order in which a scan takes the units is a free choice (log 4). -/
def execKeyPassUnit (ctx : CtxId) (raced : Bool) (s : State) : Host.Outcome State Fault Refusal :=
  let c := ctx.val
  let k := s.sec.keys.get c
  let old := !s.curSlot c
  if !s.board.powered || s.glb.stage < 7 || s.glb.state = .doze || s.glb.state = .clockHold || !k.rotating || k.pendingGen then .next s
  else
    -- a unit in hand that has left the old slot by itself is let go
    let s := match s.sec.pass with
      | some (d, p, n, _) =>
        if s.passUnitOk d (!s.curSlot d) p n && (s.sec.keys.get d).rotating then s else s.updSec fun x => { x with pass := none }
      | none => s
    match s.sec.pass with
    | some (d, p, n, done) =>
      if d ≠ c || raced then .next s
      else if done + 1 < s.passSize c p then .next (s.updSec fun x => { x with pass := some (c, p, n, done + 1) })
      else .next (((s.flipUnit c p n old).updSec fun x => { x with pass := none }).retireGen c)
    | none =>
      match s.choose (s.passUnits c old) with
      | none => .next (s.retireGen c)
      | some (u, s) =>
        .next (s.updSec fun x => { x with pass := some (c, u % 2 == 1, u / 2, if raced then 0 else 1) })

/-! ### Device sets (R385) -/

/-- Operation of a SET_JOIN. -/
def Cmd.setOp (c : Cmd) : Nat := c.le 16 1
/-- SET_JOIN with the fields of operation `op`; an operation the spec does not list is refused with the first row. -/
def State.setRow (s : State) (c : Cmd) (sel : Cmd → Bool) (body : State → Verdict) : State :=
  s.subRow c 0x4A sel [] fun s => params s c [(16, 17), (24, 35)]
    [(decide (3 < Cmd.setOp c), 16), (Cmd.setOp c == 1 && decide (3 < c.le 17 1), 17)] (body s)

/-- The document names this module, and set and generation as asked. -/
def State.docNames (s : State) (d : AdmissionDoc) (setId : Nat) (gen : Word) : Bool :=
  d.modules.contains s.sec.moduleId && d.setId == BitVec.ofNat 64 setId && d.gen == gen

/-- The set a document describes. -/
def docSet (d : AdmissionDoc) : DevSet := { id := d.setId, gen := d.gen, members := d.modules, owner := d.ownerDigest }

/-- CREATE: a module that holds a set already is DENIED (DEDUCED, log 25). -/
def execCreate (c : Cmd) (doc : AdmissionDoc) (s : State) : Host.Outcome State Fault Refusal :=
  .next <| s.setRow c (fun c => Cmd.setOp c == 0 || decide (3 < Cmd.setOp c)) fun s => checks s
    [(!doc.signed, .of stDigest), (s.sec.set_.isSome || !s.docNames doc (c.objId) 0, .of stDenied),
     (decide (256 < doc.modules.length), .of stNoRes)] <|
    .reply (s.updSec fun x => { x with set_ := some (docSet doc) }) (.of stOk)

/-- JOIN: the set may be held already in an older generation. -/
def execJoin (c : Cmd) (doc : AdmissionDoc) (sponsorAnswers : Bool) (s : State) : Host.Outcome State Fault Refusal :=
  .next <| s.setRow c (fun c => Cmd.setOp c == 1) fun s => checks s
    [(!doc.signed, .of stDigest),
     ((match s.sec.set_ with | some d => d.id != BitVec.ofNat 64 (c.objId) | none => false) || !s.docNames doc (c.objId) doc.gen,
      .of stDenied),
     (decide (256 < doc.modules.length), .of stNoRes)] <|
    if sponsorAnswers then .reply (s.updSec fun x => { x with set_ := some (docSet doc) }) (.of stOk)
    else .later s (.sponsor doc.setId doc.gen doc.modules.length doc.ownerDigest)

/-- Does the module hold the set the command names? -/
def State.holdsSet (s : State) (c : Cmd) : Bool :=
  match s.sec.set_ with
  | some d => d.id == BitVec.ofNat 64 (c.objId)
  | none => false

/-- LEAVE. -/
def execLeave (c : Cmd) (s : State) : Host.Outcome State Fault Refusal :=
  .next <| s.setRow c (fun c => Cmd.setOp c == 2) fun s =>
    if !s.holdsSet c then .reply s (.of stNotBound)
    else .reply (s.updSec fun x => { x with set_ := none }) (.of stOk)

/-- REKEY: the next generation with the remaining members. -/
def execRekey (c : Cmd) (doc : AdmissionDoc) (s : State) : Host.Outcome State Fault Refusal :=
  .next <| s.setRow c (fun c => Cmd.setOp c == 3) fun s =>
    match s.sec.set_ with
    | none => .reply s (.of stNotBound)
    | some d => checks s
      [(!s.holdsSet c, .of stNotBound),
       (!doc.signed || doc.ownerDigest != d.owner, .of stDigest),
       (!s.docNames doc (c.objId) (d.gen + 1), .of stDenied),
       (decide (256 < doc.modules.length), .of stNoRes)] <|
      .reply (s.updSec fun x => { x with set_ := some (docSet doc) }) (.of stOk)

/-- SPONSOR_TIMEOUT: 500 ms without the sponsor's RTP. -/
def execSponsorTimeout (s : State) : Host.Outcome State Fault Refusal :=
  .next (foldS (s.host.inflight.filter fun i =>
    (match i.wait with | .sponsor _ _ _ _ => true | _ => false) && decide (i.since + 500 * msNs ≤ s.time))
    (fun s i => s.complete i (.of stTimeout)) s)

end Sys2Proof.Machine
end

