-- ==== Sys2Proof/Machine/Telemetry.lean ====
section
/-!
DEFINITION. Snapshots, conservation identities, histograms and the lifetime record (19; 01, R29).
-/
namespace Sys2Proof.Machine

/-! ### Gauges (R520) -/

def sumOver {α : Type} (l : List α) (f : α → Nat) : Nat := (l.map f).foldl (· + ·) 0

/-- Frame buffers of a context: all, and those held (11, R285, R287). -/
def State.vidTotal (s : State) (c : Nat) : Nat := sumOver (s.sessionsOf c) fun k => (s.sess k).cfg.buffers
def State.vidHeld (s : State) (c : Nat) : Nat :=
  sumOver (s.sessionsOf c) fun k => ((s.sess k).bufs.filter fun b => b.2.held).length
/-- Submissions queued or in progress (11, R287). -/
def State.subsOpen (s : State) (c : Nat) : Nat := sumOver (s.sessionsOf c) fun k => (s.sess k).subs.length
/-- Patch slots in a state (10, R269, R273). -/
def State.patchesIn (s : State) (st : PatchSt) : Nat :=
  if st = .free then 512 - (s.tsu.patches.filter fun p => p.2.st ≠ .free).length
  else (s.tsu.patches.filter fun p => p.2.st = st).length
/-- Pins on patch slots. -/
def State.patchPins (s : State) : Nat := sumOver s.tsu.patches fun p => p.2.pins
/-- Units under slot `g` of context `c`'s keys (14, R382). -/
def State.genUnits (s : State) (c : Nat) (g : Bool) : Nat :=
  let x := s.ctx c
  (s.mem.xlat.filter fun e => x.mmuBase ≤ e.1 && e.1 < x.mmuBase + x.mmuSize && e.2.valid && e.2.keygen == g).length +
  ((s.ctxPages c).filter fun p => p.2.st != .free && p.2.keygen == g).length

/-- Hand-off buffers of the context's step, with the credits in their free registers: on the array, or as an urgent switch
saved them; a buffer of no step stands at its initial credits, less those a credit fault left counted as full (05, R123, R124,
R126). -/
def State.handoffFree (s : State) (c : Nat) : List (Nat × Nat) :=
  let live := s.arr.cur == some c
  let hs := if live then s.arr.handoffs else s.arr.savedHandoffs.get c
  (hs.zip (upto hs.length)).map fun (h : HandOff × Nat) =>
    let r := 32 * h.1.producer.val + h.1.freeReg.val
    (h.2, if live then s.arr.credits.get r else s.arr.savedCredits.get (2048 * c + r))

/-- Every gauge as its ID and value.  HOB_FULL counts what is neither free nor in flight (log 26). -/
def State.gauges (s : State) : List (Nat × Nat) :=
  (allCtxs.flatMap fun c =>
    ((s.ctx c).accounts.flatMap fun (a : Nat × Account) =>
      [(cid 0x06 (accIdx c a.1), a.2.level), (cid 0x07 (accIdx c a.1), s.accHeld c a.1)]) ++
    [(cid 0x14 c, s.reqsIn c (· == .queued)), (cid 0x15 c, s.reqsIn c fun r => r == .prefill || r == .decode),
     (cid 0x16 c, s.reqsIn c (· == .ending)),
     (cid 0x23 c, s.kvpFree c), (cid 0x24 c, s.kvpRef c), (cid 0x25 c, s.kvpPend c), (cid 0x26 c, s.kvpTotal c),
     (cid 0x3C c, s.vidTotal c - s.vidHeld c), (cid 0x3D c, s.vidHeld c), (cid 0x3E c, s.vidTotal c), (cid 0x3F c, s.subsOpen c),
     (cid 0x5A (2 * c), s.genUnits c false), (cid 0x5A (2 * c + 1), s.genUnits c true)] ++
    (let free := s.handoffFree c
     (s.tel.cons.filter fun e => cid 0x64 (4096 * c) ≤ e.1 && e.1 < cid 0x64 (4096 * (c + 1))).flatMap fun (e : Nat × Nat) =>
       let b := e.1 - cid 0x64 (4096 * c)
       let f := ((free.find? fun x => x.1 == b).map Prod.snd).getD (e.2 - s.cons (cid 0x63 (4096 * c + b)))
       let flying := s.cons (cid 0x60 (4096 * c + b)) - s.cons (cid 0x61 (4096 * c + b))
       [(cid 0x62 (4096 * c + b), f), (cid 0x63 (4096 * c + b), e.2 - f - flying)])) ++
  [(cid 0x27 0, s.kvpUnassigned), (cid 0x32 0, s.patchesIn .free), (cid 0x33 0, s.patchesIn .loading),
   (cid 0x34 0, s.patchesIn .ready), (cid 0x35 0, s.patchesIn .retiring)] ++
  ((upto 17).map fun f => (cid 0x43 f, s.inflightOf f)) ++
  ((upto 24).map fun m => (cid 0x4A m, (s.mbx.boxes.get m).length))

/-- Every counter and gauge frozen in one cycle (R518). -/
def State.capture (s : State) : Tbl Nat :=
  s.gauges.foldl (fun t g => t.set g.1 g.2) s.tel.cons

/-- Indices of the hand-off buffers a context's counters stand for, and how many they are. -/
def State.hobIds (s : State) (c : Nat) : List Nat :=
  (s.tel.cons.filter fun e => cid 0x64 (4096 * c) ≤ e.1 && e.1 < cid 0x64 (4096 * (c + 1))).map fun (e : Nat × Nat) =>
    e.1 - cid 0x64 0
def State.hobCount (s : State) (c : Nat) : Nat := (s.hobIds c).length

/-- Does an ID name a counter or gauge (R520)? -/
def State.idValid (s : State) (id : Nat) : Bool :=
  let fam := id / 2 ^ 24
  let i := id % 2 ^ 24
  if 0x01 ≤ fam && fam ≤ 0x07 then decide (i < 16384)
  else if (0x10 ≤ fam && fam ≤ 0x16) || (0x20 ≤ fam && fam ≤ 0x26) || (0x38 ≤ fam && fam ≤ 0x3F) then decide (i < 16)
  else if fam = 0x27 || (0x30 ≤ fam && fam ≤ 0x35) then i == 0
  else if 0x40 ≤ fam && fam ≤ 0x43 then decide (i < 17)
  else if 0x48 ≤ fam && fam ≤ 0x4A then decide (i < 24)
  else if 0x50 ≤ fam && fam ≤ 0x55 then decide (i < 1024) || (decide (0x1000 ≤ i) && decide (i < 0x1400))
  else if 0x58 ≤ fam && fam ≤ 0x5A then decide (i < 32)
  else if 0x60 ≤ fam && fam ≤ 0x64 then decide (i < 65536) && (s.tel.cons.any fun e => e.1 == cid 0x64 i)
  else false

/-- Counters within a function's scope (R521): every ID for PF0, those of its own context for a VF. -/
def State.scopeCount (s : State) (fn : Nat) : Nat :=
  if fn = 0 then
    7 * 16384 + 7 * 16 + 7 * 16 + 1 + 6 + 8 * 16 + 4 * 17 + 3 * 24 + 6 * 2048 + 3 * 32 + sumOver allCtxs fun c => 5 * s.hobCount c
  else 7 * 1024 + 7 + 7 + 8 + 4 + 3 * 2 + 5 * s.hobCount (fn - 1)

/-! ### Identities (R29, R520) -/

/-- The identities of one account (09, R224). -/
def acctFails (v : Nat → Nat) (depth i : Nat) : Bool :=
  v (cid 6 i) + v (cid 2 i) + v (cid 3 i) != v (cid 1 i) + v (cid 5 i) || v (cid 7 i) + v (cid 4 i) + v (cid 5 i) != v (cid 3 i) ||
  decide (depth < v (cid 6 i))

/-- The IDs of the first identity that a snapshot breaks, none if every identity holds.  `v` reads the snapshot. -/
def State.brokenIds (s : State) (v : Nat → Nat) : Option (List Nat) :=
  let fams (l : List Nat) (i : Nat) : List Nat := l.map fun f => cid f i
  let perCtx (c : Nat) : List (Bool × List Nat) :=
    [(v (cid 0x10 c) != v (cid 0x11 c) + v (cid 0x14 c) + v (cid 0x15 c) + v (cid 0x16 c), fams [0x10, 0x11, 0x14, 0x15, 0x16] c),
     (v (cid 0x12 c) != v (cid 0x13 c) + v (cid 0x15 c) || decide ((s.ctx c).slotQuota < v (cid 0x15 c)), fams [0x12, 0x13, 0x15] c),
     (v (cid 0x23 c) + v (cid 0x24 c) + v (cid 0x25 c) != v (cid 0x26 c), fams [0x23, 0x24, 0x25, 0x26] c),
     (v (cid 0x24 c) + v (cid 0x25 c) + v (cid 0x22 c) != v (cid 0x20 c), fams [0x20, 0x22, 0x24, 0x25] c),
     (v (cid 0x25 c) + v (cid 0x22 c) != v (cid 0x21 c), fams [0x21, 0x22, 0x25] c),
     (v (cid 0x3C c) + v (cid 0x3D c) != v (cid 0x3E c), fams [0x3C, 0x3D, 0x3E] c),
     (v (cid 0x38 c) != v (cid 0x39 c) + v (cid 0x3D c), fams [0x38, 0x39, 0x3D] c),
     (v (cid 0x3A c) != v (cid 0x3B c) + v (cid 0x3F c), fams [0x3A, 0x3B, 0x3F] c),
     (v (cid 0x58 (2 * c)) != v (cid 0x59 (2 * c)) + v (cid 0x5A (2 * c)), fams [0x58, 0x59, 0x5A] (2 * c)),
     (v (cid 0x58 (2 * c + 1)) != v (cid 0x59 (2 * c + 1)) + v (cid 0x5A (2 * c + 1)), fams [0x58, 0x59, 0x5A] (2 * c + 1)),
     (v (cid 0x5A (2 * c)) + v (cid 0x5A (2 * c + 1)) != s.validEntries c + v (cid 0x24 c) + v (cid 0x25 c),
       [cid 0x5A (2 * c), cid 0x5A (2 * c + 1), cid 0x24 c, cid 0x25 c])] ++
    ((s.ctx c).accounts.map fun (a : Nat × Account) =>
      (acctFails v a.2.depth (accIdx c a.1), fams [1, 2, 3, 4, 5, 6, 7] (accIdx c a.1))) ++
    ((s.hobIds c).map fun i =>
      (v (cid 0x62 i) + v (cid 0x63 i) + v (cid 0x60 i) != v (cid 0x64 i) + v (cid 0x61 i), fams [0x60, 0x61, 0x62, 0x63, 0x64] i))
  let links : List (Bool × List Nat) := (s.peersIn .up).flatMap fun e => (upto 4).map fun w =>
    let i := lnkIdx e w
    let c := (s.peer e).credits.getD w 0
    (v (cid 0x50 i) + v (cid 0x51 i) != c + v (cid 0x52 i) || v (cid 0x53 i) + v (cid 0x54 i) != c + v (cid 0x55 i),
      fams [0x50, 0x51, 0x52, 0x53, 0x54, 0x55] i)
  -- the sets retired last, each with the initial credits it had
  let old : List (Bool × List Nat) := (upto 256).flatMap fun e => match (s.peer e).retired with
    | none => []
    | some cs => (upto 4).map fun w =>
      let i := 0x1000 + lnkIdx e w
      let c := cs.getD w 0
      (v (cid 0x50 i) + v (cid 0x51 i) != c + v (cid 0x52 i) || v (cid 0x53 i) + v (cid 0x54 i) != c + v (cid 0x55 i),
        fams [0x50, 0x51, 0x52, 0x53, 0x54, 0x55] i)
  let all : List (Bool × List Nat) :=
    allCtxs.flatMap perCtx ++
    [(v (cid 0x27 0) + sumOver allCtxs (fun c => v (cid 0x26 c)) != 131072, cid 0x27 0 :: allCtxs.map fun c => cid 0x26 c),
     (v (cid 0x32 0) + v (cid 0x33 0) + v (cid 0x34 0) + v (cid 0x35 0) != 512, fams [0x32, 0x33, 0x34, 0x35] 0),
     (v (cid 0x30 0) != v (cid 0x31 0) + s.patchPins, fams [0x30, 0x31] 0)] ++
    ((upto 17).map fun f => (v (cid 0x40 f) != v (cid 0x41 f) + v (cid 0x43 f), fams [0x40, 0x41, 0x43] f)) ++
    ((upto 24).map fun m =>
      (v (cid 0x48 m) != v (cid 0x49 m) + v (cid 0x4A m) || decide (4 < v (cid 0x4A m)), fams [0x48, 0x49, 0x4A] m)) ++ links ++ old
  (all.find? fun e => e.1).map Prod.snd

/-! ### Snapshots (R518-R521, R526, R527) -/

/-- Flags of a TELEMETRY_SNAPSHOT, and the bytes its image takes: LINES adds the 16 LINE_STATUS words (log 50). -/
def snapToHost (flags : Nat) : Bool := flags.testBit 0
def snapLines (flags : Nat) : Bool := flags.testBit 1
def State.snapBytes (s : State) (fn flags : Nat) : Nat := 64 + 16 * s.scopeCount fn + if snapLines flags then 64 else 0

/-- A request for a snapshot; one that finds a capture pending joins it (R519). -/
def State.askSnapshot (s : State) : State := s.updTel fun t => { t with pending := true }

/-- TELEMETRY_SNAPSHOT: completes once the capture is held. -/
def execTelemetrySnapshot (c : Cmd) (s : State) : Host.Outcome State Fault Refusal :=
  .next <| s.row c 0x68 [] fun s =>
    let flags := (c.byte 16).toNat
    params s c [(16, 16), (24, 35)] [(decide (3 < flags), 16)] <|
    .later s.askSnapshot (.snapshot flags (c.le 24 8) (c.le 32 4))

/-- Is the TEL block valid (01, R23)? -/
def State.telValid (s : State) : Bool := s.board.powered && decide (3 ≤ s.glb.stage)

/-- TEL_SNAP_TAKE: a write of TEL_SNAP_CTRL. -/
def execTelSnapTake (value : Word) (s : State) : Host.Outcome State Fault Refusal :=
  .next (if s.telValid && value.getLsbD 0 then (s.updTel fun t => { t with take := true }).askSnapshot else s)

/-- PERIODIC_SNAPSHOT: every TEL_PERIOD_MS, not in a switch-over gap. -/
def execPeriodicSnapshot (s : State) : Host.Outcome State Fault Refusal :=
  .next <|
    if s.telValid && s.controlRuns && s.tel.periodAt + s.tel.periodMs * msNs ≤ s.time then
      (s.updTel fun t => { t with periodAt := s.time }).askSnapshot
    else s

/-- The IDs of the image, ascending (R520, R521): every one for PF0, those of its own context for a VF. -/
def State.scopeIds (s : State) (fn : Nat) : List Nat :=
  let fams (lo n : Nat) : List Nat := (upto n).map (lo + ·)
  let ids (fs : List Nat) (is : List Nat) : List Nat := fs.flatMap fun f => is.map fun i => cid f i
  if fn = 0 then
    ids (fams 0x01 7) (upto 16384) ++ ids (fams 0x10 7) (upto 16) ++ ids (fams 0x20 7) (upto 16) ++ ids [0x27] [0] ++
    ids (fams 0x30 6) [0] ++ ids (fams 0x38 8) (upto 16) ++ ids (fams 0x40 4) (upto 17) ++ ids (fams 0x48 3) (upto 24) ++
    ids (fams 0x50 6) (upto 1024 ++ fams 0x1000 1024) ++ ids (fams 0x58 3) (upto 32) ++ ids (fams 0x60 5) (allCtxs.flatMap s.hobIds)
  else
    let c := fn - 1
    ids (fams 0x01 7) (fams (1024 * c) 1024) ++ ids (fams 0x10 7) [c] ++ ids (fams 0x20 7) [c] ++ ids (fams 0x38 8) [c] ++
    ids (fams 0x40 4) [fn] ++ ids (fams 0x58 3) [2 * c, 2 * c + 1] ++ ids (fams 0x60 5) (s.hobIds c)

/-- The image of the snapshot held: header, entries, and with LINES the 16 LINE_STATUS words behind them (R521; log 50). -/
def State.snapImage (s : State) (fn flags : Nat) : List Byte :=
  let ids := s.scopeIds fn
  leBytes 8 0x4D454C54 ++ leBytes 8 s.tel.snapSeq ++ leBytes 8 s.tel.snapTime.toNat ++ leBytes 4 ids.length ++
  leBytes 36 (b2n s.tel.identityOk) ++ ids.flatMap (fun i => leBytes 8 i ++ leBytes 8 (s.tel.snap.get i)) ++
  if snapLines flags then (upto 16).flatMap fun n => leBytes 4 (s.line n).status else []

/-- The waiting TELEMETRY_SNAPSHOTs complete with the snapshot held (R521); LINES reads LINE_STATUS and so clears
ENC_ERR_CNT (00, R5). -/
def State.snapReplies (s : State) : State :=
  foldS (s.host.inflight.filter fun i => match i.wait with | .snapshot _ _ _ => true | _ => false) (fun s i =>
    match i.wait with
    | .snapshot flags addr len =>
      let need := s.snapBytes i.fn flags
      if snapToHost flags && len < need then s.complete i { status := stBadParam, detail := 32, result := leBytes 4 need }
      else
        let s := if snapToHost flags then s.hostPut i.fn addr (s.snapImage i.fn flags) else s
        let s := if snapToHost flags && snapLines flags then
            foldS (upto 16) (fun s n => s.updLine n fun l => { l with errCnt := 0 }) s
          else s
        s.complete i (.ok (leBytes 8 s.tel.snapSeq ++ leBytes 4 (if snapToHost flags then need else 0)))
    | _ => s) s

/-- SNAPSHOT_CAPTURE: commands are whole, so no boundary, journal transaction or end path is in progress between them; in a
switch-over gap the capture waits.  Firmware checks every identity. -/
def execSnapshotCapture (s : State) : Host.Outcome State Fault Refusal :=
  .next <|
    if !s.tel.pending || !s.controlRuns then s
    else
      let snap := s.capture
      let broken := s.brokenIds fun id => snap.get id
      let s := s.updTel fun t =>
        { t with snap, pending := false, take := false, snapSeq := t.snapSeq + 1, snapTime := s.pegTime, identityOk := broken.isNone }
      let s := s.updMem fun m => { m with washAt := m.washAt.set 3 s.time }
      let s := match broken with
        | some ids => s.identityFails (ids.flatMap fun i => idWords i (snap.get i))
        | none => s
      s.snapReplies

/-- TEL_HIST_CLEAR (R517). -/
def execTelHistClear (value : Word) (s : State) : Host.Outcome State Fault Refusal :=
  .next <|
    if !s.telValid then s
    else s.updTel fun t => { t with hists := (upto 6).foldl (fun h i => if value.getLsbD i then h.set i {} else h) t.hists }

/-! ### The lifetime record (R522-R524) -/

/-- One SUPPRESSED record for each type that lost records, while the queue has room (R523). -/
def State.suppressedRecords (s : State) : State :=
  foldS s.tel.ltSuppressed (fun s e =>
    if s.tel.ltQueue.length < 240 then (s.updTel fun t => { t with ltSuppressed := t.ltSuppressed.set e.1 0 }).lifetime 0x00FE [e.1, e.2]
    else s) s

/-- Records in flash with their sequence numbers; a full ring loses its oldest sector of 1,024 records. -/
def appendRing (ring : List LtRec) : List LtRec → Nat → List LtRec
  | [], _ => ring
  | r :: rs, n =>
    let ring := if 63488 ≤ ring.length then ring.drop 1024 else ring
    appendRing (ring ++ [{ r with seq := n + 1 }]) rs (n + 1)

/-- LIFETIME_FLUSH: at most 16 records a second (R523). -/
def execLifetimeFlush (s : State) : Host.Outcome State Fault Refusal :=
  .next <|
    let t := s.tel
    let may := if t.flushAt = 0 then 16 else min 16 ((s.time - t.flushAt) * 16 / secNs)
    let n := min may t.ltQueue.length
    if !s.telValid || !s.controlRuns || n = 0 then s
    else
      (s.updTel fun t =>
        { t with ltRing := appendRing t.ltRing (t.ltQueue.take n) t.ltSeq, ltSeq := t.ltSeq + n, ltQueue := t.ltQueue.drop n
                 flushAt := s.time }).suppressedRecords

/-- What a summary holds (R522): power-on hours, starts, energy in kWh, peak die and inlet temperatures, hours above
T_THROTTLE, uncorrectable words by kind, frames retired, minorities by core, the CONFIRMED bitmap, BRAKE#, PWR_WARN# and
thermal-trip totals. -/
def State.summaryNow (s : State) : List Nat :=
  let t := s.tel
  let hour := 3600 * secNs
  [(t.onNs + s.time) / hour, t.starts, t.energyUj / (3600 * 10 ^ 9), (t.peakDie % 256).toNat, (t.peakInlet % 256).toNat, t.hotTicks * 10000 / hour] ++
  ((upto 4).map fun k => t.ueTotal.get k) ++ [t.framesTotal] ++ ((upto 64).map fun n => (s.drn.cores.get n).total) ++
  [sumOver (upto 64) fun n => if (s.drn.cores.get n).confirmed then 2 ^ n else 0] ++ [t.brakes, t.warns, t.trips]

/-- SUMMARY_WRITE: every hour, to the other of its two copies (log 123). -/
def execSummaryWrite (s : State) : Host.Outcome State Fault Refusal :=
  .next <|
    if s.telValid && s.controlRuns && s.tel.summaryAt + 3600 * secNs ≤ s.time then
      s.updTel fun t => { t with summaries := t.summaries + 1, summaryAt := s.time, summary := s.summaryNow, summaryOld := t.summary }
    else s

/-- CRC-32 of a byte list, reflected, polynomial 0xEDB88320 (PRESUMED, log 130). -/
def crcStep : Nat → BitVec 32 → BitVec 32
  | 0, r => r
  | n + 1, r => crcStep n (if r.getLsbD 0 then (r >>> 1) ^^^ 0xEDB88320 else r >>> 1)
def crc32 (bs : List Byte) : BitVec 32 :=
  ~~~(bs.foldl (fun r (b : Byte) => crcStep 8 (r ^^^ b.setWidth 32)) 0xFFFFFFFF)

/-- The 64 bytes of a record (R522). -/
def LtRec.toBytes (r : LtRec) : List Byte :=
  let body := leBytes 2 r.kind ++ leBytes 2 (b2n r.cont) ++ leBytes 4 r.start ++ leBytes 8 r.seq ++ leBytes 8 r.time.toNat ++
    (r.payload.flatMap (leBytes 4) ++ List.replicate 36 0).take 36
  body ++ leBytes 4 (crc32 body).toNat

/-- LIFETIME_READ: the records, or the summary, go to the host address.  The sequence that stands for 'first returned' where
no record is returned, and the layout of the summary's bytes, are free values. -/
def execLifetimeRead (c : Cmd) (s : State) : Host.Outcome State Fault Refusal :=
  .next <| s.row c 0x69 [] fun s =>
    let len := c.le 32 4
    params s c [(16, 16), (20, 35)] [(decide (1 < (c.byte 16).toNat), 16), (len % 64 != 0, 32)] <|
    let ring := s.tel.ltRing
    let oldest := (ring.head?.map (·.seq)).getD 0
    let want := c.le 20 4
    let from_ := if want = 0xFFFFFFFF then ring else ring.filter fun r => decide (want ≤ r.seq % 2 ^ 32)
    let n := if (c.byte 16).toNat = 0 then 0 else min (len / 64) from_.length
    let (d, s') := s.draw
    let tail := leBytes 4 n ++ leBytes 4 (oldest % 2 ^ 32)
    if n = 0 then
      let s' := if (c.byte 16).toNat = 0 then s'.hostPut c.fn.val (c.le 24 8) (Config.bytes d (min len 4096)) else s'
      .reply s' (.ok (leBytes 8 (Config.value d) ++ tail))
    else .reply (s.hostPut c.fn.val (c.le 24 8) ((from_.take n).flatMap LtRec.toBytes)) (.ok (leBytes 8 ((from_.head?.map (·.seq)).getD 0) ++ tail))

end Sys2Proof.Machine
end

