-- ==== Sys2Proof/Machine/Registers.lean ====
section
/-!
DEFINITION. The register map: what every register of the blocks and of the context windows reads as, and what a write
to a register without a row of its own does (00, R3-R8; 01, R17-R23; and the register tables of every chapter).
-/
namespace Sys2Proof.Machine

/-! ### Reading -/

/-- A register: one of 32 bits, or the low or high half of a pair that holds a 64-bit value (02, R54). -/
inductive RegVal where
  | one (v : Nat)
  | lo (v : Nat)
  | hi (v : Nat)
  deriving DecidableEq, Repr

/-- The 32 bits it reads as. -/
def RegVal.word : RegVal → Nat
  | .one v => v % 2 ^ 32
  | .lo v => v % 2 ^ 32
  | .hi v => v / 2 ^ 32 % 2 ^ 32

/-- Registers as offsets and values. -/
abbrev Regs := List (Nat × RegVal)

def reg (o v : Nat) : Regs := [(o, .one v)]
def regPair (o v : Nat) : Regs := [(o, .lo v), (o + 4, .hi v)]
/-- Registers of the element of an array that `o` lies in. -/
def regArray (o base stride n : Nat) (f : Nat → Regs) : Regs :=
  if base ≤ o ∧ o < base + stride * n then
    let k := (o - base) / stride
    (f k).map fun (r : Nat × RegVal) => (base + stride * k + r.1, r.2)
  else []

/-- An event counter with its WRAPS field as one 64-bit figure (19, R516). -/
def State.evReg (s : State) (off : Nat) : Nat := (s.evAt off).wraps.toNat * 2 ^ 48 + (s.evAt off).count.toNat

/-- GLB (01, R19). -/
def State.glbRegs (s : State) : Regs :=
  reg 0x4 (2 ^ 16 * s.glb.bootFails + 2 ^ 8 * s.glb.stage + s.glb.state.code)

/-- CLK (18, R512, R513). -/
def State.clkRegs (s : State) (o : Nat) : Regs :=
  let k := s.clk
  let busy (i : Nat) : Nat := b2n (k.pllBusy.getLsbD i)
  reg 0x0 (2 ^ 31 * b2n k.xtalOk + 2 ^ 30 * b2n k.onIto + 2 ^ 29 * b2n (s.glb.state == .clockHold) + 2 ^ 16 * k.lock.toNat) ++
  reg 0x4 (2 ^ 31 * b2n k.ctlBusy + k.ctlSel) ++
  regArray o 0x10 4 4 (fun q => reg 0 (2 ^ 31 * busy q + k.qpll.get q)) ++
  reg 0x20 k.nocPll ++ reg 0x24 k.codecPll ++
  reg 0x30 (2 ^ 31 * b2n k.fStart + 2 ^ 30 * b2n k.fDone + 2 ^ 29 * b2n k.fRef + 2 ^ 16 * k.fSrc + k.fWindow) ++
  reg 0x34 k.fResult.toNat ++ reg 0x40 (2 ^ 31 * b2n k.xtalLost + k.hung.toNat) ++
  regPair 0x48 (s.evReg (clkBase + 0x48))

/-- PWR (18, R514, R515). -/
def State.pwrRegs (s : State) : Regs :=
  let p := s.pwr
  reg 0x0 s.pwrStatus ++ reg 0x4 (2 ^ 16 * p.orphanCap + p.cap) ++ reg 0x8 (2 ^ 16 * p.down + p.up) ++
  reg 0xC (2 ^ 16 * p.warnCap + 2 ^ 8 * p.inletMax + p.tThrottle) ++ reg 0x10 (p.ceilMw / 1000) ++
  reg 0x14 s.inputAvg ++ reg 0x18 (min 0xFFFF s.trackMs) ++
  reg 0x1C (2 ^ 16 * signedByte p.inlet + 2 ^ 8 * signedByte p.hottest + p.hotIndex) ++
  reg 0x20 p.events.toNat ++ reg 0x24 s.hbAge ++
  regPair 0x28 (s.evReg (pwrBase + 0x28)) ++ regPair 0x30 (s.evReg (pwrBase + 0x30)) ++
  regPair 0x38 (s.evReg (pwrBase + 0x38)) ++ regPair 0x40 (s.evReg (pwrBase + 0x40))

/-- LINE_CFG[n] (02, R55): lines 0-7 have encoders, 8-15 are virtual. -/
def Line.cfg (l : Line) (n : Nat) : Nat :=
  2 ^ 31 * b2n l.enable + 2 ^ 30 * b2n l.invert + 2 ^ 28 * (if n < 8 then 1 else 2) + 2 ^ 16 * l.owner.toNat +
  2 ^ 8 * l.filter.toNat + b2n l.indexLatch

/-- PEG (02, R54-R56). -/
def State.pegRegs (s : State) (o : Nat) : Regs :=
  let p := s.peg
  reg 0x0 (b2n p.timeIto) ++ reg 0x10 (2 ^ 16 * p.missHold.toNat + b2n p.user) ++ regPair 0x20 s.pegTime.toNat ++
  regPair 0x30 (s.evReg (pegBase + 0x30)) ++ reg 0x38 p.qovf.toNat ++
  regArray o 0x1000 0x40 16 (fun n =>
    let l := s.line n
    reg 0x0 (l.cfg n) ++ reg 0x4 l.status ++ regPair 0x8 l.pos.toNat ++ regPair 0x10 l.hwm.toNat ++ reg 0x18 l.vel.toNat ++
    reg 0x1C l.scale.toNat ++ regPair 0x20 l.idx.toNat) ++
  regArray o 0x2000 0x10 4 (fun m =>
    let t := p.trigs.get m
    reg 0x0 (2 ^ 31 * b2n t.enable + 2 ^ 30 * b2n t.falling + 2 ^ 24 * t.line.val + t.filter.toNat) ++
    regPair 0x4 t.capPos.toNat ++ reg 0xC t.seq.toNat) ++
  regArray o 0x3000 4 8 (fun k => reg 0 (p.fired.get k).toNat)

/-- MBX (16, R455, R456). -/
def State.mbxRegs (s : State) (o : Nat) : Regs :=
  let head := (s.mbx.boxes.get 0).head?
  regArray o 0x0 4 3 (fun k =>
    reg 0 (sumOver (upto 8) fun j => 2 ^ (4 * j) * (s.mbx.boxes.get (8 * k + j)).length)) ++
  reg 0x10 s.mbx.ovf.toNat ++ regPair 0x18 (s.evReg (mbxBase + 0x18)) ++ regPair 0x20 (s.evReg (mbxBase + 0x20)) ++
  regArray o 0x100 4 16 (fun i => reg 0 (s.mbx.stage.get i).toNat) ++ reg 0x140 0 ++
  reg 0x200 ((head.map fun (h : Slot) =>
    2 ^ 31 + 2 ^ 30 * b2n h.stamped + 2 ^ 27 * h.cls + 2 ^ 16 * (h.index % 256) + h.arrival.toNat).getD 0) ++
  regArray o 0x240 4 16 (fun i => reg 0 ((head.map fun (h : Slot) => leAt (fun j => h.bytes.getD j 0) (4 * i) 4).getD 0)) ++
  reg 0x280 0

/-- Ring registers (15, R405, R406). -/
def State.ringRegs (s : State) (f n : Nat) : Regs :=
  let r := s.ring f n
  regPair 0x0 r.sqBase.toNat ++ reg 0x8 r.sqSize ++ reg 0xC r.sqTail ++ reg 0x10 r.sqHead ++ regPair 0x14 r.cqBase.toNat ++
  reg 0x1C r.cqSize ++ reg 0x20 r.cqHead ++ reg 0x24 r.cqTail ++
  reg 0x28 (2 ^ 31 * b2n r.enable + 2 ^ 30 * b2n (s.inflightOn f n == 0) + 2 ^ 29 * b2n r.fetchErr + 2 ^ 28 * b2n r.writeErr +
    2 ^ 27 * b2n r.tailErr)

/-- The window registers of function `f`, its MSI-X table and its PBA: what a masked entry holds back (15, R401, R404,
R405; log 7). -/
def State.windowRegs (s : State) (f o : Nat) : Regs :=
  let w := s.func f
  reg 0x0 (if f = 0 then 0 else 2 ^ 8 * w.minor + (s.ctx (f - 1)).st.code) ++
  reg 0x10 w.dbPend.toNat ++ reg 0x14 w.dbMask.toNat ++ regArray o 0x100 0x40 8 (s.ringRegs f) ++
  reg 0x400 w.tbHead ++ reg 0x404 w.tbTail ++
  regPair 0x410 w.peqBase.toNat ++ reg 0x418 (2 ^ 31 * b2n w.peqEnable + w.peqLog) ++ reg 0x41C w.peqHead ++ reg 0x420 w.peqTail ++
  regPair 0x430 w.veqBase.toNat ++ reg 0x438 (2 ^ 31 * b2n w.veqEnable + w.veqLog) ++ reg 0x43C w.veqHead ++ reg 0x440 w.veqTail ++
  regArray o 0xF0000 16 32 (fun j =>
    reg 0x0 (w.msix.get (3 * j)).toNat ++ reg 0x4 (w.msix.get (3 * j + 1)).toNat ++ reg 0x8 (w.msix.get (3 * j + 2)).toNat ++
    reg 0xC (b2n (w.msixMask.getLsbD j))) ++
  regPair 0xF8000 (w.dbPend &&& w.msixMask &&& ~~~w.dbMask).toNat

/-- CMD (15, R432, R433). -/
def State.cmdRegs (s : State) (o : Nat) : Regs :=
  let h := s.host
  s.windowRegs 0 o ++
  reg 0x1000 (2 ^ 31 * b2n h.linkUp + 2 ^ 30 * b2n h.flit + 2 ^ 29 * b2n h.vfEnable + 2 ^ 28 * b2n s.ctl.gap + 2 ^ 8 * h.speed + h.width) ++
  reg 0x1004 h.timeoutS ++
  reg 0x1008 (2 ^ 31 * b2n s.board.latchOpen + 2 ^ 30 * b2n h.latchEvt + 2 ^ 29 * b2n h.linkLossEvt) ++
  reg 0x100C (2 ^ 16 * h.i3cAddr.toNat + 2 ^ 8 * h.i3cEid.toNat + h.pcieEid.toNat) ++
  regArray o 0x1100 4 17 (fun f => reg 0 (s.inflightOf f))

/-- Codes of R347. -/
def ChSt.code : ChSt → Nat
  | .idle => 0
  | .run => 1
  | .wait => 2
  | .halted => 3
  | .done => 4
def ErrClass.code : ErrClass → Nat
  | .none_ => 0
  | .bus => 1
  | .mmuFault => 2
  | .poison => 3
  | .chTimeout => 4

/-- Tags a channel has in use: at most 192 of a core channel, 512 of a chip channel (12, R331, R347). -/
def Chan.tagsOut (k : Chan) (i : Nat) : Nat := min (if i < 256 then 192 else 512) (sumOver k.out OutMove.tags)

/-- A word of a bitmap over channels. -/
def chanWord (p : Nat → Bool) (k : Nat) : Nat := sumOver (upto 32) fun j => if 32 * k + j < 272 && p (32 * k + j) then 2 ^ j else 0

/-- DMA (12, R346, R347). -/
def State.dmaRegs (s : State) (o : Nat) : Regs :=
  let halted (i : Nat) : Bool := (s.chan i).st == .halted
  reg 0x0 s.dma.timeoutMs ++ reg 0x4 (s.dma.chans.filter fun e => e.2.st == .halted).length ++
  regArray o 0x10 4 9 (fun k => reg 0 (chanWord halted k)) ++ regArray o 0x40 4 9 (fun k => reg 0 (chanWord s.dma.eoc.get k)) ++
  regArray o 0x1000 0x20 272 (fun i =>
    let k := s.chan i
    reg 0x0 (2 ^ 28 * k.st.code + 2 ^ 24 * k.ctx + 2 ^ 23 * b2n k.owned + 2 ^ 22 * b2n k.aborted + 2 ^ 21 * b2n k.cmdIgnored +
      2 ^ 18 * k.waitKind + k.tagsOut i) ++
    reg 0x4 0 ++ reg 0x8 (2 ^ 16 * k.progress + k.index % 65536) ++
    reg 0xC (2 ^ 28 * k.cls.code + 2 ^ 27 * b2n k.errWrite + 2 ^ 16 * k.errSpace + k.errIndex) ++
    regPair 0x10 k.errAddr ++ reg 0x18 k.offset)

/-- MEM (12, R344, R345). -/
def State.memRegs (s : State) (o : Nat) : Regs :=
  let m := s.mem
  reg 0x0 (2 ^ 9 * b2n m.rinseBehind + 2 ^ 8 * b2n m.rinseOn + m.hbmUp.toNat) ++ reg 0x4 (2 ^ 16 * m.rinseSram + m.rinseHbm) ++
  reg 0x8 (2 ^ 16 * m.rinsePasses + m.rinsePos * 65536 / (hbmBytes / 256)) ++
  regPair 0x10 ((m.ueAddr.map fun (a : Nat × Nat) => 2 ^ 63 + 2 ^ 56 * a.1 + a.2).getD 0) ++
  reg 0x18 m.framesRetired ++ reg 0x1C (sumOver s.dma.chans fun e => e.2.tagsOut e.1) ++
  regPair 0x20 (s.evReg 0x700020) ++
  -- without a trained stack there is no access to count
  regPair 0x28 (if m.hbmUp = 0 then 0 else Config.bankStalls s.time % 2 ^ 64) ++
  regArray o 0x100 0x20 4 (fun k =>
    regPair 0x0 (s.evReg (0x700100 + 0x20 * k)) ++ regPair 0x8 (s.evReg (0x700108 + 0x20 * k)) ++
    regPair 0x10 (s.evReg (0x700110 + 0x20 * k))) ++
  regArray o 0x1000 0x20 16 (fun c =>
    let f := m.faults.get c
    reg 0x0 (s.ctx c).mmuBase ++ reg 0x4 (s.ctx c).mmuSize ++
    reg 0x8 (2 ^ 31 * b2n f.valid + 2 ^ 30 * b2n f.write + 2 ^ 28 * if f.valid then f.cause else 0) ++ regPair 0x10 f.va)

/-- Codes of R188. -/
def PageSt.code : PageSt → Nat
  | .free => 0
  | .active => 1
  | .shared => 2
  | .cowPending => 3
  | .reclaim => 4
  | .poisoned => 5

/-- A directory entry (08, R188). -/
def Page.entry (p : Page) : Nat :=
  2 ^ 46 * p.owner.getD 0 + 2 ^ 43 * p.st.code + 2 ^ 42 * b2n p.keygen + 2 ^ 34 * p.gen.toNat + 2 ^ 24 * p.refs + p.base.toNat

/-- KVP (08, R214-R216). -/
def State.kvpRegs (s : State) (o : Nat) : Regs :=
  reg 0x0 s.kvpUnassigned ++ reg 0x4 s.kvp.dirSel ++ regPair 0x8 (s.page s.kvp.dirSel).entry ++
  reg 0x10 ((s.kvp.poisonPage.map fun (p : Nat × Nat) => 2 ^ 31 + 2 ^ 17 * p.1 + p.2).getD 0) ++
  regArray o 0x1000 0x40 16 (fun c =>
    reg 0x0 (s.kvpTotal c) ++ reg 0x4 (s.kvpFree c) ++ reg 0x8 (s.kvpRef c) ++ reg 0xC (s.kvpPend c) ++
    reg 0x10 (s.kvp.flags.get c).toNat ++ reg 0x14 (2 ^ 28 * (s.ctx c).kvFmt + (s.ctx c).granules) ++
    regPair 0x18 (s.cons (cid 0x20 c)) ++ regPair 0x20 (s.cons (cid 0x21 c)) ++ regPair 0x28 (s.cons (cid 0x22 c)) ++
    regPair 0x30 (s.evReg (0x801030 + 0x40 * c)) ++ regPair 0x38 (s.evReg (0x801038 + 0x40 * c)))

/-- DRN (13, R371-R373). -/
def State.drnRegs (s : State) (o : Nat) : Regs :=
  let d := s.drn
  let ev (x : Nat) : Regs := regPair x (s.evReg (drnBase + x))
  let l := d.last
  let b := d.map.get d.mapSel
  reg 0x0 (2 ^ 31 * b2n d.drain + 2 ^ 30 * b2n s.goalsOff + 2 ^ 29 * b2n d.pathConfirmed + s.raisedBins) ++
  reg 0x4 (2 ^ 21 * d.div + 2 ^ 14 * d.rotFloor + 2 ^ 7 * d.raisedDiv) ++ reg 0x8 d.release ++
  ev 0x10 ++ ev 0x18 ++ ev 0x20 ++ ev 0x28 ++ ev 0x30 ++ ev 0x38 ++ ev 0x40 ++ ev 0x48 ++
  reg 0x80 (2 ^ 31 * b2n l.valid + 2 ^ 29 * l.verdict + 2 ^ 28 * b2n l.rep + 2 ^ 24 * l.ctx + 2 ^ 18 * (l.core % 64) +
    2 ^ 16 * l.group + l.op % 65536) ++
  reg 0x84 (l.bin % 2048) ++ regPair 0x88 l.step ++
  reg 0x100 d.mapSel ++ reg 0x104 b.count.toNat ++
  reg 0x108 (2 ^ 31 * b2n b.raised + 2 ^ 30 * b2n b.sat + s.binSince b (2 ^ 30 - 1)) ++
  regArray o 0x1000 0x10 64 (fun n =>
    let k := d.cores.get n
    reg 0x0 (2 ^ 31 * b2n k.confirmed + 2 ^ 24 * s.minWindow n) ++ reg 0x4 k.minCnt.toNat ++ regPair 0x8 (k.last % 2 ^ 48))

/-- SEC (14, R396, R397). -/
def State.secRegs (s : State) (o : Nat) : Regs :=
  let c := s.sec
  let id := (c.set_.map fun (d : DevSet) => d.id.toNat).getD 0
  reg 0x0 s.secStatus ++
  regArray o 0x10 4 4 (fun k => reg 0 (c.moduleId.toNat / 2 ^ (32 * k))) ++
  regPair 0x20 id ++ reg 0x28 ((c.set_.map fun (d : DevSet) => d.gen.toNat).getD 0) ++
  reg 0x2C ((c.set_.map fun (d : DevSet) => d.members.length).getD 0) ++
  reg 0x30 c.ideCtrl.toNat ++ reg 0x34 c.ideSecure.toNat ++ reg 0x38 c.ideFail.toNat ++ reg 0x3C c.svn.toNat ++
  regArray o 0x1000 0x40 16 (fun x =>
    let k := c.keys.get x
    let cur := k.gen % 2
    reg 0x0 (2 ^ 31 * b2n k.valid + 2 ^ 30 * b2n k.rotating + 2 ^ 29 * cur + s.genUnits x (cur == 0) % 2 ^ 17) ++ reg 0x4 k.gen ++
    reg 0x8 ((s.ctx x).log.length % 65536)) ++
  regArray o 0x2000 0x20 32 (fun i =>
    regPair 0x0 (s.cons (cid 0x58 i)) ++ regPair 0x8 (s.cons (cid 0x59 i)) ++ reg 0x10 (s.genUnits (i / 2) (i % 2 == 1)))

/-- Codes of R308. -/
def SessSt.code : SessSt → Nat
  | .idle => 0
  | .running => 1
  | .waitBuffer => 2
  | .waitQueue => 3
  | .closing => 4

/-- VID_DSESS[s], VID_ESESS[s]: QUEUED counts submissions queued, not the one in progress (11, R308). -/
def Sess.shown (x : Sess) (inPipe : Bool) : Nat :=
  if x.opened then
    2 ^ 31 + 2 ^ 28 * x.st.code + 2 ^ 24 * x.ctx + 2 ^ 16 * (x.subs.length - b2n inPipe) + x.cfg.buffers
  else 0

/-- Is session `k` in a pipe? -/
def State.sessInPipe (s : State) (k : Nat) : Bool :=
  (upto 3).any fun p => (s.vid.pipes.get p).busy && sessKey (s.vid.pipes.get p).session (s.vid.pipes.get p).enc == k

/-- VID (11, R307-R309). -/
def State.vidRegs (s : State) (o : Nat) : Regs :=
  let v := s.vid
  let opened (enc : Bool) : Nat := (v.sess.filter fun e => e.2.opened && decide (256 ≤ e.1) == enc).length
  reg 0x0 (2 ^ 16 * opened false + 2 ^ 8 * opened true + sumOver (upto 3) fun p => if (v.pipes.get p).busy then 2 ^ p else 0) ++
  reg 0x4 (if v.clkMhz = 0 then 0 else s.codecMhz) ++
  regArray o 0x10 0x10 3 (fun p =>
    let q := v.pipes.get p
    reg 0x0 (2 ^ 31 * b2n q.busy + 2 ^ 24 * q.ctx + 2 ^ 16 * q.session + 2 ^ 12 * q.phase + q.row) ++
    reg 0x4 (if q.busy then (s.time - q.since) / usNs else 0)) ++
  regArray o 0x1000 0x40 16 (fun c =>
    let ev (x : Nat) : Regs := regPair x (s.evReg (vidBase + 0x1000 + 0x40 * c + x))
    reg 0x0 (v.flags.get c).toNat ++ reg 0x4 (s.vidTotal c) ++ reg 0x8 (s.vidTotal c - s.vidHeld c) ++ reg 0xC (s.vidHeld c) ++
    ev 0x10 ++ ev 0x18 ++ ev 0x20 ++ ev 0x28 ++ ev 0x30 ++ ev 0x38) ++
  regArray o 0x2000 4 256 (fun k => reg 0 ((s.sess k).shown (s.sessInPipe k))) ++
  regArray o 0x3000 4 64 (fun k => reg 0 ((s.sess (256 + k)).shown (s.sessInPipe (256 + k))))

/-- LNK (16, R457, R458). -/
def State.lnkRegs (s : State) (o : Nat) : Regs :=
  let l := s.lnk
  reg 0x0 (2 ^ 31 * b2n l.open_ + 2 ^ 16 * l.ownIndex + l.table.length) ++
  reg 0x4 (2 ^ 16 * (l.peers.filter fun e => e.2.st != .empty).length + (s.peersIn .up).length) ++
  regPair 0x8 (s.evReg (lnkBase + 0x8)) ++
  regArray o 0x100 0x40 4 (fun p =>
    let q := s.portAt p
    let ev (x : Nat) : Regs := regPair x (s.evReg (lnkBase + 0x100 + 0x40 * p + x))
    reg 0x0 (2 ^ 28 * q.st.code + 2 ^ 26 * s.portMinor p + 2 ^ 16 * q.lanes.toNat + (s.portSessions p).length) ++
    reg 0x4 (2 ^ 31 * b2n q.present + 2 ^ 30 * b2n q.accepted + 2 ^ 29 * b2n q.alarm + 2 ^ 8 * q.maxPower.toNat + q.temp.toNat) ++
    ev 0x8 ++ ev 0x10 ++ ev 0x18 ++ ev 0x20)

/-- CTL (17, R486, R487). -/
def State.ctlRegs (s : State) (o : Nat) : Regs :=
  let c := s.ctl
  let owner := match c.owner with | none => 0 | some .a => 1 | some .b => 2
  let ev (x : Nat) : Regs := regPair x (s.evReg (ctlBase + x))
  reg 0x0 (2 ^ 30 * owner + 2 ^ 29 * b2n c.gap + 2 ^ 28 * b2n c.planned + 2 ^ 26 * c.restore.code + 2 ^ 20 * c.phase.code) ++
  reg 0x4 (2 ^ 31 * coreNo c.preferred + c.takebackMin) ++ reg 0x8 c.gapLastUs.toNat ++ reg 0xC c.gapMaxUs.toNat ++
  ev 0x10 ++ ev 0x18 ++ ev 0x20 ++ regPair 0x28 (c.mirrorStep.getD (2 ^ 64 - 1)) ++
  reg 0x30 (2 ^ 31 * b2n c.pending + 2 ^ 30 * b2n c.rollback + 2 ^ 29 * b2n c.primaryB + 2 ^ 16 * c.settingsFmt.toNat +
    2 * b2n c.defaulted + b2n c.migrated) ++
  reg 0x34 (2 ^ 28 * c.staging.code + c.stagedKib) ++
  regArray o 0x100 0x10 2 (fun k =>
    let h := c.cores.get k
    reg 0x0 (2 ^ 28 * h.health.code + 2 ^ 16 * (h.failCycles % 256) + 2 ^ 8 * min 255 (lossesNow h.losses s.time).length + h.lastFail) ++
    reg 0x4 h.fwVer.toNat ++ reg 0x8 (s.cleanS (if k = 0 then .a else .b)))

/-- TEL (19, R525, R526). -/
def State.telRegs (s : State) (o : Nat) : Regs :=
  let t := s.tel
  reg 0x0 t.events.toNat ++ reg 0x4 t.wrapLast ++ reg 0x8 t.periodMs ++ reg 0x10 (b2n t.take) ++
  reg 0x14 (2 ^ 31 * b2n t.pending + 2 ^ 30 * b2n t.identityOk + 2 ^ 29 * b2n t.badId) ++
  regPair 0x18 t.snapSeq ++ regPair 0x20 t.snapTime.toNat ++ reg 0x28 t.snapSel ++
  regPair 0x30 (if s.idValid t.snapSel then t.snap.get t.snapSel else 0) ++
  reg 0x40 t.histSel ++ reg 0x44 0 ++ reg 0x48 (sumOver (upto 6) fun h => if (t.hists.get h).sat then 2 ^ h else 0) ++
  regArray o 0x80 4 16 (fun b => reg 0 ((t.hists.get t.histSel).bins.get b).toNat) ++
  regPair 0xC0 t.ltSeq ++ reg 0xC8 t.ltQueue.length

/-- Codes of R104 and R135. -/
def ArrMode.code : ArrMode → Nat
  | .split => 0
  | .press => 1
  | .fence => 2
def Phase.code : Phase → Nat
  | .idle => 0
  | .running => 1
  | .stepFence => 2
  | .checkExt => 3
  | .washPause => 4
  | .switchedOut => 5
  | .watchdog => 6

/-- ARR (03, R71, R72; 04, R103-R105; 05, R134, R135). -/
def State.arrRegs (s : State) (o : Nat) : Regs :=
  let a := s.arr
  reg 0x0 (2 ^ 31 * b2n a.cur.isSome + 2 ^ 24 * a.cur.getD 0 + 2 ^ 16 * b2n a.qclkEqual + a.mode.code) ++
  regPair 0x8 (s.evReg (arrBase + 0x8)) ++ reg 0x10 a.fenceLastNs.toNat ++ reg 0x14 a.fenceMaxNs.toNat ++
  regPair 0x18 (s.evReg (arrBase + 0x18)) ++ reg 0x20 a.openMinPct ++ regPair 0x28 (s.evReg (arrBase + 0x28)) ++
  regArray o 0x1000 0x10 64 (fun n =>
    let k := s.core n
    reg 0x0 (2 ^ 28 * (s.shown n).code + 2 ^ 26 * quadOf n + 2 ^ 25 * b2n k.lsCollide + 2 ^ 24 * b2n k.poisonOut +
      2 ^ 4 * (k.queues.get 0).length + (k.queues.get 3).length) ++
    reg 0x4 k.op.toNat) ++
  regArray o 0x2000 0x40 16 (fun c =>
    let x := s.actx c
    regPair 0x0 x.step ++ regPair 0x8 (x.commit.getD (2 ^ 64 - 1)) ++
    reg 0x10 (2 ^ 28 * x.phase.code + 2 ^ 24 * x.handle + 2 * b2n x.creditFault + b2n x.wdogExpired) ++
    reg 0x14 x.lagNs.toNat ++ reg 0x18 x.lagMaxNs.toNat ++ reg 0x1C x.wdogUs) ++
  regArray o 0x8000 0x20 16 (fun c =>
    let x := s.actx c
    let ev (y : Nat) : Regs := regPair y (s.evReg (arrBase + 0x8000 + 0x20 * c + y))
    reg 0x0 x.seamFlags.toNat ++ reg 0x4 x.seamLastOp.toNat ++ ev 0x8 ++ ev 0x10 ++ ev 0x18)

/-- DPP (06, R157-R159). -/
def State.dppRegs (s : State) : Regs :=
  let d := s.dpp
  let head := if d.busy then d.queue.head? else none
  let ev (x : Nat) : Regs := regPair x (s.evReg (dppBase + x))
  reg 0x0 (2 ^ 31 * b2n d.busy + 2 ^ 30 * b2n head.isSome + 2 ^ 24 * (head.map DppOp.ctx).getD 0 +
    2 ^ 20 * (d.queue.length - b2n d.busy) + d.image) ++
  reg 0x4 d.flags.toNat ++ ev 0x8 ++ ev 0x10 ++ ev 0x18 ++ ev 0x20 ++ ev 0x28 ++
  reg 0x30 d.lastCycles.toNat ++ reg 0x34 d.maxCycles.toNat

/-- Codes of R274. -/
def PatchSt.code : PatchSt → Nat
  | .free => 0
  | .loading => 1
  | .ready => 2
  | .retiring => 3

/-- TSU (10, R273-R275). -/
def State.tsuRegs (s : State) (o : Nat) : Regs :=
  let t := s.tsu
  let head := if t.busy then t.queue.head? else none
  let p := t.patches.get t.selPatch
  let g := t.grams.get t.selGram
  reg 0x0 (2 ^ 31 * b2n t.busy + 2 ^ 30 * b2n head.isSome + 2 ^ 24 * (head.map TsuOp.ctx).getD 0 +
    2 ^ 20 * (t.queue.length - b2n t.busy) + 2 ^ 16 * (head.map fun (q : TsuOp) => (q.desc.getD 0 0).toNat % 16).getD 0 +
    t.lanes.toNat) ++
  regPair 0x8 (s.evReg (tsuBase + 0x8)) ++ regPair 0x10 (s.evReg (tsuBase + 0x10)) ++
  reg 0x20 (2 ^ 16 * t.selGram + t.selPatch) ++
  reg 0x24 (2 ^ 30 * p.st.code + 2 ^ 24 * p.owner + 2 ^ 17 * (if p.st = .free then 0 else p.rank) + p.pins) ++
  reg 0x28 p.version ++ reg 0x2C (2 ^ 31 * b2n g.loaded + 2 ^ 24 * g.owner) ++
  reg 0x40 (s.patchesIn .free) ++ reg 0x44 (s.patchesIn .loading) ++ reg 0x48 (s.patchesIn .ready) ++
  reg 0x4C (s.patchesIn .retiring) ++
  regArray o 0x1000 0x40 16 (fun c =>
    let ev (x : Nat) : Regs := regPair x (s.evReg (tsuBase + 0x1000 + 0x40 * c + x))
    reg 0x0 (t.flags.get c).toNat ++ ev 0x8 ++ ev 0x10 ++ ev 0x18 ++ ev 0x20)

/-- ATN (07, R183-R185). -/
def State.atnRegs (s : State) (o : Nat) : Regs :=
  let a := s.atn
  reg 0x0 (2 ^ 31 * b2n a.busy + 2 ^ 30 * b2n a.ctx.isSome + 2 ^ 24 * a.ctx.getD 0 + 2 ^ 16 * b2n a.press + a.op % 65536) ++
  regPair 0x8 (s.evReg (atnBase + 0x8)) ++ regPair 0x10 (s.evReg (atnBase + 0x10)) ++
  regArray o 0x1000 0x20 16 (fun c =>
    reg 0x0 (a.flags.get c).toNat ++ reg 0x4 ((a.lastOp.get c).getD 0xFFFFFFFF).toNat ++
    regPair 0x8 (s.evReg (atnBase + 0x1008 + 0x20 * c)))

/-- Registers of block `b` of PF0 BAR0 near offset `o` of the block (01, R17). -/
def State.blockRegs (s : State) (b o : Nat) : Regs :=
  match b with
  | 0 => s.glbRegs
  | 1 => s.clkRegs o
  | 2 => s.pwrRegs
  | 3 => s.pegRegs o
  | 4 => s.mbxRegs o
  | 5 => s.cmdRegs o
  | 6 => s.dmaRegs o
  | 7 => s.memRegs o
  | 8 => s.kvpRegs o
  | 9 => s.drnRegs o
  | 10 => s.secRegs o
  | 11 => s.vidRegs o
  | 12 => s.lnkRegs o
  | 13 => s.ctlRegs o
  | 14 => s.telRegs o
  | 15 => s.arrRegs o
  | 16 => s.dppRegs
  | 17 => s.tsuRegs o
  | 18 => s.atnRegs o
  | _ => []

/-- The stage a block is valid from (01, R23). -/
def blockStage (b : Nat) : Nat :=
  if b = 10 then 2 else if b ∈ [0, 2, 5, 13, 14] then 3 else if b ∈ [3, 4, 6, 11, 12] then 4 else if b = 1 then 5
  else if b ∈ [15, 16, 17, 18] then 6 else 7

/-- Blocks whose registers read 0 and ignore writes in DOZE (01, R22). -/
def dozeSilent (b : Nat) : Bool := b ∈ [6, 7, 8, 9, 11, 15, 16, 17, 18]

/-- Is block `b` valid and not silent in DOZE? -/
def State.blockLive (s : State) (b : Nat) : Bool :=
  decide (blockStage b ≤ s.glb.stage) && !(dozeSilent b && s.glb.state == .doze)

/-- Number of a requester (02, R54). -/
def reqNo : Requester → Nat
  | .function f => f.val
  | .controlA => 17
  | .controlB => 18
  | .rtp => 19

/-- A VF reads its own window; PF0, the control cores and the RTP read PF0 BAR0 (15, R400). -/
def ownVf : Requester → Option Nat
  | .function f => if f.val = 0 then none else some f.val
  | _ => none

/-- What the register at offset `o` holds for a requester: before its stage its reset value, 0 in a silent block, none at a
reserved offset (00, R8; 01, R22, R23; 15, R404). -/
def State.regAt (s : State) (by_ : Requester) (o : Nat) : Option RegVal :=
  match ownVf by_ with
  | some f =>
    let src := if s.glb.readyReached then s else State.reset
    ((src.windowRegs f o).find? fun r => r.1 == o).map Prod.snd
  | none =>
    let b := o / 2 ^ 20
    let x := o % 2 ^ 20
    if dozeSilent b && s.glb.state == .doze then none
    else
      let src := if blockStage b ≤ s.glb.stage then s else State.reset
      ((src.blockRegs b x).find? fun r => r.1 == x).map Prod.snd

/-- Can the access reach the module, aligned and inside the BAR (00, R7; 14, R390; 15, R400)? -/
def State.reaches (s : State) (by_ : Requester) (o : Nat) (wide : Bool) : Bool :=
  s.board.powered && o % (if wide then 8 else 4) == 0 &&
  match by_ with
  | .function f => s.host.linkUp && !s.shut f.val && (if f.val = 0 then decide (o < 2 ^ 26) else s.host.vfEnable && decide (o < 2 ^ 20))
  | _ => decide (o < 2 ^ 26)

/-- Place of the latch of a requester for the pair at `o`. -/
def latchKey (by_ : Requester) (o : Nat) : Nat := reqNo by_ * 2 ^ 26 + o

/-- What a read does besides returning a value: an RC field clears (00, R5), and TEL_SNAP_DATA of an ID that names no
counter sets BAD_ID (19, R520). -/
def State.readEffect (s : State) (by_ : Requester) (o : Nat) : State :=
  if (ownVf by_).isSome then s
  else if pegBase + 0x1000 ≤ o && o < pegBase + 0x1400 && o % 0x40 = 4 && s.blockLive 3 then
    s.updLine ((o - (pegBase + 0x1000)) / 0x40) fun l => { l with errCnt := 0 }
  else if (o = 0xE00030 || o = 0xE00034) && s.blockLive 14 && !s.idValid s.tel.snapSel then s.updTel fun t => { t with badId := true }
  else s

/-- A 32-bit read: of a _LO register it latches the other half for this requester; of a _HI register it spends a valid latch
(02, R54). -/
def State.read32 (s : State) (by_ : Requester) (o : Nat) : State :=
  let t := s.readEffect by_ o
  match s.regAt by_ o with
  | none => t.answer 0
  | some (.one v) => t.answer (v % 2 ^ 32)
  | some (.lo v) =>
    (t.updHost fun h => { h with latches := h.latches.set (latchKey by_ o) (some (BitVec.ofNat 32 (v / 2 ^ 32))) }).answer (v % 2 ^ 32)
  | some (.hi v) =>
    match s.host.latches.get (latchKey by_ (o - 4)) with
    | some w => (t.updHost fun h => { h with latches := h.latches.set (latchKey by_ (o - 4)) none }).answer w.toNat
    | none => t.answer (v / 2 ^ 32 % 2 ^ 32)

/-- A 64-bit read covers two registers, the lower offset first, and neither uses nor changes a latch (00, R7; 02, R54). -/
def State.read64 (s : State) (by_ : Requester) (o : Nat) : State :=
  let half (x : Nat) : Nat := ((s.regAt by_ x).map RegVal.word).getD 0
  ((s.readEffect by_ o).readEffect by_ (o + 4)).answer (half o + 2 ^ 32 * half (o + 4))

/-- An access that does not reach the module: one of a function that receives no TLPs is reported, and a read so discarded
returns all ones (00, R7; 14, R390). -/
def State.missed (s : State) (by_ : Requester) (read wide : Bool) : State :=
  match by_ with
  | .function f =>
    let t := s.turnAway f.val
    if read && s.board.powered && s.host.linkUp && s.shut f.val then t.answer (2 ^ (if wide then 64 else 32) - 1) else t
  | _ => s

/-- A register read. -/
def State.readReg (s : State) (by_ : Requester) (o : Nat) (wide : Bool) : State :=
  if !s.reaches by_ o wide then s.missed by_ true wide else if wide then s.read64 by_ o else s.read32 by_ o

/-! ### Writing -/

/-- Element and offset within it of an array of registers. -/
def elemOf (o base stride n : Nat) : Option (Nat × Nat) :=
  if base ≤ o ∧ o < base + stride * n then some ((o - base) / stride, (o - base) % stride) else none

/-- Write to an element of an array, else `k`. -/
def atElem (o base stride n : Nat) (f : Nat → Nat → State) (k : State) : State :=
  match elemOf o base stride n with
  | some (i, r) => f i r
  | none => k

/-- The peg event queue of a function: base and size while HEAD equals TAIL, HEAD within the queue (15, R404, R548). -/
def State.writePeq (s : State) (f o : Nat) (w : Word) : State :=
  let q := s.func f
  let still := q.peqHead == q.peqTail
  let n := 2 ^ (q.peqLog + 6)
  if o = 0x410 then if still && w.extractLsb' 0 12 == 0 then s.updFunc f fun q => { q with peqBase := setHalf q.peqBase false w } else s
  else if o = 0x414 then if still then s.updFunc f fun q => { q with peqBase := setHalf q.peqBase true w } else s
  else if o = 0x418 then
    if still && w.toNat % 16 ≤ 6 then s.updFunc f fun q => { q with peqEnable := w.getLsbD 31, peqLog := w.toNat % 16 } else s
  else if w.toNat < n then
    s.updFunc f fun q => { q with peqHead := w.toNat, peq := q.peq.drop ((w.toNat + n - q.peqHead) % n) }
  else s

/-- Base and size of the video event queue; records kept while a VF's was off are written once it is on; PF0, which has no
video records, holds SIZE and HEAD but ignores BASE (11, R293; 15, R404, R548). -/
def State.writeVeq (s : State) (f o : Nat) (w : Word) : State :=
  let q := s.func f
  if q.veqHead != q.veqTail || f = 0 && o != 0x438 then s
  else if o = 0x430 then if w.extractLsb' 0 12 == 0 then s.updFunc f fun q => { q with veqBase := setHalf q.veqBase false w } else s
  else if o = 0x434 then s.updFunc f fun q => { q with veqBase := setHalf q.veqBase true w }
  else if w.toNat % 16 ≤ 6 then
    let s := s.updFunc f fun q => { q with veqEnable := w.getLsbD 31, veqLog := w.toNat % 16 }
    if s.glb.state = .doze || f = 0 then s else s.veqDrain (f - 1)
  else s

/-- The state a row's meaning leaves. -/
def after (s : State) : Host.Outcome State Fault Refusal → State
  | .next t => t
  | _ => s

/-- A write to a register of function `f`'s window that has a row of its own, on a good link (15, R402-R409). -/
def State.windowRow (s : State) (f o : Nat) (w : Word) : Option State :=
  let fn := Fin.ofNat 17 f
  if o = 0x14 then some (after s (execDbMaskWrite fn w s))
  else if o = 0x400 then some (after s (execTbHeadWrite fn w s))
  else if o = 0x43C then some (after s (execVeqHeadWrite fn w s))
  else match elemOf o 0x100 0x40 8 with
  | some (n, r) =>
    let n := Fin.ofNat 8 n
    match [0x00, 0x04, 0x08, 0x14, 0x18, 0x1C].findIdx? (· == r) with
    | some i => some (after s (execRingReconfigure fn n (Fin.ofNat 6 i) w s))
    | none =>
      if r = 0x0C then some (after s (execSqTailWrite fn n w .good s))
      else if r = 0x20 then some (after s (execCqHeadWrite fn n w s))
      else if r = 0x28 then some (after s (execRingEnableWrite fn n w .good s))
      else none
  | none =>
    match elemOf o 0xF0000 16 32 with
    | some (j, r) => if r = 12 && !w.getLsbD 0 then some (after s (execMsixUnmask fn (Fin.ofNat 32 j) s)) else none
    | none => none

/-- The same in a block of PF0 BAR0 (12, R342; 13, R373; 16, R452; 18, R512; 19, R525). -/
def State.blockRow (s : State) (by_ : Requester) (b o : Nat) (w : Word) : Option State :=
  match b with
  | 1 =>
    if o = 0x04 then some (after s (execClkCtlSrcWrite by_ w s))
    else if o = 0x30 then some (after s (execFmeasStart w s))
    else match elemOf o 0x10 4 6 with
    | some (p, _) => some (after s (execClkPllSettingWrite (Fin.ofNat 6 p) w s))
    | none => none
  | 4 =>
    if o = 0x140 && reqNo by_ == 0 then some (after s (execMbxPost w s))
    else if o = 0x280 && reqNo by_ == 0 then some (after s (execMbxRxPop w s))
    else none
  | 5 => s.windowRow 0 o w
  | 6 => match elemOf o 0x1000 0x20 272 with
    | some (i, r) =>
      let ch := Fin.ofNat 272 i
      if r ≠ 4 then none
      else match w.toNat % 4 with
      | 1 => some (after s (execDmaChResume by_ ch s))
      | 2 => some (after s (execDmaChSkip by_ ch s))
      | 3 => some (after s (execDmaChAbort by_ ch s))
      | _ => none
    | none => none
  | 9 => if o = 0x80 then some (after s (execDrnLastClear w s)) else none
  | 14 =>
    if o = 0x10 then some (after s (execTelSnapTake w s))
    else if o = 0x44 then some (after s (execTelHistClear w s))
    else none
  | _ => none

/-- A write to function `f`'s window, where the register has no row of its own (15, R401, R402, R404). -/
def State.writeWindow (s : State) (f o : Nat) (w : Word) : State :=
  if o = 0x10 then s.updFunc f fun q => { q with dbPend := q.dbPend &&& ~~~w }
  else if 0x410 ≤ o && o < 0x420 then s.writePeq f o w
  else if 0x430 ≤ o && o < 0x43C then s.writeVeq f o w
  else atElem o 0xF0000 16 32 (fun j r =>
    if r < 12 then s.updFunc f fun q => { q with msix := q.msix.set (3 * j + r / 4) (if r = 0 then w &&& ~~~3 else w) }
    else if w.getLsbD 0 then s.updFunc f fun q => { q with msixMask := q.msixMask ||| (1 <<< j) } else s) s

/-- CMD (15, R432, R433). -/
def State.writeCmd (s : State) (o : Nat) (w : Word) : State :=
  let v := w.toNat % 512
  if o = 0x1004 then if 5 ≤ v && v ≤ 300 then s.updHost fun h => { h with timeoutS := v } else s
  else if o = 0x1008 then
    s.updHost fun h => { h with latchEvt := h.latchEvt && !w.getLsbD 30, linkLossEvt := h.linkLossEvt && !w.getLsbD 29 }
  else s.writeWindow 0 o w

/-- PEG (02, R54, R56). -/
def State.writePeg (s : State) (o : Nat) (w : Word) : State :=
  if o = 0x10 then s.updPeg fun p => { p with missHold := w.extractLsb' 16 16, user := w.getLsbD 0 }
  else
    atElem o 0x1000 0x40 16 (fun n r =>
      if r = 4 then s.updLine n fun l =>
        { l with
          reverse := l.reverse && !w.getLsbD 31
          overspeed := l.overspeed && !w.getLsbD 28
          encErr := l.encErr && !w.getLsbD 27
          indexSeen := l.indexSeen && !w.getLsbD 26 }
      else s) <|
    atElem o 0x3000 4 8 (fun k _ => s.updPeg fun p => { p with fired := p.fired.upd k (· &&& ~~~w) }) s

/-- ARR: SCHED_POLICY from PF0 alone (03, R72; 04, R103, R105; 05, R134, R135). -/
def State.writeArr (s : State) (pf0 : Bool) (o : Nat) (w : Word) : State :=
  let pct := w.toNat % 256
  if o = 0x14 then s.updArr fun a => { a with fenceMaxNs := w }
  else if o = 0x20 then if pf0 && 5 ≤ pct && pct ≤ 50 then s.updArr fun a => { a with openMinPct := pct } else s
  else
    atElem o 0x1000 0x10 64 (fun n r =>
      if r = 0 then s.updCore n fun k => { k with lsCollide := k.lsCollide && !w.getLsbD 25, poisonOut := k.poisonOut && !w.getLsbD 24 }
      else s) <|
    atElem o 0x2000 0x40 16 (fun c r =>
      if r = 0x10 then s.updActx c fun x => { x with creditFault := x.creditFault && !w.getLsbD 1, wdogExpired := x.wdogExpired && !w.getLsbD 0 }
      else if r = 0x18 then s.updActx c fun x => { x with lagMaxNs := w } else s) <|
    atElem o 0x8000 0x20 16 (fun c r =>
      if r = 0 then s.updActx c fun x => { x with seamFlags := x.seamFlags &&& ~~~(w.setWidth 5) } else s) s

/-- DMA: the time limit from PF0 alone (12, R346, R347). -/
def State.writeDma (s : State) (pf0 : Bool) (o : Nat) (w : Word) : State :=
  let ms := w.toNat % 1024
  if o = 0 then if pf0 && 1 ≤ ms && ms ≤ 1000 then s.updDma fun d => { d with timeoutMs := ms } else s
  else
    atElem o 0x40 4 9 (fun k _ => s.updDma fun d =>
      { d with eoc := d.eoc.filter fun e => !(e.1 / 32 == k && w.getLsbD (e.1 % 32)) }) <|
    atElem o 0x1000 0x20 272 (fun i r =>
      if r = 0 then s.updChan i fun k => { k with cmdIgnored := k.cmdIgnored && !w.getLsbD 21 } else s) s

/-- MEM: the Rinse periods from PF0 alone, each field by itself (12, R344, R345). -/
def State.writeMem (s : State) (pf0 : Bool) (o : Nat) (w : Word) : State :=
  let sram := w.toNat / 65536
  let hbm := w.toNat % 65536
  if o = 4 then
    if !pf0 then s
    else s.updMem fun m =>
      { m with rinseSram := if 10 ≤ sram && sram ≤ 600 then sram else m.rinseSram
               rinseHbm := if 60 ≤ hbm && hbm ≤ 1440 then hbm else m.rinseHbm }
  else
    atElem o 0x1000 0x20 16 (fun c r =>
      if r = 8 then s.updMem fun m => { m with faults := m.faults.upd c fun f => { f with valid := f.valid && !w.getLsbD 31 } } else s) s

/-- SEC: ENFORCE from PF0 alone (14, R396, R397). -/
def State.writeSec (s : State) (pf0 : Bool) (o : Nat) (w : Word) : State :=
  if o = 0 then s.updSec fun c => { c with rtpLate := c.rtpLate && !w.getLsbD 28 }
  else if o = 0x30 then if pf0 then s.updSec fun c => { c with ideCtrl := w.setWidth 17 } else s
  else if o = 0x38 then s.updSec fun c => { c with ideFail := c.ideFail &&& ~~~(w.setWidth 17) }
  else s

/-- CTL: the policy from PF0 alone; it is an ordinary change of the settings record (17, R485-R487). -/
def State.writeCtl (s : State) (pf0 : Bool) (o : Nat) (w : Word) : State :=
  let tb := w.toNat % 2048
  if o = 4 then
    if !pf0 then s
    else
      let s := s.updCtl fun c =>
        { c with preferred := if w.getLsbD 31 then .b else .a, takebackMin := if tb ≤ 1440 then tb else c.takebackMin }
      let c := s.ctl
      { s with settings := { s.settings with preferred := c.preferred, takebackMin := c.takebackMin } }
  else if o = 0xC then s.updCtl fun c => { c with gapMaxUs := w }
  else s

/-- TEL: the period from PF0 alone (19, R525, R526). -/
def State.writeTel (s : State) (pf0 : Bool) (o : Nat) (w : Word) : State :=
  let ms := w.toNat % 16384
  if o = 0 then s.updTel fun t => { t with events := t.events &&& ~~~(w.setWidth 4) }
  else if o = 8 then if pf0 && 100 ≤ ms && ms ≤ 10000 then s.updTel fun t => { t with periodMs := ms } else s
  else if o = 0x14 then s.updTel fun t => { t with badId := t.badId && !w.getLsbD 29 }
  else if o = 0x28 then s.updTel fun t => { t with snapSel := w.toNat }
  else if o = 0x40 then s.updTel fun t => { t with histSel := w.toNat % 8 }
  else s

/-- A write to block `b` of PF0 BAR0. -/
def State.writeBlock (s : State) (pf0 : Bool) (b o : Nat) (w : Word) : State :=
  match b with
  | 1 => if o = 0x40 then s.updClk fun k => { k with xtalLost := k.xtalLost && !w.getLsbD 31, hung := k.hung &&& ~~~(w.setWidth 7) } else s
  | 2 => if o = 0x20 then s.updPwr fun p => { p with events := p.events &&& ~~~(w.setWidth 7) } else s
  | 3 => s.writePeg o w
  | 4 =>
    if o = 0x10 then s.updMbx fun m => { m with ovf := m.ovf &&& ~~~(w.setWidth 24) }
    else atElem o 0x100 4 16 (fun i _ => s.updMbx fun m => { m with stage := m.stage.set i w }) s
  | 5 => s.writeCmd o w
  | 6 => s.writeDma pf0 o w
  | 7 => s.writeMem pf0 o w
  | 8 =>
    if o = 4 then s.updKvp fun k => { k with dirSel := w.toNat % 2 ^ 17 }
    else atElem o 0x1000 0x40 16 (fun c r =>
      if r = 0x10 then s.updKvp fun k => { k with flags := k.flags.upd c (· &&& ~~~(w.setWidth 5)) } else s) s
  | 9 => if o = 0x100 then s.updDrn fun d => { d with mapSel := w.toNat % 2048 } else s
  | 10 => s.writeSec pf0 o w
  | 11 => atElem o 0x1000 0x40 16 (fun c r =>
      if r = 0 then s.updVid fun v => { v with flags := v.flags.upd c (· &&& ~~~(w.setWidth 8)) } else s) s
  | 12 => atElem o 0x100 0x40 4 (fun p r => if r = 4 then s.updPort p fun q => { q with alarm := q.alarm && !w.getLsbD 29 } else s) s
  | 13 => s.writeCtl pf0 o w
  | 14 => s.writeTel pf0 o w
  | 15 => s.writeArr pf0 o w
  | 16 =>
    if o = 4 then s.updDpp fun d => { d with flags := d.flags &&& ~~~(w.setWidth 5) }
    else if o = 0x34 then s.updDpp fun d => { d with maxCycles := w } else s
  | 17 =>
    if o = 0x20 then s.updTsu fun t => { t with selPatch := w.toNat % 512, selGram := w.toNat / 65536 % 64 }
    else atElem o 0x1000 0x40 16 (fun c r =>
      if r = 0 then s.updTsu fun t => { t with flags := t.flags.upd c (· &&& ~~~(w.setWidth 7)) } else s) s
  | 18 => atElem o 0x1000 0x20 16 (fun c r =>
      if r = 0 then { s with atn := { s.atn with flags := s.atn.flags.upd c (· &&& ~~~(w.setWidth 4)) } } else s) s
  | _ => s

/-- One register written, ignored before its block's stage and in DOZE where R22 says so. -/
def State.write32 (s : State) (by_ : Requester) (o : Nat) (w : Word) : State :=
  match ownVf by_ with
  | some f => if s.glb.readyReached then (s.windowRow f o w).getD (s.writeWindow f o w) else s
  | none =>
    if s.blockLive (o / 2 ^ 20) then
      (s.blockRow by_ (o / 2 ^ 20) (o % 2 ^ 20) w).getD (s.writeBlock (reqNo by_ == 0) (o / 2 ^ 20) (o % 2 ^ 20) w)
    else s

/-- REGISTER_WRITE (00, R4): 32 bits, or two registers, the lower offset first (R7), each with all its write does. -/
def execRegisterWrite (by_ : Requester) (off : Nat) (wide : Bool) (value : BitVec 64) (s : State) :
    Host.Outcome State Fault Refusal :=
  .next <|
    if !s.reaches by_ off wide then s.missed by_ false wide
    else
      let s := s.write32 by_ off (value.extractLsb' 0 32)
      if wide then s.write32 by_ (off + 4) (value.extractLsb' 32 32) else s

/-- RC_READ (00, R5): the read returns the RC field and clears it, from any function. -/
def execRcRead (by_ : Requester) (off : Nat) (wide : Bool) (s : State) : Host.Outcome State Fault Refusal :=
  .next (s.readReg by_ off wide)

/-- LO_READ_LATCH (02, R54): a 32-bit read of a _LO register latches the _HI half; the _HI read that follows spends it. -/
def execLoReadLatch (by_ : Requester) (off : Nat) (s : State) : Host.Outcome State Fault Refusal :=
  .next (s.readReg by_ off false)

end Sys2Proof.Machine
end

