-- ==== Sys2Proof/Machine/Mctp.lean ====
section
/-!
DEFINITION. The MCTP endpoint (15, R431): control, SPDM, and host commands on PF0's ring 8.
-/
namespace Sys2Proof.Machine

/-- The rows in turn, each on the state the one before left. -/
def runRows : List (State → Host.Outcome State Fault Refusal) → State → Host.Outcome State Fault Refusal
  | [], s => .next s
  | f :: fs, s =>
    match f s with
    | .next t => runRows fs t
    | .fault r => .fault r
    | .refused r => .refused r

/-- An opcode that only VFs may send: the checks of R412 end in DENIED for PF0 (15, R415). -/
def vfCommand (c : Cmd) (s : State) : Host.Outcome State Fault Refusal :=
  .next (if vfOnly c.opcode then s.command c [] fun s => .reply s (.of stDenied) else s)

/-- The host-command rows that PF0 may send (15, R415): a packet is the command of one of them, the others pass it by. -/
def pf0Rows (c : Cmd) (doc : AdmissionDoc) (answers : Bool) (bundle : Bundle) (chain : List (BitVec 128)) :
    List (State → Host.Outcome State Fault Refusal) :=
  [execNop c, execNegotiate c, execIdentify c, execCtxOpen c, execCtxClose c, execCtxReset c, execCtxQuery c,
   execLineConfigLine c, execLineConfigTrigger c, execLinePosition c, execPegArm c, execPegDisarm c,
   execAttest c answers, execKeyRotate c, execCreate c doc, execJoin c doc answers, execLeave c, execRekey c doc,
   execFwStage c bundle chain, execLive c, execNextStart c, execFwStatus c, execQuiesce c, execDrain c, execResume c,
   execSetCap c, execSetRamp c, execHeartbeat c, execDoze c, execWake c, execSetLimits c, execPowerQuery c,
   execTelemetrySnapshot c, execLifetimeRead c, execCheckConfig c, execCheckQuery c,
   execSetMode c, execTableEntry c, execPort c, execDropPeer c, execLinkQuery c, vfCommand c, execUndefinedOpcode c]

/-- The RTP answers a message. -/
def State.mctpAnswer (s : State) : State := s.updHost fun h => { h with mctpAnswered := h.mctpAnswered + 1 }

/-- MCTP_MESSAGE: control is answered on I3C whenever the module is powered and on PCIe from stage CORE_A; SPDM and commands
from RTP_BOOT. -/
def execMctpMessage (m : Mctp) (s : State) : Host.Outcome State Fault Refusal :=
  let pcie := s.host.linkUp && decide (3 ≤ s.glb.stage)
  if !s.board.powered then .next s
  else match m with
  | .setEid true eid => .next (s.mctpAnswer.updHost fun h => { h with i3cEid := eid })
  | .setEid false eid => .next (if pcie then s.mctpAnswer.updHost fun h => { h with pcieEid := eid } else s)
  | .dynamicAddress a => .next (s.updHost fun h => { h with i3cAddr := a })
  | .control => .next s.mctpAnswer
  | .spdm _ => .next (if 2 ≤ s.glb.stage then s.mctpAnswer else s)
  | .command bytes doc answers bundle chain => runRows (pf0Rows { fn := 0, ring := 8, bytes } doc answers bundle chain) s

end Sys2Proof.Machine
end

