-- ==== Sys2Proof/Machine/Tsu.lean ====
section
/-!
DEFINITION. The token selection unit: selection distributions, draws, drafts and their verification, lanes, and lockstep
faults (10, R249-R263, R270-R275).
-/
namespace Sys2Proof.Machine

/-! ### Selection (R251, R252, R255) -/

/-- Bits of TSU_FLAGS (R275). -/
def tsuNoFinite : BitVec 7 := 1
def tsuNan : BitVec 7 := 2
def tsuMaskEmpty : BitVec 7 := 4
def tsuPoison : BitVec 7 := 16
def tsuLockstep : BitVec 7 := 32
def tsuInf : BitVec 7 := 64

/-- What a position's selection gives: the selection distribution, flags, and whether the mask was empty. -/
structure Pick where
  dist : List (Nat × Word) := []
  flags : BitVec 7 := 0
  empty : Bool := false
  deriving DecidableEq, Repr, Inhabited

/-- Grammar state and counted outputs, newest first, that a position is selected under. -/
structure TokCtx where
  g : Nat := 0
  window : List Nat := []
  deriving DecidableEq, Repr, Inhabited

/-- The grammar state after token `t` (R257, R259): an end token never moves it. -/
def TokCtx.move (x : TokCtx) (gram : Option Blob) (ends : List Nat) (t : Nat) : TokCtx :=
  { x with g := match gram with
      | some tab => if t ∈ ends then x.g else gramNext tab x.g t
      | none => x.g }
/-- The context after an accepted token, which is counted as it is put out (R261, R262; log 37). -/
def TokCtx.push (x : TokCtx) (gram : Option Blob) (ends : List Nat) (t : Nat) : TokCtx :=
  { x.move gram ends t with window := t :: x.window }

/-- Insert a candidate by descending value, ties to the lower ID: candidates come in ascending ID. -/
def insCand (c : Nat × Word) : List (Nat × Word) → List (Nat × Word)
  | [] => [c]
  | k :: ks => if fLt k.2 c.2 then c :: k :: ks else k :: insCand c ks
/-- The `n` best of a list in ascending ID. -/
def topCands (n : Nat) (l : List (Nat × Word)) : List (Nat × Word) := l.foldl (fun acc c => (insCand c acc).take n) []

/-- Smallest prefix of a list of weights whose running sum reaches `p`. -/
def topPrefix (p : Word) : Word → List (Nat × Word) → List (Nat × Word)
  | _, [] => []
  | acc, c :: cs => if fLt acc p then c :: topPrefix p (fAdd acc c.2) cs else []

def isZeroF (w : Word) : Bool := w &&& 0x7FFFFFFF == 0

/-- The transform of R251 on the logits of one position, for the vocabulary `0 .. v-1`. -/
def selDist (sel : Sel) (gram : Option Blob) (x : TokCtx) (v : Nat) (logit : Nat → Word) : Pick :=
  let win := x.window.take sel.window
  -- penalties over the tokens among the last W outputs
  let z := fun (t : Nat) =>
    let n := win.count t
    if n = 0 then logit t
    else
      let a := logit t
      let a := if fLt fZero a then fDiv a sel.rep else fMul a sel.rep
      fSub a (fAdd sel.pres (fMul (fNat n) sel.freq))
  -- the mask
  let ends := sel.ends.filter (· < v)
  let keepEnd := match gram with
    | some tab => gramAccept tab x.g
    | none => true
  let m2 := fun (t : Nat) =>
    if t ∈ ends then keepEnd
    else match gram with
      | some tab => gramMask tab x.g t
      | none => true
  let m3 := fun (t : Nat) => m2 t && (t ∈ ends || (match sel.allow with
    | some l => decide (t ∈ l)
    | none => true))
  let ids := upto v
  let fell := sel.allow.isSome && !(ids.any m3)
  let ok := if fell then m2 else m3
  let allowed := ids.filter ok
  let f0 : BitVec 7 := (if fell || allowed.isEmpty then tsuMaskEmpty else 0) |||
    (if ids.any fun t => fNan (z t) then tsuNan else 0)
  match allowed with
  | [] => { dist := [((sel.ends.foldl min (sel.ends.headD 0)), fOne)], flags := f0, empty := true }
  | low :: _ =>
    let greedy := isZeroF sel.temp
    let kc := if greedy then 1 else if sel.topK = 0 then 1024 else sel.topK
    let r := sfu .recip sel.temp
    let cs := allowed.filterMap fun t =>
      let a := z t
      if fNan a then none
      else
        let b := if greedy then a else fMul a r
        if fLt fNinf b then some (t, b) else none
    match topCands kc cs with
    | [] => { dist := [(low, fOne)], flags := f0 ||| tsuNoFinite }
    | c0 :: rest =>
      if c0.2 = fInf then { dist := [(c0.1, fOne)], flags := f0 ||| tsuInf }
      else
        let cand := c0 :: rest
        let p := cand.map fun c => sfu .exp (fSub c.2 c0.2)
        let s := sfu .recip (redSum p)
        let ps := (cand.map Prod.fst).zip (p.map fun w => fMul w s)
        let p0 := ((ps.head?).map Prod.snd).getD fZero
        let keep := (topPrefix sel.topP fZero ps).filter fun c => fLe (fMul sel.minP p0) c.2
        let s2 := sfu .recip (redSum (keep.map Prod.snd))
        { dist := keep.map fun c => (c.1, fMul c.2 s2), flags := f0 }

/-- A draw from a distribution with `u` in [0, 1). -/
def drawTok (dist : List (Nat × Word)) (u : Word) : Nat :=
  go dist fZero
where
  go : List (Nat × Word) → Word → Nat
    | [], _ => ((dist.getLast?).map Prod.fst).getD 0
    | c :: cs, acc => let a := fAdd acc c.2; if fLt u a then c.1 else go cs a

/-- The keyed draw of R253: streams 0 SAMPLE, 1 ACCEPT, 2 DRAFT. -/
def keyedU (seed pos stream : Nat) : Word :=
  let h := sha384 (leBytes 8 seed ++ leBytes 4 pos ++ [BitVec.ofNat 8 stream, 0, 0, 0])
  let n := (h.getD 0 0).toNat * 65536 + (h.getD 1 0).toNat * 256 + (h.getD 2 0).toNat
  toFp32 (.fin false n (-24))

/-- Weight of a token in a distribution, 0 if it is not in it. -/
def weightOf (d : List (Nat × Word)) (t : Nat) : Word := ((d.find? fun e => e.1 = t).map Prod.snd).getD fZero

/-- What VERIFY gives: tokens put out, drafts accepted, flags, MASK_EMPTY events, and whether the last token comes from an
empty mask. -/
structure Verified where
  out : List Nat := []
  accepted : Nat := 0
  flags : BitVec 7 := 0
  empties : Nat := 0
  none_ : Bool := false
  deriving DecidableEq, Repr, Inhabited

/-- VERIFY (R261) from draft `i` on: `drafts` with their distributions still to check, `x` the context reached. -/
def verifyFrom (sel : Sel) (gram : Option Blob) (v pos : Nat) (logit : Nat → Nat → Word) :
    List (Nat × List (Nat × Word)) → Nat → TokCtx → Verified
  | [], i, x =>
    let p := selDist sel gram x v (logit i)
    { out := [drawTok p.dist (keyedU sel.seed (pos + i) 0)], flags := p.flags
      empties := b2n (p.flags &&& tsuMaskEmpty != 0), none_ := p.empty }
  | (d, q) :: rest, i, x =>
    let p := selDist sel gram x v (logit i)
    let one := b2n (p.flags &&& tsuMaskEmpty != 0)
    let go := fun (_ : Unit) =>
      let r := verifyFrom sel gram v pos logit rest (i + 1) (x.push gram sel.ends d)
      { r with out := d :: r.out, accepted := r.accepted + 1, flags := r.flags ||| p.flags, empties := r.empties + one }
    let stop := fun (t : Nat) => ({ out := [t], flags := p.flags, empties := one, none_ := p.empty } : Verified)
    if isZeroF sel.temp then
      let a := ((p.dist.head?).map Prod.fst).getD 0
      if a = d && !p.empty then go () else stop a
    else if p.empty then stop (drawTok p.dist (keyedU sel.seed (pos + i) 0))
    else if fLt (fMul (keyedU sel.seed (pos + i) 1) (weightOf q d)) (weightOf p.dist d) then go ()
    else
      let r := p.dist.map fun e => (e.1, fMax fZero (fSub e.2 (weightOf q e.1)))
      let s := redSum (r.map Prod.snd)
      let dist := if fLt fZero s then r.map fun e => (e.1, fMul e.2 (sfu .recip s)) else p.dist
      stop (drawTok dist (keyedU sel.seed (pos + i) 0))

/-! ### Operations (R270, R271) -/

/-- A TSU descriptor, read. -/
structure TsuD where
  phase : Nat
  draft : Nat
  logits : Nat
  table : Nat
  dists : Nat
  v : Nat
  output : Nat
  core : Nat
  reg : Nat
def tsuRead (d : List Byte) : TsuD :=
  { phase := lb d 0 1, draft := lb d 1 1, logits := lb d 2 2, table := lb d 4 2, dists := lb d 6 2, v := lb d 8 4, output := lb d 12 2, core := lb d 14 1
    reg := lb d 15 1 }

/-- Positions of a table row that the operation selects: the first token of a prompt completed, draft `j`, or 1 + d. -/
def State.tsuDue (s : State) (c : Nat) (r : StepRec) (d : TsuD) : List (Nat × Nat) :=
  let rows := s.stepTable c r
  ((upto rows.length).zip rows).flatMap fun e =>
    if e.2.slot = 0xFFFF then []
    else match d.phase with
    | 0 => match s.findReq c e.2.req with
      | some q => if e.2.first < q.prompt && q.prompt ≤ e.2.first + e.2.active then [(e.1, 0)] else []
      | none => []
    | 1 => if d.draft < e.2.drafts then [(e.1, 0)] else []
    | _ => (upto (1 + e.2.drafts)).map fun i => (e.1, i)
/-- Positions still to select. -/
def State.tsuLeft (s : State) (o : TsuOp) : List (Nat × Nat) :=
  match (s.ctx o.ctx).steps.getLast? with
  | some r => (s.tsuDue o.ctx r (tsuRead o.desc)).filter fun p => p ∉ o.done
  | none => []

/-- Row of a buffer with one row a position: 1 + DRAFT_CAP rows an entry in VERIFY, one otherwise (log 37). -/
def State.tsuRow (s : State) (c : Nat) (d : TsuD) (i j : Nat) : Nat :=
  if d.phase = 2 then (1 + imgDraftCap (s.runImage c)) * i + j else i

/-- The operation is over: its credit goes, and it leaves the queue. -/
def State.tsuEnd (s : State) (o : TsuOp) (rest : List TsuOp) : State :=
  let d := tsuRead o.desc
  (s.updTsu fun t => { t with queue := rest, busy := false, lanes := 0 }).addCredit o.ctx d.core d.reg 1

/-- Changes what the running step holds for request `id`. -/
def State.updEntry (s : State) (c id : Nat) (f : Entry → Entry) : State :=
  match (s.ctx c).steps.getLast? with
  | some r => s.updStep c r.k fun r => { r with entries := r.entries.map fun e => if e.req = id then f e else e }
  | none => s

/-- Bytes of a draft distribution in its buffer, which has 1,024 candidates for every draft of every table row (R251; DESIGN
CHOICE, log 139): token and weight, 4 bytes each. -/
def distLen : Nat := 8192
def distBytes (d : List (Nat × Word)) : List Byte := d.flatMap fun e => leBytes 4 e.1 ++ leBytes 4 e.2.toNat
/-- Offset of the distribution of draft `j` of table row `i`. -/
def distOff (cap i j : Nat) : Nat := distLen * (cap * i + j)

/-- Write a token of 4 bytes to row `j` of the output buffer. -/
def State.tsuWrite (s : State) (out : Place) (c j tok : Nat) (poison : Bool) : State :=
  s.updMem fun m => m.putRow (placeKey c out (4 * j)) 32 [(tok, poison)]

/-- The first access for table row `i` that its translation refuses. -/
def State.tsuFault (s : State) (o : TsuOp) (i : Nat) : Option (Bool × Nat × Nat) :=
  let c := o.ctx
  let d := tsuRead o.desc
  match (s.ctx c).steps.getLast? with
  | none => none
  | some r =>
    let drafts := ((s.stepTable c r).getD i {}).drafts
    let n := if d.phase = 2 then 1 + drafts else 1
    let base := s.tsuRow c d i 0
    let cap := imgDraftCap (s.runImage c)
    let dist := s.bufPlace c d.dists r.k
    let vas := placeVas (s.bufPlace c d.table r.k) (16 * i) 16 false ++
      (if d.phase = 1 then placeVas dist (distOff cap i d.draft) distLen true
       else if d.phase = 2 then placeVas dist (distOff cap i 0) (distLen * drafts) false else []) ++ placeVas (s.bufPlace c d.logits r.k) (4 * d.v * base) (4 * d.v * n) false ++
      placeVas (s.bufPlace c d.output r.k) (4 * base) (4 * n) true
    vas.findSome? fun a => (s.vaFault c a.1 a.2.1 a.2.2).map fun f => (a.2.2, f.1, f.2)

/-- Selection at one position: its effect on the step. -/
def State.tsuPosition (s : State) (o : TsuOp) (i j : Nat) : State :=
  let c := o.ctx
  let d := tsuRead o.desc
  match (s.ctx c).steps.getLast? with
  | none => s
  | some r =>
    let e := (s.stepTable c r).getD i {}
    match s.findReq c e.req with
    | none => s
    | some q =>
      let sel := q.sel
      let gram := sel.grammar.map fun g => (s.tsu.grams.get g).table
      let st := s.tsuSeq e.slot r.k
      let x : TokCtx := { g := st.gstate, window := st.window }
      let lg := s.bufPlace c d.logits r.k
      let out := s.bufPlace c d.output r.k
      let row := s.tsuRow c d i j
      let lk := fun (row t : Nat) => placeKey c lg (4 * (d.v * row + t))
      let dist := fun (m : Nat) => placeKey c (s.bufPlace c d.dists r.k) (distOff (imgDraftCap (s.runImage c)) i m)
      -- a poisoned logit, or what the unit reads of its step: the table row, and in VERIFY the draft distributions
      let bad := ((upto d.v).any fun t => s.mem.poisoned (lk row t)) ||
        s.mem.poisonedRun (placeKey c (s.bufPlace c d.table r.k) (16 * i)) 16 ||
        (d.phase == 2 && (upto e.drafts).any fun m => s.mem.poisonedRun (dist m) (8 * ((e.draftDist.getD m []).length)))
      let s := (s.chargeRun c { positions := 1, tsu := if bad then tsuPoison else 0 }).poisonRun c bad
      match d.phase with
      | 0 =>
        let p := selDist sel gram x d.v fun t => BitVec.ofNat 32 (s.mem.leAt (lk row t) 4)
        let tok := drawTok p.dist (keyedU sel.seed q.prompt 0)
        let s := s.chargeRun c { tsu := p.flags, maskEmpty := b2n (p.flags &&& tsuMaskEmpty != 0) }
        (s.updEntry c e.req fun e => { e with tokens := [tok], reason := if p.empty then 11 else e.reason }).tsuWrite
          out c row tok bad
      | 1 =>
        let x := (e.draftTok.take d.draft).foldl (fun x t => x.move gram sel.ends t) x
        let p := selDist sel gram x d.v fun t => BitVec.ofNat 32 (s.mem.leAt (lk row t) 4)
        let tok := drawTok p.dist (keyedU sel.seed (e.first + 1 + d.draft) 2)
        let s := s.chargeRun c { tsu := p.flags, proposed := 1, maskEmpty := b2n (p.flags &&& tsuMaskEmpty != 0) }
        let s := s.updMem fun m => m.putRow (dist d.draft) 8 ((distBytes p.dist).map fun b => (b.toNat, bad))
        (s.updEntry c e.req fun e =>
          { e with draftTok := e.draftTok.take d.draft ++ [tok], draftDist := e.draftDist.take d.draft ++ [p.dist] }).tsuWrite
          out c row tok bad
      | _ =>
        -- the tokens put out follow once every position of the row is selected
        let done := o.done ++ [(i, j)]
        if !((upto (1 + e.drafts)).all fun m => (i, m) ∈ done) then s
        else
          let first := s.tsuRow c d i 0
          let v := verifyFrom sel gram d.v (e.first + 1) (fun m t => BitVec.ofNat 32 (s.mem.leAt (lk (first + m) t) 4))
            ((e.draftTok.zip e.draftDist).take e.drafts) 0 x
          let full := decide (1 ≤ e.drafts) && v.accepted == 0
          let s := s.chargeRun c { tsu := v.flags, accepted := v.accepted, fullRej := b2n full, maskEmpty := v.empties }
          let s := s.updEntry c e.req fun e =>
            { e with tokens := v.out, accepted := v.accepted, reason := if v.none_ then 11 else e.reason }
          foldS ((upto v.out.length).zip v.out) (fun s t =>
            s.tsuWrite out c (first + t.1) t.2 ((upto d.v).any fun k => s.mem.poisoned (lk (first + t.1) k))) s

/-- The low `n` of 16 lanes. -/
def lanesOf (n : Nat) : BitVec 16 := BitVec.ofNat 16 (2 ^ min 16 n - 1)

/-- TSU_OPERATION: the TSU takes up the operation at the head of its queue, on as many lanes as it has positions; with
`mismatch` its two copies differ (R272). -/
def execTsuOperation (mismatch : Bool) (s : State) : Host.Outcome State Fault Refusal :=
  match s.tsu.queue with
  | [] => .next s
  | o :: rest =>
    if mismatch then
      let now := s.mstep
      let s := ((s.bump (tsuBase + 0x10)).lifetime 0x0023 [1]).lockstepDrain s.tsu.lastLockstep 65
      let s := s.updTsu fun t =>
        { t with queue := rest, busy := false, lanes := 0, flags := t.flags.upd o.ctx (· ||| tsuLockstep)
                 lastLockstep := some now }
      .next (s.markLockstep o.ctx)
    else if s.tsu.busy then .next s
    else
      let n := (s.tsuLeft o).length
      let s := s.updTsu fun t => { t with busy := true, lanes := lanesOf n }
      if n = 0 then .next (s.tsuEnd o rest) else .next s

/-- TSU_POSITION_DONE: a busy lane finishes position `index` of table row `entry`, and takes another if more are left than
the other busy lanes hold; the last position ends the operation. -/
def execTsuPositionDone (lane : Fin 16) (entry index : Nat) (s : State) : Host.Outcome State Fault Refusal :=
  match s.tsu.queue with
  | [] => .next s
  | o :: rest =>
    if !s.tsu.busy || !s.tsu.lanes.getLsbD lane.val || (entry, index) ∉ s.tsuLeft o then .next s
    else match s.tsuFault o entry with
    | some (w, va, cause) => .next (s.latchFault o.ctx w (va, cause))
    | none =>
      let s := s.tsuPosition o entry index
      let o := { o with done := o.done ++ [(entry, index)] }
      let s := s.updTsu fun t => { t with queue := o :: rest }
      let left := (s.tsuLeft o).length
      if left = 0 then .next (s.tsuEnd o rest)
      else
        let busy := ((upto 16).filter fun l => s.tsu.lanes.getLsbD l).length
        let s := if left < busy then s.updTsu fun t => { t with lanes := t.lanes &&& ~~~(BitVec.ofNat 16 (2 ^ lane.val)) } else s
        .next s

end Sys2Proof.Machine
end

