-- ==== Sys2Proof/Machine/Dispatch.lean ====
section
/-!
DEFINITION. One arm for each command of the table: a direct call of its meaning.
-/
namespace Sys2Proof.Machine

def exec (i : Instr) (s : State) : Host.Outcome State Fault Refusal :=
  match i with
  | .nop c => Sys2Proof.Machine.execNop c s
  | .negotiate c => Sys2Proof.Machine.execNegotiate c s
  | .identify c => Sys2Proof.Machine.execIdentify c s
  | .undefinedOpcode c => Sys2Proof.Machine.execUndefinedOpcode c s
  | .ctxOpen c => Sys2Proof.Machine.execCtxOpen c s
  | .ctxClose c => Sys2Proof.Machine.execCtxClose c s
  | .ctxReset c => Sys2Proof.Machine.execCtxReset c s
  | .ctxQuery c => Sys2Proof.Machine.execCtxQuery c s
  | .schedLoad c img => Sys2Proof.Machine.execSchedLoad c img s
  | .schedUnload c => Sys2Proof.Machine.execSchedUnload c s
  | .weightsLoad c pkg unwrapOk tagsOk => Sys2Proof.Machine.execWeightsLoad c pkg unwrapOk tagsOk s
  | .weightsUnload c => Sys2Proof.Machine.execWeightsUnload c s
  | .patchLoad c pkg => Sys2Proof.Machine.execPatchLoad c pkg s
  | .patchRetire c => Sys2Proof.Machine.execPatchRetire c s
  | .grammarLoad c table => Sys2Proof.Machine.execGrammarLoad c table s
  | .grammarUnload c => Sys2Proof.Machine.execGrammarUnload c s
  | .reqSubmit c => Sys2Proof.Machine.execReqSubmit c s
  | .reqCancel c => Sys2Proof.Machine.execReqCancel c s
  | .reqQuery c => Sys2Proof.Machine.execReqQuery c s
  | .accountSet c => Sys2Proof.Machine.execAccountSet c s
  | .accountQuery c => Sys2Proof.Machine.execAccountQuery c s
  | .prefixPin c => Sys2Proof.Machine.execPrefixPin c s
  | .prefixRelease c => Sys2Proof.Machine.execPrefixRelease c s
  | .jobRun c => Sys2Proof.Machine.execJobRun c s
  | .jobAbort c => Sys2Proof.Machine.execJobAbort c s
  | .vidOpen c => Sys2Proof.Machine.execVidOpen c s
  | .decodeAu c => Sys2Proof.Machine.execDecodeAu c s
  | .encode c => Sys2Proof.Machine.execEncode c s
  | .release c hostList => Sys2Proof.Machine.execRelease c hostList s
  | .acquire c => Sys2Proof.Machine.execAcquire c s
  | .eos c => Sys2Proof.Machine.execEos c s
  | .vidClose c => Sys2Proof.Machine.execVidClose c s
  | .vidReconfig c => Sys2Proof.Machine.execVidReconfig c s
  | .lineConfigLine c => Sys2Proof.Machine.execLineConfigLine c s
  | .lineConfigTrigger c => Sys2Proof.Machine.execLineConfigTrigger c s
  | .linePosition c => Sys2Proof.Machine.execLinePosition c s
  | .pegArm c => Sys2Proof.Machine.execPegArm c s
  | .pegDisarm c => Sys2Proof.Machine.execPegDisarm c s
  | .attest c answers => Sys2Proof.Machine.execAttest c answers s
  | .keyRotate c => Sys2Proof.Machine.execKeyRotate c s
  | .create c doc => Sys2Proof.Machine.execCreate c doc s
  | .join c doc sponsorAnswers => Sys2Proof.Machine.execJoin c doc sponsorAnswers s
  | .leave c => Sys2Proof.Machine.execLeave c s
  | .rekey c doc => Sys2Proof.Machine.execRekey c doc s
  | .fwStage c bundle chain => Sys2Proof.Machine.execFwStage c bundle chain s
  | .live c => Sys2Proof.Machine.execLive c s
  | .nextStart c => Sys2Proof.Machine.execNextStart c s
  | .fwStatus c => Sys2Proof.Machine.execFwStatus c s
  | .quiesce c => Sys2Proof.Machine.execQuiesce c s
  | .drain c => Sys2Proof.Machine.execDrain c s
  | .resume c => Sys2Proof.Machine.execResume c s
  | .setCap c => Sys2Proof.Machine.execSetCap c s
  | .setRamp c => Sys2Proof.Machine.execSetRamp c s
  | .heartbeat c => Sys2Proof.Machine.execHeartbeat c s
  | .doze c => Sys2Proof.Machine.execDoze c s
  | .wake c => Sys2Proof.Machine.execWake c s
  | .setLimits c => Sys2Proof.Machine.execSetLimits c s
  | .powerQuery c => Sys2Proof.Machine.execPowerQuery c s
  | .telemetrySnapshot c => Sys2Proof.Machine.execTelemetrySnapshot c s
  | .lifetimeRead c => Sys2Proof.Machine.execLifetimeRead c s
  | .checkConfig c => Sys2Proof.Machine.execCheckConfig c s
  | .checkQuery c => Sys2Proof.Machine.execCheckQuery c s
  | .setMode c => Sys2Proof.Machine.execSetMode c s
  | .tableEntry c => Sys2Proof.Machine.execTableEntry c s
  | .port c => Sys2Proof.Machine.execPort c s
  | .dropPeer c => Sys2Proof.Machine.execDropPeer c s
  | .linkQuery c => Sys2Proof.Machine.execLinkQuery c s
  | .sqTailWrite fn ring value pcie => Sys2Proof.Machine.execSqTailWrite fn ring value pcie s
  | .cqHeadWrite fn ring value => Sys2Proof.Machine.execCqHeadWrite fn ring value s
  | .ringEnableWrite fn ring value pcie => Sys2Proof.Machine.execRingEnableWrite fn ring value pcie s
  | .ringReconfigure fn ring reg value => Sys2Proof.Machine.execRingReconfigure fn ring reg value s
  | .tbHeadWrite fn value => Sys2Proof.Machine.execTbHeadWrite fn value s
  | .veqHeadWrite fn value => Sys2Proof.Machine.execVeqHeadWrite fn value s
  | .dbMaskWrite fn value => Sys2Proof.Machine.execDbMaskWrite fn value s
  | .mbxPost value => Sys2Proof.Machine.execMbxPost value s
  | .mbxRxPop value => Sys2Proof.Machine.execMbxRxPop value s
  | .dmaChResume by_ ch => Sys2Proof.Machine.execDmaChResume by_ ch s
  | .dmaChSkip by_ ch => Sys2Proof.Machine.execDmaChSkip by_ ch s
  | .dmaChAbort by_ ch => Sys2Proof.Machine.execDmaChAbort by_ ch s
  | .clkCtlSrcWrite by_ value => Sys2Proof.Machine.execClkCtlSrcWrite by_ value s
  | .muxSwitchDone mux => Sys2Proof.Machine.execMuxSwitchDone mux s
  | .fmeasStart value => Sys2Proof.Machine.execFmeasStart value s
  | .fmeasDone edges => Sys2Proof.Machine.execFmeasDone edges s
  | .telSnapTake value => Sys2Proof.Machine.execTelSnapTake value s
  | .telHistClear value => Sys2Proof.Machine.execTelHistClear value s
  | .drnLastClear value => Sys2Proof.Machine.execDrnLastClear value s
  | .registerWrite by_ off wide value => Sys2Proof.Machine.execRegisterWrite by_ off wide value s
  | .rcRead by_ off wide => Sys2Proof.Machine.execRcRead by_ off wide s
  | .loReadLatch by_ off => Sys2Proof.Machine.execLoReadLatch by_ off s
  | .unsupportedAccess fn off width isRead => Sys2Proof.Machine.execUnsupportedAccess fn off width isRead s
  | .configRequest fn vfEnable => Sys2Proof.Machine.execConfigRequest fn vfEnable s
  | .interlockHeartbeat core => Sys2Proof.Machine.execInterlockHeartbeat core s
  | .releaseFault core => Sys2Proof.Machine.execReleaseFault core s
  | .releasePlanned core => Sys2Proof.Machine.execReleasePlanned core s
  | .take core inp => Sys2Proof.Machine.execTake core inp s
  | .encoderTransition line kind tooFast => Sys2Proof.Machine.execEncoderTransition line kind tooFast s
  | .indexPulse line => Sys2Proof.Machine.execIndexPulse line s
  | .triggerEdge trigger rising => Sys2Proof.Machine.execTriggerEdge trigger rising s
  | .lineStopped line => Sys2Proof.Machine.execLineStopped line s
  | .velocityUpdate => Sys2Proof.Machine.execVelocityUpdate s
  | .missHoldExpiry => Sys2Proof.Machine.execMissHoldExpiry s
  | .stepBegin ctx => Sys2Proof.Machine.execStepBegin ctx s
  | .opBegin core op temp => Sys2Proof.Machine.execOpBegin core op temp s
  | .issue core queue desc => Sys2Proof.Machine.execIssue core queue desc s
  | .creditWait core reg count => Sys2Proof.Machine.execCreditWait core reg count s
  | .creditWaitRelease core => Sys2Proof.Machine.execCreditWaitRelease core s
  | .creditSend core dst reg count => Sys2Proof.Machine.execCreditSend core dst reg count s
  | .checkSlot core cycles equal => Sys2Proof.Machine.execCheckSlot core cycles equal s
  | .modeFence core press => Sys2Proof.Machine.execModeFence core press s
  | .modeFenceProceed excessNs => Sys2Proof.Machine.execModeFenceProceed excessNs s
  | .stepFence core => Sys2Proof.Machine.execStepFence core s
  | .loop core count target => Sys2Proof.Machine.execLoop core count target s
  | .waitDma core channel count => Sys2Proof.Machine.execWaitDma core channel count s
  | .waitDmaRelease core => Sys2Proof.Machine.execWaitDmaRelease core s
  | .opEnd core op urgent => Sys2Proof.Machine.execOpEnd core op urgent s
  | .engineInstructionStart core queue => Sys2Proof.Machine.execEngineInstructionStart core queue s
  | .stepFenceComplete ctx inp => Sys2Proof.Machine.execStepFenceComplete ctx inp s
  | .stepWatchdogExpiry ctx => Sys2Proof.Machine.execStepWatchdogExpiry ctx s
  | .forcedWashPause act => Sys2Proof.Machine.execForcedWashPause act s
  | .washPauseEnd => Sys2Proof.Machine.execWashPauseEnd s
  | .dppOperation mismatch => Sys2Proof.Machine.execDppOperation mismatch s
  | .dppImageDone cycles => Sys2Proof.Machine.execDppImageDone cycles s
  | .tsuOperation mismatch => Sys2Proof.Machine.execTsuOperation mismatch s
  | .tsuPositionDone lane entry index => Sys2Proof.Machine.execTsuPositionDone lane entry index s
  | .move ch ins meets => Sys2Proof.Machine.execMove ch ins meets s
  | .mmuFaultResolve ctx ch core => Sys2Proof.Machine.execMmuFaultResolve ctx ch core s
  | .moveComplete ch => Sys2Proof.Machine.execMoveComplete ch s
  | .dmaLoop ch ins => Sys2Proof.Machine.execDmaLoop ch ins s
  | .wait ch ins => Sys2Proof.Machine.execWait ch ins s
  | .waitSatisfied ch => Sys2Proof.Machine.execWaitSatisfied ch s
  | .signal ch ins => Sys2Proof.Machine.execSignal ch ins s
  | .accessError ch err write space addr offset => Sys2Proof.Machine.execAccessError ch err write space addr offset s
  | .transactionTimeout ch tag write space addr offset => Sys2Proof.Machine.execTransactionTimeout ch tag write space addr offset s
  | .lateResponse tag => Sys2Proof.Machine.execLateResponse tag s
  | .tagQuarantineEnd tag => Sys2Proof.Machine.execTagQuarantineEnd tag s
  | .chTimeout ch => Sys2Proof.Machine.execChTimeout ch s
  | .rinseUnit kind addr hits => Sys2Proof.Machine.execRinseUnit kind addr hits s
  | .weightReloadDone ctx => Sys2Proof.Machine.execWeightReloadDone ctx s
  | .keyPassUnit ctx raced => Sys2Proof.Machine.execKeyPassUnit ctx raced s
  | .accountRefill => Sys2Proof.Machine.execAccountRefill s
  | .nostepBoundary => Sys2Proof.Machine.execNostepBoundary s
  | .tokenRingTimeout ctx => Sys2Proof.Machine.execTokenRingTimeout ctx s
  | .pictureStart pic => Sys2Proof.Machine.execPictureStart pic s
  | .pictureDone pipe res => Sys2Proof.Machine.execPictureDone pipe res s
  | .sliceDone bits last data => Sys2Proof.Machine.execSliceDone bits last data s
  | .pictureWatchdog pipe res => Sys2Proof.Machine.execPictureWatchdog pipe res s
  | .powerControllerTick inputDw thermalW => Sys2Proof.Machine.execPowerControllerTick inputDw thermalW s
  | .pmbusTelemetry vin iin pin temp => Sys2Proof.Machine.execPmbusTelemetry vin iin pin temp s
  | .brakeAssert => Sys2Proof.Machine.execBrakeAssert s
  | .brakeRelease => Sys2Proof.Machine.execBrakeRelease s
  | .pwrWarnAssert => Sys2Proof.Machine.execPwrWarnAssert s
  | .pwrWarnRelease => Sys2Proof.Machine.execPwrWarnRelease s
  | .coolantFault flow inlet => Sys2Proof.Machine.execCoolantFault flow inlet s
  | .coolantFaultClear flow inlet => Sys2Proof.Machine.execCoolantFaultClear flow inlet s
  | .dieSensorRead temps => Sys2Proof.Machine.execDieSensorRead temps s
  | .dozeEntryTimeout => Sys2Proof.Machine.execDozeEntryTimeout s
  | .thermalRelease => Sys2Proof.Machine.execThermalRelease s
  | .heartbeatLoss => Sys2Proof.Machine.execHeartbeatLoss s
  | .orphan => Sys2Proof.Machine.execOrphan s
  | .xtalLost => Sys2Proof.Machine.execXtalLost s
  | .muxHung mux => Sys2Proof.Machine.execMuxHung mux s
  | .crystalStable => Sys2Proof.Machine.execCrystalStable s
  | .enSenseMake => Sys2Proof.Machine.execEnSenseMake s
  | .switchOpen cause => Sys2Proof.Machine.execSwitchOpen cause s
  | .powerGood => Sys2Proof.Machine.execPowerGood s
  | .stageComplete stage res => Sys2Proof.Machine.execStageComplete stage res s
  | .stageTimeout => Sys2Proof.Machine.execStageTimeout s
  | .crystalTimeout => Sys2Proof.Machine.execCrystalTimeout s
  | .perstAssert => Sys2Proof.Machine.execPerstAssert s
  | .flrVf ctx => Sys2Proof.Machine.execFlrVf ctx s
  | .flrPf0 vfEnableCleared => Sys2Proof.Machine.execFlrPf0 vfEnableCleared s
  | .linkLoss => Sys2Proof.Machine.execLinkLoss s
  | .latchOpen => Sys2Proof.Machine.execLatchOpen s
  | .mctpMessage m => Sys2Proof.Machine.execMctpMessage m s
  | .doeRequest fn secure => Sys2Proof.Machine.execDoeRequest fn secure s
  | .ideIntegrityFail fn => Sys2Proof.Machine.execIdeIntegrityFail fn s
  | .tlpOutsideStream fn => Sys2Proof.Machine.execTlpOutsideStream fn s
  | .commandTimeout fn ring seq => Sys2Proof.Machine.execCommandTimeout fn ring seq s
  | .rtpLate => Sys2Proof.Machine.execRtpLate s
  | .drainLimit => Sys2Proof.Machine.execDrainLimit s
  | .heartbeatTimeout => Sys2Proof.Machine.execHeartbeatTimeout s
  | .gapExpiry => Sys2Proof.Machine.execGapExpiry s
  | .selfTestCycle fail => Sys2Proof.Machine.execSelfTestCycle fail s
  | .takeBack => Sys2Proof.Machine.execTakeBack s
  | .subHeartbeatMiss sub => Sys2Proof.Machine.execSubHeartbeatMiss sub s
  | .soakStandbyDone => Sys2Proof.Machine.execSoakStandbyDone s
  | .soakStandbyTimeout => Sys2Proof.Machine.execSoakStandbyTimeout s
  | .soakActiveEnd => Sys2Proof.Machine.execSoakActiveEnd s
  | .recoveryReset => Sys2Proof.Machine.execRecoveryReset s
  | .relay f last bundle next => Sys2Proof.Machine.execRelay f last bundle next s
  | .relayReport hop cause => Sys2Proof.Machine.execRelayReport hop cause s
  | .relayReportTimeout => Sys2Proof.Machine.execRelayReportTimeout s
  | .cableInsertion port => Sys2Proof.Machine.execCableInsertion port s
  | .cableRemoval port => Sys2Proof.Machine.execCableRemoval port s
  | .cableInitDone port active maxPower ready temp => Sys2Proof.Machine.execCableInitDone port active maxPower ready temp s
  | .cableInitTimeout port => Sys2Proof.Machine.execCableInitTimeout port s
  | .trainDone port lanes peerV12 => Sys2Proof.Machine.execTrainDone port lanes peerV12 s
  | .trainTimeout port => Sys2Proof.Machine.execTrainTimeout port s
  | .retryExpiry port => Sys2Proof.Machine.execRetryExpiry port s
  | .laneLoss port => Sys2Proof.Machine.execLaneLoss port s
  | .cablePoll port alarm temp => Sys2Proof.Machine.execCablePoll port alarm temp s
  | .keepaliveSend entry => Sys2Proof.Machine.execKeepaliveSend entry s
  | .missedWindow entry => Sys2Proof.Machine.execMissedWindow entry s
  | .hello f h => Sys2Proof.Machine.execHello f h s
  | .data f => Sys2Proof.Machine.execData f s
  | .confirm f => Sys2Proof.Machine.execConfirm f s
  | .revoke f => Sys2Proof.Machine.execRevoke f s
  | .mbx f macOk => Sys2Proof.Machine.execMbx f macOk s
  | .mbxNak f => Sys2Proof.Machine.execMbxNak f s
  | .credit f count => Sys2Proof.Machine.execCredit f count s
  | .keepalive f => Sys2Proof.Machine.execKeepalive f s
  | .bye f => Sys2Proof.Machine.execBye f s
  | .mailboxWrite m senderClass senderIndex bytes => Sys2Proof.Machine.execMailboxWrite m senderClass senderIndex bytes s
  | .periodicSnapshot => Sys2Proof.Machine.execPeriodicSnapshot s
  | .snapshotCapture => Sys2Proof.Machine.execSnapshotCapture s
  | .lifetimeFlush => Sys2Proof.Machine.execLifetimeFlush s
  | .summaryWrite => Sys2Proof.Machine.execSummaryWrite s
  | .perstDeassert => Sys2Proof.Machine.execPerstDeassert s
  | .pcieLinkUp speed width => Sys2Proof.Machine.execPcieLinkUp speed width s
  | .latchClose => Sys2Proof.Machine.execLatchClose s
  | .msixUnmask fn vector => Sys2Proof.Machine.execMsixUnmask fn vector s
  | .clkPllSettingWrite pll value => Sys2Proof.Machine.execClkPllSettingWrite pll value s
  | .weightReloadTimeout ctx => Sys2Proof.Machine.execWeightReloadTimeout ctx s
  | .sponsorTimeout => Sys2Proof.Machine.execSponsorTimeout s
  | .inputInRange => Sys2Proof.Machine.execInputInRange s
  | .tripLatchClear => Sys2Proof.Machine.execTripLatchClear s

end Sys2Proof.Machine
end

