-- ==== Sys2Proof/Machine/Step.lean ====
section
/-!
DEFINITION. One step: the command at the front of the queue, or the passing of time.
-/
namespace Sys2Proof.Machine

/-- Take the command at the front of the queue and run it on the state with the queue's rest.  On an empty queue the
block idles: time passes and mail is taken (DESIGN CHOICE, logs 2 and 46). -/
def step (s : State) : Host.Outcome State Fault Refusal :=
  match s.pending with
  | [] => .next (State.idle s)
  | c :: rest => exec c { s with pending := rest }

/-- The state with the command a word of the table spells put at the front of the queue (no word spells one). -/
def State.withFetchWord (s : State) (nbits w : Nat) : State :=
  match decodeTableWord nbits w with
  | some i => { s with pending := i :: s.pending }
  | none => s

end Sys2Proof.Machine
end

