-- ==== Sys2Proof/Safety.lean ====
section
/-!
DEFINITION. The words the statements use: when a command runs, when a host command is accepted and what answers it,
which blocks of the state stay as they are.
-/
namespace Sys2Proof

open Sys2Proof.Machine

/-- The command runs: exec answers a next state, no fault and no refusal. -/
def Runs (i : Instr) (s : State) : Prop := ∃ t, exec i s = .next t

/-- The memory of the state is in its canonical form. -/
def MemWf (s : State) : Prop := s.mem.wf = true

/-- The packet is a command of opcode `op` that the module fetches in sequence and that passes checks 2 to 5 of R412:
version, opcode, sender, features, module state and context; its reserved flag bits are 0. -/
def accepts (s : State) (c : Cmd) (op : Nat) (feats : List Nat) : Bool :=
  decide (c.opcode = op) && s.fetchable c && decide (c.seq = s.expects c) && (s.gate c feats).isNone && !Cmd.badFlags c

/-- The parameter bytes an opcode does not list are 0 (15, R411, R412). -/
def reservedZero (c : Cmd) (used : List (Nat × Nat)) : Bool := (Cmd.unlisted c used).isNone

/-- The command has its completion: the newest command its ring keeps is this one, with this status, detail and result
(15, R411, R413). -/
def Answered (t : State) (c : Cmd) (r : Reply) : Prop :=
  (t.ring c.fn.val c.ring.val).kept.head? =
    some { seq := c.seq, bytes := c.masked, copies := 0
           comp := some { seq := c.seq, status := r.status, detail := r.detail, result := r.result } }

/-- The command is in flight and waits for `w`. -/
def Waits (t : State) (c : Cmd) (w : WaitFor) : Prop :=
  ∃ i ∈ t.host.inflight, i.fn = c.fn.val ∧ i.ring = c.ring.val ∧ i.seq = c.seq ∧ i.wait = w

/-- The blocks of the state. -/
inductive Block where
  | time | fresh | glb | peg | host | ctxs | kvp | arr | atn | dpp | tsu | mem | dma | drn | sec | vid | mbx | lnk | ctl | clk
  | pwr | settings | settingsPrev | tel | board
  deriving DecidableEq, Repr

/-- The two states agree on a block. -/
def Block.same (s t : State) : Block → Prop
  | .time => t.time = s.time
  | .fresh => t.fresh = s.fresh
  | .glb => t.glb = s.glb
  | .peg => t.peg = s.peg
  | .host => t.host = s.host
  | .ctxs => t.ctxs = s.ctxs
  | .kvp => t.kvp = s.kvp
  | .arr => t.arr = s.arr
  | .atn => t.atn = s.atn
  | .dpp => t.dpp = s.dpp
  | .tsu => t.tsu = s.tsu
  | .mem => t.mem = s.mem
  | .dma => t.dma = s.dma
  | .drn => t.drn = s.drn
  | .sec => t.sec = s.sec
  | .vid => t.vid = s.vid
  | .mbx => t.mbx = s.mbx
  | .lnk => t.lnk = s.lnk
  | .ctl => t.ctl = s.ctl
  | .clk => t.clk = s.clk
  | .pwr => t.pwr = s.pwr
  | .settings => t.settings = s.settings
  | .settingsPrev => t.settingsPrev = s.settingsPrev
  | .tel => t.tel = s.tel
  | .board => t.board = s.board

/-- A frame: every block but the listed ones, and the queue, stay as they are. -/
def KeepsBut (changed : List Block) (s t : State) : Prop :=
  t.pending = s.pending ∧ ∀ b, b ∉ changed → b.same s t

/-- The blocks that fetching and completing a host command touch: its ring and doorbell, its counters. -/
def cmdBlocks : List Block := [.host, .tel]

/-- Every ring pair but ring `n` of function `f` stays as it is. -/
def OtherRings (f n : Nat) (s t : State) : Prop :=
  ∀ (g : Fn) (m : Fin 9), ringKey g.val m.val ≠ ringKey f n → t.ring g.val m.val = s.ring g.val m.val

/-- What serving the command leaves as it was in the host interface and the counters: of its function's window all but the
pending doorbell bits, of its ring all but the place in it, the kept commands and the completions, every other window and
ring, every command that was in flight before, every register of the CMD block, and of TEL all but the conservation counters,
the histograms and their events. -/
def RingServed (c : Cmd) (s t : State) : Prop :=
  (∀ g : Fn, g ≠ c.fn → t.func g.val = s.func g.val) ∧
  t.func c.fn.val = { s.func c.fn.val with dbPend := (t.func c.fn.val).dbPend } ∧
  OtherRings c.fn.val c.ring.val s t ∧
  (let r := t.ring c.fn.val c.ring.val
   r = { s.ring c.fn.val c.ring.val with
     sqHead := r.sqHead, expected := r.expected, kept := r.kept, cq := r.cq, cqTail := r.cqTail, unwritten := r.unwritten
     enable := r.enable, writeErr := r.writeErr }) ∧
  (t.host.inflight = s.host.inflight ∨
    ∃ i ∈ t.host.inflight, t.host.inflight = s.host.inflight ++ [i] ∧ i.fn = c.fn.val ∧ i.ring = c.ring.val ∧ i.seq = c.seq) ∧
  t.host = { s.host with
    funcs := t.host.funcs, rings := t.host.rings, inflight := t.host.inflight, mem := t.host.mem, msgs := t.host.msgs } ∧
  t.tel = { s.tel with cons := t.tel.cons, hists := t.tel.hists, events := t.tel.events }

/-- The frame of a command: it is served on its ring, and of the rest of the machine every block but the listed ones stays
as it is. -/
def Serves (more : List Block) (c : Cmd) (s t : State) : Prop :=
  KeepsBut (more ++ cmdBlocks) s t ∧ RingServed c s t

/-- Memory reads as before everywhere. -/
def SameBytes (s t : State) : Prop := ∀ k, t.mem.byteAt k = s.mem.byteAt k

/-- The packet of a host-command row, the row's opcode, and whether the packet is this row's operation where several rows
share an opcode (15, R415).  None for an event, a register access and the row of undefined opcodes. -/
def hostRow : Instr → Option (Cmd × Nat × Bool)
  | .nop c => some (c, 0x00, true)
  | .negotiate c => some (c, 0x01, true)
  | .identify c => some (c, 0x02, true)
  | .ctxOpen c => some (c, 0x08, true)
  | .ctxClose c => some (c, 0x09, true)
  | .ctxReset c => some (c, 0x0A, true)
  | .ctxQuery c => some (c, 0x0B, true)
  | .schedLoad c _ => some (c, 0x10, true)
  | .schedUnload c => some (c, 0x11, true)
  | .weightsLoad c _ _ _ => some (c, 0x14, true)
  | .weightsUnload c => some (c, 0x15, true)
  | .patchLoad c _ => some (c, 0x18, true)
  | .patchRetire c => some (c, 0x19, true)
  | .grammarLoad c _ => some (c, 0x1C, true)
  | .grammarUnload c => some (c, 0x1D, true)
  | .reqSubmit c => some (c, 0x20, true)
  | .reqCancel c => some (c, 0x21, true)
  | .reqQuery c => some (c, 0x22, true)
  | .accountSet c => some (c, 0x24, true)
  | .accountQuery c => some (c, 0x25, true)
  | .prefixPin c => some (c, 0x28, true)
  | .prefixRelease c => some (c, 0x29, true)
  | .jobRun c => some (c, 0x30, true)
  | .jobAbort c => some (c, 0x31, true)
  | .vidOpen c => some (c, 0x38, true)
  | .decodeAu c => some (c, 0x39, subKind 0 c || decide (4 < (c.byte 17).toNat))
  | .encode c => some (c, 0x39, subKind 1 c)
  | .release c _ => some (c, 0x39, subKind 2 c)
  | .acquire c => some (c, 0x39, subKind 3 c)
  | .eos c => some (c, 0x39, subKind 4 c)
  | .vidClose c => some (c, 0x3A, true)
  | .vidReconfig c => some (c, 0x3B, true)
  | .lineConfigLine c => some (c, 0x40, decide ((c.byte 16).toNat < 0x10) || decide (0x13 < (c.byte 16).toNat))
  | .lineConfigTrigger c => some (c, 0x40, decide (0x10 ≤ (c.byte 16).toNat) && decide ((c.byte 16).toNat ≤ 0x13))
  | .linePosition c => some (c, 0x41, true)
  | .pegArm c => some (c, 0x42, true)
  | .pegDisarm c => some (c, 0x43, true)
  | .attest c _ => some (c, 0x48, true)
  | .keyRotate c => some (c, 0x49, true)
  | .create c _ => some (c, 0x4A, c.le 16 1 == 0 || decide (3 < c.le 16 1))
  | .join c _ _ => some (c, 0x4A, c.le 16 1 == 1)
  | .leave c => some (c, 0x4A, c.le 16 1 == 2)
  | .rekey c _ => some (c, 0x4A, c.le 16 1 == 3)
  | .fwStage c _ _ => some (c, 0x50, true)
  | .live c => some (c, 0x51, (c.byte 16).toNat != 1)
  | .nextStart c => some (c, 0x51, (c.byte 16).toNat == 1)
  | .fwStatus c => some (c, 0x52, true)
  | .quiesce c => some (c, 0x58, true)
  | .drain c => some (c, 0x59, true)
  | .resume c => some (c, 0x5A, true)
  | .setCap c => some (c, 0x60, (c.byte 16).toNat == 0 || decide (5 < (c.byte 16).toNat))
  | .setRamp c => some (c, 0x60, (c.byte 16).toNat == 1)
  | .heartbeat c => some (c, 0x60, (c.byte 16).toNat == 2)
  | .doze c => some (c, 0x60, (c.byte 16).toNat == 3)
  | .wake c => some (c, 0x60, (c.byte 16).toNat == 4)
  | .setLimits c => some (c, 0x60, (c.byte 16).toNat == 5)
  | .powerQuery c => some (c, 0x61, true)
  | .telemetrySnapshot c => some (c, 0x68, true)
  | .lifetimeRead c => some (c, 0x69, true)
  | .checkConfig c => some (c, 0x70, true)
  | .checkQuery c => some (c, 0x71, true)
  | .setMode c => some (c, 0x78, (c.byte 16).toNat == 0 || decide (3 < (c.byte 16).toNat))
  | .tableEntry c => some (c, 0x78, (c.byte 16).toNat == 1)
  | .port c => some (c, 0x78, (c.byte 16).toNat == 2)
  | .dropPeer c => some (c, 0x78, (c.byte 16).toNat == 3)
  | .linkQuery c => some (c, 0x79, true)
  | _ => none

end Sys2Proof
end

