-- ==== Sys2Proof/Certificates/Slice0/Obligations.lean ====
section
/-!
DEFINITION. The statements for the provers.
-/
open Sys2Proof Sys2Proof.Machine

/-! ### The machine -/

/-- step runs the command at the front of the queue with the queue's rest; on an empty queue time passes (logs 2, 46). -/
def Obligations.StepRunsFront : Prop :=
  (∀ (c : Instr) (rest : List Instr) (s : State), step { s with pending := c :: rest } = exec c { s with pending := rest }) ∧
  ∀ s : State, s.pending = [] → step s = .next (State.idle s)

/-- Every command answers a next state in every state: no fault, no refusal. -/
def Obligations.EveryCommandRuns : Prop :=
  ∀ (i : Instr) (s : State), Runs i s

/-- No command touches the queue of waiting commands. -/
def Obligations.QueueUntouched : Prop :=
  ∀ (i : Instr) (s t : State), exec i s = .next t → t.pending = s.pending

/-- The canonical form of memory is an invariant of every step. -/
def Obligations.StepKeepsMemory : Prop :=
  ∀ s t : State, MemWf s → step s = .next t → MemWf t

/-- Reset memory has the canonical form. -/
def Obligations.ResetMemory : Prop :=
  MemWf State.reset

/-! ### Host commands (15) -/

/-- A host command that the module cannot fetch now changes nothing. -/
def Obligations.UnfetchedWaits : Prop :=
  ∀ (i : Instr) (s : State) (c : Cmd) (op : Nat) (own : Bool), hostRow i = some (c, op, own) → s.fetchable c = false →
    exec i s = .next s

/-- A command in sequence and of a version in use, sent by a function that may not send its opcode, is DENIED, and has no
other effect than its completion; over MCTP alone a POWER_SET still counts as a heartbeat. -/
def Obligations.SenderDenied : Prop :=
  ∀ (i : Instr) (s : State) (c : Cmd) (op : Nat), hostRow i = some (c, op, true) → c.opcode = op →
    s.fetchable c = true → c.seq = s.expects c → c.major = 2 → c.minor ≤ (s.func c.fn.val).minor →
    (c.fn.val ≠ 0 ∧ pf0Only op = true) ∨ (c.fn.val = 0 ∧ vfOnly op = true) →
    ∃ t, exec i s = .next t ∧ Answered t c (.of stDenied) ∧ Serves [.pwr] c s t ∧ (c.ring.val ≠ 8 → t.pwr = s.pwr)

/-- A retry of a kept command gets the completion it had again, and no second effect (over MCTP a POWER_SET still counts as
a heartbeat).
A command out of sequence that is no retry of a kept one is completed with BAD_SEQUENCE: detail 3 with a kept number and
other bytes, else 1 behind the expected number and 2 ahead of it; the expected number stays and nothing else happens (over
MCTP a POWER_SET still counts as a heartbeat). -/
def Obligations.SequenceChecks : Prop :=
  (∀ (i : Instr) (s : State) (c : Cmd) (op : Nat) (k : Kept) (comp : Completion), hostRow i = some (c, op, true) →
     c.opcode = op → s.fetchable c = true → c.seq ≠ s.expects c →
     (s.ring c.fn.val c.ring.val).kept.find? (fun k => k.seq = c.seq) = some k →
     k.bytes = c.masked → k.comp = some comp →
     ∃ t, exec i s = .next t ∧ Serves [.pwr] c s t ∧
       t.host = ((s.takeEntry c.fn.val c.ring.val).writeEntry c.fn.val c.ring.val comp c.noIrq).host ∧
       t.tel = (s.consAdd (cid 0x42 c.fn.val) 1).tel ∧ (c.ring.val ≠ 8 → t.pwr = s.pwr)) ∧
  (∀ (i : Instr) (s : State) (c : Cmd) (op : Nat), hostRow i = some (c, op, true) → c.opcode = op →
     s.fetchable c = true → c.seq ≠ s.expects c →
     (let old := (s.ring c.fn.val c.ring.val).kept.find? fun k => k.seq = c.seq
      (∀ k ∈ old, k.bytes ≠ c.masked) →
      ∃ t, exec i s = .next t ∧ Serves [.pwr] c s t ∧ (c.ring.val ≠ 8 → t.pwr = s.pwr) ∧
       t.host = ((s.takeEntry c.fn.val c.ring.val).writeEntry c.fn.val c.ring.val
         { seq := c.seq, status := stBadSeq, result := []
           detail := if old.isSome then 3 else if seqBehind c.seq (s.expects c) then 1 else 2 } c.noIrq).host ∧
       (t.ring c.fn.val c.ring.val).expected = (s.ring c.fn.val c.ring.val).expected))

/-- Reset: INIT at stage 0, unpowered, every context FREE and every ring disabled and empty; registers at the reset values of
their tables. -/
def Obligations.ResetState : Prop :=
  let s := State.reset
  s.pending = [] ∧ s.glb.state = .init ∧ s.glb.stage = 0 ∧ s.board.powered = false ∧ (∀ c, (s.ctx c).st = .free) ∧
  (∀ f n, (s.ring f n).enable = false ∧ (s.ring f n).sqHead = 0 ∧ (s.ring f n).kept = [] ∧ (s.ring f n).expected = none) ∧
  (∀ f, (s.func f).dbPend = 0 ∧ (s.func f).dbMask = 0xFFFFFFFF ∧ (s.func f).minor = 0) ∧ (∀ n, (s.pegAt n).st = .free) ∧
  (∀ n, (s.line n).pos = 0 ∧ (s.line n).owner = 0x1F ∧ (s.line n).stopped = true) ∧ s.peg.missHold = 0x64 ∧
  s.arr.mode = .split ∧ s.arr.openMinPct = 0x0A ∧ (∀ n, (s.core n).op = 0xFFFFFFFF) ∧
  (∀ c, (s.actx c).seamLastOp = 0xFFFFFFFF ∧ (s.actx c).commit = none) ∧ (∀ c, (s.ctl.cores.get c).health = .off) ∧
  s.host.timeoutS = 0x1E ∧ s.mem.rinseSram = 0x3C ∧ s.mem.rinseHbm = 0xF0 ∧ s.dma.timeoutMs = 0x0A ∧ s.drn.div = 0x40 ∧
  s.drn.rotFloor = 0x10 ∧ s.drn.raisedDiv = 0x08 ∧ s.ctl.restore = .none_ ∧ s.ctl.takebackMin = 0x00A ∧ s.pwr.cap = 0x258 ∧
  s.pwr.up = 0x19 ∧ s.pwr.down = 0x19 ∧ s.tel.periodMs = 0x3E8 ∧ s.lnk.open_ = false ∧ (∀ e, (s.peer e).st = .empty)

/-- NOP, NEGOTIATE, IDENTIFY and an undefined opcode complete at once.  NEGOTIATE takes the lower of the highest acceptable
minor and 3, and of the features asked those that this minor has; where that is below the lowest acceptable minor, or the
major version is not 2, it completes BAD_VERSION with the highest version.  None of the four changes anything but its
completion, but for the minor version and the features that a NEGOTIATE gives its own function. -/
def Obligations.BasicCommands : Prop :=
  (∀ (c : Cmd) (s : State), accepts s c 0x00 [] = true → reservedZero c [] = true →
    ∃ t, exec (.nop c) s = .next t ∧ Answered t c (.of stOk) ∧ Serves [] c s t) ∧
  (∀ (c : Cmd) (s : State), accepts s c 0x01 [] = true → reservedZero c [(16, 17), (24, 31)] = true →
    ∃ t, exec (.negotiate c) s = .next t ∧
      (let minor := min (c.byte 17).toNat 3
       let features := grantedFeatures (c.le 24 8) minor
       Answered t c (.ok ([BitVec.ofNat 8 minor, 0, 0, 0, 0, 0, 0, 0] ++ leBytes 8 features)) ∧
       Serves [] c (s.updFunc c.fn.val fun w => { w with minor, features }) t)) ∧
  (∀ (c : Cmd) (s : State), c.opcode = 0x01 → s.fetchable c = true → c.seq = s.expects c →
    c.major ≠ 2 ∨ min (c.byte 17).toNat 3 < (c.byte 16).toNat →
    ∃ t, exec (.negotiate c) s = .next t ∧ Answered t c { status := stBadVersion, result := [0x03, 0x02] } ∧
      Serves [] c s t) ∧
  (∀ (c : Cmd) (s : State), accepts s c 0x02 [] = true → reservedZero c [] = true →
    ∃ t, exec (.identify c) s = .next t ∧
      Answered t c (.ok ([0xA1, BitVec.ofNat 8 (b2n Config.marine), 0x03, 0x02, 0x04, 0x05, 0, 0] ++ leBytes 4 s.fwVersion ++
        leBytes 4 s.sec.rtpVer.toNat ++ leBytes 8 s.sec.moduleId.toNat)) ∧ Serves [] c s t) ∧
  ∀ (c : Cmd) (s : State), opcodeDefined c.opcode = false → s.fetchable c = true → c.seq = s.expects c → c.major = 2 →
    c.minor ≤ (s.func c.fn.val).minor →
    ∃ t, exec (.undefinedOpcode c) s = .next t ∧ Answered t c (.of stBadOpcode) ∧ Serves [] c s t

/-- Writes of a ring pair's registers.  SQ_TAIL in range is taken, above it ignored with TAIL_ERR set; CQ_HEAD in range is
taken, above it ignored; RING_CTRL gives ENABLE and clears the error bits written 1; a write of a base or size register
while the pair is disabled and idle starts the pair anew with it.  Each leaves every other ring pair as it is.
A ring pair that is enabled or has a command in flight ignores writes of its base and size registers; one of a function
that receives no TLPs is reported. -/
def Obligations.RingRegisters : Prop :=
  ((∀ (fn : Fn) (n : Fin 8) (v : Word) (s : State), s.windowUp fn.val = true →
     (v.toNat < ringEntries (s.ring fn.val n.val).sqSize →
       exec (.sqTailWrite fn n v .good) s = .next (s.updRing fn.val n.val fun r => { r with sqTail := v.toNat })) ∧
     (∀ (pcie : Pcie), ringEntries (s.ring fn.val n.val).sqSize ≤ v.toNat →
       exec (.sqTailWrite fn n v pcie) s = .next (s.updRing fn.val n.val fun r => { r with tailErr := true }))) ∧
   (∀ (fn : Fn) (n : Fin 8) (v : Word) (s : State), s.windowUp fn.val = true → (s.ring fn.val n.val).enable = true →
     v.toNat < ringEntries (s.ring fn.val n.val).sqSize → (s.ring fn.val n.val).sqHead ≠ v.toNat →
     ∃ t, exec (.sqTailWrite fn n v .fetchError) s = .next t ∧
       t.ring fn.val n.val = { s.ring fn.val n.val with sqTail := v.toNat, enable := false, fetchErr := true } ∧
       (t.func fn.val).dbPend.getLsbD 24 = true ∧ OtherRings fn.val n.val s t ∧ KeepsBut [.host] s t) ∧
   (∀ (fn : Fn) (n : Fin 8) (v : Word) (s : State), s.windowUp fn.val = true →
     (v.toNat < ringEntries (s.ring fn.val n.val).cqSize →
       ∃ t, exec (.cqHeadWrite fn n v) s = .next t ∧ (t.ring fn.val n.val).cqHead = v.toNat ∧
         (t.ring fn.val n.val).cqTail = (s.ring fn.val n.val).cqTail ∧ OtherRings fn.val n.val s t ∧ KeepsBut [.host] s t) ∧
     (ringEntries (s.ring fn.val n.val).cqSize ≤ v.toNat → exec (.cqHeadWrite fn n v) s = .next s)) ∧
   (∀ (fn : Fn) (n : Fin 8) (v : Word) (s : State), s.windowUp fn.val = true →
     ∃ t, exec (.ringEnableWrite fn n v .good) s = .next t ∧ (t.ring fn.val n.val).enable = v.getLsbD 31 ∧
       (t.ring fn.val n.val).fetchErr = ((s.ring fn.val n.val).fetchErr && !v.getLsbD 29) ∧
       (t.ring fn.val n.val).writeErr = ((s.ring fn.val n.val).writeErr && !v.getLsbD 28) ∧
       (t.ring fn.val n.val).tailErr = ((s.ring fn.val n.val).tailErr && !v.getLsbD 27) ∧
       (t.ring fn.val n.val).sqHead = (s.ring fn.val n.val).sqHead ∧
       (t.ring fn.val n.val).expected = (s.ring fn.val n.val).expected ∧
       (t.ring fn.val n.val).kept = (s.ring fn.val n.val).kept ∧ OtherRings fn.val n.val s t ∧ KeepsBut [.host] s t) ∧
   ∀ (fn : Fn) (n : Fin 8) (reg : Fin 6) (v : Word) (s : State) (r : Ring), s.windowUp fn.val = true →
     (s.ring fn.val n.val).enable = false → s.inflightOn fn.val n.val = 0 →
     (s.ring fn.val n.val).setReg reg.val v = some r →
     ∃ t, exec (.ringReconfigure fn n reg v) s = .next t ∧
       t.ring fn.val n.val = { r with sqHead := 0, sqTail := 0, cqHead := 0, cqTail := 0, cq := [], kept := [], expected := none } ∧
       OtherRings fn.val n.val s t ∧ KeepsBut [.host] s t) ∧
  (∀ (fn : Fn) (n : Fin 8) (reg : Fin 6) (v : Word) (s : State),
     (s.ring fn.val n.val).enable = true ∨ s.inflightOn fn.val n.val ≠ 0 →
     exec (.ringReconfigure fn n reg v) s = .next (if s.windowUp fn.val then s else s.turnAway fn.val))

/-- TB_HEAD and VEQ_HEAD take a value in range, TB_HEAD a multiple of 64 bytes, and ignore any other (one of a
function that receives no TLPs is reported); a doorbell mask written
and an MSI-X mask bit cleared send one message for each doorbell bit that is pending and now free of both masks, and for no
other.
A doorbell bit already pending raises nothing; one raised is pending, and sends its message unless one of its masks is
set. -/
def Obligations.DoorbellsAndHeads : Prop :=
  ((∀ (c : CtxId) (fn : Fn) (v : Word) (s : State), fn.val = c.val + 1 → s.windowUp fn.val = true → v.toNat % 64 = 0 →
     v.toNat < s.tbSize c.val →
     ∃ t, exec (.tbHeadWrite fn v) s = .next t ∧ (t.func fn.val).tbHead = v.toNat ∧
       (∀ i, i ≠ c.val → t.ctx i = s.ctx i) ∧ KeepsBut [.host, .ctxs, .tel] s t) ∧
   (∀ (c : CtxId) (fn : Fn) (v : Word) (s : State), fn.val = c.val + 1 → v.toNat % 64 ≠ 0 ∨ s.tbSize c.val ≤ v.toNat →
     exec (.tbHeadWrite fn v) s = .next (if s.windowUp fn.val then s else s.turnAway fn.val)) ∧
   (∀ (fn : Fn) (v : Word) (s : State), s.windowUp fn.val = true → v.toNat < 2 ^ ((s.func fn.val).veqLog + 6) →
     ∃ t, exec (.veqHeadWrite fn v) s = .next t ∧ (t.func fn.val).veqHead = v.toNat ∧ KeepsBut [.host, .vid, .mem] s t ∧
       (fn.val = 0 ∨ s.vid.kept.get (fn.val - 1) = [] → SameBytes s t ∧ t.vid = s.vid)) ∧
   (∀ (fn : Fn) (v : Word) (s : State), 2 ^ ((s.func fn.val).veqLog + 6) ≤ v.toNat →
     exec (.veqHeadWrite fn v) s = .next (if s.windowUp fn.val then s else s.turnAway fn.val)) ∧
   (∀ (fn : Fn) (v : Word) (s : State) (j : Nat), s.windowUp fn.val = true → j < 32 →
     ∃ t, exec (.dbMaskWrite fn v) s = .next t ∧ t.func fn.val = { s.func fn.val with dbMask := v } ∧
       t.host.msgs.get (32 * fn.val + j) = s.host.msgs.get (32 * fn.val + j) +
         b2n ((s.func fn.val).dbPend.getLsbD j && (s.func fn.val).dbMask.getLsbD j && !v.getLsbD j &&
           !(s.func fn.val).msixMask.getLsbD j) ∧ t.host.rings = s.host.rings ∧ KeepsBut [.host] s t) ∧
   ∀ (fn : Fn) (j : Fin 32) (s : State), s.windowUp fn.val = true →
     ∃ t, exec (.msixUnmask fn j) s = .next t ∧ (t.func fn.val).msixMask.getLsbD j.val = false ∧
       (∀ k, k < 32 → k ≠ j.val → (t.func fn.val).msixMask.getLsbD k = (s.func fn.val).msixMask.getLsbD k ∧
         t.host.msgs.get (32 * fn.val + k) = s.host.msgs.get (32 * fn.val + k)) ∧
       t.host.msgs.get (32 * fn.val + j.val) = s.host.msgs.get (32 * fn.val + j.val) +
         b2n ((s.func fn.val).dbPend.getLsbD j.val && (s.func fn.val).msixMask.getLsbD j.val &&
           !(s.func fn.val).dbMask.getLsbD j.val) ∧ t.host.rings = s.host.rings ∧ KeepsBut [.host] s t) ∧
  (∀ (s : State) (f j : Nat), j < 32 →
     ((s.func f).dbPend.getLsbD j = true → s.doorbell f j = s) ∧
     ((s.func f).dbPend.getLsbD j = false →
       ((s.doorbell f j).func f).dbPend.getLsbD j = true ∧
       (s.doorbell f j).host.msgs.get (32 * f + j) =
         s.host.msgs.get (32 * f + j) + b2n (!(s.func f).dbMask.getLsbD j && !(s.func f).msixMask.getLsbD j)) ∧
     KeepsBut [.host] s (s.doorbell f j))

/-- Register accesses: a write of KVP_DIR_SEL; a CMD_TIMEOUT in range and one out of range, which is ignored; W1C bits of a
LINE_STATUS and of a VF's DB_PEND; a write of read-only PEG_TIME, which is ignored; an RC read of LINE_STATUS, which clears
ENC_ERR_CNT; the low half of PEG_TIME, which latches the high half; an access the bus does not support, which is counted and
discarded.  One of a function that receives no TLPs is reported and does nothing. -/
def Obligations.RegisterAccesses : Prop :=
  (∀ (b : Requester) (v : BitVec 64) (s : State), ownVf b = none → s.reaches b 0x800004 false = true →
    s.blockLive 8 = true →
    exec (.registerWrite b 0x800004 false v) s =
      .next (s.updKvp fun k => { k with dirSel := v.toNat % 2 ^ 17 })) ∧
  (∀ (b : Requester) (v : BitVec 64) (s : State), ownVf b = none → s.reaches b 0x501004 false = true →
    s.blockLive 5 = true →
    exec (.registerWrite b 0x501004 false v) s =
      .next (if 5 ≤ v.toNat % 512 ∧ v.toNat % 512 ≤ 300 then s.updHost fun h => { h with timeoutS := v.toNat % 512 } else s)) ∧
  (∀ (b : Requester) (n : Fin 16) (v : BitVec 64) (s : State), ownVf b = none →
    s.reaches b (0x301004 + 0x40 * n.val) false = true → s.blockLive 3 = true →
    exec (.registerWrite b (0x301004 + 0x40 * n.val) false v) s = .next (s.updLine n.val fun l =>
      { l with reverse := l.reverse && !v.getLsbD 31, overspeed := l.overspeed && !v.getLsbD 28
               encErr := l.encErr && !v.getLsbD 27, indexSeen := l.indexSeen && !v.getLsbD 26 })) ∧
  (∀ (f : Fn) (v : BitVec 64) (s : State), f.val ≠ 0 → s.reaches (.function f) 0x10 false = true → s.glb.readyReached = true →
    exec (.registerWrite (.function f) 0x10 false v) s =
      .next (s.updFunc f.val fun w => { w with dbPend := w.dbPend &&& ~~~(v.extractLsb' 0 32) })) ∧
  (∀ (b : Requester) (v : BitVec 64) (s : State), ownVf b = none →
    exec (.registerWrite b 0x300020 false v) s =
      .next (if s.reaches b 0x300020 false then s else s.missed b false false)) ∧
  (∀ (b : Requester) (n : Fin 16) (s : State), ownVf b = none → s.reaches b (0x301004 + 0x40 * n.val) false = true →
    s.blockLive 3 = true →
    ∃ t, exec (.rcRead b (0x301004 + 0x40 * n.val) false) s = .next t ∧ (t.line n.val).errCnt = 0 ∧
      t.host.readData.toNat % 0x10000 = (s.line n.val).errCnt.toNat ∧
      t.peg = (s.updLine n.val fun l => { l with errCnt := 0 }).peg ∧ t.host = { s.host with readData := t.host.readData } ∧
      KeepsBut [.host, .peg] s t) ∧
  (∀ (b : Requester) (s : State), ownVf b = none → s.reaches b 0x300020 false = true → s.blockLive 3 = true →
    ∃ t, exec (.loReadLatch b 0x300020) s = .next t ∧ t.host.readData.toNat = s.time % 2 ^ 32 ∧
      t.host.latches.get (latchKey b 0x300020) = some (BitVec.ofNat 32 (s.time / 2 ^ 32)) ∧
      t.host = { s.host with readData := t.host.readData, latches := t.host.latches } ∧ KeepsBut [.host] s t) ∧
  ∀ (fn : Fn) (off width : Nat) (rd : Bool) (s : State), ¬ ((width = 4 ∨ width = 8) ∧ off % width = 0) →
    ∃ t, exec (.unsupportedAccess fn off width rd) s = .next t ∧
      t.host = { s.host with unsupported := s.host.unsupported + 1, readData := t.host.readData } ∧
      (rd = false → t.host.readData = s.host.readData) ∧ KeepsBut [.host] s t

/-! ### Cabinet, start-up, clocks, power (01, 17, 18, 20) -/

/-- The hot-swap switch closes only with EN_SENSE held, the input within its limits and no trip latched; a thermal trip
latches; the latch clears with the input removed; whatever opens the switch takes the power and time with it.
PERST# asserted resets a powered module to INIT, stage 0, with its contexts, rings and memory gone and its flash kept;
PERST# deasserted starts the configuration bound; a latch movement with the unit powered and stage CORE_A complete is noted, an
opening with a doorbell, and before that it moves the latch alone. -/
def Obligations.SwitchAndReset : Prop :=
  ((∀ s : State, ∃ t, exec .enSenseMake s = .next t ∧ t.board.enSense = true ∧ KeepsBut [.board] s t ∧
     (s.board.closed = false → (t.board.closed = true ↔ s.board.inputOk = true ∧ s.board.tripLatch = false))) ∧
   (∀ s : State, ∃ t, exec .inputInRange s = .next t ∧ t.board.inputOk = true ∧ KeepsBut [.board] s t ∧
     (s.board.closed = false → (t.board.closed = true ↔ s.board.enSense = true ∧ s.board.tripLatch = false))) ∧
   (∀ (cause : OpenCause) (s : State), ∃ t, exec (.switchOpen cause) s = .next t ∧ t.board.closed = false ∧
     t.board.powered = false ∧ t.time = 0 ∧ t.glb.state = .init ∧ t.glb.stage = 0 ∧ t.ctxs = [] ∧ t.settings = s.settings ∧
     t.tel.ltRing = s.tel.ltRing ∧ (cause = .thermalTrip → t.board.tripLatch = true)) ∧
   (∀ s : State, ∃ t, exec .tripLatchClear s = .next t ∧ t.board.tripLatch = false ∧ t.board.closed = false ∧
     t.board.powered = false) ∧
   ∀ s : State, s.board.closed = true → s.board.powered = false →
     ∃ t, exec .powerGood s = .next t ∧ t.board.powered = true ∧ t.time = 0 ∧ t.tel.starts = s.tel.starts + 1 ∧
       KeepsBut [.time, .board, .tel] s t) ∧
  ((∀ s : State, s.board.powered = true →
     ∃ t, exec .perstAssert s = .next t ∧ t.glb.state = .init ∧ t.glb.stage = 0 ∧ t.board.perst = true ∧
       t.board.powered = true ∧ t.ctxs = [] ∧ t.host = {} ∧ t.mem = {} ∧ t.time = s.time ∧ t.settings = s.settings ∧
       t.tel.ltRing = s.tel.ltRing ∧ t.tel.starts = s.tel.starts + 1 ∧ t.sec.set_ = s.sec.set_ ∧ t.pending = s.pending) ∧
   (∀ s : State, exec .perstDeassert s =
     .next { s with board := { s.board with perst := false }, glb := { s.glb with bootSince := s.time } }) ∧
   (∀ s : State, s.board.powered = false ∨ s.glb.stage < 3 →
     exec .latchOpen s = .next { s with board := { s.board with latchOpen := true } } ∧
     exec .latchClose s = .next { s with board := { s.board with latchOpen := false } }) ∧
   (∀ s : State, s.board.latchOpen = false → s.board.powered = true → 3 ≤ s.glb.stage →
     ∃ t, exec .latchOpen s = .next t ∧ t.board.latchOpen = true ∧ t.host.latchEvt = true ∧
       (t.func 0).dbPend.getLsbD 15 = true ∧ KeepsBut [.board, .host] s t) ∧
   ∀ s : State, s.board.latchOpen = true → s.board.powered = true → 3 ≤ s.glb.stage →
     exec .latchClose s = .next { s with board := { s.board with latchOpen := false }, host := { s.host with latchEvt := true } })

/-- The start-up stages run in order: while INIT stands before a stage and no heat holds it, its good end moves STAGE to its
number, and that of HBM_TRAIN reaches READY; a stage that INIT does not stand before changes nothing.  ITO changes nothing but
STAGE; RTP_BOOT loads the identity; a bad end of RTP_BOOT, CORE_A or RELOAD is a failed boot, and a stack that fails HBM_TRAIN
leaves the module SUSPECT with the stacks that are up.
A stage whose limit passes is a failed boot: BOOT_FAILS counts up to 2; at 2 the module is in RECOVERY, before it starts
again from INIT with the other slot.  The crystal's limit leads to CLOCK_HOLD instead. -/
def Obligations.StartUp : Prop :=
  ((∀ (st : Stage) (r : StageResult) (s : State), s.stageRuns (stageNo st) = true → s.glb.state = .init →
     s.glb.thermalHeld = false → (s.fromFlash st r).good = true → (st = .hbmTrain → r.stackMask = 0xFF) →
     ∃ t, exec (.stageComplete st r) s = .next t ∧ t.glb.stage = (if st = .hbmTrain then 8 else stageNo st) ∧
       t.glb.state = (if st = .hbmTrain then .ready else .init) ∧ t.ctxs = s.ctxs ∧ t.host = s.host) ∧
   (∀ (r : StageResult) (s : State), s.stageRuns 1 = true → s.glb.state = .init → r.good = true →
     exec (.stageComplete .ito r) s =
       .next { s with glb := { s.glb with stage := 1, stageSince := s.time, stageHalted := s.glb.thermalHeld } }) ∧
   (∀ (r v : StageResult) (s : State), s.stageRuns 2 = true → s.glb.state = .init → s.fromFlash .rtpBoot r = v →
     v.good = true →
     ∃ t, exec (.stageComplete .rtpBoot r) s = .next t ∧ t.sec = { s.sec with
       moduleId := v.moduleId, svn := v.svn, rtpVer := v.fwVersion, rtpDigest := v.digest, ident := identityOf v.digest v.svn } ∧
       KeepsBut [.glb, .sec, .ctl] s t) ∧
   (∀ (r : StageResult) (s : State), s.stageRuns 7 = true → s.glb.state = .init → s.glb.thermalHeld = false → r.good = true →
     r.stackMask = 0xFF →
     ∃ t, exec (.stageComplete .hbmTrain r) s = .next t ∧ t.glb.readyReached = true ∧ t.glb.bootFails = 0 ∧
       t.board.health = true ∧ t.board.suspect = false ∧ t.mem.hbmUp = 0xFF) ∧
   (∀ (st : Stage) (r : StageResult) (s : State), st ∈ [.rtpBoot, .coreA, .reload] → s.stageRuns (stageNo st) = true →
     r.good = false →
     ∃ t, exec (.stageComplete st r) s = .next t ∧ t.glb.bootFails = min 2 (s.glb.bootFails + 1)) ∧
   (∀ (r : StageResult) (s : State), s.stageRuns 7 = true → r.stackMask ≠ 0xFF →
     ∃ t, exec (.stageComplete .hbmTrain r) s = .next t ∧ t.glb.state = .suspect ∧ t.mem.hbmUp = r.stackMask ∧
       KeepsBut [.glb, .mem, .tel] s t) ∧
   (∀ (st : Stage) (r : StageResult) (s : State), s.stageRuns (stageNo st) = false → exec (.stageComplete st r) s = .next s)) ∧
  ((∀ (ms : Nat) (s : State), stageLimit (s.glb.stage + 1) = some ms → s.stageRuns (s.glb.stage + 1) = true →
     s.glb.state = .init → s.glb.stageSince + ms * msNs < s.time →
     ∃ t, exec .stageTimeout s = .next t ∧ t.glb.bootFails = min 2 (s.glb.bootFails + 1) ∧
       (s.glb.bootFails = 0 → t.glb.state = .init ∧ t.glb.stage = 0 ∧ t.glb.fallbackBoot = !s.glb.fallbackBoot) ∧
       (1 ≤ s.glb.bootFails → t.glb.state = .recovery) ∧ t.settings = s.settings) ∧
   ∀ s : State, s.glb.state = .init → s.glb.stage = 4 → s.stageRuns 5 = true → s.glb.stageSince + 100 * msNs ≤ s.time →
     (∀ c, c < 16 → (s.ctx c).st ≠ .running) → s.glb.dozeEntering = false →
     ∃ t, exec .crystalTimeout s = .next t ∧ t.glb.state = .clockHold ∧ t.glb.startingUp = true ∧ t.clk.onIto = true ∧
       t.clk.lock = 0)

/-- Clock multiplexers, frequency measurement and PLL settings: what each write or event does, and that it touches no other
block than the clocks', or, of a quadrant's setting outside a Press step, than those of its clock's users.
The crystal.  Lost in READY, QUIESCED, DRAINING or SUSPECT it takes the module to CLOCK_HOLD on the ITO, with that state
to resume and no PLL in lock; lost in DOZE the time base moves to the ITO and the module stays in DOZE.  Stable in CLOCK_HOLD
the stages may run again; stable in DOZE the time base moves back. -/
def Obligations.Clocks : Prop :=
  ((∀ (b : Requester) (v : Word) (s : State), b = .controlA ∨ b = .controlB → s.clkValid = true → v.toNat % 4 ≠ 3 →
     s.clk.ctlBusy = false →
     exec (.clkCtlSrcWrite b v) s = .next { s with
       clk := { s.clk with ctlSel := v.toNat % 4, ctlBusy := true, muxTo := s.clk.muxTo.set 0 (some (v.toNat % 4)) } }) ∧
   (∀ (fn : Fn) (v : Word) (s : State), exec (.clkCtlSrcWrite (.function fn) v) s = .next s) ∧
   (∀ (sel : Nat) (s : State), s.clk.muxTo.get 0 = some sel →
     ∃ t, exec (.muxSwitchDone 0) s = .next t ∧ t.clk.ctlBusy = false ∧ t.clk.onIto = (sel == 0) ∧ t.clk.muxTo.get 0 = none ∧
       KeepsBut [.clk] s t) ∧
   (∀ (m : Fin 7) (sel : Nat) (s : State), m.val ≠ 0 → s.clk.muxTo.get m.val = some sel →
     ∃ t, exec (.muxSwitchDone m) s = .next t ∧ t.clk.muxSel.get m.val = sel ∧ t.clk.muxTo.get m.val = none ∧
       t.clk.pllBusy.getLsbD (m.val - 1) = false ∧ (sel = 2 → t.clk.lock.getLsbD (m.val - 1) = true) ∧ KeepsBut [.clk] s t) ∧
   (∀ s : State, s.clkValid = true →
     ∃ t, exec (.muxHung 0) s = .next t ∧ t.clk.onIto = true ∧ t.clk.ctlSel = 0 ∧ t.clk.ctlBusy = false ∧
       t.clk.hung.getLsbD 0 = true ∧ KeepsBut [.clk] s t) ∧
   (∀ (m : Fin 7) (s : State), m.val ≠ 0 → s.clkValid = true → (∀ c, c < 16 → (s.ctx c).st ≠ .running) →
     ∃ t, exec (.muxHung m) s = .next t ∧ t.clk.hung.getLsbD m.val = true ∧ t.clk.muxSel.get m.val = 0 ∧
       t.clk.lock.getLsbD (m.val - 1) = false ∧ KeepsBut [.clk] s t) ∧
   (∀ (v : Word) (s : State), s.clkValid = true →
     ∃ t, exec (.fmeasStart v) s = .next t ∧ t.clk.fStart = (s.clk.fStart || v.getLsbD 31) ∧
       t.clk.fDone = (s.clk.fDone && !v.getLsbD 31) ∧ t.clk.fWindow = v.toNat % 1024 ∧ KeepsBut [.clk] s t) ∧
   (∀ (n : Word) (s : State), s.clk.fStart = true →
     exec (.fmeasDone n) s = .next { s with clk := { s.clk with fStart := false, fDone := true, fResult := n } }) ∧
   (∀ (v : Word) (s : State), s.clkValid = true → v.toNat % 64 ≤ 54 →
     ∃ t, exec (.clkPllSettingWrite 4 v) s = .next t ∧ t.clk.nocPll = v.toNat % 64 ∧ t.clk.pllBusy.getLsbD 4 = true ∧
       KeepsBut [.clk] s t) ∧
   (∀ (v : Word) (s : State), s.clkValid = true → v.toNat % 64 ≤ 36 →
     ∃ t, exec (.clkPllSettingWrite 5 v) s = .next t ∧ t.clk.codecPll = v.toNat % 64 ∧ t.clk.pllBusy.getLsbD 5 = true ∧
       KeepsBut [.clk] s t) ∧
   (∀ (p : Fin 6) (v : Word) (s : State), p.val < 4 → s.clkValid = true → v.toNat % 64 ≤ 42 → s.arr.mode ≠ .press →
     ∃ t, exec (.clkPllSettingWrite p v) s = .next t ∧ t.clk.qpll.get p.val = v.toNat % 64 ∧
       (∀ q, q < 4 → q ≠ p.val → t.clk.qpll.get q = s.clk.qpll.get q) ∧ t.clk.pllBusy.getLsbD p.val = true ∧
       KeepsBut [.clk, .arr, .ctxs] s t) ∧
   (∀ (p : Fin 6) (v : Word) (s : State), (if p.val < 4 then 42 else if p.val = 4 then 54 else 36) < v.toNat % 64 →
     exec (.clkPllSettingWrite p v) s = .next s)) ∧
  ((∀ s : State, s.board.powered = true → s.glb.state ∈ [.ready, .quiesced, .draining, .suspect] → s.glb.resumeState = none →
     s.glb.dozeEntering = false → (∀ c, c < 16 → (s.ctx c).st ≠ .running) →
     ∃ t, exec .xtalLost s = .next t ∧ t.glb.state = .clockHold ∧ t.glb.resumeState = some s.glb.state ∧
       t.clk.xtalLost = true ∧ t.clk.xtalOk = false ∧ t.clk.onIto = true ∧ t.clk.lock = 0 ∧ t.ctxs = s.ctxs ∧ SameBytes s t) ∧
   (∀ s : State, s.board.powered = true → s.glb.state = .doze →
     exec .xtalLost s = .next { s with
       clk := { s.clk with xtalLost := true, xtalOk := false, onIto := true }, peg := { s.peg with timeIto := true } }) ∧
   (∀ s : State, s.board.powered = true → s.glb.state = .clockHold →
     exec .crystalStable s = .next { s with
       clk := { s.clk with xtalOk := true }, glb := { s.glb with holdStage := 4, stageSince := s.time } }) ∧
   ∀ s : State, s.board.powered = true → s.glb.state = .doze →
     exec .crystalStable s = .next { s with
       clk := { s.clk with xtalOk := true, onIto := false }, peg := { s.peg with timeIto := false } })

/-- POWER_SET and POWER_QUERY from PF0, on a ring or over MCTP: a good SET_CAP, SET_RAMP and SET_LIMITS set the fields they
name and, with PERSIST, their settings, and nothing else of the power block; a command over MCTP counts as a heartbeat first,
which ends the orphan countdown, and HEARTBEAT does nothing else; POWER_QUERY answers the power block's readings. -/
def Obligations.PowerCommands : Prop :=
  let beat (s : State) (c : Cmd) : Pwr :=
    if c.ring.val = 8 then { s.pwr with lastBeat := some s.time, orphanArmed := true, orphanHold := false, orphan := false }
    else s.pwr
  let good (s : State) (c : Cmd) (op : Nat) (used : List (Nat × Nat)) : Prop :=
    accepts s c 0x60 [] = true ∧ (c.byte 16).toNat = op ∧ reservedZero c ((16, 17) :: used) = true ∧ (c.byte 17).toNat ≤ 1
  (∀ (c : Cmd) (s : State), good s c 0 [(20, 21)] → 120 ≤ c.le 20 2 → c.le 20 2 ≤ 640 →
    ∃ t, exec (.setCap c) s = .next t ∧ Answered t c (.of stOk) ∧ t.pwr = { beat s c with cap := c.le 20 2 } ∧
      t.settings = (if (c.byte 17).getLsbD 0 then { s.settings with cap := c.le 20 2 } else s.settings) ∧
      Serves [.pwr, .settings] c s t) ∧
  (∀ (c : Cmd) (s : State), good s c 1 [(22, 25)] → 1 ≤ c.le 22 2 → c.le 22 2 ≤ 100 → 1 ≤ c.le 24 2 → c.le 24 2 ≤ 100 →
    ∃ t, exec (.setRamp c) s = .next t ∧ Answered t c (.of stOk) ∧
      t.pwr = { beat s c with up := c.le 22 2, down := c.le 24 2 } ∧
      t.settings = (if (c.byte 17).getLsbD 0 then { s.settings with up := c.le 22 2, down := c.le 24 2 } else s.settings) ∧
      Serves [.pwr, .settings] c s t) ∧
  (∀ (c : Cmd) (s : State), good s c 2 [] →
    ∃ t, exec (.heartbeat c) s = .next t ∧ Answered t c (.of stOk) ∧ t.pwr = beat s c ∧ Serves [.pwr] c s t) ∧
  (∀ (c : Cmd) (s : State), good s c 5 [(26, 31)] → 120 ≤ c.le 26 2 → c.le 26 2 ≤ 640 → 120 ≤ c.le 28 2 → c.le 28 2 ≤ 640 →
    70 ≤ (c.byte 30).toNat → (c.byte 30).toNat ≤ 100 → 20 ≤ (c.byte 31).toNat → (c.byte 31).toNat ≤ 60 →
    ∃ t, exec (.setLimits c) s = .next t ∧ Answered t c (.of stOk) ∧
      t.pwr = { beat s c with orphanCap := c.le 26 2, warnCap := c.le 28 2, tThrottle := (c.byte 30).toNat,
                              inletMax := (c.byte 31).toNat } ∧
      t.settings = (if (c.byte 17).getLsbD 0 then { s.settings with
        orphanCap := c.le 26 2, warnCap := c.le 28 2, tThrottle := (c.byte 30).toNat, inletMax := (c.byte 31).toNat }
        else s.settings) ∧ Serves [.pwr, .settings] c s t) ∧
  (∀ (c : Cmd) (s : State), accepts s c 0x61 [] = true → reservedZero c [] = true →
    ∃ t, exec (.powerQuery c) s = .next t ∧ t.pwr = beat s c ∧ Serves [.pwr] c s t ∧
      (let u := { s with pwr := beat s c }
       Answered t c (.ok (leBytes 2 u.inputAvg ++ leBytes 2 (u.pwr.ceilMw / 1000) ++ leBytes 2 u.effLimit.1 ++
        leBytes 2 (min 0xFFFF u.trackMs) ++ leBytes 4 u.pwrStatus ++ leBytes 1 (signedByte u.pwr.hottest) ++
        leBytes 1 (signedByte u.pwr.inlet) ++ leBytes 2 u.quad0 ++ leBytes 4 u.hbAge))))

/-- A VF's query of another function's context is DENIED and reports nothing.
A power limit out of its range 120–640 W is refused with BAD_PARAM at byte 20, whatever PERSIST says, and sets nothing;
over MCTP the command still counts as a heartbeat.
A grammar slot that is loaded, whoever holds it, refuses another table.
A full mailbox rejects a message: nothing is put, its overflow bit and the overflow count advance, and a post of PF0 is an
Unsupported Request.
A virtual line's position is set by its owner alone: any other sender is DENIED and the line stays. -/
def Obligations.Refusals : Prop :=
  (∀ (c : Cmd) (s : State), accepts s c 0x0B [] = true → c.fn.val ≠ 0 → (c.byte 16).toNat ≠ c.fn.val - 1 →
     ∃ t, exec (.ctxQuery c) s = .next t ∧ Answered t c (.of stDenied) ∧ Serves [] c s t) ∧
  (∀ (c : Cmd) (s : State), accepts s c 0x60 [] = true → (c.byte 16).toNat = 0 →
     reservedZero c [(16, 17), (20, 21)] = true → (c.byte 17).toNat ≤ 1 → c.le 20 2 < 120 ∨ 640 < c.le 20 2 →
     ∃ t, exec (.setCap c) s = .next t ∧ Answered t c (.bad 20) ∧ (c.ring.val ≠ 8 → t.pwr = s.pwr) ∧ Serves [.pwr] c s t) ∧
  (∀ (c : Cmd) (table : Blob) (s : State), accepts s c 0x1C [] = true → reservedZero c [(16, 16), (24, 35)] = true →
     (c.byte 16).toNat ≤ 63 → gramOk table (c.le 32 4) = true → (s.tsu.grams.get (c.byte 16).toNat).loaded = true →
     ∃ t, exec (.grammarLoad c table) s = .next t ∧ Answered t c (.of stNoRes) ∧ Serves [] c s t) ∧
  ((∀ (m : Fin 24) (cls idx : Nat) (bs : List Byte) (s : State), s.mbxValid = true → s.sendsTo m.val cls idx = true →
     4 ≤ (s.mbx.boxes.get m.val).length →
     ∃ t, exec (.mailboxWrite m cls idx bs) s = .next t ∧ t.mbx.boxes = s.mbx.boxes ∧ t.mbx.ovf.getLsbD m.val = true ∧
       t.tel = (s.bump (mbxBase + 0x18)).tel ∧ KeepsBut [.mbx, .tel] s t) ∧
   ∀ (v : Word) (s : State), s.mbxValid = true → 4 ≤ (s.mbx.boxes.get 1).length →
     ∃ t, exec (.mbxPost v) s = .next t ∧ t.mbx.boxes = s.mbx.boxes ∧ t.mbx.ovf.getLsbD 1 = true ∧
       t.tel = (s.bump (mbxBase + 0x18)).tel ∧ t.host = { s.host with unsupported := s.host.unsupported + 1 } ∧
       KeepsBut [.mbx, .tel, .host] s t) ∧
  (∀ (c : Cmd) (s : State), accepts s c 0x41 [] = true → 8 ≤ (c.byte 16).toNat →
     (c.byte 16).toNat ≤ 15 → (s.line (c.byte 16).toNat).owner.toNat ≠ (if c.fn.val = 0 then 0x1F else c.fn.val - 1) →
     ∃ t, exec (.linePosition c) s = .next t ∧ Answered t c (.of stDenied) ∧ Serves [] c s t)

/-- DOZE and WAKE.  DOZE from READY or QUIESCED with no context on the array enters DOZE at once and remembers the state to
resume; with a step under way it waits for it; in DOZE it is ALREADY done.  WAKE of a module that is not in DOZE is ALREADY
done; from DOZE it restores the state to resume and the quadrants' PLL settings, is refused while heat holds the module there,
and with the crystal lost leads to CLOCK_HOLD and waits. -/
def Obligations.DozeAndWake : Prop :=
  let good (s : State) (c : Cmd) (op : Nat) : Prop :=
    accepts s c 0x60 [] = true ∧ (c.byte 16).toNat = op ∧ reservedZero c [(16, 17)] = true ∧ (c.byte 17).toNat ≤ 1
  (∀ (c : Cmd) (s : State), good s c 3 → s.glb.state = .ready ∨ s.glb.state = .quiesced → s.glb.dozeEntering = false →
    s.glb.wakePending = false → s.glb.resumeState = none → s.arr.cur = none →
    ∃ t, exec (.doze c) s = .next t ∧ t.glb.state = .doze ∧ t.glb.resumeState = some s.glb.state ∧
      t.clk.saved.take 4 = s.quads ∧ SameBytes s t) ∧
  (∀ (c : Cmd) (x : Nat) (s : State), good s c 3 → s.glb.state = .ready ∨ s.glb.state = .quiesced →
    s.glb.dozeEntering = false → s.arr.cur = some x → (s.ctx x).running = true →
    ∃ t, exec (.doze c) s = .next t ∧ Waits t c .dozed ∧ t.glb.dozeEntering = true ∧ t.glb.state = s.glb.state ∧
      Serves [.glb, .pwr] c s t) ∧
  (∀ (c : Cmd) (s : State), good s c 3 → s.glb.state = .doze →
    ∃ t, exec (.doze c) s = .next t ∧ Answered t c (.of stAlready) ∧ Serves [.pwr] c s t) ∧
  (∀ (c : Cmd) (s : State), good s c 4 → s.glb.state ≠ .doze →
    ∃ t, exec (.wake c) s = .next t ∧ Answered t c (.of stAlready) ∧ Serves [.pwr] c s t) ∧
  (∀ (c : Cmd) (r : ModState) (s : State), good s c 4 → s.glb.state = .doze → s.glb.resumeState = some r →
    r = .ready ∨ r = .quiesced → s.glb.drainLimitPassed = false → s.pwr.dozeThermal = false → s.clk.xtalOk = true →
    ∃ t, exec (.wake c) s = .next t ∧ t.glb.state = r ∧ t.glb.resumeState = none ∧
      (∀ q, q < 4 → t.clk.qpll.get q = s.clk.saved.getD q 0)) ∧
  (∀ (c : Cmd) (s : State), good s c 4 → s.glb.state = .doze → s.pwr.dozeThermal = true →
    ∃ t d, exec (.wake c) s = .next t ∧ Answered t c { status := stBusy, detail := d } ∧ t.glb.state = .doze ∧
      Serves [.pwr, .fresh] c s t) ∧
  (∀ (c : Cmd) (s : State), good s c 4 → s.glb.state = .doze → s.pwr.dozeThermal = false → s.clk.xtalOk = false →
    ∃ t, exec (.wake c) s = .next t ∧ Waits t c .awake ∧ t.glb.state = .clockHold ∧ t.glb.resumeState = s.glb.resumeState)

/-- Brake, warning, PMBus and coolant inputs: a brake or a warning that begins is latched and counted, raises PF0's doorbell
bit 14 and takes the quadrants to their lowest clock; its end clears it; a coolant fault that begins is latched with the
doorbell; telemetry is held as read.
Die sensors: at 115 °C the module trips and loses power; below that the hottest sensor is recorded, and above T_THROTTLE
the module throttles; from 105 °C on it also goes into a thermal DOZE, at once in READY with no context on the array, and
start-up is held. -/
def Obligations.PowerEvents : Prop :=
  ((∀ s : State, s.board.powered = true → s.pwr.brake = false →
     ∃ t, exec .brakeAssert s = .next t ∧ t.pwr.brake = true ∧ t.pwr.events.getLsbD 1 = true ∧
       t.tel.brakes = s.tel.brakes + 1 ∧ (t.func 0).dbPend.getLsbD 14 = true ∧
       (s.quadsOn = true → ∀ q, q < 4 → t.clk.qpll.get q = 0) ∧ KeepsBut [.pwr, .tel, .host, .clk, .arr, .ctxs] s t) ∧
   (∀ s : State, exec .brakeRelease s = .next { s with pwr := { s.pwr with brake := false } }) ∧
   (∀ s : State, s.board.powered = true → s.pwr.warn = false →
     ∃ t, exec .pwrWarnAssert s = .next t ∧ t.pwr.warn = true ∧ t.pwr.events.getLsbD 2 = true ∧
       t.pwr.forcedEnd = s.time + 50 * usNs ∧ t.tel.warns = s.tel.warns + 1 ∧ (t.func 0).dbPend.getLsbD 14 = true ∧
       (s.quadsOn = true → ∀ q, q < 4 → t.clk.qpll.get q = 0) ∧ KeepsBut [.pwr, .tel, .host, .clk, .arr, .ctxs] s t) ∧
   (∀ s : State, exec .pwrWarnRelease s = .next { s with pwr := { s.pwr with warn := false } }) ∧
   (∀ (a b c d : Word) (s : State), s.board.powered = true →
     exec (.pmbusTelemetry a b c d) s = .next { s with pwr := { s.pwr with vin := a, iin := b, pin := c, ptemp := d } }) ∧
   (∀ (flow : Bool) (inlet : Int) (s : State), s.board.powered = true → s.pwr.coolant = false →
     flow = false ∨ (s.pwr.inletMax : Int) < inlet →
     ∃ t, exec (.coolantFault flow inlet) s = .next t ∧ t.pwr.coolant = true ∧ t.pwr.inlet = inlet ∧
       t.pwr.events.getLsbD 3 = true ∧ (t.func 0).dbPend.getLsbD 14 = true ∧ KeepsBut [.pwr, .tel, .host] s t) ∧
   ∀ (inlet : Int) (s : State), s.board.powered = true → inlet ≤ s.pwr.inletMax →
     exec (.coolantFaultClear true inlet) s = .next { s with pwr := { s.pwr with inlet, coolant := false } }) ∧
  ((∀ (temps : List Int) (s : State), s.board.powered = true → temps.length = 16 → 115 ≤ temps.foldl max (temps.headD 0) →
     ∃ t, exec (.dieSensorRead temps) s = .next t ∧ t.board.powered = false ∧ t.board.tripLatch = true) ∧
   (∀ (temps : List Int) (s : State), s.board.powered = true → temps.length = 16 → 105 ≤ temps.foldl max (temps.headD 0) →
     temps.foldl max (temps.headD 0) < 115 →
     ∃ t, exec (.dieSensorRead temps) s = .next t ∧ t.pwr.hottest = temps.foldl max (temps.headD 0) ∧
       (s.glb.state = .init → t.glb.thermalHeld = true ∧ t.pwr.dozeThermal = true) ∧
       (s.glb.state = .ready → s.glb.dozeEntering = false → s.arr.cur = none →
         t.glb.state = .doze ∧ t.pwr.dozeThermal = true)) ∧
   ∀ (temps : List Int) (s : State), s.board.powered = true → temps.length = 16 → temps.foldl max (temps.headD 0) < 105 →
     ∃ t, exec (.dieSensorRead temps) s = .next t ∧ t.pwr.hottest = temps.foldl max (temps.headD 0) ∧
       ((s.pwr.tThrottle : Int) < t.pwr.hottest → t.pwr.throttle = true) ∧ KeepsBut [.pwr, .tel] s t)

/-- The power controller's tick takes the sample, keeps at most the latest hundred and adds the energy; a brake or a warning's
forced window holds the ceiling at 120 W, and otherwise the ceiling falls by no more than the ramp's down rate. -/
def Obligations.PowerTick : Prop :=
  ∀ (inputDw thermalW : Nat) (s : State), s.board.powered = true →
    ∃ t, exec (.powerControllerTick inputDw thermalW) s = .next t ∧ t.pwr.inputDw = inputDw ∧
      t.pwr.samples = (inputDw :: s.pwr.samples).take 100 ∧ t.tel.energyUj = s.tel.energyUj + inputDw ∧
      (s.pwr.brake = true ∨ s.time < s.pwr.forcedEnd → t.pwr.ceilMw = 120000) ∧
      (s.pwr.brake = false → s.pwr.forcedEnd ≤ s.time → s.pwr.ceilMw ≤ t.pwr.ceilMw + s.pwr.down * 10) ∧
      KeepsBut [.pwr, .tel, .clk, .arr, .ctxs, .fresh] s t

/-- Loss of the host's heartbeat: 2 s without one hold the countdown, 60 s more make the module an orphan, with a doorbell.
Release from heat: at most 85 °C for 10 s with the coolant good, start-up goes on, RECOVERY's hold ends and a thermal DOZE
with the crystal good gives way to the state to resume; a DOZE entry for heat that runs over 20 ms with nothing running enters
DOZE. -/
def Obligations.ThermalAndOrphan : Prop :=
  ((∀ s : State, s.board.powered = true → s.pwr.orphanArmed = true → s.pwr.orphanHold = false → s.pwr.orphan = false →
     s.pwr.lastBeat.getD s.pwr.orphanSince + 2 * secNs ≤ s.time →
     exec .heartbeatLoss s = .next { s with pwr := { s.pwr with
       orphanHold := true, orphanSince := s.time, events := s.pwr.events ||| 0x20 } }) ∧
   ∀ s : State, s.board.powered = true → s.pwr.orphanHold = true → s.pwr.orphan = false →
     s.pwr.orphanSince + 60 * secNs ≤ s.time →
     ∃ t, exec .orphan s = .next t ∧ t.pwr.orphan = true ∧ (t.func 0).dbPend.getLsbD 14 = true ∧
       KeepsBut [.pwr, .tel, .host] s t) ∧
  ((∀ (since : Nat) (s : State), s.pwr.coldSince = some since → since + 10 * secNs ≤ s.time → s.pwr.coolant = false →
     s.pwr.dozeThermal = true → s.glb.state = .init → s.glb.stage ≠ 7 →
     exec .thermalRelease s = .next { s with
       pwr := { s.pwr with dozeThermal := false }
       glb := { s.glb with thermalHeld := false, stageHalted := false, stageSince := s.time } }) ∧
   (∀ (since : Nat) (s : State), s.pwr.coldSince = some since → since + 10 * secNs ≤ s.time → s.pwr.coolant = false →
     s.pwr.dozeThermal = true → s.glb.state = .recovery →
     exec .thermalRelease s = .next { s with pwr := { s.pwr with dozeThermal := false } }) ∧
   (∀ (since : Nat) (s : State), s.pwr.coldSince = some since → since + 10 * secNs ≤ s.time → s.pwr.coolant = false →
     s.pwr.dozeThermal = true → s.glb.state = .doze → s.glb.resumeState = some .ready → s.glb.drainLimitPassed = false →
     s.clk.xtalOk = true →
     ∃ t, exec .thermalRelease s = .next t ∧ t.glb.state = .ready ∧ t.pwr.dozeThermal = false) ∧
   ∀ s : State, s.glb.dozeEntering = true → s.pwr.dozeThermal = true → s.glb.dozeSince + 20 * msNs ≤ s.time →
     s.arr.cur = none → (∀ c, c < 16 → (s.ctx c).st ≠ .running) →
     ∃ t, exec .dozeEntryTimeout s = .next t ∧ t.glb.state = .doze)

/-! ### Lines and pegs (02) -/

/-- Lines.  A count moves an enabled line by one, up or down as INVERT says, and its HWM after it; a transition of both channels
sets ENC_ERR and counts instead; a transition that the unit cannot resolve sets OVERSPEED; a disabled line takes none.  An
index pulse latches the position of an enabled line with INDEX_LATCH and never changes it.  A line is stopped after 1 s
without an event.  LINE_POSITION from its owner moves a virtual line.  Other lines stay, and where no armed peg lies on the line
every peg does.
LINE_CONFIG.  A physical line that was off starts at 0, or at its preset position, with its fields; a virtual line too, with
its owner; a line that is cleared is stopped, and where no peg lies on it nothing else moves; a trigger that keeps its line
takes its fields. -/
def Obligations.Lines : Prop :=
  ((∀ (l : Fin 8) (k : Enc) (tf : Bool) (s : State), s.pegLive = true → (s.line l.val).enable = true → k ≠ .both →
     ∃ t, exec (.encoderTransition l k tf) s = .next t ∧
       (t.line l.val).pos = (if (k == Enc.up) == (s.line l.val).invert then (s.line l.val).pos - 1 else (s.line l.val).pos + 1) ∧
       (t.line l.val).hwm = (if 0 < posDiff (t.line l.val).pos (s.line l.val).hwm then (t.line l.val).pos else (s.line l.val).hwm) ∧
       (t.line l.val).stopped = false ∧ (tf = true → (t.line l.val).overspeed = true) ∧
       (∀ m, m ≠ l.val → t.line m = s.line m) ∧
       ((∀ n, n < 256 → (s.pegAt n).st = .armed → (s.pegAt n).line.val ≠ l.val) → t.peg.pegs = s.peg.pegs ∧ KeepsBut [.peg] s t)) ∧
   (∀ (l : Fin 8) (tf : Bool) (s : State), s.pegLive = true → (s.line l.val).enable = true →
     ∃ t, exec (.encoderTransition l .both tf) s = .next t ∧ (t.line l.val).pos = (s.line l.val).pos ∧
       (t.line l.val).hwm = (s.line l.val).hwm ∧ (t.line l.val).encErr = true ∧
       (t.line l.val).errCnt = (if (s.line l.val).errCnt = 0xFFFF then 0xFFFF else (s.line l.val).errCnt + 1) ∧
       (∀ m, m ≠ l.val → t.line m = s.line m) ∧ t.peg.pegs = s.peg.pegs ∧ KeepsBut [.peg] s t) ∧
   (∀ (l : Fin 8) (k : Enc) (tf : Bool) (s : State), (s.line l.val).enable = false →
     exec (.encoderTransition l k tf) s = .next s) ∧
   (∀ (l : Fin 8) (s : State), s.pegLive = true → (s.line l.val).enable = true → (s.line l.val).indexLatch = true →
     exec (.indexPulse l) s = .next (s.updLine l.val fun x => { x with idx := (s.line l.val).pos, indexSeen := true })) ∧
   (∀ (l : Fin 8) (m : Nat) (s : State), ∃ t, exec (.indexPulse l) s = .next t ∧ (t.line m).pos = (s.line m).pos) ∧
   (∀ (l : Fin 16) (s : State), s.pegLive = true → (s.line l.val).enable = true → (s.line l.val).stopped = false →
     (s.line l.val).lastEvent + secNs ≤ s.time →
     exec (.lineStopped l) s = .next (s.updLine l.val fun x => { x with stopped := true, vel := 0 })) ∧
   ∀ (c : Cmd) (s : State), accepts s c 0x41 [] = true → reservedZero c [(16, 16), (24, 29)] = true → 8 ≤ (c.byte 16).toNat →
     (c.byte 16).toNat ≤ 15 → (s.line (c.byte 16).toNat).owner.toNat = (if c.fn.val = 0 then 0x1F else c.fn.val - 1) →
     (s.line (c.byte 16).toNat).enable = true →
     ∃ t, exec (.linePosition c) s = .next t ∧ Answered t c (.of stOk) ∧
       (t.line (c.byte 16).toNat).pos = BitVec.ofNat 48 (c.le 24 6) ∧
       (∀ m, m ≠ (c.byte 16).toNat → t.line m = s.line m) ∧
       ((∀ n, n < 256 → (s.pegAt n).st = .armed → (s.pegAt n).line.val ≠ (c.byte 16).toNat) →
         t.peg.pegs = s.peg.pegs ∧ Serves [.peg] c s t)) ∧
  ((∀ (c : Cmd) (s : State), accepts s c 0x40 [] = true → (c.byte 16).toNat < 0x10 →
     reservedZero c (if (c.byte 16).toNat < 8 then [(16, 18), (20, 29)] else [(16, 29)]) = true →
     (8 ≤ (c.byte 16).toNat → (c.byte 19).toNat ≤ 0xF ∨ (c.byte 19).toNat = 0x1F) →
     (c.byte 17).toNat ≤ 15 → (c.byte 17).getLsbD 0 = true → (s.line (c.byte 16).toNat).enable = false →
     (∀ n, n < 256 → (s.pegAt n).st ≠ .free → (s.pegAt n).line.val ≠ (c.byte 16).toNat) →
     ∃ t, exec (.lineConfigLine c) s = .next t ∧ Answered t c (.of stOk) ∧
       (let x := t.line (c.byte 16).toNat
        let at_ : Pos := if (c.byte 17).getLsbD 3 then BitVec.ofNat 48 (c.le 24 6) else 0
        x.enable = true ∧ x.pos = at_ ∧ x.hwm = at_ ∧ x.vel = 0 ∧ x.stopped = true ∧ x.invert = (c.byte 17).getLsbD 1 ∧
          x.indexLatch = (c.byte 17).getLsbD 2 ∧ x.filter = c.byte 18 ∧ x.scale = BitVec.ofNat 32 (c.le 20 4) ∧
          (8 ≤ (c.byte 16).toNat → x.owner.toNat = (c.byte 19).toNat)) ∧
       (∀ m, m ≠ (c.byte 16).toNat → t.line m = s.line m) ∧ t.peg.pegs = s.peg.pegs ∧ Serves [.peg] c s t) ∧
   (∀ (c : Cmd) (s : State), accepts s c 0x40 [] = true → (c.byte 16).toNat < 8 → reservedZero c [(16, 18), (20, 29)] = true →
     (c.byte 17).toNat ≤ 7 → (c.byte 17).getLsbD 0 = false → (s.line (c.byte 16).toNat).enable = true →
     (∀ n, n < 256 → (s.pegAt n).st ≠ .free → (s.pegAt n).line.val ≠ (c.byte 16).toNat) →
     ∃ t, exec (.lineConfigLine c) s = .next t ∧ Answered t c (.of stOk) ∧
       (let x := t.line (c.byte 16).toNat
        x.enable = false ∧ x.pos = (s.line (c.byte 16).toNat).pos ∧ x.vel = 0 ∧ x.stopped = true) ∧
       (∀ m, m ≠ (c.byte 16).toNat → t.line m = s.line m) ∧ t.peg.pegs = s.peg.pegs ∧ Serves [.peg] c s t) ∧
   ∀ (c : Cmd) (s : State), accepts s c 0x40 [] = true → 0x10 ≤ (c.byte 16).toNat → (c.byte 16).toNat ≤ 0x13 →
     reservedZero c [(16, 18), (20, 21)] = true → (c.byte 17).toNat ≤ 3 → (c.byte 18).toNat ≤ 15 → c.le 20 2 ≠ 0 →
     (s.peg.trigs.get ((c.byte 16).toNat - 0x10)).line.val = (c.byte 18).toNat ∨
       (∀ n, n < 256 → (s.pegAt n).st ≠ .waiting) →
     ∃ t, exec (.lineConfigTrigger c) s = .next t ∧ Answered t c (.of stOk) ∧
       (let x := t.peg.trigs.get ((c.byte 16).toNat - 0x10)
        x.enable = (c.byte 17).getLsbD 0 ∧ x.falling = (c.byte 17).getLsbD 1 ∧ x.line.val = (c.byte 18).toNat ∧
          x.filter = BitVec.ofNat 16 (c.le 20 2)) ∧ t.peg.pegs = s.peg.pegs ∧ t.peg.lines = s.peg.lines ∧ Serves [.peg] c s t)

/-- PEG_ARM takes the lowest FREE peg and answers its number: ARMED on a target the line has not reached, WAITING on an offset
from its trigger's next capture; a context that holds 64 pegs gets NO_RESOURCE, and WAKE from a VF is DENIED.  PEG_DISARM frees
a peg its sender armed, ALREADY done where its fire came in the same ns; a peg of another function is DENIED; a FREE one is
ALREADY done for the function that armed it last and NOT_BOUND for any other. -/
def Obligations.PegCommands : Prop :=
  let fresh (s : State) (n : Nat) : Prop := n < 256 ∧ (s.pegAt n).st = .free ∧ ∀ m, m < n → (s.pegAt m).st ≠ .free
  let mayArm (s : State) (c : Cmd) : Prop :=
    accepts s c 0x42 [] = true ∧ (c.byte 16).toNat ≤ 15 ∧ (s.line (c.byte 16).toNat).enable = true ∧ (c.byte 17).toNat ≤ 7 ∧
    ((c.byte 17).getLsbD 1 = true → c.fn.val = 0)
  (∀ (c : Cmd) (n : Nat) (s : State), mayArm s c → (c.byte 17).getLsbD 0 = false →
    reservedZero c [(16, 17), (24, 29)] = true → c.fn.val = 0 ∨ s.pegsOf c.fn.val < 64 →
    0 < posDiff (BitVec.ofNat 48 (c.le 24 6)) (s.line (c.byte 16).toNat).hwm →
    posDiff (BitVec.ofNat 48 (c.le 24 6)) (s.line (c.byte 16).toNat).hwm ≤ (2 : Int) ^ 46 - 1 → fresh s n →
    ∃ t, exec (.pegArm c) s = .next t ∧ Answered t c (.ok [BitVec.ofNat 8 n]) ∧
      (let p := t.pegAt n
       p.st = .armed ∧ p.armedBy = some c.fn.val ∧ p.line.val = (c.byte 16).toNat ∧ p.target = BitVec.ofNat 48 (c.le 24 6) ∧
         p.wake = (c.byte 17).getLsbD 1 ∧ p.noMissOut = (c.byte 17).getLsbD 2 ∧ p.bindings = []) ∧
      (∀ m, m ≠ n → t.pegAt m = s.pegAt m) ∧ t.peg.lines = s.peg.lines ∧ Serves [.peg] c s t) ∧
  (∀ (c : Cmd) (n : Nat) (s : State), mayArm s c → (c.byte 17).getLsbD 0 = true →
    reservedZero c [(16, 18), (24, 29)] = true → c.fn.val = 0 ∨ s.pegsOf c.fn.val < 64 → (c.byte 18).toNat ≤ 3 →
    (s.peg.trigs.get (c.byte 18).toNat).line.val = (c.byte 16).toNat → c.le 24 6 ≤ 2 ^ 46 - 1 → fresh s n →
    ∃ t, exec (.pegArm c) s = .next t ∧ Answered t c (.ok [BitVec.ofNat 8 n]) ∧
      (let p := t.pegAt n
       p.st = .waiting ∧ p.armedBy = some c.fn.val ∧ p.trigger.map Fin.val = some (c.byte 18).toNat ∧
         p.target = BitVec.ofNat 48 (c.le 24 6)) ∧
      (∀ m, m ≠ n → t.pegAt m = s.pegAt m) ∧ t.peg.lines = s.peg.lines ∧ Serves [.peg] c s t) ∧
  (∀ (c : Cmd) (s : State), mayArm s c → c.fn.val ≠ 0 → (c.byte 17).getLsbD 0 = false →
    reservedZero c [(16, 17), (24, 29)] = true → 64 ≤ s.pegsOf c.fn.val →
    posDiff (BitVec.ofNat 48 (c.le 24 6)) (s.line (c.byte 16).toNat).hwm ≤ (2 : Int) ^ 46 - 1 →
    ∃ t, exec (.pegArm c) s = .next t ∧ Answered t c (.of stNoRes) ∧ Serves [] c s t) ∧
  (∀ (c : Cmd) (s : State), accepts s c 0x42 [] = true → c.fn.val ≠ 0 → (c.byte 17).getLsbD 1 = true →
    ∃ t, exec (.pegArm c) s = .next t ∧ Answered t c (.of stDenied) ∧ Serves [] c s t) ∧
  (∀ (c : Cmd) (s : State), accepts s c 0x43 [] = true → reservedZero c [(16, 16)] = true →
    (s.pegAt (c.byte 16).toNat).st ≠ .free → (s.pegAt (c.byte 16).toNat).armedBy = some c.fn.val →
    ∃ t, exec (.pegDisarm c) s = .next t ∧
      Answered t c (.of (if (s.pegAt (c.byte 16).toNat).firedAt = some s.time then stAlready else stOk)) ∧
      (t.pegAt (c.byte 16).toNat).st = .free ∧
      (∀ m, m ≠ (c.byte 16).toNat → t.pegAt m = s.pegAt m) ∧ Serves [.peg, .dma] c s t) ∧
  (∀ (c : Cmd) (s : State), accepts s c 0x43 [] = true → reservedZero c [(16, 16)] = true →
    (s.pegAt (c.byte 16).toNat).st ≠ .free → (s.pegAt (c.byte 16).toNat).armedBy ≠ some c.fn.val →
    ∃ t, exec (.pegDisarm c) s = .next t ∧ Answered t c (.of stDenied) ∧ Serves [] c s t) ∧
  ∀ (c : Cmd) (s : State), accepts s c 0x43 [] = true → reservedZero c [(16, 16)] = true →
    (s.pegAt (c.byte 16).toNat).st = .free →
    ∃ t, exec (.pegDisarm c) s = .next t ∧
      Answered t c (.of (if (s.pegAt (c.byte 16).toNat).armedBy = some c.fn.val then stAlready else stNotBound)) ∧
      Serves [] c s t

/-- A peg that fires sets its bit of PEG_FIRED: with no work bound it is FREE again; with work bound it is FIRED and a miss,
and MISS_OUT holds from then for MISS_HOLD unless the peg forbids it.
A trigger edge of its active kind on an enabled line captures the line's position and the time, and where no peg waits
nothing else happens; the other edge does nothing; MISS_OUT ends with its hold; a velocity update moves no position, and the
velocity of a line that is stopped or off is 0. -/
def Obligations.PegsAndTriggers : Prop :=
  ((∀ (n : Nat) (past : Bool) (s : State), n < 256 → (s.pegAt n).bindings = [] → (s.pegAt n).wake = false →
     ((s.firePeg past n).pegAt n).st = .free ∧ ((s.firePeg past n).pegAt n).miss = false ∧
     ((s.firePeg past n).peg.fired.get (n / 32)).getLsbD (n % 32) = true ∧
     (s.firePeg past n).peg.missOut = s.peg.missOut ∧ (∀ m, m ≠ n → (s.firePeg past n).pegAt m = s.pegAt m)) ∧
   ∀ (n k : Nat) (enc : Bool) (tag : Nat) (s : State), n < 256 → (s.pegAt n).bindings = [.picture k enc tag] →
     (s.pegAt n).wake = false → (s.pegAt n).noMissOut = false → s.peg.missHold ≠ 0 → s.outputsLive = true →
     ((s.firePeg false n).pegAt n).st = .fired ∧ ((s.firePeg false n).pegAt n).miss = true ∧
     (s.firePeg false n).peg.missOut = true ∧
     (s.firePeg false n).peg.missEnd = s.time + s.peg.missHold.toNat * msNs) ∧
  ((∀ (m : Fin 4) (rising : Bool) (s : State), s.pegLive = true → (s.peg.trigs.get m.val).enable = true →
     rising ≠ (s.peg.trigs.get m.val).falling → (s.line (s.peg.trigs.get m.val).line.val).enable = true →
     (∀ n, n < 256 → (s.pegAt n).st ≠ .waiting) →
     ∃ t, exec (.triggerEdge m rising) s = .next t ∧
       (let x := t.peg.trigs.get m.val
        x.capPos = (s.line (s.peg.trigs.get m.val).line.val).pos ∧ x.capTime = s.pegTime ∧
          x.seq = (s.peg.trigs.get m.val).seq + 1) ∧
       t.peg.lines = s.peg.lines ∧ t.peg.pegs = s.peg.pegs ∧ KeepsBut [.peg] s t) ∧
   (∀ (m : Fin 4) (s : State), exec (.triggerEdge m (s.peg.trigs.get m.val).falling) s = .next s) ∧
   (∀ s : State, s.peg.missOut = true → s.peg.missEnd ≤ s.time →
     exec .missHoldExpiry s = .next { s with peg := { s.peg with missOut := false } }) ∧
   ∀ (l : Nat) (s : State), s.pegLive = true → l < 16 → (s.line l).stopped = true ∨ (s.line l).enable = false →
     ∃ t, exec .velocityUpdate s = .next t ∧ (t.line l).vel = 0 ∧ t.peg.pegs = s.peg.pegs ∧
       (∀ m, m < 16 → t.line m = { s.line m with vel := (t.line m).vel }) ∧ KeepsBut [.peg, .fresh] s t)

/-! ### Mailboxes, telemetry, the Darner's registers (13, 16, 19) -/

/-- Mail: a message written on its path stands last in its mailbox; PF0 posts the staged words to mailbox 1 and pops the head
of mailbox 0. -/
def Obligations.Mail : Prop :=
  (∀ (m : Fin 24) (cls idx : Nat) (bs : List Byte) (s : State), s.mbxValid = true → s.sendsTo m.val cls idx = true →
    (s.mbx.boxes.get m.val).length < 4 →
    ∃ t sl, exec (.mailboxWrite m cls idx bs) s = .next t ∧
      t.mbx.boxes.get m.val = s.mbx.boxes.get m.val ++ [sl] ∧ sl.bytes = slotBytes bs ∧ sl.cls = cls ∧ sl.index = idx ∧
      (∀ n, n ≠ m.val → t.mbx.boxes.get n = s.mbx.boxes.get n) ∧ KeepsBut [.mbx, .tel, .host] s t) ∧
  (∀ (v : Word) (s : State), s.mbxValid = true → (s.mbx.boxes.get 1).length < 4 →
    ∃ t sl, exec (.mbxPost v) s = .next t ∧ t.mbx.boxes.get 1 = s.mbx.boxes.get 1 ++ [sl] ∧
      sl.bytes = ((upto 16).flatMap fun i => leBytes 4 (s.mbx.stage.get i).toNat) ∧ sl.cls = 1 ∧ sl.index = 0 ∧
      (∀ n, n ≠ 1 → t.mbx.boxes.get n = s.mbx.boxes.get n) ∧ KeepsBut [.mbx, .tel] s t) ∧
  ∀ (v : Word) (h : Slot) (r : List Slot) (s : State), s.mbxValid = true → s.mbx.boxes.get 0 = h :: r →
    ∃ t, exec (.mbxRxPop v) s = .next t ∧ t.mbx.boxes.get 0 = r ∧ (∀ n, n ≠ 0 → t.mbx.boxes.get n = s.mbx.boxes.get n) ∧
      KeepsBut [.mbx, .tel] s t

/-- Mail is conserved: MBX_PUT_CNT - MBX_TAKE_CNT = MBX_FILL, at most 4, holds after every write, post and pop that it held
before. -/
def Obligations.MailConservation : Prop :=
  let Inv (s : State) : Prop := ∀ m, m < 24 → (s.mbx.boxes.get m).length ≤ 4 ∧
    s.cons (cid 0x48 m) = s.cons (cid 0x49 m) + (s.mbx.boxes.get m).length
  ∀ s t : State, Inv s →
    (∀ (m : Fin 24) (cls idx : Nat) (bs : List Byte), exec (.mailboxWrite m cls idx bs) s = .next t → Inv t) ∧
    (∀ v : Word, exec (.mbxPost v) s = .next t → Inv t) ∧ ∀ v : Word, exec (.mbxRxPop v) s = .next t → Inv t

/-- Snapshots: TELEMETRY_SNAPSHOT, TEL_SNAP_CTRL.TAKE and the period ask for one; the capture takes the next sequence number
and says whether every identity holds.
Lifetime record and histograms.  The first flush moves the oldest 16 records of the queue to flash, numbered in order; the
hourly summary; a read of the record answers the first sequence it returns, how many that fit, and the oldest held; each
histogram bit written clears that histogram and no other. -/
def Obligations.SnapshotsAndRecords : Prop :=
  ((∀ (c : Cmd) (s : State), accepts s c 0x68 [] = true → reservedZero c [(16, 16), (24, 35)] = true → (c.byte 16).toNat ≤ 3 →
     ∃ t, exec (.telemetrySnapshot c) s = .next t ∧ Waits t c (.snapshot (c.byte 16).toNat (c.le 24 8) (c.le 32 4)) ∧
       Serves [] c { s with tel := { s.tel with pending := true } } t) ∧
   (∀ (v : Word) (s : State), s.telValid = true → v.getLsbD 0 = true →
     exec (.telSnapTake v) s = .next { s with tel := { s.tel with take := true, pending := true } }) ∧
   (∀ s : State, s.telValid = true → s.controlRuns = true → s.tel.periodAt + s.tel.periodMs * msNs ≤ s.time →
     exec .periodicSnapshot s = .next { s with tel := { s.tel with periodAt := s.time, pending := true } }) ∧
   ∀ s : State, s.tel.pending = true → s.controlRuns = true →
     ∃ t, exec .snapshotCapture s = .next t ∧ t.tel.snapSeq = s.tel.snapSeq + 1 ∧ t.tel.snapTime = s.pegTime ∧
       t.tel.pending = false ∧ t.tel.take = false ∧ t.tel.snap = s.capture ∧
       t.tel.identityOk = (s.brokenIds fun id => Tbl.get s.capture id).isNone ∧
       (t.tel.identityOk = false → t.tel.events.getLsbD 2 = true ∧ (s.glb.state = .ready → t.glb.state = .draining))) ∧
  ((∀ s : State, s.telValid = true → s.controlRuns = true → s.tel.flushAt = 0 → s.tel.ltQueue ≠ [] → s.tel.ltSuppressed = [] →
     ∃ t, exec .lifetimeFlush s = .next t ∧ t.tel.ltQueue = s.tel.ltQueue.drop 16 ∧
       t.tel.ltSeq = s.tel.ltSeq + min 16 s.tel.ltQueue.length ∧ t.tel.flushAt = s.time ∧
       (s.tel.ltRing.length + 16 ≤ 63488 → t.tel.ltRing = s.tel.ltRing ++
         (s.tel.ltQueue.take 16).mapIdx fun i r => { r with seq := s.tel.ltSeq + i + 1 }) ∧ KeepsBut [.tel] s t) ∧
   (∀ s : State, s.telValid = true → s.controlRuns = true → s.tel.summaryAt + 3600 * secNs ≤ s.time →
     exec .summaryWrite s = .next { s with tel := { s.tel with
       summaries := s.tel.summaries + 1, summaryAt := s.time, summary := s.summaryNow, summaryOld := s.tel.summary } }) ∧
   (∀ (c : Cmd) (n : Nat) (r : LtRec) (rs : List LtRec) (s : State), accepts s c 0x69 [] = true →
     reservedZero c [(16, 16), (20, 35)] = true → (c.byte 16).toNat = 1 → c.le 32 4 = 64 * (n + 1) →
     (s.tel.ltRing.filter fun x => decide (c.le 20 4 = 0xFFFFFFFF ∨ c.le 20 4 ≤ x.seq % 2 ^ 32)) = r :: rs →
     ∃ t, exec (.lifetimeRead c) s = .next t ∧ Serves [] c s t ∧
       Answered t c (.ok (leBytes 8 r.seq ++ (leBytes 4 (min (n + 1) (rs.length + 1)) ++
         leBytes 4 (((s.tel.ltRing.head?.map (·.seq)).getD 0) % 2 ^ 32))))) ∧
   (∀ (c : Cmd) (s : State), accepts s c 0x69 [] = true → reservedZero c [(16, 16), (20, 35)] = true → (c.byte 16).toNat = 0 →
     c.le 32 4 % 64 = 0 →
     ∃ t d, exec (.lifetimeRead c) s = .next t ∧ Serves [.fresh] c s t ∧
       Answered t c (.ok (leBytes 8 d ++ (leBytes 4 0 ++ leBytes 4 (((s.tel.ltRing.head?.map (·.seq)).getD 0) % 2 ^ 32))))) ∧
   ∀ (v : Word) (i : Nat) (s : State), s.telValid = true → i < 6 →
     ∃ t, exec (.telHistClear v) s = .next t ∧ KeepsBut [.tel] s t ∧ t.tel = { s.tel with hists := t.tel.hists } ∧
       t.tel.hists.get i = (if v.getLsbD i then {} else s.tel.hists.get i))

/-- CHECK_CONFIG sets the fields whose SET bits it carries and no other, and refuses to clear a confirmed core while its drain
runs; CHECK_QUERY answers the totals, a bin's count or a core's minorities; DRN_LAST clears but for its bin and step. -/
def Obligations.DarnerRegisters : Prop :=
  (∀ (c : Cmd) (s : State), accepts s c 0x70 [] = true → reservedZero c [(16, 16), (20, 28)] = true →
    (let f := c.le 16 1
     let d := if f.testBit 0 then c.le 20 2 else s.drn.div
     let r := if f.testBit 2 then c.le 23 1 else s.drn.raisedDiv
     f ≤ 15 → (f.testBit 0 = true → 8 ≤ c.le 20 2 ∧ c.le 20 2 ≤ 1024) → (f.testBit 1 = true → 1 ≤ c.le 22 1 ∧ c.le 22 1 ≤ 64) →
     (f.testBit 2 = true → 2 ≤ c.le 23 1 ∧ c.le 23 1 ≤ 64) → r ≤ d ∨ f.testBit 0 = false ∧ f.testBit 2 = false →
     (f.testBit 3 = true → 1000 ≤ c.le 24 4 ∧ c.le 24 4 ≤ 1000000) →
     ∃ t, exec (.checkConfig c) s = .next t ∧ Answered t c (.of stOk) ∧
       t.drn = { s.drn with div := d, raisedDiv := r, rotFloor := (if f.testBit 1 then c.le 22 1 else s.drn.rotFloor),
                            release := (if f.testBit 3 then c.le 24 4 else s.drn.release) } ∧ KeepsBut (.drn :: cmdBlocks) s t)) ∧
  (∀ (c : Cmd) (s : State), accepts s c 0x70 [] = true → reservedZero c [(16, 16), (20, 28)] = true → c.le 16 1 = 0x20 →
    c.le 28 1 ≤ 63 ∨ c.le 28 1 = 0xFF → s.drn.drain = true →
    ∃ t, exec (.checkConfig c) s = .next t ∧ Answered t c (.of stDenied) ∧ Serves [] c s t) ∧
  (∀ (c : Cmd) (s : State), accepts s c 0x71 [] = true → reservedZero c [(16, 16)] = true → c.le 16 1 = 0 →
    ∃ t, exec (.checkQuery c) s = .next t ∧ Serves [] c s t ∧
      Answered t c (.ok (leBytes 6 (s.evAt (drnBase + 0x18)).count.toNat ++ leBytes 2 s.raisedBins ++
        leBytes 6 (s.evAt (drnBase + 0x20)).count.toNat ++ [0, 0] ++ leBytes 6 (s.evAt (drnBase + 0x28)).count.toNat ++
        [BitVec.ofNat 8 (s.drn.cores.filter fun e => e.2.confirmed).length,
         BitVec.ofNat 8 (b2n s.goalsOff + 2 * b2n s.drn.pathConfirmed)]))) ∧
  (∀ (c : Cmd) (s : State), accepts s c 0x71 [] = true → reservedZero c [(16, 16), (18, 19)] = true → c.le 16 1 = 1 →
    c.le 18 2 ≤ 2047 →
    ∃ t, exec (.checkQuery c) s = .next t ∧ Serves [] c s t ∧
      (let b := s.drn.map.get (c.le 18 2)
       Answered t c (.ok (leBytes 4 b.count.toNat ++ [BitVec.ofNat 8 (b2n b.raised + 2 * b2n b.sat), 0, 0, 0] ++
        leBytes 4 (s.binSince b 0xFFFFFFFF))))) ∧
  (∀ (c : Cmd) (s : State), accepts s c 0x71 [] = true → reservedZero c [(16, 16), (18, 18)] = true → c.le 16 1 = 2 →
    c.le 18 1 ≤ 63 →
    ∃ t, exec (.checkQuery c) s = .next t ∧ Serves [] c s t ∧
      (let k := s.drn.cores.get (c.le 18 1)
       Answered t c (.ok ([BitVec.ofNat 8 (s.minWindow (c.le 18 1)), BitVec.ofNat 8 (b2n k.confirmed), 0, 0] ++
        leBytes 4 k.total ++ leBytes 8 k.last)))) ∧
  ∀ (v : Word) (s : State), s.drnValid = true → v.getLsbD 31 = true →
    exec (.drnLastClear v) s = .next { s with drn := { s.drn with last := { bin := s.drn.last.bin, step := s.drn.last.step } } }

/-! ### Contexts and module states (01, 14, 15) -/

/-- CTX_OPEN of a FREE context whose quotas, pages, frames and translation range the module has makes it READY with the quotas
and geometry it names, and with a valid key.  CTX_CLOSE of a context that holds nothing frees it at once, and its key with it.
CTX_RESET of one without work in hand takes its images, weights and log and leaves it READY.  Each leaves every other context
as it is.  CTX_QUERY of one's own context, or from PF0, reports it. -/
def Obligations.ContextCommands : Prop :=
  (∀ (c : Cmd) (s : State), accepts s c 0x08 [] = true → reservedZero c [(16, 20), (22, 36), (40, 47)] = true →
    (c.byte 16).toNat ≤ 15 → (c.byte 17).toNat ∈ [0x1, 0x2, 0x3, 0xB, 0xC] → 1 ≤ c.le 18 2 → c.le 18 2 ≤ 256 →
    1 ≤ (c.byte 20).toNat → (c.byte 20).toNat ≤ 64 → 1 ≤ c.le 22 2 → c.le 22 2 ≤ 256 → c.le 24 4 ≤ 131072 →
    1 ≤ c.le 32 4 → c.le 32 4 ≤ 131072 → 16 ≤ (c.byte 36).toNat → (c.byte 36).toNat ≤ 24 → c.le 40 8 % 4096 = 0 →
    (s.ctx (c.byte 16).toNat).st = .free → c.le 24 4 ≤ s.kvpUnassigned →
    (allCtxs.map fun i => (s.ctx i).reqQuota).foldl (· + ·) 0 + c.le 28 2 ≤ 16384 →
    (allCtxs.map fun i => (s.ctx i).slots.length).foldl (· + ·) 0 + c.le 30 2 ≤ 8192 →
    (let g : Geom := { fmt := (c.byte 17).toNat, layers := c.le 18 2, heads := (c.byte 20).toNat, dim := c.le 22 2 }
     granuleFrames (c.le 24 4 * g.granules) + granuleFrames (c.le 30 2) ≤ s.framesFree) →
    ((s.fetched c).pickRange (c.le 32 4)).isSome = true →
    ∃ t, exec (.ctxOpen c) s = .next t ∧ Answered t c (.of stOk) ∧
      (let x := t.ctx (c.byte 16).toNat
       x.st = .ready ∧ x.layers = c.le 18 2 ∧ x.heads = (c.byte 20).toNat ∧ x.dim = c.le 22 2 ∧ x.pageQuota = c.le 24 4 ∧
         x.reqQuota = c.le 28 2 ∧ x.slotQuota = c.le 30 2 ∧ x.mmuSize = c.le 32 4 ∧ x.tbLog = (c.byte 36).toNat ∧
         x.reqs = [] ∧ x.images = []) ∧
      (t.sec.keys.get (c.byte 16).toNat).valid = true ∧
      (∀ i, i ≠ (c.byte 16).toNat → t.ctx i = s.ctx i) ∧ t.mem = s.mem ∧ t.peg = s.peg) ∧
  (∀ (c : Cmd) (s : State), accepts s c 0x09 [] = true → reservedZero c [(16, 16)] = true → (c.byte 16).toNat ≤ 15 →
    (s.ctx (c.byte 16).toNat).st = .ready → s.holdsAny (c.byte 16).toNat = false → s.glb.state = .ready →
    ∃ t, exec (.ctxClose c) s = .next t ∧ (t.ctx (c.byte 16).toNat).st = .free ∧
      Answered t c (.of stOk) ∧
      (∀ i, i ≠ (c.byte 16).toNat → t.ctx i = s.ctx i) ∧ (t.sec.keys.get (c.byte 16).toNat).valid = false) ∧
  (∀ (c : Cmd) (s : State), accepts s c 0x0A [] = true → reservedZero c [(16, 16)] = true → c.fn.val ≠ 0 →
    (s.ctx (c.fn.val - 1)).st = .ready → (s.ctx (c.fn.val - 1)).steps = [] → (s.ctx (c.fn.val - 1)).reqs = [] →
    (s.ctx (c.fn.val - 1)).jobs = [] → s.sessionsOf (c.fn.val - 1) = [] → (s.ctx (c.fn.val - 1)).closing = false →
    s.glb.state = .ready →
    ∃ t, exec (.ctxReset c) s = .next t ∧ Answered t c (.of stOk) ∧ (t.ctx (c.fn.val - 1)).st = .ready ∧ (t.ctx (c.fn.val - 1)).images = [] ∧
      (t.ctx (c.fn.val - 1)).weights = [] ∧ (t.ctx (c.fn.val - 1)).log = [] ∧
      (∀ i, i ≠ c.fn.val - 1 → t.ctx i = s.ctx i)) ∧
  ∀ (c : Cmd) (s : State), accepts s c 0x0B [] = true → reservedZero c [(16, 16)] = true → (c.byte 16).toNat ≤ 15 →
    c.fn.val = 0 ∨ (c.byte 16).toNat = c.fn.val - 1 →
    ∃ t, exec (.ctxQuery c) s = .next t ∧ Serves [] c s t ∧
      (let x := (c.byte 16).toNat
       let y := s.ctx x
       Answered t c (.ok ([BitVec.ofNat 8 (CtxState.code y.st), BitVec.ofNat 8 y.imageCount, 0, 0] ++ leBytes 4 y.reqs.length ++
        leBytes 4 (s.kvpRef x + s.kvpPend x) ++ leBytes 4 0 ++ leBytes 8 (s.commitWord x))))

/-- QUIESCE stops new steps: it completes at once with none in the making and waits otherwise.  RESUME brings QUIESCED back to
READY and with it every drained context.  DRAIN of a module whose contexts have no work ends in QUIESCED at once, READY contexts
DRAINED; with a step in the making it waits in DRAINING, with its limit noted.  A drain limit that passes in DOZE or CLOCK_HOLD
is noted as passed. -/
def Obligations.ModuleStates : Prop :=
  (∀ (c : Cmd) (s : State), accepts s c 0x58 [] = true → reservedZero c [] = true → s.glb.state = .ready →
    (∀ i, i < 16 → (s.ctx i).steps = []) →
    ∃ t, exec (.quiesce c) s = .next t ∧ Answered t c (.of stOk) ∧ t.glb = { s.glb with state := .quiesced } ∧
      Serves [.glb] c s t) ∧
  (∀ (c : Cmd) (s : State), accepts s c 0x58 [] = true → reservedZero c [] = true → s.glb.state = .ready →
    (∃ i, i < 16 ∧ (s.ctx i).steps ≠ []) →
    ∃ t, exec (.quiesce c) s = .next t ∧ Waits t c .quiesced ∧ t.glb = { s.glb with state := .quiesced } ∧ Serves [.glb] c s t) ∧
  (∀ (c : Cmd) (s : State), accepts s c 0x5A [] = true → reservedZero c [] = true → s.glb.state = .quiesced →
    ∃ t, exec (.resume c) s = .next t ∧ Answered t c (.of stOk) ∧ t.glb.state = .ready ∧
      (∀ i, i < 16 → t.ctx i = { s.ctx i with st := if (s.ctx i).st = .drained then .ready else (s.ctx i).st }) ∧
      Serves [.glb, .ctxs] c s t) ∧
  (∀ (c : Cmd) (s : State), accepts s c 0x59 [] = true → reservedZero c [(16, 16), (20, 23)] = true → (c.byte 16).toNat ≤ 1 →
    s.glb.state = .ready ∨ s.glb.state = .quiesced →
    (∀ i, i < 16 → (s.ctx i).st = .free ∨ (s.ctx i).st = .ready ∧ (s.ctx i).reqs = [] ∧ (s.ctx i).steps = []) →
    (∀ i, i < 16 → (s.ctx i).jobs = []) →
    ∃ t, exec (.drain c) s = .next t ∧ t.glb.state = .quiesced ∧
      (∀ i, i < 16 → (t.ctx i).st = (if (s.ctx i).st = .ready then .drained else (s.ctx i).st))) ∧
  (∀ (c : Cmd) (i : Nat) (s : State), accepts s c 0x59 [] = true → reservedZero c [(16, 16), (20, 23)] = true →
    (c.byte 16).toNat = 0 → s.glb.state = .ready ∨ s.glb.state = .quiesced → i < 16 → (s.ctx i).st = .running →
    (∀ x, x < 16 → (s.ctx x).jobs = []) →
    ∃ t, exec (.drain c) s = .next t ∧ Waits t c .drained ∧ t.glb.state = .draining ∧
      t.glb.drainLimit = (if c.le 20 4 = 0 then none else some (s.time + c.le 20 4 * msNs)) ∧ (t.ctx i).st = .running ∧
      (t.ctx i).steps = (s.ctx i).steps) ∧
  (∀ (lim : Nat) (s : State), s.glb.drainLimit = some lim → lim ≤ s.time → s.glb.state = .doze ∨ s.glb.state = .clockHold →
    exec .drainLimit s = .next { s with glb := { s.glb with drainLimit := none, drainLimitPassed := true } })

/-! ### Objects, requests, accounts (09, 10, 15) -/

/-- Loading and unloading.  A schedule image that passes the checks takes a free handle of its context; plain weights stand byte
for byte at their region, sealed ones decrypted; a grammar table that passes its checks takes its slot.  Each is measured in the
context's log.  An image that nothing runs, weights that no image names and a table that no request names are gone once
unloaded.  No object of another context changes. -/
def Obligations.ObjectCommands : Prop :=
  let others (c : Cmd) (s t : State) : Prop := ∀ i, i ≠ Cmd.ownCtx c → t.ctx i = s.ctx i
  (∀ (c : Cmd) (img : Image) (s : State), accepts s c 0x10 [] = true → reservedZero c [(16, 27)] = true →
    (s.fetched c).schedCheck (Cmd.ownCtx c) (c.le 24 4) img = none → (∃ h, h < 16 ∧ s.image (Cmd.ownCtx c) h = none) →
    ∃ t h, exec (.schedLoad c img) s = .next t ∧ h < 16 ∧ s.image (Cmd.ownCtx c) h = none ∧
      t.image (Cmd.ownCtx c) h = some img ∧ Answered t c (.ok [BitVec.ofNat 8 h]) ∧
      (∀ g, g ≠ h → t.image (Cmd.ownCtx c) g = s.image (Cmd.ownCtx c) g) ∧
      (t.ctx (Cmd.ownCtx c)).log = (s.ctx (Cmd.ownCtx c)).log ++ [{ kind := 1, handle := h, digest := img.digest }] ∧
      others c s t ∧ Serves [.ctxs, .mem, .fresh] c s t) ∧
  (∀ (c : Cmd) (g : Image) (s : State), accepts s c 0x11 [] = true → reservedZero c [(16, 16)] = true → (c.byte 16).toNat ≤ 15 →
    s.image (Cmd.ownCtx c) (c.byte 16).toNat = some g → (s.ctx (Cmd.ownCtx c)).runsImage (c.byte 16).toNat = false →
    (∀ r ∈ (s.ctx (Cmd.ownCtx c)).reqs, r.st = .queued ∨ r.decImg ≠ (c.byte 16).toNat ∧ r.preImg ≠ (c.byte 16).toNat) →
    ∃ t, exec (.schedUnload c) s = .next t ∧ Answered t c (.of stOk) ∧ t.image (Cmd.ownCtx c) (c.byte 16).toNat = none ∧
      (∀ h, h ≠ (c.byte 16).toNat → t.image (Cmd.ownCtx c) h = s.image (Cmd.ownCtx c) h) ∧
      others c s t ∧ Serves [.ctxs, .mem] c s t) ∧
  (∀ (c : Cmd) (pkg : Blob) (u v : Bool) (s : State), accepts s c 0x14 [] = true →
    reservedZero c [(16, 16), (24, 47)] = true → (c.byte 16).toNat = 0 ∨ (c.byte 16).toNat = 2 →
    (∀ w ∈ (s.ctx (Cmd.ownCtx c)).weights, w.id ≠ c.objId) → c.le 32 8 ≠ 0 →
    c.le 40 8 % pageBytes = 0 → c.le 40 8 + c.le 32 8 ≤ (s.ctx (Cmd.ownCtx c)).mmuSize * pageBytes →
    s.newPages (Cmd.ownCtx c) (c.le 40 8) (c.le 32 8) ≤ s.framesFree →
    (let bytes := pkg.bytes.take (c.le 32 8)
     ∃ t, exec (.weightsLoad c pkg u v) s = .next t ∧ Answered t c (.of stOk) ∧
      (t.ctx (Cmd.ownCtx c)).weights = (s.ctx (Cmd.ownCtx c)).weights ++
        [{ id := c.objId, va := c.le 40 8, len := c.le 32 8, copyHeld := (c.byte 16).getLsbD 1, isSealed := false,
           digest := sha384 bytes, bytes := if (c.byte 16).getLsbD 1 then bytes else [] }] ∧
      (t.ctx (Cmd.ownCtx c)).log = (s.ctx (Cmd.ownCtx c)).log ++ [{ kind := 2, id := c.objId, digest := sha384 bytes }] ∧
      (∀ i, i < bytes.length → t.mem.byteAt (ctxKey (Cmd.ownCtx c) (c.le 40 8) + i) = bytes.getD i 0) ∧
      others c s t ∧ Serves [.ctxs, .mem, .fresh] c s t)) ∧
  (∀ (c : Cmd) (pkg : Blob) (s : State), accepts s c 0x14 [0] = true →
    reservedZero c [(16, 16), (24, 47)] = true → (c.byte 16).toNat = 1 ∨ (c.byte 16).toNat = 3 →
    sealedOk pkg (c.le 32 8) = true → s.bindingOk pkg = true →
    (∀ w ∈ (s.ctx (Cmd.ownCtx c)).weights, w.id ≠ c.objId) →
    (let region := pkg.le 40 4 * 2 ^ 20
     c.le 40 8 % pageBytes = 0 → c.le 40 8 + region ≤ (s.ctx (Cmd.ownCtx c)).mmuSize * pageBytes →
     s.newPages (Cmd.ownCtx c) (c.le 40 8) region ≤ s.framesFree →
     ∃ t w, exec (.weightsLoad c pkg true true) s = .next t ∧ Answered t c (.of stOk) ∧
      (t.ctx (Cmd.ownCtx c)).weights = (s.ctx (Cmd.ownCtx c)).weights ++ [w] ∧ w.id = c.objId ∧ w.va = c.le 40 8 ∧
      w.len = region ∧ w.isSealed = true ∧
      (∀ i, i < min region (s.unsealed pkg).length →
        t.mem.byteAt (ctxKey (Cmd.ownCtx c) (c.le 40 8) + i) = (s.unsealed pkg).getD i 0) ∧
      others c s t ∧ Serves [.ctxs, .mem, .fresh] c s t)) ∧
  (∀ (c : Cmd) (w : Weights) (s : State), accepts s c 0x15 [] = true → reservedZero c [] = true →
    (s.ctx (Cmd.ownCtx c)).weights.find? (·.id = c.objId) = some w →
    (∀ e ∈ (s.ctx (Cmd.ownCtx c)).images, e.2.map imgWeightsId ≠ some c.objId) →
    ∃ t, exec (.weightsUnload c) s = .next t ∧ Answered t c (.of stOk) ∧
      (t.ctx (Cmd.ownCtx c)).weights = (s.ctx (Cmd.ownCtx c)).weights.filter (fun v => v.id ≠ c.objId) ∧
      others c s t ∧ Serves [.ctxs, .mem] c s t) ∧
  (∀ (c : Cmd) (table : Blob) (s : State), accepts s c 0x1C [] = true → reservedZero c [(16, 16), (24, 35)] = true →
    (c.byte 16).toNat ≤ 63 → gramOk table (c.le 32 4) = true → (s.tsu.grams.get (c.byte 16).toNat).loaded = false →
    s.objectFits (c.le 32 4) = true →
    (let digest := sha384 (table.bytes.take (c.le 32 4))
     ∃ t, exec (.grammarLoad c table) s = .next t ∧ Answered t c (.of stOk) ∧
      t.tsu.grams.get (c.byte 16).toNat = { loaded := true, owner := Cmd.ownCtx c, table, digest } ∧
      (t.ctx (Cmd.ownCtx c)).log = (s.ctx (Cmd.ownCtx c)).log ++ [{ kind := 4, handle := (c.byte 16).toNat, digest }] ∧
      (∀ k, k ≠ (c.byte 16).toNat → t.tsu.grams.get k = s.tsu.grams.get k) ∧ others c s t ∧ Serves [.tsu, .ctxs] c s t)) ∧
  ∀ (c : Cmd) (s : State), accepts s c 0x1D [] = true → reservedZero c [(16, 16)] = true → (c.byte 16).toNat ≤ 63 →
    (s.gramVocab (Cmd.ownCtx c) (c.byte 16).toNat).isSome = true →
    (∀ r ∈ (s.ctx (Cmd.ownCtx c)).reqs, r.sel.grammar ≠ some (c.byte 16).toNat) →
    ∃ t, exec (.grammarUnload c) s = .next t ∧ Answered t c (.of stOk) ∧
      (t.tsu.grams.get (c.byte 16).toNat).loaded = false ∧
      (∀ k, k ≠ (c.byte 16).toNat → t.tsu.grams.get k = s.tsu.grams.get k) ∧ others c s t ∧ Serves [.tsu, .ctxs] c s t

/-- Patches: a good load takes a FREE slot, LOADING, and waits for the boundary; a retirement of a READY one that is pinned leaves
it RETIRING and waits, and of one that is not frees it at once.  A weight reload that ends puts the registered
copy into its page and clears its poison, and one
that takes as long as the host command timeout faults its context. -/
def Obligations.PatchesAndReloads : Prop :=
  (∀ (c : Cmd) (pkg : Blob) (s : State), accepts s c 0x18 [] = true → reservedZero c [(16, 19), (24, 36)] = true →
    (c.byte 36).toNat ≤ 1 → s.objectFits (c.le 32 4) = true →
    (let bytes := pkg.bytes.take (c.le 32 4)
     (c.byte 36).getLsbD 0 = true → sha384 (bytes.take (c.le 32 4 - 48)) = bytes.drop (c.le 32 4 - 48)) →
    patchOk pkg (c.le 32 4) = true → pkg.le 4 1 ≤ (s.ctx (Cmd.ownCtx c)).maxRank →
    (s.tsu.patches.any fun e => e.2.st != .free && e.2.owner == Cmd.ownCtx c && e.2.id == c.objId && e.2.version == c.le 16 4)
      = false →
    (∃ k, k < 512 ∧ (s.tsu.patches.get k).st = .free) →
    ∃ t k, exec (.patchLoad c pkg) s = .next t ∧ Waits t c (.patchReady k) ∧ (s.tsu.patches.get k).st = .free ∧
      (let p := t.tsu.patches.get k
       p.st = .loading ∧ p.owner = Cmd.ownCtx c ∧ p.id = c.objId ∧ p.version = c.le 16 4 ∧ p.rank = pkg.le 4 1 ∧
         p.pkg = pkg) ∧
      (∀ j, j ≠ k → t.tsu.patches.get j = s.tsu.patches.get j) ∧ Serves [.tsu, .fresh] c s t) ∧
  (∀ (c : Cmd) (k : Nat) (p : PatchSlot) (s : State), accepts s c 0x19 [] = true → reservedZero c [(16, 19)] = true →
    s.tsu.patches.find? (fun e => e.2.st != .free && e.2.owner == Cmd.ownCtx c && e.2.id == c.objId &&
      e.2.version == c.le 16 4) = some (k, p) → s.tsu.patches.get k = p → p.st = .ready → p.pins ≠ 0 →
    (∀ e ∈ s.tsu.patches, e.2.st ≠ .retiring) →
    ∃ t, exec (.patchRetire c) s = .next t ∧ Waits t c (.patchFree k) ∧
      t.tsu.patches.get k = { s.tsu.patches.get k with st := .retiring } ∧
      (∀ j, j ≠ k → t.tsu.patches.get j = s.tsu.patches.get j) ∧ Serves [.tsu] c s t) ∧
  (∀ (c : Cmd) (k : Nat) (p : PatchSlot) (s : State), accepts s c 0x19 [] = true → reservedZero c [(16, 19)] = true →
    s.tsu.patches = [(k, p)] → p.st = .ready → p.owner = Cmd.ownCtx c → p.id = c.objId → p.version = c.le 16 4 → p.pins = 0 →
    (∀ i ∈ s.host.inflight, i.wait ≠ .patchFree k) →
    ∃ t, exec (.patchRetire c) s = .next t ∧ Answered t c (.of stOk) ∧ (t.tsu.patches.get k).st = .free ∧
      Serves [.tsu, .ctxs] c s t) ∧
  (∀ (x : CtxId) (va : Nat) (s : State), (s.ctx x.val).reloading = some va →
    ∃ t, exec (.weightReloadDone x) s = .next t ∧ (t.ctx x.val).reloading = none ∧
      (∀ i, i < pageBytes / 8 → t.mem.poison.get (ctxKey x.val va / 8 + i) = false) ∧
      (∀ k, (t.mem.byteAt k = s.mem.byteAt k) ∨ (ctxKey x.val va ≤ k ∧ k < ctxKey x.val va + pageBytes)) ∧
      (∀ w, (s.ctx x.val).weights.find? (fun w => w.copyHeld && decide (w.va ≤ va) && decide (va < w.va + w.len)) = some w →
        ∀ i, i < pageBytes → va - w.va + i < w.bytes.length →
          t.mem.byteAt (ctxKey x.val va + i) = w.bytes.getD (va - w.va + i) 0) ∧
      (∀ i, i ≠ x.val → t.ctx i = s.ctx i) ∧ KeepsBut [.mem, .ctxs] s t) ∧
  ∀ (x : CtxId) (s : State), (s.ctx x.val).reloading.isSome = true →
    (s.ctx x.val).reloadSince + s.host.timeoutS * secNs ≤ s.time →
    ∃ t, exec (.weightReloadTimeout x) s = .next t ∧ (t.ctx x.val).st = .faulted

/-- REQ_SUBMIT of a good request, with or without a peg and a prefix, is accepted: its completion carries the reservation and
whether the request is admitted, it is tracked as asked and counted, and while the context may not admit it stands QUEUED, last,
with nothing reserved yet. -/
def Obligations.RequestSubmitted : Prop :=
  ∀ (c : Cmd) (x res : Nat) (sel : Sel) (a : Account) (pin : Option Pin) (s : State), accepts s c 0x20 (s.submitFeats c) = true →
    reservedZero c [(16, 22), (24, 51), (56, 63)] = true → x = Cmd.ownCtx c →
    s.vaOk x (c.le 56 8) 128 false = true → sel = s.selAt x (c.le 56 8) →
    (∀ g ∈ sel.grammar, (s.gramVocab x g).isSome = true) → (∀ p ∈ sel.patch, (s.bestPatch x p).isSome = true) →
    (∀ r ∈ s.submitRules c (s.image x ((c.byte 16).toNat / 16)) (s.image x ((c.byte 16).toNat % 16)) sel, r.1 = false) →
    ((c.byte 21).getLsbD 0 = true → (s.pegAt (c.byte 20).toNat).st = .armed ∨ (s.pegAt (c.byte 20).toNat).st = .waiting) →
    pin = (if (c.byte 21).getLsbD 2 then (s.ctx x).pins.find? (fun p => p.id = c.le 40 8) else none) →
    ((c.byte 21).getLsbD 2 = true → pin.isSome = true) → (∀ p ∈ pin, p.poisoned = false) →
    a = s.acct x (c.le 18 2) → res = (c.le 24 4 - (pin.map Pin.len).getD 0) * a.inCost + c.le 28 4 * a.outCost →
    a.enable = true → res ≤ a.depth → (a.noQueue = true → res ≤ a.level) →
    (s.ctx x).reqs.length < (s.ctx x).reqQuota → s.tracked < 16384 →
    ∃ t r, exec (.reqSubmit c) s = .next t ∧ t.findReq x c.objId = some r ∧
      Answered t c (.ok (leBytes 8 res ++ [BitVec.ofNat 8 (b2n (r.st != .queued))])) ∧
      r.id = c.objId ∧ r.prompt = c.le 24 4 ∧ r.newMax = c.le 28 4 ∧ r.account = c.le 18 2 ∧ r.prio = (c.byte 17).toNat ∧
      r.peg = (if (c.byte 21).getLsbD 0 then some (c.byte 20).toNat else none) ∧ r.pin = pin.map Pin.id ∧ r.sel = sel ∧
      t.cons (cid 0x10 x) = s.cons (cid 0x10 x) + 1 ∧ (∀ i, i ≠ x → t.ctx i = s.ctx i) ∧
      (s.mayAdmit x = false → (t.ctx x).reqs = (s.ctx x).reqs ++ [r] ∧ r.st = .queued ∧ r.slot = none ∧
        (t.ctx x).accounts = (s.ctx x).accounts ∧ Serves [.ctxs, .peg] c s t)

/-- REQ_CANCEL latches the cancel of a tracked request, once, and is ALREADY done where it is latched or the request is ENDING;
REQ_QUERY reports a tracked request; the others of the context stay; an unknown request is NOT_BOUND for both. -/
def Obligations.RequestCommands : Prop :=
  (∀ (c : Cmd) (r : Req) (s : State), accepts s c 0x21 [] = true → reservedZero c [] = true →
    s.findReq (Cmd.ownCtx c) c.objId = some r → r.st ≠ .ending → r.cancel = none →
    ∃ t q, exec (.reqCancel c) s = .next t ∧ Answered t c (.of stOk) ∧ t.findReq (Cmd.ownCtx c) c.objId = some q ∧
      q.cancel.isSome = true ∧ q.late = false ∧ q.limit = (if r.st = .decode then min r.limit r.tail else r.limit) ∧
      q.st = r.st ∧ q.slot = r.slot ∧
      (∀ id, id ≠ c.objId → t.findReq (Cmd.ownCtx c) id = s.findReq (Cmd.ownCtx c) id) ∧
      (∀ i, i ≠ Cmd.ownCtx c → t.ctx i = s.ctx i) ∧ Serves [.ctxs] c s t) ∧
  (∀ (c : Cmd) (r : Req) (s : State), accepts s c 0x21 [] = true → reservedZero c [] = true →
    s.findReq (Cmd.ownCtx c) c.objId = some r → r.st = .ending ∨ r.cancel.isSome = true →
    ∃ t, exec (.reqCancel c) s = .next t ∧ Answered t c (.of stAlready) ∧ Serves [] c s t) ∧
  (∀ (c : Cmd) (r : Req) (s : State), accepts s c 0x22 [] = true → reservedZero c [] = true →
    s.findReq (Cmd.ownCtx c) c.objId = some r →
    ∃ t, exec (.reqQuery c) s = .next t ∧ Serves [] c s t ∧
      Answered t c (.ok ([BitVec.ofNat 8 (ReqSt.code r.st), BitVec.ofNat 8 (s.waitingOn (Cmd.ownCtx c) r)] ++
        leBytes 2 (r.slot.getD 0xFFFF) ++ leBytes 4 r.lenDone ++ leBytes 4 r.countedDone ++ leBytes 4 r.limit ++
        leBytes 8 r.charged))) ∧
  (∀ (c : Cmd) (s : State), accepts s c 0x21 [] = true → reservedZero c [] = true →
    s.findReq (Cmd.ownCtx c) c.objId = none →
    ∃ t, exec (.reqCancel c) s = .next t ∧ Answered t c (.of stNotBound) ∧ Serves [] c s t) ∧
  ∀ (c : Cmd) (s : State), accepts s c 0x22 [] = true → reservedZero c [] = true →
    s.findReq (Cmd.ownCtx c) c.objId = none →
    ∃ t, exec (.reqQuery c) s = .next t ∧ Answered t c (.of stNotBound) ∧ Serves [] c s t

/-- ACCOUNT_SET gives the account its costs, rate, depth and flags and leaves its level, or the one it carries, not above the
depth; ACCOUNT_QUERY reports the account, and NOT_BOUND for one never set; the refill grants every account what its rate has
earned, in thousandths, not above its depth, and grants nothing while the module is quiesced.  (No request is admitted here: the
context holds none, or may not admit.) -/
def Obligations.AccountCommands : Prop :=
  (∀ (c : Cmd) (s : State), accepts s c 0x24 [] = true → reservedZero c [(16, 18), (20, 27), (32, 47)] = true →
    c.le 16 2 ≤ 1023 → (c.byte 18).toNat ≤ 7 → c.le 22 2 ≠ 0 → c.le 32 8 ≠ 0 → c.le 32 8 ≤ 2 ^ 48 →
    ((c.byte 18).getLsbD 2 = true → c.le 40 8 ≤ c.le 32 8) →
    s.mayAdmit (Cmd.ownCtx c) = false ∨ (s.ctx (Cmd.ownCtx c)).reqs = [] →
    ∃ t, exec (.accountSet c) s = .next t ∧ Answered t c (.of stOk) ∧
      (let a := t.acct (Cmd.ownCtx c) (c.le 16 2)
       let old := (s.acct (Cmd.ownCtx c) (c.le 16 2)).level
       a.known = true ∧ a.enable = (c.byte 18).getLsbD 0 ∧ a.noQueue = (c.byte 18).getLsbD 1 ∧ a.inCost = c.le 20 2 ∧
         a.outCost = c.le 22 2 ∧ a.rate = c.le 24 4 ∧ a.depth = c.le 32 8 ∧
         a.level = (if (c.byte 18).getLsbD 2 then c.le 40 8 else min old (c.le 32 8))) ∧
      (∀ b, b ≠ c.le 16 2 → t.acct (Cmd.ownCtx c) b = s.acct (Cmd.ownCtx c) b) ∧
      (∀ i, i ≠ Cmd.ownCtx c → t.ctx i = s.ctx i) ∧ Serves [.ctxs] c s t) ∧
  (∀ (c : Cmd) (s : State), accepts s c 0x25 [] = true → reservedZero c [(16, 17)] = true → c.le 16 2 ≤ 1023 →
    (s.acct (Cmd.ownCtx c) (c.le 16 2)).known = true →
    ∃ t, exec (.accountQuery c) s = .next t ∧ Serves [] c s t ∧
      (let x := Cmd.ownCtx c
       let a := c.le 16 2
       let mine := (s.ctx x).reqs.filter fun r => decide (r.account = a)
       let q := (mine.filter fun r => r.st == .queued).length
       Answered t c (.ok (leBytes 8 (s.acct x a).level ++ leBytes 8 (s.accHeld x a) ++ leBytes 4 q ++
         leBytes 4 (mine.length - q))))) ∧
  (∀ (c : Cmd) (s : State), accepts s c 0x25 [] = true → reservedZero c [(16, 17)] = true → c.le 16 2 ≤ 1023 →
    (s.acct (Cmd.ownCtx c) (c.le 16 2)).known = false →
    ∃ t, exec (.accountQuery c) s = .next t ∧ Answered t c (.of stNotBound) ∧ Serves [] c s t) ∧
  (∀ (x a : Nat) (s : State), s.glb.state = .ready ∨ s.glb.state = .draining ∨ s.glb.state = .suspect →
    s.ctl.owner.isSome = true → s.ctl.gap = false → x < 16 →
    (∀ i, i < 16 → Tbl.wf (s.ctx i).accounts = true ∧ ∀ e ∈ (s.ctx i).accounts, e.2.level ≤ e.2.depth) →
    (let y := s.acct x a
     ∃ t, exec .accountRefill s = .next t ∧
       (t.acct x a).level = min y.depth (y.level + (y.rem + y.rate) / 1000) ∧ (t.acct x a).rem = (y.rem + y.rate) % 1000 ∧
       (t.ctx x).reqs = (s.ctx x).reqs ∧ KeepsBut [.ctxs, .tel] s t)) ∧
  ∀ s : State, s.glb.state = .quiesced → exec .accountRefill s = .next s

/-- The account identity of R224, grants + refunds = level + removals + reservations, and a level not above the depth: a
grant, a refund, a reservation within the level and a trim each keep it. -/
def Obligations.AccountConservation : Prop :=
  let Inv (s : State) (c a : Nat) : Prop :=
    let i := accIdx c a
    s.cons (cid 1 i) + s.cons (cid 5 i) = (s.acct c a).level + s.cons (cid 2 i) + s.cons (cid 3 i) ∧
      (s.acct c a).level ≤ (s.acct c a).depth
  ∀ (s : State) (c a n : Nat), c < 16 → a < 1024 → Inv s c a →
    Inv (s.accGrant c a n) c a ∧ Inv (s.accRefund c a n) c a ∧ Inv (s.accTrim c a) c a ∧
    (n ≤ (s.acct c a).level → Inv (s.accReserve c a n) c a) ∧ Inv (s.accCharge c a n) c a

/-! ### Configuration space, resets, timeouts (15) -/

/-- The configuration path: a request before start-up stage 3 is answered for a retry; the link comes up with the speed and
width it trained to; the host enables the VFs; a DOE message is answered, and sets its function's stream Secure in FLIT mode
where it asks for that; a stream that fails its integrity check goes to the Insecure state with a doorbell, one already
Insecure stays so; a TLP outside a stream that must be encrypted is unsupported; an endpoint ID takes effect on the bus it is
set on; a NOP carried by MCTP is the NOP of ring 8. -/
def Obligations.ConfigurationPath : Prop :=
  (∀ (fn : Fn) (v : Option Bool) (s : State), s.board.powered = true → s.host.linkUp = true → s.glb.stage < 3 →
    exec (.configRequest fn v) s = .next { s with host := { s.host with cfgRetry := true } }) ∧
  (∀ s : State, s.board.powered = true → s.host.linkUp = true → 3 ≤ s.glb.stage →
    exec (.configRequest 0 (some true)) s = .next { s with host := { s.host with cfgRetry := false, vfEnable := true } }) ∧
  (∀ (speed width : Nat) (s : State), s.board.powered = true → s.board.perst = false → 2 ≤ s.glb.stage →
    s.host.linkUp = false → 4 ≤ speed → speed ≤ 6 → width = 4 ∨ width = 8 ∨ width = 16 →
    exec (.pcieLinkUp speed width) s =
      .next { s with host := { s.host with linkUp := true, flit := speed == 6, speed, width } }) ∧
  (∀ (fn : Fn) (secure : Bool) (s : State), s.board.powered = true → s.host.linkUp = true → 3 ≤ s.glb.stage →
    ∃ t, exec (.doeRequest fn secure) s = .next t ∧
      t.host = { s.host with mctpAnswered := s.host.mctpAnswered + 1 } ∧
      t.sec = { s.sec with ideSecure := t.sec.ideSecure } ∧
      t.sec.ideSecure.getLsbD fn.val = (secure && (s.host.flit || s.sec.ideSecure.getLsbD fn.val)) ∧
      (∀ j, j ≠ fn.val → t.sec.ideSecure.getLsbD j = s.sec.ideSecure.getLsbD j) ∧ KeepsBut [.host, .sec] s t) ∧
  (∀ (fn : Fn) (s : State), s.sec.ideSecure.getLsbD fn.val = true →
    ∃ t, exec (.ideIntegrityFail fn) s = .next t ∧ t.sec.ideSecure.getLsbD fn.val = false ∧
      t.sec.ideFail.getLsbD fn.val = true ∧ (t.func 0).dbPend.getLsbD 16 = true ∧
      (∀ j, j ≠ fn.val → t.sec.ideSecure.getLsbD j = s.sec.ideSecure.getLsbD j ∧
        t.sec.ideFail.getLsbD j = s.sec.ideFail.getLsbD j) ∧ KeepsBut [.sec, .host] s t) ∧
  (∀ (fn : Fn) (s : State), s.sec.ideSecure.getLsbD fn.val = false → exec (.ideIntegrityFail fn) s = .next s) ∧
  (∀ (fn : Fn) (s : State), s.sec.ideCtrl.getLsbD fn.val = true →
    exec (.tlpOutsideStream fn) s = .next { s with host := { s.host with unsupported := s.host.unsupported + 1 } }) ∧
  (∀ (eid : Byte) (s : State), s.board.powered = true →
    exec (.mctpMessage (.setEid true eid)) s =
      .next { s with host := { s.host with mctpAnswered := s.host.mctpAnswered + 1, i3cEid := eid } }) ∧
  (∀ (eid : Byte) (s : State), s.board.powered = true → s.host.linkUp = true → 3 ≤ s.glb.stage →
    exec (.mctpMessage (.setEid false eid)) s =
      .next { s with host := { s.host with mctpAnswered := s.host.mctpAnswered + 1, pcieEid := eid } }) ∧
  ∀ (bytes : List Byte) (doc : AdmissionDoc) (ans : Bool) (b : Bundle) (chain : List (BitVec 128)) (s : State),
    accepts s { fn := 0, ring := 8, bytes } 0x00 [] = true →
    exec (.mctpMessage (.command bytes doc ans b chain)) s = exec (.nop { fn := 0, ring := 8, bytes }) s

/-- Function resets and link loss.  A VF's FLR leaves its window and rings as after reset and drops its commands in flight
without a completion; other functions' rings, and with a FREE context all else, stay.  PF0's FLR and link loss, with every
context FREE, do so for every function, turn the VFs off and keep MCTP's ring and commands; link loss leaves its record and
the streams' state. -/
def Obligations.FunctionResets : Prop :=
  (∀ (x : CtxId) (s : State), s.board.powered = true → (s.ctx x.val).st ∈ [.free, .opening, .resetting] →
    ∃ t, exec (.flrVf x) s = .next t ∧ t.func (x.val + 1) = {} ∧ (∀ n, n < 8 → t.ring (x.val + 1) n = {}) ∧
      (∀ f n, n < 9 → f ≠ x.val + 1 → t.ring f n = s.ring f n) ∧
      t.host.inflight = s.host.inflight.filter (fun i => i.fn ≠ x.val + 1) ∧
      t.ctx x.val = { s.ctx x.val with tbRing := [] } ∧
      (∀ i, i ≠ x.val → t.ctx i = s.ctx i) ∧ KeepsBut [.host, .ctxs, .tel] s t) ∧
  (∀ (x : CtxId) (s : State), s.board.powered = true → s.glb.state = .ready →
    (s.ctx x.val).st = .ready ∨ (s.ctx x.val).st = .faulted → (s.ctx x.val).steps = [] → (s.ctx x.val).reqs = [] →
    (s.ctx x.val).jobs = [] → s.sessionsOf x.val = [] → s.host.inflight = [] → (s.sec.keys.get x.val).rotating = false →
    ∃ t, exec (.flrVf x) s = .next t ∧ t.func (x.val + 1) = {} ∧ (∀ n, n < 8 → t.ring (x.val + 1) n = {}) ∧
      (∀ f n, n < 9 → f ≠ x.val + 1 → t.ring f n = s.ring f n) ∧
      (t.ctx x.val).images = [] ∧ (t.ctx x.val).weights = [] ∧ (t.ctx x.val).pins = [] ∧
      (∀ i, i ≠ x.val → t.ctx i = s.ctx i)) ∧
  (∀ (vf : Bool) (s : State), s.board.powered = true → s.glb.state = .ready → (∀ i, i < 16 → (s.ctx i).st = .free) →
    (∀ i ∈ s.host.inflight, i.wait ≠ .quiesced) →
    ∃ t, exec (.flrPf0 vf) s = .next t ∧ t.host.vfEnable = false ∧ (∀ f n, f < 17 → n < 8 → t.ring f n = {}) ∧
      t.ring 0 8 = s.ring 0 8 ∧ t.host.inflight = s.host.inflight.filter (fun i => i.ring = 8) ∧
      t.host.linkUp = s.host.linkUp ∧ KeepsBut [.host, .ctxs, .tel] s t) ∧
  ∀ s : State, s.board.powered = true → s.host.linkUp = true → s.glb.state = .ready → (∀ i, i < 16 → (s.ctx i).st = .free) →
    (∀ i ∈ s.host.inflight, i.wait ≠ .quiesced) →
    ∃ t, exec .linkLoss s = .next t ∧ t.host.linkUp = false ∧ t.host.linkLossEvt = true ∧ t.host.vfEnable = false ∧
      (∀ f n, f < 17 → n < 8 → t.ring f n = {}) ∧ t.ring 0 8 = s.ring 0 8 ∧ t.sec.ideSecure = s.sec.ideSecure ∧
      KeepsBut [.host, .ctxs, .tel] s t

/-- A command in flight past its time is completed with TIMEOUT and is in flight no more, whatever else is in flight; one that
has time left, or one without a time limit, stays.  ATTEST past 500 ms without the RTP's answer, and a JOIN without its
sponsor's, end the same way. -/
def Obligations.CommandTimeouts : Prop :=
  let named (s : State) (fn : Fn) (ring : Fin 9) (seq : Word) : Option Inflight :=
    s.host.inflight.find? fun i => i.fn = fn.val ∧ i.ring = ring.val ∧ i.seq = seq
  (∀ (fn : Fn) (ring : Fin 9) (seq : Word) (s : State),
    (∀ i ∈ named s fn ring seq, i.wait ∈ [.drained, .fwStage, .liveTaken] ∨ s.time < i.since + s.host.timeoutS * secNs) →
    exec (.commandTimeout fn ring seq) s = .next s) ∧
  (∀ (i : Inflight) (fn : Fn) (ring : Fin 9) (seq : Word) (s : State), named s fn ring seq = some i →
    i.wait = .attest ∨ (∃ id g n o, i.wait = .sponsor id g n o) → i.since + s.host.timeoutS * secNs ≤ s.time →
    ∃ t, exec (.commandTimeout fn ring seq) s = .next t ∧ t.host.inflight = s.host.inflight.erase i ∧
      KeepsBut cmdBlocks s t ∧ t.cons (cid 0x41 fn.val) = s.cons (cid 0x41 fn.val) + 1) ∧
  (∀ (i : Inflight) (fn : Fn) (ring : Fin 9) (seq : Word) (x : CtxId) (s : State), named s fn ring seq = some i →
    i.wait = .keyGen x.val → (s.sec.keys.get x.val).pendingGen = true → i.since + s.host.timeoutS * secNs ≤ s.time →
    ∃ t, exec (.commandTimeout fn ring seq) s = .next t ∧ t.host.inflight = s.host.inflight.erase i ∧
      (t.sec.keys.get x.val).rotating = false ∧ (t.sec.keys.get x.val).gen = (s.sec.keys.get x.val).gen ∧
      KeepsBut (.sec :: cmdBlocks) s t) ∧
  (∀ s : State, (∃ i ∈ s.host.inflight, i.wait = .attest ∧ i.since + 500 * msNs ≤ s.time) →
    ∃ t, exec .rtpLate s = .next t ∧ t.sec = { s.sec with rtpLate := true } ∧
      t.host.inflight.length + (s.host.inflight.filter fun i => i.wait = .attest ∧ i.since + 500 * msNs ≤ s.time).length =
        s.host.inflight.length ∧
      KeepsBut (.sec :: cmdBlocks) s t) ∧
  ∀ (i : Inflight) (id : BitVec 64) (g : Word) (n : Nat) (o : BitVec 384) (s : State), s.host.inflight = [i] →
    i.wait = .sponsor id g n o → i.since + 500 * msNs ≤ s.time →
    ∃ t, exec .sponsorTimeout s = .next t ∧ t.host.inflight = [] ∧ KeepsBut cmdBlocks s t

/-! ### Attestation, keys, device sets (14, 15) -/

/-- ATTEST reports for the nonce it got, with the length it answers; a buffer too short is BAD_PARAM with that length; without
the RTP's answer it waits.  KEY_ROTATE off the array takes the next generation at once, and the old one is retired where it
holds no unit; on the array it waits for the boundary.  The pass takes the unit in hand a 256-byte piece further; a piece that
raced with a write is read again. -/
def Obligations.AttestationAndKeys : Prop :=
  (∀ (c : Cmd) (s : State), accepts s c 0x48 [] = true → reservedZero c [(16, 17), (24, 35), (40, 63)] = true →
    c.fn.val = 0 ∨ c.le 16 1 = c.fn.val - 1 → c.le 16 1 ≤ 15 ∨ c.le 16 1 = 0xFF → c.le 17 1 ≤ 3 →
    s.reportLen (c.le 16 1) (c.le 17 1) ≤ c.le 32 4 →
    ∃ t, exec (.attest c true) s = .next t ∧ Answered t c (.ok (leBytes 4 (s.reportLen (c.le 16 1) (c.le 17 1)))) ∧
      t.sec.report.scope = c.le 16 1 ∧ t.sec.report.nonce = (upto 24).map (fun i => c.byte (40 + i)) ∧
      t.sec.report.time = s.pegTime ∧ t.sec.report.len = s.reportLen (c.le 16 1) (c.le 17 1) ∧
      Serves [.sec, .fresh] c s t) ∧
  (∀ (c : Cmd) (s : State), accepts s c 0x48 [] = true → reservedZero c [(16, 17), (24, 35), (40, 63)] = true →
    c.fn.val = 0 ∨ c.le 16 1 = c.fn.val - 1 → c.le 16 1 ≤ 15 ∨ c.le 16 1 = 0xFF → c.le 17 1 ≤ 3 →
    ∃ t, exec (.attest c false) s = .next t ∧ Waits t c .attest ∧ Serves [] c s t) ∧
  (∀ (c : Cmd) (s : State), accepts s c 0x48 [] = true → reservedZero c [(16, 17), (24, 35), (40, 63)] = true →
    c.fn.val = 0 ∨ c.le 16 1 = c.fn.val - 1 → c.le 16 1 ≤ 15 ∨ c.le 16 1 = 0xFF → c.le 17 1 ≤ 3 →
    c.le 32 4 < s.reportLen (c.le 16 1) (c.le 17 1) →
    ∃ t, exec (.attest c true) s = .next t ∧ Serves [] c s t ∧ Answered t c
      { status := stBadParam, detail := 32, result := leBytes 4 (s.reportLen (c.le 16 1) (c.le 17 1)) }) ∧
  (∀ (c : Cmd) (s : State), accepts s c 0x49 [] = true → reservedZero c [(16, 16)] = true → c.le 16 1 ≤ 15 →
    (s.ctx (c.le 16 1)).st ≠ .free → (s.ctx (c.le 16 1)).st ≠ .opening → (s.sec.keys.get (c.le 16 1)).rotating = false →
    s.arr.cur ≠ some (c.le 16 1) → (∀ i ∈ s.host.inflight, i.wait ≠ .keyGen (c.le 16 1)) →
    (let old := 2 * c.le 16 1 + (s.sec.keys.get (c.le 16 1)).gen % 2
     ∃ t, exec (.keyRotate c) s = .next t ∧
      Answered t c (.ok (leBytes 4 ((s.sec.keys.get (c.le 16 1)).gen + 1))) ∧
      (t.sec.keys.get (c.le 16 1)).gen = (s.sec.keys.get (c.le 16 1)).gen + 1 ∧
      (t.sec.keys.get (c.le 16 1)).rotating = decide (s.cons (cid 0x58 old) ≠ s.cons (cid 0x59 old)) ∧
      (∀ x, x ≠ c.le 16 1 → t.sec.keys.get x = s.sec.keys.get x) ∧
      KeepsBut (.sec :: cmdBlocks) s t)) ∧
  (∀ (c : Cmd) (s : State), accepts s c 0x49 [] = true → reservedZero c [(16, 16)] = true → c.le 16 1 ≤ 15 →
    (s.ctx (c.le 16 1)).st ≠ .free → (s.ctx (c.le 16 1)).st ≠ .opening → (s.sec.keys.get (c.le 16 1)).rotating = false →
    s.arr.cur = some (c.le 16 1) →
    ∃ t, exec (.keyRotate c) s = .next t ∧ Waits t c (.keyGen (c.le 16 1)) ∧
      t.sec.keys.get (c.le 16 1) = { s.sec.keys.get (c.le 16 1) with rotating := true, pendingGen := true } ∧
      (∀ x, x ≠ c.le 16 1 → t.sec.keys.get x = s.sec.keys.get x) ∧ Serves [.sec] c s t) ∧
  ∀ (x : CtxId) (p raced : Bool) (n k : Nat) (s : State), s.board.powered = true → 7 ≤ s.glb.stage →
    s.glb.state ≠ .doze → s.glb.state ≠ .clockHold →
    (s.sec.keys.get x.val).rotating = true → (s.sec.keys.get x.val).pendingGen = false →
    s.sec.pass = some (x.val, p, n, k) → s.passUnitOk x.val (!s.curSlot x.val) p n = true →
    raced = true ∨ k + 1 < s.passSize x.val p →
    exec (.keyPassUnit x raced) s =
      .next { s with sec := { s.sec with pass := some (x.val, p, n, if raced then k else k + 1) } }

/-- The device set: CREATE, and JOIN of a module that is in no set or renews its own, give the module the set their signed
document describes; a JOIN whose sponsor does not answer waits; LEAVE gives the set up; REKEY takes the next generation under
the same owner.  A document without its signature is refused (BAD_DIGEST), a JOIN while in another set is DENIED, a LEAVE of a
set not held is NOT_BOUND, each without effect. -/
def Obligations.SetMembership : Prop :=
  (∀ (c : Cmd) (d : AdmissionDoc) (s : State), accepts s c 0x4A [] = true → reservedZero c [(16, 17), (24, 35)] = true →
    c.le 16 1 = 0 → d.signed = true → s.sec.set_ = none → s.sec.moduleId ∈ d.modules → d.setId = BitVec.ofNat 64 c.objId →
    d.gen = 0 → d.modules.length ≤ 256 →
    ∃ t, exec (.create c d) s = .next t ∧ Answered t c (.of stOk) ∧
      t.sec.set_ = some { id := d.setId, gen := 0, members := d.modules, owner := d.ownerDigest } ∧
      Serves [.sec] c s t) ∧
  (∀ (c : Cmd) (d : AdmissionDoc) (s : State), accepts s c 0x4A [] = true → reservedZero c [(16, 17), (24, 35)] = true →
    c.le 16 1 = 1 → c.le 17 1 ≤ 3 → d.signed = true →
    (∀ e ∈ s.sec.set_, e.id = BitVec.ofNat 64 c.objId) → s.sec.moduleId ∈ d.modules →
    d.setId = BitVec.ofNat 64 c.objId → d.modules.length ≤ 256 →
    (∃ t, exec (.join c d true) s = .next t ∧ Answered t c (.of stOk) ∧
      t.sec.set_ = some { id := d.setId, gen := d.gen, members := d.modules, owner := d.ownerDigest } ∧
      Serves [.sec] c s t) ∧
    ∃ t, exec (.join c d false) s = .next t ∧ Waits t c (.sponsor d.setId d.gen d.modules.length d.ownerDigest) ∧
      Serves [] c s t) ∧
  (∀ (c : Cmd) (d : AdmissionDoc) (e : DevSet) (s : State), accepts s c 0x4A [] = true →
    reservedZero c [(16, 17), (24, 35)] = true → c.le 16 1 = 1 → c.le 17 1 ≤ 3 → d.signed = true → s.sec.set_ = some e →
    e.id ≠ BitVec.ofNat 64 c.objId →
    ∀ ans : Bool, ∃ t, exec (.join c d ans) s = .next t ∧ Answered t c (.of stDenied) ∧ Serves [] c s t) ∧
  (∀ (c : Cmd) (d : AdmissionDoc) (ans : Bool) (s : State), accepts s c 0x4A [] = true →
    reservedZero c [(16, 17), (24, 35)] = true → d.signed = false → c.le 17 1 ≤ 3 →
    (c.le 16 1 = 0 → ∃ t, exec (.create c d) s = .next t ∧ Answered t c (.of stDigest) ∧ Serves [] c s t) ∧
    (c.le 16 1 = 1 → ∃ t, exec (.join c d ans) s = .next t ∧ Answered t c (.of stDigest) ∧ Serves [] c s t)) ∧
  (∀ (c : Cmd) (s : State), accepts s c 0x4A [] = true → reservedZero c [(16, 17), (24, 35)] = true → c.le 16 1 = 2 →
    (∀ e ∈ s.sec.set_, e.id ≠ BitVec.ofNat 64 c.objId) →
    ∃ t, exec (.leave c) s = .next t ∧ Answered t c (.of stNotBound) ∧ Serves [] c s t) ∧
  (∀ (c : Cmd) (e : DevSet) (s : State), accepts s c 0x4A [] = true → reservedZero c [(16, 17), (24, 35)] = true →
    c.le 16 1 = 2 → s.sec.set_ = some e → e.id = BitVec.ofNat 64 c.objId →
    ∃ t, exec (.leave c) s = .next t ∧ Answered t c (.of stOk) ∧ t.sec.set_ = none ∧ Serves [.sec] c s t) ∧
  ∀ (c : Cmd) (d : AdmissionDoc) (e : DevSet) (s : State), accepts s c 0x4A [] = true →
    reservedZero c [(16, 17), (24, 35)] = true → c.le 16 1 = 3 → s.sec.set_ = some e → e.id = BitVec.ofNat 64 c.objId →
    d.signed = true → d.ownerDigest = e.owner → s.sec.moduleId ∈ d.modules → d.setId = e.id → d.gen = e.gen + 1 →
    d.modules.length ≤ 256 →
    ∃ t, exec (.rekey c d) s = .next t ∧ Answered t c (.of stOk) ∧
      t.sec.set_ = some { id := e.id, gen := e.gen + 1, members := d.modules, owner := e.owner } ∧
      Serves [.sec] c s t

/-! ### Jobs, prefixes, boundaries (08, 09, 15) -/

/-- JOB_RUN without a buffer list takes its place last among the context's jobs, with no step begun, and waits, bound to the
peg it names; JOB_ABORT of a job with a step in the making ends it there and waits, one that is not there is NOT_BOUND;
PREFIX_PIN holds the pages with the first positions of the request it names, and stages their references; PREFIX_RELEASE
stages the drop of the pin's references for the next boundary, or is NOT_BOUND; a boundary without a step makes its context's
LOADING patch READY; a token ring that stalls for 30 s faults its context and no other. -/
def Obligations.JobsAndPrefixes : Prop :=
  (∀ (c : Cmd) (g : Image) (s : State), accepts s c 0x30 [] = true → reservedZero c [(16, 33)] = true →
    s.image (Cmd.ownCtx c) (c.byte 16).toNat = some g → imgRole g = 0 → (c.byte 17).toNat ≤ 7 →
    c.byte 19 = 0 ∨ (c.byte 19).toNat ∈ [1, 3] ∧ s.pegUsable c.fn.val (c.byte 18).toNat = true →
    1 ≤ c.le 20 4 → c.le 20 4 ≤ 65535 → c.le 24 8 % 16 = 0 → c.le 32 2 = 0 →
    (∀ j ∈ (s.ctx (Cmd.ownCtx c)).jobs, j.id ≠ c.objId) →
    ∃ t j, exec (.jobRun c) s = .next t ∧ Waits t c (.job (Cmd.ownCtx c) c.objId) ∧
      (t.ctx (Cmd.ownCtx c)).jobs = (s.ctx (Cmd.ownCtx c)).jobs ++ [j] ∧ j.id = c.objId ∧ j.handle = (c.byte 16).toNat ∧
      j.prio = (c.byte 17).toNat ∧ j.steps = c.le 20 4 ∧ j.begun = 0 ∧ j.committed = 0 ∧ j.aborting = false ∧
      j.peg = (if c.byte 19 = 0 then none else some (c.byte 18).toNat) ∧ j.dropLate = (c.byte 19).getLsbD 1 ∧
      (∀ p, j.peg = some p → .job (Cmd.ownCtx c) c.objId ∈ (t.pegAt p).bindings) ∧
      (c.byte 19 = 0 → t.peg = s.peg) ∧ (∀ i, i ≠ Cmd.ownCtx c → t.ctx i = s.ctx i) ∧ Serves [.ctxs, .peg] c s t) ∧
  (∀ (c : Cmd) (j : Job) (s : State), accepts s c 0x31 [] = true → reservedZero c [] = true →
    (s.ctx (Cmd.ownCtx c)).jobs = [j] → j.id = c.objId → j.begun < j.steps → j.committed < j.begun → j.aborting = false →
    ∃ t k, exec (.jobAbort c) s = .next t ∧ Waits t c (.jobAbort (Cmd.ownCtx c) c.objId) ∧
      (t.ctx (Cmd.ownCtx c)).jobs = [k] ∧ k.aborting = true ∧ k.limit = j.begun ∧ k.committed = j.committed ∧
      (∀ i, i ≠ Cmd.ownCtx c → t.ctx i = s.ctx i) ∧ Serves [.ctxs] c s t) ∧
  (∀ (c : Cmd) (s : State), accepts s c 0x31 [] = true → reservedZero c [] = true →
    (∀ j ∈ (s.ctx (Cmd.ownCtx c)).jobs, j.id ≠ c.objId) →
    (∀ n, n < 8 → ∀ k ∈ (s.ring c.fn.val n).kept, k.bytes.getD 0 0 ≠ 0x30) →
    ∃ t, exec (.jobAbort c) s = .next t ∧ Answered t c (.of stNotBound) ∧ Serves [] c s t) ∧
  (∀ (c : Cmd) (r : Req) (k : Nat) (s : State), accepts s c 0x28 [] = true → reservedZero c [(16, 27)] = true →
    s.findReq (Cmd.ownCtx c) (c.le 16 8) = some r → r.slot = some k → c.le 24 4 ≠ 0 → c.le 24 4 ≤ r.lenDone →
    (∀ p ∈ (s.ctx (Cmd.ownCtx c)).pins, p.id ≠ c.objId) → (s.ctx (Cmd.ownCtx c)).pins.length < 256 →
    (let list := (s.listNow (Cmd.ownCtx c) k).take (cdiv (c.le 24 4) 64)
     list.length = cdiv (c.le 24 4) 64 →
     (∀ e ∈ list, e.valid = true ∧
       (s.page e.page).refs + (s.ctx (Cmd.ownCtx c)).staged.adds.count e.page < 1023) →
     ∃ t p, exec (.prefixPin c) s = .next t ∧ Answered t c (.ok (leBytes 4 (cdiv (c.le 24 4) 64))) ∧
      (t.ctx (Cmd.ownCtx c)).pins = (s.ctx (Cmd.ownCtx c)).pins ++ [p] ∧ p.id = c.objId ∧ p.len = c.le 24 4 ∧
      p.pages = list.map ListEnt.page ∧
      (t.ctx (Cmd.ownCtx c)).staged.adds = (s.ctx (Cmd.ownCtx c)).staged.adds ++ p.pages ∧
      (∀ i, i ≠ Cmd.ownCtx c → t.ctx i = s.ctx i) ∧ Serves [.ctxs] c s t)) ∧
  (∀ (c : Cmd) (p : Pin) (s : State), accepts s c 0x29 [] = true → reservedZero c [] = true →
    (s.ctx (Cmd.ownCtx c)).pins.find? (fun q => q.id = c.objId) = some p →
    ∃ t, exec (.prefixRelease c) s = .next t ∧ Answered t c (.of stOk) ∧
      (t.ctx (Cmd.ownCtx c)).pins = (s.ctx (Cmd.ownCtx c)).pins.filter (fun q => q.id ≠ c.objId) ∧
      (t.ctx (Cmd.ownCtx c)).staged.drops = (s.ctx (Cmd.ownCtx c)).staged.drops ++ p.pages ++ p.twins.map Prod.snd ∧
      (∀ i, i ≠ Cmd.ownCtx c → t.ctx i = s.ctx i) ∧ Serves [.ctxs] c s t) ∧
  (∀ (c : Cmd) (s : State), accepts s c 0x29 [] = true → reservedZero c [] = true →
    (∀ p ∈ (s.ctx (Cmd.ownCtx c)).pins, p.id ≠ c.objId) →
    ∃ t, exec (.prefixRelease c) s = .next t ∧ Answered t c (.of stNotBound) ∧ Serves [] c s t) ∧
  (∀ (x k : Nat) (p : PatchSlot) (s : State), s.ctl.owner.isSome = true → s.ctl.gap = false → s.glb.state = .ready → x < 16 →
    (∀ i, i < 16 → i ≠ x → (s.ctx i).st = .free) → (s.ctx x).st = .ready → (s.ctx x).reqs = [] → (s.ctx x).steps = [] →
    (s.ctx x).next = none → (s.ctx x).staged = {} → (s.ctx x).tbEnds = [] → s.kvp.dir = [] → s.arr.cur ≠ some x →
    s.tsu.patches = [(k, p)] → p.st = .loading → p.owner = x → (s.sec.keys.get x).pendingGen = false → s.host.inflight = [] →
    ∃ t, exec .nostepBoundary s = .next t ∧ (t.tsu.patches.get k).st = .ready ∧ KeepsBut [.tsu, .ctxs] s t) ∧
  ∀ (x : CtxId) (s : State), (s.ctx x.val).st = .ready → (s.ctx x.val).tbWait ≠ [] →
    (s.ctx x.val).tbStall + 30 * secNs ≤ s.time →
    ∃ t, exec (.tokenRingTimeout x) s = .next t ∧ (t.ctx x.val).st = .faulted ∧ ∀ i, i ≠ x.val → (t.ctx i).st = (s.ctx i).st

/-! ### Video (11) -/

/-- VID_OPEN within the context's 1,024 buffers opens an unused session with the settings asked, its buffers on pages of the
context that were free.  VID_CLOSE frees at once a session that has no work and no buffer in use by a pipe or a job; one that
a pipe works for is closing, and the command waits; a number that names no session is NOT_BOUND.  VID_RECONFIG changes what its
session's kind may change, for submissions to come.  Every other session stays as it is. -/
def Obligations.VideoSessions : Prop :=
  (∀ (c : Cmd) (s : State), accepts s c 0x38 [] = true → (c.byte 16).toNat ≤ 2 →
    (let k := (c.byte 16).toNat
     let v := vidCfgOf c k
     reservedZero c (if k = 2 then [(16, 25), (27, 48), (50, 57)] else [(16, 26), (27, 48), (50, 57)]) = true ∧ v.prio ≤ 7 ∧
     2 ≤ v.buffers ∧ v.buffers ≤ 1024 ∧ 64 ≤ v.width ∧ v.width ≤ 8192 ∧ 64 ≤ v.height ∧ v.height ≤ 4352 ∧ v.fmt ≤ 3 ∧
     (c.byte 25).toNat ≤ 3 ∧ (k = 1 → v.opPoint ≤ 31) ∧
     (k = 2 → 3 ≤ v.buffers ∧ v.width % 8 = 0 ∧ v.height % 8 = 0 ∧ ∀ r ∈ encRules c v, r.1 = false) ∧
     ((s.sessionsOf (Cmd.ownCtx c)).map fun k => (s.sess k).cfg.buffers).foldl (· + ·) 0 + v.buffers ≤ 1024 ∧
     (∃ n, n < (if k = 2 then 64 else 256) ∧ (s.sess (sessKey n (k == 2))).opened = false) ∧
     (s.pickPages (Cmd.ownCtx c) (cdiv (v.buffers * v.bufBytes) pageBytes)).isSome = true ∧ Tbl.wf s.mem.xlat = true ∧
     cdiv (v.buffers * v.bufBytes) pageBytes ≤ s.framesFree) →
    ∃ t n g, exec (.vidOpen c) s = .next t ∧ Answered t c (.ok [BitVec.ofNat 8 n]) ∧
      (let k := sessKey n ((c.byte 16).toNat == 2)
       let y := t.sess k
       (s.sess k).opened = false ∧ y.opened = true ∧ y.st = .idle ∧ y.ctx = Cmd.ownCtx c ∧
         y.cfg = vidCfgOf c (c.byte 16).toNat ∧ y.subs = [] ∧ y.base = g * pageBytes ∧
         g + y.pages ≤ (s.ctx y.ctx).mmuSize ∧ (∀ i, i < y.pages → s.xlatAt y.ctx (g + i) = {}) ∧
         ∀ j, j ≠ k → t.sess j = s.sess j)) ∧
  (∀ (c : Cmd) (k : Nat) (s : State), accepts s c 0x3A [] = true → reservedZero c [(16, 16)] = true →
    s.namedSess (Cmd.ownCtx c) (c.byte 16).toNat = some k → (s.sess k).st ≠ .closing → (s.sess k).subs = [] →
    (∀ i, i < (s.sess k).cfg.buffers → ((s.sess k).bufs.get i).jobRefs = 0 ∧ ((s.sess k).bufs.get i).piped = false) →
    s.sessPiped k = false →
    ∃ t, exec (.vidClose c) s = .next t ∧ Answered t c (.of stOk) ∧ t.sess k = {} ∧ ∀ j, j ≠ k → t.sess j = s.sess j) ∧
  (∀ (c : Cmd) (k : Nat) (s : State), accepts s c 0x3A [] = true → reservedZero c [(16, 16)] = true →
    s.namedSess (Cmd.ownCtx c) (c.byte 16).toNat = some k → s.sessPiped k = true →
    ∃ t, exec (.vidClose c) s = .next t ∧ Waits t c (.vidClose (c.byte 16).toNat (decide (256 ≤ k))) ∧
      (t.sess k).opened = true ∧ (t.sess k).st = .closing ∧ ∀ j, j ≠ k → t.sess j = s.sess j) ∧
  (∀ (c : Cmd) (s : State), accepts s c 0x3A [] = true → reservedZero c [(16, 16)] = true →
    s.namedSess (Cmd.ownCtx c) (c.byte 16).toNat = none →
    ∃ t, exec (.vidClose c) s = .next t ∧ Answered t c (.of stNotBound) ∧ Serves [] c s t) ∧
  (∀ (c : Cmd) (k : Nat) (s : State), accepts s c 0x3B [] = true → reservedZero c [(16, 26), (27, 48), (50, 57)] = true →
    s.namedSess (Cmd.ownCtx c) (c.byte 16).toNat = some k → k < 256 →
    (let o := (s.sess k).cfg
     let v := vidCfgOf c o.kind
     v.prio ≤ 7 ∧ (c.byte 25).toNat ≤ 3 ∧ v = { o with prio := v.prio, hashCheck := v.hashCheck, ctu64 := v.ctu64 }) →
    ∃ t, exec (.vidReconfig c) s = .next t ∧ Answered t c (.of stOk) ∧ (t.sess k).cfg = vidCfgOf c (s.sess k).cfg.kind ∧
      (t.sess k).subs = (s.sess k).subs ∧ (∀ j, j ≠ k → t.sess j = s.sess j) ∧ Serves [.vid] c s t) ∧
  ∀ (c : Cmd) (k : Nat) (s : State), accepts s c 0x3B [] = true → reservedZero c [(16, 25), (27, 48), (50, 57)] = true →
    s.namedSess (Cmd.ownCtx c) (c.byte 16).toNat = some k → 256 ≤ k →
    (let o := (s.sess k).cfg
     let v := vidCfgOf c o.kind
     v.prio ≤ 7 ∧ (c.byte 25).toNat ≤ 3 ∧ v.buffers = o.buffers ∧ v.width = o.width ∧ v.height = o.height ∧ v.fmt = o.fmt ∧
       v.hashCheck = o.hashCheck ∧ v.ctu64 = o.ctu64 ∧ ∀ r ∈ encRules c v, r.1 = false) →
    ∃ t, exec (.vidReconfig c) s = .next t ∧ Answered t c (.of stOk) ∧ (t.sess k).cfg = vidCfgOf c (s.sess k).cfg.kind ∧
      (∀ j, j ≠ k → t.sess j = s.sess j) ∧ Serves [.vid] c s t

/-- VID_SUBMIT: an access unit, a picture to encode and an end of stream join their session's submissions with their tag, and
the first two with the session's settings and their order; an access unit for which 16 are queued is BUSY_RETRY; an end of
stream with nothing before it ends at once, with no buffer waiting for output; a released handle loses one reference, one
without a reference is BAD_PARAM; an acquired buffer was free and has one; a session that is not open is NOT_BOUND. -/
def Obligations.VideoSubmissions : Prop :=
  let good (s : State) (c : Cmd) : Prop :=
    accepts s c 0x39 [] = true ∧ reservedZero c subBytes = true ∧ (c.byte 18).toNat ≤ 31 ∧
    ((c.byte 18).getLsbD 0 = true → s.pegUsable c.fn.val (c.byte 19).toNat = true) ∧
    ((c.byte 18).getLsbD 1 = true ∨ (c.byte 18).getLsbD 2 = true → (c.byte 20).toNat ≤ 3)
  (∀ (c : Cmd) (k : Nat) (s : State), good s c → (c.byte 17).toNat = 0 → c.le 28 4 ≤ 2 ^ 25 → s.subSess c false = some k →
    s.queued k < 16 →
    ∃ t q, exec (.decodeAu c) s = .next t ∧ Answered t c (.of stOk) ∧ (t.sess k).subs = (s.sess k).subs ++ [q] ∧ q.kind = 0 ∧
      q.tag = c.objId ∧ q.len = c.le 28 4 ∧ q.addr = BitVec.ofNat 64 (c.le 32 8) ∧ q.order = s.vid.subSeq ∧
      q.cfg = (s.sess k).cfg ∧ (∀ j, j ≠ k → t.sess j = s.sess j) ∧ Serves [.vid, .peg] c s t) ∧
  (∀ (c : Cmd) (k : Nat) (s : State), good s c → (c.byte 17).toNat = 0 → c.le 28 4 ≤ 2 ^ 25 → s.subSess c false = some k →
    16 ≤ s.queued k →
    ∃ t d, exec (.decodeAu c) s = .next t ∧ Answered t c { status := stBusy, detail := d } ∧
      Serves [.fresh] c s t) ∧
  (∀ (c : Cmd) (k : Nat) (s : State), good s c → (c.byte 17).toNat = 1 → s.subSess c true = some k →
    (s.sess k).cfg.capBits ≤ 8 * c.le 28 4 → (c.byte 40).toNat ≤ 16 → s.handleOk (Cmd.ownCtx c) (c.le 44 4) = true →
    s.queued k < 16 →
    (let n := (c.byte 40).toNat
     let roi := (upto n).map fun i => s.mem.bytesAt (ctxKey (Cmd.ownCtx c) (c.le 48 8 + 16 * i)) 16
     n = 0 ∨ s.vaOk (Cmd.ownCtx c) (c.le 48 8) (16 * n) false = true ∧ (∀ e ∈ roi, roiOk (s.sess k).cfg e = true) →
     ∃ t q, exec (.encode c) s = .next t ∧ Answered t c (.of stOk) ∧ (t.sess k).subs = (s.sess k).subs ++ [q] ∧ q.kind = 1 ∧
      q.tag = c.objId ∧ q.source = c.le 44 4 ∧ q.len = c.le 28 4 ∧ q.addr = BitVec.ofNat 64 (c.le 32 8) ∧ q.roi = roi ∧
      q.forceIdr = (c.byte 18).getLsbD 3 ∧ q.order = s.vid.subSeq ∧ q.cfg = (s.sess k).cfg ∧
      q.releaseSource = (c.byte 18).getLsbD 4 ∧ (∀ j, j ≠ k → t.sess j = s.sess j) ∧
      Serves [.vid, .peg] c s t)) ∧
  (∀ (c : Cmd) (h : BitVec 32) (s : State), good s c → (c.byte 17).toNat = 2 → c.le 28 4 = 1 →
    (c.le 32 8 < 2 ^ 63 ∨ s.vaOk (Cmd.ownCtx c) (c.le 32 8 % 2 ^ 63) 4 false = true) →
    (let n := if (c.le 32 8).testBit 63 then s.ctxLe (Cmd.ownCtx c) (c.le 32 8 % 2 ^ 63) 4 else h.toNat
     let b := (s.sess (handleSess n)).bufs.get (handleBuf n)
     s.handleOk (Cmd.ownCtx c) n = true →
     (0 < b.hostRefs → (s.namedSess (Cmd.ownCtx c) (c.byte 16).toNat).isSome = true →
       ∃ t, exec (.release c [h]) s = .next t ∧ Answered t c (.of stOk) ∧
         ((t.sess (handleSess n)).bufs.get (handleBuf n)).hostRefs = b.hostRefs - 1 ∧
         (∀ i, i ≠ handleBuf n → (t.sess (handleSess n)).bufs.get i = (s.sess (handleSess n)).bufs.get i) ∧
         (∀ j, j ≠ handleSess n → t.sess j = s.sess j) ∧ Serves [.vid] c s t) ∧
     (0 < b.hostRefs → s.namedSess (Cmd.ownCtx c) (c.byte 16).toNat = none →
       ∃ t, exec (.release c [h]) s = .next t ∧ Answered t c (.of stNotBound) ∧ Serves [] c s t) ∧
     (b.hostRefs = 0 → ∃ t, exec (.release c [h]) s = .next t ∧ Answered t c (.bad 32) ∧ Serves [] c s t))) ∧
  (∀ (c : Cmd) (k : Nat) (s : State), good s c → (c.byte 17).toNat = 3 → s.subSess c true = some k →
    (∃ i, i < (s.sess k).cfg.buffers ∧ ((s.sess k).bufs.get i).held = false) →
    ∃ t i, exec (.acquire c) s = .next t ∧
      Answered t c (.ok (leBytes 4 (handleOf k i) ++ leBytes 4 0 ++ leBytes 8 (s.bufVa k i))) ∧ i < (s.sess k).cfg.buffers ∧
      ((s.sess k).bufs.get i).held = false ∧ ((t.sess k).bufs.get i).hostRefs = 1 ∧
      (∀ j, j ≠ i → (t.sess k).bufs.get j = (s.sess k).bufs.get j) ∧ (∀ j, j ≠ k → t.sess j = s.sess j) ∧
      Serves [.vid, .fresh] c s t) ∧
  (∀ (c : Cmd) (k : Nat) (h : VidSub) (s : State), good s c → (c.byte 17).toNat = 4 → s.subSess c false = some k →
    (s.sess k).subs.head? = some h → h.kind ≠ 4 ∨ s.sessPiped k = true → s.queued k < 16 →
    ∃ t q, exec (.eos c) s = .next t ∧ Answered t c (.of stOk) ∧ (t.sess k).subs = (s.sess k).subs ++ [q] ∧ q.kind = 4 ∧
      q.tag = c.objId ∧ (∀ j, j ≠ k → t.sess j = s.sess j) ∧ Serves [.vid, .peg] c s t) ∧
  (∀ (c : Cmd) (k : Nat) (s : State), good s c → (c.byte 17).toNat = 4 → s.subSess c false = some k →
    (s.sess k).subs = [] → s.sessPiped k = false →
    ∃ t, exec (.eos c) s = .next t ∧ Answered t c (.of stOk) ∧ (t.sess k).subs = [] ∧
      (∀ i, i < (s.sess k).cfg.buffers → ((t.sess k).bufs.get i).output = false) ∧ ∀ j, j ≠ k → t.sess j = s.sess j) ∧
  ∀ (c : Cmd) (s : State), good s c →
    ((c.byte 17).toNat = 0 → c.le 28 4 ≤ 2 ^ 25 → s.subSess c false = none →
      ∃ t, exec (.decodeAu c) s = .next t ∧ Answered t c (.of stNotBound) ∧ Serves [] c s t) ∧
    ((c.byte 17).toNat = 1 → s.subSess c true = none →
      ∃ t, exec (.encode c) s = .next t ∧ Answered t c (.of stNotBound) ∧ Serves [] c s t) ∧
    ((c.byte 17).toNat = 3 → s.subSess c true = none →
      ∃ t, exec (.acquire c) s = .next t ∧ Answered t c (.of stNotBound) ∧ Serves [] c s t) ∧
    ((c.byte 17).toNat = 4 → s.subSess c false = none →
      ∃ t, exec (.eos c) s = .next t ∧ Answered t c (.of stNotBound) ∧ Serves [] c s t)

/-- Pictures.  A free decode pipe takes a session that has a picture and a free buffer, and with one such session its picture
and a buffer that was free; the free encode pipe takes its one session's picture.  A decoded picture that is kept is written
to its buffer, with its submission's tag, its flags and the reference marks that stand after it; the last of an access unit
ends its submission; on the watchdog the picture is concealed and flagged.  The end of an encoded picture writes the slices
left and frees its source; a coded slice goes behind the slices before it, nothing beyond the submission's length,
and a report of another slice changes nothing. -/
def Obligations.Pictures : Prop :=
  let kept (s : State) (k : Nat) (res : PicResult) : Prop :=
    (s.sess k).cfg.fits res = true ∧ (res.irap = true ∨ (s.sess k).discarding = false)
  let marked (res : PicResult) (i j : Nat) : Option RefMark :=
    ((res.marks.map fun m => (if m.1 = res.buffer then i else m.1, m.2)).find? fun m => m.1 = j).map Prod.snd
  (∀ (a : PictureTaken) (s : State), a.pipe.val < 2 → s.codecOn = true → (s.vid.pipes.get a.pipe.val).busy = false →
    (∃ k, k < 256 ∧ (s.pictureOf k).isSome = true ∧ (s.sess k).freeBufs ≠ []) →
    ∃ t k, exec (.pictureStart a) s = .next t ∧ k < 256 ∧ (s.pictureOf k).isSome = true ∧
      (let u := t.vid.pipes.get a.pipe.val
       u.busy = true ∧ u.session = k ∧ u.enc = false ∧ u.ctx = (s.sess k).ctx ∧ u.since = s.time ∧
         u.target < (s.sess k).cfg.buffers ∧ ((t.sess k).bufs.get u.target).piped = true) ∧
      KeepsBut [.vid, .fresh, .tel] s t) ∧
  (∀ (a : PictureTaken) (k : Nat) (s : State), a.pipe.val < 2 → s.codecOn = true → (s.vid.pipes.get a.pipe.val).busy = false →
    k < 256 → (s.sess k).st ≠ .closing → (s.pictureOf k).isSome = true → (s.sess k).freeBufs ≠ [] →
    (∀ j, j < 256 → j ≠ k → s.pictureOf j = none) →
    ∃ t, exec (.pictureStart a) s = .next t ∧
      (let u := t.vid.pipes.get a.pipe.val
       u.busy = true ∧ u.session = k ∧ u.since = s.time ∧ u.target ∈ (s.sess k).freeBufs ∧
         ((t.sess k).bufs.get u.target).piped = true ∧
         ∀ i, i ≠ u.target → (t.sess k).bufs.get i = (s.sess k).bufs.get i) ∧
      (t.sess k).st = .running ∧ (t.sess k).subs = (s.sess k).subs ∧ (∀ j, j ≠ k → t.sess j = s.sess j) ∧
      (∀ r, r < 3 → r ≠ a.pipe.val → t.vid.pipes.get r = s.vid.pipes.get r) ∧ KeepsBut [.vid, .fresh, .tel] s t) ∧
  (∀ (a : PictureTaken) (k : Nat) (q : VidSub) (s : State), a.pipe = 2 → s.codecOn = true → (s.vid.pipes.get 2).busy = false → 256 ≤ k → k < 320 →
    (s.sess k).st ≠ .closing → s.pictureOf k = some q → s.handleOk (s.sess k).ctx q.source = true →
    (∀ j, j < 320 → 256 ≤ j → j ≠ k → s.pictureOf j = none) →
    ∃ t, exec (.pictureStart a) s = .next t ∧
      (let u := t.vid.pipes.get 2
       u.busy = true ∧ u.enc = true ∧ u.session = k - 256 ∧ u.ctx = (s.sess k).ctx ∧ u.since = s.time ∧ u.slices = 0 ∧
         u.bits = 0) ∧
      ((t.sess (handleSess q.source)).bufs.get (handleBuf q.source)).piped = true ∧
      (t.sess k).st = .running ∧ KeepsBut [.vid, .tel] s t) ∧
  (∀ (p : Fin 3) (k : Nat) (q : VidSub) (res : PicResult) (s : State), p.val < 2 → (s.vid.pipes.get p.val).busy = true →
    (s.vid.pipes.get p.val).session = k → (s.sess k).st = .running → (s.sess k).subs.head? = some q → q.kind = 0 →
    (s.vid.pipes.get p.val).target < (s.sess k).cfg.buffers →
    res.decoded = true → kept s k res → res.outputs = [] → res.lastOfAu = false →
    ∃ t, exec (.pictureDone p res) s = .next t ∧ (t.vid.pipes.get p.val).busy = false ∧
      (let i := (s.vid.pipes.get p.val).target
       let b := (t.sess k).bufs.get i
       b.piped = false ∧ b.output = res.shown ∧ b.tag = q.tag ∧
         (∀ j, j < (s.sess k).cfg.buffers → ((t.sess k).bufs.get j).mark = marked res i j) ∧
         (q.late = false → q.capture = none → q.captureStale = false → q.addr.getLsbD 63 = false →
           b.flags = (s.sess k).picFlags i res 0 &&& 0x1FFF) ∧
         t.mem = (s.putPicture k i res).mem) ∧
      (∀ j, j ≠ k → t.sess j = s.sess j) ∧ KeepsBut [.vid, .tel, .mem] s t) ∧
  (∀ (p : Fin 3) (k : Nat) (q : VidSub) (res : PicResult) (s : State), p.val < 2 → (s.vid.pipes.get p.val).busy = true →
    (s.vid.pipes.get p.val).session = k → (s.sess k).st = .running → (s.sess k).subs.head? = some q →
    (∀ r ∈ (s.sess k).subs, r.kind = 0) → res.outputs = [] → res.lastOfAu = true →
    ∃ t, exec (.pictureDone p res) s = .next t ∧ (t.vid.pipes.get p.val).busy = false ∧
      (t.sess k).subs.map VidSub.order = ((s.sess k).subs.map VidSub.order).filter (fun o => o ≠ q.order) ∧
      (∀ j, j ≠ k → t.sess j = s.sess j)) ∧
  (∀ (p : Fin 3) (k : Nat) (q : VidSub) (res : PicResult) (s : State), p.val < 2 → (s.vid.pipes.get p.val).busy = true →
    (s.vid.pipes.get p.val).session = k → (s.vid.pipes.get p.val).since + (s.vid.pipes.get p.val).limit ≤ s.time →
    (s.sess k).st = .running → (s.sess k).subs.head? = some q → q.kind = 0 →
    (s.vid.pipes.get p.val).target < (s.sess k).cfg.buffers → kept s k res → res.outputs = [] → res.lastOfAu = false →
    ∃ t, exec (.pictureWatchdog p res) s = .next t ∧ (t.vid.pipes.get p.val).busy = false ∧
      (let b := (t.sess k).bufs.get (s.vid.pipes.get p.val).target
       b.flags.testBit 0 = true ∧ b.flags.testBit 4 = true ∧ b.piped = false) ∧
      (∀ j, j ≠ k → t.sess j = s.sess j) ∧ KeepsBut [.vid, .tel, .mem] s t) ∧
  (∀ (p : Fin 3) (res : PicResult) (s : State), (s.vid.pipes.get p.val).busy = false ∨
      s.time < (s.vid.pipes.get p.val).since + (s.vid.pipes.get p.val).limit →
    exec (.pictureWatchdog p res) s = .next s) ∧
  (∀ (k : Nat) (q : VidSub) (res : PicResult) (s : State), (s.vid.pipes.get 2).busy = true →
    k = 256 + (s.vid.pipes.get 2).session → (s.sess k).st = .running → (s.sess k).subs.head? = some q →
    ∃ t, exec (.pictureDone 2 res) s = .next t ∧ (t.vid.pipes.get 2).busy = false ∧
      (t.sess k).encoded = (s.sess k).encoded + 1 ∧
      (t.sess k).sinceIdr = (if (s.vid.pipes.get 2).intra then 1 else (s.sess k).sinceIdr + 1) ∧
      ((s.sess (handleSess q.source)).st ≠ .closing →
        (let b := (s.sess (handleSess q.source)).bufs.get (handleBuf q.source)
         let d := (t.sess (handleSess q.source)).bufs.get (handleBuf q.source)
         d.piped = false ∧ d.hostRefs = if q.releaseSource then b.hostRefs - 1 else b.hostRefs))) ∧
  (∀ (q : VidSub) (data : List Byte) (s : State), (s.vid.pipes.get 2).busy = true →
    (s.sess (256 + (s.vid.pipes.get 2).session)).subs.head? = some q →
    (s.vid.pipes.get 2).coded.slices[(s.vid.pipes.get 2).slices]? = some data →
    ∃ t, exec (.sliceDone (8 * data.length)
        (decide ((s.vid.pipes.get 2).slices + 1 = (s.vid.pipes.get 2).coded.slices.length)) data) s = .next t ∧
      (t.vid.pipes.get 2).slices = (s.vid.pipes.get 2).slices + 1 ∧
      (let off := (s.vid.pipes.get 2).bits / 8
       (t.vid.pipes.get 2).bits = 8 * (off + data.length) ∧
       (q.addr.getLsbD 63 = true → ∀ i, i < data.length → i < q.len - off →
         t.mem.byteAt (ctxKey (s.vid.pipes.get 2).ctx (q.addr.toNat % 2 ^ 63 + off) + i) = data.getD i 0) ∧
       (q.addr.getLsbD 63 = false → t.mem = s.mem)) ∧
      KeepsBut [.vid, .mem, .host, .tel] s t) ∧
  ∀ (bits : Nat) (last : Bool) (data : List Byte) (s : State), (s.vid.pipes.get 2).nextSlice ≠ some (bits, last, data) →
    exec (.sliceDone bits last data) s = .next s

/-! ### Control cores and firmware (17) -/

/-- The interlock: the owner's heartbeat counts and another core's access is refused and counted; a release for a fault opens
the gap with a standby that is STANDBY_OK as successor, a planned one waits for the step that runs and then opens it, and so
do 5 ms without a heartbeat, a second such loss in 24 h failing the core.  With no context open, TAKE by the successor closes
the gap with the state of the store.  Without a store and a mirror it says so, and every open context is FAULTED. -/
def Obligations.Interlock : Prop :=
  (∀ (k : CoreAB) (s : State), s.ctl.owner = some k →
    exec (.interlockHeartbeat k) s = .next { s with ctl := { s.ctl with lastBeat := s.time } }) ∧
  (∀ (k : CoreAB) (s : State), s.ctl.owner ≠ some k → s.board.powered = true →
    let t := { s with ctl := { s.ctl with refused := s.ctl.refused + 1 } }
    exec (.interlockHeartbeat k) s = .next t ∧ exec (.releaseFault k) s = .next t ∧ exec (.releasePlanned k) s = .next t) ∧
  (∀ (k : CoreAB) (s : State), s.ctl.owner = some k → (s.ctlCore (coreOther k)).health = .standbyOk →
    ∃ t, exec (.releaseFault k) s = .next t ∧ t.ctl.owner = none ∧ t.ctl.gap = true ∧ t.ctl.successor = some (coreOther k) ∧
      t.ctl.gapSince = s.time ∧ t.ctl.planned = false ∧ (t.ctlCore k).health = .booting ∧ KeepsBut [.ctl, .tel, .host] s t) ∧
  (∀ (k : CoreAB) (s : State), s.ctl.owner = some k → s.stepRuns = true →
    exec (.releasePlanned k) s = .next { s with ctl := { s.ctl with plannedDue := true } }) ∧
  (∀ (k : CoreAB) (s : State), s.ctl.owner = some k → s.stepRuns = false →
    ∃ t, exec (.releasePlanned k) s = .next t ∧ t.ctl.owner = none ∧ t.ctl.gap = true ∧ t.ctl.planned = true ∧
      t.ctl.successor = some (if (s.ctlCore (coreOther k)).health = .standbyOk then coreOther k else k) ∧
      KeepsBut [.ctl, .tel, .host] s t) ∧
  (∀ (k : CoreAB) (s : State), s.ctl.owner = some k → s.board.powered = true → s.glb.state ≠ .recovery →
    s.ctl.lastBeat + 5 * msNs ≤ s.time →
    ∃ t, exec .heartbeatTimeout s = .next t ∧ t.ctl.owner = none ∧ t.ctl.gap = true ∧ t.ctl.planned = false ∧
      (t.ctlCore k).losses = s.time :: lossesNow (s.ctlCore k).losses s.time ∧
      ((t.ctlCore k).health = .failed ↔ lossesNow (s.ctlCore k).losses s.time ≠ []) ∧ KeepsBut [.ctl, .tel, .host] s t) ∧
  (∀ (k : CoreAB) (inp : RestoreInput) (s : State), s.ctl.gap = true → s.ctl.successor = some k → s.ctxs = [] →
    s.glb.state = .ready → s.glb.dozeEntering = false → inp.storeOk = true →
    ∃ t, exec (.take k inp) s = .next t ∧ t.ctl.owner = some k ∧ t.ctl.gap = false ∧ t.ctl.successor = none ∧
      t.ctl.restore = .store ∧ t.ctl.lastBeat = s.time ∧ t.ctl.gapLastUs = sat32 ((s.time - s.ctl.gapSince) / usNs) ∧
      (t.ctlCore k).health = .active ∧ t.tel.pending = true ∧ t.glb = s.glb) ∧
  (∀ (k : CoreAB) (inp : RestoreInput) (s : State), s.ctl.gap = true → s.ctl.successor = some k → s.glb.state = .ready →
    inp.storeOk = false → inp.mirrorOk = false ∨ s.ctl.mirrorStep = none → (∀ i, i < 16 → (s.ctx i).st ≠ .resetting) →
    ∃ t, exec (.take k inp) s = .next t ∧ t.ctl.owner = some k ∧ t.ctl.gap = false ∧ t.ctl.restore = .lost ∧
      ∀ i, i < 16 → (s.ctx i).st ≠ .free →
        (t.ctx i).st = .faulted ∧ (t.ctx i).reqs = [] ∧ (t.ctx i).jobs = [] ∧ (t.ctx i).pins = []) ∧
  ∀ (k : CoreAB) (inp : RestoreInput) (s : State), s.ctl.successor ≠ some k → s.board.powered = true →
    exec (.take k inp) s = .next { s with ctl := { s.ctl with refused := s.ctl.refused + 1 } }

/-- A gap that lasts: after 40 ms a core that is not FAILED is started as successor, after 80 ms the module is SUSPECT
without a control core and no command but ATTEST is in flight.  The standby's self-test: a cycle that passes makes it
STANDBY_OK, the third that fails in a row makes it FAILED.  A clean preferred core takes back.  A subordinate controller that
misses its heartbeat is counted and restarted: the codec's pictures are abandoned, a port's sessions go down. -/
def Obligations.GapAndStandby : Prop :=
  (∀ s : State, s.ctl.gap = true → s.ctl.secondGap = false → s.ctl.gapSince + 40 * msNs ≤ s.time →
    ∃ t, exec .gapExpiry s = .next t ∧ t.ctl.gap = true ∧ t.ctl.secondGap = true ∧
      t.ctl.successor = (if (s.ctlCore .a).health ≠ .failed then some .a
        else if (s.ctlCore .b).health ≠ .failed then some .b else none) ∧ KeepsBut [.ctl] s t) ∧
  (∀ s : State, s.ctl.gap = true → s.ctl.secondGap = true → s.ctl.gapSince + 80 * msNs ≤ s.time →
    ∃ t, exec .gapExpiry s = .next t ∧ t.ctl.gap = false ∧ t.ctl.successor = none ∧ t.glb.state = .suspect ∧
      t.glb.noControlCore = true ∧ t.board.health = false ∧ t.board.suspect = true ∧
      (∀ i ∈ t.host.inflight, i.wait = .attest) ∧ KeepsBut ([.ctl, .glb, .board] ++ cmdBlocks) s t) ∧
  (∀ (k : CoreAB) (s : State), s.ctl.owner = some k → s.ctl.gap = false → (s.ctlCore (coreOther k)).health = .booting →
    s.ctl.phase ≠ .soakStandby →
    ∃ t, exec (.selfTestCycle 0) s = .next t ∧ (t.ctlCore (coreOther k)).health = .standbyOk ∧
      (t.ctlCore (coreOther k)).failCycles = 0 ∧ t.ctlCore k = s.ctlCore k ∧ KeepsBut [.ctl] s t) ∧
  (∀ (k : CoreAB) (f : Fin 5) (s : State), s.ctl.owner = some k → s.ctl.gap = false → f.val ≠ 0 →
    (s.ctlCore (coreOther k)).health = .standbyFail → s.ctl.phase ≠ .soakStandby →
    ∃ t, exec (.selfTestCycle f) s = .next t ∧
      (t.ctlCore (coreOther k)).failCycles = (s.ctlCore (coreOther k)).failCycles + 1 ∧
      (t.ctlCore (coreOther k)).lastFail = f.val ∧
      ((t.ctlCore (coreOther k)).health = .failed ↔ 2 ≤ (s.ctlCore (coreOther k)).failCycles) ∧ KeepsBut [.ctl] s t) ∧
  (∀ (k : CoreAB) (s : State), s.ctl.owner = some k → k ≠ s.ctl.preferred → (s.ctlCore s.ctl.preferred).health = .standbyOk →
    s.ctl.takebackMin ≠ 0 → s.ctl.takebackMin * 60 ≤ s.cleanS s.ctl.preferred → s.ctl.phase ∈ [.none_, .rolledBack] →
    s.glb.state = .ready ∨ s.glb.state = .quiesced →
    exec .takeBack s = .next { s with ctl := { s.ctl with plannedDue := true } }) ∧
  ∀ (n : Fin 6) (s : State), s.ctl.owner.isSome = true → s.ctl.gap = false → 4 ≤ s.glb.stage → s.board.powered = true →
    ∃ t, exec (.subHeartbeatMiss n) s = .next t ∧
      (n.val = 5 → t = s.bump (ctlBase + 0x20)) ∧
      (n.val = 0 → (∀ p, p < 3 → (t.vid.pipes.get p).busy = false) ∧ KeepsBut [.vid, .tel] s t) ∧
      (1 ≤ n.val → n.val ≤ 4 → ∀ e, e < 256 → (s.peer e).port.val = n.val - 1 → (t.peer e).st ≠ .up)

/-- FW_STAGE leaves the bundle in staging, VALID only if it verifies, and completes at once without a chain; with one it sends
the bundle on through the first module's session and waits, or reports that hop where there is no session.  FW_ACTIVATE starts
the standby on it, or sets PENDING for the next start; with nothing VALID it is NOT_BOUND, and below the fuses' SVN DENIED.
FW_STATUS reports. -/
def Obligations.FirmwareCommands : Prop :=
  (∀ (c : Cmd) (b : Bundle) (s : State), accepts s c 0x50 [] = true → reservedZero c [(24, 35), (40, 49)] = true →
    c.le 32 4 ≤ 64 * 2 ^ 20 → c.le 48 2 = 0 → s.ctl.updating = false → s.ctl.staging ≠ .pending →
    (∀ i ∈ s.host.inflight, i.wait ≠ .fwStage) →
    ∃ t, exec (.fwStage c b []) s = .next t ∧
      Answered t c { status := if s.verified b then stOk else stDigest, result := [0, 0, 0xFF, 0xFF, 0] } ∧
      t.ctl.staging = (if s.verified b then .valid else .invalid) ∧ t.ctl.staged = some b ∧
      (t.ctl.recoveryAt = if s.verified b && s.glb.state = .recovery then some (s.time + secNs) else s.ctl.recoveryAt) ∧
      Serves [.ctl] c s t) ∧
  (∀ (c : Cmd) (b : Bundle) (id : BitVec 128) (more : List (BitVec 128)) (s : State), accepts s c 0x50 [] = true →
    reservedZero c [(24, 35), (40, 49)] = true → c.le 32 4 ≤ 64 * 2 ^ 20 → 1 ≤ c.le 48 2 → c.le 48 2 ≤ 255 →
    s.glb.state ≠ .recovery → s.ctl.updating = false → s.ctl.staging ≠ .pending →
    (∀ i ∈ s.host.inflight, i.wait ≠ .fwStage) →
    (s.sessionOf id = none → ∃ t, exec (.fwStage c b (id :: more)) s = .next t ∧ t.ctl.hopFail = some (0, 1) ∧
      Answered t c t.ctl.stageReply ∧ t.ctl.staged = some b ∧ Serves [.ctl] c s t) ∧
    (∀ (e : Nat), s.sessionOf id = some e → ∃ t, exec (.fwStage c b (id :: more)) s = .next t ∧ Waits t c .fwStage ∧
      t.ctl.relayDown = some e ∧ t.ctl.chain = c.le 48 2 ∧ t.ctl.staged = some b ∧
      t.ctl.staging = (if s.verified b then .valid else .invalid) ∧ KeepsBut ([.ctl, .lnk] ++ cmdBlocks) s t)) ∧
  (∀ (c : Cmd) (s : State), accepts s c 0x51 [] = true → reservedZero c [(16, 17)] = true → (c.byte 17).toNat ≤ 1 →
    s.ctl.staged = none ∨ s.ctl.staging ≠ .valid →
    ((c.byte 16).toNat = 0 → ∃ t, exec (.live c) s = .next t ∧ Answered t c (.of stNotBound) ∧ Serves [] c s t) ∧
    ((c.byte 16).toNat = 1 → ∃ t, exec (.nextStart c) s = .next t ∧ Answered t c (.of stNotBound) ∧ Serves [] c s t)) ∧
  (∀ (c : Cmd) (b : Bundle) (s : State), accepts s c 0x51 [] = true → reservedZero c [(16, 17)] = true →
    (c.byte 16).toNat = 1 → (c.byte 17).toNat ≤ 1 → s.ctl.staged = some b → s.ctl.staging = .valid → s.ctl.updating = false →
    b.svn.toNat < s.sec.svn.toNat →
    ∃ t, exec (.nextStart c) s = .next t ∧ Answered t c (.of stDenied) ∧ Serves [] c s t) ∧
  (∀ (c : Cmd) (b : Bundle) (k : CoreAB) (s : State), accepts s c 0x51 [] = true → reservedZero c [(16, 17)] = true →
    (c.byte 16).toNat = 0 → (c.byte 17).toNat ≤ 1 → s.ctl.staged = some b → s.ctl.staging = .valid → s.ctl.updating = false →
    s.ctl.owner = some k → (s.ctlCore (coreOther k)).health = .standbyOk → s.ctl.formatsMeet b = true →
    s.sec.svn.toNat ≤ b.svn.toNat →
    ∃ t, exec (.live c) s = .next t ∧ Waits t c .liveTaken ∧ t.ctl.phase = .soakStandby ∧ t.ctl.phaseSince = s.time ∧
      t.ctl.soakCycles = 0 ∧ t.ctl.commitSvn = (c.byte 17).getLsbD 0 ∧ (t.ctlCore (coreOther k)).health = .booting ∧
      (t.ctlCore (coreOther k)).fwVer = b.version ∧ t.ctlCore k = s.ctlCore k ∧ Serves [.ctl] c s t) ∧
  (∀ (c : Cmd) (b : Bundle) (s : State), accepts s c 0x51 [] = true → reservedZero c [(16, 17)] = true →
    (c.byte 16).toNat = 1 → (c.byte 17).toNat ≤ 1 → s.ctl.staged = some b → s.ctl.staging = .valid → s.ctl.updating = false →
    s.sec.svn.toNat ≤ b.svn.toNat →
    ∃ t, exec (.nextStart c) s = .next t ∧ Answered t c (.of stOk) ∧ t.ctl.pending = true ∧ t.ctl.staging = .pending ∧
      t.ctl.phase = s.ctl.phase ∧ Serves [.ctl] c s t) ∧
  ∀ (c : Cmd) (k : CoreAB) (s : State), accepts s c 0x52 [] = true → reservedZero c [] = true → s.ctl.owner = some k →
    ∃ t, exec (.fwStatus c) s = .next t ∧ Serves [] c s t ∧
      Answered t c (.ok (leBytes 1 s.ctl.staging.code ++ leBytes 1 s.ctl.phase.code ++ leBytes 1 (coreNo k) ++
        leBytes 1 (s.ctlCore (coreOther k)).health.code ++ leBytes 4 ((s.ctl.staged.map fun b => b.version.toNat).getD 0) ++
        leBytes 4 (s.ctlCore k).fwVer.toNat ++ leBytes 4 s.ctl.stagedKib ++ leBytes 1 s.glb.bootFails ++
        leBytes 1 s.ctl.restore.code ++ leBytes 1 (b2n s.ctl.migrated + 2 * b2n s.ctl.defaulted) ++
        leBytes 1 (b2n s.ctl.primaryB) ++ leBytes 4 (s.cleanS (coreOther k))))

/-- A live update: ten passed cycles of the soaking standby bring the planned handover; a soak of 30 s without them ends on
the old firmware; ten minutes of the active one leave the update for the next start.  The recovery reset is a reset of the
module with its staging and settings kept.  In the relay chain a frame takes its credit and stays in staging, a hop's report is
counted once and mailed, and 60 s without one end the FW_STAGE. -/
def Obligations.UpdateAndRelay : Prop :=
  (∀ s : State, s.ctl.phase = .soakStandby → 10 ≤ s.ctl.soakCycles → s.ctl.owner.isSome = true →
    exec .soakStandbyDone s = .next { s with ctl := { s.ctl with plannedDue := true } }) ∧
  (∀ (k : CoreAB) (s : State), s.ctl.phase = .soakStandby → s.ctl.soakCycles < 10 →
    s.ctl.phaseSince + 30 * secNs ≤ s.time → s.ctl.owner = some k →
    ∃ t, exec .soakStandbyTimeout s = .next t ∧ t.ctl.phase = .none_ ∧ (t.ctlCore (coreOther k)).fwVer = (s.ctlCore k).fwVer ∧
      (t.ctlCore (coreOther k)).health = .booting ∧ (∀ i ∈ t.host.inflight, i.wait ≠ .liveTaken) ∧
      KeepsBut (.ctl :: cmdBlocks) s t) ∧
  (∀ (k : CoreAB) (b : Bundle) (s : State), s.ctl.phase = .soakActive → s.ctl.phaseSince + 600 * secNs ≤ s.time →
    s.ctl.owner = some k → s.ctl.staged = some b →
    ∃ t, exec .soakActiveEnd s = .next t ∧ t.ctl.phase = .awaitStart ∧ t.ctl.pending = true ∧ t.ctl.staging = .pending ∧
      t.ctl.storeFmt = b.storeFmt ∧ (t.ctlCore (coreOther k)).fwVer = b.version ∧ KeepsBut [.ctl, .tel] s t) ∧
  (∀ (due : Nat) (s : State), s.ctl.recoveryAt = some due → due ≤ s.time → s.glb.state = .recovery →
    ∃ t, exec .recoveryReset s = .next t ∧ t.glb.state = .init ∧ t.glb.stage = 0 ∧ t.ctxs = [] ∧ t.mem = {} ∧
      t.ctl.staging = s.ctl.staging ∧ t.settings = s.settings ∧ t.tel.starts = s.tel.starts + 1) ∧
  (∀ (e : Nat) (f : Frame) (b : Bundle) (s : State), s.frameEntry f = some e → (s.peer e).gen = f.sessGen →
    (s.peer e).encrypted = false → s.glb.state = .ready → s.lnk.open_ = false →
    0 < s.cons (cid 0x53 (lnkIdx e 3)) → s.ctl.updating = false → s.ctl.staging = .empty →
    (∀ i ∈ s.host.inflight, i.wait ≠ .fwStage) →
    ∃ t, exec (.relay f false b none) s = .next t ∧ t.ctl.staging = .receiving ∧ t.ctl.stagedKib = 2 ∧
      t.ctl.relayUp = some e ∧ t.cons (cid 0x53 (lnkIdx e 3)) = s.cons (cid 0x53 (lnkIdx e 3)) ∧
      KeepsBut [.ctl, .lnk, .tel] s t) ∧
  (∀ (hop : Nat) (cause : Fin 6) (e : Nat) (s : State), (∃ i ∈ s.host.inflight, i.wait = .fwStage) → hop < s.ctl.chain →
    hop ∉ s.ctl.reported → s.ctl.relayDown = some e → (s.mbx.boxes.get (20 + (s.peer e).port.val)).length < 4 →
    s.ctl.reported.length + 1 < s.ctl.chain →
    ∃ t, exec (.relayReport hop cause) s = .next t ∧ t.ctl.reported = hop :: s.ctl.reported ∧
      t.ctl.hopsGood = s.ctl.hopsGood + (if cause.val = 0 ∨ cause.val = 5 then 1 else 0) ∧
      (cause.val = 0 ∨ cause.val = 5 → t.ctl.hopFail = s.ctl.hopFail) ∧ t.host.inflight = s.host.inflight ∧
      (t.mbx.boxes.get (20 + (s.peer e).port.val)).length = (s.mbx.boxes.get (20 + (s.peer e).port.val)).length + 1 ∧
      KeepsBut [.ctl, .mbx, .fresh, .tel, .host] s t) ∧
  ∀ s : State, (∃ i ∈ s.host.inflight, i.wait = .fwStage) → s.ctl.lastFrame + 60 * secNs ≤ s.time →
    ∃ t, exec .relayReportTimeout s = .next t ∧ (∀ i ∈ t.host.inflight, i.wait ≠ .fwStage) ∧
      t.ctl.reported = upto s.ctl.chain ∧
      KeepsBut (.ctl :: cmdBlocks) s t

/-! ### Links (16, 13) -/

/-- LINK_CONFIG and LINK_QUERY: the mode while every port is off, and BUSY_RETRY otherwise; an identity of the closed
configuration, and BAD_PARAM in the open one; a port switched on from DISABLED or left as it is, or switched off with its
sessions; a peer entry emptied, whatever its state; what a query of a port or an entry answers. -/
def Obligations.LinkCommands : Prop :=
  (∀ (c : Cmd) (s : State), accepts s c 0x78 [] = true → (c.byte 16).toNat = 0 → reservedZero c [(16, 18)] = true →
    (c.byte 17).toNat ≤ 1 → ((c.byte 17).toNat = 0 → (c.byte 18).toNat ≤ 31) → (∀ p, p < 4 → (s.portAt p).st = .disabled) →
    ∃ t, exec (.setMode c) s = .next t ∧ Answered t c (.of stOk) ∧ t.lnk.open_ = ((c.byte 17).toNat == 1) ∧
      t.lnk.ownIndex = (c.byte 18).toNat % 32 ∧ t.lnk.table = s.lnk.table ∧ t.lnk.peers = s.lnk.peers ∧
      Serves [.lnk] c s t) ∧
  (∀ (c : Cmd) (s : State), accepts s c 0x78 [] = true → (c.byte 16).toNat = 1 →
    reservedZero c [(16, 17), (24, 39)] = true → s.lnk.open_ = false → (c.byte 17).toNat ≤ 31 →
    ∃ t, exec (.tableEntry c) s = .next t ∧ Answered t c (.of stOk) ∧
      t.lnk.table.get (c.byte 17).toNat = BitVec.ofNat 128 (c.le 24 16) ∧
      (∀ i, i ≠ (c.byte 17).toNat → t.lnk.table.get i = s.lnk.table.get i) ∧ t.lnk.peers = s.lnk.peers ∧
      Serves [.lnk] c s t) ∧
  (∀ (c : Cmd) (s : State), accepts s c 0x78 [] = true → (c.byte 16).toNat = 0 → reservedZero c [(16, 18)] = true →
    (c.byte 17).toNat ≤ 1 → ((c.byte 17).toNat = 0 → (c.byte 18).toNat ≤ 31) → (∃ p, p < 4 ∧ (s.portAt p).st ≠ .disabled) →
    ∃ t d, exec (.setMode c) s = .next t ∧ Answered t c { status := stBusy, detail := d } ∧ Serves [.fresh] c s t) ∧
  (∀ (c : Cmd) (s : State), accepts s c 0x78 [] = true → (c.byte 16).toNat = 1 →
    reservedZero c [(16, 17), (24, 39)] = true → s.lnk.open_ = true →
    ∃ t, exec (.tableEntry c) s = .next t ∧ Answered t c (.bad 16) ∧ Serves [] c s t) ∧
  (∀ (c : Cmd) (s : State), accepts s c 0x78 [] = true → (c.byte 16).toNat = 2 → reservedZero c [(16, 18)] = true →
    (c.byte 17).toNat ≤ 3 → (c.byte 18).toNat ≤ 3 → (c.byte 18).getLsbD 0 = true →
    ∃ t, exec (.port c) s = .next t ∧ Answered t c (.of stOk) ∧
      (let q := t.portAt (c.byte 17).toNat
       q.enabled = true ∧ q.allowX4 = (c.byte 18).getLsbD 1 ∧
         q.st = (if (s.portAt (c.byte 17).toNat).st = .disabled ∧ s.glb.state ≠ .doze ∧ s.glb.state ≠ .clockHold then .cableInit
           else (s.portAt (c.byte 17).toNat).st)) ∧
      (∀ i, i ≠ (c.byte 17).toNat → t.portAt i = s.portAt i) ∧ t.lnk.peers = s.lnk.peers ∧ Serves [.lnk] c s t) ∧
  (∀ (c : Cmd) (s : State), accepts s c 0x78 [] = true → (c.byte 16).toNat = 2 → reservedZero c [(16, 18)] = true →
    (c.byte 17).toNat ≤ 3 → (c.byte 18).toNat ≤ 3 → (c.byte 18).getLsbD 0 = false → s.ctl.relayDown = none →
    ∃ t, exec (.port c) s = .next t ∧ Answered t c (.of stOk) ∧
      (let q := t.portAt (c.byte 17).toNat
       q.enabled = false ∧ q.allowX4 = (c.byte 18).getLsbD 1 ∧ q.st = .disabled) ∧
      ((s.portAt (c.byte 17).toNat).st = .up → ∀ e, (s.peer e).port.val = (c.byte 17).toNat → (t.peer e).st ≠ .up) ∧
      (∀ i, i ≠ (c.byte 17).toNat → t.portAt i = s.portAt i) ∧ KeepsBut ([.lnk, .ctxs] ++ cmdBlocks) s t) ∧
  (∀ (c : Cmd) (s : State), accepts s c 0x78 [] = true → (c.byte 16).toNat = 3 →
    reservedZero c [(16, 16), (18, 19)] = true → c.le 18 2 ≤ 255 → s.ctl.relayDown ≠ some (c.le 18 2) →
    ∃ t, exec (.dropPeer c) s = .next t ∧ Answered t c (.of stOk) ∧ t.peer (c.le 18 2) = {} ∧
      (∀ i, i ≠ c.le 18 2 → t.peer i = s.peer i) ∧
      ((s.peer (c.le 18 2)).st ≠ .up → Serves [.lnk] c s t) ∧ KeepsBut ([.lnk, .ctxs] ++ cmdBlocks) s t) ∧
  (∀ (c : Cmd) (s : State), accepts s c 0x79 [] = true → (c.byte 16).toNat = 0 → reservedZero c [(16, 17)] = true →
    (c.byte 17).toNat ≤ 3 →
    ∃ t, exec (.linkQuery c) s = .next t ∧ Serves [] c s t ∧
      (let p := (c.byte 17).toNat
       Answered t c (.ok ([BitVec.ofNat 8 (s.portAt p).st.code, BitVec.ofNat 8 (s.portMinor p), (s.portAt p).lanes, 0] ++
        leBytes 2 (s.portSessions p).length ++ [(s.portAt p).temp])))) ∧
  (∀ (c : Cmd) (s : State), accepts s c 0x79 [] = true → (c.byte 16).toNat = 1 → reservedZero c [(16, 16), (18, 19)] = true →
    c.le 18 2 ≤ 255 → (s.peer (c.le 18 2)).st = .empty →
    ∃ t r, exec (.linkQuery c) s = .next t ∧ Answered t c (.ok r) ∧ r.getD 0 0xFF = 0 ∧ Serves [.fresh] c s t) ∧
  ∀ (c : Cmd) (s : State), accepts s c 0x79 [] = true → (c.byte 16).toNat = 1 → reservedZero c [(16, 16), (18, 19)] = true →
    c.le 18 2 ≤ 255 → (s.peer (c.le 18 2)).st ≠ .empty →
    ∃ t, exec (.linkQuery c) s = .next t ∧ Serves [] c s t ∧
      (let p := s.peer (c.le 18 2)
       Answered t c (.ok ([BitVec.ofNat 8 p.st.code, BitVec.ofNat 8 p.port.val, BitVec.ofNat 8 p.minor,
               BitVec.ofNat 8 (b2n p.encrypted + 2 * b2n p.member), p.gen, 0, 0, 0] ++
              leBytes 4 (min 0xFFFFFFFF ((s.time - p.lastHeard) / msNs)) ++ leBytes 4 0 ++ leBytes 8 p.id.toNat)))

/-- A port's way up: an accepted cable trains, x8 or an allowed x4 brings it UP; what fails or takes too long goes to RETRY,
whose delay doubles up to 32 s; a lane lost or a cable pulled takes the port and its sessions down; a cable alarm leaves the
link up; nothing of another port moves. -/
def Obligations.PortStates : Prop :=
  let others (s t : State) (p : Nat) : Prop := ∀ q, q ≠ p → t.portAt q = s.portAt q
  (∀ (p : Fin 4) (s : State), s.linksRun = true →
    ∃ t, exec (.cableInsertion p) s = .next t ∧ (t.portAt p.val).present = true ∧ (t.portAt p.val).delay = 1 ∧
      (t.portAt p.val).st = (s.portAt p.val).st ∧ others s t p.val ∧ KeepsBut [.lnk] s t) ∧
  (∀ (p : Fin 4) (s : State), s.linksRun = true → (s.portAt p.val).st = .train ∨ (s.portAt p.val).st = .cableInit →
    ∃ t, exec (.cableRemoval p) s = .next t ∧ (t.portAt p.val).st = .retry ∧ (t.portAt p.val).present = false ∧
      (t.portAt p.val).since = s.time ∧ others s t p.val ∧ KeepsBut [.lnk] s t) ∧
  (∀ (p : Fin 4) (s : State), s.linksRun = true → (s.portAt p.val).st = .disabled ∨ (s.portAt p.val).st = .retry →
    ∃ t, exec (.cableRemoval p) s = .next t ∧ (t.portAt p.val).present = false ∧
      (t.portAt p.val).st = (s.portAt p.val).st ∧ others s t p.val ∧ KeepsBut [.lnk] s t) ∧
  (∀ (p : Fin 4) (active ready : Bool) (pow temp : Byte) (s : State), (s.portAt p.val).st = .cableInit →
    ∃ t, exec (.cableInitDone p active pow ready temp) s = .next t ∧ (t.portAt p.val).temp = temp ∧
      (let ok := active = true ∧ pow.toNat ≤ 28 ∧ ready = true ∧ s.time ≤ (s.portAt p.val).since + 200 * msNs
       (ok → (t.portAt p.val).st = .train) ∧ (¬ ok → (t.portAt p.val).st = .retry)) ∧ others s t p.val ∧ KeepsBut [.lnk] s t) ∧
  (∀ (p : Fin 4) (s : State), (s.portAt p.val).st = .cableInit → (s.portAt p.val).since + 200 * msNs ≤ s.time →
    ∃ t, exec (.cableInitTimeout p) s = .next t ∧ (t.portAt p.val).st = .retry ∧ others s t p.val ∧ KeepsBut [.lnk] s t) ∧
  (∀ (p : Fin 4) (lanes : Byte) (v12 : Bool) (s : State), (s.portAt p.val).st = .train →
    ∃ t, exec (.trainDone p lanes v12) s = .next t ∧ others s t p.val ∧ KeepsBut [.lnk] s t ∧
      (let ok := laneCount lanes = 8 ∨ laneCount lanes = 4 ∧ (s.portAt p.val).allowX4 = true ∧ v12 = true
       (ok → (t.portAt p.val).st = .up ∧ (t.portAt p.val).lanes = lanes) ∧
       (¬ ok → (t.portAt p.val).st = .retry ∧ (t.portAt p.val).lanes = 0))) ∧
  (∀ (p : Fin 4) (s : State), (s.portAt p.val).st = .train → (s.portAt p.val).since + 500 * msNs ≤ s.time →
    ∃ t, exec (.trainTimeout p) s = .next t ∧ (t.portAt p.val).st = .retry ∧ others s t p.val ∧ KeepsBut [.lnk] s t) ∧
  (∀ (p : Fin 4) (s : State), (s.portAt p.val).st = .retry →
    (s.portAt p.val).since + (s.portAt p.val).delay * secNs ≤ s.time →
    ∃ t, exec (.retryExpiry p) s = .next t ∧ (t.portAt p.val).st = .cableInit ∧
      (t.portAt p.val).delay = min 32 (2 * (s.portAt p.val).delay) ∧ others s t p.val ∧ KeepsBut [.lnk] s t) ∧
  (∀ (p : Fin 4) (s : State), (s.portAt p.val).st = .up → s.ctl.relayDown = none →
    (∃ t, exec (.laneLoss p) s = .next t ∧ (t.portAt p.val).st = .retry ∧ others s t p.val ∧
      (∀ e, (s.peer e).port = p → (t.peer e).st ≠ .up) ∧ KeepsBut [.lnk, .ctxs, .host, .tel] s t) ∧
    (s.linksRun = true → ∃ t, exec (.cableRemoval p) s = .next t ∧ (t.portAt p.val).st = .retry ∧
      (t.portAt p.val).present = false ∧ others s t p.val ∧ (∀ e, (s.peer e).port = p → (t.peer e).st ≠ .up) ∧
      KeepsBut [.lnk, .ctxs, .host, .tel] s t)) ∧
  ∀ (p : Fin 4) (alarm : Bool) (temp : Byte) (s : State), (s.portAt p.val).st = .up →
    ∃ t, exec (.cablePoll p alarm temp) s = .next t ∧ (t.portAt p.val).st = .up ∧ (t.portAt p.val).temp = temp ∧
      (t.portAt p.val).alarm = ((s.portAt p.val).alarm || alarm) ∧ others s t p.val ∧
      (alarm = true → (t.func 0).dbPend.getLsbD 15 = true) ∧ KeepsBut [.lnk, .host] s t

/-- Sessions: HELLO opens a CLEAR one with fresh credits, or an ENCRYPTED one between members of one set and generation once
it is secured, which is SEEN until then; it is refused in the closed configuration from a module the table does not name.
KEEPALIVE goes after 500 µs of silence, and one received ends the missed windows; ten of them in a row take the session DOWN,
and so do BYE and a frame whose tag fails. -/
def Obligations.Sessions : Prop :=
  (∀ (f : Frame) (h : Hello) (e : Nat) (s : State), (s.portAt f.port.val).st = .up → h.major = 1 → s.glb.state = .ready →
    s.lnk.open_ = true ∨ f.src < 32 ∧ f.peer ≠ 0 ∧ s.lnk.table.get f.src = f.peer →
    s.helloEntry f.peer = some e → (s.peer e).st ≠ .up →
    (∀ d ∈ s.sec.set_, d.id ≠ h.setId ∨ d.gen ≠ h.setGen) ∨ h.minor = 0 →
    ∃ t, exec (.hello f h) s = .next t ∧
      (let p := t.peer e
       p.st = .up ∧ p.id = f.peer ∧ p.port = f.port ∧ p.minor = min 2 h.minor ∧ p.encrypted = false ∧
         p.gen = (if (s.peer e).st ≠ .empty ∧ (s.peer e).id = f.peer then (s.peer e).gen + 1 else 0) ∧ p.lastHeard = s.time ∧ p.credits = [0, 32, 8, 16] ∧ p.lastTx.typ = 0x09) ∧
      (∀ v, v < 4 → t.cons (cid 0x50 (lnkIdx e v)) = [0, 32, 8, 16].getD v 0 ∧
        t.cons (cid 0x53 (lnkIdx e v)) = [0, 32, 8, 16].getD v 0 ∧ t.cons (cid 0x51 (lnkIdx e v)) = 0) ∧
      (∀ i, i ≠ e → t.peer i = s.peer i) ∧ KeepsBut [.lnk, .tel] s t) ∧
  (∀ (f : Frame) (h : Hello) (e : Nat) (d : DevSet) (s : State), (s.portAt f.port.val).st = .up → h.major = 1 →
    s.glb.state = .ready → s.lnk.open_ = true ∨ f.src < 32 ∧ f.peer ≠ 0 ∧ s.lnk.table.get f.src = f.peer →
    s.helloEntry f.peer = some e → (s.peer e).st ≠ .up → s.sec.set_ = some d → d.id = h.setId → d.gen = h.setGen →
    1 ≤ h.minor →
    ∃ t, exec (.hello f h) s = .next t ∧
      (let p := t.peer e
       p.st = (if h.secured then .up else .seen) ∧ p.id = f.peer ∧ p.port = f.port ∧ p.minor = min 2 h.minor ∧
         p.encrypted = true) ∧
      (∀ i, i ≠ e → t.peer i = s.peer i) ∧ KeepsBut [.lnk, .tel] s t) ∧
  (∀ (f : Frame) (h : Hello) (s : State), (s.portAt f.port.val).st = .up → h.major = 1 → s.glb.state = .ready →
    s.lnk.open_ = false → 32 ≤ f.src ∨ s.lnk.table.get f.src ≠ f.peer →
    exec (.hello f h) s = .next (s.bump (lnkBase + 8))) ∧
  (∀ (e : Fin 256) (s : State), (s.peer e.val).st = .up → (s.peer e.val).lastSent + 500 * usNs ≤ s.time →
    ∃ t, exec (.keepaliveSend e) s = .next t ∧ (t.peer e.val).lastTx.typ = 0x08 ∧ (t.peer e.val).lastSent = s.time ∧
      (t.peer e.val).txSeq = (s.peer e.val).txSeq + 1 ∧ (∀ i, i ≠ e.val → t.peer i = s.peer i) ∧ KeepsBut [.lnk] s t) ∧
  (∀ (e : Fin 256) (s : State), (s.peer e.val).st = .up → (s.peer e.val).missed < 9 →
    (s.peer e.val).lastHeard + ((s.peer e.val).missed + 1) * msNs ≤ s.time →
    ∃ t, exec (.missedWindow e) s = .next t ∧ (t.peer e.val).missed = (s.peer e.val).missed + 1 ∧
      (t.peer e.val).st = .up ∧ KeepsBut [.lnk, .tel] s t) ∧
  (∀ (e : Fin 256) (s : State), (s.peer e.val).st = .up → (s.peer e.val).missed = 9 → s.ctl.relayDown ≠ some e.val →
    (s.peer e.val).lastHeard + 10 * msNs ≤ s.time →
    ∃ t, exec (.missedWindow e) s = .next t ∧ (t.peer e.val).st = .down ∧ (t.func 0).dbPend.getLsbD 15 = true ∧
      (∀ i, i ≠ e.val → t.peer i = s.peer i) ∧ KeepsBut [.lnk, .tel, .host, .ctxs] s t) ∧
  (∀ (f : Frame) (e : Nat) (s : State), s.frameEntry f = some e → (s.peer e).gen = f.sessGen → f.tagOk = true →
    ∃ t, exec (.keepalive f) s = .next t ∧ (t.peer e).lastHeard = s.time ∧ (t.peer e).missed = 0 ∧
      (t.peer e).st = (s.peer e).st ∧ (∀ i, i ≠ e → t.peer i = s.peer i) ∧ KeepsBut [.lnk] s t) ∧
  ∀ (f : Frame) (e : Nat) (s : State), s.frameEntry f = some e → (s.peer e).gen = f.sessGen →
    s.ctl.relayDown ≠ some e →
    (∃ t, exec (.bye f) s = .next t ∧ (t.peer e).st = .down ∧ (t.func 0).dbPend.getLsbD 15 = true ∧
      (∀ i, i ≠ e → t.peer i = s.peer i) ∧ KeepsBut [.lnk, .tel, .host, .ctxs] s t) ∧
    ((s.peer e).encrypted = true → f.tagOk = false →
      ∀ n, ∀ i ∈ [.data f, .confirm f, .revoke f, .mbxNak f, .credit f n, .keepalive f],
        ∃ t, exec i s = .next t ∧ (t.peer e).st = .down ∧ KeepsBut [.lnk, .tel, .host, .ctxs] s t)

/-- A frame of another session generation is discarded.  Credited frames: DATA makes its epoch provisional until CONFIRM or
REVOKE, and the step that runs depends on it; a message enters the port's mailbox if it has room; each gives its credit back;
CREDIT returns no more credits than are out. -/
def Obligations.LinkFrames : Prop :=
  let arrives (s : State) (f : Frame) (e : Nat) (typ : Nat) : Prop :=
    s.frameEntry f = some e ∧ (s.peer e).gen = f.sessGen ∧ ((s.peer e).encrypted = true → f.tagOk = true) ∧
    s.carries e typ = true ∧ 0 < s.cons (cid 0x53 (lnkIdx e (frameVc typ)))
  (∀ (f : Frame) (e n : Nat) (ok last : Bool) (b : Bundle) (up : Option (BitVec 128)) (s : State), s.frameEntry f = some e →
    (s.peer e).gen ≠ f.sessGen →
    ∀ i ∈ [.data f, .confirm f, .revoke f, .mbx f ok, .mbxNak f, .relay f last b up, .credit f n, .keepalive f, .bye f],
      exec i s = .next s) ∧
  (∀ (f : Frame) (e : Nat) (s : State), arrives s f e 1 → s.staleGen e f = false → s.arr.cur = none →
    ∃ t, exec (.data f) s = .next t ∧ (f.ctx.val, f.step, f.replayGen.toNat) ∈ (t.peer e).provisional ∧
      (f.ctx.val, f.step) ∈ (t.peer e).unread ∧ KeepsBut [.lnk, .tel] s t ∧
      t.cons (cid 0x53 (lnkIdx e 0)) = s.cons (cid 0x53 (lnkIdx e 0))) ∧
  (∀ (f : Frame) (e d : Nat) (r : StepRec) (s : State), arrives s f e 1 → s.staleGen e f = false → s.arr.cur = some d →
    (s.ctx d).steps.find? (fun q => q.fenced = false) = some r →
    ∃ t, exec (.data f) s = .next t ∧ (f.ctx.val, f.step, f.replayGen.toNat) ∈ (t.peer e).provisional ∧
      (∃ q ∈ (t.ctx d).steps, q.k = r.k ∧ (e, f.ctx.val, f.step) ∈ q.deps) ∧ KeepsBut [.lnk, .ctxs, .tel] s t) ∧
  (∀ (f : Frame) (e : Nat) (s : State), arrives s f e 2 → s.staleGen e f = false →
    ∃ t, exec (.confirm f) s = .next t ∧ (∀ x ∈ (t.peer e).provisional, ¬ (x.1 = f.ctx.val ∧ x.2.1 = f.step)) ∧
      (∀ j, j < 16 → ∀ r ∈ (t.ctx j).steps, (e, f.ctx.val, f.step) ∉ r.deps) ∧ KeepsBut [.lnk, .ctxs, .tel] s t) ∧
  (∀ (f : Frame) (e : Nat) (s : State), arrives s f e 3 → s.staleGen e f = false →
    ∃ t, exec (.revoke f) s = .next t ∧ (∀ x ∈ (t.peer e).provisional, ¬ (x.1 = f.ctx.val ∧ x.2.1 = f.step)) ∧
      (f.ctx.val, f.step, f.replayGen.toNat) ∈ (t.peer e).revoked ∧ KeepsBut [.lnk, .ctxs, .tel] s t) ∧
  (∀ (f : Frame) (e : Nat) (macOk : Bool) (s : State), arrives s f e 4 → (s.mbx.boxes.get (16 + f.port.val)).length < 4 →
    ∃ t sl, exec (.mbx f macOk) s = .next t ∧
      t.mbx.boxes.get (16 + f.port.val) = s.mbx.boxes.get (16 + f.port.val) ++ [sl] ∧ sl.bytes = slotBytes f.payload ∧
      sl.stamped = !s.lnk.open_ ∧ sl.macOk = macOk ∧ KeepsBut [.mbx, .lnk, .tel] s t) ∧
  (∀ (f : Frame) (e : Nat) (macOk : Bool) (s : State), arrives s f e 4 → 4 ≤ (s.mbx.boxes.get (16 + f.port.val)).length →
    0 < s.cons (cid 0x50 (lnkIdx e 2)) →
    ∃ t, exec (.mbx f macOk) s = .next t ∧
      t.mbx.boxes.get (16 + f.port.val) = s.mbx.boxes.get (16 + f.port.val) ∧
      t.cons (cid 0x50 (lnkIdx e 2)) + 1 = s.cons (cid 0x50 (lnkIdx e 2)) ∧
      t.cons (cid 0x53 (lnkIdx e 2)) = s.cons (cid 0x53 (lnkIdx e 2)) ∧ KeepsBut [.mbx, .lnk, .tel] s t) ∧
  (∀ (f : Frame) (e : Nat) (s : State), arrives s f e 5 →
    ∃ t, exec (.mbxNak f) s = .next t ∧ t.cons (cid 0x53 (lnkIdx e 2)) = s.cons (cid 0x53 (lnkIdx e 2)) ∧
      KeepsBut [.lnk, .tel] s t) ∧
  ∀ (f : Frame) (e n : Nat) (s : State), s.frameEntry f = some e → (s.peer e).gen = f.sessGen →
    ((s.peer e).encrypted = true → f.tagOk = true) → (s.peer e).waiting = [] →
    (let back := min n (s.cons (cid 0x51 (lnkIdx e f.vc.val)) - s.cons (cid 0x52 (lnkIdx e f.vc.val)))
     ∃ t, exec (.credit f n) s = .next t ∧
      t.cons (cid 0x50 (lnkIdx e f.vc.val)) = s.cons (cid 0x50 (lnkIdx e f.vc.val)) + back ∧
      t.cons (cid 0x52 (lnkIdx e f.vc.val)) = s.cons (cid 0x52 (lnkIdx e f.vc.val)) + back ∧ KeepsBut [.lnk, .tel] s t)

/-! ### Steps and segments (05, 04, 13) -/

/-- Instructions of a segment that move on at once.  A core carries one out only where it executes its segment and the segment
holds that instruction at its place (`runs`); otherwise the command changes nothing.  Each does its work, its core's place
advances, and no other core moves: OP_BEGIN takes the operation up, and shows an ATTENTION operation; ISSUE puts its descriptor
last in a queue that has room, and a full queue stalls; CREDIT_SEND adds to the register, whose value above 65,535 is open;
CHECK_SLOT compares the tiles that fit; LOOP goes round and on; OP_END leaves the operation, stops at an urgent point where a
pause is asked for, and takes a fault that acts there. -/
def Obligations.SegmentInstructions : Prop :=
  let others (s t : State) (n : Nat) : Prop := ∀ m, m ≠ n → t.core m = s.core m
  let runs (s : State) (n : CoreId) (c : Nat) (i : SInstr) : Prop := s.segOf n.val = some c ∧ s.segAt c n.val = some i
  (∀ (n d : CoreId) (q : Fin 4) (ch : Fin 4) (r : Fin 32) (op k m : Nat) (temp : Int) (press : Bool) (eq : List Bool) (w : Desc)
      (u : Option CtxId) (s : State),
    ∀ e ∈ [(SInstr.opBegin op, Instr.opBegin n op temp), (.issue q w.off w.credits, .issue n q w),
        (.creditWait r k, .creditWait n r k), (.creditSend d r k, .creditSend n d r k), (.checkSlot k, .checkSlot n k eq),
        (.modeFence press, .modeFence n press), (.stepFence, .stepFence n), (.loop k m, .loop n k m),
        (.waitDma ch k, .waitDma n ch k), (.opEnd op, .opEnd n op u)],
      (∀ c, ¬ runs s n c e.1) → exec e.2 s = .next s) ∧
  (∀ (n : CoreId) (op c : Nat) (temp : Int) (s : State), runs s n c (.opBegin op) →
    ∃ t, exec (.opBegin n op temp) s = .next t ∧
      t.core n.val = { s.core n.val with op := BitVec.ofNat 32 op, temp, pc := (s.core n.val).pc + 1 } ∧
      ((imgOp (s.runImage c) op).map opKind = some 2 → t.atn.busy = true ∧ t.atn.ctx = some c ∧ t.atn.op = op % 65536) ∧
      ((imgOp (s.runImage c) op).map opKind ≠ some 2 → t.atn = s.atn) ∧
      others s t n.val ∧ KeepsBut [.arr, .atn] s t) ∧
  (∀ (n : CoreId) (q : Fin 4) (d : Desc) (c : Nat) (s : State), runs s n c (.issue q d.off d.credits) →
    ∃ t, exec (.issue n q d) s = .next t ∧ others s t n.val ∧ KeepsBut [.arr] s t ∧
      (let old := (s.core n.val).queues.get q.val
       (old.length < 8 → (t.core n.val).queues.get q.val = old ++ [d] ∧ (t.core n.val).pc = (s.core n.val).pc + 1) ∧
       (8 ≤ old.length → t = s) ∧ ∀ p, p ≠ q.val → (t.core n.val).queues.get p = (s.core n.val).queues.get p)) ∧
  (∀ (n d : CoreId) (r : Fin 32) (k c : Nat) (s : State), runs s n c (.creditSend d r k) →
    ∃ t, exec (.creditSend n d r k) s = .next t ∧ (t.core n.val).pc = (s.core n.val).pc + 1 ∧
      (s.arr.credits.get (creditKey d.val r.val) + k ≤ 0xFFFF →
        t.arr.credits.get (creditKey d.val r.val) = s.arr.credits.get (creditKey d.val r.val) + k) ∧
      (∀ x, x ≠ creditKey d.val r.val → t.arr.credits.get x = s.arr.credits.get x) ∧ others s t n.val ∧
      KeepsBut [.arr, .tel, .fresh] s t) ∧
  (∀ (n : CoreId) (cyc c : Nat) (eq : List Bool) (s : State), runs s n c (.checkSlot cyc) →
    ∃ t, exec (.checkSlot n cyc eq) s = .next t ∧ (t.core n.val).pc = (s.core n.val).pc + 1 ∧ others s t n.val ∧
      (cyc = 0 ∨ (s.ctx c).steps.length < 2 → t.ctxs = s.ctxs) ∧ KeepsBut [.arr, .ctxs, .tel] s t) ∧
  (∀ (n : CoreId) (cyc c : Nat) (b : Bool) (x : Tile) (p q : StepRec) (r : List StepRec) (s : State),
    runs s n c (.checkSlot cyc) →
    cyc ≠ 0 → (s.ctx c).steps = p :: q :: r → p.unchecked.filter (fun u => u.core = buddyOf n.val) = [x] → x.poisoned = false →
    ∃ t h, exec (.checkSlot n cyc [b]) s = .next t ∧ (t.ctx c).steps.head? = some h ∧
      h.unchecked = p.unchecked.filter (fun u => u.core ≠ buddyOf n.val) ∧
      h.mismatched = (if b then p.mismatched else p.mismatched ++ [x])) ∧
  (∀ (n : CoreId) (count target c : Nat) (s : State), runs s n c (.loop count target) →
    ∃ t, exec (.loop n count target) s = .next t ∧ others s t n.val ∧ KeepsBut [.arr] s t ∧
      (let k := s.core n.val
       ((∀ e ∈ k.loops.head?, e.1 ≠ k.pc) →
        (1 < count → (t.core n.val).pc = target ∧ (t.core n.val).loops = (k.pc, count - 1) :: k.loops) ∧
        (count ≤ 1 → (t.core n.val).pc = k.pc + 1 ∧ (t.core n.val).loops = k.loops)) ∧
       ∀ left rest, k.loops = (k.pc, left) :: rest →
        (1 < left → (t.core n.val).pc = target ∧ (t.core n.val).loops = (k.pc, left - 1) :: rest) ∧
        (left ≤ 1 → (t.core n.val).pc = k.pc + 1 ∧ (t.core n.val).loops = rest))) ∧
  (∀ (n : CoreId) (op c : Nat) (s : State), runs s n c (.opEnd op) →
    (∀ r, (s.ctx c).steps.getLast? = some r → (n.val, op) ∉ r.faultOps) →
    imgUrgent (s.runImage c) op = false ∨ s.arr.pauseAct = none ∧ s.arr.urgentTo = none →
    ∃ t, exec (.opEnd n op none) s = .next t ∧
      t.core n.val = { s.core n.val with op := 0xFFFFFFFF, pc := (s.core n.val).pc + 1 } ∧ others s t n.val ∧
      ((imgOp (s.runImage c) op).map opPress = some true ∨ KeepsBut [.arr, .atn] s t) ∧ SameBytes s t ∧ t.ctxs = s.ctxs) ∧
  (∀ (n : CoreId) (op c m : Nat) (s : State), runs s n c (.opEnd op) →
    (∀ r, (s.ctx c).steps.getLast? = some r → (n.val, op) ∉ r.faultOps) →
    imgUrgent (s.runImage c) op = true → s.arr.pauseAct.isSome = true → m < 64 → m ≠ n.val → (s.core m).paused = false →
    (s.core m).atFence = false →
    ∃ t, exec (.opEnd n op none) s = .next t ∧ (t.core n.val).paused = true ∧ (t.core n.val).sstate = .waitFence ∧
      (t.core n.val).pc = (s.core n.val).pc + 1 ∧ others s t n.val ∧ SameBytes s t ∧ t.ctxs = s.ctxs) ∧
  ∀ (n : CoreId) (op c : Nat) (r : StepRec) (s : State), runs s n c (.opEnd op) → (s.ctx c).steps.getLast? = some r →
    (n.val, op) ∈ r.faultOps → c < 16 →
    ∃ t, exec (.opEnd n op none) s = .next t ∧ (t.ctx c).st = .faulted

/-- Instructions of a segment that may wait (`runs` as above): a credit or DMA wait that is not met stops the core with what it
waits for, and its release takes the credits and lets it go on; a core at a mode fence waits, and all 64 pass it together, in
the mode it names; the step fence ends the core's segment. -/
def Obligations.SegmentWaits : Prop :=
  let others (s t : State) (n : Nat) : Prop := ∀ m, m ≠ n → t.core m = s.core m
  let runs (s : State) (n : CoreId) (c : Nat) (i : SInstr) : Prop := s.segOf n.val = some c ∧ s.segAt c n.val = some i
  (∀ (n : CoreId) (r : Fin 32) (k c : Nat) (s : State), runs s n c (.creditWait r k) →
    ∃ t, exec (.creditWait n r k) s = .next t ∧ others s t n.val ∧ KeepsBut [.arr] s t ∧
      (∀ x, x ≠ creditKey n.val r.val → t.arr.credits.get x = s.arr.credits.get x) ∧
      (let have_ := s.arr.credits.get (creditKey n.val r.val)
       (k ≤ have_ → t.arr.credits.get (creditKey n.val r.val) = have_ - k ∧
         t.core n.val = { s.core n.val with pc := (s.core n.val).pc + 1 }) ∧
       (have_ < k → t.arr.credits = s.arr.credits ∧
         t.core n.val = { s.core n.val with sstate := .waitCredit, waitOn := r.val, waitCount := k }))) ∧
  (∀ (n : CoreId) (s : State), (s.core n.val).sstate = .waitCredit → s.arr.cur.isSome = true →
    (let reg := creditKey n.val (s.core n.val).waitOn
     ((s.core n.val).waitCount ≤ s.arr.credits.get reg →
      ∃ t, exec (.creditWaitRelease n) s = .next t ∧
        t.core n.val = { s.core n.val with sstate := .run, waitOn := 0, waitCount := 0, pc := (s.core n.val).pc + 1 } ∧
        t.arr.credits.get reg = s.arr.credits.get reg - (s.core n.val).waitCount ∧
        (∀ x, x ≠ reg → t.arr.credits.get x = s.arr.credits.get x) ∧ others s t n.val ∧ KeepsBut [.arr] s t) ∧
     (s.arr.credits.get reg < (s.core n.val).waitCount → exec (.creditWaitRelease n) s = .next s))) ∧
  (∀ (n : CoreId) (ch : Fin 4) (k c : Nat) (s : State), runs s n c (.waitDma ch k) →
    ∃ t, exec (.waitDma n ch k) s = .next t ∧ others s t n.val ∧ KeepsBut [.arr] s t ∧
      (k ≤ (s.chan (4 * n.val + ch.val)).progress → t.core n.val = { s.core n.val with pc := (s.core n.val).pc + 1 }) ∧
      ((s.chan (4 * n.val + ch.val)).progress < k →
        t.core n.val = { s.core n.val with sstate := .waitDma, waitOn := ch.val, waitCount := k })) ∧
  (∀ (n : CoreId) (s : State), (s.core n.val).sstate = .waitDma → s.arr.cur.isSome = true →
    (let at_ := (s.chan (4 * n.val + (s.core n.val).waitOn)).progress
     ((s.core n.val).waitCount ≤ at_ →
      ∃ t, exec (.waitDmaRelease n) s = .next t ∧
        t.core n.val = { s.core n.val with sstate := .run, waitOn := 0, waitCount := 0, pc := (s.core n.val).pc + 1 } ∧
        others s t n.val ∧ KeepsBut [.arr] s t) ∧
     (at_ < (s.core n.val).waitCount → exec (.waitDmaRelease n) s = .next s))) ∧
  (∀ (n : CoreId) (press : Bool) (c : Nat) (s : State), runs s n c (.modeFence press) →
    ∃ t, exec (.modeFence n press) s = .next t ∧
      t.core n.val = { s.core n.val with sstate := .waitFence, modeFence := some press } ∧
      t.arr.mode = (if t.fenceTarget.isSome then .fence else s.arr.mode) ∧ others s t n.val ∧ KeepsBut [.arr] s t) ∧
  (∀ (ex : Nat) (press : Bool) (s : State), s.fenceTarget = some press →
    ∃ t, exec (.modeFenceProceed ex) s = .next t ∧ t.arr.mode = (if press then .press else .split) ∧
      t.arr.fenceLastNs = sat32 ex ∧
      t.arr.fenceMaxNs = (if s.arr.fenceMaxNs.toNat < (sat32 ex).toNat then sat32 ex else s.arr.fenceMaxNs) ∧
      (∀ n, n < 64 → (t.core n).sstate = .run ∧ (t.core n).modeFence = none ∧ (t.core n).pc = (s.core n).pc + 1) ∧
      (press = false → s.pwr.pressTo = none → KeepsBut [.arr, .tel] s t) ∧ SameBytes s t) ∧
  (∀ (ex : Nat) (s : State), s.fenceTarget = none → exec (.modeFenceProceed ex) s = .next s) ∧
  ∀ (n : CoreId) (c : Nat) (s : State), runs s n c .stepFence →
    s.arr.pauseAct = none ∧ s.arr.urgentTo = none ∨ (∀ m, m < 64 → (s.core m).paused = false) →
    ∃ t, exec (.stepFence n) s = .next t ∧ t.core n.val = { s.core n.val with sstate := .waitFence, atFence := true } ∧
      others s t n.val ∧ KeepsBut [.arr] s t

/-- The next step of the context that holds the array begins in its image's mode with every core at the start of its segment,
and the sequence table and copy list written for it.  Its fence, here in a switch-over gap, leaves firmware's part owed; before
every core is at it, nothing happens.  Its watchdog faults the context.  A forced wash pause is asked for once an activity has
waited its maximum, and its end lets the paused cores go on. -/
def Obligations.StepEvents : Prop :=
  (∀ (x : CtxId) (r : StepRec) (g : Image) (s : State), s.mayStep = true → s.mayHold x.val = true → s.arr.cur = some x.val →
    (s.ctx x.val).unsettled = false → (s.ctx x.val).midStep = false → (s.ctx x.val).next = some r →
    s.image x.val r.handle = some g → (∃ w ∈ (s.ctx x.val).weights, w.id = imgWeightsId g) →
    ∃ t q, exec (.stepBegin x) s = .next t ∧ (t.ctx x.val).steps = (s.ctx x.val).steps ++ [q] ∧ q.k = r.k ∧
      q.entries = r.entries ∧ (t.ctx x.val).next = none ∧ (t.ctx x.val).stepStart = s.time ∧ (t.actx x.val).step = r.k ∧
      (t.actx x.val).phase = .running ∧ (∀ n, n < 64 → (t.core n).sstate = .run ∧ (t.core n).pc = 0) ∧
      t.arr.mode = (if imgStartsPress g then .press else .split) ∧
      t.mem = (s.writeTables x.val g q).mem ∧ t.kvp = s.kvp ∧ ∀ i, i ≠ x.val → t.ctx i = s.ctx i) ∧
  (∀ (x : CtxId) (inp : FenceInput) (r : StepRec) (s : State), s.arr.cur = some x.val → (s.ctx x.val).steps = [r] →
    r.fenced = false → r.poisoned = false → (s.ctx x.val).leaving = false → s.atStepFence x.val = true →
    s.badHandoffs = [] → s.ctl.gap = true →
    ∃ t, exec (.stepFenceComplete x inp) s = .next t ∧ (t.ctx x.val).steps = [{ r with fenced := true }] ∧
      (t.ctx x.val).owed = true ∧ (t.actx x.val).phase = .stepFence ∧ (t.actx x.val).lagNs = sat32 (s.lag x.val) ∧
      (∀ i, i ≠ x.val → t.ctx i = s.ctx i) ∧ t.mem = s.mem ∧ t.kvp = s.kvp) ∧
  (∀ (x : CtxId) (inp : FenceInput) (r : StepRec) (s : State), (s.ctx x.val).steps.getLast? = some r → r.fenced = false →
    (s.ctx x.val).leaving = false → s.atStepFence x.val = false → exec (.stepFenceComplete x inp) s = .next s) ∧
  (∀ (x : CtxId) (s : State), s.arr.cur = some x.val → (s.ctx x.val).running = true → (s.ctx x.val).steps.length = 1 →
    (s.ctx x.val).stepStart + (s.actx x.val).wdogUs * usNs ≤ s.time →
    ∃ t, exec (.stepWatchdogExpiry x) s = .next t ∧ (t.ctx x.val).st = .faulted ∧ (t.actx x.val).wdogExpired = true) ∧
  (∀ (x : CtxId) (s : State), s.arr.cur ≠ some x.val ∨ (s.ctx x.val).running = false ∨
      s.time < (s.ctx x.val).stepStart + (s.actx x.val).wdogUs * usNs →
    exec (.stepWatchdogExpiry x) s = .next s) ∧
  (∀ (act : WashAct) (c : Nat) (s : State), act ≠ .phyCal ∨ s.phySlots = false → s.mem.washAt.get (washNo act) + washMax act ≤ s.time → s.ctl.owner.isSome = true →
    s.arr.cur = some c → (s.ctx c).running = true → s.arr.pauseAct = none →
    ∃ t, exec (.forcedWashPause act) s = .next t ∧ t.arr.pauseAct = some act ∧
      (t.mem.rinseBehind = true ↔ s.mem.rinseBehind = true ∨ washNo act < 2) ∧ SameBytes s t ∧ KeepsBut [.arr, .mem] s t) ∧
  ∀ (act : WashAct) (c since : Nat) (s : State), s.arr.cur = some c → s.arr.pauseAct = some act →
    s.arr.pauseSince = some since → s.arr.urgentTo = none →
    ∃ t, exec .washPauseEnd s = .next t ∧ t.arr.pauseAct = none ∧ t.arr.pauseSince = none ∧
      (∀ n, n < 64 → (s.core n).paused = true → (t.core n).paused = false ∧ (t.core n).sstate = .run) ∧
      t.mem.washAt.get (washNo act) = s.time ∧ SameBytes s t ∧ KeepsBut [.arr, .mem, .tel] s t

/-- An engine instruction whose credits have arrived leaves its queue and takes one of each register of its mask: a DPP or
TSU operation joins its unit's queue, a weight tile is loaded into the core's shadow tile; without a credit it stays.  The DPP
and the TSU start their operations, go on image by image and position by position, and the DPP gives a credit at its end; a
lockstep mismatch drops the operation and marks its step for replay (here in a switch-over gap, where the rewind waits). -/
def Obligations.UnitOperations : Prop :=
  let taken (s t : State) (n : CoreId) (d : Desc) : Prop :=
    (∀ r ∈ d.credits, t.arr.credits.get (creditKey n.val r.val) = s.arr.credits.get (creditKey n.val r.val) - 1) ∧
    ∀ x, (∀ r ∈ d.credits, x ≠ creditKey n.val r.val) → t.arr.credits.get x = s.arr.credits.get x
  let may (s : State) (n : CoreId) (c : Nat) (d : Desc) : Prop :=
    s.arr.cur = some c ∧ (s.ctx c).running = true ∧ d.credits.Nodup ∧
    (∀ r ∈ d.credits, 1 ≤ s.arr.credits.get (creditKey n.val r.val)) ∧ d.collide = [] ∧ d.ecc = [] ∧ d.tiles = [] ∧ d.residueBad = false ∧
    (s.core 0).modeFence = none ∧ s.arr.pauseAct = none ∧ s.arr.urgentTo = none
  (∀ (n : CoreId) (c op : Nat) (d : Desc) (rest : List Desc) (s : State), may s n c d →
    (s.core n.val).queues.get 3 = d :: rest →
    (d.work = .dpp op → s.dpp.queue.length < 4 →
      ∃ t, exec (.engineInstructionStart n 3) s = .next t ∧ (t.core n.val).queues.get 3 = rest ∧ taken s t n d ∧
        t.dpp.queue = s.dpp.queue ++ [{ ctx := c, op, desc := imgDesc (s.runImage c) op }] ∧
        (∀ m, m ≠ n.val → t.core m = s.core m) ∧ KeepsBut [.arr, .dpp] s t) ∧
    (d.work = .tsu op → s.tsu.queue.length < 4 →
      ∃ t o, exec (.engineInstructionStart n 3) s = .next t ∧ (t.core n.val).queues.get 3 = rest ∧ taken s t n d ∧
        t.tsu.queue = s.tsu.queue ++ [o] ∧ o.ctx = c ∧ o.op = op ∧ o.desc = imgDesc (s.runImage c) op ∧ o.done = [] ∧
        (∀ m, m ≠ n.val → t.core m = s.core m) ∧ KeepsBut [.arr, .tsu] s t)) ∧
  (∀ (n : CoreId) (q : Fin 4) (c op k : Nat) (b : MatRef) (d : Desc) (rest : List Desc) (s : State), may s n c d →
    (s.core n.val).queues.get q.val = d :: rest → d.work = .load op b k → (s.core n.val).shadow = none →
    s.workFault c n.val d.work = none →
    ∃ t, exec (.engineInstructionStart n q) s = .next t ∧ (t.core n.val).queues.get q.val = rest ∧ taken s t n d ∧
      (t.core n.val).shadow = some (s.readSlab c (s.operandB c op b) k) ∧ (t.core n.val).active = (s.core n.val).active ∧
      (∀ m, m ≠ n.val → t.core m = s.core m) ∧ KeepsBut [.arr] s t) ∧
  (∀ (n : CoreId) (q : Fin 4) (d : Desc) (rest : List Desc) (s : State), (s.core n.val).queues.get q.val = d :: rest →
    (∃ r ∈ d.credits, s.arr.credits.get (creditKey n.val r.val) < 1) →
    exec (.engineInstructionStart n q) s = .next s) ∧
  (∀ (o : DppOp) (rest : List DppOp) (s : State), s.dpp.queue = o :: rest → s.dpp.busy = false →
    exec (.dppOperation false) s = .next { s with dpp := { s.dpp with busy := true, image := o.image } }) ∧
  (∀ (o : DppOp) (rest : List DppOp) (r : StepRec) (s : State), s.dpp.queue = o :: rest → s.ctl.gap = true →
    (s.ctx o.ctx).steps.getLast? = some r →
    ∃ t, exec (.dppOperation true) s = .next t ∧ t.dpp.queue = rest ∧ t.dpp.busy = false ∧ t.dpp.flags.getLsbD 4 = true ∧
      t.dpp.lastLockstep = some s.mstep ∧
      (t.ctx o.ctx).steps.getLast? = some { r with rewindDue := true, lockstepReplay := true }) ∧
  (∀ (o : DppOp) (rest : List DppOp) (cyc : Word) (s : State), s.dpp.queue = o :: rest → s.dpp.busy = true →
    s.dppFault o s.dpp.image = none → s.dppOpen (dppRead o.desc) = true → s.dpp.image + 1 < (dppRead o.desc).images →
    ∃ t, exec (.dppImageDone cyc) s = .next t ∧ t.dpp.image = s.dpp.image + 1 ∧ t.dpp.queue = o :: rest ∧
      t.dpp.busy = true ∧ t.dpp.lastCycles = cyc ∧ KeepsBut [.dpp, .mem, .ctxs] s t) ∧
  (∀ (o : DppOp) (rest : List DppOp) (cyc : Word) (s : State), s.dpp.queue = o :: rest → s.dpp.busy = true →
    s.dppFault o s.dpp.image = none → s.dppOpen (dppRead o.desc) = true → (dppRead o.desc).images ≤ s.dpp.image + 1 →
    (let key := creditKey (dppRead o.desc).core (dppRead o.desc).reg
     s.arr.credits.get key < 0xFFFF →
     ∃ t, exec (.dppImageDone cyc) s = .next t ∧ t.dpp.queue = rest ∧ t.dpp.busy = false ∧ t.dpp.image = 0 ∧
       t.dpp.lastCycles = cyc ∧ t.arr.credits.get key = s.arr.credits.get key + 1 ∧
       KeepsBut [.dpp, .mem, .ctxs, .arr, .tel] s t)) ∧
  (∀ (o : TsuOp) (rest : List TsuOp) (s : State), s.tsu.queue = o :: rest → s.tsu.busy = false → s.tsuLeft o ≠ [] →
    exec (.tsuOperation false) s =
      .next { s with tsu := { s.tsu with busy := true, lanes := lanesOf (s.tsuLeft o).length } }) ∧
  (∀ (o : TsuOp) (rest : List TsuOp) (r : StepRec) (s : State), s.tsu.queue = o :: rest → s.ctl.gap = true →
    (s.ctx o.ctx).steps.getLast? = some r →
    ∃ t, exec (.tsuOperation true) s = .next t ∧ t.tsu.queue = rest ∧ t.tsu.busy = false ∧ t.tsu.lanes = 0 ∧
      t.tsu.lastLockstep = some s.mstep ∧
      (t.ctx o.ctx).steps.getLast? = some { r with rewindDue := true, lockstepReplay := true }) ∧
  ∀ (o : TsuOp) (rest : List TsuOp) (lane : Fin 16) (i j : Nat) (s : State), s.tsu.queue = o :: rest → s.tsu.busy = true →
    s.tsu.lanes.getLsbD lane.val = true → (i, j) ∈ s.tsuLeft o → s.tsuFault o i = none →
    (let p := { o with done := o.done ++ [(i, j)] }
     let mid := s.tsuPosition o i j
     mid.tsuLeft p ≠ [] →
     ∃ t, exec (.tsuPositionDone lane i j) s = .next t ∧ t.tsu.queue = p :: rest ∧ t.tsu.busy = true ∧ t.mem = mid.mem ∧
       t.ctxs = mid.ctxs ∧ KeepsBut [.tsu, .ctxs, .mem] s t)

/-! ### Channels, faults and Rinse (12) -/

/-- Channel instructions.  A MOVE that its channel takes up, as its image's program or as a firmware one, writes the bytes of a
row in the Basket, a FILL zeros and a copy those of its source, and no others, and stays out until it is acknowledged; one with
an access that fails moves what lies before it, and halts with its latch.  LOOP goes back for a further iteration or goes on; a
WAIT on an event register takes its count or waits for it; a SIGNAL to one adds; an acknowledged MOVE counts. -/
def Obligations.ChannelInstructions : Prop :=
  let ready (s : State) (ch : Fin 272) : Prop :=
    s.dmaLive = true ∧ 256 ≤ ch.val ∧ (s.chan ch.val).owned = false ∧ ((s.chan ch.val).st = .idle ∨ (s.chan ch.val).st = .done)
  let row (u : State) (ch : Fin 272) (ins : List Byte) (w : MoveMeets) : Prop :=
    lb ins 0 1 = 1 ∧ lb ins 3 1 = 0x40 ∧ mvRows ins = 1 ∧ (u.chan ch.val).offset = 0 ∧ (u.chan ch.val).st = .run ∧
    portFive ch.val w.lost = [] ∧ w.ecc = []
  (∀ (ch : Fin 272) (ins : List Byte) (w : MoveMeets) (s u : State), s.takeUp ch.val ins = some u →
    row u ch ins w → mvFill ins = true → u.moveStop (u.chan ch.val) ins 0 = none →
    ∃ t, exec (.move ch ins w) s = .next t ∧
      (let dst := mvDst (u.chan ch.val) ins 0
       (∀ j, j < mvLen ins → t.mem.byteAt (basketKey (dst + j)) = 0) ∧
       ∀ k, (∀ j, j < mvLen ins → k ≠ basketKey (dst + j)) → t.mem.byteAt k = s.mem.byteAt k) ∧
      (t.chan ch.val).out.length = (u.chan ch.val).out.length + 1 ∧ (t.chan ch.val).st = .run ∧
      (t.chan ch.val).index = (if mvBarrier ins then (u.chan ch.val).index else (u.chan ch.val).index + 1) ∧
      (∀ i, i ≠ ch.val → t.chan i = s.chan i) ∧ KeepsBut [.mem, .dma] s t) ∧
  (∀ (ch : Fin 272) (ins : List Byte) (w : MoveMeets) (s u : State), s.takeUp ch.val ins = some u →
    row u ch ins w → mvFill ins = false → lb ins 2 1 = 0x40 → u.moveStop (u.chan ch.val) ins 0 = none →
    mvSrc (u.chan ch.val) ins 0 + mvLen ins ≤ mvDst (u.chan ch.val) ins 0 →
    ∃ t, exec (.move ch ins w) s = .next t ∧
      (let dst := mvDst (u.chan ch.val) ins 0
       (∀ j, j < mvLen ins → t.mem.byteAt (basketKey (dst + j)) = s.mem.byteAt (basketKey (mvSrc (u.chan ch.val) ins 0 + j))) ∧
       ∀ k, (∀ j, j < mvLen ins → k ≠ basketKey (dst + j)) → t.mem.byteAt k = s.mem.byteAt k) ∧
      (∀ i, i ≠ ch.val → t.chan i = s.chan i) ∧ KeepsBut [.mem, .dma] s t) ∧
  (∀ (ch : Fin 272) (ins : List Byte) (w : MoveMeets) (m : MoveStop) (s u : State),
    s.takeUp ch.val ins = some u → row u ch ins w → mvFill ins = true → u.moveStop (u.chan ch.val) ins 0 = some m →
    ∃ t, exec (.move ch ins w) s = .next t ∧
      (let k := t.chan ch.val
       k.st = .halted ∧ k.cls = m.cls ∧ k.errWrite = m.write ∧ k.errSpace = m.space % 256 ∧ k.errAddr = m.addr % 2 ^ 48 ∧
         k.offset = m.offset) ∧
      (let dst := mvDst (u.chan ch.val) ins 0
       (∀ j, j < m.offset → t.mem.byteAt (basketKey (dst + j)) = 0) ∧
       ∀ k, (∀ j, j < m.offset → k ≠ basketKey (dst + j)) → t.mem.byteAt k = s.mem.byteAt k) ∧
      (∀ i, i ≠ ch.val → t.chan i = s.chan i) ∧ KeepsBut [.mem, .dma] s t) ∧
  (∀ (ch : Fin 272) (ins : List Byte) (w : MoveMeets) (s : State), s.takeUp ch.val ins = none →
    exec (.move ch ins w) s = .next s) ∧
  (∀ (ch : Fin 272) (m : OutMove) (r : List OutMove) (s : State), (s.chan ch.val).out = m :: r →
    ∃ t, exec (.moveComplete ch) s = .next t ∧ (t.chan ch.val).out = r ∧
      (t.chan ch.val).progress = min 0xFFFF ((s.chan ch.val).progress + 1) ∧
      (∀ i, i ≠ ch.val → t.chan i = s.chan i) ∧ KeepsBut [.dma] s t) ∧
  (∀ (ch : Fin 272) (ins : List Byte) (s u : State), s.takeUp ch.val ins = some u → lb ins 0 1 = 2 → (u.chan ch.val).st = .run →
    ∃ t, exec (.dmaLoop ch ins) s = .next t ∧
      (let k := u.chan ch.val
       let d := t.chan ch.val
       let addends := (signedOf 32 (lb ins 16 4), signedOf 32 (lb ins 20 4))
       d.progress = min 0xFFFF (k.progress + 1) ∧
       ((∀ e ∈ k.loops.head?, e.1 ≠ k.index) → 1 < lb ins 4 4 →
         d.index = lb ins 8 2 ∧ d.loops = (k.index, lb ins 8 2, 1, addends) :: k.loops ∧ d.st = .run) ∧
       ((∀ e ∈ k.loops.head?, e.1 ≠ k.index) → lb ins 4 4 ≤ 1 → d.loops = k.loops) ∧
       (∀ tgt it sa da rest, k.loops = (k.index, tgt, it, sa, da) :: rest →
         (it + 1 < lb ins 4 4 → d.index = lb ins 8 2 ∧ d.loops = (k.index, lb ins 8 2, it + 1, addends) :: rest) ∧
         (lb ins 4 4 ≤ it + 1 → d.loops = rest))) ∧
      (∀ i, i ≠ ch.val → t.chan i = s.chan i) ∧ KeepsBut [.dma] s t) ∧
  (∀ (ch : Fin 272) (ins : List Byte) (s : State), ready s ch → lb ins 0 1 = 3 → lb ins 1 1 = 3 →
    ∃ t, exec (.wait ch ins) s = .next t ∧ KeepsBut [.dma] s t ∧
      (let e := lb ins 4 2 % 64
       (lb ins 8 4 ≤ s.dma.events.get e → t.dma.events.get e = s.dma.events.get e - lb ins 8 4 ∧ (t.chan ch.val).st = .done ∧
         t.dma.eoc.get ch.val = true) ∧
       (s.dma.events.get e < lb ins 8 4 → t.dma.events = s.dma.events ∧ (t.chan ch.val).st = .wait ∧
         (t.chan ch.val).waitKind = 3 ∧ (t.chan ch.val).waitObj = e ∧ (t.chan ch.val).waitCount = lb ins 8 4) ∧
       (∀ x, x ≠ e → t.dma.events.get x = s.dma.events.get x) ∧ ∀ i, i ≠ ch.val → t.chan i = s.chan i)) ∧
  (∀ (ch : Fin 272) (s : State), s.dmaLive = true → (s.chan ch.val).st = .wait → (s.chan ch.val).waitKind = 3 →
    (s.chan ch.val).waitCount ≤ s.dma.events.get (s.chan ch.val).waitObj →
    ∃ t, exec (.waitSatisfied ch) s = .next t ∧
      t.dma.events.get (s.chan ch.val).waitObj = s.dma.events.get (s.chan ch.val).waitObj - (s.chan ch.val).waitCount ∧
      (t.chan ch.val).st ≠ .wait ∧ (t.chan ch.val).progress = min 0xFFFF ((s.chan ch.val).progress + 1) ∧
      (∀ i, i ≠ ch.val → t.chan i = s.chan i) ∧ KeepsBut [.dma] s t) ∧
  (∀ (ch : Fin 272) (s : State), s.dmaLive = false ∨ (s.chan ch.val).st ≠ .wait ∨ (s.chan ch.val).waitKind = 3 ∧
      s.dma.events.get (s.chan ch.val).waitObj < (s.chan ch.val).waitCount →
    exec (.waitSatisfied ch) s = .next s) ∧
  ∀ (ch : Fin 272) (ins : List Byte) (s : State), ready s ch → lb ins 0 1 = 4 → lb ins 1 1 = 2 →
    ∃ t, exec (.signal ch ins) s = .next t ∧
      t.dma.events.get (lb ins 4 1 % 64) = s.dma.events.get (lb ins 4 1 % 64) + lb ins 8 4 ∧
      (∀ e, e ≠ lb ins 4 1 % 64 → t.dma.events.get e = s.dma.events.get e) ∧
      (∀ i, i ≠ ch.val → t.chan i = s.chan i) ∧ KeepsBut [.dma] s t

/-- A channel whose oldest access fails or times out halts with its latch, the tag of a transaction in quarantine, where a late
response is counted; one that does nothing for its timeout halts.  A halted channel is resumed, skipped or aborted by the
interlock's owner alone, and an abort of an image's channel faults its context; one that is not halted ignores it; another
core's write is refused.  A translation fault of a channel or a core is resolved by a page, or faults its context.
Rinse, where it has a slot (`washOpen`): clean words leave all as it was, and in HBM it moves on; a corrected bit, or two, is
counted; an uncorrectable word of the scratch memories is latched and poisoned.  Off, in DOZE or without a slot it does
nothing. -/
def Obligations.FaultsAndRinse : Prop :=
  (let by_ (k : CoreAB) : Requester := if k = .a then .controlA else .controlB
   (∀ (ch : Fin 272) (err : AccessErr) (w : Bool) (sp addr off : Nat) (m : OutMove) (r : List OutMove) (s : State),
     (s.chan ch.val).out = m :: r →
     ∃ t, exec (.accessError ch err w sp addr off) s = .next t ∧
       (let k := t.chan ch.val
        k.st = .halted ∧ k.cls = (match err with | .bus => .bus | .poison => .poison) ∧ k.errWrite = w ∧ k.errSpace = sp % 256 ∧ k.errAddr = addr % 2 ^ 48 ∧ k.offset = off ∧
          k.index = m.index ∧ k.out = []) ∧ (∀ i, i ≠ ch.val → t.chan i = s.chan i) ∧ KeepsBut [.dma] s t) ∧
   (∀ (ch : Fin 272) (tag : Nat) (w : Bool) (sp addr off : Nat) (s : State),
     (∃ o ∈ (s.chan ch.val).out, o.since + 2 * usNs ≤ s.time) →
     ∃ t, exec (.transactionTimeout ch tag w sp addr off) s = .next t ∧ (t.chan ch.val).st = .halted ∧
       (t.chan ch.val).cls = .bus ∧ (tag % 65536, s.time + 64 * usNs) ∈ t.mem.quarantine ∧ SameBytes s t ∧
       (∀ i, i ≠ ch.val → t.chan i = s.chan i) ∧
       KeepsBut [.dma, .mem] s t) ∧
   (∀ (tag e : Nat) (s : State), (tag, e) ∈ s.mem.quarantine → exec (.lateResponse tag) s = .next (s.bump 0x700020)) ∧
   (∀ (tag : Nat) (s : State), (∀ q ∈ s.mem.quarantine, q.1 ≠ tag) → exec (.lateResponse tag) s = .next s) ∧
   (∀ (tag : Nat) (s : State), ∃ t, exec (.tagQuarantineEnd tag) s = .next t ∧
     (∀ q, q ∈ t.mem.quarantine ↔ q ∈ s.mem.quarantine ∧ ¬ (q.1 = tag ∧ q.2 ≤ s.time)) ∧ SameBytes s t ∧ KeepsBut [.mem] s t) ∧
   (∀ (ch : Fin 272) (s : State), s.dmaLive = true →
     (s.chan ch.val).st = .run ∨ (s.chan ch.val).st = .wait ∧ (s.chan ch.val).waitKind ≠ 2 →
     (s.chan ch.val).lastAt + s.dma.timeoutMs * msNs ≤ s.time →
     ∃ t, exec (.chTimeout ch) s = .next t ∧ (t.chan ch.val).st = .halted ∧ (t.chan ch.val).cls = .chTimeout ∧
       (∀ i, i ≠ ch.val → t.chan i = s.chan i) ∧ KeepsBut [.dma, .fresh] s t) ∧
   (∀ (k : CoreAB) (ch : Fin 272) (s : State), s.ctl.owner = some k → s.dmaLive = true → (s.chan ch.val).st = .halted →
     (∃ t, exec (.dmaChResume (by_ k) ch) s = .next t ∧
       (t.chan ch.val).st = (if (s.chan ch.val).count = 0 then .idle else .run) ∧
       (t.chan ch.val).offset = (s.chan ch.val).offset ∧ (t.chan ch.val).index = (s.chan ch.val).index ∧
       (∀ i, i ≠ ch.val → t.chan i = s.chan i) ∧ KeepsBut [.dma] s t) ∧
     (∃ t, exec (.dmaChSkip (by_ k) ch) s = .next t ∧ (t.chan ch.val).st ≠ .halted ∧ (t.chan ch.val).offset = 0 ∧
       (t.chan ch.val).progress = min 0xFFFF ((s.chan ch.val).progress + 1) ∧
       (∀ i, i ≠ ch.val → t.chan i = s.chan i) ∧ KeepsBut [.dma] s t) ∧
     (∃ t, exec (.dmaChAbort (by_ k) ch) s = .next t ∧ (t.chan ch.val).st = .done ∧ (t.chan ch.val).aborted = true ∧
       t.dma.eoc.get ch.val = true ∧
       ((s.chan ch.val).owned = false → (∀ i, i ≠ ch.val → t.chan i = s.chan i) ∧ KeepsBut [.dma] s t) ∧
       ((s.chan ch.val).owned = true → (t.ctx (s.chan ch.val).ctx).st = .faulted))) ∧
   (∀ (k : CoreAB) (ch : Fin 272) (s : State), s.ctl.owner = some k → s.dmaLive = true → (s.chan ch.val).st ≠ .halted →
     (let t := s.updChan ch.val fun k => { k with cmdIgnored := true }
      exec (.dmaChResume (by_ k) ch) s = .next t ∧ exec (.dmaChSkip (by_ k) ch) s = .next t ∧
        exec (.dmaChAbort (by_ k) ch) s = .next t)) ∧
   (∀ (k : CoreAB) (ch : Fin 272) (s : State), s.ctl.owner ≠ some k → s.board.powered = true →
     (let t := { s with ctl := { s.ctl with refused := s.ctl.refused + 1 } }
      exec (.dmaChResume (by_ k) ch) s = .next t ∧ exec (.dmaChSkip (by_ k) ch) s = .next t ∧
        exec (.dmaChAbort (by_ k) ch) s = .next t)) ∧
   (∀ (x : CtxId) (n : CoreId) (s : State), s.controlRuns = true → s.arr.cur = some x.val → (s.core n.val).stalled = true →
     (s.mem.faults.get x.val).valid = true →
     (let f := s.mem.faults.get x.val
      let cause := s.vaCause x.val (f.va / pageBytes) f.write
      (cause = some 1 → s.framesFree ≠ 0 → ∃ t, exec (.mmuFaultResolve x none (some n)) s = .next t ∧
        (t.core n.val).stalled = false ∧ (t.xlatAt x.val (f.va / pageBytes)).valid = true ∧ SameBytes s t) ∧
      (cause = none → exec (.mmuFaultResolve x none (some n)) s = .next (s.updCore n.val fun k => { k with stalled := false })) ∧
      (cause = some 0 ∨ cause = some 2 ∨ cause = some 3 →
        ∃ t, exec (.mmuFaultResolve x none (some n)) s = .next t ∧ (t.ctx x.val).st = .faulted))) ∧
   ∀ (x : CtxId) (ch : Fin 272) (s : State), s.controlRuns = true →
     (let k := s.chan ch.val
      k.st = .halted ∧ k.cls = .mmuFault ∧ k.ctx = x.val ∧ k.errSpace = 0x41) →
     (let c := x.val
      let v := (s.chan ch.val).errAddr / pageBytes
      let cause := s.vaCause c v (s.chan ch.val).errWrite
      (cause = some 1 → s.framesFree ≠ 0 → ∃ t, exec (.mmuFaultResolve x (some ch) none) s = .next t ∧
        (t.chan ch.val).st = .run ∧ (t.xlatAt c v).valid = true ∧ (t.xlatAt c v).write = true ∧ SameBytes s t ∧
        (∀ i, i ≠ (s.ctx c).mmuBase + v → t.mem.xlat.get i = s.mem.xlat.get i)) ∧
      (cause = none → ∃ t, exec (.mmuFaultResolve x (some ch) none) s = .next t ∧ (t.chan ch.val).st = .run ∧
        KeepsBut [.dma] s t) ∧
      (cause = some 0 ∨ cause = some 2 ∨ cause = some 3 ∨ cause = some 1 ∧ s.framesFree = 0 →
        ∃ t, exec (.mmuFaultResolve x (some ch) none) s = .next t ∧ (t.ctx c).st = .faulted))) ∧
  (let may (s : State) (kind : Fin 4) (addr : Nat) : Prop :=
     s.mem.rinseOn = true ∧ s.glb.state ≠ .doze ∧ kindHas kind.val (addr / 256 * 256) = true ∧
     s.washOpen kind.val (addr / 256 * 256) = true
   (∀ (kind : Fin 4) (addr : Nat) (hits : List EccHit) (s : State), ¬ may s kind addr →
     exec (.rinseUnit kind addr hits) s = .next s) ∧
   (∀ (kind : Fin 4) (addr : Nat) (hits : List EccHit) (s : State), may s kind addr → (∀ h ∈ hits, h = .clean) →
     ∃ t, exec (.rinseUnit kind addr hits) s = .next t ∧ SameBytes s t ∧ t.mem.poison = s.mem.poison ∧
       (kind.val ≠ 0 → t.mem.rinsePos = s.mem.rinsePos ∧ t.mem.rinsePasses = s.mem.rinsePasses) ∧
       (kind.val = 0 →
         (s.mem.rinsePos + 1 < hbmBytes / 256 → t.mem.rinsePos = s.mem.rinsePos + 1 ∧ t.mem.rinsePasses = s.mem.rinsePasses) ∧
         (hbmBytes / 256 ≤ s.mem.rinsePos + 1 → t.mem.rinsePos = 0 ∧
           t.mem.rinsePasses = (s.mem.rinsePasses + 1) % 65536)) ∧ KeepsBut [.mem] s t) ∧
   (∀ (kind : Fin 4) (addr : Nat) (two : Bool) (s : State), may s kind addr →
     ∃ t, exec (.rinseUnit kind addr [if two then .double else .single]) s = .next t ∧
       t.tel = (s.bump ((if two then 0x700108 else 0x700100) + 0x20 * kind.val)).tel ∧
       SameBytes s t ∧ t.mem.poison = s.mem.poison ∧ KeepsBut [.mem, .tel] s t) ∧
   ∀ (kind : Fin 4) (addr : Nat) (s : State), may s kind addr → kind.val ≠ 0 →
     ∃ t, exec (.rinseUnit kind addr [.uncorrectable]) s = .next t ∧ t.mem.ueAddr = some (kind.val, addr / 256 * 256) ∧
       t.mem.poisoned (s.deviceKey (addr / 256 * 256)) = true ∧ SameBytes s t ∧ KeepsBut [.mem, .tel] s t)
end

