-- ==== Sys2Proof/Laws/Tbl.lean ====
section
/-!
SUPPORT. The laws of the sparse table: reading after writing, and that every write keeps the canonical form.
-/
namespace Sys2Proof

variable {α : Type}

@[simp] theorem Tbl.get_nil [Inhabited α] (k : Nat) : Tbl.get ([] : Tbl α) k = default := rfl

theorem Tbl.get_del_same [Inhabited α] (t : Tbl α) (k : Nat) : (t.del k).get k = default := by
  induction t with
  | nil => rfl
  | cons e r ih =>
    obtain ⟨j, v⟩ := e
    by_cases h : j = k
    · simp [Tbl.del, h, ih]
    · simp [Tbl.del, h, Tbl.get, ih]

theorem Tbl.get_del_ne [Inhabited α] (t : Tbl α) {k i : Nat} (h : i ≠ k) : (t.del k).get i = t.get i := by
  induction t with
  | nil => rfl
  | cons e r ih =>
    obtain ⟨j, v⟩ := e
    by_cases hj : j = k
    · have hi : j ≠ i := fun h' => h (h'.symm.trans hj)
      simp [Tbl.del, hj, Tbl.get, ih, Ne.symm h]
    · by_cases hi : j = i
      · simp only [Tbl.del, if_neg hj, Tbl.get, if_pos hi]
      · simp only [Tbl.del, if_neg hj, Tbl.get, if_neg hi, ih]

theorem Tbl.get_ins_same [Inhabited α] (t : Tbl α) (k : Nat) (v : α) : ((t.del k).ins k v).get k = v := by
  induction t with
  | nil => simp [Tbl.del, Tbl.ins, Tbl.get]
  | cons e r ih =>
    obtain ⟨j, w⟩ := e
    by_cases hj : j = k
    · simpa [Tbl.del, hj] using ih
    · by_cases hk : k < j
      · simp [Tbl.del, hj, Tbl.ins, hk, Tbl.get]
      · simpa [Tbl.del, hj, Tbl.ins, hk, Tbl.get] using ih

theorem Tbl.get_ins_ne [Inhabited α] (t : Tbl α) {k i : Nat} (v : α) (h : i ≠ k) : (t.ins k v).get i = t.get i := by
  induction t with
  | nil => simp [Tbl.ins, Tbl.get, Ne.symm h]
  | cons e r ih =>
    obtain ⟨j, w⟩ := e
    by_cases hk : k < j
    · simp [Tbl.ins, hk, Tbl.get, Ne.symm h]
    · simp [Tbl.ins, hk, Tbl.get, ih]

/-- A read after a write to the same index gives what was written. -/
@[simp] theorem Tbl.get_set_same [Inhabited α] [DecidableEq α] (t : Tbl α) (k : Nat) (v : α) : (t.set k v).get k = v := by
  unfold Tbl.set
  split
  · rename_i h; rw [Tbl.get_del_same, h]
  · exact Tbl.get_ins_same t k v

/-- A write leaves every other index alone. -/
theorem Tbl.get_set_ne [Inhabited α] [DecidableEq α] (t : Tbl α) {k i : Nat} (v : α) (h : i ≠ k) :
    (t.set k v).get i = t.get i := by
  unfold Tbl.set
  split
  · exact Tbl.get_del_ne t h
  · rw [Tbl.get_ins_ne _ _ h, Tbl.get_del_ne t h]

@[simp] theorem Tbl.get_upd_same [Inhabited α] [DecidableEq α] (t : Tbl α) (k : Nat) (f : α → α) :
    (t.upd k f).get k = f (t.get k) := Tbl.get_set_same t k _

theorem Tbl.get_upd_ne [Inhabited α] [DecidableEq α] (t : Tbl α) {k i : Nat} (f : α → α) (h : i ≠ k) :
    (t.upd k f).get i = t.get i := Tbl.get_set_ne t _ h

/-- What an update does at every index. -/
theorem Tbl.get_upd [Inhabited α] [DecidableEq α] (t : Tbl α) (k i : Nat) (f : α → α) :
    (t.upd k f).get i = if i = k then f (t.get i) else t.get i := by
  by_cases h : i = k
  · subst h; simp
  · simp [h, Tbl.get_upd_ne t f h]

theorem Tbl.get_set [Inhabited α] [DecidableEq α] (t : Tbl α) (k i : Nat) (v : α) :
    (t.set k v).get i = if i = k then v else t.get i := by
  by_cases h : i = k
  · subst h; simp
  · simp [h, Tbl.get_set_ne t v h]

/-! ### The canonical form -/

theorem Tbl.wfFrom_mono [Inhabited α] [DecidableEq α] {t : Tbl α} {a b : Nat} (h : a ≤ b) (w : Tbl.wfFrom b t = true) :
    Tbl.wfFrom a t = true := by
  cases t with
  | nil => rfl
  | cons e r =>
    obtain ⟨j, v⟩ := e
    simp only [Tbl.wfFrom, Bool.and_eq_true, decide_eq_true_eq] at w ⊢
    exact ⟨⟨by omega, w.1.2⟩, w.2⟩

theorem Tbl.wfFrom_del [Inhabited α] [DecidableEq α] {t : Tbl α} {a : Nat} (k : Nat) (w : Tbl.wfFrom a t = true) :
    Tbl.wfFrom a (t.del k) = true := by
  induction t generalizing a with
  | nil => rfl
  | cons e r ih =>
    obtain ⟨j, v⟩ := e
    simp only [Tbl.wfFrom, Bool.and_eq_true, decide_eq_true_eq] at w
    by_cases hj : j = k
    · simp only [Tbl.del, hj, if_true]
      exact Tbl.wfFrom_mono (by omega) (ih w.2)
    · simp only [Tbl.del, hj, if_false, Tbl.wfFrom, Bool.and_eq_true, decide_eq_true_eq]
      exact ⟨w.1, ih w.2⟩

theorem Tbl.wfFrom_ins [Inhabited α] [DecidableEq α] {t : Tbl α} {a k : Nat} {v : α} (hk : a ≤ k) (hv : v ≠ default)
    (w : Tbl.wfFrom a (t.del k) = true) : Tbl.wfFrom a ((t.del k).ins k v) = true := by
  induction t generalizing a with
  | nil => simp [Tbl.del, Tbl.ins, Tbl.wfFrom, hk, hv]
  | cons e r ih =>
    obtain ⟨j, u⟩ := e
    by_cases hj : j = k
    · simp only [Tbl.del, hj, if_true] at w ⊢
      exact ih hk w
    · simp only [Tbl.del, hj, if_false, Tbl.wfFrom, Bool.and_eq_true, decide_eq_true_eq] at w
      by_cases hl : k < j
      · simp only [Tbl.del, hj, if_false, Tbl.ins, hl, if_true, Tbl.wfFrom, Bool.and_eq_true, decide_eq_true_eq]
        exact ⟨⟨hk, hv⟩, ⟨by omega, w.1.2⟩, w.2⟩
      · simp only [Tbl.del, hj, if_false, Tbl.ins, hl, Tbl.wfFrom, Bool.and_eq_true, decide_eq_true_eq]
        exact ⟨w.1, ih (by omega) w.2⟩

/-- A write keeps the canonical form. -/
theorem Tbl.wf_set [Inhabited α] [DecidableEq α] {t : Tbl α} (k : Nat) (v : α) (w : t.wf = true) : (t.set k v).wf = true := by
  unfold Tbl.set Tbl.wf at *
  split
  · exact Tbl.wfFrom_del k w
  · rename_i h; exact Tbl.wfFrom_ins (Nat.zero_le k) h (Tbl.wfFrom_del k w)

theorem Tbl.wf_upd [Inhabited α] [DecidableEq α] {t : Tbl α} (k : Nat) (f : α → α) (w : t.wf = true) : (t.upd k f).wf = true :=
  Tbl.wf_set k _ w

theorem Tbl.wfFrom_filter [Inhabited α] [DecidableEq α] {t : Tbl α} {a : Nat} (p : Nat × α → Bool)
    (w : Tbl.wfFrom a t = true) : Tbl.wfFrom a (List.filter p t) = true := by
  induction t generalizing a with
  | nil => rfl
  | cons e r ih =>
    obtain ⟨j, v⟩ := e
    simp only [Tbl.wfFrom, Bool.and_eq_true, decide_eq_true_eq] at w
    by_cases hp : p (j, v) = true
    · simp only [List.filter_cons, hp, if_true, Tbl.wfFrom, Bool.and_eq_true, decide_eq_true_eq]
      exact ⟨w.1, ih w.2⟩
    · simp only [List.filter_cons, hp]
      exact Tbl.wfFrom_mono (by omega) (ih w.2)

/-- Dropping entries keeps the canonical form. -/
theorem Tbl.wf_filter [Inhabited α] [DecidableEq α] {t : Tbl α} (p : Nat × α → Bool) (w : t.wf = true) :
    Tbl.wf (List.filter p t : Tbl α) = true := Tbl.wfFrom_filter p w

end Sys2Proof
end

