-- ==== Sys2Proof/Laws/State.lean ====
section
/-!
SUPPORT. One lemma for each field of the state under each update of a block, and for each numbered register group under
each update: what is written is read back, and nothing else changes.  No later proof unfolds a record update.
-/
namespace Sys2Proof.Machine

section
variable (s : State) (k n : Nat)


/-! ### updGlb -/
@[simp] theorem State.updGlb_pending (g : Glb → Glb) : (s.updGlb g).pending = s.pending := rfl
@[simp] theorem State.updGlb_time (g : Glb → Glb) : (s.updGlb g).time = s.time := rfl
@[simp] theorem State.updGlb_fresh (g : Glb → Glb) : (s.updGlb g).fresh = s.fresh := rfl
@[simp] theorem State.updGlb_glb (g : Glb → Glb) : (s.updGlb g).glb = g s.glb := rfl
@[simp] theorem State.updGlb_peg (g : Glb → Glb) : (s.updGlb g).peg = s.peg := rfl
@[simp] theorem State.updGlb_host (g : Glb → Glb) : (s.updGlb g).host = s.host := rfl
@[simp] theorem State.updGlb_ctxs (g : Glb → Glb) : (s.updGlb g).ctxs = s.ctxs := rfl
@[simp] theorem State.updGlb_kvp (g : Glb → Glb) : (s.updGlb g).kvp = s.kvp := rfl
@[simp] theorem State.updGlb_arr (g : Glb → Glb) : (s.updGlb g).arr = s.arr := rfl
@[simp] theorem State.updGlb_atn (g : Glb → Glb) : (s.updGlb g).atn = s.atn := rfl
@[simp] theorem State.updGlb_dpp (g : Glb → Glb) : (s.updGlb g).dpp = s.dpp := rfl
@[simp] theorem State.updGlb_tsu (g : Glb → Glb) : (s.updGlb g).tsu = s.tsu := rfl
@[simp] theorem State.updGlb_mem (g : Glb → Glb) : (s.updGlb g).mem = s.mem := rfl
@[simp] theorem State.updGlb_dma (g : Glb → Glb) : (s.updGlb g).dma = s.dma := rfl
@[simp] theorem State.updGlb_drn (g : Glb → Glb) : (s.updGlb g).drn = s.drn := rfl
@[simp] theorem State.updGlb_sec (g : Glb → Glb) : (s.updGlb g).sec = s.sec := rfl
@[simp] theorem State.updGlb_vid (g : Glb → Glb) : (s.updGlb g).vid = s.vid := rfl
@[simp] theorem State.updGlb_mbx (g : Glb → Glb) : (s.updGlb g).mbx = s.mbx := rfl
@[simp] theorem State.updGlb_lnk (g : Glb → Glb) : (s.updGlb g).lnk = s.lnk := rfl
@[simp] theorem State.updGlb_ctl (g : Glb → Glb) : (s.updGlb g).ctl = s.ctl := rfl
@[simp] theorem State.updGlb_clk (g : Glb → Glb) : (s.updGlb g).clk = s.clk := rfl
@[simp] theorem State.updGlb_pwr (g : Glb → Glb) : (s.updGlb g).pwr = s.pwr := rfl
@[simp] theorem State.updGlb_settings (g : Glb → Glb) : (s.updGlb g).settings = s.settings := rfl
@[simp] theorem State.updGlb_settingsPrev (g : Glb → Glb) : (s.updGlb g).settingsPrev = s.settingsPrev := rfl
@[simp] theorem State.updGlb_tel (g : Glb → Glb) : (s.updGlb g).tel = s.tel := rfl
@[simp] theorem State.updGlb_board (g : Glb → Glb) : (s.updGlb g).board = s.board := rfl
@[simp] theorem State.updGlb_ctx (g : Glb → Glb) : (s.updGlb g).ctx k = s.ctx k := rfl
@[simp] theorem State.updGlb_func (g : Glb → Glb) : (s.updGlb g).func k = s.func k := rfl
@[simp] theorem State.updGlb_actx (g : Glb → Glb) : (s.updGlb g).actx k = s.actx k := rfl
@[simp] theorem State.updGlb_core (g : Glb → Glb) : (s.updGlb g).core k = s.core k := rfl
@[simp] theorem State.updGlb_chan (g : Glb → Glb) : (s.updGlb g).chan k = s.chan k := rfl
@[simp] theorem State.updGlb_line (g : Glb → Glb) : (s.updGlb g).line k = s.line k := rfl
@[simp] theorem State.updGlb_pegAt (g : Glb → Glb) : (s.updGlb g).pegAt k = s.pegAt k := rfl
@[simp] theorem State.updGlb_page (g : Glb → Glb) : (s.updGlb g).page k = s.page k := rfl
@[simp] theorem State.updGlb_sess (g : Glb → Glb) : (s.updGlb g).sess k = s.sess k := rfl
@[simp] theorem State.updGlb_peer (g : Glb → Glb) : (s.updGlb g).peer k = s.peer k := rfl
@[simp] theorem State.updGlb_portAt (g : Glb → Glb) : (s.updGlb g).portAt k = s.portAt k := rfl
@[simp] theorem State.updGlb_ring (g : Glb → Glb) : (s.updGlb g).ring k n = s.ring k n := rfl

/-! ### updTel -/
@[simp] theorem State.updTel_pending (g : Tel → Tel) : (s.updTel g).pending = s.pending := rfl
@[simp] theorem State.updTel_time (g : Tel → Tel) : (s.updTel g).time = s.time := rfl
@[simp] theorem State.updTel_fresh (g : Tel → Tel) : (s.updTel g).fresh = s.fresh := rfl
@[simp] theorem State.updTel_glb (g : Tel → Tel) : (s.updTel g).glb = s.glb := rfl
@[simp] theorem State.updTel_peg (g : Tel → Tel) : (s.updTel g).peg = s.peg := rfl
@[simp] theorem State.updTel_host (g : Tel → Tel) : (s.updTel g).host = s.host := rfl
@[simp] theorem State.updTel_ctxs (g : Tel → Tel) : (s.updTel g).ctxs = s.ctxs := rfl
@[simp] theorem State.updTel_kvp (g : Tel → Tel) : (s.updTel g).kvp = s.kvp := rfl
@[simp] theorem State.updTel_arr (g : Tel → Tel) : (s.updTel g).arr = s.arr := rfl
@[simp] theorem State.updTel_atn (g : Tel → Tel) : (s.updTel g).atn = s.atn := rfl
@[simp] theorem State.updTel_dpp (g : Tel → Tel) : (s.updTel g).dpp = s.dpp := rfl
@[simp] theorem State.updTel_tsu (g : Tel → Tel) : (s.updTel g).tsu = s.tsu := rfl
@[simp] theorem State.updTel_mem (g : Tel → Tel) : (s.updTel g).mem = s.mem := rfl
@[simp] theorem State.updTel_dma (g : Tel → Tel) : (s.updTel g).dma = s.dma := rfl
@[simp] theorem State.updTel_drn (g : Tel → Tel) : (s.updTel g).drn = s.drn := rfl
@[simp] theorem State.updTel_sec (g : Tel → Tel) : (s.updTel g).sec = s.sec := rfl
@[simp] theorem State.updTel_vid (g : Tel → Tel) : (s.updTel g).vid = s.vid := rfl
@[simp] theorem State.updTel_mbx (g : Tel → Tel) : (s.updTel g).mbx = s.mbx := rfl
@[simp] theorem State.updTel_lnk (g : Tel → Tel) : (s.updTel g).lnk = s.lnk := rfl
@[simp] theorem State.updTel_ctl (g : Tel → Tel) : (s.updTel g).ctl = s.ctl := rfl
@[simp] theorem State.updTel_clk (g : Tel → Tel) : (s.updTel g).clk = s.clk := rfl
@[simp] theorem State.updTel_pwr (g : Tel → Tel) : (s.updTel g).pwr = s.pwr := rfl
@[simp] theorem State.updTel_settings (g : Tel → Tel) : (s.updTel g).settings = s.settings := rfl
@[simp] theorem State.updTel_settingsPrev (g : Tel → Tel) : (s.updTel g).settingsPrev = s.settingsPrev := rfl
@[simp] theorem State.updTel_tel (g : Tel → Tel) : (s.updTel g).tel = g s.tel := rfl
@[simp] theorem State.updTel_board (g : Tel → Tel) : (s.updTel g).board = s.board := rfl
@[simp] theorem State.updTel_ctx (g : Tel → Tel) : (s.updTel g).ctx k = s.ctx k := rfl
@[simp] theorem State.updTel_func (g : Tel → Tel) : (s.updTel g).func k = s.func k := rfl
@[simp] theorem State.updTel_actx (g : Tel → Tel) : (s.updTel g).actx k = s.actx k := rfl
@[simp] theorem State.updTel_core (g : Tel → Tel) : (s.updTel g).core k = s.core k := rfl
@[simp] theorem State.updTel_chan (g : Tel → Tel) : (s.updTel g).chan k = s.chan k := rfl
@[simp] theorem State.updTel_line (g : Tel → Tel) : (s.updTel g).line k = s.line k := rfl
@[simp] theorem State.updTel_pegAt (g : Tel → Tel) : (s.updTel g).pegAt k = s.pegAt k := rfl
@[simp] theorem State.updTel_page (g : Tel → Tel) : (s.updTel g).page k = s.page k := rfl
@[simp] theorem State.updTel_sess (g : Tel → Tel) : (s.updTel g).sess k = s.sess k := rfl
@[simp] theorem State.updTel_peer (g : Tel → Tel) : (s.updTel g).peer k = s.peer k := rfl
@[simp] theorem State.updTel_portAt (g : Tel → Tel) : (s.updTel g).portAt k = s.portAt k := rfl
@[simp] theorem State.updTel_ring (g : Tel → Tel) : (s.updTel g).ring k n = s.ring k n := rfl

/-! ### updMem -/
@[simp] theorem State.updMem_pending (g : Mem → Mem) : (s.updMem g).pending = s.pending := rfl
@[simp] theorem State.updMem_time (g : Mem → Mem) : (s.updMem g).time = s.time := rfl
@[simp] theorem State.updMem_fresh (g : Mem → Mem) : (s.updMem g).fresh = s.fresh := rfl
@[simp] theorem State.updMem_glb (g : Mem → Mem) : (s.updMem g).glb = s.glb := rfl
@[simp] theorem State.updMem_peg (g : Mem → Mem) : (s.updMem g).peg = s.peg := rfl
@[simp] theorem State.updMem_host (g : Mem → Mem) : (s.updMem g).host = s.host := rfl
@[simp] theorem State.updMem_ctxs (g : Mem → Mem) : (s.updMem g).ctxs = s.ctxs := rfl
@[simp] theorem State.updMem_kvp (g : Mem → Mem) : (s.updMem g).kvp = s.kvp := rfl
@[simp] theorem State.updMem_arr (g : Mem → Mem) : (s.updMem g).arr = s.arr := rfl
@[simp] theorem State.updMem_atn (g : Mem → Mem) : (s.updMem g).atn = s.atn := rfl
@[simp] theorem State.updMem_dpp (g : Mem → Mem) : (s.updMem g).dpp = s.dpp := rfl
@[simp] theorem State.updMem_tsu (g : Mem → Mem) : (s.updMem g).tsu = s.tsu := rfl
@[simp] theorem State.updMem_mem (g : Mem → Mem) : (s.updMem g).mem = g s.mem := rfl
@[simp] theorem State.updMem_dma (g : Mem → Mem) : (s.updMem g).dma = s.dma := rfl
@[simp] theorem State.updMem_drn (g : Mem → Mem) : (s.updMem g).drn = s.drn := rfl
@[simp] theorem State.updMem_sec (g : Mem → Mem) : (s.updMem g).sec = s.sec := rfl
@[simp] theorem State.updMem_vid (g : Mem → Mem) : (s.updMem g).vid = s.vid := rfl
@[simp] theorem State.updMem_mbx (g : Mem → Mem) : (s.updMem g).mbx = s.mbx := rfl
@[simp] theorem State.updMem_lnk (g : Mem → Mem) : (s.updMem g).lnk = s.lnk := rfl
@[simp] theorem State.updMem_ctl (g : Mem → Mem) : (s.updMem g).ctl = s.ctl := rfl
@[simp] theorem State.updMem_clk (g : Mem → Mem) : (s.updMem g).clk = s.clk := rfl
@[simp] theorem State.updMem_pwr (g : Mem → Mem) : (s.updMem g).pwr = s.pwr := rfl
@[simp] theorem State.updMem_settings (g : Mem → Mem) : (s.updMem g).settings = s.settings := rfl
@[simp] theorem State.updMem_settingsPrev (g : Mem → Mem) : (s.updMem g).settingsPrev = s.settingsPrev := rfl
@[simp] theorem State.updMem_tel (g : Mem → Mem) : (s.updMem g).tel = s.tel := rfl
@[simp] theorem State.updMem_board (g : Mem → Mem) : (s.updMem g).board = s.board := rfl
@[simp] theorem State.updMem_ctx (g : Mem → Mem) : (s.updMem g).ctx k = s.ctx k := rfl
@[simp] theorem State.updMem_func (g : Mem → Mem) : (s.updMem g).func k = s.func k := rfl
@[simp] theorem State.updMem_actx (g : Mem → Mem) : (s.updMem g).actx k = s.actx k := rfl
@[simp] theorem State.updMem_core (g : Mem → Mem) : (s.updMem g).core k = s.core k := rfl
@[simp] theorem State.updMem_chan (g : Mem → Mem) : (s.updMem g).chan k = s.chan k := rfl
@[simp] theorem State.updMem_line (g : Mem → Mem) : (s.updMem g).line k = s.line k := rfl
@[simp] theorem State.updMem_pegAt (g : Mem → Mem) : (s.updMem g).pegAt k = s.pegAt k := rfl
@[simp] theorem State.updMem_page (g : Mem → Mem) : (s.updMem g).page k = s.page k := rfl
@[simp] theorem State.updMem_sess (g : Mem → Mem) : (s.updMem g).sess k = s.sess k := rfl
@[simp] theorem State.updMem_peer (g : Mem → Mem) : (s.updMem g).peer k = s.peer k := rfl
@[simp] theorem State.updMem_portAt (g : Mem → Mem) : (s.updMem g).portAt k = s.portAt k := rfl
@[simp] theorem State.updMem_ring (g : Mem → Mem) : (s.updMem g).ring k n = s.ring k n := rfl

/-! ### updKvp -/
@[simp] theorem State.updKvp_pending (g : Kvp → Kvp) : (s.updKvp g).pending = s.pending := rfl
@[simp] theorem State.updKvp_time (g : Kvp → Kvp) : (s.updKvp g).time = s.time := rfl
@[simp] theorem State.updKvp_fresh (g : Kvp → Kvp) : (s.updKvp g).fresh = s.fresh := rfl
@[simp] theorem State.updKvp_glb (g : Kvp → Kvp) : (s.updKvp g).glb = s.glb := rfl
@[simp] theorem State.updKvp_peg (g : Kvp → Kvp) : (s.updKvp g).peg = s.peg := rfl
@[simp] theorem State.updKvp_host (g : Kvp → Kvp) : (s.updKvp g).host = s.host := rfl
@[simp] theorem State.updKvp_ctxs (g : Kvp → Kvp) : (s.updKvp g).ctxs = s.ctxs := rfl
@[simp] theorem State.updKvp_kvp (g : Kvp → Kvp) : (s.updKvp g).kvp = g s.kvp := rfl
@[simp] theorem State.updKvp_arr (g : Kvp → Kvp) : (s.updKvp g).arr = s.arr := rfl
@[simp] theorem State.updKvp_atn (g : Kvp → Kvp) : (s.updKvp g).atn = s.atn := rfl
@[simp] theorem State.updKvp_dpp (g : Kvp → Kvp) : (s.updKvp g).dpp = s.dpp := rfl
@[simp] theorem State.updKvp_tsu (g : Kvp → Kvp) : (s.updKvp g).tsu = s.tsu := rfl
@[simp] theorem State.updKvp_mem (g : Kvp → Kvp) : (s.updKvp g).mem = s.mem := rfl
@[simp] theorem State.updKvp_dma (g : Kvp → Kvp) : (s.updKvp g).dma = s.dma := rfl
@[simp] theorem State.updKvp_drn (g : Kvp → Kvp) : (s.updKvp g).drn = s.drn := rfl
@[simp] theorem State.updKvp_sec (g : Kvp → Kvp) : (s.updKvp g).sec = s.sec := rfl
@[simp] theorem State.updKvp_vid (g : Kvp → Kvp) : (s.updKvp g).vid = s.vid := rfl
@[simp] theorem State.updKvp_mbx (g : Kvp → Kvp) : (s.updKvp g).mbx = s.mbx := rfl
@[simp] theorem State.updKvp_lnk (g : Kvp → Kvp) : (s.updKvp g).lnk = s.lnk := rfl
@[simp] theorem State.updKvp_ctl (g : Kvp → Kvp) : (s.updKvp g).ctl = s.ctl := rfl
@[simp] theorem State.updKvp_clk (g : Kvp → Kvp) : (s.updKvp g).clk = s.clk := rfl
@[simp] theorem State.updKvp_pwr (g : Kvp → Kvp) : (s.updKvp g).pwr = s.pwr := rfl
@[simp] theorem State.updKvp_settings (g : Kvp → Kvp) : (s.updKvp g).settings = s.settings := rfl
@[simp] theorem State.updKvp_settingsPrev (g : Kvp → Kvp) : (s.updKvp g).settingsPrev = s.settingsPrev := rfl
@[simp] theorem State.updKvp_tel (g : Kvp → Kvp) : (s.updKvp g).tel = s.tel := rfl
@[simp] theorem State.updKvp_board (g : Kvp → Kvp) : (s.updKvp g).board = s.board := rfl
@[simp] theorem State.updKvp_ctx (g : Kvp → Kvp) : (s.updKvp g).ctx k = s.ctx k := rfl
@[simp] theorem State.updKvp_func (g : Kvp → Kvp) : (s.updKvp g).func k = s.func k := rfl
@[simp] theorem State.updKvp_actx (g : Kvp → Kvp) : (s.updKvp g).actx k = s.actx k := rfl
@[simp] theorem State.updKvp_core (g : Kvp → Kvp) : (s.updKvp g).core k = s.core k := rfl
@[simp] theorem State.updKvp_chan (g : Kvp → Kvp) : (s.updKvp g).chan k = s.chan k := rfl
@[simp] theorem State.updKvp_line (g : Kvp → Kvp) : (s.updKvp g).line k = s.line k := rfl
@[simp] theorem State.updKvp_pegAt (g : Kvp → Kvp) : (s.updKvp g).pegAt k = s.pegAt k := rfl
@[simp] theorem State.updKvp_sess (g : Kvp → Kvp) : (s.updKvp g).sess k = s.sess k := rfl
@[simp] theorem State.updKvp_peer (g : Kvp → Kvp) : (s.updKvp g).peer k = s.peer k := rfl
@[simp] theorem State.updKvp_portAt (g : Kvp → Kvp) : (s.updKvp g).portAt k = s.portAt k := rfl
@[simp] theorem State.updKvp_ring (g : Kvp → Kvp) : (s.updKvp g).ring k n = s.ring k n := rfl

/-! ### updPeg -/
@[simp] theorem State.updPeg_pending (g : PegUnit → PegUnit) : (s.updPeg g).pending = s.pending := rfl
@[simp] theorem State.updPeg_time (g : PegUnit → PegUnit) : (s.updPeg g).time = s.time := rfl
@[simp] theorem State.updPeg_fresh (g : PegUnit → PegUnit) : (s.updPeg g).fresh = s.fresh := rfl
@[simp] theorem State.updPeg_glb (g : PegUnit → PegUnit) : (s.updPeg g).glb = s.glb := rfl
@[simp] theorem State.updPeg_peg (g : PegUnit → PegUnit) : (s.updPeg g).peg = g s.peg := rfl
@[simp] theorem State.updPeg_host (g : PegUnit → PegUnit) : (s.updPeg g).host = s.host := rfl
@[simp] theorem State.updPeg_ctxs (g : PegUnit → PegUnit) : (s.updPeg g).ctxs = s.ctxs := rfl
@[simp] theorem State.updPeg_kvp (g : PegUnit → PegUnit) : (s.updPeg g).kvp = s.kvp := rfl
@[simp] theorem State.updPeg_arr (g : PegUnit → PegUnit) : (s.updPeg g).arr = s.arr := rfl
@[simp] theorem State.updPeg_atn (g : PegUnit → PegUnit) : (s.updPeg g).atn = s.atn := rfl
@[simp] theorem State.updPeg_dpp (g : PegUnit → PegUnit) : (s.updPeg g).dpp = s.dpp := rfl
@[simp] theorem State.updPeg_tsu (g : PegUnit → PegUnit) : (s.updPeg g).tsu = s.tsu := rfl
@[simp] theorem State.updPeg_mem (g : PegUnit → PegUnit) : (s.updPeg g).mem = s.mem := rfl
@[simp] theorem State.updPeg_dma (g : PegUnit → PegUnit) : (s.updPeg g).dma = s.dma := rfl
@[simp] theorem State.updPeg_drn (g : PegUnit → PegUnit) : (s.updPeg g).drn = s.drn := rfl
@[simp] theorem State.updPeg_sec (g : PegUnit → PegUnit) : (s.updPeg g).sec = s.sec := rfl
@[simp] theorem State.updPeg_vid (g : PegUnit → PegUnit) : (s.updPeg g).vid = s.vid := rfl
@[simp] theorem State.updPeg_mbx (g : PegUnit → PegUnit) : (s.updPeg g).mbx = s.mbx := rfl
@[simp] theorem State.updPeg_lnk (g : PegUnit → PegUnit) : (s.updPeg g).lnk = s.lnk := rfl
@[simp] theorem State.updPeg_ctl (g : PegUnit → PegUnit) : (s.updPeg g).ctl = s.ctl := rfl
@[simp] theorem State.updPeg_clk (g : PegUnit → PegUnit) : (s.updPeg g).clk = s.clk := rfl
@[simp] theorem State.updPeg_pwr (g : PegUnit → PegUnit) : (s.updPeg g).pwr = s.pwr := rfl
@[simp] theorem State.updPeg_settings (g : PegUnit → PegUnit) : (s.updPeg g).settings = s.settings := rfl
@[simp] theorem State.updPeg_settingsPrev (g : PegUnit → PegUnit) : (s.updPeg g).settingsPrev = s.settingsPrev := rfl
@[simp] theorem State.updPeg_tel (g : PegUnit → PegUnit) : (s.updPeg g).tel = s.tel := rfl
@[simp] theorem State.updPeg_board (g : PegUnit → PegUnit) : (s.updPeg g).board = s.board := rfl
@[simp] theorem State.updPeg_ctx (g : PegUnit → PegUnit) : (s.updPeg g).ctx k = s.ctx k := rfl
@[simp] theorem State.updPeg_func (g : PegUnit → PegUnit) : (s.updPeg g).func k = s.func k := rfl
@[simp] theorem State.updPeg_actx (g : PegUnit → PegUnit) : (s.updPeg g).actx k = s.actx k := rfl
@[simp] theorem State.updPeg_core (g : PegUnit → PegUnit) : (s.updPeg g).core k = s.core k := rfl
@[simp] theorem State.updPeg_chan (g : PegUnit → PegUnit) : (s.updPeg g).chan k = s.chan k := rfl
@[simp] theorem State.updPeg_page (g : PegUnit → PegUnit) : (s.updPeg g).page k = s.page k := rfl
@[simp] theorem State.updPeg_sess (g : PegUnit → PegUnit) : (s.updPeg g).sess k = s.sess k := rfl
@[simp] theorem State.updPeg_peer (g : PegUnit → PegUnit) : (s.updPeg g).peer k = s.peer k := rfl
@[simp] theorem State.updPeg_portAt (g : PegUnit → PegUnit) : (s.updPeg g).portAt k = s.portAt k := rfl
@[simp] theorem State.updPeg_ring (g : PegUnit → PegUnit) : (s.updPeg g).ring k n = s.ring k n := rfl

/-! ### updArr -/
@[simp] theorem State.updArr_pending (g : Arr → Arr) : (s.updArr g).pending = s.pending := rfl
@[simp] theorem State.updArr_time (g : Arr → Arr) : (s.updArr g).time = s.time := rfl
@[simp] theorem State.updArr_fresh (g : Arr → Arr) : (s.updArr g).fresh = s.fresh := rfl
@[simp] theorem State.updArr_glb (g : Arr → Arr) : (s.updArr g).glb = s.glb := rfl
@[simp] theorem State.updArr_peg (g : Arr → Arr) : (s.updArr g).peg = s.peg := rfl
@[simp] theorem State.updArr_host (g : Arr → Arr) : (s.updArr g).host = s.host := rfl
@[simp] theorem State.updArr_ctxs (g : Arr → Arr) : (s.updArr g).ctxs = s.ctxs := rfl
@[simp] theorem State.updArr_kvp (g : Arr → Arr) : (s.updArr g).kvp = s.kvp := rfl
@[simp] theorem State.updArr_arr (g : Arr → Arr) : (s.updArr g).arr = g s.arr := rfl
@[simp] theorem State.updArr_atn (g : Arr → Arr) : (s.updArr g).atn = s.atn := rfl
@[simp] theorem State.updArr_dpp (g : Arr → Arr) : (s.updArr g).dpp = s.dpp := rfl
@[simp] theorem State.updArr_tsu (g : Arr → Arr) : (s.updArr g).tsu = s.tsu := rfl
@[simp] theorem State.updArr_mem (g : Arr → Arr) : (s.updArr g).mem = s.mem := rfl
@[simp] theorem State.updArr_dma (g : Arr → Arr) : (s.updArr g).dma = s.dma := rfl
@[simp] theorem State.updArr_drn (g : Arr → Arr) : (s.updArr g).drn = s.drn := rfl
@[simp] theorem State.updArr_sec (g : Arr → Arr) : (s.updArr g).sec = s.sec := rfl
@[simp] theorem State.updArr_vid (g : Arr → Arr) : (s.updArr g).vid = s.vid := rfl
@[simp] theorem State.updArr_mbx (g : Arr → Arr) : (s.updArr g).mbx = s.mbx := rfl
@[simp] theorem State.updArr_lnk (g : Arr → Arr) : (s.updArr g).lnk = s.lnk := rfl
@[simp] theorem State.updArr_ctl (g : Arr → Arr) : (s.updArr g).ctl = s.ctl := rfl
@[simp] theorem State.updArr_clk (g : Arr → Arr) : (s.updArr g).clk = s.clk := rfl
@[simp] theorem State.updArr_pwr (g : Arr → Arr) : (s.updArr g).pwr = s.pwr := rfl
@[simp] theorem State.updArr_settings (g : Arr → Arr) : (s.updArr g).settings = s.settings := rfl
@[simp] theorem State.updArr_settingsPrev (g : Arr → Arr) : (s.updArr g).settingsPrev = s.settingsPrev := rfl
@[simp] theorem State.updArr_tel (g : Arr → Arr) : (s.updArr g).tel = s.tel := rfl
@[simp] theorem State.updArr_board (g : Arr → Arr) : (s.updArr g).board = s.board := rfl
@[simp] theorem State.updArr_ctx (g : Arr → Arr) : (s.updArr g).ctx k = s.ctx k := rfl
@[simp] theorem State.updArr_func (g : Arr → Arr) : (s.updArr g).func k = s.func k := rfl
@[simp] theorem State.updArr_chan (g : Arr → Arr) : (s.updArr g).chan k = s.chan k := rfl
@[simp] theorem State.updArr_line (g : Arr → Arr) : (s.updArr g).line k = s.line k := rfl
@[simp] theorem State.updArr_pegAt (g : Arr → Arr) : (s.updArr g).pegAt k = s.pegAt k := rfl
@[simp] theorem State.updArr_page (g : Arr → Arr) : (s.updArr g).page k = s.page k := rfl
@[simp] theorem State.updArr_sess (g : Arr → Arr) : (s.updArr g).sess k = s.sess k := rfl
@[simp] theorem State.updArr_peer (g : Arr → Arr) : (s.updArr g).peer k = s.peer k := rfl
@[simp] theorem State.updArr_portAt (g : Arr → Arr) : (s.updArr g).portAt k = s.portAt k := rfl
@[simp] theorem State.updArr_ring (g : Arr → Arr) : (s.updArr g).ring k n = s.ring k n := rfl

/-! ### updDrn -/
@[simp] theorem State.updDrn_pending (g : Drn → Drn) : (s.updDrn g).pending = s.pending := rfl
@[simp] theorem State.updDrn_time (g : Drn → Drn) : (s.updDrn g).time = s.time := rfl
@[simp] theorem State.updDrn_fresh (g : Drn → Drn) : (s.updDrn g).fresh = s.fresh := rfl
@[simp] theorem State.updDrn_glb (g : Drn → Drn) : (s.updDrn g).glb = s.glb := rfl
@[simp] theorem State.updDrn_peg (g : Drn → Drn) : (s.updDrn g).peg = s.peg := rfl
@[simp] theorem State.updDrn_host (g : Drn → Drn) : (s.updDrn g).host = s.host := rfl
@[simp] theorem State.updDrn_ctxs (g : Drn → Drn) : (s.updDrn g).ctxs = s.ctxs := rfl
@[simp] theorem State.updDrn_kvp (g : Drn → Drn) : (s.updDrn g).kvp = s.kvp := rfl
@[simp] theorem State.updDrn_arr (g : Drn → Drn) : (s.updDrn g).arr = s.arr := rfl
@[simp] theorem State.updDrn_atn (g : Drn → Drn) : (s.updDrn g).atn = s.atn := rfl
@[simp] theorem State.updDrn_dpp (g : Drn → Drn) : (s.updDrn g).dpp = s.dpp := rfl
@[simp] theorem State.updDrn_tsu (g : Drn → Drn) : (s.updDrn g).tsu = s.tsu := rfl
@[simp] theorem State.updDrn_mem (g : Drn → Drn) : (s.updDrn g).mem = s.mem := rfl
@[simp] theorem State.updDrn_dma (g : Drn → Drn) : (s.updDrn g).dma = s.dma := rfl
@[simp] theorem State.updDrn_drn (g : Drn → Drn) : (s.updDrn g).drn = g s.drn := rfl
@[simp] theorem State.updDrn_sec (g : Drn → Drn) : (s.updDrn g).sec = s.sec := rfl
@[simp] theorem State.updDrn_vid (g : Drn → Drn) : (s.updDrn g).vid = s.vid := rfl
@[simp] theorem State.updDrn_mbx (g : Drn → Drn) : (s.updDrn g).mbx = s.mbx := rfl
@[simp] theorem State.updDrn_lnk (g : Drn → Drn) : (s.updDrn g).lnk = s.lnk := rfl
@[simp] theorem State.updDrn_ctl (g : Drn → Drn) : (s.updDrn g).ctl = s.ctl := rfl
@[simp] theorem State.updDrn_clk (g : Drn → Drn) : (s.updDrn g).clk = s.clk := rfl
@[simp] theorem State.updDrn_pwr (g : Drn → Drn) : (s.updDrn g).pwr = s.pwr := rfl
@[simp] theorem State.updDrn_settings (g : Drn → Drn) : (s.updDrn g).settings = s.settings := rfl
@[simp] theorem State.updDrn_settingsPrev (g : Drn → Drn) : (s.updDrn g).settingsPrev = s.settingsPrev := rfl
@[simp] theorem State.updDrn_tel (g : Drn → Drn) : (s.updDrn g).tel = s.tel := rfl
@[simp] theorem State.updDrn_board (g : Drn → Drn) : (s.updDrn g).board = s.board := rfl
@[simp] theorem State.updDrn_ctx (g : Drn → Drn) : (s.updDrn g).ctx k = s.ctx k := rfl
@[simp] theorem State.updDrn_func (g : Drn → Drn) : (s.updDrn g).func k = s.func k := rfl
@[simp] theorem State.updDrn_actx (g : Drn → Drn) : (s.updDrn g).actx k = s.actx k := rfl
@[simp] theorem State.updDrn_core (g : Drn → Drn) : (s.updDrn g).core k = s.core k := rfl
@[simp] theorem State.updDrn_chan (g : Drn → Drn) : (s.updDrn g).chan k = s.chan k := rfl
@[simp] theorem State.updDrn_line (g : Drn → Drn) : (s.updDrn g).line k = s.line k := rfl
@[simp] theorem State.updDrn_pegAt (g : Drn → Drn) : (s.updDrn g).pegAt k = s.pegAt k := rfl
@[simp] theorem State.updDrn_page (g : Drn → Drn) : (s.updDrn g).page k = s.page k := rfl
@[simp] theorem State.updDrn_sess (g : Drn → Drn) : (s.updDrn g).sess k = s.sess k := rfl
@[simp] theorem State.updDrn_peer (g : Drn → Drn) : (s.updDrn g).peer k = s.peer k := rfl
@[simp] theorem State.updDrn_portAt (g : Drn → Drn) : (s.updDrn g).portAt k = s.portAt k := rfl
@[simp] theorem State.updDrn_ring (g : Drn → Drn) : (s.updDrn g).ring k n = s.ring k n := rfl

/-! ### updSec -/
@[simp] theorem State.updSec_pending (g : Sec → Sec) : (s.updSec g).pending = s.pending := rfl
@[simp] theorem State.updSec_time (g : Sec → Sec) : (s.updSec g).time = s.time := rfl
@[simp] theorem State.updSec_fresh (g : Sec → Sec) : (s.updSec g).fresh = s.fresh := rfl
@[simp] theorem State.updSec_glb (g : Sec → Sec) : (s.updSec g).glb = s.glb := rfl
@[simp] theorem State.updSec_peg (g : Sec → Sec) : (s.updSec g).peg = s.peg := rfl
@[simp] theorem State.updSec_host (g : Sec → Sec) : (s.updSec g).host = s.host := rfl
@[simp] theorem State.updSec_ctxs (g : Sec → Sec) : (s.updSec g).ctxs = s.ctxs := rfl
@[simp] theorem State.updSec_kvp (g : Sec → Sec) : (s.updSec g).kvp = s.kvp := rfl
@[simp] theorem State.updSec_arr (g : Sec → Sec) : (s.updSec g).arr = s.arr := rfl
@[simp] theorem State.updSec_atn (g : Sec → Sec) : (s.updSec g).atn = s.atn := rfl
@[simp] theorem State.updSec_dpp (g : Sec → Sec) : (s.updSec g).dpp = s.dpp := rfl
@[simp] theorem State.updSec_tsu (g : Sec → Sec) : (s.updSec g).tsu = s.tsu := rfl
@[simp] theorem State.updSec_mem (g : Sec → Sec) : (s.updSec g).mem = s.mem := rfl
@[simp] theorem State.updSec_dma (g : Sec → Sec) : (s.updSec g).dma = s.dma := rfl
@[simp] theorem State.updSec_drn (g : Sec → Sec) : (s.updSec g).drn = s.drn := rfl
@[simp] theorem State.updSec_sec (g : Sec → Sec) : (s.updSec g).sec = g s.sec := rfl
@[simp] theorem State.updSec_vid (g : Sec → Sec) : (s.updSec g).vid = s.vid := rfl
@[simp] theorem State.updSec_mbx (g : Sec → Sec) : (s.updSec g).mbx = s.mbx := rfl
@[simp] theorem State.updSec_lnk (g : Sec → Sec) : (s.updSec g).lnk = s.lnk := rfl
@[simp] theorem State.updSec_ctl (g : Sec → Sec) : (s.updSec g).ctl = s.ctl := rfl
@[simp] theorem State.updSec_clk (g : Sec → Sec) : (s.updSec g).clk = s.clk := rfl
@[simp] theorem State.updSec_pwr (g : Sec → Sec) : (s.updSec g).pwr = s.pwr := rfl
@[simp] theorem State.updSec_settings (g : Sec → Sec) : (s.updSec g).settings = s.settings := rfl
@[simp] theorem State.updSec_settingsPrev (g : Sec → Sec) : (s.updSec g).settingsPrev = s.settingsPrev := rfl
@[simp] theorem State.updSec_tel (g : Sec → Sec) : (s.updSec g).tel = s.tel := rfl
@[simp] theorem State.updSec_board (g : Sec → Sec) : (s.updSec g).board = s.board := rfl
@[simp] theorem State.updSec_ctx (g : Sec → Sec) : (s.updSec g).ctx k = s.ctx k := rfl
@[simp] theorem State.updSec_func (g : Sec → Sec) : (s.updSec g).func k = s.func k := rfl
@[simp] theorem State.updSec_actx (g : Sec → Sec) : (s.updSec g).actx k = s.actx k := rfl
@[simp] theorem State.updSec_core (g : Sec → Sec) : (s.updSec g).core k = s.core k := rfl
@[simp] theorem State.updSec_chan (g : Sec → Sec) : (s.updSec g).chan k = s.chan k := rfl
@[simp] theorem State.updSec_line (g : Sec → Sec) : (s.updSec g).line k = s.line k := rfl
@[simp] theorem State.updSec_pegAt (g : Sec → Sec) : (s.updSec g).pegAt k = s.pegAt k := rfl
@[simp] theorem State.updSec_page (g : Sec → Sec) : (s.updSec g).page k = s.page k := rfl
@[simp] theorem State.updSec_sess (g : Sec → Sec) : (s.updSec g).sess k = s.sess k := rfl
@[simp] theorem State.updSec_peer (g : Sec → Sec) : (s.updSec g).peer k = s.peer k := rfl
@[simp] theorem State.updSec_portAt (g : Sec → Sec) : (s.updSec g).portAt k = s.portAt k := rfl
@[simp] theorem State.updSec_ring (g : Sec → Sec) : (s.updSec g).ring k n = s.ring k n := rfl

/-! ### updVid -/
@[simp] theorem State.updVid_pending (g : Vid → Vid) : (s.updVid g).pending = s.pending := rfl
@[simp] theorem State.updVid_time (g : Vid → Vid) : (s.updVid g).time = s.time := rfl
@[simp] theorem State.updVid_fresh (g : Vid → Vid) : (s.updVid g).fresh = s.fresh := rfl
@[simp] theorem State.updVid_glb (g : Vid → Vid) : (s.updVid g).glb = s.glb := rfl
@[simp] theorem State.updVid_peg (g : Vid → Vid) : (s.updVid g).peg = s.peg := rfl
@[simp] theorem State.updVid_host (g : Vid → Vid) : (s.updVid g).host = s.host := rfl
@[simp] theorem State.updVid_ctxs (g : Vid → Vid) : (s.updVid g).ctxs = s.ctxs := rfl
@[simp] theorem State.updVid_kvp (g : Vid → Vid) : (s.updVid g).kvp = s.kvp := rfl
@[simp] theorem State.updVid_arr (g : Vid → Vid) : (s.updVid g).arr = s.arr := rfl
@[simp] theorem State.updVid_atn (g : Vid → Vid) : (s.updVid g).atn = s.atn := rfl
@[simp] theorem State.updVid_dpp (g : Vid → Vid) : (s.updVid g).dpp = s.dpp := rfl
@[simp] theorem State.updVid_tsu (g : Vid → Vid) : (s.updVid g).tsu = s.tsu := rfl
@[simp] theorem State.updVid_mem (g : Vid → Vid) : (s.updVid g).mem = s.mem := rfl
@[simp] theorem State.updVid_dma (g : Vid → Vid) : (s.updVid g).dma = s.dma := rfl
@[simp] theorem State.updVid_drn (g : Vid → Vid) : (s.updVid g).drn = s.drn := rfl
@[simp] theorem State.updVid_sec (g : Vid → Vid) : (s.updVid g).sec = s.sec := rfl
@[simp] theorem State.updVid_vid (g : Vid → Vid) : (s.updVid g).vid = g s.vid := rfl
@[simp] theorem State.updVid_mbx (g : Vid → Vid) : (s.updVid g).mbx = s.mbx := rfl
@[simp] theorem State.updVid_lnk (g : Vid → Vid) : (s.updVid g).lnk = s.lnk := rfl
@[simp] theorem State.updVid_ctl (g : Vid → Vid) : (s.updVid g).ctl = s.ctl := rfl
@[simp] theorem State.updVid_clk (g : Vid → Vid) : (s.updVid g).clk = s.clk := rfl
@[simp] theorem State.updVid_pwr (g : Vid → Vid) : (s.updVid g).pwr = s.pwr := rfl
@[simp] theorem State.updVid_settings (g : Vid → Vid) : (s.updVid g).settings = s.settings := rfl
@[simp] theorem State.updVid_settingsPrev (g : Vid → Vid) : (s.updVid g).settingsPrev = s.settingsPrev := rfl
@[simp] theorem State.updVid_tel (g : Vid → Vid) : (s.updVid g).tel = s.tel := rfl
@[simp] theorem State.updVid_board (g : Vid → Vid) : (s.updVid g).board = s.board := rfl
@[simp] theorem State.updVid_ctx (g : Vid → Vid) : (s.updVid g).ctx k = s.ctx k := rfl
@[simp] theorem State.updVid_func (g : Vid → Vid) : (s.updVid g).func k = s.func k := rfl
@[simp] theorem State.updVid_actx (g : Vid → Vid) : (s.updVid g).actx k = s.actx k := rfl
@[simp] theorem State.updVid_core (g : Vid → Vid) : (s.updVid g).core k = s.core k := rfl
@[simp] theorem State.updVid_chan (g : Vid → Vid) : (s.updVid g).chan k = s.chan k := rfl
@[simp] theorem State.updVid_line (g : Vid → Vid) : (s.updVid g).line k = s.line k := rfl
@[simp] theorem State.updVid_pegAt (g : Vid → Vid) : (s.updVid g).pegAt k = s.pegAt k := rfl
@[simp] theorem State.updVid_page (g : Vid → Vid) : (s.updVid g).page k = s.page k := rfl
@[simp] theorem State.updVid_peer (g : Vid → Vid) : (s.updVid g).peer k = s.peer k := rfl
@[simp] theorem State.updVid_portAt (g : Vid → Vid) : (s.updVid g).portAt k = s.portAt k := rfl
@[simp] theorem State.updVid_ring (g : Vid → Vid) : (s.updVid g).ring k n = s.ring k n := rfl

/-! ### updTsu -/
@[simp] theorem State.updTsu_pending (g : Tsu → Tsu) : (s.updTsu g).pending = s.pending := rfl
@[simp] theorem State.updTsu_time (g : Tsu → Tsu) : (s.updTsu g).time = s.time := rfl
@[simp] theorem State.updTsu_fresh (g : Tsu → Tsu) : (s.updTsu g).fresh = s.fresh := rfl
@[simp] theorem State.updTsu_glb (g : Tsu → Tsu) : (s.updTsu g).glb = s.glb := rfl
@[simp] theorem State.updTsu_peg (g : Tsu → Tsu) : (s.updTsu g).peg = s.peg := rfl
@[simp] theorem State.updTsu_host (g : Tsu → Tsu) : (s.updTsu g).host = s.host := rfl
@[simp] theorem State.updTsu_ctxs (g : Tsu → Tsu) : (s.updTsu g).ctxs = s.ctxs := rfl
@[simp] theorem State.updTsu_kvp (g : Tsu → Tsu) : (s.updTsu g).kvp = s.kvp := rfl
@[simp] theorem State.updTsu_arr (g : Tsu → Tsu) : (s.updTsu g).arr = s.arr := rfl
@[simp] theorem State.updTsu_atn (g : Tsu → Tsu) : (s.updTsu g).atn = s.atn := rfl
@[simp] theorem State.updTsu_dpp (g : Tsu → Tsu) : (s.updTsu g).dpp = s.dpp := rfl
@[simp] theorem State.updTsu_tsu (g : Tsu → Tsu) : (s.updTsu g).tsu = g s.tsu := rfl
@[simp] theorem State.updTsu_mem (g : Tsu → Tsu) : (s.updTsu g).mem = s.mem := rfl
@[simp] theorem State.updTsu_dma (g : Tsu → Tsu) : (s.updTsu g).dma = s.dma := rfl
@[simp] theorem State.updTsu_drn (g : Tsu → Tsu) : (s.updTsu g).drn = s.drn := rfl
@[simp] theorem State.updTsu_sec (g : Tsu → Tsu) : (s.updTsu g).sec = s.sec := rfl
@[simp] theorem State.updTsu_vid (g : Tsu → Tsu) : (s.updTsu g).vid = s.vid := rfl
@[simp] theorem State.updTsu_mbx (g : Tsu → Tsu) : (s.updTsu g).mbx = s.mbx := rfl
@[simp] theorem State.updTsu_lnk (g : Tsu → Tsu) : (s.updTsu g).lnk = s.lnk := rfl
@[simp] theorem State.updTsu_ctl (g : Tsu → Tsu) : (s.updTsu g).ctl = s.ctl := rfl
@[simp] theorem State.updTsu_clk (g : Tsu → Tsu) : (s.updTsu g).clk = s.clk := rfl
@[simp] theorem State.updTsu_pwr (g : Tsu → Tsu) : (s.updTsu g).pwr = s.pwr := rfl
@[simp] theorem State.updTsu_settings (g : Tsu → Tsu) : (s.updTsu g).settings = s.settings := rfl
@[simp] theorem State.updTsu_settingsPrev (g : Tsu → Tsu) : (s.updTsu g).settingsPrev = s.settingsPrev := rfl
@[simp] theorem State.updTsu_tel (g : Tsu → Tsu) : (s.updTsu g).tel = s.tel := rfl
@[simp] theorem State.updTsu_board (g : Tsu → Tsu) : (s.updTsu g).board = s.board := rfl
@[simp] theorem State.updTsu_ctx (g : Tsu → Tsu) : (s.updTsu g).ctx k = s.ctx k := rfl
@[simp] theorem State.updTsu_func (g : Tsu → Tsu) : (s.updTsu g).func k = s.func k := rfl
@[simp] theorem State.updTsu_actx (g : Tsu → Tsu) : (s.updTsu g).actx k = s.actx k := rfl
@[simp] theorem State.updTsu_core (g : Tsu → Tsu) : (s.updTsu g).core k = s.core k := rfl
@[simp] theorem State.updTsu_chan (g : Tsu → Tsu) : (s.updTsu g).chan k = s.chan k := rfl
@[simp] theorem State.updTsu_line (g : Tsu → Tsu) : (s.updTsu g).line k = s.line k := rfl
@[simp] theorem State.updTsu_pegAt (g : Tsu → Tsu) : (s.updTsu g).pegAt k = s.pegAt k := rfl
@[simp] theorem State.updTsu_page (g : Tsu → Tsu) : (s.updTsu g).page k = s.page k := rfl
@[simp] theorem State.updTsu_sess (g : Tsu → Tsu) : (s.updTsu g).sess k = s.sess k := rfl
@[simp] theorem State.updTsu_peer (g : Tsu → Tsu) : (s.updTsu g).peer k = s.peer k := rfl
@[simp] theorem State.updTsu_portAt (g : Tsu → Tsu) : (s.updTsu g).portAt k = s.portAt k := rfl
@[simp] theorem State.updTsu_ring (g : Tsu → Tsu) : (s.updTsu g).ring k n = s.ring k n := rfl

/-! ### updDpp -/
@[simp] theorem State.updDpp_pending (g : Dpp → Dpp) : (s.updDpp g).pending = s.pending := rfl
@[simp] theorem State.updDpp_time (g : Dpp → Dpp) : (s.updDpp g).time = s.time := rfl
@[simp] theorem State.updDpp_fresh (g : Dpp → Dpp) : (s.updDpp g).fresh = s.fresh := rfl
@[simp] theorem State.updDpp_glb (g : Dpp → Dpp) : (s.updDpp g).glb = s.glb := rfl
@[simp] theorem State.updDpp_peg (g : Dpp → Dpp) : (s.updDpp g).peg = s.peg := rfl
@[simp] theorem State.updDpp_host (g : Dpp → Dpp) : (s.updDpp g).host = s.host := rfl
@[simp] theorem State.updDpp_ctxs (g : Dpp → Dpp) : (s.updDpp g).ctxs = s.ctxs := rfl
@[simp] theorem State.updDpp_kvp (g : Dpp → Dpp) : (s.updDpp g).kvp = s.kvp := rfl
@[simp] theorem State.updDpp_arr (g : Dpp → Dpp) : (s.updDpp g).arr = s.arr := rfl
@[simp] theorem State.updDpp_atn (g : Dpp → Dpp) : (s.updDpp g).atn = s.atn := rfl
@[simp] theorem State.updDpp_dpp (g : Dpp → Dpp) : (s.updDpp g).dpp = g s.dpp := rfl
@[simp] theorem State.updDpp_tsu (g : Dpp → Dpp) : (s.updDpp g).tsu = s.tsu := rfl
@[simp] theorem State.updDpp_mem (g : Dpp → Dpp) : (s.updDpp g).mem = s.mem := rfl
@[simp] theorem State.updDpp_dma (g : Dpp → Dpp) : (s.updDpp g).dma = s.dma := rfl
@[simp] theorem State.updDpp_drn (g : Dpp → Dpp) : (s.updDpp g).drn = s.drn := rfl
@[simp] theorem State.updDpp_sec (g : Dpp → Dpp) : (s.updDpp g).sec = s.sec := rfl
@[simp] theorem State.updDpp_vid (g : Dpp → Dpp) : (s.updDpp g).vid = s.vid := rfl
@[simp] theorem State.updDpp_mbx (g : Dpp → Dpp) : (s.updDpp g).mbx = s.mbx := rfl
@[simp] theorem State.updDpp_lnk (g : Dpp → Dpp) : (s.updDpp g).lnk = s.lnk := rfl
@[simp] theorem State.updDpp_ctl (g : Dpp → Dpp) : (s.updDpp g).ctl = s.ctl := rfl
@[simp] theorem State.updDpp_clk (g : Dpp → Dpp) : (s.updDpp g).clk = s.clk := rfl
@[simp] theorem State.updDpp_pwr (g : Dpp → Dpp) : (s.updDpp g).pwr = s.pwr := rfl
@[simp] theorem State.updDpp_settings (g : Dpp → Dpp) : (s.updDpp g).settings = s.settings := rfl
@[simp] theorem State.updDpp_settingsPrev (g : Dpp → Dpp) : (s.updDpp g).settingsPrev = s.settingsPrev := rfl
@[simp] theorem State.updDpp_tel (g : Dpp → Dpp) : (s.updDpp g).tel = s.tel := rfl
@[simp] theorem State.updDpp_board (g : Dpp → Dpp) : (s.updDpp g).board = s.board := rfl
@[simp] theorem State.updDpp_ctx (g : Dpp → Dpp) : (s.updDpp g).ctx k = s.ctx k := rfl
@[simp] theorem State.updDpp_func (g : Dpp → Dpp) : (s.updDpp g).func k = s.func k := rfl
@[simp] theorem State.updDpp_actx (g : Dpp → Dpp) : (s.updDpp g).actx k = s.actx k := rfl
@[simp] theorem State.updDpp_core (g : Dpp → Dpp) : (s.updDpp g).core k = s.core k := rfl
@[simp] theorem State.updDpp_chan (g : Dpp → Dpp) : (s.updDpp g).chan k = s.chan k := rfl
@[simp] theorem State.updDpp_line (g : Dpp → Dpp) : (s.updDpp g).line k = s.line k := rfl
@[simp] theorem State.updDpp_pegAt (g : Dpp → Dpp) : (s.updDpp g).pegAt k = s.pegAt k := rfl
@[simp] theorem State.updDpp_page (g : Dpp → Dpp) : (s.updDpp g).page k = s.page k := rfl
@[simp] theorem State.updDpp_sess (g : Dpp → Dpp) : (s.updDpp g).sess k = s.sess k := rfl
@[simp] theorem State.updDpp_peer (g : Dpp → Dpp) : (s.updDpp g).peer k = s.peer k := rfl
@[simp] theorem State.updDpp_portAt (g : Dpp → Dpp) : (s.updDpp g).portAt k = s.portAt k := rfl
@[simp] theorem State.updDpp_ring (g : Dpp → Dpp) : (s.updDpp g).ring k n = s.ring k n := rfl

/-! ### updDma -/
@[simp] theorem State.updDma_pending (g : Dma → Dma) : (s.updDma g).pending = s.pending := rfl
@[simp] theorem State.updDma_time (g : Dma → Dma) : (s.updDma g).time = s.time := rfl
@[simp] theorem State.updDma_fresh (g : Dma → Dma) : (s.updDma g).fresh = s.fresh := rfl
@[simp] theorem State.updDma_glb (g : Dma → Dma) : (s.updDma g).glb = s.glb := rfl
@[simp] theorem State.updDma_peg (g : Dma → Dma) : (s.updDma g).peg = s.peg := rfl
@[simp] theorem State.updDma_host (g : Dma → Dma) : (s.updDma g).host = s.host := rfl
@[simp] theorem State.updDma_ctxs (g : Dma → Dma) : (s.updDma g).ctxs = s.ctxs := rfl
@[simp] theorem State.updDma_kvp (g : Dma → Dma) : (s.updDma g).kvp = s.kvp := rfl
@[simp] theorem State.updDma_arr (g : Dma → Dma) : (s.updDma g).arr = s.arr := rfl
@[simp] theorem State.updDma_atn (g : Dma → Dma) : (s.updDma g).atn = s.atn := rfl
@[simp] theorem State.updDma_dpp (g : Dma → Dma) : (s.updDma g).dpp = s.dpp := rfl
@[simp] theorem State.updDma_tsu (g : Dma → Dma) : (s.updDma g).tsu = s.tsu := rfl
@[simp] theorem State.updDma_mem (g : Dma → Dma) : (s.updDma g).mem = s.mem := rfl
@[simp] theorem State.updDma_dma (g : Dma → Dma) : (s.updDma g).dma = g s.dma := rfl
@[simp] theorem State.updDma_drn (g : Dma → Dma) : (s.updDma g).drn = s.drn := rfl
@[simp] theorem State.updDma_sec (g : Dma → Dma) : (s.updDma g).sec = s.sec := rfl
@[simp] theorem State.updDma_vid (g : Dma → Dma) : (s.updDma g).vid = s.vid := rfl
@[simp] theorem State.updDma_mbx (g : Dma → Dma) : (s.updDma g).mbx = s.mbx := rfl
@[simp] theorem State.updDma_lnk (g : Dma → Dma) : (s.updDma g).lnk = s.lnk := rfl
@[simp] theorem State.updDma_ctl (g : Dma → Dma) : (s.updDma g).ctl = s.ctl := rfl
@[simp] theorem State.updDma_clk (g : Dma → Dma) : (s.updDma g).clk = s.clk := rfl
@[simp] theorem State.updDma_pwr (g : Dma → Dma) : (s.updDma g).pwr = s.pwr := rfl
@[simp] theorem State.updDma_settings (g : Dma → Dma) : (s.updDma g).settings = s.settings := rfl
@[simp] theorem State.updDma_settingsPrev (g : Dma → Dma) : (s.updDma g).settingsPrev = s.settingsPrev := rfl
@[simp] theorem State.updDma_tel (g : Dma → Dma) : (s.updDma g).tel = s.tel := rfl
@[simp] theorem State.updDma_board (g : Dma → Dma) : (s.updDma g).board = s.board := rfl
@[simp] theorem State.updDma_ctx (g : Dma → Dma) : (s.updDma g).ctx k = s.ctx k := rfl
@[simp] theorem State.updDma_func (g : Dma → Dma) : (s.updDma g).func k = s.func k := rfl
@[simp] theorem State.updDma_actx (g : Dma → Dma) : (s.updDma g).actx k = s.actx k := rfl
@[simp] theorem State.updDma_core (g : Dma → Dma) : (s.updDma g).core k = s.core k := rfl
@[simp] theorem State.updDma_line (g : Dma → Dma) : (s.updDma g).line k = s.line k := rfl
@[simp] theorem State.updDma_pegAt (g : Dma → Dma) : (s.updDma g).pegAt k = s.pegAt k := rfl
@[simp] theorem State.updDma_page (g : Dma → Dma) : (s.updDma g).page k = s.page k := rfl
@[simp] theorem State.updDma_sess (g : Dma → Dma) : (s.updDma g).sess k = s.sess k := rfl
@[simp] theorem State.updDma_peer (g : Dma → Dma) : (s.updDma g).peer k = s.peer k := rfl
@[simp] theorem State.updDma_portAt (g : Dma → Dma) : (s.updDma g).portAt k = s.portAt k := rfl
@[simp] theorem State.updDma_ring (g : Dma → Dma) : (s.updDma g).ring k n = s.ring k n := rfl

/-! ### updMbx -/
@[simp] theorem State.updMbx_pending (g : Mbx → Mbx) : (s.updMbx g).pending = s.pending := rfl
@[simp] theorem State.updMbx_time (g : Mbx → Mbx) : (s.updMbx g).time = s.time := rfl
@[simp] theorem State.updMbx_fresh (g : Mbx → Mbx) : (s.updMbx g).fresh = s.fresh := rfl
@[simp] theorem State.updMbx_glb (g : Mbx → Mbx) : (s.updMbx g).glb = s.glb := rfl
@[simp] theorem State.updMbx_peg (g : Mbx → Mbx) : (s.updMbx g).peg = s.peg := rfl
@[simp] theorem State.updMbx_host (g : Mbx → Mbx) : (s.updMbx g).host = s.host := rfl
@[simp] theorem State.updMbx_ctxs (g : Mbx → Mbx) : (s.updMbx g).ctxs = s.ctxs := rfl
@[simp] theorem State.updMbx_kvp (g : Mbx → Mbx) : (s.updMbx g).kvp = s.kvp := rfl
@[simp] theorem State.updMbx_arr (g : Mbx → Mbx) : (s.updMbx g).arr = s.arr := rfl
@[simp] theorem State.updMbx_atn (g : Mbx → Mbx) : (s.updMbx g).atn = s.atn := rfl
@[simp] theorem State.updMbx_dpp (g : Mbx → Mbx) : (s.updMbx g).dpp = s.dpp := rfl
@[simp] theorem State.updMbx_tsu (g : Mbx → Mbx) : (s.updMbx g).tsu = s.tsu := rfl
@[simp] theorem State.updMbx_mem (g : Mbx → Mbx) : (s.updMbx g).mem = s.mem := rfl
@[simp] theorem State.updMbx_dma (g : Mbx → Mbx) : (s.updMbx g).dma = s.dma := rfl
@[simp] theorem State.updMbx_drn (g : Mbx → Mbx) : (s.updMbx g).drn = s.drn := rfl
@[simp] theorem State.updMbx_sec (g : Mbx → Mbx) : (s.updMbx g).sec = s.sec := rfl
@[simp] theorem State.updMbx_vid (g : Mbx → Mbx) : (s.updMbx g).vid = s.vid := rfl
@[simp] theorem State.updMbx_mbx (g : Mbx → Mbx) : (s.updMbx g).mbx = g s.mbx := rfl
@[simp] theorem State.updMbx_lnk (g : Mbx → Mbx) : (s.updMbx g).lnk = s.lnk := rfl
@[simp] theorem State.updMbx_ctl (g : Mbx → Mbx) : (s.updMbx g).ctl = s.ctl := rfl
@[simp] theorem State.updMbx_clk (g : Mbx → Mbx) : (s.updMbx g).clk = s.clk := rfl
@[simp] theorem State.updMbx_pwr (g : Mbx → Mbx) : (s.updMbx g).pwr = s.pwr := rfl
@[simp] theorem State.updMbx_settings (g : Mbx → Mbx) : (s.updMbx g).settings = s.settings := rfl
@[simp] theorem State.updMbx_settingsPrev (g : Mbx → Mbx) : (s.updMbx g).settingsPrev = s.settingsPrev := rfl
@[simp] theorem State.updMbx_tel (g : Mbx → Mbx) : (s.updMbx g).tel = s.tel := rfl
@[simp] theorem State.updMbx_board (g : Mbx → Mbx) : (s.updMbx g).board = s.board := rfl
@[simp] theorem State.updMbx_ctx (g : Mbx → Mbx) : (s.updMbx g).ctx k = s.ctx k := rfl
@[simp] theorem State.updMbx_func (g : Mbx → Mbx) : (s.updMbx g).func k = s.func k := rfl
@[simp] theorem State.updMbx_actx (g : Mbx → Mbx) : (s.updMbx g).actx k = s.actx k := rfl
@[simp] theorem State.updMbx_core (g : Mbx → Mbx) : (s.updMbx g).core k = s.core k := rfl
@[simp] theorem State.updMbx_chan (g : Mbx → Mbx) : (s.updMbx g).chan k = s.chan k := rfl
@[simp] theorem State.updMbx_line (g : Mbx → Mbx) : (s.updMbx g).line k = s.line k := rfl
@[simp] theorem State.updMbx_pegAt (g : Mbx → Mbx) : (s.updMbx g).pegAt k = s.pegAt k := rfl
@[simp] theorem State.updMbx_page (g : Mbx → Mbx) : (s.updMbx g).page k = s.page k := rfl
@[simp] theorem State.updMbx_sess (g : Mbx → Mbx) : (s.updMbx g).sess k = s.sess k := rfl
@[simp] theorem State.updMbx_peer (g : Mbx → Mbx) : (s.updMbx g).peer k = s.peer k := rfl
@[simp] theorem State.updMbx_portAt (g : Mbx → Mbx) : (s.updMbx g).portAt k = s.portAt k := rfl
@[simp] theorem State.updMbx_ring (g : Mbx → Mbx) : (s.updMbx g).ring k n = s.ring k n := rfl

/-! ### updLnk -/
@[simp] theorem State.updLnk_pending (g : Lnk → Lnk) : (s.updLnk g).pending = s.pending := rfl
@[simp] theorem State.updLnk_time (g : Lnk → Lnk) : (s.updLnk g).time = s.time := rfl
@[simp] theorem State.updLnk_fresh (g : Lnk → Lnk) : (s.updLnk g).fresh = s.fresh := rfl
@[simp] theorem State.updLnk_glb (g : Lnk → Lnk) : (s.updLnk g).glb = s.glb := rfl
@[simp] theorem State.updLnk_peg (g : Lnk → Lnk) : (s.updLnk g).peg = s.peg := rfl
@[simp] theorem State.updLnk_host (g : Lnk → Lnk) : (s.updLnk g).host = s.host := rfl
@[simp] theorem State.updLnk_ctxs (g : Lnk → Lnk) : (s.updLnk g).ctxs = s.ctxs := rfl
@[simp] theorem State.updLnk_kvp (g : Lnk → Lnk) : (s.updLnk g).kvp = s.kvp := rfl
@[simp] theorem State.updLnk_arr (g : Lnk → Lnk) : (s.updLnk g).arr = s.arr := rfl
@[simp] theorem State.updLnk_atn (g : Lnk → Lnk) : (s.updLnk g).atn = s.atn := rfl
@[simp] theorem State.updLnk_dpp (g : Lnk → Lnk) : (s.updLnk g).dpp = s.dpp := rfl
@[simp] theorem State.updLnk_tsu (g : Lnk → Lnk) : (s.updLnk g).tsu = s.tsu := rfl
@[simp] theorem State.updLnk_mem (g : Lnk → Lnk) : (s.updLnk g).mem = s.mem := rfl
@[simp] theorem State.updLnk_dma (g : Lnk → Lnk) : (s.updLnk g).dma = s.dma := rfl
@[simp] theorem State.updLnk_drn (g : Lnk → Lnk) : (s.updLnk g).drn = s.drn := rfl
@[simp] theorem State.updLnk_sec (g : Lnk → Lnk) : (s.updLnk g).sec = s.sec := rfl
@[simp] theorem State.updLnk_vid (g : Lnk → Lnk) : (s.updLnk g).vid = s.vid := rfl
@[simp] theorem State.updLnk_mbx (g : Lnk → Lnk) : (s.updLnk g).mbx = s.mbx := rfl
@[simp] theorem State.updLnk_lnk (g : Lnk → Lnk) : (s.updLnk g).lnk = g s.lnk := rfl
@[simp] theorem State.updLnk_ctl (g : Lnk → Lnk) : (s.updLnk g).ctl = s.ctl := rfl
@[simp] theorem State.updLnk_clk (g : Lnk → Lnk) : (s.updLnk g).clk = s.clk := rfl
@[simp] theorem State.updLnk_pwr (g : Lnk → Lnk) : (s.updLnk g).pwr = s.pwr := rfl
@[simp] theorem State.updLnk_settings (g : Lnk → Lnk) : (s.updLnk g).settings = s.settings := rfl
@[simp] theorem State.updLnk_settingsPrev (g : Lnk → Lnk) : (s.updLnk g).settingsPrev = s.settingsPrev := rfl
@[simp] theorem State.updLnk_tel (g : Lnk → Lnk) : (s.updLnk g).tel = s.tel := rfl
@[simp] theorem State.updLnk_board (g : Lnk → Lnk) : (s.updLnk g).board = s.board := rfl
@[simp] theorem State.updLnk_ctx (g : Lnk → Lnk) : (s.updLnk g).ctx k = s.ctx k := rfl
@[simp] theorem State.updLnk_func (g : Lnk → Lnk) : (s.updLnk g).func k = s.func k := rfl
@[simp] theorem State.updLnk_actx (g : Lnk → Lnk) : (s.updLnk g).actx k = s.actx k := rfl
@[simp] theorem State.updLnk_core (g : Lnk → Lnk) : (s.updLnk g).core k = s.core k := rfl
@[simp] theorem State.updLnk_chan (g : Lnk → Lnk) : (s.updLnk g).chan k = s.chan k := rfl
@[simp] theorem State.updLnk_line (g : Lnk → Lnk) : (s.updLnk g).line k = s.line k := rfl
@[simp] theorem State.updLnk_pegAt (g : Lnk → Lnk) : (s.updLnk g).pegAt k = s.pegAt k := rfl
@[simp] theorem State.updLnk_page (g : Lnk → Lnk) : (s.updLnk g).page k = s.page k := rfl
@[simp] theorem State.updLnk_sess (g : Lnk → Lnk) : (s.updLnk g).sess k = s.sess k := rfl
@[simp] theorem State.updLnk_ring (g : Lnk → Lnk) : (s.updLnk g).ring k n = s.ring k n := rfl

/-! ### updCtl -/
@[simp] theorem State.updCtl_pending (g : Ctl → Ctl) : (s.updCtl g).pending = s.pending := rfl
@[simp] theorem State.updCtl_time (g : Ctl → Ctl) : (s.updCtl g).time = s.time := rfl
@[simp] theorem State.updCtl_fresh (g : Ctl → Ctl) : (s.updCtl g).fresh = s.fresh := rfl
@[simp] theorem State.updCtl_glb (g : Ctl → Ctl) : (s.updCtl g).glb = s.glb := rfl
@[simp] theorem State.updCtl_peg (g : Ctl → Ctl) : (s.updCtl g).peg = s.peg := rfl
@[simp] theorem State.updCtl_host (g : Ctl → Ctl) : (s.updCtl g).host = s.host := rfl
@[simp] theorem State.updCtl_ctxs (g : Ctl → Ctl) : (s.updCtl g).ctxs = s.ctxs := rfl
@[simp] theorem State.updCtl_kvp (g : Ctl → Ctl) : (s.updCtl g).kvp = s.kvp := rfl
@[simp] theorem State.updCtl_arr (g : Ctl → Ctl) : (s.updCtl g).arr = s.arr := rfl
@[simp] theorem State.updCtl_atn (g : Ctl → Ctl) : (s.updCtl g).atn = s.atn := rfl
@[simp] theorem State.updCtl_dpp (g : Ctl → Ctl) : (s.updCtl g).dpp = s.dpp := rfl
@[simp] theorem State.updCtl_tsu (g : Ctl → Ctl) : (s.updCtl g).tsu = s.tsu := rfl
@[simp] theorem State.updCtl_mem (g : Ctl → Ctl) : (s.updCtl g).mem = s.mem := rfl
@[simp] theorem State.updCtl_dma (g : Ctl → Ctl) : (s.updCtl g).dma = s.dma := rfl
@[simp] theorem State.updCtl_drn (g : Ctl → Ctl) : (s.updCtl g).drn = s.drn := rfl
@[simp] theorem State.updCtl_sec (g : Ctl → Ctl) : (s.updCtl g).sec = s.sec := rfl
@[simp] theorem State.updCtl_vid (g : Ctl → Ctl) : (s.updCtl g).vid = s.vid := rfl
@[simp] theorem State.updCtl_mbx (g : Ctl → Ctl) : (s.updCtl g).mbx = s.mbx := rfl
@[simp] theorem State.updCtl_lnk (g : Ctl → Ctl) : (s.updCtl g).lnk = s.lnk := rfl
@[simp] theorem State.updCtl_ctl (g : Ctl → Ctl) : (s.updCtl g).ctl = g s.ctl := rfl
@[simp] theorem State.updCtl_clk (g : Ctl → Ctl) : (s.updCtl g).clk = s.clk := rfl
@[simp] theorem State.updCtl_pwr (g : Ctl → Ctl) : (s.updCtl g).pwr = s.pwr := rfl
@[simp] theorem State.updCtl_settings (g : Ctl → Ctl) : (s.updCtl g).settings = s.settings := rfl
@[simp] theorem State.updCtl_settingsPrev (g : Ctl → Ctl) : (s.updCtl g).settingsPrev = s.settingsPrev := rfl
@[simp] theorem State.updCtl_tel (g : Ctl → Ctl) : (s.updCtl g).tel = s.tel := rfl
@[simp] theorem State.updCtl_board (g : Ctl → Ctl) : (s.updCtl g).board = s.board := rfl
@[simp] theorem State.updCtl_ctx (g : Ctl → Ctl) : (s.updCtl g).ctx k = s.ctx k := rfl
@[simp] theorem State.updCtl_func (g : Ctl → Ctl) : (s.updCtl g).func k = s.func k := rfl
@[simp] theorem State.updCtl_actx (g : Ctl → Ctl) : (s.updCtl g).actx k = s.actx k := rfl
@[simp] theorem State.updCtl_core (g : Ctl → Ctl) : (s.updCtl g).core k = s.core k := rfl
@[simp] theorem State.updCtl_chan (g : Ctl → Ctl) : (s.updCtl g).chan k = s.chan k := rfl
@[simp] theorem State.updCtl_line (g : Ctl → Ctl) : (s.updCtl g).line k = s.line k := rfl
@[simp] theorem State.updCtl_pegAt (g : Ctl → Ctl) : (s.updCtl g).pegAt k = s.pegAt k := rfl
@[simp] theorem State.updCtl_page (g : Ctl → Ctl) : (s.updCtl g).page k = s.page k := rfl
@[simp] theorem State.updCtl_sess (g : Ctl → Ctl) : (s.updCtl g).sess k = s.sess k := rfl
@[simp] theorem State.updCtl_peer (g : Ctl → Ctl) : (s.updCtl g).peer k = s.peer k := rfl
@[simp] theorem State.updCtl_portAt (g : Ctl → Ctl) : (s.updCtl g).portAt k = s.portAt k := rfl
@[simp] theorem State.updCtl_ring (g : Ctl → Ctl) : (s.updCtl g).ring k n = s.ring k n := rfl

/-! ### updClk -/
@[simp] theorem State.updClk_pending (g : Clk → Clk) : (s.updClk g).pending = s.pending := rfl
@[simp] theorem State.updClk_time (g : Clk → Clk) : (s.updClk g).time = s.time := rfl
@[simp] theorem State.updClk_fresh (g : Clk → Clk) : (s.updClk g).fresh = s.fresh := rfl
@[simp] theorem State.updClk_glb (g : Clk → Clk) : (s.updClk g).glb = s.glb := rfl
@[simp] theorem State.updClk_peg (g : Clk → Clk) : (s.updClk g).peg = s.peg := rfl
@[simp] theorem State.updClk_host (g : Clk → Clk) : (s.updClk g).host = s.host := rfl
@[simp] theorem State.updClk_ctxs (g : Clk → Clk) : (s.updClk g).ctxs = s.ctxs := rfl
@[simp] theorem State.updClk_kvp (g : Clk → Clk) : (s.updClk g).kvp = s.kvp := rfl
@[simp] theorem State.updClk_arr (g : Clk → Clk) : (s.updClk g).arr = s.arr := rfl
@[simp] theorem State.updClk_atn (g : Clk → Clk) : (s.updClk g).atn = s.atn := rfl
@[simp] theorem State.updClk_dpp (g : Clk → Clk) : (s.updClk g).dpp = s.dpp := rfl
@[simp] theorem State.updClk_tsu (g : Clk → Clk) : (s.updClk g).tsu = s.tsu := rfl
@[simp] theorem State.updClk_mem (g : Clk → Clk) : (s.updClk g).mem = s.mem := rfl
@[simp] theorem State.updClk_dma (g : Clk → Clk) : (s.updClk g).dma = s.dma := rfl
@[simp] theorem State.updClk_drn (g : Clk → Clk) : (s.updClk g).drn = s.drn := rfl
@[simp] theorem State.updClk_sec (g : Clk → Clk) : (s.updClk g).sec = s.sec := rfl
@[simp] theorem State.updClk_vid (g : Clk → Clk) : (s.updClk g).vid = s.vid := rfl
@[simp] theorem State.updClk_mbx (g : Clk → Clk) : (s.updClk g).mbx = s.mbx := rfl
@[simp] theorem State.updClk_lnk (g : Clk → Clk) : (s.updClk g).lnk = s.lnk := rfl
@[simp] theorem State.updClk_ctl (g : Clk → Clk) : (s.updClk g).ctl = s.ctl := rfl
@[simp] theorem State.updClk_clk (g : Clk → Clk) : (s.updClk g).clk = g s.clk := rfl
@[simp] theorem State.updClk_pwr (g : Clk → Clk) : (s.updClk g).pwr = s.pwr := rfl
@[simp] theorem State.updClk_settings (g : Clk → Clk) : (s.updClk g).settings = s.settings := rfl
@[simp] theorem State.updClk_settingsPrev (g : Clk → Clk) : (s.updClk g).settingsPrev = s.settingsPrev := rfl
@[simp] theorem State.updClk_tel (g : Clk → Clk) : (s.updClk g).tel = s.tel := rfl
@[simp] theorem State.updClk_board (g : Clk → Clk) : (s.updClk g).board = s.board := rfl
@[simp] theorem State.updClk_ctx (g : Clk → Clk) : (s.updClk g).ctx k = s.ctx k := rfl
@[simp] theorem State.updClk_func (g : Clk → Clk) : (s.updClk g).func k = s.func k := rfl
@[simp] theorem State.updClk_actx (g : Clk → Clk) : (s.updClk g).actx k = s.actx k := rfl
@[simp] theorem State.updClk_core (g : Clk → Clk) : (s.updClk g).core k = s.core k := rfl
@[simp] theorem State.updClk_chan (g : Clk → Clk) : (s.updClk g).chan k = s.chan k := rfl
@[simp] theorem State.updClk_line (g : Clk → Clk) : (s.updClk g).line k = s.line k := rfl
@[simp] theorem State.updClk_pegAt (g : Clk → Clk) : (s.updClk g).pegAt k = s.pegAt k := rfl
@[simp] theorem State.updClk_page (g : Clk → Clk) : (s.updClk g).page k = s.page k := rfl
@[simp] theorem State.updClk_sess (g : Clk → Clk) : (s.updClk g).sess k = s.sess k := rfl
@[simp] theorem State.updClk_peer (g : Clk → Clk) : (s.updClk g).peer k = s.peer k := rfl
@[simp] theorem State.updClk_portAt (g : Clk → Clk) : (s.updClk g).portAt k = s.portAt k := rfl
@[simp] theorem State.updClk_ring (g : Clk → Clk) : (s.updClk g).ring k n = s.ring k n := rfl

/-! ### updPwr -/
@[simp] theorem State.updPwr_pending (g : Pwr → Pwr) : (s.updPwr g).pending = s.pending := rfl
@[simp] theorem State.updPwr_time (g : Pwr → Pwr) : (s.updPwr g).time = s.time := rfl
@[simp] theorem State.updPwr_fresh (g : Pwr → Pwr) : (s.updPwr g).fresh = s.fresh := rfl
@[simp] theorem State.updPwr_glb (g : Pwr → Pwr) : (s.updPwr g).glb = s.glb := rfl
@[simp] theorem State.updPwr_peg (g : Pwr → Pwr) : (s.updPwr g).peg = s.peg := rfl
@[simp] theorem State.updPwr_host (g : Pwr → Pwr) : (s.updPwr g).host = s.host := rfl
@[simp] theorem State.updPwr_ctxs (g : Pwr → Pwr) : (s.updPwr g).ctxs = s.ctxs := rfl
@[simp] theorem State.updPwr_kvp (g : Pwr → Pwr) : (s.updPwr g).kvp = s.kvp := rfl
@[simp] theorem State.updPwr_arr (g : Pwr → Pwr) : (s.updPwr g).arr = s.arr := rfl
@[simp] theorem State.updPwr_atn (g : Pwr → Pwr) : (s.updPwr g).atn = s.atn := rfl
@[simp] theorem State.updPwr_dpp (g : Pwr → Pwr) : (s.updPwr g).dpp = s.dpp := rfl
@[simp] theorem State.updPwr_tsu (g : Pwr → Pwr) : (s.updPwr g).tsu = s.tsu := rfl
@[simp] theorem State.updPwr_mem (g : Pwr → Pwr) : (s.updPwr g).mem = s.mem := rfl
@[simp] theorem State.updPwr_dma (g : Pwr → Pwr) : (s.updPwr g).dma = s.dma := rfl
@[simp] theorem State.updPwr_drn (g : Pwr → Pwr) : (s.updPwr g).drn = s.drn := rfl
@[simp] theorem State.updPwr_sec (g : Pwr → Pwr) : (s.updPwr g).sec = s.sec := rfl
@[simp] theorem State.updPwr_vid (g : Pwr → Pwr) : (s.updPwr g).vid = s.vid := rfl
@[simp] theorem State.updPwr_mbx (g : Pwr → Pwr) : (s.updPwr g).mbx = s.mbx := rfl
@[simp] theorem State.updPwr_lnk (g : Pwr → Pwr) : (s.updPwr g).lnk = s.lnk := rfl
@[simp] theorem State.updPwr_ctl (g : Pwr → Pwr) : (s.updPwr g).ctl = s.ctl := rfl
@[simp] theorem State.updPwr_clk (g : Pwr → Pwr) : (s.updPwr g).clk = s.clk := rfl
@[simp] theorem State.updPwr_pwr (g : Pwr → Pwr) : (s.updPwr g).pwr = g s.pwr := rfl
@[simp] theorem State.updPwr_settings (g : Pwr → Pwr) : (s.updPwr g).settings = s.settings := rfl
@[simp] theorem State.updPwr_settingsPrev (g : Pwr → Pwr) : (s.updPwr g).settingsPrev = s.settingsPrev := rfl
@[simp] theorem State.updPwr_tel (g : Pwr → Pwr) : (s.updPwr g).tel = s.tel := rfl
@[simp] theorem State.updPwr_board (g : Pwr → Pwr) : (s.updPwr g).board = s.board := rfl
@[simp] theorem State.updPwr_ctx (g : Pwr → Pwr) : (s.updPwr g).ctx k = s.ctx k := rfl
@[simp] theorem State.updPwr_func (g : Pwr → Pwr) : (s.updPwr g).func k = s.func k := rfl
@[simp] theorem State.updPwr_actx (g : Pwr → Pwr) : (s.updPwr g).actx k = s.actx k := rfl
@[simp] theorem State.updPwr_core (g : Pwr → Pwr) : (s.updPwr g).core k = s.core k := rfl
@[simp] theorem State.updPwr_chan (g : Pwr → Pwr) : (s.updPwr g).chan k = s.chan k := rfl
@[simp] theorem State.updPwr_line (g : Pwr → Pwr) : (s.updPwr g).line k = s.line k := rfl
@[simp] theorem State.updPwr_pegAt (g : Pwr → Pwr) : (s.updPwr g).pegAt k = s.pegAt k := rfl
@[simp] theorem State.updPwr_page (g : Pwr → Pwr) : (s.updPwr g).page k = s.page k := rfl
@[simp] theorem State.updPwr_sess (g : Pwr → Pwr) : (s.updPwr g).sess k = s.sess k := rfl
@[simp] theorem State.updPwr_peer (g : Pwr → Pwr) : (s.updPwr g).peer k = s.peer k := rfl
@[simp] theorem State.updPwr_portAt (g : Pwr → Pwr) : (s.updPwr g).portAt k = s.portAt k := rfl
@[simp] theorem State.updPwr_ring (g : Pwr → Pwr) : (s.updPwr g).ring k n = s.ring k n := rfl

/-! ### updBoard -/
@[simp] theorem State.updBoard_pending (g : Board → Board) : (s.updBoard g).pending = s.pending := rfl
@[simp] theorem State.updBoard_time (g : Board → Board) : (s.updBoard g).time = s.time := rfl
@[simp] theorem State.updBoard_fresh (g : Board → Board) : (s.updBoard g).fresh = s.fresh := rfl
@[simp] theorem State.updBoard_glb (g : Board → Board) : (s.updBoard g).glb = s.glb := rfl
@[simp] theorem State.updBoard_peg (g : Board → Board) : (s.updBoard g).peg = s.peg := rfl
@[simp] theorem State.updBoard_host (g : Board → Board) : (s.updBoard g).host = s.host := rfl
@[simp] theorem State.updBoard_ctxs (g : Board → Board) : (s.updBoard g).ctxs = s.ctxs := rfl
@[simp] theorem State.updBoard_kvp (g : Board → Board) : (s.updBoard g).kvp = s.kvp := rfl
@[simp] theorem State.updBoard_arr (g : Board → Board) : (s.updBoard g).arr = s.arr := rfl
@[simp] theorem State.updBoard_atn (g : Board → Board) : (s.updBoard g).atn = s.atn := rfl
@[simp] theorem State.updBoard_dpp (g : Board → Board) : (s.updBoard g).dpp = s.dpp := rfl
@[simp] theorem State.updBoard_tsu (g : Board → Board) : (s.updBoard g).tsu = s.tsu := rfl
@[simp] theorem State.updBoard_mem (g : Board → Board) : (s.updBoard g).mem = s.mem := rfl
@[simp] theorem State.updBoard_dma (g : Board → Board) : (s.updBoard g).dma = s.dma := rfl
@[simp] theorem State.updBoard_drn (g : Board → Board) : (s.updBoard g).drn = s.drn := rfl
@[simp] theorem State.updBoard_sec (g : Board → Board) : (s.updBoard g).sec = s.sec := rfl
@[simp] theorem State.updBoard_vid (g : Board → Board) : (s.updBoard g).vid = s.vid := rfl
@[simp] theorem State.updBoard_mbx (g : Board → Board) : (s.updBoard g).mbx = s.mbx := rfl
@[simp] theorem State.updBoard_lnk (g : Board → Board) : (s.updBoard g).lnk = s.lnk := rfl
@[simp] theorem State.updBoard_ctl (g : Board → Board) : (s.updBoard g).ctl = s.ctl := rfl
@[simp] theorem State.updBoard_clk (g : Board → Board) : (s.updBoard g).clk = s.clk := rfl
@[simp] theorem State.updBoard_pwr (g : Board → Board) : (s.updBoard g).pwr = s.pwr := rfl
@[simp] theorem State.updBoard_settings (g : Board → Board) : (s.updBoard g).settings = s.settings := rfl
@[simp] theorem State.updBoard_settingsPrev (g : Board → Board) : (s.updBoard g).settingsPrev = s.settingsPrev := rfl
@[simp] theorem State.updBoard_tel (g : Board → Board) : (s.updBoard g).tel = s.tel := rfl
@[simp] theorem State.updBoard_board (g : Board → Board) : (s.updBoard g).board = g s.board := rfl
@[simp] theorem State.updBoard_ctx (g : Board → Board) : (s.updBoard g).ctx k = s.ctx k := rfl
@[simp] theorem State.updBoard_func (g : Board → Board) : (s.updBoard g).func k = s.func k := rfl
@[simp] theorem State.updBoard_actx (g : Board → Board) : (s.updBoard g).actx k = s.actx k := rfl
@[simp] theorem State.updBoard_core (g : Board → Board) : (s.updBoard g).core k = s.core k := rfl
@[simp] theorem State.updBoard_chan (g : Board → Board) : (s.updBoard g).chan k = s.chan k := rfl
@[simp] theorem State.updBoard_line (g : Board → Board) : (s.updBoard g).line k = s.line k := rfl
@[simp] theorem State.updBoard_pegAt (g : Board → Board) : (s.updBoard g).pegAt k = s.pegAt k := rfl
@[simp] theorem State.updBoard_page (g : Board → Board) : (s.updBoard g).page k = s.page k := rfl
@[simp] theorem State.updBoard_sess (g : Board → Board) : (s.updBoard g).sess k = s.sess k := rfl
@[simp] theorem State.updBoard_peer (g : Board → Board) : (s.updBoard g).peer k = s.peer k := rfl
@[simp] theorem State.updBoard_portAt (g : Board → Board) : (s.updBoard g).portAt k = s.portAt k := rfl
@[simp] theorem State.updBoard_ring (g : Board → Board) : (s.updBoard g).ring k n = s.ring k n := rfl

/-! ### updHost -/
@[simp] theorem State.updHost_pending (g : HostIf → HostIf) : (s.updHost g).pending = s.pending := rfl
@[simp] theorem State.updHost_time (g : HostIf → HostIf) : (s.updHost g).time = s.time := rfl
@[simp] theorem State.updHost_fresh (g : HostIf → HostIf) : (s.updHost g).fresh = s.fresh := rfl
@[simp] theorem State.updHost_glb (g : HostIf → HostIf) : (s.updHost g).glb = s.glb := rfl
@[simp] theorem State.updHost_peg (g : HostIf → HostIf) : (s.updHost g).peg = s.peg := rfl
@[simp] theorem State.updHost_host (g : HostIf → HostIf) : (s.updHost g).host = g s.host := rfl
@[simp] theorem State.updHost_ctxs (g : HostIf → HostIf) : (s.updHost g).ctxs = s.ctxs := rfl
@[simp] theorem State.updHost_kvp (g : HostIf → HostIf) : (s.updHost g).kvp = s.kvp := rfl
@[simp] theorem State.updHost_arr (g : HostIf → HostIf) : (s.updHost g).arr = s.arr := rfl
@[simp] theorem State.updHost_atn (g : HostIf → HostIf) : (s.updHost g).atn = s.atn := rfl
@[simp] theorem State.updHost_dpp (g : HostIf → HostIf) : (s.updHost g).dpp = s.dpp := rfl
@[simp] theorem State.updHost_tsu (g : HostIf → HostIf) : (s.updHost g).tsu = s.tsu := rfl
@[simp] theorem State.updHost_mem (g : HostIf → HostIf) : (s.updHost g).mem = s.mem := rfl
@[simp] theorem State.updHost_dma (g : HostIf → HostIf) : (s.updHost g).dma = s.dma := rfl
@[simp] theorem State.updHost_drn (g : HostIf → HostIf) : (s.updHost g).drn = s.drn := rfl
@[simp] theorem State.updHost_sec (g : HostIf → HostIf) : (s.updHost g).sec = s.sec := rfl
@[simp] theorem State.updHost_vid (g : HostIf → HostIf) : (s.updHost g).vid = s.vid := rfl
@[simp] theorem State.updHost_mbx (g : HostIf → HostIf) : (s.updHost g).mbx = s.mbx := rfl
@[simp] theorem State.updHost_lnk (g : HostIf → HostIf) : (s.updHost g).lnk = s.lnk := rfl
@[simp] theorem State.updHost_ctl (g : HostIf → HostIf) : (s.updHost g).ctl = s.ctl := rfl
@[simp] theorem State.updHost_clk (g : HostIf → HostIf) : (s.updHost g).clk = s.clk := rfl
@[simp] theorem State.updHost_pwr (g : HostIf → HostIf) : (s.updHost g).pwr = s.pwr := rfl
@[simp] theorem State.updHost_settings (g : HostIf → HostIf) : (s.updHost g).settings = s.settings := rfl
@[simp] theorem State.updHost_settingsPrev (g : HostIf → HostIf) : (s.updHost g).settingsPrev = s.settingsPrev := rfl
@[simp] theorem State.updHost_tel (g : HostIf → HostIf) : (s.updHost g).tel = s.tel := rfl
@[simp] theorem State.updHost_board (g : HostIf → HostIf) : (s.updHost g).board = s.board := rfl
@[simp] theorem State.updHost_ctx (g : HostIf → HostIf) : (s.updHost g).ctx k = s.ctx k := rfl
@[simp] theorem State.updHost_actx (g : HostIf → HostIf) : (s.updHost g).actx k = s.actx k := rfl
@[simp] theorem State.updHost_core (g : HostIf → HostIf) : (s.updHost g).core k = s.core k := rfl
@[simp] theorem State.updHost_chan (g : HostIf → HostIf) : (s.updHost g).chan k = s.chan k := rfl
@[simp] theorem State.updHost_line (g : HostIf → HostIf) : (s.updHost g).line k = s.line k := rfl
@[simp] theorem State.updHost_pegAt (g : HostIf → HostIf) : (s.updHost g).pegAt k = s.pegAt k := rfl
@[simp] theorem State.updHost_page (g : HostIf → HostIf) : (s.updHost g).page k = s.page k := rfl
@[simp] theorem State.updHost_sess (g : HostIf → HostIf) : (s.updHost g).sess k = s.sess k := rfl
@[simp] theorem State.updHost_peer (g : HostIf → HostIf) : (s.updHost g).peer k = s.peer k := rfl
@[simp] theorem State.updHost_portAt (g : HostIf → HostIf) : (s.updHost g).portAt k = s.portAt k := rfl

/-! ### updCtx -/
@[simp] theorem State.updCtx_pending (g : Ctx → Ctx) : (s.updCtx k g).pending = s.pending := rfl
@[simp] theorem State.updCtx_time (g : Ctx → Ctx) : (s.updCtx k g).time = s.time := rfl
@[simp] theorem State.updCtx_fresh (g : Ctx → Ctx) : (s.updCtx k g).fresh = s.fresh := rfl
@[simp] theorem State.updCtx_glb (g : Ctx → Ctx) : (s.updCtx k g).glb = s.glb := rfl
@[simp] theorem State.updCtx_peg (g : Ctx → Ctx) : (s.updCtx k g).peg = s.peg := rfl
@[simp] theorem State.updCtx_host (g : Ctx → Ctx) : (s.updCtx k g).host = s.host := rfl
@[simp] theorem State.updCtx_kvp (g : Ctx → Ctx) : (s.updCtx k g).kvp = s.kvp := rfl
@[simp] theorem State.updCtx_arr (g : Ctx → Ctx) : (s.updCtx k g).arr = s.arr := rfl
@[simp] theorem State.updCtx_atn (g : Ctx → Ctx) : (s.updCtx k g).atn = s.atn := rfl
@[simp] theorem State.updCtx_dpp (g : Ctx → Ctx) : (s.updCtx k g).dpp = s.dpp := rfl
@[simp] theorem State.updCtx_tsu (g : Ctx → Ctx) : (s.updCtx k g).tsu = s.tsu := rfl
@[simp] theorem State.updCtx_mem (g : Ctx → Ctx) : (s.updCtx k g).mem = s.mem := rfl
@[simp] theorem State.updCtx_dma (g : Ctx → Ctx) : (s.updCtx k g).dma = s.dma := rfl
@[simp] theorem State.updCtx_drn (g : Ctx → Ctx) : (s.updCtx k g).drn = s.drn := rfl
@[simp] theorem State.updCtx_sec (g : Ctx → Ctx) : (s.updCtx k g).sec = s.sec := rfl
@[simp] theorem State.updCtx_vid (g : Ctx → Ctx) : (s.updCtx k g).vid = s.vid := rfl
@[simp] theorem State.updCtx_mbx (g : Ctx → Ctx) : (s.updCtx k g).mbx = s.mbx := rfl
@[simp] theorem State.updCtx_lnk (g : Ctx → Ctx) : (s.updCtx k g).lnk = s.lnk := rfl
@[simp] theorem State.updCtx_ctl (g : Ctx → Ctx) : (s.updCtx k g).ctl = s.ctl := rfl
@[simp] theorem State.updCtx_clk (g : Ctx → Ctx) : (s.updCtx k g).clk = s.clk := rfl
@[simp] theorem State.updCtx_pwr (g : Ctx → Ctx) : (s.updCtx k g).pwr = s.pwr := rfl
@[simp] theorem State.updCtx_settings (g : Ctx → Ctx) : (s.updCtx k g).settings = s.settings := rfl
@[simp] theorem State.updCtx_settingsPrev (g : Ctx → Ctx) : (s.updCtx k g).settingsPrev = s.settingsPrev := rfl
@[simp] theorem State.updCtx_tel (g : Ctx → Ctx) : (s.updCtx k g).tel = s.tel := rfl
@[simp] theorem State.updCtx_board (g : Ctx → Ctx) : (s.updCtx k g).board = s.board := rfl
@[simp] theorem State.updCtx_ctx_same (g : Ctx → Ctx) : (s.updCtx k g).ctx k = g (s.ctx k) := Tbl.get_upd_same _ k g
theorem State.updCtx_ctx (g : Ctx → Ctx) (i : Nat) :
    (s.updCtx k g).ctx i = if i = k then g (s.ctx i) else s.ctx i := Tbl.get_upd _ k i g
@[simp] theorem State.updCtx_ctx_ne (g : Ctx → Ctx) (i : Nat) (h : i ≠ k) : (s.updCtx k g).ctx i = s.ctx i :=
  Tbl.get_upd_ne _ g h
@[simp] theorem State.updCtx_func (g : Ctx → Ctx) (j : Nat) : (s.updCtx k g).func j = s.func j := rfl
@[simp] theorem State.updCtx_actx (g : Ctx → Ctx) (j : Nat) : (s.updCtx k g).actx j = s.actx j := rfl
@[simp] theorem State.updCtx_core (g : Ctx → Ctx) (j : Nat) : (s.updCtx k g).core j = s.core j := rfl
@[simp] theorem State.updCtx_chan (g : Ctx → Ctx) (j : Nat) : (s.updCtx k g).chan j = s.chan j := rfl
@[simp] theorem State.updCtx_line (g : Ctx → Ctx) (j : Nat) : (s.updCtx k g).line j = s.line j := rfl
@[simp] theorem State.updCtx_pegAt (g : Ctx → Ctx) (j : Nat) : (s.updCtx k g).pegAt j = s.pegAt j := rfl
@[simp] theorem State.updCtx_page (g : Ctx → Ctx) (j : Nat) : (s.updCtx k g).page j = s.page j := rfl
@[simp] theorem State.updCtx_sess (g : Ctx → Ctx) (j : Nat) : (s.updCtx k g).sess j = s.sess j := rfl
@[simp] theorem State.updCtx_peer (g : Ctx → Ctx) (j : Nat) : (s.updCtx k g).peer j = s.peer j := rfl
@[simp] theorem State.updCtx_portAt (g : Ctx → Ctx) (j : Nat) : (s.updCtx k g).portAt j = s.portAt j := rfl
@[simp] theorem State.updCtx_ring (g : Ctx → Ctx) (j : Nat) : (s.updCtx k g).ring j n = s.ring j n := rfl

/-! ### updFunc -/
@[simp] theorem State.updFunc_pending (g : Func → Func) : (s.updFunc k g).pending = s.pending := rfl
@[simp] theorem State.updFunc_time (g : Func → Func) : (s.updFunc k g).time = s.time := rfl
@[simp] theorem State.updFunc_fresh (g : Func → Func) : (s.updFunc k g).fresh = s.fresh := rfl
@[simp] theorem State.updFunc_glb (g : Func → Func) : (s.updFunc k g).glb = s.glb := rfl
@[simp] theorem State.updFunc_peg (g : Func → Func) : (s.updFunc k g).peg = s.peg := rfl
@[simp] theorem State.updFunc_ctxs (g : Func → Func) : (s.updFunc k g).ctxs = s.ctxs := rfl
@[simp] theorem State.updFunc_kvp (g : Func → Func) : (s.updFunc k g).kvp = s.kvp := rfl
@[simp] theorem State.updFunc_arr (g : Func → Func) : (s.updFunc k g).arr = s.arr := rfl
@[simp] theorem State.updFunc_atn (g : Func → Func) : (s.updFunc k g).atn = s.atn := rfl
@[simp] theorem State.updFunc_dpp (g : Func → Func) : (s.updFunc k g).dpp = s.dpp := rfl
@[simp] theorem State.updFunc_tsu (g : Func → Func) : (s.updFunc k g).tsu = s.tsu := rfl
@[simp] theorem State.updFunc_mem (g : Func → Func) : (s.updFunc k g).mem = s.mem := rfl
@[simp] theorem State.updFunc_dma (g : Func → Func) : (s.updFunc k g).dma = s.dma := rfl
@[simp] theorem State.updFunc_drn (g : Func → Func) : (s.updFunc k g).drn = s.drn := rfl
@[simp] theorem State.updFunc_sec (g : Func → Func) : (s.updFunc k g).sec = s.sec := rfl
@[simp] theorem State.updFunc_vid (g : Func → Func) : (s.updFunc k g).vid = s.vid := rfl
@[simp] theorem State.updFunc_mbx (g : Func → Func) : (s.updFunc k g).mbx = s.mbx := rfl
@[simp] theorem State.updFunc_lnk (g : Func → Func) : (s.updFunc k g).lnk = s.lnk := rfl
@[simp] theorem State.updFunc_ctl (g : Func → Func) : (s.updFunc k g).ctl = s.ctl := rfl
@[simp] theorem State.updFunc_clk (g : Func → Func) : (s.updFunc k g).clk = s.clk := rfl
@[simp] theorem State.updFunc_pwr (g : Func → Func) : (s.updFunc k g).pwr = s.pwr := rfl
@[simp] theorem State.updFunc_settings (g : Func → Func) : (s.updFunc k g).settings = s.settings := rfl
@[simp] theorem State.updFunc_settingsPrev (g : Func → Func) : (s.updFunc k g).settingsPrev = s.settingsPrev := rfl
@[simp] theorem State.updFunc_tel (g : Func → Func) : (s.updFunc k g).tel = s.tel := rfl
@[simp] theorem State.updFunc_board (g : Func → Func) : (s.updFunc k g).board = s.board := rfl
@[simp] theorem State.updFunc_ctx (g : Func → Func) (j : Nat) : (s.updFunc k g).ctx j = s.ctx j := rfl
@[simp] theorem State.updFunc_func_same (g : Func → Func) : (s.updFunc k g).func k = g (s.func k) := Tbl.get_upd_same _ k g
theorem State.updFunc_func (g : Func → Func) (i : Nat) :
    (s.updFunc k g).func i = if i = k then g (s.func i) else s.func i := Tbl.get_upd _ k i g
@[simp] theorem State.updFunc_func_ne (g : Func → Func) (i : Nat) (h : i ≠ k) : (s.updFunc k g).func i = s.func i :=
  Tbl.get_upd_ne _ g h
@[simp] theorem State.updFunc_actx (g : Func → Func) (j : Nat) : (s.updFunc k g).actx j = s.actx j := rfl
@[simp] theorem State.updFunc_core (g : Func → Func) (j : Nat) : (s.updFunc k g).core j = s.core j := rfl
@[simp] theorem State.updFunc_chan (g : Func → Func) (j : Nat) : (s.updFunc k g).chan j = s.chan j := rfl
@[simp] theorem State.updFunc_line (g : Func → Func) (j : Nat) : (s.updFunc k g).line j = s.line j := rfl
@[simp] theorem State.updFunc_pegAt (g : Func → Func) (j : Nat) : (s.updFunc k g).pegAt j = s.pegAt j := rfl
@[simp] theorem State.updFunc_page (g : Func → Func) (j : Nat) : (s.updFunc k g).page j = s.page j := rfl
@[simp] theorem State.updFunc_sess (g : Func → Func) (j : Nat) : (s.updFunc k g).sess j = s.sess j := rfl
@[simp] theorem State.updFunc_peer (g : Func → Func) (j : Nat) : (s.updFunc k g).peer j = s.peer j := rfl
@[simp] theorem State.updFunc_portAt (g : Func → Func) (j : Nat) : (s.updFunc k g).portAt j = s.portAt j := rfl
@[simp] theorem State.updFunc_ring (g : Func → Func) (j : Nat) : (s.updFunc k g).ring j n = s.ring j n := rfl

/-! ### updActx -/
@[simp] theorem State.updActx_pending (g : ArrCtx → ArrCtx) : (s.updActx k g).pending = s.pending := rfl
@[simp] theorem State.updActx_time (g : ArrCtx → ArrCtx) : (s.updActx k g).time = s.time := rfl
@[simp] theorem State.updActx_fresh (g : ArrCtx → ArrCtx) : (s.updActx k g).fresh = s.fresh := rfl
@[simp] theorem State.updActx_glb (g : ArrCtx → ArrCtx) : (s.updActx k g).glb = s.glb := rfl
@[simp] theorem State.updActx_peg (g : ArrCtx → ArrCtx) : (s.updActx k g).peg = s.peg := rfl
@[simp] theorem State.updActx_host (g : ArrCtx → ArrCtx) : (s.updActx k g).host = s.host := rfl
@[simp] theorem State.updActx_ctxs (g : ArrCtx → ArrCtx) : (s.updActx k g).ctxs = s.ctxs := rfl
@[simp] theorem State.updActx_kvp (g : ArrCtx → ArrCtx) : (s.updActx k g).kvp = s.kvp := rfl
@[simp] theorem State.updActx_atn (g : ArrCtx → ArrCtx) : (s.updActx k g).atn = s.atn := rfl
@[simp] theorem State.updActx_dpp (g : ArrCtx → ArrCtx) : (s.updActx k g).dpp = s.dpp := rfl
@[simp] theorem State.updActx_tsu (g : ArrCtx → ArrCtx) : (s.updActx k g).tsu = s.tsu := rfl
@[simp] theorem State.updActx_mem (g : ArrCtx → ArrCtx) : (s.updActx k g).mem = s.mem := rfl
@[simp] theorem State.updActx_dma (g : ArrCtx → ArrCtx) : (s.updActx k g).dma = s.dma := rfl
@[simp] theorem State.updActx_drn (g : ArrCtx → ArrCtx) : (s.updActx k g).drn = s.drn := rfl
@[simp] theorem State.updActx_sec (g : ArrCtx → ArrCtx) : (s.updActx k g).sec = s.sec := rfl
@[simp] theorem State.updActx_vid (g : ArrCtx → ArrCtx) : (s.updActx k g).vid = s.vid := rfl
@[simp] theorem State.updActx_mbx (g : ArrCtx → ArrCtx) : (s.updActx k g).mbx = s.mbx := rfl
@[simp] theorem State.updActx_lnk (g : ArrCtx → ArrCtx) : (s.updActx k g).lnk = s.lnk := rfl
@[simp] theorem State.updActx_ctl (g : ArrCtx → ArrCtx) : (s.updActx k g).ctl = s.ctl := rfl
@[simp] theorem State.updActx_clk (g : ArrCtx → ArrCtx) : (s.updActx k g).clk = s.clk := rfl
@[simp] theorem State.updActx_pwr (g : ArrCtx → ArrCtx) : (s.updActx k g).pwr = s.pwr := rfl
@[simp] theorem State.updActx_settings (g : ArrCtx → ArrCtx) : (s.updActx k g).settings = s.settings := rfl
@[simp] theorem State.updActx_settingsPrev (g : ArrCtx → ArrCtx) : (s.updActx k g).settingsPrev = s.settingsPrev := rfl
@[simp] theorem State.updActx_tel (g : ArrCtx → ArrCtx) : (s.updActx k g).tel = s.tel := rfl
@[simp] theorem State.updActx_board (g : ArrCtx → ArrCtx) : (s.updActx k g).board = s.board := rfl
@[simp] theorem State.updActx_ctx (g : ArrCtx → ArrCtx) (j : Nat) : (s.updActx k g).ctx j = s.ctx j := rfl
@[simp] theorem State.updActx_func (g : ArrCtx → ArrCtx) (j : Nat) : (s.updActx k g).func j = s.func j := rfl
@[simp] theorem State.updActx_actx_same (g : ArrCtx → ArrCtx) : (s.updActx k g).actx k = g (s.actx k) := Tbl.get_upd_same _ k g
theorem State.updActx_actx (g : ArrCtx → ArrCtx) (i : Nat) :
    (s.updActx k g).actx i = if i = k then g (s.actx i) else s.actx i := Tbl.get_upd _ k i g
@[simp] theorem State.updActx_actx_ne (g : ArrCtx → ArrCtx) (i : Nat) (h : i ≠ k) : (s.updActx k g).actx i = s.actx i :=
  Tbl.get_upd_ne _ g h
@[simp] theorem State.updActx_core (g : ArrCtx → ArrCtx) (j : Nat) : (s.updActx k g).core j = s.core j := rfl
@[simp] theorem State.updActx_chan (g : ArrCtx → ArrCtx) (j : Nat) : (s.updActx k g).chan j = s.chan j := rfl
@[simp] theorem State.updActx_line (g : ArrCtx → ArrCtx) (j : Nat) : (s.updActx k g).line j = s.line j := rfl
@[simp] theorem State.updActx_pegAt (g : ArrCtx → ArrCtx) (j : Nat) : (s.updActx k g).pegAt j = s.pegAt j := rfl
@[simp] theorem State.updActx_page (g : ArrCtx → ArrCtx) (j : Nat) : (s.updActx k g).page j = s.page j := rfl
@[simp] theorem State.updActx_sess (g : ArrCtx → ArrCtx) (j : Nat) : (s.updActx k g).sess j = s.sess j := rfl
@[simp] theorem State.updActx_peer (g : ArrCtx → ArrCtx) (j : Nat) : (s.updActx k g).peer j = s.peer j := rfl
@[simp] theorem State.updActx_portAt (g : ArrCtx → ArrCtx) (j : Nat) : (s.updActx k g).portAt j = s.portAt j := rfl
@[simp] theorem State.updActx_ring (g : ArrCtx → ArrCtx) (j : Nat) : (s.updActx k g).ring j n = s.ring j n := rfl

/-! ### updCore -/
@[simp] theorem State.updCore_pending (g : Core → Core) : (s.updCore k g).pending = s.pending := rfl
@[simp] theorem State.updCore_time (g : Core → Core) : (s.updCore k g).time = s.time := rfl
@[simp] theorem State.updCore_fresh (g : Core → Core) : (s.updCore k g).fresh = s.fresh := rfl
@[simp] theorem State.updCore_glb (g : Core → Core) : (s.updCore k g).glb = s.glb := rfl
@[simp] theorem State.updCore_peg (g : Core → Core) : (s.updCore k g).peg = s.peg := rfl
@[simp] theorem State.updCore_host (g : Core → Core) : (s.updCore k g).host = s.host := rfl
@[simp] theorem State.updCore_ctxs (g : Core → Core) : (s.updCore k g).ctxs = s.ctxs := rfl
@[simp] theorem State.updCore_kvp (g : Core → Core) : (s.updCore k g).kvp = s.kvp := rfl
@[simp] theorem State.updCore_atn (g : Core → Core) : (s.updCore k g).atn = s.atn := rfl
@[simp] theorem State.updCore_dpp (g : Core → Core) : (s.updCore k g).dpp = s.dpp := rfl
@[simp] theorem State.updCore_tsu (g : Core → Core) : (s.updCore k g).tsu = s.tsu := rfl
@[simp] theorem State.updCore_mem (g : Core → Core) : (s.updCore k g).mem = s.mem := rfl
@[simp] theorem State.updCore_dma (g : Core → Core) : (s.updCore k g).dma = s.dma := rfl
@[simp] theorem State.updCore_drn (g : Core → Core) : (s.updCore k g).drn = s.drn := rfl
@[simp] theorem State.updCore_sec (g : Core → Core) : (s.updCore k g).sec = s.sec := rfl
@[simp] theorem State.updCore_vid (g : Core → Core) : (s.updCore k g).vid = s.vid := rfl
@[simp] theorem State.updCore_mbx (g : Core → Core) : (s.updCore k g).mbx = s.mbx := rfl
@[simp] theorem State.updCore_lnk (g : Core → Core) : (s.updCore k g).lnk = s.lnk := rfl
@[simp] theorem State.updCore_ctl (g : Core → Core) : (s.updCore k g).ctl = s.ctl := rfl
@[simp] theorem State.updCore_clk (g : Core → Core) : (s.updCore k g).clk = s.clk := rfl
@[simp] theorem State.updCore_pwr (g : Core → Core) : (s.updCore k g).pwr = s.pwr := rfl
@[simp] theorem State.updCore_settings (g : Core → Core) : (s.updCore k g).settings = s.settings := rfl
@[simp] theorem State.updCore_settingsPrev (g : Core → Core) : (s.updCore k g).settingsPrev = s.settingsPrev := rfl
@[simp] theorem State.updCore_tel (g : Core → Core) : (s.updCore k g).tel = s.tel := rfl
@[simp] theorem State.updCore_board (g : Core → Core) : (s.updCore k g).board = s.board := rfl
@[simp] theorem State.updCore_ctx (g : Core → Core) (j : Nat) : (s.updCore k g).ctx j = s.ctx j := rfl
@[simp] theorem State.updCore_func (g : Core → Core) (j : Nat) : (s.updCore k g).func j = s.func j := rfl
@[simp] theorem State.updCore_actx (g : Core → Core) (j : Nat) : (s.updCore k g).actx j = s.actx j := rfl
@[simp] theorem State.updCore_core_same (g : Core → Core) : (s.updCore k g).core k = g (s.core k) := Tbl.get_upd_same _ k g
theorem State.updCore_core (g : Core → Core) (i : Nat) :
    (s.updCore k g).core i = if i = k then g (s.core i) else s.core i := Tbl.get_upd _ k i g
@[simp] theorem State.updCore_core_ne (g : Core → Core) (i : Nat) (h : i ≠ k) : (s.updCore k g).core i = s.core i :=
  Tbl.get_upd_ne _ g h
@[simp] theorem State.updCore_chan (g : Core → Core) (j : Nat) : (s.updCore k g).chan j = s.chan j := rfl
@[simp] theorem State.updCore_line (g : Core → Core) (j : Nat) : (s.updCore k g).line j = s.line j := rfl
@[simp] theorem State.updCore_pegAt (g : Core → Core) (j : Nat) : (s.updCore k g).pegAt j = s.pegAt j := rfl
@[simp] theorem State.updCore_page (g : Core → Core) (j : Nat) : (s.updCore k g).page j = s.page j := rfl
@[simp] theorem State.updCore_sess (g : Core → Core) (j : Nat) : (s.updCore k g).sess j = s.sess j := rfl
@[simp] theorem State.updCore_peer (g : Core → Core) (j : Nat) : (s.updCore k g).peer j = s.peer j := rfl
@[simp] theorem State.updCore_portAt (g : Core → Core) (j : Nat) : (s.updCore k g).portAt j = s.portAt j := rfl
@[simp] theorem State.updCore_ring (g : Core → Core) (j : Nat) : (s.updCore k g).ring j n = s.ring j n := rfl

/-! ### updChan -/
@[simp] theorem State.updChan_pending (g : Chan → Chan) : (s.updChan k g).pending = s.pending := rfl
@[simp] theorem State.updChan_time (g : Chan → Chan) : (s.updChan k g).time = s.time := rfl
@[simp] theorem State.updChan_fresh (g : Chan → Chan) : (s.updChan k g).fresh = s.fresh := rfl
@[simp] theorem State.updChan_glb (g : Chan → Chan) : (s.updChan k g).glb = s.glb := rfl
@[simp] theorem State.updChan_peg (g : Chan → Chan) : (s.updChan k g).peg = s.peg := rfl
@[simp] theorem State.updChan_host (g : Chan → Chan) : (s.updChan k g).host = s.host := rfl
@[simp] theorem State.updChan_ctxs (g : Chan → Chan) : (s.updChan k g).ctxs = s.ctxs := rfl
@[simp] theorem State.updChan_kvp (g : Chan → Chan) : (s.updChan k g).kvp = s.kvp := rfl
@[simp] theorem State.updChan_arr (g : Chan → Chan) : (s.updChan k g).arr = s.arr := rfl
@[simp] theorem State.updChan_atn (g : Chan → Chan) : (s.updChan k g).atn = s.atn := rfl
@[simp] theorem State.updChan_dpp (g : Chan → Chan) : (s.updChan k g).dpp = s.dpp := rfl
@[simp] theorem State.updChan_tsu (g : Chan → Chan) : (s.updChan k g).tsu = s.tsu := rfl
@[simp] theorem State.updChan_mem (g : Chan → Chan) : (s.updChan k g).mem = s.mem := rfl
@[simp] theorem State.updChan_drn (g : Chan → Chan) : (s.updChan k g).drn = s.drn := rfl
@[simp] theorem State.updChan_sec (g : Chan → Chan) : (s.updChan k g).sec = s.sec := rfl
@[simp] theorem State.updChan_vid (g : Chan → Chan) : (s.updChan k g).vid = s.vid := rfl
@[simp] theorem State.updChan_mbx (g : Chan → Chan) : (s.updChan k g).mbx = s.mbx := rfl
@[simp] theorem State.updChan_lnk (g : Chan → Chan) : (s.updChan k g).lnk = s.lnk := rfl
@[simp] theorem State.updChan_ctl (g : Chan → Chan) : (s.updChan k g).ctl = s.ctl := rfl
@[simp] theorem State.updChan_clk (g : Chan → Chan) : (s.updChan k g).clk = s.clk := rfl
@[simp] theorem State.updChan_pwr (g : Chan → Chan) : (s.updChan k g).pwr = s.pwr := rfl
@[simp] theorem State.updChan_settings (g : Chan → Chan) : (s.updChan k g).settings = s.settings := rfl
@[simp] theorem State.updChan_settingsPrev (g : Chan → Chan) : (s.updChan k g).settingsPrev = s.settingsPrev := rfl
@[simp] theorem State.updChan_tel (g : Chan → Chan) : (s.updChan k g).tel = s.tel := rfl
@[simp] theorem State.updChan_board (g : Chan → Chan) : (s.updChan k g).board = s.board := rfl
@[simp] theorem State.updChan_ctx (g : Chan → Chan) (j : Nat) : (s.updChan k g).ctx j = s.ctx j := rfl
@[simp] theorem State.updChan_func (g : Chan → Chan) (j : Nat) : (s.updChan k g).func j = s.func j := rfl
@[simp] theorem State.updChan_actx (g : Chan → Chan) (j : Nat) : (s.updChan k g).actx j = s.actx j := rfl
@[simp] theorem State.updChan_core (g : Chan → Chan) (j : Nat) : (s.updChan k g).core j = s.core j := rfl
@[simp] theorem State.updChan_chan_same (g : Chan → Chan) : (s.updChan k g).chan k = g (s.chan k) := Tbl.get_upd_same _ k g
theorem State.updChan_chan (g : Chan → Chan) (i : Nat) :
    (s.updChan k g).chan i = if i = k then g (s.chan i) else s.chan i := Tbl.get_upd _ k i g
@[simp] theorem State.updChan_chan_ne (g : Chan → Chan) (i : Nat) (h : i ≠ k) : (s.updChan k g).chan i = s.chan i :=
  Tbl.get_upd_ne _ g h
@[simp] theorem State.updChan_line (g : Chan → Chan) (j : Nat) : (s.updChan k g).line j = s.line j := rfl
@[simp] theorem State.updChan_pegAt (g : Chan → Chan) (j : Nat) : (s.updChan k g).pegAt j = s.pegAt j := rfl
@[simp] theorem State.updChan_page (g : Chan → Chan) (j : Nat) : (s.updChan k g).page j = s.page j := rfl
@[simp] theorem State.updChan_sess (g : Chan → Chan) (j : Nat) : (s.updChan k g).sess j = s.sess j := rfl
@[simp] theorem State.updChan_peer (g : Chan → Chan) (j : Nat) : (s.updChan k g).peer j = s.peer j := rfl
@[simp] theorem State.updChan_portAt (g : Chan → Chan) (j : Nat) : (s.updChan k g).portAt j = s.portAt j := rfl
@[simp] theorem State.updChan_ring (g : Chan → Chan) (j : Nat) : (s.updChan k g).ring j n = s.ring j n := rfl

/-! ### updLine -/
@[simp] theorem State.updLine_pending (g : Line → Line) : (s.updLine k g).pending = s.pending := rfl
@[simp] theorem State.updLine_time (g : Line → Line) : (s.updLine k g).time = s.time := rfl
@[simp] theorem State.updLine_fresh (g : Line → Line) : (s.updLine k g).fresh = s.fresh := rfl
@[simp] theorem State.updLine_glb (g : Line → Line) : (s.updLine k g).glb = s.glb := rfl
@[simp] theorem State.updLine_host (g : Line → Line) : (s.updLine k g).host = s.host := rfl
@[simp] theorem State.updLine_ctxs (g : Line → Line) : (s.updLine k g).ctxs = s.ctxs := rfl
@[simp] theorem State.updLine_kvp (g : Line → Line) : (s.updLine k g).kvp = s.kvp := rfl
@[simp] theorem State.updLine_arr (g : Line → Line) : (s.updLine k g).arr = s.arr := rfl
@[simp] theorem State.updLine_atn (g : Line → Line) : (s.updLine k g).atn = s.atn := rfl
@[simp] theorem State.updLine_dpp (g : Line → Line) : (s.updLine k g).dpp = s.dpp := rfl
@[simp] theorem State.updLine_tsu (g : Line → Line) : (s.updLine k g).tsu = s.tsu := rfl
@[simp] theorem State.updLine_mem (g : Line → Line) : (s.updLine k g).mem = s.mem := rfl
@[simp] theorem State.updLine_dma (g : Line → Line) : (s.updLine k g).dma = s.dma := rfl
@[simp] theorem State.updLine_drn (g : Line → Line) : (s.updLine k g).drn = s.drn := rfl
@[simp] theorem State.updLine_sec (g : Line → Line) : (s.updLine k g).sec = s.sec := rfl
@[simp] theorem State.updLine_vid (g : Line → Line) : (s.updLine k g).vid = s.vid := rfl
@[simp] theorem State.updLine_mbx (g : Line → Line) : (s.updLine k g).mbx = s.mbx := rfl
@[simp] theorem State.updLine_lnk (g : Line → Line) : (s.updLine k g).lnk = s.lnk := rfl
@[simp] theorem State.updLine_ctl (g : Line → Line) : (s.updLine k g).ctl = s.ctl := rfl
@[simp] theorem State.updLine_clk (g : Line → Line) : (s.updLine k g).clk = s.clk := rfl
@[simp] theorem State.updLine_pwr (g : Line → Line) : (s.updLine k g).pwr = s.pwr := rfl
@[simp] theorem State.updLine_settings (g : Line → Line) : (s.updLine k g).settings = s.settings := rfl
@[simp] theorem State.updLine_settingsPrev (g : Line → Line) : (s.updLine k g).settingsPrev = s.settingsPrev := rfl
@[simp] theorem State.updLine_tel (g : Line → Line) : (s.updLine k g).tel = s.tel := rfl
@[simp] theorem State.updLine_board (g : Line → Line) : (s.updLine k g).board = s.board := rfl
@[simp] theorem State.updLine_ctx (g : Line → Line) (j : Nat) : (s.updLine k g).ctx j = s.ctx j := rfl
@[simp] theorem State.updLine_func (g : Line → Line) (j : Nat) : (s.updLine k g).func j = s.func j := rfl
@[simp] theorem State.updLine_actx (g : Line → Line) (j : Nat) : (s.updLine k g).actx j = s.actx j := rfl
@[simp] theorem State.updLine_core (g : Line → Line) (j : Nat) : (s.updLine k g).core j = s.core j := rfl
@[simp] theorem State.updLine_chan (g : Line → Line) (j : Nat) : (s.updLine k g).chan j = s.chan j := rfl
@[simp] theorem State.updLine_line_same (g : Line → Line) : (s.updLine k g).line k = g (s.line k) := Tbl.get_upd_same _ k g
theorem State.updLine_line (g : Line → Line) (i : Nat) :
    (s.updLine k g).line i = if i = k then g (s.line i) else s.line i := Tbl.get_upd _ k i g
@[simp] theorem State.updLine_line_ne (g : Line → Line) (i : Nat) (h : i ≠ k) : (s.updLine k g).line i = s.line i :=
  Tbl.get_upd_ne _ g h
@[simp] theorem State.updLine_pegAt (g : Line → Line) (j : Nat) : (s.updLine k g).pegAt j = s.pegAt j := rfl
@[simp] theorem State.updLine_page (g : Line → Line) (j : Nat) : (s.updLine k g).page j = s.page j := rfl
@[simp] theorem State.updLine_sess (g : Line → Line) (j : Nat) : (s.updLine k g).sess j = s.sess j := rfl
@[simp] theorem State.updLine_peer (g : Line → Line) (j : Nat) : (s.updLine k g).peer j = s.peer j := rfl
@[simp] theorem State.updLine_portAt (g : Line → Line) (j : Nat) : (s.updLine k g).portAt j = s.portAt j := rfl
@[simp] theorem State.updLine_ring (g : Line → Line) (j : Nat) : (s.updLine k g).ring j n = s.ring j n := rfl

/-! ### updPegAt -/
@[simp] theorem State.updPegAt_pending (g : Peg → Peg) : (s.updPegAt k g).pending = s.pending := rfl
@[simp] theorem State.updPegAt_time (g : Peg → Peg) : (s.updPegAt k g).time = s.time := rfl
@[simp] theorem State.updPegAt_fresh (g : Peg → Peg) : (s.updPegAt k g).fresh = s.fresh := rfl
@[simp] theorem State.updPegAt_glb (g : Peg → Peg) : (s.updPegAt k g).glb = s.glb := rfl
@[simp] theorem State.updPegAt_host (g : Peg → Peg) : (s.updPegAt k g).host = s.host := rfl
@[simp] theorem State.updPegAt_ctxs (g : Peg → Peg) : (s.updPegAt k g).ctxs = s.ctxs := rfl
@[simp] theorem State.updPegAt_kvp (g : Peg → Peg) : (s.updPegAt k g).kvp = s.kvp := rfl
@[simp] theorem State.updPegAt_arr (g : Peg → Peg) : (s.updPegAt k g).arr = s.arr := rfl
@[simp] theorem State.updPegAt_atn (g : Peg → Peg) : (s.updPegAt k g).atn = s.atn := rfl
@[simp] theorem State.updPegAt_dpp (g : Peg → Peg) : (s.updPegAt k g).dpp = s.dpp := rfl
@[simp] theorem State.updPegAt_tsu (g : Peg → Peg) : (s.updPegAt k g).tsu = s.tsu := rfl
@[simp] theorem State.updPegAt_mem (g : Peg → Peg) : (s.updPegAt k g).mem = s.mem := rfl
@[simp] theorem State.updPegAt_dma (g : Peg → Peg) : (s.updPegAt k g).dma = s.dma := rfl
@[simp] theorem State.updPegAt_drn (g : Peg → Peg) : (s.updPegAt k g).drn = s.drn := rfl
@[simp] theorem State.updPegAt_sec (g : Peg → Peg) : (s.updPegAt k g).sec = s.sec := rfl
@[simp] theorem State.updPegAt_vid (g : Peg → Peg) : (s.updPegAt k g).vid = s.vid := rfl
@[simp] theorem State.updPegAt_mbx (g : Peg → Peg) : (s.updPegAt k g).mbx = s.mbx := rfl
@[simp] theorem State.updPegAt_lnk (g : Peg → Peg) : (s.updPegAt k g).lnk = s.lnk := rfl
@[simp] theorem State.updPegAt_ctl (g : Peg → Peg) : (s.updPegAt k g).ctl = s.ctl := rfl
@[simp] theorem State.updPegAt_clk (g : Peg → Peg) : (s.updPegAt k g).clk = s.clk := rfl
@[simp] theorem State.updPegAt_pwr (g : Peg → Peg) : (s.updPegAt k g).pwr = s.pwr := rfl
@[simp] theorem State.updPegAt_settings (g : Peg → Peg) : (s.updPegAt k g).settings = s.settings := rfl
@[simp] theorem State.updPegAt_settingsPrev (g : Peg → Peg) : (s.updPegAt k g).settingsPrev = s.settingsPrev := rfl
@[simp] theorem State.updPegAt_tel (g : Peg → Peg) : (s.updPegAt k g).tel = s.tel := rfl
@[simp] theorem State.updPegAt_board (g : Peg → Peg) : (s.updPegAt k g).board = s.board := rfl
@[simp] theorem State.updPegAt_ctx (g : Peg → Peg) (j : Nat) : (s.updPegAt k g).ctx j = s.ctx j := rfl
@[simp] theorem State.updPegAt_func (g : Peg → Peg) (j : Nat) : (s.updPegAt k g).func j = s.func j := rfl
@[simp] theorem State.updPegAt_actx (g : Peg → Peg) (j : Nat) : (s.updPegAt k g).actx j = s.actx j := rfl
@[simp] theorem State.updPegAt_core (g : Peg → Peg) (j : Nat) : (s.updPegAt k g).core j = s.core j := rfl
@[simp] theorem State.updPegAt_chan (g : Peg → Peg) (j : Nat) : (s.updPegAt k g).chan j = s.chan j := rfl
@[simp] theorem State.updPegAt_line (g : Peg → Peg) (j : Nat) : (s.updPegAt k g).line j = s.line j := rfl
@[simp] theorem State.updPegAt_pegAt_same (g : Peg → Peg) : (s.updPegAt k g).pegAt k = g (s.pegAt k) := Tbl.get_upd_same _ k g
theorem State.updPegAt_pegAt (g : Peg → Peg) (i : Nat) :
    (s.updPegAt k g).pegAt i = if i = k then g (s.pegAt i) else s.pegAt i := Tbl.get_upd _ k i g
@[simp] theorem State.updPegAt_pegAt_ne (g : Peg → Peg) (i : Nat) (h : i ≠ k) : (s.updPegAt k g).pegAt i = s.pegAt i :=
  Tbl.get_upd_ne _ g h
@[simp] theorem State.updPegAt_page (g : Peg → Peg) (j : Nat) : (s.updPegAt k g).page j = s.page j := rfl
@[simp] theorem State.updPegAt_sess (g : Peg → Peg) (j : Nat) : (s.updPegAt k g).sess j = s.sess j := rfl
@[simp] theorem State.updPegAt_peer (g : Peg → Peg) (j : Nat) : (s.updPegAt k g).peer j = s.peer j := rfl
@[simp] theorem State.updPegAt_portAt (g : Peg → Peg) (j : Nat) : (s.updPegAt k g).portAt j = s.portAt j := rfl
@[simp] theorem State.updPegAt_ring (g : Peg → Peg) (j : Nat) : (s.updPegAt k g).ring j n = s.ring j n := rfl

/-! ### updPage -/
@[simp] theorem State.updPage_pending (g : Page → Page) : (s.updPage k g).pending = s.pending := rfl
@[simp] theorem State.updPage_time (g : Page → Page) : (s.updPage k g).time = s.time := rfl
@[simp] theorem State.updPage_fresh (g : Page → Page) : (s.updPage k g).fresh = s.fresh := rfl
@[simp] theorem State.updPage_glb (g : Page → Page) : (s.updPage k g).glb = s.glb := rfl
@[simp] theorem State.updPage_peg (g : Page → Page) : (s.updPage k g).peg = s.peg := rfl
@[simp] theorem State.updPage_host (g : Page → Page) : (s.updPage k g).host = s.host := rfl
@[simp] theorem State.updPage_ctxs (g : Page → Page) : (s.updPage k g).ctxs = s.ctxs := rfl
@[simp] theorem State.updPage_arr (g : Page → Page) : (s.updPage k g).arr = s.arr := rfl
@[simp] theorem State.updPage_atn (g : Page → Page) : (s.updPage k g).atn = s.atn := rfl
@[simp] theorem State.updPage_dpp (g : Page → Page) : (s.updPage k g).dpp = s.dpp := rfl
@[simp] theorem State.updPage_tsu (g : Page → Page) : (s.updPage k g).tsu = s.tsu := rfl
@[simp] theorem State.updPage_mem (g : Page → Page) : (s.updPage k g).mem = s.mem := rfl
@[simp] theorem State.updPage_dma (g : Page → Page) : (s.updPage k g).dma = s.dma := rfl
@[simp] theorem State.updPage_drn (g : Page → Page) : (s.updPage k g).drn = s.drn := rfl
@[simp] theorem State.updPage_sec (g : Page → Page) : (s.updPage k g).sec = s.sec := rfl
@[simp] theorem State.updPage_vid (g : Page → Page) : (s.updPage k g).vid = s.vid := rfl
@[simp] theorem State.updPage_mbx (g : Page → Page) : (s.updPage k g).mbx = s.mbx := rfl
@[simp] theorem State.updPage_lnk (g : Page → Page) : (s.updPage k g).lnk = s.lnk := rfl
@[simp] theorem State.updPage_ctl (g : Page → Page) : (s.updPage k g).ctl = s.ctl := rfl
@[simp] theorem State.updPage_clk (g : Page → Page) : (s.updPage k g).clk = s.clk := rfl
@[simp] theorem State.updPage_pwr (g : Page → Page) : (s.updPage k g).pwr = s.pwr := rfl
@[simp] theorem State.updPage_settings (g : Page → Page) : (s.updPage k g).settings = s.settings := rfl
@[simp] theorem State.updPage_settingsPrev (g : Page → Page) : (s.updPage k g).settingsPrev = s.settingsPrev := rfl
@[simp] theorem State.updPage_tel (g : Page → Page) : (s.updPage k g).tel = s.tel := rfl
@[simp] theorem State.updPage_board (g : Page → Page) : (s.updPage k g).board = s.board := rfl
@[simp] theorem State.updPage_ctx (g : Page → Page) (j : Nat) : (s.updPage k g).ctx j = s.ctx j := rfl
@[simp] theorem State.updPage_func (g : Page → Page) (j : Nat) : (s.updPage k g).func j = s.func j := rfl
@[simp] theorem State.updPage_actx (g : Page → Page) (j : Nat) : (s.updPage k g).actx j = s.actx j := rfl
@[simp] theorem State.updPage_core (g : Page → Page) (j : Nat) : (s.updPage k g).core j = s.core j := rfl
@[simp] theorem State.updPage_chan (g : Page → Page) (j : Nat) : (s.updPage k g).chan j = s.chan j := rfl
@[simp] theorem State.updPage_line (g : Page → Page) (j : Nat) : (s.updPage k g).line j = s.line j := rfl
@[simp] theorem State.updPage_pegAt (g : Page → Page) (j : Nat) : (s.updPage k g).pegAt j = s.pegAt j := rfl
@[simp] theorem State.updPage_page_same (g : Page → Page) : (s.updPage k g).page k = g (s.page k) := Tbl.get_upd_same _ k g
theorem State.updPage_page (g : Page → Page) (i : Nat) :
    (s.updPage k g).page i = if i = k then g (s.page i) else s.page i := Tbl.get_upd _ k i g
@[simp] theorem State.updPage_page_ne (g : Page → Page) (i : Nat) (h : i ≠ k) : (s.updPage k g).page i = s.page i :=
  Tbl.get_upd_ne _ g h
@[simp] theorem State.updPage_sess (g : Page → Page) (j : Nat) : (s.updPage k g).sess j = s.sess j := rfl
@[simp] theorem State.updPage_peer (g : Page → Page) (j : Nat) : (s.updPage k g).peer j = s.peer j := rfl
@[simp] theorem State.updPage_portAt (g : Page → Page) (j : Nat) : (s.updPage k g).portAt j = s.portAt j := rfl
@[simp] theorem State.updPage_ring (g : Page → Page) (j : Nat) : (s.updPage k g).ring j n = s.ring j n := rfl

/-! ### updSess -/
@[simp] theorem State.updSess_pending (g : Sess → Sess) : (s.updSess k g).pending = s.pending := rfl
@[simp] theorem State.updSess_time (g : Sess → Sess) : (s.updSess k g).time = s.time := rfl
@[simp] theorem State.updSess_fresh (g : Sess → Sess) : (s.updSess k g).fresh = s.fresh := rfl
@[simp] theorem State.updSess_glb (g : Sess → Sess) : (s.updSess k g).glb = s.glb := rfl
@[simp] theorem State.updSess_peg (g : Sess → Sess) : (s.updSess k g).peg = s.peg := rfl
@[simp] theorem State.updSess_host (g : Sess → Sess) : (s.updSess k g).host = s.host := rfl
@[simp] theorem State.updSess_ctxs (g : Sess → Sess) : (s.updSess k g).ctxs = s.ctxs := rfl
@[simp] theorem State.updSess_kvp (g : Sess → Sess) : (s.updSess k g).kvp = s.kvp := rfl
@[simp] theorem State.updSess_arr (g : Sess → Sess) : (s.updSess k g).arr = s.arr := rfl
@[simp] theorem State.updSess_atn (g : Sess → Sess) : (s.updSess k g).atn = s.atn := rfl
@[simp] theorem State.updSess_dpp (g : Sess → Sess) : (s.updSess k g).dpp = s.dpp := rfl
@[simp] theorem State.updSess_tsu (g : Sess → Sess) : (s.updSess k g).tsu = s.tsu := rfl
@[simp] theorem State.updSess_mem (g : Sess → Sess) : (s.updSess k g).mem = s.mem := rfl
@[simp] theorem State.updSess_dma (g : Sess → Sess) : (s.updSess k g).dma = s.dma := rfl
@[simp] theorem State.updSess_drn (g : Sess → Sess) : (s.updSess k g).drn = s.drn := rfl
@[simp] theorem State.updSess_sec (g : Sess → Sess) : (s.updSess k g).sec = s.sec := rfl
@[simp] theorem State.updSess_mbx (g : Sess → Sess) : (s.updSess k g).mbx = s.mbx := rfl
@[simp] theorem State.updSess_lnk (g : Sess → Sess) : (s.updSess k g).lnk = s.lnk := rfl
@[simp] theorem State.updSess_ctl (g : Sess → Sess) : (s.updSess k g).ctl = s.ctl := rfl
@[simp] theorem State.updSess_clk (g : Sess → Sess) : (s.updSess k g).clk = s.clk := rfl
@[simp] theorem State.updSess_pwr (g : Sess → Sess) : (s.updSess k g).pwr = s.pwr := rfl
@[simp] theorem State.updSess_settings (g : Sess → Sess) : (s.updSess k g).settings = s.settings := rfl
@[simp] theorem State.updSess_settingsPrev (g : Sess → Sess) : (s.updSess k g).settingsPrev = s.settingsPrev := rfl
@[simp] theorem State.updSess_tel (g : Sess → Sess) : (s.updSess k g).tel = s.tel := rfl
@[simp] theorem State.updSess_board (g : Sess → Sess) : (s.updSess k g).board = s.board := rfl
@[simp] theorem State.updSess_ctx (g : Sess → Sess) (j : Nat) : (s.updSess k g).ctx j = s.ctx j := rfl
@[simp] theorem State.updSess_func (g : Sess → Sess) (j : Nat) : (s.updSess k g).func j = s.func j := rfl
@[simp] theorem State.updSess_actx (g : Sess → Sess) (j : Nat) : (s.updSess k g).actx j = s.actx j := rfl
@[simp] theorem State.updSess_core (g : Sess → Sess) (j : Nat) : (s.updSess k g).core j = s.core j := rfl
@[simp] theorem State.updSess_chan (g : Sess → Sess) (j : Nat) : (s.updSess k g).chan j = s.chan j := rfl
@[simp] theorem State.updSess_line (g : Sess → Sess) (j : Nat) : (s.updSess k g).line j = s.line j := rfl
@[simp] theorem State.updSess_pegAt (g : Sess → Sess) (j : Nat) : (s.updSess k g).pegAt j = s.pegAt j := rfl
@[simp] theorem State.updSess_page (g : Sess → Sess) (j : Nat) : (s.updSess k g).page j = s.page j := rfl
@[simp] theorem State.updSess_sess_same (g : Sess → Sess) : (s.updSess k g).sess k = g (s.sess k) := Tbl.get_upd_same _ k g
theorem State.updSess_sess (g : Sess → Sess) (i : Nat) :
    (s.updSess k g).sess i = if i = k then g (s.sess i) else s.sess i := Tbl.get_upd _ k i g
@[simp] theorem State.updSess_sess_ne (g : Sess → Sess) (i : Nat) (h : i ≠ k) : (s.updSess k g).sess i = s.sess i :=
  Tbl.get_upd_ne _ g h
@[simp] theorem State.updSess_peer (g : Sess → Sess) (j : Nat) : (s.updSess k g).peer j = s.peer j := rfl
@[simp] theorem State.updSess_portAt (g : Sess → Sess) (j : Nat) : (s.updSess k g).portAt j = s.portAt j := rfl
@[simp] theorem State.updSess_ring (g : Sess → Sess) (j : Nat) : (s.updSess k g).ring j n = s.ring j n := rfl

/-! ### updPeer -/
@[simp] theorem State.updPeer_pending (g : Peer → Peer) : (s.updPeer k g).pending = s.pending := rfl
@[simp] theorem State.updPeer_time (g : Peer → Peer) : (s.updPeer k g).time = s.time := rfl
@[simp] theorem State.updPeer_fresh (g : Peer → Peer) : (s.updPeer k g).fresh = s.fresh := rfl
@[simp] theorem State.updPeer_glb (g : Peer → Peer) : (s.updPeer k g).glb = s.glb := rfl
@[simp] theorem State.updPeer_peg (g : Peer → Peer) : (s.updPeer k g).peg = s.peg := rfl
@[simp] theorem State.updPeer_host (g : Peer → Peer) : (s.updPeer k g).host = s.host := rfl
@[simp] theorem State.updPeer_ctxs (g : Peer → Peer) : (s.updPeer k g).ctxs = s.ctxs := rfl
@[simp] theorem State.updPeer_kvp (g : Peer → Peer) : (s.updPeer k g).kvp = s.kvp := rfl
@[simp] theorem State.updPeer_arr (g : Peer → Peer) : (s.updPeer k g).arr = s.arr := rfl
@[simp] theorem State.updPeer_atn (g : Peer → Peer) : (s.updPeer k g).atn = s.atn := rfl
@[simp] theorem State.updPeer_dpp (g : Peer → Peer) : (s.updPeer k g).dpp = s.dpp := rfl
@[simp] theorem State.updPeer_tsu (g : Peer → Peer) : (s.updPeer k g).tsu = s.tsu := rfl
@[simp] theorem State.updPeer_mem (g : Peer → Peer) : (s.updPeer k g).mem = s.mem := rfl
@[simp] theorem State.updPeer_dma (g : Peer → Peer) : (s.updPeer k g).dma = s.dma := rfl
@[simp] theorem State.updPeer_drn (g : Peer → Peer) : (s.updPeer k g).drn = s.drn := rfl
@[simp] theorem State.updPeer_sec (g : Peer → Peer) : (s.updPeer k g).sec = s.sec := rfl
@[simp] theorem State.updPeer_vid (g : Peer → Peer) : (s.updPeer k g).vid = s.vid := rfl
@[simp] theorem State.updPeer_mbx (g : Peer → Peer) : (s.updPeer k g).mbx = s.mbx := rfl
@[simp] theorem State.updPeer_ctl (g : Peer → Peer) : (s.updPeer k g).ctl = s.ctl := rfl
@[simp] theorem State.updPeer_clk (g : Peer → Peer) : (s.updPeer k g).clk = s.clk := rfl
@[simp] theorem State.updPeer_pwr (g : Peer → Peer) : (s.updPeer k g).pwr = s.pwr := rfl
@[simp] theorem State.updPeer_settings (g : Peer → Peer) : (s.updPeer k g).settings = s.settings := rfl
@[simp] theorem State.updPeer_settingsPrev (g : Peer → Peer) : (s.updPeer k g).settingsPrev = s.settingsPrev := rfl
@[simp] theorem State.updPeer_tel (g : Peer → Peer) : (s.updPeer k g).tel = s.tel := rfl
@[simp] theorem State.updPeer_board (g : Peer → Peer) : (s.updPeer k g).board = s.board := rfl
@[simp] theorem State.updPeer_ctx (g : Peer → Peer) (j : Nat) : (s.updPeer k g).ctx j = s.ctx j := rfl
@[simp] theorem State.updPeer_func (g : Peer → Peer) (j : Nat) : (s.updPeer k g).func j = s.func j := rfl
@[simp] theorem State.updPeer_actx (g : Peer → Peer) (j : Nat) : (s.updPeer k g).actx j = s.actx j := rfl
@[simp] theorem State.updPeer_core (g : Peer → Peer) (j : Nat) : (s.updPeer k g).core j = s.core j := rfl
@[simp] theorem State.updPeer_chan (g : Peer → Peer) (j : Nat) : (s.updPeer k g).chan j = s.chan j := rfl
@[simp] theorem State.updPeer_line (g : Peer → Peer) (j : Nat) : (s.updPeer k g).line j = s.line j := rfl
@[simp] theorem State.updPeer_pegAt (g : Peer → Peer) (j : Nat) : (s.updPeer k g).pegAt j = s.pegAt j := rfl
@[simp] theorem State.updPeer_page (g : Peer → Peer) (j : Nat) : (s.updPeer k g).page j = s.page j := rfl
@[simp] theorem State.updPeer_sess (g : Peer → Peer) (j : Nat) : (s.updPeer k g).sess j = s.sess j := rfl
@[simp] theorem State.updPeer_peer_same (g : Peer → Peer) : (s.updPeer k g).peer k = g (s.peer k) := Tbl.get_upd_same _ k g
theorem State.updPeer_peer (g : Peer → Peer) (i : Nat) :
    (s.updPeer k g).peer i = if i = k then g (s.peer i) else s.peer i := Tbl.get_upd _ k i g
@[simp] theorem State.updPeer_peer_ne (g : Peer → Peer) (i : Nat) (h : i ≠ k) : (s.updPeer k g).peer i = s.peer i :=
  Tbl.get_upd_ne _ g h
@[simp] theorem State.updPeer_portAt (g : Peer → Peer) (j : Nat) : (s.updPeer k g).portAt j = s.portAt j := rfl
@[simp] theorem State.updPeer_ring (g : Peer → Peer) (j : Nat) : (s.updPeer k g).ring j n = s.ring j n := rfl

/-! ### updPort -/
@[simp] theorem State.updPort_pending (g : Port → Port) : (s.updPort k g).pending = s.pending := rfl
@[simp] theorem State.updPort_time (g : Port → Port) : (s.updPort k g).time = s.time := rfl
@[simp] theorem State.updPort_fresh (g : Port → Port) : (s.updPort k g).fresh = s.fresh := rfl
@[simp] theorem State.updPort_glb (g : Port → Port) : (s.updPort k g).glb = s.glb := rfl
@[simp] theorem State.updPort_peg (g : Port → Port) : (s.updPort k g).peg = s.peg := rfl
@[simp] theorem State.updPort_host (g : Port → Port) : (s.updPort k g).host = s.host := rfl
@[simp] theorem State.updPort_ctxs (g : Port → Port) : (s.updPort k g).ctxs = s.ctxs := rfl
@[simp] theorem State.updPort_kvp (g : Port → Port) : (s.updPort k g).kvp = s.kvp := rfl
@[simp] theorem State.updPort_arr (g : Port → Port) : (s.updPort k g).arr = s.arr := rfl
@[simp] theorem State.updPort_atn (g : Port → Port) : (s.updPort k g).atn = s.atn := rfl
@[simp] theorem State.updPort_dpp (g : Port → Port) : (s.updPort k g).dpp = s.dpp := rfl
@[simp] theorem State.updPort_tsu (g : Port → Port) : (s.updPort k g).tsu = s.tsu := rfl
@[simp] theorem State.updPort_mem (g : Port → Port) : (s.updPort k g).mem = s.mem := rfl
@[simp] theorem State.updPort_dma (g : Port → Port) : (s.updPort k g).dma = s.dma := rfl
@[simp] theorem State.updPort_drn (g : Port → Port) : (s.updPort k g).drn = s.drn := rfl
@[simp] theorem State.updPort_sec (g : Port → Port) : (s.updPort k g).sec = s.sec := rfl
@[simp] theorem State.updPort_vid (g : Port → Port) : (s.updPort k g).vid = s.vid := rfl
@[simp] theorem State.updPort_mbx (g : Port → Port) : (s.updPort k g).mbx = s.mbx := rfl
@[simp] theorem State.updPort_ctl (g : Port → Port) : (s.updPort k g).ctl = s.ctl := rfl
@[simp] theorem State.updPort_clk (g : Port → Port) : (s.updPort k g).clk = s.clk := rfl
@[simp] theorem State.updPort_pwr (g : Port → Port) : (s.updPort k g).pwr = s.pwr := rfl
@[simp] theorem State.updPort_settings (g : Port → Port) : (s.updPort k g).settings = s.settings := rfl
@[simp] theorem State.updPort_settingsPrev (g : Port → Port) : (s.updPort k g).settingsPrev = s.settingsPrev := rfl
@[simp] theorem State.updPort_tel (g : Port → Port) : (s.updPort k g).tel = s.tel := rfl
@[simp] theorem State.updPort_board (g : Port → Port) : (s.updPort k g).board = s.board := rfl
@[simp] theorem State.updPort_ctx (g : Port → Port) (j : Nat) : (s.updPort k g).ctx j = s.ctx j := rfl
@[simp] theorem State.updPort_func (g : Port → Port) (j : Nat) : (s.updPort k g).func j = s.func j := rfl
@[simp] theorem State.updPort_actx (g : Port → Port) (j : Nat) : (s.updPort k g).actx j = s.actx j := rfl
@[simp] theorem State.updPort_core (g : Port → Port) (j : Nat) : (s.updPort k g).core j = s.core j := rfl
@[simp] theorem State.updPort_chan (g : Port → Port) (j : Nat) : (s.updPort k g).chan j = s.chan j := rfl
@[simp] theorem State.updPort_line (g : Port → Port) (j : Nat) : (s.updPort k g).line j = s.line j := rfl
@[simp] theorem State.updPort_pegAt (g : Port → Port) (j : Nat) : (s.updPort k g).pegAt j = s.pegAt j := rfl
@[simp] theorem State.updPort_page (g : Port → Port) (j : Nat) : (s.updPort k g).page j = s.page j := rfl
@[simp] theorem State.updPort_sess (g : Port → Port) (j : Nat) : (s.updPort k g).sess j = s.sess j := rfl
@[simp] theorem State.updPort_peer (g : Port → Port) (j : Nat) : (s.updPort k g).peer j = s.peer j := rfl
@[simp] theorem State.updPort_portAt_same (g : Port → Port) : (s.updPort k g).portAt k = g (s.portAt k) := Tbl.get_upd_same _ k g
theorem State.updPort_portAt (g : Port → Port) (i : Nat) :
    (s.updPort k g).portAt i = if i = k then g (s.portAt i) else s.portAt i := Tbl.get_upd _ k i g
@[simp] theorem State.updPort_portAt_ne (g : Port → Port) (i : Nat) (h : i ≠ k) : (s.updPort k g).portAt i = s.portAt i :=
  Tbl.get_upd_ne _ g h
@[simp] theorem State.updPort_ring (g : Port → Port) (j : Nat) : (s.updPort k g).ring j n = s.ring j n := rfl

/-! ### updRing -/
@[simp] theorem State.updRing_pending (g : Ring → Ring) : (s.updRing k n g).pending = s.pending := rfl
@[simp] theorem State.updRing_time (g : Ring → Ring) : (s.updRing k n g).time = s.time := rfl
@[simp] theorem State.updRing_fresh (g : Ring → Ring) : (s.updRing k n g).fresh = s.fresh := rfl
@[simp] theorem State.updRing_glb (g : Ring → Ring) : (s.updRing k n g).glb = s.glb := rfl
@[simp] theorem State.updRing_peg (g : Ring → Ring) : (s.updRing k n g).peg = s.peg := rfl
@[simp] theorem State.updRing_ctxs (g : Ring → Ring) : (s.updRing k n g).ctxs = s.ctxs := rfl
@[simp] theorem State.updRing_kvp (g : Ring → Ring) : (s.updRing k n g).kvp = s.kvp := rfl
@[simp] theorem State.updRing_arr (g : Ring → Ring) : (s.updRing k n g).arr = s.arr := rfl
@[simp] theorem State.updRing_atn (g : Ring → Ring) : (s.updRing k n g).atn = s.atn := rfl
@[simp] theorem State.updRing_dpp (g : Ring → Ring) : (s.updRing k n g).dpp = s.dpp := rfl
@[simp] theorem State.updRing_tsu (g : Ring → Ring) : (s.updRing k n g).tsu = s.tsu := rfl
@[simp] theorem State.updRing_mem (g : Ring → Ring) : (s.updRing k n g).mem = s.mem := rfl
@[simp] theorem State.updRing_dma (g : Ring → Ring) : (s.updRing k n g).dma = s.dma := rfl
@[simp] theorem State.updRing_drn (g : Ring → Ring) : (s.updRing k n g).drn = s.drn := rfl
@[simp] theorem State.updRing_sec (g : Ring → Ring) : (s.updRing k n g).sec = s.sec := rfl
@[simp] theorem State.updRing_vid (g : Ring → Ring) : (s.updRing k n g).vid = s.vid := rfl
@[simp] theorem State.updRing_mbx (g : Ring → Ring) : (s.updRing k n g).mbx = s.mbx := rfl
@[simp] theorem State.updRing_lnk (g : Ring → Ring) : (s.updRing k n g).lnk = s.lnk := rfl
@[simp] theorem State.updRing_ctl (g : Ring → Ring) : (s.updRing k n g).ctl = s.ctl := rfl
@[simp] theorem State.updRing_clk (g : Ring → Ring) : (s.updRing k n g).clk = s.clk := rfl
@[simp] theorem State.updRing_pwr (g : Ring → Ring) : (s.updRing k n g).pwr = s.pwr := rfl
@[simp] theorem State.updRing_settings (g : Ring → Ring) : (s.updRing k n g).settings = s.settings := rfl
@[simp] theorem State.updRing_settingsPrev (g : Ring → Ring) : (s.updRing k n g).settingsPrev = s.settingsPrev := rfl
@[simp] theorem State.updRing_tel (g : Ring → Ring) : (s.updRing k n g).tel = s.tel := rfl
@[simp] theorem State.updRing_board (g : Ring → Ring) : (s.updRing k n g).board = s.board := rfl
@[simp] theorem State.updRing_ctx (g : Ring → Ring) (j : Nat) : (s.updRing k n g).ctx j = s.ctx j := rfl
@[simp] theorem State.updRing_func (g : Ring → Ring) (j : Nat) : (s.updRing k n g).func j = s.func j := rfl
@[simp] theorem State.updRing_actx (g : Ring → Ring) (j : Nat) : (s.updRing k n g).actx j = s.actx j := rfl
@[simp] theorem State.updRing_core (g : Ring → Ring) (j : Nat) : (s.updRing k n g).core j = s.core j := rfl
@[simp] theorem State.updRing_chan (g : Ring → Ring) (j : Nat) : (s.updRing k n g).chan j = s.chan j := rfl
@[simp] theorem State.updRing_line (g : Ring → Ring) (j : Nat) : (s.updRing k n g).line j = s.line j := rfl
@[simp] theorem State.updRing_pegAt (g : Ring → Ring) (j : Nat) : (s.updRing k n g).pegAt j = s.pegAt j := rfl
@[simp] theorem State.updRing_page (g : Ring → Ring) (j : Nat) : (s.updRing k n g).page j = s.page j := rfl
@[simp] theorem State.updRing_sess (g : Ring → Ring) (j : Nat) : (s.updRing k n g).sess j = s.sess j := rfl
@[simp] theorem State.updRing_peer (g : Ring → Ring) (j : Nat) : (s.updRing k n g).peer j = s.peer j := rfl
@[simp] theorem State.updRing_portAt (g : Ring → Ring) (j : Nat) : (s.updRing k n g).portAt j = s.portAt j := rfl
@[simp] theorem State.updRing_ring_same (g : Ring → Ring) : (s.updRing k n g).ring k n = g (s.ring k n) :=
  Tbl.get_upd_same _ _ g
theorem State.updRing_ring_ne (g : Ring → Ring) (i m : Nat) (h : ringKey i m ≠ ringKey k n) :
    (s.updRing k n g).ring i m = s.ring i m := Tbl.get_upd_ne _ g h
@[simp] theorem State.updRing_host_inflight (g : Ring → Ring) : (s.updRing k n g).host.inflight = s.host.inflight := rfl
@[simp] theorem State.updRing_host_msgs (g : Ring → Ring) : (s.updRing k n g).host.msgs = s.host.msgs := rfl
@[simp] theorem State.updRing_host_unsupported (g : Ring → Ring) : (s.updRing k n g).host.unsupported = s.host.unsupported := rfl
@[simp] theorem State.updRing_host_readData (g : Ring → Ring) : (s.updRing k n g).host.readData = s.host.readData := rfl
@[simp] theorem State.updRing_host_linkUp (g : Ring → Ring) : (s.updRing k n g).host.linkUp = s.host.linkUp := rfl
@[simp] theorem State.updRing_host_vfEnable (g : Ring → Ring) : (s.updRing k n g).host.vfEnable = s.host.vfEnable := rfl
@[simp] theorem State.updRing_host_funcs (g : Ring → Ring) : (s.updRing k n g).host.funcs = s.host.funcs := rfl

end

end Sys2Proof.Machine
end

