-- ==== Sys2Proof/Laws/Ops.lean ====
section
/-!
SUPPORT. The shared operations, once each: what an operation may change (the blocks that no lemma names as kept) and what
it leaves.  Memory writes keep the canonical form; a command that passes its checks is concluded as its chapter says.
-/
namespace Sys2Proof.Machine

section
variable (s : State)

/-! ### Loops -/

/-- What every round of a loop keeps, the loop keeps. -/
theorem foldS_keeps {α β : Type} (g : State → β) (l : List α) (f : State → α → State) (h : ∀ s a, g (f s a) = g s) :
    g (foldS l f s) = g s := by
  induction l generalizing s with
  | nil => rfl
  | cons a r ih => exact (ih (f s a)).trans (h s a)

/-- What every round of a loop preserves holds after it. -/
theorem foldS_preserves {α : Type} (P : State → Prop) (l : List α) (f : State → α → State) (h : ∀ s a, P s → P (f s a))
    (hs : P s) : P (foldS l f s) := by
  induction l generalizing s with
  | nil => exact hs
  | cons a r ih => exact ih (f s a) (h s a hs)

@[simp] theorem foldS_nil {α : Type} (f : State → α → State) : foldS [] f s = s := rfl
@[simp] theorem foldS_cons {α : Type} (f : State → α → State) (a : α) (r : List α) : foldS (a :: r) f s = foldS r f (f s a) :=
  rfl


/-! ### consAdd -/
@[simp] theorem State.consAdd_pending (id n : Nat) : (s.consAdd id n).pending = s.pending := rfl
@[simp] theorem State.consAdd_time (id n : Nat) : (s.consAdd id n).time = s.time := rfl
@[simp] theorem State.consAdd_fresh (id n : Nat) : (s.consAdd id n).fresh = s.fresh := rfl
@[simp] theorem State.consAdd_glb (id n : Nat) : (s.consAdd id n).glb = s.glb := rfl
@[simp] theorem State.consAdd_peg (id n : Nat) : (s.consAdd id n).peg = s.peg := rfl
@[simp] theorem State.consAdd_host (id n : Nat) : (s.consAdd id n).host = s.host := rfl
@[simp] theorem State.consAdd_ctxs (id n : Nat) : (s.consAdd id n).ctxs = s.ctxs := rfl
@[simp] theorem State.consAdd_kvp (id n : Nat) : (s.consAdd id n).kvp = s.kvp := rfl
@[simp] theorem State.consAdd_arr (id n : Nat) : (s.consAdd id n).arr = s.arr := rfl
@[simp] theorem State.consAdd_atn (id n : Nat) : (s.consAdd id n).atn = s.atn := rfl
@[simp] theorem State.consAdd_dpp (id n : Nat) : (s.consAdd id n).dpp = s.dpp := rfl
@[simp] theorem State.consAdd_tsu (id n : Nat) : (s.consAdd id n).tsu = s.tsu := rfl
@[simp] theorem State.consAdd_mem (id n : Nat) : (s.consAdd id n).mem = s.mem := rfl
@[simp] theorem State.consAdd_dma (id n : Nat) : (s.consAdd id n).dma = s.dma := rfl
@[simp] theorem State.consAdd_drn (id n : Nat) : (s.consAdd id n).drn = s.drn := rfl
@[simp] theorem State.consAdd_sec (id n : Nat) : (s.consAdd id n).sec = s.sec := rfl
@[simp] theorem State.consAdd_vid (id n : Nat) : (s.consAdd id n).vid = s.vid := rfl
@[simp] theorem State.consAdd_mbx (id n : Nat) : (s.consAdd id n).mbx = s.mbx := rfl
@[simp] theorem State.consAdd_lnk (id n : Nat) : (s.consAdd id n).lnk = s.lnk := rfl
@[simp] theorem State.consAdd_ctl (id n : Nat) : (s.consAdd id n).ctl = s.ctl := rfl
@[simp] theorem State.consAdd_clk (id n : Nat) : (s.consAdd id n).clk = s.clk := rfl
@[simp] theorem State.consAdd_pwr (id n : Nat) : (s.consAdd id n).pwr = s.pwr := rfl
@[simp] theorem State.consAdd_settings (id n : Nat) : (s.consAdd id n).settings = s.settings := rfl
@[simp] theorem State.consAdd_settingsPrev (id n : Nat) : (s.consAdd id n).settingsPrev = s.settingsPrev := rfl
@[simp] theorem State.consAdd_board (id n : Nat) : (s.consAdd id n).board = s.board := rfl

/-! ### consSet -/
@[simp] theorem State.consSet_pending (id n : Nat) : (s.consSet id n).pending = s.pending := rfl
@[simp] theorem State.consSet_time (id n : Nat) : (s.consSet id n).time = s.time := rfl
@[simp] theorem State.consSet_fresh (id n : Nat) : (s.consSet id n).fresh = s.fresh := rfl
@[simp] theorem State.consSet_glb (id n : Nat) : (s.consSet id n).glb = s.glb := rfl
@[simp] theorem State.consSet_peg (id n : Nat) : (s.consSet id n).peg = s.peg := rfl
@[simp] theorem State.consSet_host (id n : Nat) : (s.consSet id n).host = s.host := rfl
@[simp] theorem State.consSet_ctxs (id n : Nat) : (s.consSet id n).ctxs = s.ctxs := rfl
@[simp] theorem State.consSet_kvp (id n : Nat) : (s.consSet id n).kvp = s.kvp := rfl
@[simp] theorem State.consSet_arr (id n : Nat) : (s.consSet id n).arr = s.arr := rfl
@[simp] theorem State.consSet_atn (id n : Nat) : (s.consSet id n).atn = s.atn := rfl
@[simp] theorem State.consSet_dpp (id n : Nat) : (s.consSet id n).dpp = s.dpp := rfl
@[simp] theorem State.consSet_tsu (id n : Nat) : (s.consSet id n).tsu = s.tsu := rfl
@[simp] theorem State.consSet_mem (id n : Nat) : (s.consSet id n).mem = s.mem := rfl
@[simp] theorem State.consSet_dma (id n : Nat) : (s.consSet id n).dma = s.dma := rfl
@[simp] theorem State.consSet_drn (id n : Nat) : (s.consSet id n).drn = s.drn := rfl
@[simp] theorem State.consSet_sec (id n : Nat) : (s.consSet id n).sec = s.sec := rfl
@[simp] theorem State.consSet_vid (id n : Nat) : (s.consSet id n).vid = s.vid := rfl
@[simp] theorem State.consSet_mbx (id n : Nat) : (s.consSet id n).mbx = s.mbx := rfl
@[simp] theorem State.consSet_lnk (id n : Nat) : (s.consSet id n).lnk = s.lnk := rfl
@[simp] theorem State.consSet_ctl (id n : Nat) : (s.consSet id n).ctl = s.ctl := rfl
@[simp] theorem State.consSet_clk (id n : Nat) : (s.consSet id n).clk = s.clk := rfl
@[simp] theorem State.consSet_pwr (id n : Nat) : (s.consSet id n).pwr = s.pwr := rfl
@[simp] theorem State.consSet_settings (id n : Nat) : (s.consSet id n).settings = s.settings := rfl
@[simp] theorem State.consSet_settingsPrev (id n : Nat) : (s.consSet id n).settingsPrev = s.settingsPrev := rfl
@[simp] theorem State.consSet_board (id n : Nat) : (s.consSet id n).board = s.board := rfl

/-! ### lifetime -/
@[simp] theorem State.lifetime_pending (k : Nat) (p : List Nat) : (s.lifetime k p).pending = s.pending := rfl
@[simp] theorem State.lifetime_time (k : Nat) (p : List Nat) : (s.lifetime k p).time = s.time := rfl
@[simp] theorem State.lifetime_fresh (k : Nat) (p : List Nat) : (s.lifetime k p).fresh = s.fresh := rfl
@[simp] theorem State.lifetime_glb (k : Nat) (p : List Nat) : (s.lifetime k p).glb = s.glb := rfl
@[simp] theorem State.lifetime_peg (k : Nat) (p : List Nat) : (s.lifetime k p).peg = s.peg := rfl
@[simp] theorem State.lifetime_host (k : Nat) (p : List Nat) : (s.lifetime k p).host = s.host := rfl
@[simp] theorem State.lifetime_ctxs (k : Nat) (p : List Nat) : (s.lifetime k p).ctxs = s.ctxs := rfl
@[simp] theorem State.lifetime_kvp (k : Nat) (p : List Nat) : (s.lifetime k p).kvp = s.kvp := rfl
@[simp] theorem State.lifetime_arr (k : Nat) (p : List Nat) : (s.lifetime k p).arr = s.arr := rfl
@[simp] theorem State.lifetime_atn (k : Nat) (p : List Nat) : (s.lifetime k p).atn = s.atn := rfl
@[simp] theorem State.lifetime_dpp (k : Nat) (p : List Nat) : (s.lifetime k p).dpp = s.dpp := rfl
@[simp] theorem State.lifetime_tsu (k : Nat) (p : List Nat) : (s.lifetime k p).tsu = s.tsu := rfl
@[simp] theorem State.lifetime_mem (k : Nat) (p : List Nat) : (s.lifetime k p).mem = s.mem := rfl
@[simp] theorem State.lifetime_dma (k : Nat) (p : List Nat) : (s.lifetime k p).dma = s.dma := rfl
@[simp] theorem State.lifetime_drn (k : Nat) (p : List Nat) : (s.lifetime k p).drn = s.drn := rfl
@[simp] theorem State.lifetime_sec (k : Nat) (p : List Nat) : (s.lifetime k p).sec = s.sec := rfl
@[simp] theorem State.lifetime_vid (k : Nat) (p : List Nat) : (s.lifetime k p).vid = s.vid := rfl
@[simp] theorem State.lifetime_mbx (k : Nat) (p : List Nat) : (s.lifetime k p).mbx = s.mbx := rfl
@[simp] theorem State.lifetime_lnk (k : Nat) (p : List Nat) : (s.lifetime k p).lnk = s.lnk := rfl
@[simp] theorem State.lifetime_ctl (k : Nat) (p : List Nat) : (s.lifetime k p).ctl = s.ctl := rfl
@[simp] theorem State.lifetime_clk (k : Nat) (p : List Nat) : (s.lifetime k p).clk = s.clk := rfl
@[simp] theorem State.lifetime_pwr (k : Nat) (p : List Nat) : (s.lifetime k p).pwr = s.pwr := rfl
@[simp] theorem State.lifetime_settings (k : Nat) (p : List Nat) : (s.lifetime k p).settings = s.settings := rfl
@[simp] theorem State.lifetime_settingsPrev (k : Nat) (p : List Nat) : (s.lifetime k p).settingsPrev = s.settingsPrev := rfl
@[simp] theorem State.lifetime_board (k : Nat) (p : List Nat) : (s.lifetime k p).board = s.board := rfl

/-! ### bumpBy -/
@[simp] theorem State.bumpBy_pending (off n : Nat) : (s.bumpBy off n).pending = s.pending := by
  unfold State.bumpBy; dsimp only; split <;> rfl
@[simp] theorem State.bumpBy_time (off n : Nat) : (s.bumpBy off n).time = s.time := by
  unfold State.bumpBy; dsimp only; split <;> rfl
@[simp] theorem State.bumpBy_fresh (off n : Nat) : (s.bumpBy off n).fresh = s.fresh := by
  unfold State.bumpBy; dsimp only; split <;> rfl
@[simp] theorem State.bumpBy_glb (off n : Nat) : (s.bumpBy off n).glb = s.glb := by
  unfold State.bumpBy; dsimp only; split <;> rfl
@[simp] theorem State.bumpBy_peg (off n : Nat) : (s.bumpBy off n).peg = s.peg := by
  unfold State.bumpBy; dsimp only; split <;> rfl
@[simp] theorem State.bumpBy_host (off n : Nat) : (s.bumpBy off n).host = s.host := by
  unfold State.bumpBy; dsimp only; split <;> rfl
@[simp] theorem State.bumpBy_ctxs (off n : Nat) : (s.bumpBy off n).ctxs = s.ctxs := by
  unfold State.bumpBy; dsimp only; split <;> rfl
@[simp] theorem State.bumpBy_kvp (off n : Nat) : (s.bumpBy off n).kvp = s.kvp := by
  unfold State.bumpBy; dsimp only; split <;> rfl
@[simp] theorem State.bumpBy_arr (off n : Nat) : (s.bumpBy off n).arr = s.arr := by
  unfold State.bumpBy; dsimp only; split <;> rfl
@[simp] theorem State.bumpBy_atn (off n : Nat) : (s.bumpBy off n).atn = s.atn := by
  unfold State.bumpBy; dsimp only; split <;> rfl
@[simp] theorem State.bumpBy_dpp (off n : Nat) : (s.bumpBy off n).dpp = s.dpp := by
  unfold State.bumpBy; dsimp only; split <;> rfl
@[simp] theorem State.bumpBy_tsu (off n : Nat) : (s.bumpBy off n).tsu = s.tsu := by
  unfold State.bumpBy; dsimp only; split <;> rfl
@[simp] theorem State.bumpBy_mem (off n : Nat) : (s.bumpBy off n).mem = s.mem := by
  unfold State.bumpBy; dsimp only; split <;> rfl
@[simp] theorem State.bumpBy_dma (off n : Nat) : (s.bumpBy off n).dma = s.dma := by
  unfold State.bumpBy; dsimp only; split <;> rfl
@[simp] theorem State.bumpBy_drn (off n : Nat) : (s.bumpBy off n).drn = s.drn := by
  unfold State.bumpBy; dsimp only; split <;> rfl
@[simp] theorem State.bumpBy_sec (off n : Nat) : (s.bumpBy off n).sec = s.sec := by
  unfold State.bumpBy; dsimp only; split <;> rfl
@[simp] theorem State.bumpBy_vid (off n : Nat) : (s.bumpBy off n).vid = s.vid := by
  unfold State.bumpBy; dsimp only; split <;> rfl
@[simp] theorem State.bumpBy_mbx (off n : Nat) : (s.bumpBy off n).mbx = s.mbx := by
  unfold State.bumpBy; dsimp only; split <;> rfl
@[simp] theorem State.bumpBy_lnk (off n : Nat) : (s.bumpBy off n).lnk = s.lnk := by
  unfold State.bumpBy; dsimp only; split <;> rfl
@[simp] theorem State.bumpBy_ctl (off n : Nat) : (s.bumpBy off n).ctl = s.ctl := by
  unfold State.bumpBy; dsimp only; split <;> rfl
@[simp] theorem State.bumpBy_clk (off n : Nat) : (s.bumpBy off n).clk = s.clk := by
  unfold State.bumpBy; dsimp only; split <;> rfl
@[simp] theorem State.bumpBy_pwr (off n : Nat) : (s.bumpBy off n).pwr = s.pwr := by
  unfold State.bumpBy; dsimp only; split <;> rfl
@[simp] theorem State.bumpBy_settings (off n : Nat) : (s.bumpBy off n).settings = s.settings := by
  unfold State.bumpBy; dsimp only; split <;> rfl
@[simp] theorem State.bumpBy_settingsPrev (off n : Nat) : (s.bumpBy off n).settingsPrev = s.settingsPrev := by
  unfold State.bumpBy; dsimp only; split <;> rfl
@[simp] theorem State.bumpBy_board (off n : Nat) : (s.bumpBy off n).board = s.board := by
  unfold State.bumpBy; dsimp only; split <;> rfl

/-! ### bump -/
@[simp] theorem State.bump_pending (off : Nat) : (s.bump off).pending = s.pending := s.bumpBy_pending off 1
@[simp] theorem State.bump_time (off : Nat) : (s.bump off).time = s.time := s.bumpBy_time off 1
@[simp] theorem State.bump_fresh (off : Nat) : (s.bump off).fresh = s.fresh := s.bumpBy_fresh off 1
@[simp] theorem State.bump_glb (off : Nat) : (s.bump off).glb = s.glb := s.bumpBy_glb off 1
@[simp] theorem State.bump_peg (off : Nat) : (s.bump off).peg = s.peg := s.bumpBy_peg off 1
@[simp] theorem State.bump_host (off : Nat) : (s.bump off).host = s.host := s.bumpBy_host off 1
@[simp] theorem State.bump_ctxs (off : Nat) : (s.bump off).ctxs = s.ctxs := s.bumpBy_ctxs off 1
@[simp] theorem State.bump_kvp (off : Nat) : (s.bump off).kvp = s.kvp := s.bumpBy_kvp off 1
@[simp] theorem State.bump_arr (off : Nat) : (s.bump off).arr = s.arr := s.bumpBy_arr off 1
@[simp] theorem State.bump_atn (off : Nat) : (s.bump off).atn = s.atn := s.bumpBy_atn off 1
@[simp] theorem State.bump_dpp (off : Nat) : (s.bump off).dpp = s.dpp := s.bumpBy_dpp off 1
@[simp] theorem State.bump_tsu (off : Nat) : (s.bump off).tsu = s.tsu := s.bumpBy_tsu off 1
@[simp] theorem State.bump_mem (off : Nat) : (s.bump off).mem = s.mem := s.bumpBy_mem off 1
@[simp] theorem State.bump_dma (off : Nat) : (s.bump off).dma = s.dma := s.bumpBy_dma off 1
@[simp] theorem State.bump_drn (off : Nat) : (s.bump off).drn = s.drn := s.bumpBy_drn off 1
@[simp] theorem State.bump_sec (off : Nat) : (s.bump off).sec = s.sec := s.bumpBy_sec off 1
@[simp] theorem State.bump_vid (off : Nat) : (s.bump off).vid = s.vid := s.bumpBy_vid off 1
@[simp] theorem State.bump_mbx (off : Nat) : (s.bump off).mbx = s.mbx := s.bumpBy_mbx off 1
@[simp] theorem State.bump_lnk (off : Nat) : (s.bump off).lnk = s.lnk := s.bumpBy_lnk off 1
@[simp] theorem State.bump_ctl (off : Nat) : (s.bump off).ctl = s.ctl := s.bumpBy_ctl off 1
@[simp] theorem State.bump_clk (off : Nat) : (s.bump off).clk = s.clk := s.bumpBy_clk off 1
@[simp] theorem State.bump_pwr (off : Nat) : (s.bump off).pwr = s.pwr := s.bumpBy_pwr off 1
@[simp] theorem State.bump_settings (off : Nat) : (s.bump off).settings = s.settings := s.bumpBy_settings off 1
@[simp] theorem State.bump_settingsPrev (off : Nat) : (s.bump off).settingsPrev = s.settingsPrev := s.bumpBy_settingsPrev off 1
@[simp] theorem State.bump_board (off : Nat) : (s.bump off).board = s.board := s.bumpBy_board off 1

/-! ### sample -/
@[simp] theorem State.sample_pending (h v : Nat) : (s.sample h v).pending = s.pending := rfl
@[simp] theorem State.sample_time (h v : Nat) : (s.sample h v).time = s.time := rfl
@[simp] theorem State.sample_fresh (h v : Nat) : (s.sample h v).fresh = s.fresh := rfl
@[simp] theorem State.sample_glb (h v : Nat) : (s.sample h v).glb = s.glb := rfl
@[simp] theorem State.sample_peg (h v : Nat) : (s.sample h v).peg = s.peg := rfl
@[simp] theorem State.sample_host (h v : Nat) : (s.sample h v).host = s.host := rfl
@[simp] theorem State.sample_ctxs (h v : Nat) : (s.sample h v).ctxs = s.ctxs := rfl
@[simp] theorem State.sample_kvp (h v : Nat) : (s.sample h v).kvp = s.kvp := rfl
@[simp] theorem State.sample_arr (h v : Nat) : (s.sample h v).arr = s.arr := rfl
@[simp] theorem State.sample_atn (h v : Nat) : (s.sample h v).atn = s.atn := rfl
@[simp] theorem State.sample_dpp (h v : Nat) : (s.sample h v).dpp = s.dpp := rfl
@[simp] theorem State.sample_tsu (h v : Nat) : (s.sample h v).tsu = s.tsu := rfl
@[simp] theorem State.sample_mem (h v : Nat) : (s.sample h v).mem = s.mem := rfl
@[simp] theorem State.sample_dma (h v : Nat) : (s.sample h v).dma = s.dma := rfl
@[simp] theorem State.sample_drn (h v : Nat) : (s.sample h v).drn = s.drn := rfl
@[simp] theorem State.sample_sec (h v : Nat) : (s.sample h v).sec = s.sec := rfl
@[simp] theorem State.sample_vid (h v : Nat) : (s.sample h v).vid = s.vid := rfl
@[simp] theorem State.sample_mbx (h v : Nat) : (s.sample h v).mbx = s.mbx := rfl
@[simp] theorem State.sample_lnk (h v : Nat) : (s.sample h v).lnk = s.lnk := rfl
@[simp] theorem State.sample_ctl (h v : Nat) : (s.sample h v).ctl = s.ctl := rfl
@[simp] theorem State.sample_clk (h v : Nat) : (s.sample h v).clk = s.clk := rfl
@[simp] theorem State.sample_pwr (h v : Nat) : (s.sample h v).pwr = s.pwr := rfl
@[simp] theorem State.sample_settings (h v : Nat) : (s.sample h v).settings = s.settings := rfl
@[simp] theorem State.sample_settingsPrev (h v : Nat) : (s.sample h v).settingsPrev = s.settingsPrev := rfl
@[simp] theorem State.sample_board (h v : Nat) : (s.sample h v).board = s.board := rfl

/-! ### doorbell -/
@[simp] theorem State.doorbell_pending (f j : Nat) : (s.doorbell f j).pending = s.pending := by
  unfold State.doorbell; dsimp only; split
  · rfl
  · split <;> rfl
@[simp] theorem State.doorbell_time (f j : Nat) : (s.doorbell f j).time = s.time := by
  unfold State.doorbell; dsimp only; split
  · rfl
  · split <;> rfl
@[simp] theorem State.doorbell_fresh (f j : Nat) : (s.doorbell f j).fresh = s.fresh := by
  unfold State.doorbell; dsimp only; split
  · rfl
  · split <;> rfl
@[simp] theorem State.doorbell_glb (f j : Nat) : (s.doorbell f j).glb = s.glb := by
  unfold State.doorbell; dsimp only; split
  · rfl
  · split <;> rfl
@[simp] theorem State.doorbell_peg (f j : Nat) : (s.doorbell f j).peg = s.peg := by
  unfold State.doorbell; dsimp only; split
  · rfl
  · split <;> rfl
@[simp] theorem State.doorbell_ctxs (f j : Nat) : (s.doorbell f j).ctxs = s.ctxs := by
  unfold State.doorbell; dsimp only; split
  · rfl
  · split <;> rfl
@[simp] theorem State.doorbell_kvp (f j : Nat) : (s.doorbell f j).kvp = s.kvp := by
  unfold State.doorbell; dsimp only; split
  · rfl
  · split <;> rfl
@[simp] theorem State.doorbell_arr (f j : Nat) : (s.doorbell f j).arr = s.arr := by
  unfold State.doorbell; dsimp only; split
  · rfl
  · split <;> rfl
@[simp] theorem State.doorbell_atn (f j : Nat) : (s.doorbell f j).atn = s.atn := by
  unfold State.doorbell; dsimp only; split
  · rfl
  · split <;> rfl
@[simp] theorem State.doorbell_dpp (f j : Nat) : (s.doorbell f j).dpp = s.dpp := by
  unfold State.doorbell; dsimp only; split
  · rfl
  · split <;> rfl
@[simp] theorem State.doorbell_tsu (f j : Nat) : (s.doorbell f j).tsu = s.tsu := by
  unfold State.doorbell; dsimp only; split
  · rfl
  · split <;> rfl
@[simp] theorem State.doorbell_mem (f j : Nat) : (s.doorbell f j).mem = s.mem := by
  unfold State.doorbell; dsimp only; split
  · rfl
  · split <;> rfl
@[simp] theorem State.doorbell_dma (f j : Nat) : (s.doorbell f j).dma = s.dma := by
  unfold State.doorbell; dsimp only; split
  · rfl
  · split <;> rfl
@[simp] theorem State.doorbell_drn (f j : Nat) : (s.doorbell f j).drn = s.drn := by
  unfold State.doorbell; dsimp only; split
  · rfl
  · split <;> rfl
@[simp] theorem State.doorbell_sec (f j : Nat) : (s.doorbell f j).sec = s.sec := by
  unfold State.doorbell; dsimp only; split
  · rfl
  · split <;> rfl
@[simp] theorem State.doorbell_vid (f j : Nat) : (s.doorbell f j).vid = s.vid := by
  unfold State.doorbell; dsimp only; split
  · rfl
  · split <;> rfl
@[simp] theorem State.doorbell_mbx (f j : Nat) : (s.doorbell f j).mbx = s.mbx := by
  unfold State.doorbell; dsimp only; split
  · rfl
  · split <;> rfl
@[simp] theorem State.doorbell_lnk (f j : Nat) : (s.doorbell f j).lnk = s.lnk := by
  unfold State.doorbell; dsimp only; split
  · rfl
  · split <;> rfl
@[simp] theorem State.doorbell_ctl (f j : Nat) : (s.doorbell f j).ctl = s.ctl := by
  unfold State.doorbell; dsimp only; split
  · rfl
  · split <;> rfl
@[simp] theorem State.doorbell_clk (f j : Nat) : (s.doorbell f j).clk = s.clk := by
  unfold State.doorbell; dsimp only; split
  · rfl
  · split <;> rfl
@[simp] theorem State.doorbell_pwr (f j : Nat) : (s.doorbell f j).pwr = s.pwr := by
  unfold State.doorbell; dsimp only; split
  · rfl
  · split <;> rfl
@[simp] theorem State.doorbell_settings (f j : Nat) : (s.doorbell f j).settings = s.settings := by
  unfold State.doorbell; dsimp only; split
  · rfl
  · split <;> rfl
@[simp] theorem State.doorbell_settingsPrev (f j : Nat) : (s.doorbell f j).settingsPrev = s.settingsPrev := by
  unfold State.doorbell; dsimp only; split
  · rfl
  · split <;> rfl
@[simp] theorem State.doorbell_tel (f j : Nat) : (s.doorbell f j).tel = s.tel := by
  unfold State.doorbell; dsimp only; split
  · rfl
  · split <;> rfl
@[simp] theorem State.doorbell_board (f j : Nat) : (s.doorbell f j).board = s.board := by
  unfold State.doorbell; dsimp only; split
  · rfl
  · split <;> rfl

/-! ### answer -/
@[simp] theorem State.answer_pending (v : Nat) : (s.answer v).pending = s.pending := rfl
@[simp] theorem State.answer_time (v : Nat) : (s.answer v).time = s.time := rfl
@[simp] theorem State.answer_fresh (v : Nat) : (s.answer v).fresh = s.fresh := rfl
@[simp] theorem State.answer_glb (v : Nat) : (s.answer v).glb = s.glb := rfl
@[simp] theorem State.answer_peg (v : Nat) : (s.answer v).peg = s.peg := rfl
@[simp] theorem State.answer_ctxs (v : Nat) : (s.answer v).ctxs = s.ctxs := rfl
@[simp] theorem State.answer_kvp (v : Nat) : (s.answer v).kvp = s.kvp := rfl
@[simp] theorem State.answer_arr (v : Nat) : (s.answer v).arr = s.arr := rfl
@[simp] theorem State.answer_atn (v : Nat) : (s.answer v).atn = s.atn := rfl
@[simp] theorem State.answer_dpp (v : Nat) : (s.answer v).dpp = s.dpp := rfl
@[simp] theorem State.answer_tsu (v : Nat) : (s.answer v).tsu = s.tsu := rfl
@[simp] theorem State.answer_mem (v : Nat) : (s.answer v).mem = s.mem := rfl
@[simp] theorem State.answer_dma (v : Nat) : (s.answer v).dma = s.dma := rfl
@[simp] theorem State.answer_drn (v : Nat) : (s.answer v).drn = s.drn := rfl
@[simp] theorem State.answer_sec (v : Nat) : (s.answer v).sec = s.sec := rfl
@[simp] theorem State.answer_vid (v : Nat) : (s.answer v).vid = s.vid := rfl
@[simp] theorem State.answer_mbx (v : Nat) : (s.answer v).mbx = s.mbx := rfl
@[simp] theorem State.answer_lnk (v : Nat) : (s.answer v).lnk = s.lnk := rfl
@[simp] theorem State.answer_ctl (v : Nat) : (s.answer v).ctl = s.ctl := rfl
@[simp] theorem State.answer_clk (v : Nat) : (s.answer v).clk = s.clk := rfl
@[simp] theorem State.answer_pwr (v : Nat) : (s.answer v).pwr = s.pwr := rfl
@[simp] theorem State.answer_settings (v : Nat) : (s.answer v).settings = s.settings := rfl
@[simp] theorem State.answer_settingsPrev (v : Nat) : (s.answer v).settingsPrev = s.settingsPrev := rfl
@[simp] theorem State.answer_tel (v : Nat) : (s.answer v).tel = s.tel := rfl
@[simp] theorem State.answer_board (v : Nat) : (s.answer v).board = s.board := rfl

/-! ### hostPut -/
@[simp] theorem State.hostPut_pending (f a : Nat) (bs : List Byte) : (s.hostPut f a bs).pending = s.pending := rfl
@[simp] theorem State.hostPut_time (f a : Nat) (bs : List Byte) : (s.hostPut f a bs).time = s.time := rfl
@[simp] theorem State.hostPut_fresh (f a : Nat) (bs : List Byte) : (s.hostPut f a bs).fresh = s.fresh := rfl
@[simp] theorem State.hostPut_glb (f a : Nat) (bs : List Byte) : (s.hostPut f a bs).glb = s.glb := rfl
@[simp] theorem State.hostPut_peg (f a : Nat) (bs : List Byte) : (s.hostPut f a bs).peg = s.peg := rfl
@[simp] theorem State.hostPut_ctxs (f a : Nat) (bs : List Byte) : (s.hostPut f a bs).ctxs = s.ctxs := rfl
@[simp] theorem State.hostPut_kvp (f a : Nat) (bs : List Byte) : (s.hostPut f a bs).kvp = s.kvp := rfl
@[simp] theorem State.hostPut_arr (f a : Nat) (bs : List Byte) : (s.hostPut f a bs).arr = s.arr := rfl
@[simp] theorem State.hostPut_atn (f a : Nat) (bs : List Byte) : (s.hostPut f a bs).atn = s.atn := rfl
@[simp] theorem State.hostPut_dpp (f a : Nat) (bs : List Byte) : (s.hostPut f a bs).dpp = s.dpp := rfl
@[simp] theorem State.hostPut_tsu (f a : Nat) (bs : List Byte) : (s.hostPut f a bs).tsu = s.tsu := rfl
@[simp] theorem State.hostPut_mem (f a : Nat) (bs : List Byte) : (s.hostPut f a bs).mem = s.mem := rfl
@[simp] theorem State.hostPut_dma (f a : Nat) (bs : List Byte) : (s.hostPut f a bs).dma = s.dma := rfl
@[simp] theorem State.hostPut_drn (f a : Nat) (bs : List Byte) : (s.hostPut f a bs).drn = s.drn := rfl
@[simp] theorem State.hostPut_sec (f a : Nat) (bs : List Byte) : (s.hostPut f a bs).sec = s.sec := rfl
@[simp] theorem State.hostPut_vid (f a : Nat) (bs : List Byte) : (s.hostPut f a bs).vid = s.vid := rfl
@[simp] theorem State.hostPut_mbx (f a : Nat) (bs : List Byte) : (s.hostPut f a bs).mbx = s.mbx := rfl
@[simp] theorem State.hostPut_lnk (f a : Nat) (bs : List Byte) : (s.hostPut f a bs).lnk = s.lnk := rfl
@[simp] theorem State.hostPut_ctl (f a : Nat) (bs : List Byte) : (s.hostPut f a bs).ctl = s.ctl := rfl
@[simp] theorem State.hostPut_clk (f a : Nat) (bs : List Byte) : (s.hostPut f a bs).clk = s.clk := rfl
@[simp] theorem State.hostPut_pwr (f a : Nat) (bs : List Byte) : (s.hostPut f a bs).pwr = s.pwr := rfl
@[simp] theorem State.hostPut_settings (f a : Nat) (bs : List Byte) : (s.hostPut f a bs).settings = s.settings := rfl
@[simp] theorem State.hostPut_settingsPrev (f a : Nat) (bs : List Byte) : (s.hostPut f a bs).settingsPrev = s.settingsPrev := rfl
@[simp] theorem State.hostPut_tel (f a : Nat) (bs : List Byte) : (s.hostPut f a bs).tel = s.tel := rfl
@[simp] theorem State.hostPut_board (f a : Nat) (bs : List Byte) : (s.hostPut f a bs).board = s.board := rfl

/-! ### sendPending -/
@[simp] theorem State.sendPending_pending (f : Nat) (b : Word) : (s.sendPending f b).pending = s.pending := by
  refine foldS_keeps _ (fun t => t.pending) _ _ fun t a => ?_
  split <;> rfl
@[simp] theorem State.sendPending_time (f : Nat) (b : Word) : (s.sendPending f b).time = s.time := by
  refine foldS_keeps _ (fun t => t.time) _ _ fun t a => ?_
  split <;> rfl
@[simp] theorem State.sendPending_fresh (f : Nat) (b : Word) : (s.sendPending f b).fresh = s.fresh := by
  refine foldS_keeps _ (fun t => t.fresh) _ _ fun t a => ?_
  split <;> rfl
@[simp] theorem State.sendPending_glb (f : Nat) (b : Word) : (s.sendPending f b).glb = s.glb := by
  refine foldS_keeps _ (fun t => t.glb) _ _ fun t a => ?_
  split <;> rfl
@[simp] theorem State.sendPending_peg (f : Nat) (b : Word) : (s.sendPending f b).peg = s.peg := by
  refine foldS_keeps _ (fun t => t.peg) _ _ fun t a => ?_
  split <;> rfl
@[simp] theorem State.sendPending_ctxs (f : Nat) (b : Word) : (s.sendPending f b).ctxs = s.ctxs := by
  refine foldS_keeps _ (fun t => t.ctxs) _ _ fun t a => ?_
  split <;> rfl
@[simp] theorem State.sendPending_kvp (f : Nat) (b : Word) : (s.sendPending f b).kvp = s.kvp := by
  refine foldS_keeps _ (fun t => t.kvp) _ _ fun t a => ?_
  split <;> rfl
@[simp] theorem State.sendPending_arr (f : Nat) (b : Word) : (s.sendPending f b).arr = s.arr := by
  refine foldS_keeps _ (fun t => t.arr) _ _ fun t a => ?_
  split <;> rfl
@[simp] theorem State.sendPending_atn (f : Nat) (b : Word) : (s.sendPending f b).atn = s.atn := by
  refine foldS_keeps _ (fun t => t.atn) _ _ fun t a => ?_
  split <;> rfl
@[simp] theorem State.sendPending_dpp (f : Nat) (b : Word) : (s.sendPending f b).dpp = s.dpp := by
  refine foldS_keeps _ (fun t => t.dpp) _ _ fun t a => ?_
  split <;> rfl
@[simp] theorem State.sendPending_tsu (f : Nat) (b : Word) : (s.sendPending f b).tsu = s.tsu := by
  refine foldS_keeps _ (fun t => t.tsu) _ _ fun t a => ?_
  split <;> rfl
@[simp] theorem State.sendPending_mem (f : Nat) (b : Word) : (s.sendPending f b).mem = s.mem := by
  refine foldS_keeps _ (fun t => t.mem) _ _ fun t a => ?_
  split <;> rfl
@[simp] theorem State.sendPending_dma (f : Nat) (b : Word) : (s.sendPending f b).dma = s.dma := by
  refine foldS_keeps _ (fun t => t.dma) _ _ fun t a => ?_
  split <;> rfl
@[simp] theorem State.sendPending_drn (f : Nat) (b : Word) : (s.sendPending f b).drn = s.drn := by
  refine foldS_keeps _ (fun t => t.drn) _ _ fun t a => ?_
  split <;> rfl
@[simp] theorem State.sendPending_sec (f : Nat) (b : Word) : (s.sendPending f b).sec = s.sec := by
  refine foldS_keeps _ (fun t => t.sec) _ _ fun t a => ?_
  split <;> rfl
@[simp] theorem State.sendPending_vid (f : Nat) (b : Word) : (s.sendPending f b).vid = s.vid := by
  refine foldS_keeps _ (fun t => t.vid) _ _ fun t a => ?_
  split <;> rfl
@[simp] theorem State.sendPending_mbx (f : Nat) (b : Word) : (s.sendPending f b).mbx = s.mbx := by
  refine foldS_keeps _ (fun t => t.mbx) _ _ fun t a => ?_
  split <;> rfl
@[simp] theorem State.sendPending_lnk (f : Nat) (b : Word) : (s.sendPending f b).lnk = s.lnk := by
  refine foldS_keeps _ (fun t => t.lnk) _ _ fun t a => ?_
  split <;> rfl
@[simp] theorem State.sendPending_ctl (f : Nat) (b : Word) : (s.sendPending f b).ctl = s.ctl := by
  refine foldS_keeps _ (fun t => t.ctl) _ _ fun t a => ?_
  split <;> rfl
@[simp] theorem State.sendPending_clk (f : Nat) (b : Word) : (s.sendPending f b).clk = s.clk := by
  refine foldS_keeps _ (fun t => t.clk) _ _ fun t a => ?_
  split <;> rfl
@[simp] theorem State.sendPending_pwr (f : Nat) (b : Word) : (s.sendPending f b).pwr = s.pwr := by
  refine foldS_keeps _ (fun t => t.pwr) _ _ fun t a => ?_
  split <;> rfl
@[simp] theorem State.sendPending_settings (f : Nat) (b : Word) : (s.sendPending f b).settings = s.settings := by
  refine foldS_keeps _ (fun t => t.settings) _ _ fun t a => ?_
  split <;> rfl
@[simp] theorem State.sendPending_settingsPrev (f : Nat) (b : Word) : (s.sendPending f b).settingsPrev = s.settingsPrev := by
  refine foldS_keeps _ (fun t => t.settingsPrev) _ _ fun t a => ?_
  split <;> rfl
@[simp] theorem State.sendPending_tel (f : Nat) (b : Word) : (s.sendPending f b).tel = s.tel := by
  refine foldS_keeps _ (fun t => t.tel) _ _ fun t a => ?_
  split <;> rfl
@[simp] theorem State.sendPending_board (f : Nat) (b : Word) : (s.sendPending f b).board = s.board := by
  refine foldS_keeps _ (fun t => t.board) _ _ fun t a => ?_
  split <;> rfl

/-! ### takeEntry -/
@[simp] theorem State.takeEntry_pending (f n : Nat) : (s.takeEntry f n).pending = s.pending := by
  unfold State.takeEntry; split <;> rfl
@[simp] theorem State.takeEntry_time (f n : Nat) : (s.takeEntry f n).time = s.time := by
  unfold State.takeEntry; split <;> rfl
@[simp] theorem State.takeEntry_fresh (f n : Nat) : (s.takeEntry f n).fresh = s.fresh := by
  unfold State.takeEntry; split <;> rfl
@[simp] theorem State.takeEntry_glb (f n : Nat) : (s.takeEntry f n).glb = s.glb := by
  unfold State.takeEntry; split <;> rfl
@[simp] theorem State.takeEntry_peg (f n : Nat) : (s.takeEntry f n).peg = s.peg := by
  unfold State.takeEntry; split <;> rfl
@[simp] theorem State.takeEntry_ctxs (f n : Nat) : (s.takeEntry f n).ctxs = s.ctxs := by
  unfold State.takeEntry; split <;> rfl
@[simp] theorem State.takeEntry_kvp (f n : Nat) : (s.takeEntry f n).kvp = s.kvp := by
  unfold State.takeEntry; split <;> rfl
@[simp] theorem State.takeEntry_arr (f n : Nat) : (s.takeEntry f n).arr = s.arr := by
  unfold State.takeEntry; split <;> rfl
@[simp] theorem State.takeEntry_atn (f n : Nat) : (s.takeEntry f n).atn = s.atn := by
  unfold State.takeEntry; split <;> rfl
@[simp] theorem State.takeEntry_dpp (f n : Nat) : (s.takeEntry f n).dpp = s.dpp := by
  unfold State.takeEntry; split <;> rfl
@[simp] theorem State.takeEntry_tsu (f n : Nat) : (s.takeEntry f n).tsu = s.tsu := by
  unfold State.takeEntry; split <;> rfl
@[simp] theorem State.takeEntry_mem (f n : Nat) : (s.takeEntry f n).mem = s.mem := by
  unfold State.takeEntry; split <;> rfl
@[simp] theorem State.takeEntry_dma (f n : Nat) : (s.takeEntry f n).dma = s.dma := by
  unfold State.takeEntry; split <;> rfl
@[simp] theorem State.takeEntry_drn (f n : Nat) : (s.takeEntry f n).drn = s.drn := by
  unfold State.takeEntry; split <;> rfl
@[simp] theorem State.takeEntry_sec (f n : Nat) : (s.takeEntry f n).sec = s.sec := by
  unfold State.takeEntry; split <;> rfl
@[simp] theorem State.takeEntry_vid (f n : Nat) : (s.takeEntry f n).vid = s.vid := by
  unfold State.takeEntry; split <;> rfl
@[simp] theorem State.takeEntry_mbx (f n : Nat) : (s.takeEntry f n).mbx = s.mbx := by
  unfold State.takeEntry; split <;> rfl
@[simp] theorem State.takeEntry_lnk (f n : Nat) : (s.takeEntry f n).lnk = s.lnk := by
  unfold State.takeEntry; split <;> rfl
@[simp] theorem State.takeEntry_ctl (f n : Nat) : (s.takeEntry f n).ctl = s.ctl := by
  unfold State.takeEntry; split <;> rfl
@[simp] theorem State.takeEntry_clk (f n : Nat) : (s.takeEntry f n).clk = s.clk := by
  unfold State.takeEntry; split <;> rfl
@[simp] theorem State.takeEntry_pwr (f n : Nat) : (s.takeEntry f n).pwr = s.pwr := by
  unfold State.takeEntry; split <;> rfl
@[simp] theorem State.takeEntry_settings (f n : Nat) : (s.takeEntry f n).settings = s.settings := by
  unfold State.takeEntry; split <;> rfl
@[simp] theorem State.takeEntry_settingsPrev (f n : Nat) : (s.takeEntry f n).settingsPrev = s.settingsPrev := by
  unfold State.takeEntry; split <;> rfl
@[simp] theorem State.takeEntry_tel (f n : Nat) : (s.takeEntry f n).tel = s.tel := by
  unfold State.takeEntry; split <;> rfl
@[simp] theorem State.takeEntry_board (f n : Nat) : (s.takeEntry f n).board = s.board := by
  unfold State.takeEntry; split <;> rfl

/-! ### writeEntry -/
@[simp] theorem State.writeEntry_pending (f n : Nat) (c : Completion) (q : Bool) : (s.writeEntry f n c q).pending = s.pending := by
  unfold State.writeEntry; dsimp only; split
  · rfl
  · split
    · simp
    · split <;> simp
@[simp] theorem State.writeEntry_time (f n : Nat) (c : Completion) (q : Bool) : (s.writeEntry f n c q).time = s.time := by
  unfold State.writeEntry; dsimp only; split
  · rfl
  · split
    · simp
    · split <;> simp
@[simp] theorem State.writeEntry_fresh (f n : Nat) (c : Completion) (q : Bool) : (s.writeEntry f n c q).fresh = s.fresh := by
  unfold State.writeEntry; dsimp only; split
  · rfl
  · split
    · simp
    · split <;> simp
@[simp] theorem State.writeEntry_glb (f n : Nat) (c : Completion) (q : Bool) : (s.writeEntry f n c q).glb = s.glb := by
  unfold State.writeEntry; dsimp only; split
  · rfl
  · split
    · simp
    · split <;> simp
@[simp] theorem State.writeEntry_peg (f n : Nat) (c : Completion) (q : Bool) : (s.writeEntry f n c q).peg = s.peg := by
  unfold State.writeEntry; dsimp only; split
  · rfl
  · split
    · simp
    · split <;> simp
@[simp] theorem State.writeEntry_ctxs (f n : Nat) (c : Completion) (q : Bool) : (s.writeEntry f n c q).ctxs = s.ctxs := by
  unfold State.writeEntry; dsimp only; split
  · rfl
  · split
    · simp
    · split <;> simp
@[simp] theorem State.writeEntry_kvp (f n : Nat) (c : Completion) (q : Bool) : (s.writeEntry f n c q).kvp = s.kvp := by
  unfold State.writeEntry; dsimp only; split
  · rfl
  · split
    · simp
    · split <;> simp
@[simp] theorem State.writeEntry_arr (f n : Nat) (c : Completion) (q : Bool) : (s.writeEntry f n c q).arr = s.arr := by
  unfold State.writeEntry; dsimp only; split
  · rfl
  · split
    · simp
    · split <;> simp
@[simp] theorem State.writeEntry_atn (f n : Nat) (c : Completion) (q : Bool) : (s.writeEntry f n c q).atn = s.atn := by
  unfold State.writeEntry; dsimp only; split
  · rfl
  · split
    · simp
    · split <;> simp
@[simp] theorem State.writeEntry_dpp (f n : Nat) (c : Completion) (q : Bool) : (s.writeEntry f n c q).dpp = s.dpp := by
  unfold State.writeEntry; dsimp only; split
  · rfl
  · split
    · simp
    · split <;> simp
@[simp] theorem State.writeEntry_tsu (f n : Nat) (c : Completion) (q : Bool) : (s.writeEntry f n c q).tsu = s.tsu := by
  unfold State.writeEntry; dsimp only; split
  · rfl
  · split
    · simp
    · split <;> simp
@[simp] theorem State.writeEntry_mem (f n : Nat) (c : Completion) (q : Bool) : (s.writeEntry f n c q).mem = s.mem := by
  unfold State.writeEntry; dsimp only; split
  · rfl
  · split
    · simp
    · split <;> simp
@[simp] theorem State.writeEntry_dma (f n : Nat) (c : Completion) (q : Bool) : (s.writeEntry f n c q).dma = s.dma := by
  unfold State.writeEntry; dsimp only; split
  · rfl
  · split
    · simp
    · split <;> simp
@[simp] theorem State.writeEntry_drn (f n : Nat) (c : Completion) (q : Bool) : (s.writeEntry f n c q).drn = s.drn := by
  unfold State.writeEntry; dsimp only; split
  · rfl
  · split
    · simp
    · split <;> simp
@[simp] theorem State.writeEntry_sec (f n : Nat) (c : Completion) (q : Bool) : (s.writeEntry f n c q).sec = s.sec := by
  unfold State.writeEntry; dsimp only; split
  · rfl
  · split
    · simp
    · split <;> simp
@[simp] theorem State.writeEntry_vid (f n : Nat) (c : Completion) (q : Bool) : (s.writeEntry f n c q).vid = s.vid := by
  unfold State.writeEntry; dsimp only; split
  · rfl
  · split
    · simp
    · split <;> simp
@[simp] theorem State.writeEntry_mbx (f n : Nat) (c : Completion) (q : Bool) : (s.writeEntry f n c q).mbx = s.mbx := by
  unfold State.writeEntry; dsimp only; split
  · rfl
  · split
    · simp
    · split <;> simp
@[simp] theorem State.writeEntry_lnk (f n : Nat) (c : Completion) (q : Bool) : (s.writeEntry f n c q).lnk = s.lnk := by
  unfold State.writeEntry; dsimp only; split
  · rfl
  · split
    · simp
    · split <;> simp
@[simp] theorem State.writeEntry_ctl (f n : Nat) (c : Completion) (q : Bool) : (s.writeEntry f n c q).ctl = s.ctl := by
  unfold State.writeEntry; dsimp only; split
  · rfl
  · split
    · simp
    · split <;> simp
@[simp] theorem State.writeEntry_clk (f n : Nat) (c : Completion) (q : Bool) : (s.writeEntry f n c q).clk = s.clk := by
  unfold State.writeEntry; dsimp only; split
  · rfl
  · split
    · simp
    · split <;> simp
@[simp] theorem State.writeEntry_pwr (f n : Nat) (c : Completion) (q : Bool) : (s.writeEntry f n c q).pwr = s.pwr := by
  unfold State.writeEntry; dsimp only; split
  · rfl
  · split
    · simp
    · split <;> simp
@[simp] theorem State.writeEntry_settings (f n : Nat) (c : Completion) (q : Bool) : (s.writeEntry f n c q).settings = s.settings := by
  unfold State.writeEntry; dsimp only; split
  · rfl
  · split
    · simp
    · split <;> simp
@[simp] theorem State.writeEntry_settingsPrev (f n : Nat) (c : Completion) (q : Bool) : (s.writeEntry f n c q).settingsPrev = s.settingsPrev := by
  unfold State.writeEntry; dsimp only; split
  · rfl
  · split
    · simp
    · split <;> simp
@[simp] theorem State.writeEntry_tel (f n : Nat) (c : Completion) (q : Bool) : (s.writeEntry f n c q).tel = s.tel := by
  unfold State.writeEntry; dsimp only; split
  · rfl
  · split
    · simp
    · split <;> simp
@[simp] theorem State.writeEntry_board (f n : Nat) (c : Completion) (q : Bool) : (s.writeEntry f n c q).board = s.board := by
  unfold State.writeEntry; dsimp only; split
  · rfl
  · split
    · simp
    · split <;> simp

/-! ### fetched -/
@[simp] theorem State.fetched_pending (c : Cmd) : (s.fetched c).pending = s.pending := by
  simp [State.fetched]
@[simp] theorem State.fetched_time (c : Cmd) : (s.fetched c).time = s.time := by
  simp [State.fetched]
@[simp] theorem State.fetched_fresh (c : Cmd) : (s.fetched c).fresh = s.fresh := by
  simp [State.fetched]
@[simp] theorem State.fetched_glb (c : Cmd) : (s.fetched c).glb = s.glb := by
  simp [State.fetched]
@[simp] theorem State.fetched_peg (c : Cmd) : (s.fetched c).peg = s.peg := by
  simp [State.fetched]
@[simp] theorem State.fetched_ctxs (c : Cmd) : (s.fetched c).ctxs = s.ctxs := by
  simp [State.fetched]
@[simp] theorem State.fetched_kvp (c : Cmd) : (s.fetched c).kvp = s.kvp := by
  simp [State.fetched]
@[simp] theorem State.fetched_arr (c : Cmd) : (s.fetched c).arr = s.arr := by
  simp [State.fetched]
@[simp] theorem State.fetched_atn (c : Cmd) : (s.fetched c).atn = s.atn := by
  simp [State.fetched]
@[simp] theorem State.fetched_dpp (c : Cmd) : (s.fetched c).dpp = s.dpp := by
  simp [State.fetched]
@[simp] theorem State.fetched_tsu (c : Cmd) : (s.fetched c).tsu = s.tsu := by
  simp [State.fetched]
@[simp] theorem State.fetched_mem (c : Cmd) : (s.fetched c).mem = s.mem := by
  simp [State.fetched]
@[simp] theorem State.fetched_dma (c : Cmd) : (s.fetched c).dma = s.dma := by
  simp [State.fetched]
@[simp] theorem State.fetched_drn (c : Cmd) : (s.fetched c).drn = s.drn := by
  simp [State.fetched]
@[simp] theorem State.fetched_sec (c : Cmd) : (s.fetched c).sec = s.sec := by
  simp [State.fetched]
@[simp] theorem State.fetched_vid (c : Cmd) : (s.fetched c).vid = s.vid := by
  simp [State.fetched]
@[simp] theorem State.fetched_mbx (c : Cmd) : (s.fetched c).mbx = s.mbx := by
  simp [State.fetched]
@[simp] theorem State.fetched_lnk (c : Cmd) : (s.fetched c).lnk = s.lnk := by
  simp [State.fetched]
@[simp] theorem State.fetched_ctl (c : Cmd) : (s.fetched c).ctl = s.ctl := by
  simp [State.fetched]
@[simp] theorem State.fetched_clk (c : Cmd) : (s.fetched c).clk = s.clk := by
  simp [State.fetched]
@[simp] theorem State.fetched_pwr (c : Cmd) : (s.fetched c).pwr = s.pwr := by
  simp [State.fetched]
@[simp] theorem State.fetched_settings (c : Cmd) : (s.fetched c).settings = s.settings := by
  simp [State.fetched]
@[simp] theorem State.fetched_settingsPrev (c : Cmd) : (s.fetched c).settingsPrev = s.settingsPrev := by
  simp [State.fetched]
@[simp] theorem State.fetched_board (c : Cmd) : (s.fetched c).board = s.board := by
  simp [State.fetched]

/-! ### finish -/
@[simp] theorem State.finish_pending (f n : Nat) (q : Word) (t : Nat) (i : Bool) (r : Reply) : (s.finish f n q t i r).pending = s.pending := by
  unfold State.finish; dsimp only
  rw [foldS_keeps _ (fun t => t.pending) _ _ (fun t a => by simp)]; simp
@[simp] theorem State.finish_time (f n : Nat) (q : Word) (t : Nat) (i : Bool) (r : Reply) : (s.finish f n q t i r).time = s.time := by
  unfold State.finish; dsimp only
  rw [foldS_keeps _ (fun t => t.time) _ _ (fun t a => by simp)]; simp
@[simp] theorem State.finish_fresh (f n : Nat) (q : Word) (t : Nat) (i : Bool) (r : Reply) : (s.finish f n q t i r).fresh = s.fresh := by
  unfold State.finish; dsimp only
  rw [foldS_keeps _ (fun t => t.fresh) _ _ (fun t a => by simp)]; simp
@[simp] theorem State.finish_glb (f n : Nat) (q : Word) (t : Nat) (i : Bool) (r : Reply) : (s.finish f n q t i r).glb = s.glb := by
  unfold State.finish; dsimp only
  rw [foldS_keeps _ (fun t => t.glb) _ _ (fun t a => by simp)]; simp
@[simp] theorem State.finish_peg (f n : Nat) (q : Word) (t : Nat) (i : Bool) (r : Reply) : (s.finish f n q t i r).peg = s.peg := by
  unfold State.finish; dsimp only
  rw [foldS_keeps _ (fun t => t.peg) _ _ (fun t a => by simp)]; simp
@[simp] theorem State.finish_ctxs (f n : Nat) (q : Word) (t : Nat) (i : Bool) (r : Reply) : (s.finish f n q t i r).ctxs = s.ctxs := by
  unfold State.finish; dsimp only
  rw [foldS_keeps _ (fun t => t.ctxs) _ _ (fun t a => by simp)]; simp
@[simp] theorem State.finish_kvp (f n : Nat) (q : Word) (t : Nat) (i : Bool) (r : Reply) : (s.finish f n q t i r).kvp = s.kvp := by
  unfold State.finish; dsimp only
  rw [foldS_keeps _ (fun t => t.kvp) _ _ (fun t a => by simp)]; simp
@[simp] theorem State.finish_arr (f n : Nat) (q : Word) (t : Nat) (i : Bool) (r : Reply) : (s.finish f n q t i r).arr = s.arr := by
  unfold State.finish; dsimp only
  rw [foldS_keeps _ (fun t => t.arr) _ _ (fun t a => by simp)]; simp
@[simp] theorem State.finish_atn (f n : Nat) (q : Word) (t : Nat) (i : Bool) (r : Reply) : (s.finish f n q t i r).atn = s.atn := by
  unfold State.finish; dsimp only
  rw [foldS_keeps _ (fun t => t.atn) _ _ (fun t a => by simp)]; simp
@[simp] theorem State.finish_dpp (f n : Nat) (q : Word) (t : Nat) (i : Bool) (r : Reply) : (s.finish f n q t i r).dpp = s.dpp := by
  unfold State.finish; dsimp only
  rw [foldS_keeps _ (fun t => t.dpp) _ _ (fun t a => by simp)]; simp
@[simp] theorem State.finish_tsu (f n : Nat) (q : Word) (t : Nat) (i : Bool) (r : Reply) : (s.finish f n q t i r).tsu = s.tsu := by
  unfold State.finish; dsimp only
  rw [foldS_keeps _ (fun t => t.tsu) _ _ (fun t a => by simp)]; simp
@[simp] theorem State.finish_mem (f n : Nat) (q : Word) (t : Nat) (i : Bool) (r : Reply) : (s.finish f n q t i r).mem = s.mem := by
  unfold State.finish; dsimp only
  rw [foldS_keeps _ (fun t => t.mem) _ _ (fun t a => by simp)]; simp
@[simp] theorem State.finish_dma (f n : Nat) (q : Word) (t : Nat) (i : Bool) (r : Reply) : (s.finish f n q t i r).dma = s.dma := by
  unfold State.finish; dsimp only
  rw [foldS_keeps _ (fun t => t.dma) _ _ (fun t a => by simp)]; simp
@[simp] theorem State.finish_drn (f n : Nat) (q : Word) (t : Nat) (i : Bool) (r : Reply) : (s.finish f n q t i r).drn = s.drn := by
  unfold State.finish; dsimp only
  rw [foldS_keeps _ (fun t => t.drn) _ _ (fun t a => by simp)]; simp
@[simp] theorem State.finish_sec (f n : Nat) (q : Word) (t : Nat) (i : Bool) (r : Reply) : (s.finish f n q t i r).sec = s.sec := by
  unfold State.finish; dsimp only
  rw [foldS_keeps _ (fun t => t.sec) _ _ (fun t a => by simp)]; simp
@[simp] theorem State.finish_vid (f n : Nat) (q : Word) (t : Nat) (i : Bool) (r : Reply) : (s.finish f n q t i r).vid = s.vid := by
  unfold State.finish; dsimp only
  rw [foldS_keeps _ (fun t => t.vid) _ _ (fun t a => by simp)]; simp
@[simp] theorem State.finish_mbx (f n : Nat) (q : Word) (t : Nat) (i : Bool) (r : Reply) : (s.finish f n q t i r).mbx = s.mbx := by
  unfold State.finish; dsimp only
  rw [foldS_keeps _ (fun t => t.mbx) _ _ (fun t a => by simp)]; simp
@[simp] theorem State.finish_lnk (f n : Nat) (q : Word) (t : Nat) (i : Bool) (r : Reply) : (s.finish f n q t i r).lnk = s.lnk := by
  unfold State.finish; dsimp only
  rw [foldS_keeps _ (fun t => t.lnk) _ _ (fun t a => by simp)]; simp
@[simp] theorem State.finish_ctl (f n : Nat) (q : Word) (t : Nat) (i : Bool) (r : Reply) : (s.finish f n q t i r).ctl = s.ctl := by
  unfold State.finish; dsimp only
  rw [foldS_keeps _ (fun t => t.ctl) _ _ (fun t a => by simp)]; simp
@[simp] theorem State.finish_clk (f n : Nat) (q : Word) (t : Nat) (i : Bool) (r : Reply) : (s.finish f n q t i r).clk = s.clk := by
  unfold State.finish; dsimp only
  rw [foldS_keeps _ (fun t => t.clk) _ _ (fun t a => by simp)]; simp
@[simp] theorem State.finish_pwr (f n : Nat) (q : Word) (t : Nat) (i : Bool) (r : Reply) : (s.finish f n q t i r).pwr = s.pwr := by
  unfold State.finish; dsimp only
  rw [foldS_keeps _ (fun t => t.pwr) _ _ (fun t a => by simp)]; simp
@[simp] theorem State.finish_settings (f n : Nat) (q : Word) (t : Nat) (i : Bool) (r : Reply) : (s.finish f n q t i r).settings = s.settings := by
  unfold State.finish; dsimp only
  rw [foldS_keeps _ (fun t => t.settings) _ _ (fun t a => by simp)]; simp
@[simp] theorem State.finish_settingsPrev (f n : Nat) (q : Word) (t : Nat) (i : Bool) (r : Reply) : (s.finish f n q t i r).settingsPrev = s.settingsPrev := by
  unfold State.finish; dsimp only
  rw [foldS_keeps _ (fun t => t.settingsPrev) _ _ (fun t a => by simp)]; simp
@[simp] theorem State.finish_board (f n : Nat) (q : Word) (t : Nat) (i : Bool) (r : Reply) : (s.finish f n q t i r).board = s.board := by
  unfold State.finish; dsimp only
  rw [foldS_keeps _ (fun t => t.board) _ _ (fun t a => by simp)]; simp

/-! ### finishBadSeq -/
@[simp] theorem State.finishBadSeq_pending (c : Cmd) (d : Nat) : (s.finishBadSeq c d).pending = s.pending := by
  simp [State.finishBadSeq]
@[simp] theorem State.finishBadSeq_time (c : Cmd) (d : Nat) : (s.finishBadSeq c d).time = s.time := by
  simp [State.finishBadSeq]
@[simp] theorem State.finishBadSeq_fresh (c : Cmd) (d : Nat) : (s.finishBadSeq c d).fresh = s.fresh := by
  simp [State.finishBadSeq]
@[simp] theorem State.finishBadSeq_glb (c : Cmd) (d : Nat) : (s.finishBadSeq c d).glb = s.glb := by
  simp [State.finishBadSeq]
@[simp] theorem State.finishBadSeq_peg (c : Cmd) (d : Nat) : (s.finishBadSeq c d).peg = s.peg := by
  simp [State.finishBadSeq]
@[simp] theorem State.finishBadSeq_ctxs (c : Cmd) (d : Nat) : (s.finishBadSeq c d).ctxs = s.ctxs := by
  simp [State.finishBadSeq]
@[simp] theorem State.finishBadSeq_kvp (c : Cmd) (d : Nat) : (s.finishBadSeq c d).kvp = s.kvp := by
  simp [State.finishBadSeq]
@[simp] theorem State.finishBadSeq_arr (c : Cmd) (d : Nat) : (s.finishBadSeq c d).arr = s.arr := by
  simp [State.finishBadSeq]
@[simp] theorem State.finishBadSeq_atn (c : Cmd) (d : Nat) : (s.finishBadSeq c d).atn = s.atn := by
  simp [State.finishBadSeq]
@[simp] theorem State.finishBadSeq_dpp (c : Cmd) (d : Nat) : (s.finishBadSeq c d).dpp = s.dpp := by
  simp [State.finishBadSeq]
@[simp] theorem State.finishBadSeq_tsu (c : Cmd) (d : Nat) : (s.finishBadSeq c d).tsu = s.tsu := by
  simp [State.finishBadSeq]
@[simp] theorem State.finishBadSeq_mem (c : Cmd) (d : Nat) : (s.finishBadSeq c d).mem = s.mem := by
  simp [State.finishBadSeq]
@[simp] theorem State.finishBadSeq_dma (c : Cmd) (d : Nat) : (s.finishBadSeq c d).dma = s.dma := by
  simp [State.finishBadSeq]
@[simp] theorem State.finishBadSeq_drn (c : Cmd) (d : Nat) : (s.finishBadSeq c d).drn = s.drn := by
  simp [State.finishBadSeq]
@[simp] theorem State.finishBadSeq_sec (c : Cmd) (d : Nat) : (s.finishBadSeq c d).sec = s.sec := by
  simp [State.finishBadSeq]
@[simp] theorem State.finishBadSeq_vid (c : Cmd) (d : Nat) : (s.finishBadSeq c d).vid = s.vid := by
  simp [State.finishBadSeq]
@[simp] theorem State.finishBadSeq_mbx (c : Cmd) (d : Nat) : (s.finishBadSeq c d).mbx = s.mbx := by
  simp [State.finishBadSeq]
@[simp] theorem State.finishBadSeq_lnk (c : Cmd) (d : Nat) : (s.finishBadSeq c d).lnk = s.lnk := by
  simp [State.finishBadSeq]
@[simp] theorem State.finishBadSeq_ctl (c : Cmd) (d : Nat) : (s.finishBadSeq c d).ctl = s.ctl := by
  simp [State.finishBadSeq]
@[simp] theorem State.finishBadSeq_clk (c : Cmd) (d : Nat) : (s.finishBadSeq c d).clk = s.clk := by
  simp [State.finishBadSeq]
@[simp] theorem State.finishBadSeq_pwr (c : Cmd) (d : Nat) : (s.finishBadSeq c d).pwr = s.pwr := by
  simp [State.finishBadSeq]
@[simp] theorem State.finishBadSeq_settings (c : Cmd) (d : Nat) : (s.finishBadSeq c d).settings = s.settings := by
  simp [State.finishBadSeq]
@[simp] theorem State.finishBadSeq_settingsPrev (c : Cmd) (d : Nat) : (s.finishBadSeq c d).settingsPrev = s.settingsPrev := by
  simp [State.finishBadSeq]
@[simp] theorem State.finishBadSeq_board (c : Cmd) (d : Nat) : (s.finishBadSeq c d).board = s.board := by
  simp [State.finishBadSeq]

/-! ### complete -/
@[simp] theorem State.complete_pending (i : Inflight) (r : Reply) : (s.complete i r).pending = s.pending := by
  simp [State.complete]
@[simp] theorem State.complete_time (i : Inflight) (r : Reply) : (s.complete i r).time = s.time := by
  simp [State.complete]
@[simp] theorem State.complete_fresh (i : Inflight) (r : Reply) : (s.complete i r).fresh = s.fresh := by
  simp [State.complete]
@[simp] theorem State.complete_glb (i : Inflight) (r : Reply) : (s.complete i r).glb = s.glb := by
  simp [State.complete]
@[simp] theorem State.complete_peg (i : Inflight) (r : Reply) : (s.complete i r).peg = s.peg := by
  simp [State.complete]
@[simp] theorem State.complete_ctxs (i : Inflight) (r : Reply) : (s.complete i r).ctxs = s.ctxs := by
  simp [State.complete]
@[simp] theorem State.complete_kvp (i : Inflight) (r : Reply) : (s.complete i r).kvp = s.kvp := by
  simp [State.complete]
@[simp] theorem State.complete_arr (i : Inflight) (r : Reply) : (s.complete i r).arr = s.arr := by
  simp [State.complete]
@[simp] theorem State.complete_atn (i : Inflight) (r : Reply) : (s.complete i r).atn = s.atn := by
  simp [State.complete]
@[simp] theorem State.complete_dpp (i : Inflight) (r : Reply) : (s.complete i r).dpp = s.dpp := by
  simp [State.complete]
@[simp] theorem State.complete_tsu (i : Inflight) (r : Reply) : (s.complete i r).tsu = s.tsu := by
  simp [State.complete]
@[simp] theorem State.complete_mem (i : Inflight) (r : Reply) : (s.complete i r).mem = s.mem := by
  simp [State.complete]
@[simp] theorem State.complete_dma (i : Inflight) (r : Reply) : (s.complete i r).dma = s.dma := by
  simp [State.complete]
@[simp] theorem State.complete_drn (i : Inflight) (r : Reply) : (s.complete i r).drn = s.drn := by
  simp [State.complete]
@[simp] theorem State.complete_sec (i : Inflight) (r : Reply) : (s.complete i r).sec = s.sec := by
  simp [State.complete]
@[simp] theorem State.complete_vid (i : Inflight) (r : Reply) : (s.complete i r).vid = s.vid := by
  simp [State.complete]
@[simp] theorem State.complete_mbx (i : Inflight) (r : Reply) : (s.complete i r).mbx = s.mbx := by
  simp [State.complete]
@[simp] theorem State.complete_lnk (i : Inflight) (r : Reply) : (s.complete i r).lnk = s.lnk := by
  simp [State.complete]
@[simp] theorem State.complete_ctl (i : Inflight) (r : Reply) : (s.complete i r).ctl = s.ctl := by
  simp [State.complete]
@[simp] theorem State.complete_clk (i : Inflight) (r : Reply) : (s.complete i r).clk = s.clk := by
  simp [State.complete]
@[simp] theorem State.complete_pwr (i : Inflight) (r : Reply) : (s.complete i r).pwr = s.pwr := by
  simp [State.complete]
@[simp] theorem State.complete_settings (i : Inflight) (r : Reply) : (s.complete i r).settings = s.settings := by
  simp [State.complete]
@[simp] theorem State.complete_settingsPrev (i : Inflight) (r : Reply) : (s.complete i r).settingsPrev = s.settingsPrev := by
  simp [State.complete]
@[simp] theorem State.complete_board (i : Inflight) (r : Reply) : (s.complete i r).board = s.board := by
  simp [State.complete]

/-! ### completeAll -/
@[simp] theorem State.completeAll_pending (p : WaitFor → Bool) (g : Inflight → Reply) : (s.completeAll p g).pending = s.pending := by
  exact foldS_keeps _ (fun t => t.pending) _ _ fun t a => t.complete_pending a _
@[simp] theorem State.completeAll_time (p : WaitFor → Bool) (g : Inflight → Reply) : (s.completeAll p g).time = s.time := by
  exact foldS_keeps _ (fun t => t.time) _ _ fun t a => t.complete_time a _
@[simp] theorem State.completeAll_fresh (p : WaitFor → Bool) (g : Inflight → Reply) : (s.completeAll p g).fresh = s.fresh := by
  exact foldS_keeps _ (fun t => t.fresh) _ _ fun t a => t.complete_fresh a _
@[simp] theorem State.completeAll_glb (p : WaitFor → Bool) (g : Inflight → Reply) : (s.completeAll p g).glb = s.glb := by
  exact foldS_keeps _ (fun t => t.glb) _ _ fun t a => t.complete_glb a _
@[simp] theorem State.completeAll_peg (p : WaitFor → Bool) (g : Inflight → Reply) : (s.completeAll p g).peg = s.peg := by
  exact foldS_keeps _ (fun t => t.peg) _ _ fun t a => t.complete_peg a _
@[simp] theorem State.completeAll_ctxs (p : WaitFor → Bool) (g : Inflight → Reply) : (s.completeAll p g).ctxs = s.ctxs := by
  exact foldS_keeps _ (fun t => t.ctxs) _ _ fun t a => t.complete_ctxs a _
@[simp] theorem State.completeAll_kvp (p : WaitFor → Bool) (g : Inflight → Reply) : (s.completeAll p g).kvp = s.kvp := by
  exact foldS_keeps _ (fun t => t.kvp) _ _ fun t a => t.complete_kvp a _
@[simp] theorem State.completeAll_arr (p : WaitFor → Bool) (g : Inflight → Reply) : (s.completeAll p g).arr = s.arr := by
  exact foldS_keeps _ (fun t => t.arr) _ _ fun t a => t.complete_arr a _
@[simp] theorem State.completeAll_atn (p : WaitFor → Bool) (g : Inflight → Reply) : (s.completeAll p g).atn = s.atn := by
  exact foldS_keeps _ (fun t => t.atn) _ _ fun t a => t.complete_atn a _
@[simp] theorem State.completeAll_dpp (p : WaitFor → Bool) (g : Inflight → Reply) : (s.completeAll p g).dpp = s.dpp := by
  exact foldS_keeps _ (fun t => t.dpp) _ _ fun t a => t.complete_dpp a _
@[simp] theorem State.completeAll_tsu (p : WaitFor → Bool) (g : Inflight → Reply) : (s.completeAll p g).tsu = s.tsu := by
  exact foldS_keeps _ (fun t => t.tsu) _ _ fun t a => t.complete_tsu a _
@[simp] theorem State.completeAll_mem (p : WaitFor → Bool) (g : Inflight → Reply) : (s.completeAll p g).mem = s.mem := by
  exact foldS_keeps _ (fun t => t.mem) _ _ fun t a => t.complete_mem a _
@[simp] theorem State.completeAll_dma (p : WaitFor → Bool) (g : Inflight → Reply) : (s.completeAll p g).dma = s.dma := by
  exact foldS_keeps _ (fun t => t.dma) _ _ fun t a => t.complete_dma a _
@[simp] theorem State.completeAll_drn (p : WaitFor → Bool) (g : Inflight → Reply) : (s.completeAll p g).drn = s.drn := by
  exact foldS_keeps _ (fun t => t.drn) _ _ fun t a => t.complete_drn a _
@[simp] theorem State.completeAll_sec (p : WaitFor → Bool) (g : Inflight → Reply) : (s.completeAll p g).sec = s.sec := by
  exact foldS_keeps _ (fun t => t.sec) _ _ fun t a => t.complete_sec a _
@[simp] theorem State.completeAll_vid (p : WaitFor → Bool) (g : Inflight → Reply) : (s.completeAll p g).vid = s.vid := by
  exact foldS_keeps _ (fun t => t.vid) _ _ fun t a => t.complete_vid a _
@[simp] theorem State.completeAll_mbx (p : WaitFor → Bool) (g : Inflight → Reply) : (s.completeAll p g).mbx = s.mbx := by
  exact foldS_keeps _ (fun t => t.mbx) _ _ fun t a => t.complete_mbx a _
@[simp] theorem State.completeAll_lnk (p : WaitFor → Bool) (g : Inflight → Reply) : (s.completeAll p g).lnk = s.lnk := by
  exact foldS_keeps _ (fun t => t.lnk) _ _ fun t a => t.complete_lnk a _
@[simp] theorem State.completeAll_ctl (p : WaitFor → Bool) (g : Inflight → Reply) : (s.completeAll p g).ctl = s.ctl := by
  exact foldS_keeps _ (fun t => t.ctl) _ _ fun t a => t.complete_ctl a _
@[simp] theorem State.completeAll_clk (p : WaitFor → Bool) (g : Inflight → Reply) : (s.completeAll p g).clk = s.clk := by
  exact foldS_keeps _ (fun t => t.clk) _ _ fun t a => t.complete_clk a _
@[simp] theorem State.completeAll_pwr (p : WaitFor → Bool) (g : Inflight → Reply) : (s.completeAll p g).pwr = s.pwr := by
  exact foldS_keeps _ (fun t => t.pwr) _ _ fun t a => t.complete_pwr a _
@[simp] theorem State.completeAll_settings (p : WaitFor → Bool) (g : Inflight → Reply) : (s.completeAll p g).settings = s.settings := by
  exact foldS_keeps _ (fun t => t.settings) _ _ fun t a => t.complete_settings a _
@[simp] theorem State.completeAll_settingsPrev (p : WaitFor → Bool) (g : Inflight → Reply) : (s.completeAll p g).settingsPrev = s.settingsPrev := by
  exact foldS_keeps _ (fun t => t.settingsPrev) _ _ fun t a => t.complete_settingsPrev a _
@[simp] theorem State.completeAll_board (p : WaitFor → Bool) (g : Inflight → Reply) : (s.completeAll p g).board = s.board := by
  exact foldS_keeps _ (fun t => t.board) _ _ fun t a => t.complete_board a _

/-! ### outOfSeq -/
@[simp] theorem State.outOfSeq_pending (c : Cmd) : (s.outOfSeq c).pending = s.pending := by
  unfold State.outOfSeq; dsimp only; split
  · split
    · split <;> simp
    · simp
  · simp
@[simp] theorem State.outOfSeq_time (c : Cmd) : (s.outOfSeq c).time = s.time := by
  unfold State.outOfSeq; dsimp only; split
  · split
    · split <;> simp
    · simp
  · simp
@[simp] theorem State.outOfSeq_fresh (c : Cmd) : (s.outOfSeq c).fresh = s.fresh := by
  unfold State.outOfSeq; dsimp only; split
  · split
    · split <;> simp
    · simp
  · simp
@[simp] theorem State.outOfSeq_glb (c : Cmd) : (s.outOfSeq c).glb = s.glb := by
  unfold State.outOfSeq; dsimp only; split
  · split
    · split <;> simp
    · simp
  · simp
@[simp] theorem State.outOfSeq_peg (c : Cmd) : (s.outOfSeq c).peg = s.peg := by
  unfold State.outOfSeq; dsimp only; split
  · split
    · split <;> simp
    · simp
  · simp
@[simp] theorem State.outOfSeq_ctxs (c : Cmd) : (s.outOfSeq c).ctxs = s.ctxs := by
  unfold State.outOfSeq; dsimp only; split
  · split
    · split <;> simp
    · simp
  · simp
@[simp] theorem State.outOfSeq_kvp (c : Cmd) : (s.outOfSeq c).kvp = s.kvp := by
  unfold State.outOfSeq; dsimp only; split
  · split
    · split <;> simp
    · simp
  · simp
@[simp] theorem State.outOfSeq_arr (c : Cmd) : (s.outOfSeq c).arr = s.arr := by
  unfold State.outOfSeq; dsimp only; split
  · split
    · split <;> simp
    · simp
  · simp
@[simp] theorem State.outOfSeq_atn (c : Cmd) : (s.outOfSeq c).atn = s.atn := by
  unfold State.outOfSeq; dsimp only; split
  · split
    · split <;> simp
    · simp
  · simp
@[simp] theorem State.outOfSeq_dpp (c : Cmd) : (s.outOfSeq c).dpp = s.dpp := by
  unfold State.outOfSeq; dsimp only; split
  · split
    · split <;> simp
    · simp
  · simp
@[simp] theorem State.outOfSeq_tsu (c : Cmd) : (s.outOfSeq c).tsu = s.tsu := by
  unfold State.outOfSeq; dsimp only; split
  · split
    · split <;> simp
    · simp
  · simp
@[simp] theorem State.outOfSeq_mem (c : Cmd) : (s.outOfSeq c).mem = s.mem := by
  unfold State.outOfSeq; dsimp only; split
  · split
    · split <;> simp
    · simp
  · simp
@[simp] theorem State.outOfSeq_dma (c : Cmd) : (s.outOfSeq c).dma = s.dma := by
  unfold State.outOfSeq; dsimp only; split
  · split
    · split <;> simp
    · simp
  · simp
@[simp] theorem State.outOfSeq_drn (c : Cmd) : (s.outOfSeq c).drn = s.drn := by
  unfold State.outOfSeq; dsimp only; split
  · split
    · split <;> simp
    · simp
  · simp
@[simp] theorem State.outOfSeq_sec (c : Cmd) : (s.outOfSeq c).sec = s.sec := by
  unfold State.outOfSeq; dsimp only; split
  · split
    · split <;> simp
    · simp
  · simp
@[simp] theorem State.outOfSeq_vid (c : Cmd) : (s.outOfSeq c).vid = s.vid := by
  unfold State.outOfSeq; dsimp only; split
  · split
    · split <;> simp
    · simp
  · simp
@[simp] theorem State.outOfSeq_mbx (c : Cmd) : (s.outOfSeq c).mbx = s.mbx := by
  unfold State.outOfSeq; dsimp only; split
  · split
    · split <;> simp
    · simp
  · simp
@[simp] theorem State.outOfSeq_lnk (c : Cmd) : (s.outOfSeq c).lnk = s.lnk := by
  unfold State.outOfSeq; dsimp only; split
  · split
    · split <;> simp
    · simp
  · simp
@[simp] theorem State.outOfSeq_ctl (c : Cmd) : (s.outOfSeq c).ctl = s.ctl := by
  unfold State.outOfSeq; dsimp only; split
  · split
    · split <;> simp
    · simp
  · simp
@[simp] theorem State.outOfSeq_clk (c : Cmd) : (s.outOfSeq c).clk = s.clk := by
  unfold State.outOfSeq; dsimp only; split
  · split
    · split <;> simp
    · simp
  · simp
@[simp] theorem State.outOfSeq_pwr (c : Cmd) : (s.outOfSeq c).pwr = s.pwr := by
  unfold State.outOfSeq; dsimp only; split
  · split
    · split <;> simp
    · simp
  · simp
@[simp] theorem State.outOfSeq_settings (c : Cmd) : (s.outOfSeq c).settings = s.settings := by
  unfold State.outOfSeq; dsimp only; split
  · split
    · split <;> simp
    · simp
  · simp
@[simp] theorem State.outOfSeq_settingsPrev (c : Cmd) : (s.outOfSeq c).settingsPrev = s.settingsPrev := by
  unfold State.outOfSeq; dsimp only; split
  · split
    · split <;> simp
    · simp
  · simp
@[simp] theorem State.outOfSeq_board (c : Cmd) : (s.outOfSeq c).board = s.board := by
  unfold State.outOfSeq; dsimp only; split
  · split
    · split <;> simp
    · simp
  · simp

/-! ### updCtlCore -/
@[simp] theorem State.notOwner_pending  : (s.notOwner ).pending = s.pending := by
  unfold State.notOwner; split <;> rfl
@[simp] theorem State.notOwner_time  : (s.notOwner ).time = s.time := by
  unfold State.notOwner; split <;> rfl
@[simp] theorem State.notOwner_fresh  : (s.notOwner ).fresh = s.fresh := by
  unfold State.notOwner; split <;> rfl
@[simp] theorem State.notOwner_glb  : (s.notOwner ).glb = s.glb := by
  unfold State.notOwner; split <;> rfl
@[simp] theorem State.notOwner_peg  : (s.notOwner ).peg = s.peg := by
  unfold State.notOwner; split <;> rfl
@[simp] theorem State.notOwner_host  : (s.notOwner ).host = s.host := by
  unfold State.notOwner; split <;> rfl
@[simp] theorem State.notOwner_ctxs  : (s.notOwner ).ctxs = s.ctxs := by
  unfold State.notOwner; split <;> rfl
@[simp] theorem State.notOwner_kvp  : (s.notOwner ).kvp = s.kvp := by
  unfold State.notOwner; split <;> rfl
@[simp] theorem State.notOwner_arr  : (s.notOwner ).arr = s.arr := by
  unfold State.notOwner; split <;> rfl
@[simp] theorem State.notOwner_atn  : (s.notOwner ).atn = s.atn := by
  unfold State.notOwner; split <;> rfl
@[simp] theorem State.notOwner_dpp  : (s.notOwner ).dpp = s.dpp := by
  unfold State.notOwner; split <;> rfl
@[simp] theorem State.notOwner_tsu  : (s.notOwner ).tsu = s.tsu := by
  unfold State.notOwner; split <;> rfl
@[simp] theorem State.notOwner_mem  : (s.notOwner ).mem = s.mem := by
  unfold State.notOwner; split <;> rfl
@[simp] theorem State.notOwner_dma  : (s.notOwner ).dma = s.dma := by
  unfold State.notOwner; split <;> rfl
@[simp] theorem State.notOwner_drn  : (s.notOwner ).drn = s.drn := by
  unfold State.notOwner; split <;> rfl
@[simp] theorem State.notOwner_sec  : (s.notOwner ).sec = s.sec := by
  unfold State.notOwner; split <;> rfl
@[simp] theorem State.notOwner_vid  : (s.notOwner ).vid = s.vid := by
  unfold State.notOwner; split <;> rfl
@[simp] theorem State.notOwner_mbx  : (s.notOwner ).mbx = s.mbx := by
  unfold State.notOwner; split <;> rfl
@[simp] theorem State.notOwner_lnk  : (s.notOwner ).lnk = s.lnk := by
  unfold State.notOwner; split <;> rfl
@[simp] theorem State.notOwner_clk  : (s.notOwner ).clk = s.clk := by
  unfold State.notOwner; split <;> rfl
@[simp] theorem State.notOwner_pwr  : (s.notOwner ).pwr = s.pwr := by
  unfold State.notOwner; split <;> rfl
@[simp] theorem State.notOwner_settings  : (s.notOwner ).settings = s.settings := by
  unfold State.notOwner; split <;> rfl
@[simp] theorem State.notOwner_settingsPrev  : (s.notOwner ).settingsPrev = s.settingsPrev := by
  unfold State.notOwner; split <;> rfl
@[simp] theorem State.notOwner_tel  : (s.notOwner ).tel = s.tel := by
  unfold State.notOwner; split <;> rfl
@[simp] theorem State.notOwner_board  : (s.notOwner ).board = s.board := by
  unfold State.notOwner; split <;> rfl

/-! ### withWait -/
@[simp] theorem State.withWait_pending (r : Reply) : (s.withWait r).1.pending = s.pending := by
  unfold State.withWait; split <;> rfl
@[simp] theorem State.withWait_time (r : Reply) : (s.withWait r).1.time = s.time := by
  unfold State.withWait; split <;> rfl
@[simp] theorem State.withWait_glb (r : Reply) : (s.withWait r).1.glb = s.glb := by
  unfold State.withWait; split <;> rfl
@[simp] theorem State.withWait_peg (r : Reply) : (s.withWait r).1.peg = s.peg := by
  unfold State.withWait; split <;> rfl
@[simp] theorem State.withWait_host (r : Reply) : (s.withWait r).1.host = s.host := by
  unfold State.withWait; split <;> rfl
@[simp] theorem State.withWait_ctxs (r : Reply) : (s.withWait r).1.ctxs = s.ctxs := by
  unfold State.withWait; split <;> rfl
@[simp] theorem State.withWait_kvp (r : Reply) : (s.withWait r).1.kvp = s.kvp := by
  unfold State.withWait; split <;> rfl
@[simp] theorem State.withWait_arr (r : Reply) : (s.withWait r).1.arr = s.arr := by
  unfold State.withWait; split <;> rfl
@[simp] theorem State.withWait_atn (r : Reply) : (s.withWait r).1.atn = s.atn := by
  unfold State.withWait; split <;> rfl
@[simp] theorem State.withWait_dpp (r : Reply) : (s.withWait r).1.dpp = s.dpp := by
  unfold State.withWait; split <;> rfl
@[simp] theorem State.withWait_tsu (r : Reply) : (s.withWait r).1.tsu = s.tsu := by
  unfold State.withWait; split <;> rfl
@[simp] theorem State.withWait_mem (r : Reply) : (s.withWait r).1.mem = s.mem := by
  unfold State.withWait; split <;> rfl
@[simp] theorem State.withWait_dma (r : Reply) : (s.withWait r).1.dma = s.dma := by
  unfold State.withWait; split <;> rfl
@[simp] theorem State.withWait_drn (r : Reply) : (s.withWait r).1.drn = s.drn := by
  unfold State.withWait; split <;> rfl
@[simp] theorem State.withWait_sec (r : Reply) : (s.withWait r).1.sec = s.sec := by
  unfold State.withWait; split <;> rfl
@[simp] theorem State.withWait_vid (r : Reply) : (s.withWait r).1.vid = s.vid := by
  unfold State.withWait; split <;> rfl
@[simp] theorem State.withWait_mbx (r : Reply) : (s.withWait r).1.mbx = s.mbx := by
  unfold State.withWait; split <;> rfl
@[simp] theorem State.withWait_lnk (r : Reply) : (s.withWait r).1.lnk = s.lnk := by
  unfold State.withWait; split <;> rfl
@[simp] theorem State.withWait_ctl (r : Reply) : (s.withWait r).1.ctl = s.ctl := by
  unfold State.withWait; split <;> rfl
@[simp] theorem State.withWait_clk (r : Reply) : (s.withWait r).1.clk = s.clk := by
  unfold State.withWait; split <;> rfl
@[simp] theorem State.withWait_pwr (r : Reply) : (s.withWait r).1.pwr = s.pwr := by
  unfold State.withWait; split <;> rfl
@[simp] theorem State.withWait_settings (r : Reply) : (s.withWait r).1.settings = s.settings := by
  unfold State.withWait; split <;> rfl
@[simp] theorem State.withWait_settingsPrev (r : Reply) : (s.withWait r).1.settingsPrev = s.settingsPrev := by
  unfold State.withWait; split <;> rfl
@[simp] theorem State.withWait_tel (r : Reply) : (s.withWait r).1.tel = s.tel := by
  unfold State.withWait; split <;> rfl
@[simp] theorem State.withWait_board (r : Reply) : (s.withWait r).1.board = s.board := by
  unfold State.withWait; split <;> rfl

/-- A completion other than BUSY_RETRY needs no suggested wait. -/
theorem State.withWait_of_ne (r : Reply) (h : r.status ≠ stBusy) : s.withWait r = (s, r) := by
  unfold State.withWait; exact if_neg h

/-! ### draw, tick -/

@[simp] theorem State.draw_pending : s.draw.2.pending = s.pending := rfl
@[simp] theorem State.draw_time : s.draw.2.time = s.time := rfl
@[simp] theorem State.draw_glb : s.draw.2.glb = s.glb := rfl
@[simp] theorem State.draw_peg : s.draw.2.peg = s.peg := rfl
@[simp] theorem State.draw_host : s.draw.2.host = s.host := rfl
@[simp] theorem State.draw_ctxs : s.draw.2.ctxs = s.ctxs := rfl
@[simp] theorem State.draw_kvp : s.draw.2.kvp = s.kvp := rfl
@[simp] theorem State.draw_arr : s.draw.2.arr = s.arr := rfl
@[simp] theorem State.draw_atn : s.draw.2.atn = s.atn := rfl
@[simp] theorem State.draw_dpp : s.draw.2.dpp = s.dpp := rfl
@[simp] theorem State.draw_tsu : s.draw.2.tsu = s.tsu := rfl
@[simp] theorem State.draw_mem : s.draw.2.mem = s.mem := rfl
@[simp] theorem State.draw_dma : s.draw.2.dma = s.dma := rfl
@[simp] theorem State.draw_drn : s.draw.2.drn = s.drn := rfl
@[simp] theorem State.draw_sec : s.draw.2.sec = s.sec := rfl
@[simp] theorem State.draw_vid : s.draw.2.vid = s.vid := rfl
@[simp] theorem State.draw_mbx : s.draw.2.mbx = s.mbx := rfl
@[simp] theorem State.draw_lnk : s.draw.2.lnk = s.lnk := rfl
@[simp] theorem State.draw_ctl : s.draw.2.ctl = s.ctl := rfl
@[simp] theorem State.draw_clk : s.draw.2.clk = s.clk := rfl
@[simp] theorem State.draw_pwr : s.draw.2.pwr = s.pwr := rfl
@[simp] theorem State.draw_settings : s.draw.2.settings = s.settings := rfl
@[simp] theorem State.draw_settingsPrev : s.draw.2.settingsPrev = s.settingsPrev := rfl
@[simp] theorem State.draw_tel : s.draw.2.tel = s.tel := rfl
@[simp] theorem State.draw_board : s.draw.2.board = s.board := rfl
@[simp] theorem State.tick_pending : s.tick.pending = s.pending := by
  unfold State.tick; split <;> rfl
@[simp] theorem State.tick_fresh : s.tick.fresh = s.fresh := by
  unfold State.tick; split <;> rfl
@[simp] theorem State.tick_glb : s.tick.glb = s.glb := by
  unfold State.tick; split <;> rfl
@[simp] theorem State.tick_peg : s.tick.peg = s.peg := by
  unfold State.tick; split <;> rfl
@[simp] theorem State.tick_host : s.tick.host = s.host := by
  unfold State.tick; split <;> rfl
@[simp] theorem State.tick_ctxs : s.tick.ctxs = s.ctxs := by
  unfold State.tick; split <;> rfl
@[simp] theorem State.tick_kvp : s.tick.kvp = s.kvp := by
  unfold State.tick; split <;> rfl
@[simp] theorem State.tick_arr : s.tick.arr = s.arr := by
  unfold State.tick; split <;> rfl
@[simp] theorem State.tick_atn : s.tick.atn = s.atn := by
  unfold State.tick; split <;> rfl
@[simp] theorem State.tick_dpp : s.tick.dpp = s.dpp := by
  unfold State.tick; split <;> rfl
@[simp] theorem State.tick_tsu : s.tick.tsu = s.tsu := by
  unfold State.tick; split <;> rfl
@[simp] theorem State.tick_mem : s.tick.mem = s.mem := by
  unfold State.tick; split <;> rfl
@[simp] theorem State.tick_dma : s.tick.dma = s.dma := by
  unfold State.tick; split <;> rfl
@[simp] theorem State.tick_drn : s.tick.drn = s.drn := by
  unfold State.tick; split <;> rfl
@[simp] theorem State.tick_sec : s.tick.sec = s.sec := by
  unfold State.tick; split <;> rfl
@[simp] theorem State.tick_vid : s.tick.vid = s.vid := by
  unfold State.tick; split <;> rfl
@[simp] theorem State.tick_mbx : s.tick.mbx = s.mbx := by
  unfold State.tick; split <;> rfl
@[simp] theorem State.tick_lnk : s.tick.lnk = s.lnk := by
  unfold State.tick; split <;> rfl
@[simp] theorem State.tick_ctl : s.tick.ctl = s.ctl := by
  unfold State.tick; split <;> rfl
@[simp] theorem State.tick_clk : s.tick.clk = s.clk := by
  unfold State.tick; split <;> rfl
@[simp] theorem State.tick_pwr : s.tick.pwr = s.pwr := by
  unfold State.tick; split <;> rfl
@[simp] theorem State.tick_settings : s.tick.settings = s.settings := by
  unfold State.tick; split <;> rfl
@[simp] theorem State.tick_settingsPrev : s.tick.settingsPrev = s.settingsPrev := by
  unfold State.tick; split <;> rfl
@[simp] theorem State.tick_tel : s.tick.tel = s.tel := by
  unfold State.tick; split <;> rfl
@[simp] theorem State.tick_board : s.tick.board = s.board := by
  unfold State.tick; split <;> rfl

/-! ### putBytes -/
@[simp] theorem State.putBytes_pending (k : Nat) (b : List Byte) : (s.putBytes k b).pending = s.pending := rfl
@[simp] theorem State.putBytes_time (k : Nat) (b : List Byte) : (s.putBytes k b).time = s.time := rfl
@[simp] theorem State.putBytes_fresh (k : Nat) (b : List Byte) : (s.putBytes k b).fresh = s.fresh := rfl
@[simp] theorem State.putBytes_glb (k : Nat) (b : List Byte) : (s.putBytes k b).glb = s.glb := rfl
@[simp] theorem State.putBytes_peg (k : Nat) (b : List Byte) : (s.putBytes k b).peg = s.peg := rfl
@[simp] theorem State.putBytes_host (k : Nat) (b : List Byte) : (s.putBytes k b).host = s.host := rfl
@[simp] theorem State.putBytes_ctxs (k : Nat) (b : List Byte) : (s.putBytes k b).ctxs = s.ctxs := rfl
@[simp] theorem State.putBytes_kvp (k : Nat) (b : List Byte) : (s.putBytes k b).kvp = s.kvp := rfl
@[simp] theorem State.putBytes_arr (k : Nat) (b : List Byte) : (s.putBytes k b).arr = s.arr := rfl
@[simp] theorem State.putBytes_atn (k : Nat) (b : List Byte) : (s.putBytes k b).atn = s.atn := rfl
@[simp] theorem State.putBytes_dpp (k : Nat) (b : List Byte) : (s.putBytes k b).dpp = s.dpp := rfl
@[simp] theorem State.putBytes_tsu (k : Nat) (b : List Byte) : (s.putBytes k b).tsu = s.tsu := rfl
@[simp] theorem State.putBytes_dma (k : Nat) (b : List Byte) : (s.putBytes k b).dma = s.dma := rfl
@[simp] theorem State.putBytes_drn (k : Nat) (b : List Byte) : (s.putBytes k b).drn = s.drn := rfl
@[simp] theorem State.putBytes_sec (k : Nat) (b : List Byte) : (s.putBytes k b).sec = s.sec := rfl
@[simp] theorem State.putBytes_vid (k : Nat) (b : List Byte) : (s.putBytes k b).vid = s.vid := rfl
@[simp] theorem State.putBytes_mbx (k : Nat) (b : List Byte) : (s.putBytes k b).mbx = s.mbx := rfl
@[simp] theorem State.putBytes_lnk (k : Nat) (b : List Byte) : (s.putBytes k b).lnk = s.lnk := rfl
@[simp] theorem State.putBytes_ctl (k : Nat) (b : List Byte) : (s.putBytes k b).ctl = s.ctl := rfl
@[simp] theorem State.putBytes_clk (k : Nat) (b : List Byte) : (s.putBytes k b).clk = s.clk := rfl
@[simp] theorem State.putBytes_pwr (k : Nat) (b : List Byte) : (s.putBytes k b).pwr = s.pwr := rfl
@[simp] theorem State.putBytes_settings (k : Nat) (b : List Byte) : (s.putBytes k b).settings = s.settings := rfl
@[simp] theorem State.putBytes_settingsPrev (k : Nat) (b : List Byte) : (s.putBytes k b).settingsPrev = s.settingsPrev := rfl
@[simp] theorem State.putBytes_tel (k : Nat) (b : List Byte) : (s.putBytes k b).tel = s.tel := rfl
@[simp] theorem State.putBytes_board (k : Nat) (b : List Byte) : (s.putBytes k b).board = s.board := rfl

end

/-! ### Memory -/

/-- A byte just written is read back. -/
@[simp] theorem Mem.byteAt_put_same (m : Mem) (k : Nat) (b : Byte) : (m.put k b).byteAt k = b := Tbl.get_set_same _ k b

/-- A write leaves every other byte alone. -/
theorem Mem.byteAt_put_ne (m : Mem) {k i : Nat} (b : Byte) (h : i ≠ k) : (m.put k b).byteAt i = m.byteAt i :=
  Tbl.get_set_ne _ b h

/-- A run of bytes written changes no byte outside it. -/
theorem Mem.byteAt_putAll_outside (bs : List Byte) (m : Mem) (k i : Nat) (h : i < k ∨ k + bs.length ≤ i) :
    (m.putAll k bs).byteAt i = m.byteAt i := by
  induction bs generalizing m k with
  | nil => rfl
  | cons b r ih =>
    simp only [List.length_cons] at h
    rw [Mem.putAll, ih (m.put k b) (k + 1) (by omega), Mem.byteAt_put_ne m b (by omega)]

/-- A run of bytes written is read back byte by byte. -/
theorem Mem.byteAt_putAll_inside (bs : List Byte) (m : Mem) (k j : Nat) (h : j < bs.length) :
    (m.putAll k bs).byteAt (k + j) = bs.getD j 0 := by
  induction bs generalizing m k j with
  | nil => simp at h
  | cons b r ih =>
    cases j with
    | zero =>
      rw [Mem.putAll, Nat.add_zero, Mem.byteAt_putAll_outside r _ _ _ (by omega)]
      simp
    | succ j =>
      simp only [List.length_cons] at h
      rw [Mem.putAll, show k + (j + 1) = (k + 1) + j by omega, ih (m.put k b) (k + 1) j (by omega)]
      simp

/-- Every memory write keeps the canonical form. -/
theorem Mem.wf_put (m : Mem) (k : Nat) (b : Byte) (h : m.wf = true) : (m.put k b).wf = true := Tbl.wf_set k b h

theorem Mem.wf_putAll (bs : List Byte) (m : Mem) (k : Nat) (h : m.wf = true) : (m.putAll k bs).wf = true := by
  induction bs generalizing m k with
  | nil => exact h
  | cons b r ih => exact ih (m.put k b) (k + 1) (m.wf_put k b h)

theorem Mem.wf_wipe (m : Mem) (lo hi : Nat) (h : m.wf = true) : (m.wipe lo hi).wf = true := Tbl.wf_filter _ h

@[simp] theorem Mem.wf_setPoison (m : Mem) (k : Nat) (v : Bool) : (m.setPoison k v).wf = m.wf := rfl

theorem Mem.wf_reset : State.reset.mem.wf = true := rfl

/-! ### A host command -/

section
variable (s : State) (c : Cmd)

/-- The checks read nothing that fetching the command changes. -/
theorem State.gate_congr (t : State) (feats : List Nat) (hg : t.glb = s.glb) (hl : t.ctl = s.ctl) (hc : t.ctxs = s.ctxs)
    (hf : t.host.funcs = s.host.funcs) (hi : t.host.inflight = s.host.inflight) : t.gate c feats = s.gate c feats := by
  simp only [State.gate, State.moduleCheck, State.contextCheck, State.granted, State.inflightOf, State.func, State.ctx, hg, hl,
    hc, hf, hi]
  rfl

@[simp] theorem State.fetched_funcs : (s.fetched c).host.funcs = s.host.funcs := by
  unfold State.fetched State.takeEntry; split <;> rfl

@[simp] theorem State.fetched_inflight : (s.fetched c).host.inflight = s.host.inflight := by
  unfold State.fetched State.takeEntry; split <;> rfl

@[simp] theorem State.gate_fetched (feats : List Nat) : (s.fetched c).gate c feats = s.gate c feats :=
  State.gate_congr s c _ feats (by simp) (by simp) (by simp) (by simp) (by simp)

/-- A command that can be fetched, is in sequence and passes its checks is concluded as its body says. -/
theorem State.command_runs (feats : List Nat) (body : State → Verdict) (hf : s.fetchable c = true)
    (hq : c.seq = s.expects c) (hg : s.gate c feats = none) (hb : Cmd.badFlags c = false) :
    s.command c feats body = State.conclude c (body (s.fetched c)) := by
  simp [State.command, hf, hq.symm, State.checked, hg, hb]

/-- A command that cannot be fetched changes nothing. -/
theorem State.command_waits (feats : List Nat) (body : State → Verdict) (hf : s.fetchable c = false) :
    s.command c feats body = s := by simp [State.command, hf]

/-- A command in sequence that fails a check of R412 is answered at once. -/
theorem State.command_refused (feats : List Nat) (body : State → Verdict) (r : Reply) (hf : s.fetchable c = true)
    (hq : c.seq = s.expects c) (hg : s.gate c feats = some r) :
    s.command c feats body = State.conclude c (.reply (s.fetched c) r) := by
  simp [State.command, hf, hq.symm, State.checked, hg]

end

end Sys2Proof.Machine
end

