-- ==== Sys2Proof/Laws/Command.lean ====
section
/-!
SUPPORT. A host command from its packet to its completion: what a row does with an accepted command, and that its
completion stands at the head of its ring's kept commands.
-/
namespace Sys2Proof.Machine

theorem accepts_opcode {s : State} {c : Cmd} {op : Nat} {feats : List Nat} (h : accepts s c op feats = true) :
    c.opcode = op := by
  simp only [accepts, Bool.and_eq_true, decide_eq_true_eq] at h; exact h.1.1.1.1

theorem accepts_fetchable {s : State} {c : Cmd} {op : Nat} {feats : List Nat} (h : accepts s c op feats = true) :
    s.fetchable c = true := by
  simp only [accepts, Bool.and_eq_true] at h; exact h.1.1.1.2

/-- A row runs its own chapter on an accepted command. -/
theorem State.row_runs {s : State} {c : Cmd} {op : Nat} {feats : List Nat} (body : State → Verdict)
    (h : accepts s c op feats = true) : s.row c op feats body = State.conclude c (body (s.fetched c)) := by
  simp only [accepts, Bool.and_eq_true, decide_eq_true_eq, Option.isNone_iff_eq_none, Bool.not_eq_true'] at h
  obtain ⟨⟨⟨⟨ho, hf⟩, hq⟩, hg⟩, hb⟩ := h
  rw [State.row, if_pos ho, State.command_runs s c feats body hf hq hg hb]

/-- A row that is one operation of an opcode does the same on its own packets. -/
theorem State.subRow_runs {s : State} {c : Cmd} {op : Nat} {sel : Cmd → Bool} {feats : List Nat} (body : State → Verdict)
    (hs : sel c = true) (h : accepts s c op feats = true) :
    s.subRow c op sel feats body = State.conclude c (body (s.fetched c)) := by
  rw [State.subRow, if_pos hs, State.row_runs body h]

/-- A packet of another opcode is none of a row's commands. -/
theorem State.row_other {s : State} {c : Cmd} {op : Nat} {feats : List Nat} (body : State → Verdict) (h : c.opcode ≠ op) :
    s.row c op feats body = s := by rw [State.row, if_neg h]

/-- A packet that cannot be fetched now changes nothing, whatever its row. -/
theorem State.row_waits {s : State} {c : Cmd} (op : Nat) (feats : List Nat) (body : State → Verdict)
    (h : s.fetchable c = false) : s.row c op feats body = s := by
  unfold State.row; split
  · exact State.command_waits s c _ _ h
  · rfl

theorem State.subRow_waits {s : State} {c : Cmd} (op : Nat) (sel : Cmd → Bool) (feats : List Nat) (body : State → Verdict)
    (h : s.fetchable c = false) : s.subRow c op sel feats body = s := by
  unfold State.subRow; split
  · exact State.row_waits _ _ _ h
  · rfl

theorem State.powerRow_waits {s : State} {c : Cmd} (op : Nat) (sel : Cmd → Bool) (body : State → Verdict)
    (h : s.fetchable c = false) : s.powerRow c op sel body = s := by
  unfold State.powerRow; simp [h, State.subRow_waits]

/-! ### The heartbeat a POWER_SET over MCTP counts as (18, R504) -/

/-- `beat` changes the power block alone. -/
theorem State.beat_eq (s : State) : ∃ g, s.beat = s.updPwr g := ⟨_, rfl⟩

/-! ### Parameters -/

/-- Parameters whose reserved bytes are 0 and whose rules all hold let the command run. -/
theorem params_run {s : State} {c : Cmd} {used : List (Nat × Nat)} {rules : List (Bool × Nat)} (k : Verdict)
    (hz : reservedZero c used = true) (hr : ∀ r ∈ rules, r.1 = false) : params s c used rules k = k := by
  have hn : (rules.filterMap fun r => if r.1 then some r.2 else none) = [] := by
    rw [List.filterMap_eq_nil_iff]
    intro r h; simp [hr r h]
  simp only [reservedZero, Option.isNone_iff_eq_none] at hz
  simp [params, Cmd.badParam, hz, hn]

/-- Checks that all pass let the command go on. -/
theorem checks_run {s : State} {l : List (Bool × Reply)} (k : Verdict) (h : ∀ r ∈ l, r.1 = false) : checks s l k = k := by
  induction l with
  | nil => rfl
  | cons r l ih =>
    have h1 : r.1 = false := h r List.mem_cons_self
    have h2 := ih fun q hq => h q (List.mem_cons_of_mem _ hq)
    obtain ⟨b, rep⟩ := r
    simp only at h1
    simp [checks, h1, h2]

/-! ### Kept commands -/

@[simp] theorem State.consAdd_ring (s : State) (id n f m : Nat) : (s.consAdd id n).ring f m = s.ring f m := rfl
@[simp] theorem State.sample_ring (s : State) (h v f m : Nat) : (s.sample h v).ring f m = s.ring f m := rfl

@[simp] theorem State.doorbell_ring (s : State) (g j f m : Nat) : (s.doorbell g j).ring f m = s.ring f m := by
  unfold State.doorbell; dsimp only; split
  · rfl
  · split <;> rfl

theorem Ring.upd_kept (s : State) (f n g m : Nat) (u : Ring → Ring) (h : ∀ r, (u r).kept = r.kept) :
    ((s.updRing f n u).ring g m).kept = (s.ring g m).kept := by
  by_cases e : ringKey g m = ringKey f n
  · have : (s.updRing f n u).ring g m = u (s.ring g m) := by
      simp only [State.ring, e]; exact State.updRing_ring_same s f n u
    rw [this, h]
  · rw [State.updRing_ring_ne s f n u g m e]

/-- Writing a completion entry keeps every kept command. -/
@[simp] theorem State.writeEntry_kept (s : State) (f n : Nat) (c : Completion) (q : Bool) (g m : Nat) :
    ((s.writeEntry f n c q).ring g m).kept = (s.ring g m).kept := by
  unfold State.writeEntry; dsimp only
  split
  · exact Ring.upd_kept s f n g m _ fun _ => rfl
  · split
    · rw [State.doorbell_ring]; exact Ring.upd_kept s f n g m _ fun _ => rfl
    · split
      · exact Ring.upd_kept s f n g m _ fun _ => rfl
      · rw [State.doorbell_ring]; exact Ring.upd_kept s f n g m _ fun _ => rfl

theorem keepLimit_pos (r : Ring) (n : Nat) : ∃ m, keepLimit r n = m + 1 := by
  have h : 0 < ringEntries r.sqSize := Nat.two_pow_pos _
  unfold keepLimit
  split
  · exact ⟨4095, rfl⟩
  · exact ⟨min 4096 (ringEntries r.sqSize) - 1, by omega⟩

/-- A fetched command heads its ring's kept commands, without a completion. -/
theorem State.fetched_head (s : State) (c : Cmd) :
    ((s.fetched c).ring c.fn.val c.ring.val).kept.head? = some { seq := c.seq, bytes := c.masked } := by
  simp [State.fetched]

/-- The completion of the command that heads its ring's kept commands stands with it. -/
theorem State.finish_head (s : State) (f n : Nat) (q : Word) (t : Nat) (i : Bool) (r : Reply) (b : List Byte)
    (h : (s.ring f n).kept.head? = some { seq := q, bytes := b }) :
    ((s.finish f n q t i r).ring f n).kept.head? =
      some { seq := q, bytes := b, comp := some { seq := q, status := r.status, detail := r.detail, result := r.result } } := by
  obtain ⟨ks, hk⟩ : ∃ ks, (s.ring f n).kept = { seq := q, bytes := b } :: ks := by
    cases hr : (s.ring f n).kept with
    | nil => simp [hr] at h
    | cons k ks => simp only [hr, List.head?_cons, Option.some.injEq] at h; exact ⟨ks, by rw [h]⟩
  unfold State.finish
  simp only [State.sample_ring, State.consAdd_ring, hk, List.find?_cons, decide_true, Option.isNone_none, Bool.and_self,
    Option.elim_some, upto, List.range_zero, foldS_nil, State.writeEntry_kept, State.updRing_ring_same, List.map_cons,
    if_true]
  obtain ⟨m, hm⟩ := keepLimit_pos (s.ring f n) n
  rw [hm]
  rfl

/-- A command concluded at once with a status other than BUSY_RETRY is answered, if its chapter left its kept entry. -/
theorem State.conclude_answered (s : State) (c : Cmd) (r : Reply) (hr : r.status ≠ stBusy)
    (h : (s.ring c.fn.val c.ring.val).kept.head? = some { seq := c.seq, bytes := c.masked }) :
    Answered (State.conclude c (.reply s r)) c r := by
  rw [State.conclude, State.withWait_of_ne s r hr]
  exact State.finish_head s _ _ _ _ _ r _ h

/-- A command that its chapter leaves open is in flight. -/
theorem State.conclude_waits (s : State) (c : Cmd) (w : WaitFor) : Waits (State.conclude c (.later s w)) c w :=
  ⟨{ fn := c.fn.val, ring := c.ring.val, seq := c.seq, opcode := c.byte 0, noIrq := c.noIrq, since := s.time, wait := w },
    by simp [State.conclude], rfl, rfl, rfl, rfl⟩

end Sys2Proof.Machine
end

