-- ==== Sys2Proof/WellFormed.lean ====
section
/-!
DEFINITION. Which commands can occur: a packet has 64 bytes and the opcode of its row, an object has the size its chapter
gives it, a register access lies where the register map allows one.  The machine itself is total on ill-formed commands;
the statements use these checks where they need them.
-/
namespace Sys2Proof

open Sys2Proof.Machine

/-- A command packet: 64 bytes (15, R411), and the MCTP path belongs to PF0 (15, R431). -/
def Cmd.wf (c : Cmd) : Bool := decide (c.bytes.length = 64) && (decide (c.ring.val ≠ 8) || decide (c.fn.val = 0))

/-- `n` bytes of an image from byte `off` on, and `k` entries of `n` bytes. -/
def Image.cut (g : Image) (off n : Nat) : List Byte := (upto n).map fun i => g.raw.at (off + i)
def Image.entries (g : Image) (off n k : Nat) : List (List Byte) := (upto k).map fun i => Image.cut g (off + n * i) n

/-- Owners of a FRAME section, slot by slot. -/
def slotOwners (l : List SlotRun) : List Byte := l.flatMap fun r => List.replicate r.count r.owner

/-- A schedule image's parts are the bytes of its sections, wherever the spec gives their layout (05, R106-R113): header and
directory, OPLIST and BUFMAP entries, opcodes of segments, channel programs, slot owners, digest. -/
def Image.wf (g : Image) : Bool :=
  let secs (t : Nat) := g.dir.filter fun e => e.kind = t
  decide (g.header = Image.cut g 0 64) && decide (lb g.header 12 4 = g.dir.length) &&
  decide (g.dir.map (fun e => leBytes 4 e.kind ++ leBytes 4 e.offset ++ leBytes 4 e.length ++ leBytes 4 e.arg) =
    Image.entries g 64 16 g.dir.length) &&
  decide (g.ops = (secs 1).flatMap fun e => Image.entries g e.offset 32 (e.length / 32)) &&
  decide (g.bufs = (secs 4).flatMap fun e => Image.entries g e.offset 32 (e.length / 32)) &&
  decide (g.segs.map (fun p => (p.1, p.2.map SInstr.opcode)) = ((secs 2).zip g.segs).map fun e =>
    (e.1.arg, (upto e.2.2.length).map fun j => (g.raw.at (e.1.offset + 8 * j)).toNat)) &&
  decide (g.progs = (secs 3).map fun e => (e.arg, Image.entries g e.offset 32 (e.length / 32))) &&
  decide (g.frames.map (fun p => (p.1, slotOwners p.2)) = (secs 5).map fun e => (e.arg, Image.cut g e.offset e.length)) &&
  decide (g.digest = (secs 7).flatMap fun e => Image.cut g e.offset e.length)

/-- The queue a descriptor goes to fits its work (05, R111; 06, R147; 10, R270; 04, R81): operations of the DPP and the TSU, step
preparation, appends and channel starts on X, matrix work on M, vectors on V0 and V1. -/
def queueFits (q : Fin 4) (w : Work) : Bool :=
  match w with
  | .load _ _ _ | .stream _ _ _ _ _ _ | .drain _ _ _ _ _ _ _ _ | .patch _ _ _ _ _ _ _ => q == 0
  | .vec _ _ _ _ _ _ _ => q != 0 && q != 3
  | .attn _ _ _ _ _ _ _ _ | .attnSkip _ _ => q != 3
  | .kvPrep _ | .append _ _ | .dpp _ | .tsu _ | .dma _ => q == 3

/-- A place inside its local store or the Basket (04, R86; 12, R310). -/
def Place.ok : Place → Bool
  | .store _ off => decide (off < 0x300000)
  | .basket off => decide (off < 0x6000000)
  | .ctxVa va => decide (va < 2 ^ 48)

/-- Places and sizes of a descriptor's work: a rotary width is even and within a row (07, R178). -/
def workOk : Work → Bool
  | .load _ b _ => b.place.ok && b.scales.ok
  | .stream _ _ _ _ a _ => a.place.ok && a.scales.ok
  | .drain _ _ _ _ bias residual out _ =>
    out.ok && (bias.map (·.place.ok)).getD true && (residual.map (·.place.ok)).getD true
  | .vec _ v a b c _ out =>
    a.place.ok && b.place.ok && c.place.ok && out.ok && (match v with
      | .rotary _ w _ => w % 2 == 0 && decide (w ≤ a.len)
      | _ => true)
  | .attn _ _ _ _ _ _ query out => query.place.ok && query.scales.ok && out.ok
  | .patch _ _ _ _ _ x _ => x.place.ok
  | .append _ src => src.place.ok
  | .attnSkip _ _ | .kvPrep _ | .dpp _ | .tsu _ | .dma _ => true

/-- A channel-program instruction: 32 bytes opening with its opcode (12, R334-R337). -/
def dmaIns (opcode : Nat) (ins : List Byte) : Bool := decide (ins.length = 32) && decide (lb ins 0 1 = opcode)

/-- The bytes of BAR0 a requester reaches: 1 MiB for a VF, else 64 MiB (15, R400). -/
def Requester.span : Requester → Nat
  | .function f => if f.val = 0 then 0x400_0000 else 0x10_0000
  | _ => 0x400_0000

/-- A 4- or 8-byte access at a multiple of its size inside BAR0 (00, R7; 15, R400). -/
def accessOk (r : Requester) (off : Nat) (wide : Bool) : Bool :=
  decide (off % (if wide then 8 else 4) = 0) && decide (off < r.span)

/-- A frame's payload has at most 2,048 bytes (16, R447). -/
def Frame.wf (f : Frame) : Bool := decide (f.payload.length ≤ 2048)

/-- The packet of a row with host packets, whether or not it has an opcode of its own. -/
def packetOf : Instr → Option Cmd
  | .undefinedOpcode c => some c
  | i => (hostRow i).map Prod.fst

/-- The packet is the row's: 64 bytes and the row's opcode and operation, or an undefined opcode (15, R415). -/
def packetOk (i : Instr) : Bool :=
  match hostRow i with
  | some (c, op, sel) => c.wf && decide (c.opcode = op) && sel
  | none =>
    match i with
    | .undefinedOpcode c => c.wf && !opcodeDefined c.opcode
    | _ => true

/-- The objects a command carries have their sizes. -/
def objectsOk : Instr → Bool
  | .schedLoad _ img => img.wf
  | .issue _ q d => queueFits q d.work && workOk d.work
  | .move _ ins _ => dmaIns 1 ins
  | .dmaLoop _ ins => dmaIns 2 ins
  | .wait _ ins => dmaIns 3 ins
  | .signal _ ins => dmaIns 4 ins
  | .registerWrite r off wide _ => accessOk r off wide
  | .rcRead r off wide => accessOk r off wide
  | .loReadLatch r off => accessOk r off false
  | .unsupportedAccess _ off width _ => !((decide (width = 4) || decide (width = 8)) && decide (off % width = 0))
  | .rinseUnit _ _ hits => decide (hits.length ≤ 32)
  | .relay f _ _ _ => f.wf
  | .hello f _ => f.wf
  | .data f => f.wf
  | .confirm f => f.wf
  | .revoke f => f.wf
  | .mbx f _ => f.wf
  | .mbxNak f => f.wf
  | .credit f _ => f.wf
  | .keepalive f => f.wf
  | .bye f => f.wf
  | .mailboxWrite _ _ _ bytes => decide (bytes.length ≤ 64)
  | .mctpMessage (.command bytes _ _ _ _) => decide (bytes.length = 64)
  | _ => true

/-- The command is one the block can be sent. -/
def WellFormed (i : Instr) : Bool := packetOk i && objectsOk i

end Sys2Proof
end

