-- ==== Sys2Proof/Laws/PerInstr.lean ====
section
/-!
SUPPORT. The family PacketRow: what a well-formed command of a host-packet row is, one lemma for each constructor.
-/
namespace Sys2Proof.Laws

open Sys2Proof Sys2Proof.Machine

/-- A well-formed command of a row with a packet: 64 bytes, the row's opcode and operation, and the opcode is one that
15, R415 lists. -/
def PacketRow.Statement (i : Instr) : Prop :=
  WellFormed i = true → ∀ (c : Cmd) (op : Nat) (own : Bool), hostRow i = some (c, op, own) →
    c.bytes.length = 64 ∧ c.opcode = op ∧ own = true ∧ opcodeDefined op = true

/-- What well-formedness says of any packet row. -/
theorem wf_packet {i : Instr} {c : Cmd} {op : Nat} {own : Bool} (h : WellFormed i = true) (hr : hostRow i = some (c, op, own)) :
    c.bytes.length = 64 ∧ c.opcode = op ∧ own = true := by
  simp only [WellFormed, packetOk, hr, Cmd.wf, Bool.and_eq_true, decide_eq_true_eq] at h
  exact ⟨h.1.1.1.1, h.1.1.2, h.1.2⟩

/-- A packet row whose opcode R415 lists. -/
theorem packet_row {i : Instr} (hop : ∀ c op own, hostRow i = some (c, op, own) → opcodeDefined op = true) :
    PacketRow.Statement i := by
  intro h c op own hr
  obtain ⟨a, b, d⟩ := wf_packet h hr
  exact ⟨a, b, d, hop c op own hr⟩

/-- A row without a packet. -/
theorem no_packet {i : Instr} (hn : hostRow i = none) : PacketRow.Statement i := by
  intro _ c op own hr
  rw [hn] at hr
  cases hr

theorem PacketRow.nop (c : Cmd) : PacketRow.Statement (.nop c) :=
  packet_row fun _ _ _ h => by cases h; rfl
theorem PacketRow.negotiate (c : Cmd) : PacketRow.Statement (.negotiate c) :=
  packet_row fun _ _ _ h => by cases h; rfl
theorem PacketRow.identify (c : Cmd) : PacketRow.Statement (.identify c) :=
  packet_row fun _ _ _ h => by cases h; rfl
theorem PacketRow.undefinedOpcode (c : Cmd) : PacketRow.Statement (.undefinedOpcode c) :=
  no_packet rfl
theorem PacketRow.ctxOpen (c : Cmd) : PacketRow.Statement (.ctxOpen c) :=
  packet_row fun _ _ _ h => by cases h; rfl
theorem PacketRow.ctxClose (c : Cmd) : PacketRow.Statement (.ctxClose c) :=
  packet_row fun _ _ _ h => by cases h; rfl
theorem PacketRow.ctxReset (c : Cmd) : PacketRow.Statement (.ctxReset c) :=
  packet_row fun _ _ _ h => by cases h; rfl
theorem PacketRow.ctxQuery (c : Cmd) : PacketRow.Statement (.ctxQuery c) :=
  packet_row fun _ _ _ h => by cases h; rfl
theorem PacketRow.schedLoad (c : Cmd) (img : Image) : PacketRow.Statement (.schedLoad c img) :=
  packet_row fun _ _ _ h => by cases h; rfl
theorem PacketRow.schedUnload (c : Cmd) : PacketRow.Statement (.schedUnload c) :=
  packet_row fun _ _ _ h => by cases h; rfl
theorem PacketRow.weightsLoad (c : Cmd) (pkg : Blob) (unwrapOk tagsOk : Bool) : PacketRow.Statement (.weightsLoad c pkg unwrapOk tagsOk) :=
  packet_row fun _ _ _ h => by cases h; rfl
theorem PacketRow.weightsUnload (c : Cmd) : PacketRow.Statement (.weightsUnload c) :=
  packet_row fun _ _ _ h => by cases h; rfl
theorem PacketRow.patchLoad (c : Cmd) (pkg : Blob) : PacketRow.Statement (.patchLoad c pkg) :=
  packet_row fun _ _ _ h => by cases h; rfl
theorem PacketRow.patchRetire (c : Cmd) : PacketRow.Statement (.patchRetire c) :=
  packet_row fun _ _ _ h => by cases h; rfl
theorem PacketRow.grammarLoad (c : Cmd) (table : Blob) : PacketRow.Statement (.grammarLoad c table) :=
  packet_row fun _ _ _ h => by cases h; rfl
theorem PacketRow.grammarUnload (c : Cmd) : PacketRow.Statement (.grammarUnload c) :=
  packet_row fun _ _ _ h => by cases h; rfl
theorem PacketRow.reqSubmit (c : Cmd) : PacketRow.Statement (.reqSubmit c) :=
  packet_row fun _ _ _ h => by cases h; rfl
theorem PacketRow.reqCancel (c : Cmd) : PacketRow.Statement (.reqCancel c) :=
  packet_row fun _ _ _ h => by cases h; rfl
theorem PacketRow.reqQuery (c : Cmd) : PacketRow.Statement (.reqQuery c) :=
  packet_row fun _ _ _ h => by cases h; rfl
theorem PacketRow.accountSet (c : Cmd) : PacketRow.Statement (.accountSet c) :=
  packet_row fun _ _ _ h => by cases h; rfl
theorem PacketRow.accountQuery (c : Cmd) : PacketRow.Statement (.accountQuery c) :=
  packet_row fun _ _ _ h => by cases h; rfl
theorem PacketRow.prefixPin (c : Cmd) : PacketRow.Statement (.prefixPin c) :=
  packet_row fun _ _ _ h => by cases h; rfl
theorem PacketRow.prefixRelease (c : Cmd) : PacketRow.Statement (.prefixRelease c) :=
  packet_row fun _ _ _ h => by cases h; rfl
theorem PacketRow.jobRun (c : Cmd) : PacketRow.Statement (.jobRun c) :=
  packet_row fun _ _ _ h => by cases h; rfl
theorem PacketRow.jobAbort (c : Cmd) : PacketRow.Statement (.jobAbort c) :=
  packet_row fun _ _ _ h => by cases h; rfl
theorem PacketRow.vidOpen (c : Cmd) : PacketRow.Statement (.vidOpen c) :=
  packet_row fun _ _ _ h => by cases h; rfl
theorem PacketRow.decodeAu (c : Cmd) : PacketRow.Statement (.decodeAu c) :=
  packet_row fun _ _ _ h => by cases h; rfl
theorem PacketRow.encode (c : Cmd) : PacketRow.Statement (.encode c) :=
  packet_row fun _ _ _ h => by cases h; rfl
theorem PacketRow.release (c : Cmd) (hostList : List (BitVec 32)) : PacketRow.Statement (.release c hostList) :=
  packet_row fun _ _ _ h => by cases h; rfl
theorem PacketRow.acquire (c : Cmd) : PacketRow.Statement (.acquire c) :=
  packet_row fun _ _ _ h => by cases h; rfl
theorem PacketRow.eos (c : Cmd) : PacketRow.Statement (.eos c) :=
  packet_row fun _ _ _ h => by cases h; rfl
theorem PacketRow.vidClose (c : Cmd) : PacketRow.Statement (.vidClose c) :=
  packet_row fun _ _ _ h => by cases h; rfl
theorem PacketRow.vidReconfig (c : Cmd) : PacketRow.Statement (.vidReconfig c) :=
  packet_row fun _ _ _ h => by cases h; rfl
theorem PacketRow.lineConfigLine (c : Cmd) : PacketRow.Statement (.lineConfigLine c) :=
  packet_row fun _ _ _ h => by cases h; rfl
theorem PacketRow.lineConfigTrigger (c : Cmd) : PacketRow.Statement (.lineConfigTrigger c) :=
  packet_row fun _ _ _ h => by cases h; rfl
theorem PacketRow.linePosition (c : Cmd) : PacketRow.Statement (.linePosition c) :=
  packet_row fun _ _ _ h => by cases h; rfl
theorem PacketRow.pegArm (c : Cmd) : PacketRow.Statement (.pegArm c) :=
  packet_row fun _ _ _ h => by cases h; rfl
theorem PacketRow.pegDisarm (c : Cmd) : PacketRow.Statement (.pegDisarm c) :=
  packet_row fun _ _ _ h => by cases h; rfl
theorem PacketRow.attest (c : Cmd) (answers : Bool) : PacketRow.Statement (.attest c answers) :=
  packet_row fun _ _ _ h => by cases h; rfl
theorem PacketRow.keyRotate (c : Cmd) : PacketRow.Statement (.keyRotate c) :=
  packet_row fun _ _ _ h => by cases h; rfl
theorem PacketRow.create (c : Cmd) (doc : AdmissionDoc) : PacketRow.Statement (.create c doc) :=
  packet_row fun _ _ _ h => by cases h; rfl
theorem PacketRow.join (c : Cmd) (doc : AdmissionDoc) (sponsorAnswers : Bool) : PacketRow.Statement (.join c doc sponsorAnswers) :=
  packet_row fun _ _ _ h => by cases h; rfl
theorem PacketRow.leave (c : Cmd) : PacketRow.Statement (.leave c) :=
  packet_row fun _ _ _ h => by cases h; rfl
theorem PacketRow.rekey (c : Cmd) (doc : AdmissionDoc) : PacketRow.Statement (.rekey c doc) :=
  packet_row fun _ _ _ h => by cases h; rfl
theorem PacketRow.fwStage (c : Cmd) (bundle : Bundle) (chain : List (BitVec 128)) : PacketRow.Statement (.fwStage c bundle chain) :=
  packet_row fun _ _ _ h => by cases h; rfl
theorem PacketRow.live (c : Cmd) : PacketRow.Statement (.live c) :=
  packet_row fun _ _ _ h => by cases h; rfl
theorem PacketRow.nextStart (c : Cmd) : PacketRow.Statement (.nextStart c) :=
  packet_row fun _ _ _ h => by cases h; rfl
theorem PacketRow.fwStatus (c : Cmd) : PacketRow.Statement (.fwStatus c) :=
  packet_row fun _ _ _ h => by cases h; rfl
theorem PacketRow.quiesce (c : Cmd) : PacketRow.Statement (.quiesce c) :=
  packet_row fun _ _ _ h => by cases h; rfl
theorem PacketRow.drain (c : Cmd) : PacketRow.Statement (.drain c) :=
  packet_row fun _ _ _ h => by cases h; rfl
theorem PacketRow.resume (c : Cmd) : PacketRow.Statement (.resume c) :=
  packet_row fun _ _ _ h => by cases h; rfl
theorem PacketRow.setCap (c : Cmd) : PacketRow.Statement (.setCap c) :=
  packet_row fun _ _ _ h => by cases h; rfl
theorem PacketRow.setRamp (c : Cmd) : PacketRow.Statement (.setRamp c) :=
  packet_row fun _ _ _ h => by cases h; rfl
theorem PacketRow.heartbeat (c : Cmd) : PacketRow.Statement (.heartbeat c) :=
  packet_row fun _ _ _ h => by cases h; rfl
theorem PacketRow.doze (c : Cmd) : PacketRow.Statement (.doze c) :=
  packet_row fun _ _ _ h => by cases h; rfl
theorem PacketRow.wake (c : Cmd) : PacketRow.Statement (.wake c) :=
  packet_row fun _ _ _ h => by cases h; rfl
theorem PacketRow.setLimits (c : Cmd) : PacketRow.Statement (.setLimits c) :=
  packet_row fun _ _ _ h => by cases h; rfl
theorem PacketRow.powerQuery (c : Cmd) : PacketRow.Statement (.powerQuery c) :=
  packet_row fun _ _ _ h => by cases h; rfl
theorem PacketRow.telemetrySnapshot (c : Cmd) : PacketRow.Statement (.telemetrySnapshot c) :=
  packet_row fun _ _ _ h => by cases h; rfl
theorem PacketRow.lifetimeRead (c : Cmd) : PacketRow.Statement (.lifetimeRead c) :=
  packet_row fun _ _ _ h => by cases h; rfl
theorem PacketRow.checkConfig (c : Cmd) : PacketRow.Statement (.checkConfig c) :=
  packet_row fun _ _ _ h => by cases h; rfl
theorem PacketRow.checkQuery (c : Cmd) : PacketRow.Statement (.checkQuery c) :=
  packet_row fun _ _ _ h => by cases h; rfl
theorem PacketRow.setMode (c : Cmd) : PacketRow.Statement (.setMode c) :=
  packet_row fun _ _ _ h => by cases h; rfl
theorem PacketRow.tableEntry (c : Cmd) : PacketRow.Statement (.tableEntry c) :=
  packet_row fun _ _ _ h => by cases h; rfl
theorem PacketRow.port (c : Cmd) : PacketRow.Statement (.port c) :=
  packet_row fun _ _ _ h => by cases h; rfl
theorem PacketRow.dropPeer (c : Cmd) : PacketRow.Statement (.dropPeer c) :=
  packet_row fun _ _ _ h => by cases h; rfl
theorem PacketRow.linkQuery (c : Cmd) : PacketRow.Statement (.linkQuery c) :=
  packet_row fun _ _ _ h => by cases h; rfl
theorem PacketRow.sqTailWrite (fn : Fn) (ring : Fin 8) (value : Word) (pcie : Pcie) : PacketRow.Statement (.sqTailWrite fn ring value pcie) :=
  no_packet rfl
theorem PacketRow.cqHeadWrite (fn : Fn) (ring : Fin 8) (value : Word) : PacketRow.Statement (.cqHeadWrite fn ring value) :=
  no_packet rfl
theorem PacketRow.ringEnableWrite (fn : Fn) (ring : Fin 8) (value : Word) (pcie : Pcie) : PacketRow.Statement (.ringEnableWrite fn ring value pcie) :=
  no_packet rfl
theorem PacketRow.ringReconfigure (fn : Fn) (ring : Fin 8) (reg : Fin 6) (value : Word) : PacketRow.Statement (.ringReconfigure fn ring reg value) :=
  no_packet rfl
theorem PacketRow.tbHeadWrite (fn : Fn) (value : Word) : PacketRow.Statement (.tbHeadWrite fn value) :=
  no_packet rfl
theorem PacketRow.veqHeadWrite (fn : Fn) (value : Word) : PacketRow.Statement (.veqHeadWrite fn value) :=
  no_packet rfl
theorem PacketRow.dbMaskWrite (fn : Fn) (value : Word) : PacketRow.Statement (.dbMaskWrite fn value) :=
  no_packet rfl
theorem PacketRow.mbxPost (value : Word) : PacketRow.Statement (.mbxPost value) :=
  no_packet rfl
theorem PacketRow.mbxRxPop (value : Word) : PacketRow.Statement (.mbxRxPop value) :=
  no_packet rfl
theorem PacketRow.dmaChResume (by_ : Requester) (ch : Fin 272) : PacketRow.Statement (.dmaChResume by_ ch) :=
  no_packet rfl
theorem PacketRow.dmaChSkip (by_ : Requester) (ch : Fin 272) : PacketRow.Statement (.dmaChSkip by_ ch) :=
  no_packet rfl
theorem PacketRow.dmaChAbort (by_ : Requester) (ch : Fin 272) : PacketRow.Statement (.dmaChAbort by_ ch) :=
  no_packet rfl
theorem PacketRow.clkCtlSrcWrite (by_ : Requester) (value : Word) : PacketRow.Statement (.clkCtlSrcWrite by_ value) :=
  no_packet rfl
theorem PacketRow.muxSwitchDone (mux : Fin 7) : PacketRow.Statement (.muxSwitchDone mux) :=
  no_packet rfl
theorem PacketRow.fmeasStart (value : Word) : PacketRow.Statement (.fmeasStart value) :=
  no_packet rfl
theorem PacketRow.fmeasDone (edges : Word) : PacketRow.Statement (.fmeasDone edges) :=
  no_packet rfl
theorem PacketRow.telSnapTake (value : Word) : PacketRow.Statement (.telSnapTake value) :=
  no_packet rfl
theorem PacketRow.telHistClear (value : Word) : PacketRow.Statement (.telHistClear value) :=
  no_packet rfl
theorem PacketRow.drnLastClear (value : Word) : PacketRow.Statement (.drnLastClear value) :=
  no_packet rfl
theorem PacketRow.registerWrite (by_ : Requester) (off : Nat) (wide : Bool) (value : BitVec 64) : PacketRow.Statement (.registerWrite by_ off wide value) :=
  no_packet rfl
theorem PacketRow.rcRead (by_ : Requester) (off : Nat) (wide : Bool) : PacketRow.Statement (.rcRead by_ off wide) :=
  no_packet rfl
theorem PacketRow.loReadLatch (by_ : Requester) (off : Nat) : PacketRow.Statement (.loReadLatch by_ off) :=
  no_packet rfl
theorem PacketRow.unsupportedAccess (fn : Fn) (off width : Nat) (isRead : Bool) : PacketRow.Statement (.unsupportedAccess fn off width isRead) :=
  no_packet rfl
theorem PacketRow.configRequest (fn : Fn) (vfEnable : Option Bool) : PacketRow.Statement (.configRequest fn vfEnable) :=
  no_packet rfl
theorem PacketRow.interlockHeartbeat (core : CoreAB) : PacketRow.Statement (.interlockHeartbeat core) :=
  no_packet rfl
theorem PacketRow.releaseFault (core : CoreAB) : PacketRow.Statement (.releaseFault core) :=
  no_packet rfl
theorem PacketRow.releasePlanned (core : CoreAB) : PacketRow.Statement (.releasePlanned core) :=
  no_packet rfl
theorem PacketRow.take (core : CoreAB) (inp : RestoreInput) : PacketRow.Statement (.take core inp) :=
  no_packet rfl
theorem PacketRow.encoderTransition (line : Fin 8) (kind : Enc) (tooFast : Bool) : PacketRow.Statement (.encoderTransition line kind tooFast) :=
  no_packet rfl
theorem PacketRow.indexPulse (line : Fin 8) : PacketRow.Statement (.indexPulse line) :=
  no_packet rfl
theorem PacketRow.triggerEdge (trigger : Fin 4) (rising : Bool) : PacketRow.Statement (.triggerEdge trigger rising) :=
  no_packet rfl
theorem PacketRow.lineStopped (line : Fin 16) : PacketRow.Statement (.lineStopped line) :=
  no_packet rfl
theorem PacketRow.velocityUpdate : PacketRow.Statement .velocityUpdate :=
  no_packet rfl
theorem PacketRow.missHoldExpiry : PacketRow.Statement .missHoldExpiry :=
  no_packet rfl
theorem PacketRow.stepBegin (ctx : CtxId) : PacketRow.Statement (.stepBegin ctx) :=
  no_packet rfl
theorem PacketRow.opBegin (core : CoreId) (op : Nat) (temp : Int) : PacketRow.Statement (.opBegin core op temp) :=
  no_packet rfl
theorem PacketRow.issue (core : CoreId) (queue : Fin 4) (desc : Desc) : PacketRow.Statement (.issue core queue desc) :=
  no_packet rfl
theorem PacketRow.creditWait (core : CoreId) (reg : Fin 32) (count : Nat) : PacketRow.Statement (.creditWait core reg count) :=
  no_packet rfl
theorem PacketRow.creditWaitRelease (core : CoreId) : PacketRow.Statement (.creditWaitRelease core) :=
  no_packet rfl
theorem PacketRow.creditSend (core : CoreId) (dst : CoreId) (reg : Fin 32) (count : Nat) : PacketRow.Statement (.creditSend core dst reg count) :=
  no_packet rfl
theorem PacketRow.checkSlot (core : CoreId) (cycles : Nat) (equal : List Bool) : PacketRow.Statement (.checkSlot core cycles equal) :=
  no_packet rfl
theorem PacketRow.modeFence (core : CoreId) (press : Bool) : PacketRow.Statement (.modeFence core press) :=
  no_packet rfl
theorem PacketRow.modeFenceProceed (excessNs : Nat) : PacketRow.Statement (.modeFenceProceed excessNs) :=
  no_packet rfl
theorem PacketRow.stepFence (core : CoreId) : PacketRow.Statement (.stepFence core) :=
  no_packet rfl
theorem PacketRow.loop (core : CoreId) (count target : Nat) : PacketRow.Statement (.loop core count target) :=
  no_packet rfl
theorem PacketRow.waitDma (core : CoreId) (channel : Fin 4) (count : Nat) : PacketRow.Statement (.waitDma core channel count) :=
  no_packet rfl
theorem PacketRow.waitDmaRelease (core : CoreId) : PacketRow.Statement (.waitDmaRelease core) :=
  no_packet rfl
theorem PacketRow.opEnd (core : CoreId) (op : Nat) (urgent : Option CtxId) : PacketRow.Statement (.opEnd core op urgent) :=
  no_packet rfl
theorem PacketRow.engineInstructionStart (core : CoreId) (queue : Fin 4) : PacketRow.Statement (.engineInstructionStart core queue) :=
  no_packet rfl
theorem PacketRow.stepFenceComplete (ctx : CtxId) (inp : FenceInput) : PacketRow.Statement (.stepFenceComplete ctx inp) :=
  no_packet rfl
theorem PacketRow.stepWatchdogExpiry (ctx : CtxId) : PacketRow.Statement (.stepWatchdogExpiry ctx) :=
  no_packet rfl
theorem PacketRow.forcedWashPause (act : WashAct) : PacketRow.Statement (.forcedWashPause act) :=
  no_packet rfl
theorem PacketRow.washPauseEnd : PacketRow.Statement .washPauseEnd :=
  no_packet rfl
theorem PacketRow.dppOperation (mismatch : Bool) : PacketRow.Statement (.dppOperation mismatch) :=
  no_packet rfl
theorem PacketRow.dppImageDone (cycles : Word) : PacketRow.Statement (.dppImageDone cycles) :=
  no_packet rfl
theorem PacketRow.tsuOperation (mismatch : Bool) : PacketRow.Statement (.tsuOperation mismatch) :=
  no_packet rfl
theorem PacketRow.tsuPositionDone (lane : Fin 16) (entry index : Nat) : PacketRow.Statement (.tsuPositionDone lane entry index) :=
  no_packet rfl
theorem PacketRow.move (ch : Fin 272) (ins : List Byte) (meets : MoveMeets) : PacketRow.Statement (.move ch ins meets) :=
  no_packet rfl
theorem PacketRow.mmuFaultResolve (ctx : CtxId) (ch : Option (Fin 272)) (core : Option CoreId) : PacketRow.Statement (.mmuFaultResolve ctx ch core) :=
  no_packet rfl
theorem PacketRow.moveComplete (ch : Fin 272) : PacketRow.Statement (.moveComplete ch) :=
  no_packet rfl
theorem PacketRow.dmaLoop (ch : Fin 272) (ins : List Byte) : PacketRow.Statement (.dmaLoop ch ins) :=
  no_packet rfl
theorem PacketRow.wait (ch : Fin 272) (ins : List Byte) : PacketRow.Statement (.wait ch ins) :=
  no_packet rfl
theorem PacketRow.waitSatisfied (ch : Fin 272) : PacketRow.Statement (.waitSatisfied ch) :=
  no_packet rfl
theorem PacketRow.signal (ch : Fin 272) (ins : List Byte) : PacketRow.Statement (.signal ch ins) :=
  no_packet rfl
theorem PacketRow.accessError (ch : Fin 272) (err : AccessErr) (write : Bool) (space addr offset : Nat) : PacketRow.Statement (.accessError ch err write space addr offset) :=
  no_packet rfl
theorem PacketRow.transactionTimeout (ch : Fin 272) (tag : Nat) (write : Bool) (space addr offset : Nat) : PacketRow.Statement (.transactionTimeout ch tag write space addr offset) :=
  no_packet rfl
theorem PacketRow.lateResponse (tag : Nat) : PacketRow.Statement (.lateResponse tag) :=
  no_packet rfl
theorem PacketRow.tagQuarantineEnd (tag : Nat) : PacketRow.Statement (.tagQuarantineEnd tag) :=
  no_packet rfl
theorem PacketRow.chTimeout (ch : Fin 272) : PacketRow.Statement (.chTimeout ch) :=
  no_packet rfl
theorem PacketRow.rinseUnit (kind : Fin 4) (addr : Nat) (hits : List EccHit) : PacketRow.Statement (.rinseUnit kind addr hits) :=
  no_packet rfl
theorem PacketRow.weightReloadDone (ctx : CtxId) : PacketRow.Statement (.weightReloadDone ctx) :=
  no_packet rfl
theorem PacketRow.keyPassUnit (ctx : CtxId) (raced : Bool) : PacketRow.Statement (.keyPassUnit ctx raced) :=
  no_packet rfl
theorem PacketRow.accountRefill : PacketRow.Statement .accountRefill :=
  no_packet rfl
theorem PacketRow.nostepBoundary : PacketRow.Statement .nostepBoundary :=
  no_packet rfl
theorem PacketRow.tokenRingTimeout (ctx : CtxId) : PacketRow.Statement (.tokenRingTimeout ctx) :=
  no_packet rfl
theorem PacketRow.pictureStart (pic : PictureTaken) : PacketRow.Statement (.pictureStart pic) :=
  no_packet rfl
theorem PacketRow.pictureDone (pipe : Fin 3) (res : PicResult) : PacketRow.Statement (.pictureDone pipe res) :=
  no_packet rfl
theorem PacketRow.sliceDone (bits : Nat) (last : Bool) (data : List Byte) : PacketRow.Statement (.sliceDone bits last data) :=
  no_packet rfl
theorem PacketRow.pictureWatchdog (pipe : Fin 3) (res : PicResult) : PacketRow.Statement (.pictureWatchdog pipe res) :=
  no_packet rfl
theorem PacketRow.powerControllerTick (inputDw : Nat) (thermalW : Nat) : PacketRow.Statement (.powerControllerTick inputDw thermalW) :=
  no_packet rfl
theorem PacketRow.pmbusTelemetry (vin iin pin temp : Word) : PacketRow.Statement (.pmbusTelemetry vin iin pin temp) :=
  no_packet rfl
theorem PacketRow.brakeAssert : PacketRow.Statement .brakeAssert :=
  no_packet rfl
theorem PacketRow.brakeRelease : PacketRow.Statement .brakeRelease :=
  no_packet rfl
theorem PacketRow.pwrWarnAssert : PacketRow.Statement .pwrWarnAssert :=
  no_packet rfl
theorem PacketRow.pwrWarnRelease : PacketRow.Statement .pwrWarnRelease :=
  no_packet rfl
theorem PacketRow.coolantFault (flow : Bool) (inlet : Int) : PacketRow.Statement (.coolantFault flow inlet) :=
  no_packet rfl
theorem PacketRow.coolantFaultClear (flow : Bool) (inlet : Int) : PacketRow.Statement (.coolantFaultClear flow inlet) :=
  no_packet rfl
theorem PacketRow.dieSensorRead (temps : List Int) : PacketRow.Statement (.dieSensorRead temps) :=
  no_packet rfl
theorem PacketRow.dozeEntryTimeout : PacketRow.Statement .dozeEntryTimeout :=
  no_packet rfl
theorem PacketRow.thermalRelease : PacketRow.Statement .thermalRelease :=
  no_packet rfl
theorem PacketRow.heartbeatLoss : PacketRow.Statement .heartbeatLoss :=
  no_packet rfl
theorem PacketRow.orphan : PacketRow.Statement .orphan :=
  no_packet rfl
theorem PacketRow.xtalLost : PacketRow.Statement .xtalLost :=
  no_packet rfl
theorem PacketRow.muxHung (mux : Fin 7) : PacketRow.Statement (.muxHung mux) :=
  no_packet rfl
theorem PacketRow.crystalStable : PacketRow.Statement .crystalStable :=
  no_packet rfl
theorem PacketRow.enSenseMake : PacketRow.Statement .enSenseMake :=
  no_packet rfl
theorem PacketRow.switchOpen (cause : OpenCause) : PacketRow.Statement (.switchOpen cause) :=
  no_packet rfl
theorem PacketRow.powerGood : PacketRow.Statement .powerGood :=
  no_packet rfl
theorem PacketRow.stageComplete (stage : Stage) (res : StageResult) : PacketRow.Statement (.stageComplete stage res) :=
  no_packet rfl
theorem PacketRow.stageTimeout : PacketRow.Statement .stageTimeout :=
  no_packet rfl
theorem PacketRow.crystalTimeout : PacketRow.Statement .crystalTimeout :=
  no_packet rfl
theorem PacketRow.perstAssert : PacketRow.Statement .perstAssert :=
  no_packet rfl
theorem PacketRow.flrVf (ctx : CtxId) : PacketRow.Statement (.flrVf ctx) :=
  no_packet rfl
theorem PacketRow.flrPf0 (vfEnableCleared : Bool) : PacketRow.Statement (.flrPf0 vfEnableCleared) :=
  no_packet rfl
theorem PacketRow.linkLoss : PacketRow.Statement .linkLoss :=
  no_packet rfl
theorem PacketRow.latchOpen : PacketRow.Statement .latchOpen :=
  no_packet rfl
theorem PacketRow.mctpMessage (m : Mctp) : PacketRow.Statement (.mctpMessage m) :=
  no_packet rfl
theorem PacketRow.doeRequest (fn : Fn) (secure : Bool) : PacketRow.Statement (.doeRequest fn secure) :=
  no_packet rfl
theorem PacketRow.ideIntegrityFail (fn : Fn) : PacketRow.Statement (.ideIntegrityFail fn) :=
  no_packet rfl
theorem PacketRow.tlpOutsideStream (fn : Fn) : PacketRow.Statement (.tlpOutsideStream fn) :=
  no_packet rfl
theorem PacketRow.commandTimeout (fn : Fn) (ring : Fin 9) (seq : Word) : PacketRow.Statement (.commandTimeout fn ring seq) :=
  no_packet rfl
theorem PacketRow.rtpLate : PacketRow.Statement .rtpLate :=
  no_packet rfl
theorem PacketRow.drainLimit : PacketRow.Statement .drainLimit :=
  no_packet rfl
theorem PacketRow.heartbeatTimeout : PacketRow.Statement .heartbeatTimeout :=
  no_packet rfl
theorem PacketRow.gapExpiry : PacketRow.Statement .gapExpiry :=
  no_packet rfl
theorem PacketRow.selfTestCycle (fail : Fin 5) : PacketRow.Statement (.selfTestCycle fail) :=
  no_packet rfl
theorem PacketRow.takeBack : PacketRow.Statement .takeBack :=
  no_packet rfl
theorem PacketRow.subHeartbeatMiss (sub : Fin 6) : PacketRow.Statement (.subHeartbeatMiss sub) :=
  no_packet rfl
theorem PacketRow.soakStandbyDone : PacketRow.Statement .soakStandbyDone :=
  no_packet rfl
theorem PacketRow.soakStandbyTimeout : PacketRow.Statement .soakStandbyTimeout :=
  no_packet rfl
theorem PacketRow.soakActiveEnd : PacketRow.Statement .soakActiveEnd :=
  no_packet rfl
theorem PacketRow.recoveryReset : PacketRow.Statement .recoveryReset :=
  no_packet rfl
theorem PacketRow.relay (f : Frame) (last : Bool) (bundle : Bundle) (next : Option (BitVec 128)) : PacketRow.Statement (.relay f last bundle next) :=
  no_packet rfl
theorem PacketRow.relayReport (hop : Nat) (cause : Fin 6) : PacketRow.Statement (.relayReport hop cause) :=
  no_packet rfl
theorem PacketRow.relayReportTimeout : PacketRow.Statement .relayReportTimeout :=
  no_packet rfl
theorem PacketRow.cableInsertion (port : Fin 4) : PacketRow.Statement (.cableInsertion port) :=
  no_packet rfl
theorem PacketRow.cableRemoval (port : Fin 4) : PacketRow.Statement (.cableRemoval port) :=
  no_packet rfl
theorem PacketRow.cableInitDone (port : Fin 4) (active : Bool) (maxPower : Byte) (ready : Bool) (temp : Byte) : PacketRow.Statement (.cableInitDone port active maxPower ready temp) :=
  no_packet rfl
theorem PacketRow.cableInitTimeout (port : Fin 4) : PacketRow.Statement (.cableInitTimeout port) :=
  no_packet rfl
theorem PacketRow.trainDone (port : Fin 4) (lanes : Byte) (peerV12 : Bool) : PacketRow.Statement (.trainDone port lanes peerV12) :=
  no_packet rfl
theorem PacketRow.trainTimeout (port : Fin 4) : PacketRow.Statement (.trainTimeout port) :=
  no_packet rfl
theorem PacketRow.retryExpiry (port : Fin 4) : PacketRow.Statement (.retryExpiry port) :=
  no_packet rfl
theorem PacketRow.laneLoss (port : Fin 4) : PacketRow.Statement (.laneLoss port) :=
  no_packet rfl
theorem PacketRow.cablePoll (port : Fin 4) (alarm : Bool) (temp : Byte) : PacketRow.Statement (.cablePoll port alarm temp) :=
  no_packet rfl
theorem PacketRow.keepaliveSend (entry : Fin 256) : PacketRow.Statement (.keepaliveSend entry) :=
  no_packet rfl
theorem PacketRow.missedWindow (entry : Fin 256) : PacketRow.Statement (.missedWindow entry) :=
  no_packet rfl
theorem PacketRow.hello (f : Frame) (h : Hello) : PacketRow.Statement (.hello f h) :=
  no_packet rfl
theorem PacketRow.data (f : Frame) : PacketRow.Statement (.data f) :=
  no_packet rfl
theorem PacketRow.confirm (f : Frame) : PacketRow.Statement (.confirm f) :=
  no_packet rfl
theorem PacketRow.revoke (f : Frame) : PacketRow.Statement (.revoke f) :=
  no_packet rfl
theorem PacketRow.mbx (f : Frame) (macOk : Bool) : PacketRow.Statement (.mbx f macOk) :=
  no_packet rfl
theorem PacketRow.mbxNak (f : Frame) : PacketRow.Statement (.mbxNak f) :=
  no_packet rfl
theorem PacketRow.credit (f : Frame) (count : Nat) : PacketRow.Statement (.credit f count) :=
  no_packet rfl
theorem PacketRow.keepalive (f : Frame) : PacketRow.Statement (.keepalive f) :=
  no_packet rfl
theorem PacketRow.bye (f : Frame) : PacketRow.Statement (.bye f) :=
  no_packet rfl
theorem PacketRow.mailboxWrite (m : Fin 24) (senderClass senderIndex : Nat) (bytes : List Byte) : PacketRow.Statement (.mailboxWrite m senderClass senderIndex bytes) :=
  no_packet rfl
theorem PacketRow.periodicSnapshot : PacketRow.Statement .periodicSnapshot :=
  no_packet rfl
theorem PacketRow.snapshotCapture : PacketRow.Statement .snapshotCapture :=
  no_packet rfl
theorem PacketRow.lifetimeFlush : PacketRow.Statement .lifetimeFlush :=
  no_packet rfl
theorem PacketRow.summaryWrite : PacketRow.Statement .summaryWrite :=
  no_packet rfl
theorem PacketRow.perstDeassert : PacketRow.Statement .perstDeassert :=
  no_packet rfl
theorem PacketRow.pcieLinkUp (speed width : Nat) : PacketRow.Statement (.pcieLinkUp speed width) :=
  no_packet rfl
theorem PacketRow.latchClose : PacketRow.Statement .latchClose :=
  no_packet rfl
theorem PacketRow.msixUnmask (fn : Fn) (vector : Fin 32) : PacketRow.Statement (.msixUnmask fn vector) :=
  no_packet rfl
theorem PacketRow.clkPllSettingWrite (pll : Fin 6) (value : Word) : PacketRow.Statement (.clkPllSettingWrite pll value) :=
  no_packet rfl
theorem PacketRow.weightReloadTimeout (ctx : CtxId) : PacketRow.Statement (.weightReloadTimeout ctx) :=
  no_packet rfl
theorem PacketRow.sponsorTimeout : PacketRow.Statement .sponsorTimeout :=
  no_packet rfl
theorem PacketRow.inputInRange : PacketRow.Statement .inputInRange :=
  no_packet rfl
theorem PacketRow.tripLatchClear : PacketRow.Statement .tripLatchClear :=
  no_packet rfl

end Sys2Proof.Laws
end

