-- ==== Sys2Proof/Laws/Serves.lean ====
section
/-!
SUPPORT. What serving a host command leaves as it was in the host interface and the counters (RingServed): each step of
fetching and completing keeps it, so a command answered at once from its fetched state has it.
-/
namespace Sys2Proof

open Sys2Proof.Machine

/-- RingServed, with the commands in flight as they were. -/
def Quiet (c : Cmd) (s t : State) : Prop := RingServed c s t ∧ t.host.inflight = s.host.inflight

theorem Quiet.refl (c : Cmd) (s : State) : Quiet c s s :=
  ⟨⟨fun _ _ => rfl, rfl, fun _ _ _ => rfl, rfl, .inl rfl, rfl, rfl⟩, rfl⟩

theorem Quiet.trans {c : Cmd} {s t u : State} (h : Quiet c s t) (k : Quiet c t u) : Quiet c s u := by
  obtain ⟨⟨a1, a2, a3, a4, _, a6, a7⟩, ai⟩ := h
  obtain ⟨⟨b1, b2, b3, b4, _, b6, b7⟩, bi⟩ := k
  refine ⟨⟨fun g hg => (b1 g hg).trans (a1 g hg), b2.trans ?_, fun g m hm => (b3 g m hm).trans (a3 g m hm), b4.trans ?_,
    .inl (bi.trans ai), b6.trans ?_, b7.trans ?_⟩, bi.trans ai⟩
  · rw [a2]
  · rw [a4]
  · rw [a6]
  · rw [a7]

/-- A state whose host interface and counters are those of `t` is as quiet as `t`. -/
theorem Quiet.of_eq {c : Cmd} {s t u : State} (h : Quiet c s t) (hh : u.host = t.host) (ht : u.tel = t.tel) : Quiet c s u := by
  refine h.trans ⟨⟨fun g _ => ?_, ?_, fun g m _ => ?_, ?_, .inl (by rw [hh]), ?_, ?_⟩, by rw [hh]⟩ <;>
    simp only [State.func, State.ring, hh, ht]

theorem Quiet.foldS {c : Cmd} {α : Type} (f : State → α → State) (h : ∀ s a, Quiet c s (f s a)) (l : List α) (s : State) :
    Quiet c s (Machine.foldS l f s) := by
  induction l generalizing s with
  | nil => exact Quiet.refl c s
  | cons a r ih => exact (h s a).trans (ih (f s a))

theorem quiet_consAdd (c : Cmd) (s : State) (id n : Nat) : Quiet c s (s.consAdd id n) :=
  ⟨⟨fun _ _ => rfl, rfl, fun _ _ _ => rfl, rfl, .inl rfl, rfl, rfl⟩, rfl⟩

theorem quiet_sample (c : Cmd) (s : State) (h v : Nat) : Quiet c s (s.sample h v) := by
  refine ⟨⟨fun _ _ => rfl, rfl, fun _ _ _ => rfl, rfl, .inl rfl, rfl, ?_⟩, rfl⟩
  simp only [State.sample, State.updTel_tel]
  split <;> rfl

theorem quiet_hostPut (c : Cmd) (s : State) (f a : Nat) (bs : List Byte) : Quiet c s (s.hostPut f a bs) :=
  ⟨⟨fun _ _ => rfl, rfl, fun _ _ _ => rfl, rfl, .inl rfl, rfl, rfl⟩, rfl⟩

/-- A change of the command's own ring in what serving may change. -/
theorem quiet_updRing (c : Cmd) (s : State) (g : Ring → Ring)
    (h : ∀ r, g r = { r with
      sqHead := (g r).sqHead, expected := (g r).expected, kept := (g r).kept, cq := (g r).cq, cqTail := (g r).cqTail
      unwritten := (g r).unwritten, enable := (g r).enable, writeErr := (g r).writeErr }) :
    Quiet c s (s.updRing c.fn.val c.ring.val g) := by
  refine ⟨⟨fun _ _ => rfl, rfl, fun f m hm => State.updRing_ring_ne s _ _ g _ _ hm, ?_, .inl rfl, rfl, rfl⟩, rfl⟩
  rw [State.updRing_ring_same]
  exact h _

/-- A doorbell of the command's own function. -/
theorem quiet_doorbell (c : Cmd) (s : State) (j : Nat) : Quiet c s (s.doorbell c.fn.val j) := by
  have hu : Quiet c s (s.updFunc c.fn.val fun w => { w with dbPend := w.dbPend ||| (1 <<< j) }) := by
    refine ⟨⟨fun g hg => State.updFunc_func_ne s _ _ _ ?_, ?_, fun _ _ _ => rfl, rfl, .inl rfl, rfl, rfl⟩, rfl⟩
    · exact fun e => hg (Fin.ext e)
    · rw [State.updFunc_func_same]
  unfold State.doorbell; dsimp only; split
  · exact Quiet.refl c s
  · split
    · exact hu
    · exact hu.trans ⟨⟨fun _ _ => rfl, rfl, fun _ _ _ => rfl, rfl, .inl rfl, rfl, rfl⟩, rfl⟩

theorem quiet_writeEntry (c : Cmd) (s : State) (e : Completion) (q : Bool) :
    Quiet c s (s.writeEntry c.fn.val c.ring.val e q) := by
  unfold State.writeEntry; dsimp only; split
  · exact quiet_updRing c s _ fun _ => rfl
  · split
    · exact (quiet_updRing c s _ fun _ => rfl).trans (quiet_doorbell c _ 24)
    · have h : Quiet c s ((s.hostPut c.fn.val _ e.toBytes).updRing c.fn.val c.ring.val _) :=
        (quiet_hostPut c s c.fn.val ((s.ring c.fn.val c.ring.val).cqBase.toNat +
          32 * (s.ring c.fn.val c.ring.val).cqTail) e.toBytes).trans (quiet_updRing c _ (fun r =>
          { r with cq := r.cq ++ [e], cqTail := (r.cqTail + 1) % ringEntries (s.ring c.fn.val c.ring.val).cqSize }) fun _ => rfl)
      split
      · exact h
      · exact h.trans (quiet_doorbell c _ _)

theorem quiet_fetched (c : Cmd) (s : State) : Quiet c s (s.fetched c) := by
  have h : Quiet c s (s.takeEntry c.fn.val c.ring.val) := by
    unfold State.takeEntry; split
    · exact Quiet.refl c s
    · exact quiet_updRing c s _ fun _ => rfl
  exact (h.trans (quiet_updRing c _ _ fun _ => rfl)).trans (quiet_consAdd c _ _ _)

theorem quiet_finish (c : Cmd) (s : State) (q : Word) (t : Nat) (i : Bool) (r : Reply) :
    Quiet c s (s.finish c.fn.val c.ring.val q t i r) := by
  unfold State.finish; dsimp only
  refine Quiet.trans ?_ (Quiet.foldS _ (fun s _ => (quiet_writeEntry c s _ _).trans (quiet_consAdd c _ _ _)) _ _)
  refine Quiet.trans ?_ (quiet_writeEntry c _ _ _)
  refine Quiet.trans ?_ (quiet_updRing c _ _ fun _ => rfl)
  exact (quiet_consAdd c s _ _).trans (quiet_sample c _ _ _)

/-- A command answered at once, from a state that serving it has reached. -/
theorem conclude_reply_quiet {c : Cmd} {s t : State} (r : Reply) (h : Quiet c s t) :
    Quiet c s (State.conclude c (.reply t r)) := by
  have hw : Quiet c t (t.withWait r).1 := (Quiet.refl c t).of_eq (State.withWait_host t r) (State.withWait_tel t r)
  exact (h.trans hw).trans (quiet_finish c _ _ _ _ _)

/-- A command left open, from a state that serving it has reached: it stands last among the commands in flight. -/
theorem conclude_later_served {c : Cmd} {s t : State} (w : WaitFor) (h : Quiet c s t) :
    RingServed c s (State.conclude c (.later t w)) := by
  obtain ⟨⟨a1, a2, a3, a4, _, a6, a7⟩, ai⟩ := h
  refine ⟨a1, a2, a3, a4, .inr ?_, ?_, a7⟩
  · simp only [State.conclude, State.updHost_host, ai]
    exact ⟨_, List.mem_append_right _ (List.mem_singleton.2 rfl), rfl, rfl, rfl, rfl⟩
  · simp only [State.conclude, State.updHost_host]
    rw [a6]

/-- A row that answers an accepted command at once, with the host interface and the counters as its chapter found them. -/
theorem State.row_served {s : State} {c : Cmd} {op : Nat} {feats : List Nat} {body : State → Verdict} {t : State} {r : Reply}
    (h : accepts s c op feats = true) (hb : body (s.fetched c) = .reply t r) (hh : t.host = (s.fetched c).host)
    (ht : t.tel = (s.fetched c).tel) : RingServed c s (s.row c op feats body) := by
  rw [State.row_runs body h, hb]
  exact (conclude_reply_quiet r ((quiet_fetched c s).of_eq hh ht)).1

/-! ### The blocks a host command leaves alone -/

theorem Block.same_trans {b : Block} {s t u : State} (h : b.same s t) (k : b.same t u) : b.same s u := by
  cases b <;> exact Eq.trans k h

theorem KeepsBut.trans {l : List Block} {s t u : State} (h : KeepsBut l s t) (k : KeepsBut l t u) : KeepsBut l s u :=
  ⟨k.1.trans h.1, fun b hb => Block.same_trans (h.2 b hb) (k.2 b hb)⟩

theorem KeepsBut.mono {l m : List Block} {s t : State} (h : KeepsBut l s t) (hm : ∀ b ∈ l, b ∈ m) : KeepsBut m s t :=
  ⟨h.1, fun b hb => h.2 b fun hl => hb (hm b hl)⟩

theorem fetched_keeps (c : Cmd) (s : State) : KeepsBut cmdBlocks s (s.fetched c) := by
  refine ⟨State.fetched_pending s c, fun b hb => ?_⟩
  cases b <;> simp_all [cmdBlocks, Block.same]

theorem finish_keeps (s : State) (f n : Nat) (q : Word) (t : Nat) (i : Bool) (r : Reply) :
    KeepsBut cmdBlocks s (s.finish f n q t i r) := by
  refine ⟨State.finish_pending s f n q t i r, fun b hb => ?_⟩
  cases b <;> simp_all [cmdBlocks, Block.same]

/-- A row that answers an accepted command at once with a status other than BUSY_RETRY, its chapter having changed `more`. -/
theorem State.row_serves {more : List Block} {s : State} {c : Cmd} {op : Nat} {feats : List Nat} {body : State → Verdict}
    {t : State} {r : Reply} (h : accepts s c op feats = true) (hb : body (s.fetched c) = .reply t r) (hr : r.status ≠ stBusy)
    (hk : KeepsBut more (s.fetched c) t) (hh : t.host = (s.fetched c).host) (ht : t.tel = (s.fetched c).tel) :
    Serves more c s (s.row c op feats body) := by
  refine ⟨?_, State.row_served h hb hh ht⟩
  have hc : ∀ b ∈ cmdBlocks, b ∈ more ++ cmdBlocks := fun b hb => List.mem_append_right _ hb
  rw [State.row_runs body h, hb, State.conclude, State.withWait_of_ne t r hr]
  exact (((fetched_keeps c s).mono hc).trans (hk.mono fun b hb => List.mem_append_left _ hb)).trans
    ((finish_keeps t _ _ _ _ _ r).mono hc)

end Sys2Proof
end

