-- ==== Sys2Proof/Tests/Slice0.lean ====
section
/-!
SUPPORT. Tests of the model against values taken from the spec, the refusals of WellFormed, and for every statement of
Certificates/Slice0/Obligations.lean a state and operands that meet the hypotheses of each of its clauses.
-/
namespace Sys2Proof.Tests

open Sys2Proof Sys2Proof.Machine

set_option Elab.async false

/-! ### Small states and packets -/

/-- A command packet of version 2.0 with sequence number 0: opcode, and runs of bytes from given offsets. -/
def pkt (fn : Fn) (ring : Fin 9) (op : Byte) (ps : List (Nat × List Byte)) : Cmd :=
  { fn, ring
    bytes := ps.foldl (fun l p => l.take p.1 ++ p.2 ++ l.drop (p.1 + p.2.length)) ([op, 0, 0, 2] ++ List.replicate 60 0) }
/-- A packet of PF0 and one of VF1, on ring 0. -/
def pf (op : Byte) (ps : List (Nat × List Byte)) : Cmd := pkt 0 0 op ps
def vf (op : Byte) (ps : List (Nat × List Byte)) : Cmd := pkt 1 0 op ps

def ringUp : Ring := { enable := true, sqTail := 1 }
/-- A module in READY with PF0's and VF1's first rings enabled and one entry waiting in each, minor version 3 and all features
in use, core A in charge, context 0 open. -/
def up : State :=
  { board := { enSense := true, inputOk := true, closed := true, powered := true, perst := false, health := true, suspect := false }
    host := { linkUp := true, vfEnable := true, funcs := [(0, { minor := 3, features := 0x3F }), (1, { minor := 3, features := 0x3F })]
              rings := [(0, ringUp), (9, ringUp)] }
    glb := { state := .ready, stage := 8, readyReached := true, startingUp := false }
    ctl := { owner := some .a }
    ctxs := [(0, { st := .ready, reqQuota := 8, mmuSize := 4096 })]
    time := 2 ^ 42 }
/-- `up` in another module state. -/
def upIn (st : ModState) : State := up.updGlb fun g => { g with state := st }
/-- `up` with context 0 changed. -/
def upCtx (f : Ctx → Ctx) : State := up.updCtx 0 f
/-- `up` with the crystal, the power input or the start-up in another condition. -/
def upGlb (f : Glb → Glb) : State := up.updGlb f
def upClk (f : Clk → Clk) : State := up.updClk f
def upPwr (f : Pwr → Pwr) : State := up.updPwr f
def upPeg (f : PegUnit → PegUnit) : State := up.updPeg f
def upCtl (f : Ctl → Ctl) : State := up.updCtl f
def upHost (f : HostIf → HostIf) : State := up.updHost f
def upVid (f : Vid → Vid) : State := up.updVid f
def upLnk (f : Lnk → Lnk) : State := up.updLnk f
def upBoard (f : Board → Board) : State := up.updBoard f
def upTel (f : Tel → Tel) : State := up.updTel f
def upSec (f : Sec → Sec) : State := up.updSec f
def upTsu (f : Tsu → Tsu) : State := up.updTsu f
def upDma (f : Dma → Dma) : State := up.updDma f
def upMem (f : Mem → Mem) : State := up.updMem f
def upArr (f : Arr → Arr) : State := up.updArr f
def upMbx (f : Mbx → Mbx) : State := up.updMbx f
def upLine (n : Nat) (f : Line → Line) : State := up.updLine n f
def upRing (f : Nat) (g : Ring → Ring) : State := up.updRing f 0 g
def upFunc (f : Nat) (g : Func → Func) : State := up.updFunc f g
/-- Start-up with stage `n` reached. -/
def starting (n : Nat) : State :=
  upGlb fun g => { g with state := .init, stage := n, startingUp := true, readyReached := false }
/-- A NOP of sequence number 0 that completed OK, as its ring keeps it. -/
def keptNop : Kept := { seq := 0, bytes := (pf 0 []).masked, copies := 0, comp := some { seq := 0 } }
def upDrn (f : Drn → Drn) : State := up.updDrn f
/-- Bytes with runs written over zeros. -/
def blk (n : Nat) (ps : List (Nat × List Byte)) : List Byte :=
  ps.foldl (fun l p => l.take p.1 ++ p.2 ++ l.drop (p.1 + p.2.length)) (List.replicate n 0)
def blob (bs : List Byte) : Blob := { runs := bs.map fun b => (1, b) }
/-- A grammar table of 256 bytes over 2 tokens with one accepting state and no mask. -/
def gramOne : Blob :=
  blob (blk 256 [(0, [0x47, 0x52, 0x4D, 0x54, 1]), (8, [2, 0, 0, 0, 1]), (24, [64, 0, 0, 0, 80]), (32, [80, 0, 0, 0, 80]),
    (64, [0xFF, 0xFF, 0xFF, 0xFF]), (76, [0xFF, 0xFF, 0xFF, 0x80])])
/-- A patch package of 132 bytes: rank 1, one point, no columns. -/
def patchOne : Blob := blob (blk 132 [(0, [0x50, 0x41, 0x54, 0x48, 1]), (8, [1]), (76, [80])])
def patchHeld : PatchSlot := { st := .ready, id := 9, version := 1, pins := 1 }
/-- The smallest image: one operation, one SCRATCH buffer, 64 segments of a STEP_FENCE, a NoC frame of open slots. -/
def imgHeader : List Byte :=
  blk 64 [(0, [0x5A, 0x53, 0x43, 0x48, 0, 5, 0, 0, 0x70, 0x25, 0, 0, 69, 0, 0, 0, 1, 0, 0, 0, 0, 16, 0, 0, 100, 0, 0, 0, 8]),
    (32, [1, 0, 0, 0, 1])]
def imgDir : List DirEntry :=
  { kind := 1, offset := 1216, length := 32 } :: ((upto 64).map fun c => { kind := 2, offset := 1344 + 64 * c, length := 8, arg := c }) ++
    [{ kind := 4, offset := 1280, length := 32 }, { kind := 5, offset := 5440, length := 4096, arg := 0x10 },
     { kind := 6, offset := 1344 }, { kind := 7, offset := 9536, length := 48 }]
/-- Its bytes before the DIGEST section. -/
def imgHead : Blob :=
  { runs := (imgHeader ++ (imgDir.flatMap fun e => leBytes 4 e.kind ++ leBytes 4 e.offset ++ leBytes 4 e.length ++ leBytes 4 e.arg)).map
        (fun b => (1, b)) ++
      [(52, 0), (1, 7), (61, 0), (1, 4), (1, 0x40), (60, 0)] ++ ((upto 64).flatMap fun _ => [(1, 7), (63, 0)]) ++ [(4096, 0xE0)] }
def imgWith (digest : List Byte) : Image :=
  { raw := { runs := imgHead.runs ++ digest.map fun b => (1, b) }
    header := imgHeader, dir := imgDir, ops := [blk 32 [(4, [7])]], bufs := [blk 32 [(2, [4, 0x40])]]
    segs := (upto 64).map fun c => (c, [.stepFence])
    frames := [(0x10, [{ owner := 0xE0, count := 4096 }])], digest }
def imgOne : Image := imgWith (List.replicate 48 0)
def imgDig : Image := imgWith (sha384 imgHead.bytes)
/-- An image with a step preparation of the given role and 131,072 positions. -/
def imgRoleOf (r : Byte) : Image := { ops := [blk 32 [(4, [7])]], descs := [(0, blk 64 [(0, [1]), (12, [0, 0, 2]), (32, [r])])] }
/-- Context 0 with a decode and a prefill image, an account and a selection block, the module QUIESCED. -/
def serving : State :=
  ((upCtx fun x =>
      { x with images := [(0, some (imgRoleOf 1)), (1, some (imgRoleOf 2))]
               accounts := [(1023, { known := true, enable := true, inCost := 1, outCost := 1, depth := 8 })] }).updMem fun m =>
    { m with xlat := [(0, { valid := true, read := true })]
             cells := [(ctxKey 0 18, 0x80), (ctxKey 0 19, 0x3F), (ctxKey 0 26, 0x80), (ctxKey 0 27, 0x3F)] }).updGlb fun g =>
    { g with state := .quiesced }
def withReq (r : Req) : State := upCtx fun x => { x with reqs := [r] }
def acctOne : Account := { known := true, enable := true, rate := 1500, depth := 10, level := 9 }
def inflightOf (w : WaitFor) : Inflight := { wait := w }
def docOne (gen : Word) : AdmissionDoc := { setId := 9, gen, modules := [0] }
def upSess (k : Nat) (x : Sess) : State := up.updSess k fun _ => { x with opened := true }
def sessOne : Sess := { opened := true, cfg := { buffers := 2 }, subs := [{}] }
/-- Pipe `p` decodes a picture of session 255. -/
def running (p : Nat) : State :=
  (up.updSess 255 fun _ => { sessOne with st := .running }).updVid fun v => { v with pipes := [(p, { busy := true, session := 255 })] }
/-- The encode pipe works on session 63's picture. -/
def encoding : State :=
  (up.updSess 319 fun _ => { sessOne with st := .running, subs := [{ kind := 1 }] }).updVid fun v =>
    { v with pipes := [(2, { busy := true, session := 63, enc := true })] }
def standby : State := upCtl fun k => { k with cores := [(0, { health := .active }), (1, { health := .standbyOk })] }
def frameOne : Frame := { port := 3, src := 0, peer := 7 }
/-- Entry `e` holds an UP session with module 7 on port 3. -/
def linked (e : Nat) : State :=
  (up.updPort 3 fun p => { p with st := .up }).updPeer e fun p => { p with st := .up, id := 7, port := 3, index := 0 }
def portIn (st : PortSt) : State := up.updPort 3 fun p => { p with st }
/-- `linked 255` with one credit out on virtual channel `vc`. -/
def credited (vc : Nat) : State := ((linked 255).updPeer 255 fun p => { p with encrypted := true }).consAdd (cid 0x53 (lnkIdx 255 vc)) 1
/-- Context 0 holds the array with these steps; core 63 runs its segment. -/
def upCoreSteps (l : List StepRec) : State :=
  (upCtx fun x => { x with st := .running, steps := l }).updArr fun a => { a with cur := some 0, cores := [(63, { sstate := .run })] }
def stepping : State := upCoreSteps [{ k := 5 }]
/-- Every core waits at a MODE_FENCE. -/
def atFence (press : Bool) : State :=
  stepping.updArr fun a => { a with cores := (upto 64).map fun n => (n, { sstate := .waitFence, modeFence := some press }) }
def upDpp (f : Dpp → Dpp) : State := up.updDpp f
/-- A DPP operation over two images. -/
def dppTwo : DppOp := { op := 9, desc := blk 64 [(6, [2])] }
def dppUp (image : Nat) : State := (upCoreSteps [{ k := 5 }]).updDpp fun d => { d with queue := [dppTwo], busy := true, image }
/-- A VERIFY operation over one sequence with one draft. -/
def tsuOne : TsuOp := { op := 9, desc := blk 32 [(0, [2]), (8, [2])] }
def tsuUp (busy : Bool) : State :=
  (upCoreSteps [{ entries := [{ req := 5, slot := 0, drafts := 1 }] }]).updTsu fun u =>
    { u with queue := [tsuOne], busy, lanes := if busy then 1 else 0 }
def chanWith (k : Chan) : State := up.updDma fun d => { d with chans := [(271, k)] }

theorem runsBytes_append (a b : List (Nat × Byte)) : runsBytes (a ++ b) = runsBytes a ++ runsBytes b := by
  induction a with
  | nil => rfl
  | cons x a ih => simp [runsBytes, ih]

/-- The digest of such an image is that of the bytes before its DIGEST section. -/
theorem imgWith_digest (g : List Byte) : imgDigest (imgWith g) = sha384 imgHead.bytes := by
  have h : imgHead.bytes.length = 9536 := by decide +kernel
  have d : (((imgSecs (imgWith g) 7).head?.map (·.offset)).getD 0) = 9536 := by
    show ((((imgDir.filter fun e => decide (e.kind = 7)).head?.map (·.offset)).getD 0) = 9536)
    decide +kernel
  have r : (imgWith g).raw.bytes = imgHead.bytes ++ runsBytes (g.map fun b => (1, b)) := runsBytes_append _ _
  unfold imgDigest
  rw [d, r, ← h, List.take_left]

theorem imgWith_own (g : List Byte) (h : g = sha384 imgHead.bytes) : (imgWith g).digest = imgDigest (imgWith g) := by
  rw [imgWith_digest, ← h]
  rfl
theorem imgDig_digest : imgDig.digest = imgDigest imgDig := imgWith_own (sha384 imgHead.bytes) rfl

/-- Core 63 stands at instruction `i` of its segment; the image holds one operation. -/
def segWith (l : List StepRec) (i : SInstr) (op : List Byte) : State :=
  (upCoreSteps l).updCtx 0 fun x => { x with images := [(0, some { segs := [(63, [i])], ops := [op] })] }
def seg (i : SInstr) : State := segWith [{ k := 5 }] i []
/-- Channel `ch` has taken up the instruction. -/
def took (s : State) (ch : Nat) (ins : List Byte) : State := (s.takeUp ch ins).getD s
def mvInside : List Byte := blk 32 [(0, [1, 2, 0, 0x40]), (10, [0xC0, 0xFF, 0xFF, 5]), (16, [64, 0, 0, 0, 1])]
def mvCopy : List Byte := blk 32 [(0, [1, 0, 0x40, 0x40]), (10, [64]), (16, [64, 0, 0, 0, 1])]
def mvBeyond : List Byte := blk 32 [(0, [1, 2, 0, 0x40]), (10, [0xC0, 0xFF, 0xFF, 5]), (16, [128, 0, 0, 0, 1])]
/-- Core 63 stalls on a fault of page 0 that context 0 reads. -/
def stalledOn (x : Xlat) : State :=
  ((stepping.updCore 63 fun k => { k with stalled := true }).updMem fun m =>
    { m with xlat := [(0, x)], faults := [(0, { valid := true })] })

/-- The image passes every check of SCHED_LOAD. -/
theorem imgDig_accepted : (up.fetched (vf 0x10 [(24, [0x70, 0x25])])).schedCheck 0 0x2570 imgDig = none := by
  unfold State.schedCheck
  rw [if_neg (by decide +kernel), if_neg (by decide +kernel), if_neg (fun h => h imgDig_digest), if_neg (by decide +kernel),
    if_neg (by decide +kernel)]

/-- A report of context 0 without log and chains fits a buffer of 2^32 - 1 bytes. -/
theorem report_fits : up.reportLen 0 0 ≤ 0xFFFFFFFF := by
  have h := (Config.blockBytes true).isLt
  have e : up.reportLen 0 0 = 128 + (Config.blockBytes true).toNat + 0 + 0 + 96 + 4627 := rfl
  omega

/-! ### WellFormed refuses -/

theorem test_wf_nop : WellFormed (.nop (pf 0 [])) = true := by decide +kernel
theorem test_wf_packet_length : WellFormed (.nop { fn := 0, ring := 0, bytes := [0, 0, 0, 2] }) = false := by decide +kernel
theorem test_wf_mctp_is_pf0 : WellFormed (.nop { vf 0 [] with ring := 8 }) = false := by decide +kernel
theorem test_wf_opcode : WellFormed (.nop (pf 1 [])) = false := by decide +kernel
theorem test_wf_operation : WellFormed (.setRamp (pf 0x60 [(16, [2])])) = false := by decide +kernel
theorem test_wf_undefined : WellFormed (.undefinedOpcode (pf 2 [])) = false ∧ WellFormed (.undefinedOpcode (pf 3 [])) = true := by
  decide +kernel
/-- A header, one directory entry and an OPLIST section. -/
def imgTiny : Image :=
  { raw := blob (blk 192 [(12, [1]), (64, [1]), (68, [128]), (72, [32]), (132, [7])]), header := blk 64 [(12, [1])]
    dir := [{ kind := 1, offset := 128, length := 32 }], ops := [blk 32 [(4, [7])]] }
theorem test_wf_image : WellFormed (.schedLoad (vf 0x10 []) imgTiny) = true ∧
    WellFormed (.schedLoad (vf 0x10 []) { imgTiny with ops := [] }) = false := by decide +kernel
theorem test_wf_issue : WellFormed (.issue 0 0 { work := .tsu 0 }) = false ∧ WellFormed (.issue 0 3 { work := .tsu 0 }) = true ∧
    WellFormed (.issue 0 0 { work := .load 0 { place := .store 0 0x300000 } 0 }) = false := by decide +kernel
theorem test_wf_dma : WellFormed (.move 0 [1] {}) = false ∧ WellFormed (.wait 0 (blk 32 [(0, [2])])) = false := by decide +kernel
theorem test_wf_aligned : WellFormed (.registerWrite .controlA 6 false 0) = false ∧
    WellFormed (.rcRead .controlA 4 true) = false ∧ WellFormed (.loReadLatch .controlA 2) = false := by decide +kernel
theorem test_wf_window : WellFormed (.rcRead (.function 1) 0x100000 false) = false ∧
    WellFormed (.rcRead (.function 0) 0x100000 false) = true := by decide +kernel
theorem test_wf_unsupported : WellFormed (.unsupportedAccess 0 8 8 true) = false ∧
    WellFormed (.unsupportedAccess 0 4 8 true) = true := by decide +kernel
theorem test_wf_rinse : WellFormed (.rinseUnit 0 0 (List.replicate 33 .clean)) = false := by decide +kernel
theorem test_wf_frame : WellFormed (.keepalive { frameOne with payload := List.replicate 2049 0 }) = false := by decide +kernel
theorem test_wf_mail : WellFormed (.mailboxWrite 0 0 0 (List.replicate 65 0)) = false ∧
    WellFormed (.mctpMessage (.command [0] {} true {} [])) = false := by decide +kernel

/-! ### The spec's own figures -/

/-- A BF16 pattern as an operand element. -/
def bfElem (w : Nat) : Elem := (fmtVal 0xB w, some 0, false)
def ostvikA (i : Nat) : Elem := bfElem ([0x4980, 0xC980, 0x3980].getD i 0)
def ostvikB (_ : Nat) : Elem := bfElem 0x3F80

/-- 03, 'Order independence': 256 units at anchor -20; the third product is lost at -8. -/
theorem test_order_independence : (seamDot (-20) false ostvikA ostvikB 3).sum = 256 ∧
    (seamDot (-20) false ostvikA ostvikB 3).loss = 0 ∧
    (seamDot (-8) false ostvikA ostvikB 3).sum = 0 ∧ (seamDot (-8) false ostvikA ostvikB 3).loss = 1 ∧
    outConvert 0xB false (ofInt false 256 (-20)) = (0x3980, false) := by decide +kernel

/-- 03, 'Rounding to E4M3': 13.75 and 13.5. -/
theorem test_e4m3 : fmtConvert 1 false false (.fin false 55 (-2)) = 0x56 ∧ fmtConvert 1 true false (.fin false 55 (-2)) = 0x55 ∧
    fmtConvert 1 false false (.fin false 27 (-1)) = 0x56 ∧ fmtConvert 1 true false (.fin false 27 (-1)) = 0x55 := by
  decide +kernel

/-- 03, 'A split slice': the weights and the activations, block by block. -/
def taglineW (i : Nat) : Elem :=
  (fmtVal 7 ([(0, 3), (32, 3), (64, 1), (96, 3)].lookup i |>.getD 0), some ([-2, -2, -3, -2].getD (i / 32) 0), false)
def taglineX (i : Nat) : Elem :=
  (fmtVal 3 ([(0, 0x40), (33, 0x40), (64, 0x38), (97, 0x38)].lookup i |>.getD 0), some ([0, 1, -28, 0].getD (i / 32) 0), false)
theorem test_split_slice : (seamSlice (-40) true taglineW taglineX 128 0).sum = 824633721088 ∧
    (seamSlice (-40) true taglineW taglineX 128 0).split = 1 ∧ (seamSlice (-40) true taglineW taglineX 128 0).loss = 0 ∧
    (seamSlice (-30) true taglineW taglineX 128 0).loss = 1 ∧
    (outConvert 0xB false (ofInt false 824633721088 (-40))).1 = 0x3F40 := by decide +kernel

/-- 05, 'Two decode steps of Tagline 3B': the watchdog limit before and after the clock change. -/
theorem test_watchdog : wdogLimit 600000 1500 = 1600 ∧ wdogLimit 600000 1200 = 2000 := by decide +kernel

/-- 02, 'Tunnel to diverter': the capture arms the peg 55,000 LU ahead, and the estimate is 1,833,333 µs, rounded up. -/
def tunnel : State :=
  (upPeg fun p => { p with trigs := [(0, { enable := true, line := 2 })]
                           pegs := [(17, { st := .waiting, armedBy := some 0, line := 2, trigger := some 0, target := 55000 })] }).updLine
    2 fun x => { x with enable := true, stopped := false, pos := 1200000, hwm := 1200000, vel := 0x1E0000 }
theorem test_capture : ∀ t, exec (.triggerEdge 0 true) tunnel = .next t →
    (t.pegAt 17).st = .armed ∧ (t.pegAt 17).target = 1255000 ∧ t.fireEstimate (t.pegAt 17) = 1833334 := by
  intro t h
  injection h with h
  rw [← h]
  decide +kernel

/-- 09, 'One module reading labels': 27 pages for P 1,500, N 160 and DRAFT_CAP 4. -/
theorem test_pages : reqPages 1500 160 4 0 = 27 := by decide +kernel

/-- 11, 'An operator stream': a motion of 1,000 quarter pixels, and rows clamped from row 27. -/
def operator5 : VidCfg :=
  { kind := 2, buffers := 3, width := 4000, height := 3000, ctu64 := true, capBits := 2000000, interval := 33333, sliceRows := 4
    gmvLine := some 5, dx := 0x4000, dy := 0, ppm := 0x28000 }
theorem test_motion :
    ((upLine 5 fun x => { x with stopped := false, vel := 0x1E0000, scale := 0x199A }).gmv operator5 false 33333000).1 = 1000 := by
  decide +kernel
theorem test_clamp : (rowQps operator5 false 30 (List.replicate 20 30000 ++ List.replicate 7 80000)).2 = 27 := by decide +kernel

/-- 16, 'the session going down at 10.0 ms': the tenth window. -/
theorem test_tenth_window : ∀ t, exec (.missedWindow 255) ((linked 255).updPeer 255 fun p => { p with missed := 9 }) = .next t →
    (t.peer 255).st = .down := by
  intro t h
  injection h with h
  rw [← h]
  decide +kernel

/-- 03, R77: exp 0 is 1, and the square root of 2 is 0x3FB504F3 (IEEE 754 round to nearest). -/
theorem test_sfu : sfu .exp 0 = 0x3F800000 ∧ sfu .sqrt 0x40000000 = 0x3FB504F3 := by decide +kernel

/-- 03, R76: nine terms reduce as a tree, so 2^24 and eight ones do not lose the ones. -/
theorem test_tree : redSum [0x4B800000, 0x3F800000] = 0x4B800000 ∧ redSum (List.replicate 9 0x3F800000) = 0x41100000 := by
  decide +kernel

/-- 14, R393: the SHA-384 of no bytes (FIPS 180-4). -/
theorem test_sha : (sha384 []).take 8 = [0x38, 0xB0, 0x60, 0xA7, 0x51, 0xAC, 0x96, 0x38] := by decide +kernel

/-! ### Small checks of single commands -/

/-- The newest completion of a ring: status, detail and result. -/
def answer (o : Host.Outcome State Fault Refusal) (f n : Nat) : Option (Nat × Nat × List Byte) :=
  match o with
  | .next t => ((t.ring f n).kept.head?.bind (·.comp)).map fun x => (x.status, x.detail, x.result)
  | _ => none

/-- 15, R417: minors 0 to 9 asked, 3 chosen; all six features granted; 4 to 9 asked is BAD_VERSION with 0x0203. -/
theorem test_negotiate : answer (exec (.negotiate (pf 1 [(17, [9]), (24, [0xFF])])) up) 0 0 =
      some (0, 0, [3, 0, 0, 0, 0, 0, 0, 0, 0x3F, 0, 0, 0, 0, 0, 0, 0]) ∧
    answer (exec (.negotiate (pf 1 [(16, [4, 9])])) up) 0 0 = some (0x22, 0, [3, 2]) := by decide +kernel

/-- 15, R415, R412: a VF's CTX_OPEN is DENIED; an unlisted opcode is BAD_OPCODE; a reserved flag bit is BAD_PARAM at byte 1. -/
theorem test_checks : answer (exec (.ctxOpen (vf 8 [])) up) 1 0 = some (0x40, 0, []) ∧
    answer (exec (.undefinedOpcode (pf 3 [])) up) 0 0 = some (0x20, 0, []) ∧
    answer (exec (.nop (pf 0 [(1, [8])])) up) 0 0 = some (0x21, 1, []) := by decide +kernel

/-- 18, R505: a cap of 119 W is below the range: BAD_PARAM at byte 20; 640 W is taken. -/
theorem test_cap : answer (exec (.setCap (pf 0x60 [(20, [119, 0])])) up) 0 0 = some (0x21, 20, []) ∧
    answer (exec (.setCap (pf 0x60 [(20, [0x80, 2])])) up) 0 0 = some (0, 0, []) := by decide +kernel

/-- 12, R334: FILL_ZERO clears the bytes it names and no other. -/
theorem test_fill : ∀ t, exec (.move 271 (blk 32 [(0, [1, 2, 0, 0x40]), (16, [64, 0, 0, 0, 1])]) {})
      (upMem fun m => (m.put (basketKey 63) 7).put (basketKey 64) 9) = .next t →
    t.mem.cells = [(basketKey 64, 9)] := by
  intro t h
  injection h with h
  rw [← h]
  decide +kernel

/-- The queue is first in, first out. -/
theorem test_queue : step { State.reset with pending := [.brakeRelease, .pwrWarnRelease] } =
    .next { State.reset with pending := [.pwrWarnRelease] } := rfl

/-! ### States and operands that meet the hypotheses of each statement -/

theorem witness_StepRunsFront :
    (∃ (s : State), (s.pending = [])) :=
  ⟨up, by decide +kernel⟩

theorem witness_QueueUntouched :
    (∃ (i : Instr) (s t : State), exec i s = .next t) :=
  ⟨.brakeRelease, up, _, rfl⟩

theorem witness_StepKeepsMemory :
    (∃ s t : State, MemWf s ∧ step s = .next t) :=
  ⟨State.reset, _, rfl, rfl⟩

theorem witness_UnfetchedWaits :
    (∃ (i : Instr) (s : State) (c : Cmd) (op : Nat) (own : Bool), (hostRow i = some (c, op, own)) ∧ (s.fetchable c = false)) :=
  ⟨.nop (pf 0 []), State.reset, pf 0 [], 0, true, by decide +kernel⟩

theorem witness_SenderDenied :
    (∃ (i : Instr) (s : State) (c : Cmd) (op : Nat), (hostRow i = some (c, op, true)) ∧ (c.opcode = op) ∧
      (s.fetchable c = true) ∧ (c.seq = s.expects c) ∧ (c.major = 2) ∧ (c.minor ≤ (s.func c.fn.val).minor) ∧
      ((c.fn.val ≠ 0 ∧ pf0Only op = true) ∨ (c.fn.val = 0 ∧ vfOnly op = true))) :=
  ⟨.ctxOpen (vf 8 []), up, vf 8 [], 8, by decide +kernel⟩

theorem witness_SequenceChecks :
    (∃ (i : Instr) (s : State) (c : Cmd) (op : Nat) (k : Kept) (comp : Completion), (hostRow i = some (c, op, true)) ∧
      (c.opcode = op) ∧ (s.fetchable c = true) ∧ (c.seq ≠ s.expects c) ∧
      ((s.ring c.fn.val c.ring.val).kept.find? (fun k => k.seq = c.seq) = some k) ∧ (k.bytes = c.masked) ∧
      (k.comp = some comp)) ∧
    (∃ (i : Instr) (s : State) (c : Cmd) (op : Nat), (hostRow i = some (c, op, true)) ∧ (c.opcode = op) ∧ (s.fetchable c = true) ∧ (c.seq ≠ s.expects c) ∧ (let old := (s.ring c.fn.val c.ring.val).kept.find? fun k => k.seq = c.seq; (∀ k ∈ old, k.bytes ≠ c.masked))) :=
  ⟨⟨.nop (pf 0 []), upRing 0 fun r => { r with expected := some 1, kept := [keptNop] }, pf 0 [], 0, keptNop, { seq := 0 },
    by decide +kernel⟩,
   ⟨.nop (pf 0 []), upRing 0 fun r => { r with expected := some 1 }, pf 0 [], 0, by decide +kernel⟩⟩

theorem witness_BasicCommands :
    (∃ (c : Cmd) (s : State), (accepts s c 0x00 [] = true) ∧ (reservedZero c [] = true)) ∧
    (∃ (c : Cmd) (s : State), (accepts s c 0x01 [] = true) ∧ (reservedZero c [(16, 17), (24, 31)] = true)) ∧
    (∃ (c : Cmd) (s : State), (c.opcode = 0x01) ∧ (s.fetchable c = true) ∧ (c.seq = s.expects c) ∧
      (c.major ≠ 2 ∨ min (c.byte 17).toNat 3 < (c.byte 16).toNat)) ∧
    (∃ (c : Cmd) (s : State), (accepts s c 0x02 [] = true) ∧ (reservedZero c [] = true)) ∧
    (∃ (c : Cmd) (s : State), (opcodeDefined c.opcode = false) ∧ (s.fetchable c = true) ∧ (c.seq = s.expects c) ∧
      (c.major = 2) ∧ (c.minor ≤ (s.func c.fn.val).minor)) :=
  ⟨⟨pf 0 [], up, by decide +kernel⟩,
   ⟨pf 1 [(17, [3]), (24, [0x3F])], up, by decide +kernel⟩,
   ⟨pf 1 [(16, [4]), (17, [3])], up, by decide +kernel⟩,
   ⟨vf 2 [], up, by decide +kernel⟩,
   ⟨pf 3 [], up, by decide +kernel⟩⟩

theorem witness_RingRegisters :
    (∃ (fn : Fn) (n : Fin 8) (v : Word) (s : State), (s.windowUp fn.val = true) ∧
      (v.toNat < ringEntries (s.ring fn.val n.val).sqSize)) ∧
    (∃ (fn : Fn) (n : Fin 8) (v : Word) (s : State), (s.windowUp fn.val = true) ∧
      (ringEntries (s.ring fn.val n.val).sqSize ≤ v.toNat)) ∧
    (∃ (fn : Fn) (n : Fin 8) (v : Word) (s : State), (s.windowUp fn.val = true) ∧ ((s.ring fn.val n.val).enable = true) ∧
      (v.toNat < ringEntries (s.ring fn.val n.val).sqSize) ∧ ((s.ring fn.val n.val).sqHead ≠ v.toNat)) ∧
    (∃ (fn : Fn) (n : Fin 8) (v : Word) (s : State), (s.windowUp fn.val = true) ∧
      (v.toNat < ringEntries (s.ring fn.val n.val).cqSize)) ∧
    (∃ (fn : Fn) (n : Fin 8) (v : Word) (s : State), (s.windowUp fn.val = true) ∧
      (ringEntries (s.ring fn.val n.val).cqSize ≤ v.toNat)) ∧
    (∃ (fn : Fn) (s : State), (s.windowUp fn.val = true)) ∧
    (∃ (fn : Fn) (n : Fin 8) (reg : Fin 6) (v : Word) (s : State) (r : Ring), (s.windowUp fn.val = true) ∧
      ((s.ring fn.val n.val).enable = false) ∧ (s.inflightOn fn.val n.val = 0) ∧
      ((s.ring fn.val n.val).setReg reg.val v = some r)) ∧
    (∃ (fn : Fn) (n : Fin 8) (s : State), ((s.ring fn.val n.val).enable = true ∨ s.inflightOn fn.val n.val ≠ 0)) :=
  ⟨⟨1, 0, 15, up, by decide +kernel⟩,
   ⟨1, 0, 0x80000000, up, by decide +kernel⟩,
   ⟨1, 0, 15, up, by decide +kernel⟩,
   ⟨1, 0, 15, up, by decide +kernel⟩,
   ⟨1, 0, 0x80000000, up, by decide +kernel⟩,
   ⟨1, up, by decide +kernel⟩,
   ⟨1, 7, 2, 12, up, { sqSize := 12 }, by decide +kernel⟩,
   ⟨1, 0, up, by decide +kernel⟩⟩

theorem witness_DoorbellsAndHeads :
    (∃ (c : CtxId) (fn : Fn) (v : Word) (s : State), (fn.val = c.val + 1) ∧ (s.windowUp fn.val = true) ∧
      (v.toNat % 64 = 0) ∧ (v.toNat < s.tbSize c.val)) ∧
    (∃ (c : CtxId) (fn : Fn) (v : Word) (s : State), (fn.val = c.val + 1) ∧ (v.toNat % 64 ≠ 0 ∨ s.tbSize c.val ≤ v.toNat)) ∧
    (∃ (fn : Fn) (v : Word) (s : State), (s.windowUp fn.val = true) ∧ (v.toNat < 2 ^ ((s.func fn.val).veqLog + 6))) ∧
    (∃ (fn : Fn) (v : Word) (s : State), (2 ^ ((s.func fn.val).veqLog + 6) ≤ v.toNat)) ∧
    (∃ (fn : Fn) (s : State) (j : Nat), (s.windowUp fn.val = true) ∧ (j < 32)) ∧
    (∃ (fn : Fn) (s : State), (s.windowUp fn.val = true)) ∧
    (∃ (s : State) (f : Nat) (j : Nat), (j < 32) ∧ ((s.func f).dbPend.getLsbD j = true)) ∧
    (∃ (s : State) (f : Nat) (j : Nat), (j < 32) ∧ ((s.func f).dbPend.getLsbD j = false)) ∧
    (∃ (j : Nat), (j < 32)) :=
  ⟨⟨0, 1, 64, upCtx fun x => { x with tbLog := 12 }, by decide +kernel⟩,
   ⟨0, 1, 65, upCtx fun x => { x with tbLog := 12 }, by decide +kernel⟩,
   ⟨1, 63, up, by decide +kernel⟩,
   ⟨1, 64, up, by decide +kernel⟩,
   ⟨1, upFunc 1 fun w => { w with dbPend := 1, msixMask := 0 }, 0, by decide +kernel⟩,
   ⟨1, upFunc 1 fun w => { w with dbPend := 0x80000000, dbMask := 0 }, by decide +kernel⟩,
   ⟨upFunc 1 fun w => { w with dbPend := 0x80000000 }, 1, 31, by decide +kernel⟩,
   ⟨up, 1, 31, by decide +kernel⟩,
   ⟨31, by decide +kernel⟩⟩

theorem witness_RegisterAccesses :
    (∃ (b : Requester) (s : State), (ownVf b = none) ∧ (s.reaches b 0x800004 false = true) ∧ (s.blockLive 8 = true)) ∧
    (∃ (b : Requester) (s : State), (ownVf b = none) ∧ (s.reaches b 0x501004 false = true) ∧ (s.blockLive 5 = true)) ∧
    (∃ (b : Requester) (n : Fin 16) (s : State), (ownVf b = none) ∧ (s.reaches b (0x301004 + 0x40 * n.val) false = true) ∧
      (s.blockLive 3 = true)) ∧
    (∃ (f : Fn) (s : State), (f.val ≠ 0) ∧ (s.reaches (.function f) 0x10 false = true) ∧ (s.glb.readyReached = true)) ∧
    (∃ (b : Requester), (ownVf b = none)) ∧
    (∃ (b : Requester) (n : Fin 16) (s : State), (ownVf b = none) ∧ (s.reaches b (0x301004 + 0x40 * n.val) false = true) ∧
      (s.blockLive 3 = true)) ∧
    (∃ (b : Requester) (s : State), (ownVf b = none) ∧ (s.reaches b 0x300020 false = true) ∧ (s.blockLive 3 = true)) ∧
    (∃ (off : Nat) (width : Nat), (¬ ((width = 4 ∨ width = 8) ∧ off % width = 0))) :=
  ⟨⟨.function 0, up, by decide +kernel⟩,
   ⟨.controlA, up, by decide +kernel⟩,
   ⟨.rtp, 15, upLine 15 fun x => { x with reverse := true }, by decide +kernel⟩,
   ⟨1, upFunc 1 fun w => { w with dbPend := 3 }, by decide +kernel⟩,
   ⟨.function 0, by decide +kernel⟩,
   ⟨.rtp, 15, up.updLine 15 fun x => { x with errCnt := 7 }, by decide +kernel⟩,
   ⟨.function 0, up, by decide +kernel⟩,
   ⟨2, 4, by decide +kernel⟩⟩

theorem witness_SwitchAndReset :
    (∃ (s : State), (s.board.closed = true) ∧ (s.board.powered = false)) ∧
    (∃ (s : State), (s.board.powered = true)) ∧
    (∃ (s : State), (s.board.powered = false ∨ s.glb.stage < 3)) ∧
    (∃ (s : State), (s.board.latchOpen = false) ∧ (s.board.powered = true) ∧ (3 ≤ s.glb.stage)) ∧
    (∃ (s : State), (s.board.latchOpen = true) ∧ (s.board.powered = true) ∧ (3 ≤ s.glb.stage)) :=
  ⟨⟨upBoard fun b => { b with powered := false }, by decide +kernel⟩,
   ⟨up, by decide +kernel⟩,
   ⟨upBoard fun b => { b with powered := false }, by decide +kernel⟩,
   ⟨up, by decide +kernel⟩,
   ⟨upBoard fun b => { b with latchOpen := true }, by decide +kernel⟩⟩

theorem witness_StartUp :
    (∃ (st : Stage) (r : StageResult) (s : State), (s.stageRuns (stageNo st) = true) ∧ (s.glb.state = .init) ∧
      (s.glb.thermalHeld = false) ∧ ((s.fromFlash st r).good = true) ∧ ((st = .hbmTrain → r.stackMask = 0xFF))) ∧
    (∃ (r : StageResult) (s : State), (s.stageRuns 1 = true) ∧ (s.glb.state = .init) ∧ (r.good = true)) ∧
    (∃ (r : StageResult) (v : StageResult) (s : State), (s.stageRuns 2 = true) ∧ (s.glb.state = .init) ∧
      (s.fromFlash .rtpBoot r = v) ∧ (v.good = true)) ∧
    (∃ (r : StageResult) (s : State), (s.stageRuns 7 = true) ∧ (s.glb.state = .init) ∧ (s.glb.thermalHeld = false) ∧
      (r.good = true) ∧ (r.stackMask = 0xFF)) ∧
    (∃ (st : Stage) (r : StageResult) (s : State), (st ∈ [.rtpBoot, .coreA, .reload]) ∧ (s.stageRuns (stageNo st) = true) ∧
      (r.good = false)) ∧
    (∃ (r : StageResult) (s : State), (s.stageRuns 7 = true) ∧ (r.stackMask ≠ 0xFF)) ∧
    (∃ (st : Stage) (s : State), (s.stageRuns (stageNo st) = false)) ∧
    (∃ (ms : Nat) (s : State), (stageLimit (s.glb.stage + 1) = some ms) ∧ (s.stageRuns (s.glb.stage + 1) = true) ∧
      (s.glb.state = .init) ∧ (s.glb.stageSince + ms * msNs < s.time)) ∧
    (∃ (s : State), (s.glb.state = .init) ∧ (s.glb.stage = 4) ∧ (s.stageRuns 5 = true) ∧
      (s.glb.stageSince + 100 * msNs ≤ s.time) ∧ ((∀ c, c < 16 → (s.ctx c).st ≠ .running)) ∧
      (s.glb.dozeEntering = false)) :=
  ⟨⟨.hbmTrain, {}, starting 6, by decide +kernel⟩,
   ⟨{}, starting 0, by decide +kernel⟩,
   ⟨{ moduleId := 5, svn := 2 }, { moduleId := 5, svn := 2 }, starting 1, by decide +kernel⟩,
   ⟨{}, starting 6, by decide +kernel⟩,
   ⟨.rtpBoot, { good := false }, starting 1, by decide +kernel⟩,
   ⟨{ stackMask := 0x7F }, starting 6, by decide +kernel⟩,
   ⟨.ito, up, by decide +kernel⟩,
   ⟨500, starting 1, by decide +kernel⟩,
   ⟨starting 4, by decide +kernel⟩⟩

theorem witness_Clocks :
    (∃ (b : Requester) (v : Word) (s : State), (b = .controlA ∨ b = .controlB) ∧ (s.clkValid = true) ∧ (v.toNat % 4 ≠ 3) ∧
      (s.clk.ctlBusy = false)) ∧
    (∃ (sel : Nat) (s : State), (s.clk.muxTo.get 0 = some sel)) ∧
    (∃ (m : Fin 7) (sel : Nat) (s : State), (m.val ≠ 0) ∧ (s.clk.muxTo.get m.val = some sel)) ∧
    (∃ (s : State), (s.clkValid = true)) ∧
    (∃ (m : Fin 7) (s : State), (m.val ≠ 0) ∧ (s.clkValid = true) ∧ ((∀ c, c < 16 → (s.ctx c).st ≠ .running))) ∧
    (∃ (s : State), (s.clkValid = true)) ∧
    (∃ (s : State), (s.clk.fStart = true)) ∧
    (∃ (v : Word) (s : State), (s.clkValid = true) ∧ (v.toNat % 64 ≤ 54)) ∧
    (∃ (v : Word) (s : State), (s.clkValid = true) ∧ (v.toNat % 64 ≤ 36)) ∧
    (∃ (p : Fin 6) (v : Word) (s : State), (p.val < 4) ∧ (s.clkValid = true) ∧ (v.toNat % 64 ≤ 42) ∧ (s.arr.mode ≠ .press)) ∧
    (∃ (p : Fin 6) (v : Word), ((if p.val < 4 then 42 else if p.val = 4 then 54 else 36) < v.toNat % 64)) ∧
    (∃ (s : State), (s.board.powered = true) ∧ (s.glb.state ∈ [.ready, .quiesced, .draining, .suspect]) ∧
      (s.glb.resumeState = none) ∧ (s.glb.dozeEntering = false) ∧ ((∀ c, c < 16 → (s.ctx c).st ≠ .running))) ∧
    (∃ (s : State), (s.board.powered = true) ∧ (s.glb.state = .doze)) ∧
    (∃ (s : State), (s.board.powered = true) ∧ (s.glb.state = .clockHold)) ∧
    (∃ (s : State), (s.board.powered = true) ∧ (s.glb.state = .doze)) :=
  ⟨⟨.controlA, 2, up, by decide +kernel⟩,
   ⟨2, upClk fun k => { k with muxTo := [(0, some 2)], ctlBusy := true }, by decide +kernel⟩,
   ⟨1, 2, upClk fun k => { k with muxTo := [(1, some 2)] }, by decide +kernel⟩,
   ⟨up, by decide +kernel⟩,
   ⟨1, up, by decide +kernel⟩,
   ⟨up, by decide +kernel⟩,
   ⟨upClk fun k => { k with fStart := true }, by decide +kernel⟩,
   ⟨36, up, by decide +kernel⟩,
   ⟨36, up, by decide +kernel⟩,
   ⟨0, 36, up, by decide +kernel⟩,
   ⟨5, 63, by decide +kernel⟩,
   ⟨up, by decide +kernel⟩,
   ⟨upIn .doze, by decide +kernel⟩,
   ⟨upIn .clockHold, by decide +kernel⟩,
   ⟨upIn .doze, by decide +kernel⟩⟩

theorem witness_PowerCommands :
    (let good (s : State) (c : Cmd) (op : Nat) (used : List (Nat × Nat)) : Prop :=
     accepts s c 0x60 [] = true ∧ (c.byte 16).toNat = op ∧ reservedZero c ((16, 17) :: used) = true ∧ (c.byte 17).toNat ≤ 1
    ∃ (c : Cmd) (s : State), (good s c 0 [(20, 21)]) ∧ (120 ≤ c.le 20 2) ∧ (c.le 20 2 ≤ 640)) ∧
    (let good (s : State) (c : Cmd) (op : Nat) (used : List (Nat × Nat)) : Prop :=
     accepts s c 0x60 [] = true ∧ (c.byte 16).toNat = op ∧ reservedZero c ((16, 17) :: used) = true ∧ (c.byte 17).toNat ≤ 1
    ∃ (c : Cmd) (s : State), (good s c 1 [(22, 25)]) ∧ (1 ≤ c.le 22 2) ∧ (c.le 22 2 ≤ 100) ∧ (1 ≤ c.le 24 2) ∧
      (c.le 24 2 ≤ 100)) ∧
    (let good (s : State) (c : Cmd) (op : Nat) (used : List (Nat × Nat)) : Prop :=
     accepts s c 0x60 [] = true ∧ (c.byte 16).toNat = op ∧ reservedZero c ((16, 17) :: used) = true ∧ (c.byte 17).toNat ≤ 1
    ∃ (c : Cmd) (s : State), (good s c 2 [])) ∧
    (let good (s : State) (c : Cmd) (op : Nat) (used : List (Nat × Nat)) : Prop :=
     accepts s c 0x60 [] = true ∧ (c.byte 16).toNat = op ∧ reservedZero c ((16, 17) :: used) = true ∧ (c.byte 17).toNat ≤ 1
    ∃ (c : Cmd) (s : State), (good s c 5 [(26, 31)]) ∧ (120 ≤ c.le 26 2) ∧ (c.le 26 2 ≤ 640) ∧ (120 ≤ c.le 28 2) ∧
      (c.le 28 2 ≤ 640) ∧ (70 ≤ (c.byte 30).toNat) ∧ ((c.byte 30).toNat ≤ 100) ∧ (20 ≤ (c.byte 31).toNat) ∧
      ((c.byte 31).toNat ≤ 60)) ∧
    (∃ (c : Cmd) (s : State), (accepts s c 0x61 [] = true) ∧ (reservedZero c [] = true)) :=
  ⟨⟨pf 0x60 [(17, [1]), (20, [120, 0])], up, by decide +kernel⟩,
   ⟨pf 0x60 [(16, [1]), (22, [1, 0, 100])], up, by decide +kernel⟩,
   ⟨pkt 0 8 0x60 [(16, [2])], up.updRing 0 8 fun _ => ringUp, by decide +kernel⟩,
   ⟨pf 0x60 [(16, [5]), (26, [120, 0, 0x80, 2, 100, 20])], up, by decide +kernel⟩,
   ⟨pf 0x61 [], up, by decide +kernel⟩⟩

theorem witness_Refusals :
    (∃ (c : Cmd) (s : State), (accepts s c 0x0B [] = true) ∧ (c.fn.val ≠ 0) ∧ ((c.byte 16).toNat ≠ c.fn.val - 1)) ∧
    (∃ (c : Cmd) (s : State), (accepts s c 0x60 [] = true) ∧ ((c.byte 16).toNat = 0) ∧
      (reservedZero c [(16, 17), (20, 21)] = true) ∧ ((c.byte 17).toNat ≤ 1) ∧ (c.le 20 2 < 120 ∨ 640 < c.le 20 2)) ∧
    (∃ (c : Cmd) (table : Blob) (s : State), (accepts s c 0x1C [] = true) ∧ (reservedZero c [(16, 16), (24, 35)] = true) ∧
      ((c.byte 16).toNat ≤ 63) ∧ (gramOk table (c.le 32 4) = true) ∧
      ((s.tsu.grams.get (c.byte 16).toNat).loaded = true)) ∧
    (∃ (m : Fin 24) (cls : Nat) (idx : Nat) (s : State), (s.mbxValid = true) ∧ (s.sendsTo m.val cls idx = true) ∧
      (4 ≤ (s.mbx.boxes.get m.val).length)) ∧
    (∃ (s : State), (s.mbxValid = true) ∧ (4 ≤ (s.mbx.boxes.get 1).length)) ∧
    (∃ (c : Cmd) (s : State), (accepts s c 0x41 [] = true) ∧ (8 ≤ (c.byte 16).toNat) ∧ ((c.byte 16).toNat ≤ 15) ∧
      ((s.line (c.byte 16).toNat).owner.toNat ≠ (if c.fn.val = 0 then 0x1F else c.fn.val - 1))) :=
  ⟨⟨vf 0x0B [(16, [1])], up, by decide +kernel⟩,
   ⟨pf 0x60 [(20, [119, 0])], up, by decide +kernel⟩,
   ⟨vf 0x1C [(16, [63]), (24, [0, 16]), (32, [0, 1])], gramOne,
    upTsu fun u => { u with grams := [(63, { loaded := true, owner := 1 })] }, by decide +kernel⟩,
   ⟨0, 0, 0, upMbx fun b => { b with boxes := [(0, List.replicate 4 {})] }, by decide +kernel⟩,
   ⟨upMbx fun b => { b with boxes := [(1, List.replicate 4 {})] }, by decide +kernel⟩,
   ⟨pf 0x41 [(16, [15])], up.updLine 15 fun x => { x with owner := 0 }, by decide +kernel⟩⟩

theorem witness_DozeAndWake :
    (let good (s : State) (c : Cmd) (op : Nat) : Prop :=
       accepts s c 0x60 [] = true ∧ (c.byte 16).toNat = op ∧ reservedZero c [(16, 17)] = true ∧ (c.byte 17).toNat ≤ 1
    ∃ (c : Cmd) (s : State), (good s c 3) ∧ (s.glb.state = .ready ∨ s.glb.state = .quiesced) ∧
      (s.glb.dozeEntering = false) ∧ (s.glb.wakePending = false) ∧ (s.glb.resumeState = none) ∧ (s.arr.cur = none)) ∧
    (let good (s : State) (c : Cmd) (op : Nat) : Prop :=
       accepts s c 0x60 [] = true ∧ (c.byte 16).toNat = op ∧ reservedZero c [(16, 17)] = true ∧ (c.byte 17).toNat ≤ 1
    ∃ (c : Cmd) (x : Nat) (s : State), (good s c 3) ∧ (s.glb.state = .ready ∨ s.glb.state = .quiesced) ∧
      (s.glb.dozeEntering = false) ∧ (s.arr.cur = some x) ∧ ((s.ctx x).running = true)) ∧
    (let good (s : State) (c : Cmd) (op : Nat) : Prop :=
       accepts s c 0x60 [] = true ∧ (c.byte 16).toNat = op ∧ reservedZero c [(16, 17)] = true ∧ (c.byte 17).toNat ≤ 1
    ∃ (c : Cmd) (s : State), (good s c 3) ∧ (s.glb.state = .doze)) ∧
    (let good (s : State) (c : Cmd) (op : Nat) : Prop :=
       accepts s c 0x60 [] = true ∧ (c.byte 16).toNat = op ∧ reservedZero c [(16, 17)] = true ∧ (c.byte 17).toNat ≤ 1
    ∃ (c : Cmd) (s : State), (good s c 4) ∧ (s.glb.state ≠ .doze)) ∧
    (let good (s : State) (c : Cmd) (op : Nat) : Prop :=
       accepts s c 0x60 [] = true ∧ (c.byte 16).toNat = op ∧ reservedZero c [(16, 17)] = true ∧ (c.byte 17).toNat ≤ 1
    ∃ (c : Cmd) (r : ModState) (s : State), (good s c 4) ∧ (s.glb.state = .doze) ∧ (s.glb.resumeState = some r) ∧
      (r = .ready ∨ r = .quiesced) ∧ (s.glb.drainLimitPassed = false) ∧ (s.pwr.dozeThermal = false) ∧
      (s.clk.xtalOk = true)) ∧
    (let good (s : State) (c : Cmd) (op : Nat) : Prop :=
       accepts s c 0x60 [] = true ∧ (c.byte 16).toNat = op ∧ reservedZero c [(16, 17)] = true ∧ (c.byte 17).toNat ≤ 1
    ∃ (c : Cmd) (s : State), (good s c 4) ∧ (s.glb.state = .doze) ∧ (s.pwr.dozeThermal = true)) ∧
    (let good (s : State) (c : Cmd) (op : Nat) : Prop :=
       accepts s c 0x60 [] = true ∧ (c.byte 16).toNat = op ∧ reservedZero c [(16, 17)] = true ∧ (c.byte 17).toNat ≤ 1
    ∃ (c : Cmd) (s : State), (good s c 4) ∧ (s.glb.state = .doze) ∧ (s.pwr.dozeThermal = false) ∧ (s.clk.xtalOk = false)) :=
  ⟨⟨pf 0x60 [(16, [3])], up, by decide +kernel⟩,
   ⟨pf 0x60 [(16, [3])], 0, stepping, by decide +kernel⟩,
   ⟨pf 0x60 [(16, [3])], upIn .doze, by decide +kernel⟩,
   ⟨pf 0x60 [(16, [4])], up, by decide +kernel⟩,
   ⟨pf 0x60 [(16, [4])], .quiesced,
    (upGlb fun g => { g with state := .doze, resumeState := some .quiesced }).updClk fun k => { k with xtalOk := true },
    by decide +kernel⟩,
   ⟨pf 0x60 [(16, [4])], (upIn .doze).updPwr fun p => { p with dozeThermal := true }, by decide +kernel⟩,
   ⟨pf 0x60 [(16, [4])], (upIn .doze).updClk fun k => { k with xtalOk := false, xtalLost := true }, by decide +kernel⟩⟩

theorem witness_PowerEvents :
    (∃ (s : State), (s.board.powered = true) ∧ (s.pwr.brake = false)) ∧
    (∃ (s : State), (s.board.powered = true) ∧ (s.pwr.warn = false)) ∧
    (∃ (s : State), (s.board.powered = true)) ∧
    (∃ (flow : Bool) (inlet : Int) (s : State), (s.board.powered = true) ∧ (s.pwr.coolant = false) ∧
      (flow = false ∨ (s.pwr.inletMax : Int) < inlet)) ∧
    (∃ (inlet : Int) (s : State), (s.board.powered = true) ∧ (inlet ≤ s.pwr.inletMax)) ∧
    (∃ (temps : List Int) (s : State), (s.board.powered = true) ∧ (temps.length = 16) ∧
      (115 ≤ temps.foldl max (temps.headD 0))) ∧
    (∃ (temps : List Int) (s : State), (s.board.powered = true) ∧ (temps.length = 16) ∧
      (105 ≤ temps.foldl max (temps.headD 0)) ∧ (temps.foldl max (temps.headD 0) < 115)) ∧
    (∃ (temps : List Int) (s : State), (s.board.powered = true) ∧ (temps.length = 16) ∧
      (temps.foldl max (temps.headD 0) < 105)) :=
  ⟨⟨up, by decide +kernel⟩,
   ⟨up, by decide +kernel⟩,
   ⟨up, by decide +kernel⟩,
   ⟨true, 46, up, by decide +kernel⟩,
   ⟨45, upPwr fun p => { p with coolant := true }, by decide +kernel⟩,
   ⟨List.replicate 15 (50 : Int) ++ [115], up, by decide +kernel⟩,
   ⟨List.replicate 15 (50 : Int) ++ [110], up, by decide +kernel⟩,
   ⟨List.replicate 15 (50 : Int) ++ [104], up, by decide +kernel⟩⟩

theorem witness_PowerTick :
    (∃ (s : State), (s.board.powered = true)) :=
  ⟨up, by decide +kernel⟩

theorem witness_ThermalAndOrphan :
    (∃ (s : State), (s.board.powered = true) ∧ (s.pwr.orphanArmed = true) ∧ (s.pwr.orphanHold = false) ∧
      (s.pwr.orphan = false) ∧ (s.pwr.lastBeat.getD s.pwr.orphanSince + 2 * secNs ≤ s.time)) ∧
    (∃ (s : State), (s.board.powered = true) ∧ (s.pwr.orphanHold = true) ∧ (s.pwr.orphan = false) ∧
      (s.pwr.orphanSince + 60 * secNs ≤ s.time)) ∧
    (∃ (since : Nat) (s : State), (s.pwr.coldSince = some since) ∧ (since + 10 * secNs ≤ s.time) ∧
      (s.pwr.coolant = false) ∧ (s.pwr.dozeThermal = true) ∧ (s.glb.state = .init) ∧ (s.glb.stage ≠ 7)) ∧
    (∃ (since : Nat) (s : State), (s.pwr.coldSince = some since) ∧ (since + 10 * secNs ≤ s.time) ∧
      (s.pwr.coolant = false) ∧ (s.pwr.dozeThermal = true) ∧ (s.glb.state = .recovery)) ∧
    (∃ (since : Nat) (s : State), (s.pwr.coldSince = some since) ∧ (since + 10 * secNs ≤ s.time) ∧
      (s.pwr.coolant = false) ∧ (s.pwr.dozeThermal = true) ∧ (s.glb.state = .doze) ∧
      (s.glb.resumeState = some .ready) ∧ (s.glb.drainLimitPassed = false) ∧ (s.clk.xtalOk = true)) ∧
    (∃ (s : State), (s.glb.dozeEntering = true) ∧ (s.pwr.dozeThermal = true) ∧ (s.glb.dozeSince + 20 * msNs ≤ s.time) ∧
      (s.arr.cur = none) ∧ ((∀ c, c < 16 → (s.ctx c).st ≠ .running))) :=
  ⟨⟨upPwr fun p => { p with orphanArmed := true }, by decide +kernel⟩,
   ⟨upPwr fun p => { p with orphanHold := true }, by decide +kernel⟩,
   ⟨0, (upPwr fun p => { p with coldSince := some 0, dozeThermal := true }).updGlb fun g => { g with state := .init, stage := 6 },
    by decide +kernel⟩,
   ⟨0, (upPwr fun p => { p with coldSince := some 0, dozeThermal := true }).updGlb fun g => { g with state := .recovery },
    by decide +kernel⟩,
   ⟨0, ((upPwr fun p => { p with coldSince := some 0, dozeThermal := true }).updGlb fun g => { g with state := .doze, resumeState := some .ready }).updClk fun k => { k with xtalOk := true },
    by decide +kernel⟩,
   ⟨(upPwr fun p => { p with dozeThermal := true }).updGlb fun g => { g with dozeEntering := true }, by decide +kernel⟩⟩

theorem witness_Lines :
    (∃ (l : Fin 8) (k : Enc) (s : State), (s.pegLive = true) ∧ ((s.line l.val).enable = true) ∧ (k ≠ .both)) ∧
    (∃ (l : Fin 8) (s : State), (s.pegLive = true) ∧ ((s.line l.val).enable = true)) ∧
    (∃ (l : Fin 8) (s : State), ((s.line l.val).enable = false)) ∧
    (∃ (l : Fin 8) (s : State), (s.pegLive = true) ∧ ((s.line l.val).enable = true) ∧ ((s.line l.val).indexLatch = true)) ∧
    (∃ (l : Fin 16) (s : State), (s.pegLive = true) ∧ ((s.line l.val).enable = true) ∧ ((s.line l.val).stopped = false) ∧
      ((s.line l.val).lastEvent + secNs ≤ s.time)) ∧
    (∃ (c : Cmd) (s : State), (accepts s c 0x41 [] = true) ∧ (reservedZero c [(16, 16), (24, 29)] = true) ∧
      (8 ≤ (c.byte 16).toNat) ∧ ((c.byte 16).toNat ≤ 15) ∧
      ((s.line (c.byte 16).toNat).owner.toNat = (if c.fn.val = 0 then 0x1F else c.fn.val - 1)) ∧
      ((s.line (c.byte 16).toNat).enable = true)) ∧
    (∃ (c : Cmd) (s : State), (accepts s c 0x40 [] = true) ∧ ((c.byte 16).toNat < 0x10) ∧
      (reservedZero c (if (c.byte 16).toNat < 8 then [(16, 18), (20, 29)] else [(16, 29)]) = true) ∧
      ((8 ≤ (c.byte 16).toNat → (c.byte 19).toNat ≤ 0xF ∨ (c.byte 19).toNat = 0x1F)) ∧ ((c.byte 17).toNat ≤ 15) ∧
      ((c.byte 17).getLsbD 0 = true) ∧ ((s.line (c.byte 16).toNat).enable = false) ∧
      ((∀ n, n < 256 → (s.pegAt n).st ≠ .free → (s.pegAt n).line.val ≠ (c.byte 16).toNat))) ∧
    (∃ (c : Cmd) (s : State), (accepts s c 0x40 [] = true) ∧ ((c.byte 16).toNat < 8) ∧
      (reservedZero c [(16, 18), (20, 29)] = true) ∧ ((c.byte 17).toNat ≤ 7) ∧ ((c.byte 17).getLsbD 0 = false) ∧
      ((s.line (c.byte 16).toNat).enable = true) ∧
      ((∀ n, n < 256 → (s.pegAt n).st ≠ .free → (s.pegAt n).line.val ≠ (c.byte 16).toNat))) ∧
    (∃ (c : Cmd) (s : State), (accepts s c 0x40 [] = true) ∧ (0x10 ≤ (c.byte 16).toNat) ∧ ((c.byte 16).toNat ≤ 0x13) ∧
      (reservedZero c [(16, 18), (20, 21)] = true) ∧ ((c.byte 17).toNat ≤ 3) ∧ ((c.byte 18).toNat ≤ 15) ∧
      (c.le 20 2 ≠ 0) ∧
      ((s.peg.trigs.get ((c.byte 16).toNat - 0x10)).line.val = (c.byte 18).toNat ∨ (∀ n, n < 256 → (s.pegAt n).st ≠ .waiting))) :=
  ⟨⟨7, .down, upLine 7 fun x => { x with enable := true }, by decide +kernel⟩,
   ⟨7, upLine 7 fun x => { x with enable := true, errCnt := 0xFFFF }, by decide +kernel⟩,
   ⟨7, up, by decide +kernel⟩,
   ⟨0, upLine 0 fun x => { x with enable := true, indexLatch := true, pos := 9 }, by decide +kernel⟩,
   ⟨15, upLine 15 fun x => { x with enable := true, stopped := false, vel := 4 }, by decide +kernel⟩,
   ⟨pf 0x41 [(16, [15]), (24, [5])], upLine 15 fun x => { x with enable := true }, by decide +kernel⟩,
   ⟨pf 0x40 [(16, [7]), (17, [1])], up, by decide +kernel⟩,
   ⟨pf 0x40 [(16, [7])], upLine 7 fun x => { x with enable := true, pos := 9 }, by decide +kernel⟩,
   ⟨pf 0x40 [(16, [0x13]), (17, [3]), (20, [1, 0])], up, by decide +kernel⟩⟩

theorem witness_PegCommands :
    (let fresh (s : State) (n : Nat) : Prop := n < 256 ∧ (s.pegAt n).st = .free ∧ ∀ m, m < n → (s.pegAt m).st ≠ .free
   let mayArm (s : State) (c : Cmd) : Prop :=
     accepts s c 0x42 [] = true ∧ (c.byte 16).toNat ≤ 15 ∧ (s.line (c.byte 16).toNat).enable = true ∧ (c.byte 17).toNat ≤ 7 ∧
     ((c.byte 17).getLsbD 1 = true → c.fn.val = 0)
    ∃ (c : Cmd) (n : Nat) (s : State), (mayArm s c) ∧ ((c.byte 17).getLsbD 0 = false) ∧
      (reservedZero c [(16, 17), (24, 29)] = true) ∧ (c.fn.val = 0 ∨ s.pegsOf c.fn.val < 64) ∧
      (0 < posDiff (BitVec.ofNat 48 (c.le 24 6)) (s.line (c.byte 16).toNat).hwm) ∧
      (posDiff (BitVec.ofNat 48 (c.le 24 6)) (s.line (c.byte 16).toNat).hwm ≤ (2 : Int) ^ 46 - 1) ∧ (fresh s n)) ∧
    (let fresh (s : State) (n : Nat) : Prop := n < 256 ∧ (s.pegAt n).st = .free ∧ ∀ m, m < n → (s.pegAt m).st ≠ .free
   let mayArm (s : State) (c : Cmd) : Prop :=
     accepts s c 0x42 [] = true ∧ (c.byte 16).toNat ≤ 15 ∧ (s.line (c.byte 16).toNat).enable = true ∧ (c.byte 17).toNat ≤ 7 ∧
     ((c.byte 17).getLsbD 1 = true → c.fn.val = 0)
    ∃ (c : Cmd) (n : Nat) (s : State), (mayArm s c) ∧ ((c.byte 17).getLsbD 0 = true) ∧
      (reservedZero c [(16, 18), (24, 29)] = true) ∧ (c.fn.val = 0 ∨ s.pegsOf c.fn.val < 64) ∧
      ((c.byte 18).toNat ≤ 3) ∧ ((s.peg.trigs.get (c.byte 18).toNat).line.val = (c.byte 16).toNat) ∧
      (c.le 24 6 ≤ 2 ^ 46 - 1) ∧ (fresh s n)) ∧
    (let mayArm (s : State) (c : Cmd) : Prop :=
     accepts s c 0x42 [] = true ∧ (c.byte 16).toNat ≤ 15 ∧ (s.line (c.byte 16).toNat).enable = true ∧ (c.byte 17).toNat ≤ 7 ∧
     ((c.byte 17).getLsbD 1 = true → c.fn.val = 0)
    ∃ (c : Cmd) (s : State), (mayArm s c) ∧ (c.fn.val ≠ 0) ∧ ((c.byte 17).getLsbD 0 = false) ∧
      (reservedZero c [(16, 17), (24, 29)] = true) ∧ (64 ≤ s.pegsOf c.fn.val) ∧
      (posDiff (BitVec.ofNat 48 (c.le 24 6)) (s.line (c.byte 16).toNat).hwm ≤ (2 : Int) ^ 46 - 1)) ∧
    (∃ (c : Cmd) (s : State), (accepts s c 0x42 [] = true) ∧ (c.fn.val ≠ 0) ∧ ((c.byte 17).getLsbD 1 = true)) ∧
    (∃ (c : Cmd) (s : State), (accepts s c 0x43 [] = true) ∧ (reservedZero c [(16, 16)] = true) ∧
      ((s.pegAt (c.byte 16).toNat).st ≠ .free) ∧ ((s.pegAt (c.byte 16).toNat).armedBy = some c.fn.val)) ∧
    (∃ (c : Cmd) (s : State), (accepts s c 0x43 [] = true) ∧ (reservedZero c [(16, 16)] = true) ∧
      ((s.pegAt (c.byte 16).toNat).st ≠ .free) ∧ ((s.pegAt (c.byte 16).toNat).armedBy ≠ some c.fn.val)) ∧
    (∃ (c : Cmd) (s : State), (accepts s c 0x43 [] = true) ∧ (reservedZero c [(16, 16)] = true) ∧
      ((s.pegAt (c.byte 16).toNat).st = .free)) :=
  ⟨⟨pf 0x42 [(24, [1])], 0, upLine 0 fun x => { x with enable := true }, by decide +kernel⟩,
   ⟨pf 0x42 [(17, [1]), (24, [1])], 0, upLine 0 fun x => { x with enable := true }, by decide +kernel⟩,
   ⟨vf 0x42 [(24, [1])],
    (upPeg fun p => { p with pegs := (upto 64).map fun n => (n, { st := .armed, armedBy := some 1 }) }).updLine 0 fun x => { x with enable := true },
    by decide +kernel⟩,
   ⟨vf 0x42 [(17, [2])], up, by decide +kernel⟩,
   ⟨pf 0x43 [(16, [255])], upPeg fun p => { p with pegs := [(255, { st := .armed, armedBy := some 0 })] }, by decide +kernel⟩,
   ⟨pf 0x43 [(16, [255])], upPeg fun p => { p with pegs := [(255, { st := .armed, armedBy := some 1 })] }, by decide +kernel⟩,
   ⟨pf 0x43 [(16, [255])], upPeg fun p => { p with pegs := [(255, { armedBy := some 0 })] }, by decide +kernel⟩⟩

theorem witness_PegsAndTriggers :
    (∃ (n : Nat) (s : State), (n < 256) ∧ ((s.pegAt n).bindings = []) ∧ ((s.pegAt n).wake = false)) ∧
    (∃ (n : Nat) (k : Nat) (enc : Bool) (tag : Nat) (s : State), (n < 256) ∧
      ((s.pegAt n).bindings = [.picture k enc tag]) ∧ ((s.pegAt n).wake = false) ∧ ((s.pegAt n).noMissOut = false) ∧
      (s.peg.missHold ≠ 0) ∧ (s.outputsLive = true)) ∧
    (∃ (m : Fin 4) (rising : Bool) (s : State), (s.pegLive = true) ∧ ((s.peg.trigs.get m.val).enable = true) ∧
      (rising ≠ (s.peg.trigs.get m.val).falling) ∧ ((s.line (s.peg.trigs.get m.val).line.val).enable = true) ∧
      ((∀ n, n < 256 → (s.pegAt n).st ≠ .waiting))) ∧
    (∃ (s : State), (s.peg.missOut = true) ∧ (s.peg.missEnd ≤ s.time)) ∧
    (∃ (l : Nat) (s : State), (s.pegLive = true) ∧ (l < 16) ∧ ((s.line l).stopped = true ∨ (s.line l).enable = false)) :=
  ⟨⟨255, upPeg fun p => { p with pegs := [(255, { st := .armed, armedBy := some 0 })] }, by decide +kernel⟩,
   ⟨0, 0, true, 7,
    upPeg fun p => { p with pegs := [(0, { st := .armed, armedBy := some 0, bindings := [.picture 0 true 7] })] },
    by decide +kernel⟩,
   ⟨3, true, (upPeg fun p => { p with trigs := [(3, { enable := true })] }).updLine 0 fun x => { x with enable := true },
    by decide +kernel⟩,
   ⟨upPeg fun p => { p with missOut := true }, by decide +kernel⟩,
   ⟨15, up, by decide +kernel⟩⟩

theorem witness_Mail :
    (∃ (m : Fin 24) (cls : Nat) (idx : Nat) (s : State), (s.mbxValid = true) ∧ (s.sendsTo m.val cls idx = true) ∧
      ((s.mbx.boxes.get m.val).length < 4)) ∧
    (∃ (s : State), (s.mbxValid = true) ∧ ((s.mbx.boxes.get 1).length < 4)) ∧
    (∃ (h : Slot) (r : List Slot) (s : State), (s.mbxValid = true) ∧ (s.mbx.boxes.get 0 = h :: r)) :=
  ⟨⟨0, 0, 0, up, by decide +kernel⟩,
   ⟨up, by decide +kernel⟩,
   ⟨{}, [], upMbx fun b => { b with boxes := [(0, [{}])] }, by decide +kernel⟩⟩

theorem witness_MailConservation :
    (∃ s : State, ∀ m, m < 24 → (s.mbx.boxes.get m).length ≤ 4 ∧ s.cons (cid 0x48 m) = s.cons (cid 0x49 m) + (s.mbx.boxes.get m).length) :=
  ⟨up, by decide +kernel⟩

theorem witness_SnapshotsAndRecords :
    (∃ (c : Cmd) (s : State), (accepts s c 0x68 [] = true) ∧ (reservedZero c [(16, 16), (24, 35)] = true) ∧
      ((c.byte 16).toNat ≤ 3)) ∧
    (∃ (v : Word) (s : State), (s.telValid = true) ∧ (v.getLsbD 0 = true)) ∧
    (∃ (s : State), (s.telValid = true) ∧ (s.controlRuns = true) ∧ (s.tel.periodAt + s.tel.periodMs * msNs ≤ s.time)) ∧
    (∃ (s : State), (s.tel.pending = true) ∧ (s.controlRuns = true)) ∧
    (∃ (s : State), (s.telValid = true) ∧ (s.controlRuns = true) ∧ (s.tel.flushAt = 0) ∧ (s.tel.ltQueue ≠ []) ∧
      (s.tel.ltSuppressed = [])) ∧
    (∃ (s : State), (s.telValid = true) ∧ (s.controlRuns = true) ∧ (s.tel.summaryAt + 3600 * secNs ≤ s.time)) ∧
    (∃ (c : Cmd) (n : Nat) (r : LtRec) (rs : List LtRec) (s : State), (accepts s c 0x69 [] = true) ∧
      (reservedZero c [(16, 16), (20, 35)] = true) ∧ ((c.byte 16).toNat = 1) ∧ (c.le 32 4 = 64 * (n + 1)) ∧
      ((s.tel.ltRing.filter fun x => decide (c.le 20 4 = 0xFFFFFFFF ∨ c.le 20 4 ≤ x.seq % 2 ^ 32)) = r :: rs)) ∧
    (∃ (c : Cmd) (s : State), (accepts s c 0x69 [] = true) ∧ (reservedZero c [(16, 16), (20, 35)] = true) ∧
      ((c.byte 16).toNat = 0) ∧ (c.le 32 4 % 64 = 0)) ∧
    (∃ (i : Nat) (s : State), (s.telValid = true) ∧ (i < 6)) :=
  ⟨⟨vf 0x68 [(16, [3])], up, by decide +kernel⟩,
   ⟨1, up, by decide +kernel⟩,
   ⟨up, by decide +kernel⟩,
   ⟨upTel fun x => { x with pending := true }, by decide +kernel⟩,
   ⟨upTel fun x => { x with ltQueue := [{}] }, by decide +kernel⟩,
   ⟨up, by decide +kernel⟩,
   ⟨pf 0x69 [(16, [1]), (20, [255, 255, 255, 255]), (32, [64])], 0, {}, [], upTel fun x => { x with ltRing := [{}] },
    by decide +kernel⟩,
   ⟨pf 0x69 [(32, [64])], upTel fun x => { x with ltRing := [{}] }, by decide +kernel⟩,
   ⟨5, upTel fun x => { x with hists := [(0, default)] }, by decide +kernel⟩⟩

theorem witness_DarnerRegisters :
    (∃ (c : Cmd) (s : State), (accepts s c 0x70 [] = true) ∧ (reservedZero c [(16, 16), (20, 28)] = true) ∧ (let f := c.le 16 1; f ≤ 15) ∧ (let f := c.le 16 1; (f.testBit 0 = true → 8 ≤ c.le 20 2 ∧ c.le 20 2 ≤ 1024)) ∧ (let f := c.le 16 1; (f.testBit 1 = true → 1 ≤ c.le 22 1 ∧ c.le 22 1 ≤ 64)) ∧ (let f := c.le 16 1; (f.testBit 2 = true → 2 ≤ c.le 23 1 ∧ c.le 23 1 ≤ 64)) ∧ (let f := c.le 16 1; let d := if f.testBit 0 then c.le 20 2 else s.drn.div; let r := if f.testBit 2 then c.le 23 1 else s.drn.raisedDiv; r ≤ d ∨ f.testBit 0 = false ∧ f.testBit 2 = false) ∧ (let f := c.le 16 1; (f.testBit 3 = true → 1000 ≤ c.le 24 4 ∧ c.le 24 4 ≤ 1000000))) ∧
    (∃ (c : Cmd) (s : State), (accepts s c 0x70 [] = true) ∧ (reservedZero c [(16, 16), (20, 28)] = true) ∧
      (c.le 16 1 = 0x20) ∧ (c.le 28 1 ≤ 63 ∨ c.le 28 1 = 0xFF) ∧ (s.drn.drain = true)) ∧
    (∃ (c : Cmd) (s : State), (accepts s c 0x71 [] = true) ∧ (reservedZero c [(16, 16)] = true) ∧ (c.le 16 1 = 0)) ∧
    (∃ (c : Cmd) (s : State), (accepts s c 0x71 [] = true) ∧ (reservedZero c [(16, 16), (18, 19)] = true) ∧
      (c.le 16 1 = 1) ∧ (c.le 18 2 ≤ 2047)) ∧
    (∃ (c : Cmd) (s : State), (accepts s c 0x71 [] = true) ∧ (reservedZero c [(16, 16), (18, 18)] = true) ∧
      (c.le 16 1 = 2) ∧ (c.le 18 1 ≤ 63)) ∧
    (∃ (v : Word) (s : State), (s.drnValid = true) ∧ (v.getLsbD 31 = true)) :=
  ⟨⟨pf 0x70 [(16, [1]), (20, [0, 4])], up, by decide +kernel⟩,
   ⟨pf 0x70 [(16, [0x20]), (28, [63])], upDrn fun d => { d with drain := true }, by decide +kernel⟩,
   ⟨pf 0x71 [], up, by decide +kernel⟩,
   ⟨pf 0x71 [(16, [1]), (18, [0xFF, 7])], up, by decide +kernel⟩,
   ⟨pf 0x71 [(16, [2]), (18, [63])], up, by decide +kernel⟩,
   ⟨0x80000000, upDrn fun d => { d with last := { bin := 3 } }, by decide +kernel⟩⟩

theorem witness_ContextCommands :
    (∃ (c : Cmd) (s : State), (accepts s c 0x08 [] = true) ∧ (reservedZero c [(16, 20), (22, 36), (40, 47)] = true) ∧ ((c.byte 16).toNat ≤ 15) ∧ ((c.byte 17).toNat ∈ [0x1, 0x2, 0x3, 0xB, 0xC]) ∧ (1 ≤ c.le 18 2) ∧ (c.le 18 2 ≤ 256) ∧ (1 ≤ (c.byte 20).toNat) ∧ ((c.byte 20).toNat ≤ 64) ∧ (1 ≤ c.le 22 2) ∧ (c.le 22 2 ≤ 256) ∧ (c.le 24 4 ≤ 131072) ∧ (1 ≤ c.le 32 4) ∧ (c.le 32 4 ≤ 131072) ∧ (16 ≤ (c.byte 36).toNat) ∧ ((c.byte 36).toNat ≤ 24) ∧ (c.le 40 8 % 4096 = 0) ∧ ((s.ctx (c.byte 16).toNat).st = .free) ∧ (c.le 24 4 ≤ s.kvpUnassigned) ∧ ((allCtxs.map fun i => (s.ctx i).reqQuota).foldl (· + ·) 0 + c.le 28 2 ≤ 16384) ∧ ((allCtxs.map fun i => (s.ctx i).slots.length).foldl (· + ·) 0 + c.le 30 2 ≤ 8192) ∧ ((let g : Geom := { fmt := (c.byte 17).toNat, layers := c.le 18 2, heads := (c.byte 20).toNat, dim := c.le 22 2 }
     granuleFrames (c.le 24 4 * g.granules) + granuleFrames (c.le 30 2) ≤ s.framesFree)) ∧ (((s.fetched c).pickRange (c.le 32 4)).isSome = true)) ∧
    (∃ (c : Cmd) (s : State), (accepts s c 0x09 [] = true) ∧ (reservedZero c [(16, 16)] = true) ∧
      ((c.byte 16).toNat ≤ 15) ∧ ((s.ctx (c.byte 16).toNat).st = .ready) ∧ (s.holdsAny (c.byte 16).toNat = false) ∧
      (s.glb.state = .ready)) ∧
    (∃ (c : Cmd) (s : State), (accepts s c 0x0A [] = true) ∧ (reservedZero c [(16, 16)] = true) ∧ (c.fn.val ≠ 0) ∧
      ((s.ctx (c.fn.val - 1)).st = .ready) ∧ ((s.ctx (c.fn.val - 1)).steps = []) ∧
      ((s.ctx (c.fn.val - 1)).reqs = []) ∧ ((s.ctx (c.fn.val - 1)).jobs = []) ∧ (s.sessionsOf (c.fn.val - 1) = []) ∧
      ((s.ctx (c.fn.val - 1)).closing = false) ∧ (s.glb.state = .ready)) ∧
    (∃ (c : Cmd) (s : State), (accepts s c 0x0B [] = true) ∧ (reservedZero c [(16, 16)] = true) ∧
      ((c.byte 16).toNat ≤ 15) ∧ (c.fn.val = 0 ∨ (c.byte 16).toNat = c.fn.val - 1)) :=
  ⟨⟨pf 8 [(16, [15, 1, 0, 1, 64]), (22, [0, 1, 8, 0, 0, 0, 4, 0, 1, 0, 1, 0, 0, 0, 24])], up, by decide +kernel⟩,
   ⟨pf 9 [], upCtx fun x => { x with reqQuota := 0 }, by decide +kernel⟩,
   ⟨vf 0x0A [], up, by decide +kernel⟩,
   ⟨vf 0x0B [], up, by decide +kernel⟩⟩

theorem witness_ModuleStates :
    (∃ (c : Cmd) (s : State), (accepts s c 0x58 [] = true) ∧ (reservedZero c [] = true) ∧ (s.glb.state = .ready) ∧
      ((∀ i, i < 16 → (s.ctx i).steps = []))) ∧
    (∃ (c : Cmd) (s : State), (accepts s c 0x58 [] = true) ∧ (reservedZero c [] = true) ∧ (s.glb.state = .ready) ∧
      ((∃ i, i < 16 ∧ (s.ctx i).steps ≠ []))) ∧
    (∃ (c : Cmd) (s : State), (accepts s c 0x5A [] = true) ∧ (reservedZero c [] = true) ∧ (s.glb.state = .quiesced)) ∧
    (∃ (c : Cmd) (s : State), (accepts s c 0x59 [] = true) ∧ (reservedZero c [(16, 16), (20, 23)] = true) ∧
      ((c.byte 16).toNat ≤ 1) ∧ (s.glb.state = .ready ∨ s.glb.state = .quiesced) ∧
      ((∀ i, i < 16 → (s.ctx i).st = .free ∨ (s.ctx i).st = .ready ∧ (s.ctx i).reqs = [] ∧ (s.ctx i).steps = [])) ∧
      ((∀ i, i < 16 → (s.ctx i).jobs = []))) ∧
    (∃ (c : Cmd) (i : Nat) (s : State), (accepts s c 0x59 [] = true) ∧ (reservedZero c [(16, 16), (20, 23)] = true) ∧
      ((c.byte 16).toNat = 0) ∧ (s.glb.state = .ready ∨ s.glb.state = .quiesced) ∧ (i < 16) ∧
      ((s.ctx i).st = .running) ∧ ((∀ x, x < 16 → (s.ctx x).jobs = []))) ∧
    (∃ (lim : Nat) (s : State), (s.glb.drainLimit = some lim) ∧ (lim ≤ s.time) ∧
      (s.glb.state = .doze ∨ s.glb.state = .clockHold)) :=
  ⟨⟨pf 0x58 [], up, by decide +kernel⟩,
   ⟨pf 0x58 [], upCtx fun x => { x with steps := [{}] }, by decide +kernel⟩,
   ⟨pf 0x5A [], (upCtx fun x => { x with st := .drained }).updGlb fun g => { g with state := .quiesced }, by decide +kernel⟩,
   ⟨pf 0x59 [], { up with ctxs := [] }, by decide +kernel⟩,
   ⟨pf 0x59 [(20, [100])], 0, upCtx fun x => { x with st := .running, steps := [{}] }, by decide +kernel⟩,
   ⟨5, upGlb fun g => { g with state := .doze, drainLimit := some 5 }, by decide +kernel⟩⟩

theorem witness_ObjectCommands :
    (∃ (c : Cmd) (img : Image) (s : State), (accepts s c 0x10 [] = true) ∧ (reservedZero c [(16, 27)] = true) ∧
      ((s.fetched c).schedCheck (Cmd.ownCtx c) (c.le 24 4) img = none) ∧
      ((∃ h, h < 16 ∧ s.image (Cmd.ownCtx c) h = none))) ∧
    (∃ (c : Cmd) (g : Image) (s : State), (accepts s c 0x11 [] = true) ∧ (reservedZero c [(16, 16)] = true) ∧
      ((c.byte 16).toNat ≤ 15) ∧ (s.image (Cmd.ownCtx c) (c.byte 16).toNat = some g) ∧
      ((s.ctx (Cmd.ownCtx c)).runsImage (c.byte 16).toNat = false) ∧
      ((∀ r ∈ (s.ctx (Cmd.ownCtx c)).reqs, r.st = .queued ∨ r.decImg ≠ (c.byte 16).toNat ∧ r.preImg ≠ (c.byte 16).toNat))) ∧
    (∃ (c : Cmd) (s : State), (accepts s c 0x14 [] = true) ∧ (reservedZero c [(16, 16), (24, 47)] = true) ∧
      ((c.byte 16).toNat = 0 ∨ (c.byte 16).toNat = 2) ∧ ((∀ w ∈ (s.ctx (Cmd.ownCtx c)).weights, w.id ≠ c.objId)) ∧
      (c.le 32 8 ≠ 0) ∧ (c.le 40 8 % pageBytes = 0) ∧
      (c.le 40 8 + c.le 32 8 ≤ (s.ctx (Cmd.ownCtx c)).mmuSize * pageBytes) ∧
      (s.newPages (Cmd.ownCtx c) (c.le 40 8) (c.le 32 8) ≤ s.framesFree)) ∧
    (∃ (c : Cmd) (pkg : Blob) (s : State), (accepts s c 0x14 [0] = true) ∧ (reservedZero c [(16, 16), (24, 47)] = true) ∧ ((c.byte 16).toNat = 1 ∨ (c.byte 16).toNat = 3) ∧ (sealedOk pkg (c.le 32 8) = true) ∧ (s.bindingOk pkg = true) ∧ ((∀ w ∈ (s.ctx (Cmd.ownCtx c)).weights, w.id ≠ c.objId)) ∧ (c.le 40 8 % pageBytes = 0) ∧ (let region := pkg.le 40 4 * 2 ^ 20; c.le 40 8 + region ≤ (s.ctx (Cmd.ownCtx c)).mmuSize * pageBytes) ∧ (let region := pkg.le 40 4 * 2 ^ 20; s.newPages (Cmd.ownCtx c) (c.le 40 8) region ≤ s.framesFree)) ∧
    (∃ (c : Cmd) (w : Weights) (s : State), (accepts s c 0x15 [] = true) ∧ (reservedZero c [] = true) ∧
      ((s.ctx (Cmd.ownCtx c)).weights.find? (·.id = c.objId) = some w) ∧
      ((∀ e ∈ (s.ctx (Cmd.ownCtx c)).images, e.2.map imgWeightsId ≠ some c.objId))) ∧
    (∃ (c : Cmd) (table : Blob) (s : State), (accepts s c 0x1C [] = true) ∧ (reservedZero c [(16, 16), (24, 35)] = true) ∧
      ((c.byte 16).toNat ≤ 63) ∧ (gramOk table (c.le 32 4) = true) ∧
      ((s.tsu.grams.get (c.byte 16).toNat).loaded = false) ∧ (s.objectFits (c.le 32 4) = true)) ∧
    (∃ (c : Cmd) (s : State), (accepts s c 0x1D [] = true) ∧ (reservedZero c [(16, 16)] = true) ∧
      ((c.byte 16).toNat ≤ 63) ∧ ((s.gramVocab (Cmd.ownCtx c) (c.byte 16).toNat).isSome = true) ∧
      ((∀ r ∈ (s.ctx (Cmd.ownCtx c)).reqs, r.sel.grammar ≠ some (c.byte 16).toNat))) :=
  ⟨⟨vf 0x10 [(24, [0x70, 0x25])], imgDig, up, by decide +kernel, by decide +kernel, imgDig_accepted, 0, by decide +kernel⟩,
   ⟨vf 0x11 [(16, [15])], imgOne, upCtx fun x => { x with images := [(15, some imgOne)] }, by decide +kernel⟩,
   ⟨vf 0x14 [(8, [7]), (32, [1])], up, by decide +kernel⟩,
   ⟨vf 0x14 [(8, [7]), (16, [1]), (32, [0x10, 2, 0x10])],
    { runs := [(1, 0x53), (1, 0x45), (1, 0x41), (1, 0x4C), (1, 1), (1, 1), (34, 0), (1, 1), (1049063, 0)] }, up,
    by decide +kernel⟩,
   ⟨vf 0x15 [(8, [7])], { id := 7, len := 1 }, upCtx fun x => { x with weights := [{ id := 7, len := 1 }] },
    by decide +kernel⟩,
   ⟨vf 0x1C [(16, [63]), (24, [0, 16]), (32, [0, 1])], gramOne, up, by decide +kernel⟩,
   ⟨vf 0x1D [(16, [63])], upTsu fun u => { u with grams := [(63, { loaded := true, table := gramOne })] }, by decide +kernel⟩⟩

theorem witness_PatchesAndReloads :
    (∃ (c : Cmd) (pkg : Blob) (s : State), (accepts s c 0x18 [] = true) ∧ (reservedZero c [(16, 19), (24, 36)] = true) ∧ ((c.byte 36).toNat ≤ 1) ∧ (s.objectFits (c.le 32 4) = true) ∧ ((let bytes := pkg.bytes.take (c.le 32 4)
     (c.byte 36).getLsbD 0 = true → sha384 (bytes.take (c.le 32 4 - 48)) = bytes.drop (c.le 32 4 - 48))) ∧ (patchOk pkg (c.le 32 4) = true) ∧ (pkg.le 4 1 ≤ (s.ctx (Cmd.ownCtx c)).maxRank) ∧ ((s.tsu.patches.any fun e => e.2.st != .free && e.2.owner == Cmd.ownCtx c && e.2.id == c.objId && e.2.version == c.le 16 4) = false) ∧ ((∃ k, k < 512 ∧ (s.tsu.patches.get k).st = .free))) ∧
    (∃ (c : Cmd) (k : Nat) (p : PatchSlot) (s : State), (accepts s c 0x19 [] = true) ∧ (reservedZero c [(16, 19)] = true) ∧
      (s.tsu.patches.find? (fun e => e.2.st != .free && e.2.owner == Cmd.ownCtx c && e.2.id == c.objId && e.2.version == c.le 16 4) = some (k, p)) ∧
      (s.tsu.patches.get k = p) ∧ (p.st = .ready) ∧ (p.pins ≠ 0) ∧ ((∀ e ∈ s.tsu.patches, e.2.st ≠ .retiring))) ∧
    (∃ (c : Cmd) (k : Nat) (p : PatchSlot) (s : State), (accepts s c 0x19 [] = true) ∧ (reservedZero c [(16, 19)] = true) ∧
      (s.tsu.patches = [(k, p)]) ∧ (p.st = .ready) ∧ (p.owner = Cmd.ownCtx c) ∧ (p.id = c.objId) ∧
      (p.version = c.le 16 4) ∧ (p.pins = 0) ∧ ((∀ i ∈ s.host.inflight, i.wait ≠ .patchFree k))) ∧
    (∃ (x : CtxId) (va : Nat) (s : State), ((s.ctx x.val).reloading = some va)) ∧
    (∃ (x : CtxId) (s : State), ((s.ctx x.val).reloading.isSome = true) ∧
      ((s.ctx x.val).reloadSince + s.host.timeoutS * secNs ≤ s.time)) :=
  ⟨⟨vf 0x18 [(8, [9]), (16, [1]), (32, [0x84])], patchOne,
    upCtx fun x => { x with images := [(0, some { patchRank := 8 })] }, by decide +kernel⟩,
   ⟨vf 0x19 [(8, [9]), (16, [1])], 511, patchHeld, upTsu fun u => { u with patches := [(511, patchHeld)] },
    by decide +kernel⟩,
   ⟨vf 0x19 [(8, [9]), (16, [1])], 511, { patchHeld with pins := 0 },
    upTsu fun u => { u with patches := [(511, { patchHeld with pins := 0 })] }, by decide +kernel⟩,
   ⟨0, 0,
    (upCtx fun x => { x with reloading := some 0, weights := [{ id := 1, len := 8, copyHeld := true, bytes := [7, 9] }] }).updMem fun m => { m with poison := [(0, true)] },
    by decide +kernel⟩,
   ⟨0, upCtx fun x => { x with reloading := some 0 }, by decide +kernel⟩⟩

theorem witness_RequestSubmitted :
    (∃ (c : Cmd) (x : Nat) (res : Nat) (sel : Sel) (a : Account) (pin : Option Pin) (s : State),
      (accepts s c 0x20 (s.submitFeats c) = true) ∧ (reservedZero c [(16, 22), (24, 51), (56, 63)] = true) ∧
      (x = Cmd.ownCtx c) ∧ (s.vaOk x (c.le 56 8) 128 false = true) ∧ (sel = s.selAt x (c.le 56 8)) ∧
      ((∀ g ∈ sel.grammar, (s.gramVocab x g).isSome = true)) ∧ ((∀ p ∈ sel.patch, (s.bestPatch x p).isSome = true)) ∧
      ((∀ r ∈ s.submitRules c (s.image x ((c.byte 16).toNat / 16)) (s.image x ((c.byte 16).toNat % 16)) sel, r.1 = false)) ∧
      (((c.byte 21).getLsbD 0 = true → (s.pegAt (c.byte 20).toNat).st = .armed ∨ (s.pegAt (c.byte 20).toNat).st = .waiting)) ∧
      (pin = (if (c.byte 21).getLsbD 2 then (s.ctx x).pins.find? (fun p => p.id = c.le 40 8) else none)) ∧
      (((c.byte 21).getLsbD 2 = true → pin.isSome = true)) ∧ ((∀ p ∈ pin, p.poisoned = false)) ∧
      (a = s.acct x (c.le 18 2)) ∧ (res = (c.le 24 4 - (pin.map Pin.len).getD 0) * a.inCost + c.le 28 4 * a.outCost) ∧
      (a.enable = true) ∧ (res ≤ a.depth) ∧ ((a.noQueue = true → res ≤ a.level)) ∧
      ((s.ctx x).reqs.length < (s.ctx x).reqQuota) ∧ (s.tracked < 16384)) :=
  ⟨vf 0x20 [(8, [5]), (16, [0x10, 7, 0xFF, 3]), (24, [4, 0, 0, 0, 4])], 0, 8, serving.selAt 0 0,
    { known := true, enable := true, inCost := 1, outCost := 1, depth := 8 }, none, serving, by decide +kernel⟩

theorem witness_RequestCommands :
    (∃ (c : Cmd) (r : Req) (s : State), (accepts s c 0x21 [] = true) ∧ (reservedZero c [] = true) ∧
      (s.findReq (Cmd.ownCtx c) c.objId = some r) ∧ (r.st ≠ .ending) ∧ (r.cancel = none)) ∧
    (∃ (c : Cmd) (r : Req) (s : State), (accepts s c 0x21 [] = true) ∧ (reservedZero c [] = true) ∧
      (s.findReq (Cmd.ownCtx c) c.objId = some r) ∧ (r.st = .ending ∨ r.cancel.isSome = true)) ∧
    (∃ (c : Cmd) (r : Req) (s : State), (accepts s c 0x22 [] = true) ∧ (reservedZero c [] = true) ∧
      (s.findReq (Cmd.ownCtx c) c.objId = some r)) ∧
    (∃ (c : Cmd) (s : State), (accepts s c 0x21 [] = true) ∧ (reservedZero c [] = true) ∧
      (s.findReq (Cmd.ownCtx c) c.objId = none)) ∧
    (∃ (c : Cmd) (s : State), (accepts s c 0x22 [] = true) ∧ (reservedZero c [] = true) ∧
      (s.findReq (Cmd.ownCtx c) c.objId = none)) :=
  ⟨⟨vf 0x21 [(8, [5])], { id := 5, st := .decode }, withReq { id := 5, st := .decode }, by decide +kernel⟩,
   ⟨vf 0x21 [(8, [5])], { id := 5, st := .ending }, withReq { id := 5, st := .ending }, by decide +kernel⟩,
   ⟨vf 0x22 [(8, [5])], { id := 5, st := .decode }, withReq { id := 5, st := .decode }, by decide +kernel⟩,
   ⟨vf 0x21 [(8, [5])], up, by decide +kernel⟩,
   ⟨vf 0x22 [(8, [5])], up, by decide +kernel⟩⟩

theorem witness_AccountCommands :
    (∃ (c : Cmd) (s : State), (accepts s c 0x24 [] = true) ∧ (reservedZero c [(16, 18), (20, 27), (32, 47)] = true) ∧
      (c.le 16 2 ≤ 1023) ∧ ((c.byte 18).toNat ≤ 7) ∧ (c.le 22 2 ≠ 0) ∧ (c.le 32 8 ≠ 0) ∧ (c.le 32 8 ≤ 2 ^ 48) ∧
      (((c.byte 18).getLsbD 2 = true → c.le 40 8 ≤ c.le 32 8)) ∧
      (s.mayAdmit (Cmd.ownCtx c) = false ∨ (s.ctx (Cmd.ownCtx c)).reqs = [])) ∧
    (∃ (c : Cmd) (s : State), (accepts s c 0x25 [] = true) ∧ (reservedZero c [(16, 17)] = true) ∧ (c.le 16 2 ≤ 1023) ∧
      ((s.acct (Cmd.ownCtx c) (c.le 16 2)).known = true)) ∧
    (∃ (c : Cmd) (s : State), (accepts s c 0x25 [] = true) ∧ (reservedZero c [(16, 17)] = true) ∧ (c.le 16 2 ≤ 1023) ∧
      ((s.acct (Cmd.ownCtx c) (c.le 16 2)).known = false)) ∧
    (∃ (x : Nat) (s : State), (s.glb.state = .ready ∨ s.glb.state = .draining ∨ s.glb.state = .suspect) ∧
      (s.ctl.owner.isSome = true) ∧ (s.ctl.gap = false) ∧ (x < 16) ∧
      ((∀ i, i < 16 → Tbl.wf (s.ctx i).accounts = true ∧ ∀ e ∈ (s.ctx i).accounts, e.2.level ≤ e.2.depth))) ∧
    (∃ (s : State), (s.glb.state = .quiesced)) :=
  ⟨⟨vf 0x24 [(16, [0xFF, 3, 3]), (22, [1]), (32, [0, 0, 0, 0, 0, 0, 1])], upIn .quiesced, by decide +kernel⟩,
   ⟨vf 0x25 [(16, [0xFF, 3])], upCtx fun x => { x with accounts := [(1023, { known := true })] }, by decide +kernel⟩,
   ⟨vf 0x25 [], up, by decide +kernel⟩,
   ⟨0, upCtx fun x => { x with accounts := [(1023, acctOne)] }, by decide +kernel⟩,
   ⟨upIn .quiesced, by decide +kernel⟩⟩

theorem witness_AccountConservation :
    (let Inv (s : State) (c a : Nat) : Prop :=
       let i := accIdx c a
       s.cons (cid 1 i) + s.cons (cid 5 i) = (s.acct c a).level + s.cons (cid 2 i) + s.cons (cid 3 i) ∧
         (s.acct c a).level ≤ (s.acct c a).depth
    ∃ (s : State) (c : Nat) (a : Nat) (n : Nat), (c < 16) ∧ (a < 1024) ∧ (Inv s c a) ∧ (n ≤ (s.acct c a).level)) ∧
    (let Inv (s : State) (c a : Nat) : Prop :=
       let i := accIdx c a
       s.cons (cid 1 i) + s.cons (cid 5 i) = (s.acct c a).level + s.cons (cid 2 i) + s.cons (cid 3 i) ∧
         (s.acct c a).level ≤ (s.acct c a).depth
    ∃ (s : State) (c : Nat) (a : Nat), (c < 16) ∧ (a < 1024) ∧ (Inv s c a)) :=
  ⟨⟨(upCtx fun x => { x with accounts := [(1023, acctOne)] }).consAdd (cid 1 (accIdx 0 1023)) 9, 0, 1023, 5,
    by decide +kernel⟩,
   ⟨up, 15, 1023, by decide +kernel⟩⟩

theorem witness_ConfigurationPath :
    (∃ (s : State), (s.board.powered = true) ∧ (s.host.linkUp = true) ∧ (s.glb.stage < 3)) ∧
    (∃ (s : State), (s.board.powered = true) ∧ (s.host.linkUp = true) ∧ (3 ≤ s.glb.stage)) ∧
    (∃ (speed : Nat) (width : Nat) (s : State), (s.board.powered = true) ∧ (s.board.perst = false) ∧ (2 ≤ s.glb.stage) ∧
      (s.host.linkUp = false) ∧ (4 ≤ speed) ∧ (speed ≤ 6) ∧ (width = 4 ∨ width = 8 ∨ width = 16)) ∧
    (∃ (s : State), (s.board.powered = true) ∧ (s.host.linkUp = true) ∧ (3 ≤ s.glb.stage)) ∧
    (∃ (fn : Fn) (s : State), (s.sec.ideSecure.getLsbD fn.val = true)) ∧
    (∃ (fn : Fn) (s : State), (s.sec.ideSecure.getLsbD fn.val = false)) ∧
    (∃ (fn : Fn) (s : State), (s.sec.ideCtrl.getLsbD fn.val = true)) ∧
    (∃ (s : State), (s.board.powered = true)) ∧
    (∃ (s : State), (s.board.powered = true) ∧ (s.host.linkUp = true) ∧ (3 ≤ s.glb.stage)) ∧
    (∃ (bytes : List Byte) (s : State), (accepts s { fn := 0, ring := 8, bytes } 0x00 [] = true)) :=
  ⟨⟨upGlb fun g => { g with stage := 2 }, by decide +kernel⟩,
   ⟨up, by decide +kernel⟩,
   ⟨6, 16, upHost fun h => { h with linkUp := false }, by decide +kernel⟩,
   ⟨upHost fun h => { h with flit := true }, by decide +kernel⟩,
   ⟨16, upSec fun x => { x with ideSecure := 0x10000 }, by decide +kernel⟩,
   ⟨16, upSec fun x => { x with ideCtrl := 0x10000 }, by decide +kernel⟩,
   ⟨16, upSec fun x => { x with ideCtrl := 0x10000 }, by decide +kernel⟩,
   ⟨up, by decide +kernel⟩,
   ⟨up, by decide +kernel⟩,
   ⟨[0, 0, 0, 2] ++ List.replicate 60 0, up, by decide +kernel⟩⟩

theorem witness_FunctionResets :
    (∃ (x : CtxId) (s : State), (s.board.powered = true) ∧ ((s.ctx x.val).st ∈ [.free, .opening, .resetting])) ∧
    (∃ (x : CtxId) (s : State), (s.board.powered = true) ∧ (s.glb.state = .ready) ∧
      ((s.ctx x.val).st = .ready ∨ (s.ctx x.val).st = .faulted) ∧ ((s.ctx x.val).steps = []) ∧
      ((s.ctx x.val).reqs = []) ∧ ((s.ctx x.val).jobs = []) ∧ (s.sessionsOf x.val = []) ∧ (s.host.inflight = []) ∧
      ((s.sec.keys.get x.val).rotating = false)) ∧
    (∃ (s : State), (s.board.powered = true) ∧ (s.glb.state = .ready) ∧ ((∀ i, i < 16 → (s.ctx i).st = .free)) ∧
      ((∀ i ∈ s.host.inflight, i.wait ≠ .quiesced))) ∧
    (∃ (s : State), (s.board.powered = true) ∧ (s.host.linkUp = true) ∧ (s.glb.state = .ready) ∧
      ((∀ i, i < 16 → (s.ctx i).st = .free)) ∧ ((∀ i ∈ s.host.inflight, i.wait ≠ .quiesced))) :=
  ⟨⟨15, up, by decide +kernel⟩,
   ⟨0, up, by decide +kernel⟩,
   ⟨{ up with ctxs := [] }, by decide +kernel⟩,
   ⟨{ up with ctxs := [] }, by decide +kernel⟩⟩

theorem witness_CommandTimeouts :
    (let named (s : State) (fn : Fn) (ring : Fin 9) (seq : Word) : Option Inflight :=
       s.host.inflight.find? fun i => i.fn = fn.val ∧ i.ring = ring.val ∧ i.seq = seq
    ∃ (fn : Fn) (ring : Fin 9) (seq : Word) (s : State),
      ((∀ i ∈ named s fn ring seq, i.wait ∈ [.drained, .fwStage, .liveTaken] ∨ s.time < i.since + s.host.timeoutS * secNs))) ∧
    (let named (s : State) (fn : Fn) (ring : Fin 9) (seq : Word) : Option Inflight :=
       s.host.inflight.find? fun i => i.fn = fn.val ∧ i.ring = ring.val ∧ i.seq = seq
    ∃ (i : Inflight) (fn : Fn) (ring : Fin 9) (seq : Word) (s : State), (named s fn ring seq = some i) ∧
      (i.wait = .attest ∨ (∃ id g n o, i.wait = .sponsor id g n o)) ∧ (i.since + s.host.timeoutS * secNs ≤ s.time)) ∧
    (let named (s : State) (fn : Fn) (ring : Fin 9) (seq : Word) : Option Inflight :=
       s.host.inflight.find? fun i => i.fn = fn.val ∧ i.ring = ring.val ∧ i.seq = seq
    ∃ (i : Inflight) (fn : Fn) (ring : Fin 9) (seq : Word) (x : CtxId) (s : State), (named s fn ring seq = some i) ∧
      (i.wait = .keyGen x.val) ∧ ((s.sec.keys.get x.val).pendingGen = true) ∧
      (i.since + s.host.timeoutS * secNs ≤ s.time)) ∧
    (∃ (s : State), ((∃ i ∈ s.host.inflight, i.wait = .attest ∧ i.since + 500 * msNs ≤ s.time))) ∧
    (∃ (i : Inflight) (id : BitVec 64) (g : Word) (n : Nat) (o : BitVec 384) (s : State), (s.host.inflight = [i]) ∧
      (i.wait = .sponsor id g n o) ∧ (i.since + 500 * msNs ≤ s.time)) :=
  ⟨⟨0, 0, 0, upHost fun h => { h with inflight := [inflightOf .drained] }, by decide +kernel⟩,
   ⟨inflightOf .attest, 0, 0, 0, upHost fun h => { h with inflight := [inflightOf .attest] },
    by decide +kernel, .inl rfl, by decide +kernel⟩,
   ⟨inflightOf (.keyGen 0), 0, 0, 0, 0,
    (upHost fun h => { h with inflight := [inflightOf (.keyGen 0)] }).updSec fun x => { x with keys := [(0, { valid := true, rotating := true, pendingGen := true })] },
    by decide +kernel⟩,
   ⟨upHost fun h => { h with inflight := [inflightOf .attest] }, by decide +kernel⟩,
   ⟨inflightOf (.sponsor 1 0 2 0), 1, 0, 2, 0, upHost fun h => { h with inflight := [inflightOf (.sponsor 1 0 2 0)] },
    by decide +kernel⟩⟩

theorem witness_AttestationAndKeys :
    (∃ (c : Cmd) (s : State), (accepts s c 0x48 [] = true) ∧ (reservedZero c [(16, 17), (24, 35), (40, 63)] = true) ∧
      (c.fn.val = 0 ∨ c.le 16 1 = c.fn.val - 1) ∧ (c.le 16 1 ≤ 15 ∨ c.le 16 1 = 0xFF) ∧ (c.le 17 1 ≤ 3) ∧
      (s.reportLen (c.le 16 1) (c.le 17 1) ≤ c.le 32 4)) ∧
    (∃ (c : Cmd) (s : State), (accepts s c 0x48 [] = true) ∧ (reservedZero c [(16, 17), (24, 35), (40, 63)] = true) ∧
      (c.fn.val = 0 ∨ c.le 16 1 = c.fn.val - 1) ∧ (c.le 16 1 ≤ 15 ∨ c.le 16 1 = 0xFF) ∧ (c.le 17 1 ≤ 3)) ∧
    (∃ (c : Cmd) (s : State), (accepts s c 0x48 [] = true) ∧ (reservedZero c [(16, 17), (24, 35), (40, 63)] = true) ∧
      (c.fn.val = 0 ∨ c.le 16 1 = c.fn.val - 1) ∧ (c.le 16 1 ≤ 15 ∨ c.le 16 1 = 0xFF) ∧ (c.le 17 1 ≤ 3) ∧
      (c.le 32 4 < s.reportLen (c.le 16 1) (c.le 17 1))) ∧
    (∃ (c : Cmd) (s : State), (accepts s c 0x49 [] = true) ∧ (reservedZero c [(16, 16)] = true) ∧ (c.le 16 1 ≤ 15) ∧
      ((s.ctx (c.le 16 1)).st ≠ .free) ∧ ((s.ctx (c.le 16 1)).st ≠ .opening) ∧
      ((s.sec.keys.get (c.le 16 1)).rotating = false) ∧ (s.arr.cur ≠ some (c.le 16 1)) ∧
      ((∀ i ∈ s.host.inflight, i.wait ≠ .keyGen (c.le 16 1)))) ∧
    (∃ (c : Cmd) (s : State), (accepts s c 0x49 [] = true) ∧ (reservedZero c [(16, 16)] = true) ∧ (c.le 16 1 ≤ 15) ∧
      ((s.ctx (c.le 16 1)).st ≠ .free) ∧ ((s.ctx (c.le 16 1)).st ≠ .opening) ∧
      ((s.sec.keys.get (c.le 16 1)).rotating = false) ∧ (s.arr.cur = some (c.le 16 1))) ∧
    (∃ (x : CtxId) (p : Bool) (raced : Bool) (n : Nat) (k : Nat) (s : State), (s.board.powered = true) ∧
      (7 ≤ s.glb.stage) ∧ (s.glb.state ≠ .doze) ∧ (s.glb.state ≠ .clockHold) ∧
      ((s.sec.keys.get x.val).rotating = true) ∧ ((s.sec.keys.get x.val).pendingGen = false) ∧
      (s.sec.pass = some (x.val, p, n, k)) ∧ (s.passUnitOk x.val (!s.curSlot x.val) p n = true) ∧
      (raced = true ∨ k + 1 < s.passSize x.val p)) :=
  ⟨⟨vf 0x48 [(32, [255, 255, 255, 255]), (40, [7])], up,
    by decide +kernel, by decide +kernel, by decide +kernel, by decide +kernel, by decide +kernel, report_fits⟩,
   ⟨pf 0x48 [(16, [255, 3])], up, by decide +kernel⟩,
   ⟨pf 0x48 [(16, [255, 3])], up, by decide +kernel⟩,
   ⟨pf 0x49 [], up, by decide +kernel⟩,
   ⟨pf 0x49 [], (upIn .ready).updArr fun a => { a with cur := some 0 }, by decide +kernel⟩,
   ⟨0, true, false, 3, 0,
    (((upCtx fun x => { x with granules := 1 }).updSec) fun x => { x with keys := [(0, { valid := true, rotating := true })], pass := some (0, true, 3, 0) }).updKvp fun v => { v with dir := [(3, { st := .shared, owner := some 0, keygen := true, refs := 1 })] },
    by decide +kernel⟩⟩

theorem witness_SetMembership :
    (∃ (c : Cmd) (d : AdmissionDoc) (s : State), (accepts s c 0x4A [] = true) ∧
      (reservedZero c [(16, 17), (24, 35)] = true) ∧ (c.le 16 1 = 0) ∧ (d.signed = true) ∧ (s.sec.set_ = none) ∧
      (s.sec.moduleId ∈ d.modules) ∧ (d.setId = BitVec.ofNat 64 c.objId) ∧ (d.gen = 0) ∧ (d.modules.length ≤ 256)) ∧
    (∃ (c : Cmd) (d : AdmissionDoc) (s : State), (accepts s c 0x4A [] = true) ∧
      (reservedZero c [(16, 17), (24, 35)] = true) ∧ (c.le 16 1 = 1) ∧ (c.le 17 1 ≤ 3) ∧ (d.signed = true) ∧
      ((∀ e ∈ s.sec.set_, e.id = BitVec.ofNat 64 c.objId)) ∧ (s.sec.moduleId ∈ d.modules) ∧
      (d.setId = BitVec.ofNat 64 c.objId) ∧ (d.modules.length ≤ 256)) ∧
    (∃ (c : Cmd) (d : AdmissionDoc) (e : DevSet) (s : State), (accepts s c 0x4A [] = true) ∧
      (reservedZero c [(16, 17), (24, 35)] = true) ∧ (c.le 16 1 = 1) ∧ (c.le 17 1 ≤ 3) ∧ (d.signed = true) ∧
      (s.sec.set_ = some e) ∧ (e.id ≠ BitVec.ofNat 64 c.objId)) ∧
    (∃ (c : Cmd) (d : AdmissionDoc) (s : State), (accepts s c 0x4A [] = true) ∧
      (reservedZero c [(16, 17), (24, 35)] = true) ∧ (d.signed = false) ∧ (c.le 17 1 ≤ 3) ∧ (c.le 16 1 = 0)) ∧
    (∃ (c : Cmd) (d : AdmissionDoc) (s : State), (accepts s c 0x4A [] = true) ∧
      (reservedZero c [(16, 17), (24, 35)] = true) ∧ (d.signed = false) ∧ (c.le 17 1 ≤ 3) ∧ (c.le 16 1 = 1)) ∧
    (∃ (c : Cmd) (s : State), (accepts s c 0x4A [] = true) ∧ (reservedZero c [(16, 17), (24, 35)] = true) ∧
      (c.le 16 1 = 2) ∧ ((∀ e ∈ s.sec.set_, e.id ≠ BitVec.ofNat 64 c.objId))) ∧
    (∃ (c : Cmd) (e : DevSet) (s : State), (accepts s c 0x4A [] = true) ∧ (reservedZero c [(16, 17), (24, 35)] = true) ∧
      (c.le 16 1 = 2) ∧ (s.sec.set_ = some e) ∧ (e.id = BitVec.ofNat 64 c.objId)) ∧
    (∃ (c : Cmd) (d : AdmissionDoc) (e : DevSet) (s : State), (accepts s c 0x4A [] = true) ∧
      (reservedZero c [(16, 17), (24, 35)] = true) ∧ (c.le 16 1 = 3) ∧ (s.sec.set_ = some e) ∧
      (e.id = BitVec.ofNat 64 c.objId) ∧ (d.signed = true) ∧ (d.ownerDigest = e.owner) ∧
      (s.sec.moduleId ∈ d.modules) ∧ (d.setId = e.id) ∧ (d.gen = e.gen + 1) ∧ (d.modules.length ≤ 256)) :=
  ⟨⟨pf 0x4A [(8, [9])], docOne 0, up, by decide +kernel⟩,
   ⟨pf 0x4A [(8, [9]), (16, [1, 3])], docOne 4, up, by decide +kernel⟩,
   ⟨pf 0x4A [(8, [9]), (16, [1])], docOne 4, { id := 8 }, upSec fun x => { x with set_ := some { id := 8 } },
    by decide +kernel⟩,
   ⟨pf 0x4A [(8, [9])], { docOne 4 with signed := false }, up, by decide +kernel⟩,
   ⟨pf 0x4A [(8, [9]), (16, [1])], { docOne 4 with signed := false }, up, by decide +kernel⟩,
   ⟨pf 0x4A [(8, [9]), (16, [2])], up, by decide +kernel⟩,
   ⟨pf 0x4A [(8, [9]), (16, [2])], { id := 9 }, upSec fun x => { x with set_ := some { id := 9 } }, by decide +kernel⟩,
   ⟨pf 0x4A [(8, [9]), (16, [3])], docOne 1, { id := 9 }, upSec fun x => { x with set_ := some { id := 9 } },
    by decide +kernel⟩⟩

theorem witness_JobsAndPrefixes :
    (∃ (c : Cmd) (g : Image) (s : State), (accepts s c 0x30 [] = true) ∧ (reservedZero c [(16, 33)] = true) ∧
      (s.image (Cmd.ownCtx c) (c.byte 16).toNat = some g) ∧ (imgRole g = 0) ∧ ((c.byte 17).toNat ≤ 7) ∧
      (c.byte 19 = 0 ∨ (c.byte 19).toNat ∈ [1, 3] ∧ s.pegUsable c.fn.val (c.byte 18).toNat = true) ∧ (1 ≤ c.le 20 4) ∧
      (c.le 20 4 ≤ 65535) ∧ (c.le 24 8 % 16 = 0) ∧ (c.le 32 2 = 0) ∧
      ((∀ j ∈ (s.ctx (Cmd.ownCtx c)).jobs, j.id ≠ c.objId))) ∧
    (∃ (c : Cmd) (j : Job) (s : State), (accepts s c 0x31 [] = true) ∧ (reservedZero c [] = true) ∧
      ((s.ctx (Cmd.ownCtx c)).jobs = [j]) ∧ (j.id = c.objId) ∧ (j.begun < j.steps) ∧ (j.committed < j.begun) ∧
      (j.aborting = false)) ∧
    (∃ (c : Cmd) (s : State), (accepts s c 0x31 [] = true) ∧ (reservedZero c [] = true) ∧
      ((∀ j ∈ (s.ctx (Cmd.ownCtx c)).jobs, j.id ≠ c.objId)) ∧
      ((∀ n, n < 8 → ∀ k ∈ (s.ring c.fn.val n).kept, k.bytes.getD 0 0 ≠ 0x30))) ∧
    (∃ (c : Cmd) (r : Req) (k : Nat) (s : State), (accepts s c 0x28 [] = true) ∧ (reservedZero c [(16, 27)] = true) ∧ (s.findReq (Cmd.ownCtx c) (c.le 16 8) = some r) ∧ (r.slot = some k) ∧ (c.le 24 4 ≠ 0) ∧ (c.le 24 4 ≤ r.lenDone) ∧ ((∀ p ∈ (s.ctx (Cmd.ownCtx c)).pins, p.id ≠ c.objId)) ∧ ((s.ctx (Cmd.ownCtx c)).pins.length < 256) ∧ (let list := (s.listNow (Cmd.ownCtx c) k).take (cdiv (c.le 24 4) 64); list.length = cdiv (c.le 24 4) 64) ∧ (let list := (s.listNow (Cmd.ownCtx c) k).take (cdiv (c.le 24 4) 64); (∀ e ∈ list, e.valid = true ∧
       (s.page e.page).refs + (s.ctx (Cmd.ownCtx c)).staged.adds.count e.page < 1023))) ∧
    (∃ (c : Cmd) (p : Pin) (s : State), (accepts s c 0x29 [] = true) ∧ (reservedZero c [] = true) ∧
      ((s.ctx (Cmd.ownCtx c)).pins.find? (fun q => q.id = c.objId) = some p)) ∧
    (∃ (c : Cmd) (s : State), (accepts s c 0x29 [] = true) ∧ (reservedZero c [] = true) ∧
      ((∀ p ∈ (s.ctx (Cmd.ownCtx c)).pins, p.id ≠ c.objId))) ∧
    (∃ (x : Nat) (k : Nat) (p : PatchSlot) (s : State), (s.ctl.owner.isSome = true) ∧ (s.ctl.gap = false) ∧
      (s.glb.state = .ready) ∧ (x < 16) ∧ ((∀ i, i < 16 → i ≠ x → (s.ctx i).st = .free)) ∧ ((s.ctx x).st = .ready) ∧
      ((s.ctx x).reqs = []) ∧ ((s.ctx x).steps = []) ∧ ((s.ctx x).next = none) ∧ ((s.ctx x).staged = {}) ∧
      ((s.ctx x).tbEnds = []) ∧ (s.kvp.dir = []) ∧ (s.arr.cur ≠ some x) ∧ (s.tsu.patches = [(k, p)]) ∧
      (p.st = .loading) ∧ (p.owner = x) ∧ ((s.sec.keys.get x).pendingGen = false) ∧ (s.host.inflight = [])) ∧
    (∃ (x : CtxId) (s : State), ((s.ctx x.val).st = .ready) ∧ ((s.ctx x.val).tbWait ≠ []) ∧
      ((s.ctx x.val).tbStall + 30 * secNs ≤ s.time)) :=
  ⟨⟨vf 0x30 [(8, [6]), (20, [0xFF, 0xFF])], imgOne, upCtx fun x => { x with images := [(0, some imgOne)] },
    by decide +kernel⟩,
   ⟨vf 0x31 [(8, [6])], { id := 6, steps := 3, begun := 2, committed := 1 },
    upCtx fun x => { x with jobs := [{ id := 6, steps := 3, begun := 2, committed := 1 }] }, by decide +kernel⟩,
   ⟨vf 0x31 [(8, [6])], up, by decide +kernel⟩,
   ⟨vf 0x28 [(8, [6]), (16, [5]), (24, [64])], { id := 5, st := .decode, slot := some 0, lenDone := 64 }, 0,
    (withReq { id := 5, st := .decode, slot := some 0, lenDone := 64 }).updCtx 0 fun x => { x with staged := { edits := [.install 0 [{ valid := true, page := 3 }]] } },
    by decide +kernel⟩,
   ⟨vf 0x29 [(8, [6])], { id := 6 }, upCtx fun x => { x with pins := [{ id := 6 }] }, by decide +kernel⟩,
   ⟨vf 0x29 [(8, [6])], up, by decide +kernel⟩,
   ⟨0, 511, { st := .loading, id := 9 }, upTsu fun u => { u with patches := [(511, { st := .loading, id := 9 })] },
    by decide +kernel⟩,
   ⟨0, upCtx fun x => { x with tbWait := [{}] }, by decide +kernel⟩⟩

theorem witness_VideoSessions :
    (∃ (c : Cmd) (s : State), (accepts s c 0x38 [] = true) ∧ ((c.byte 16).toNat ≤ 2) ∧ ((let k := (c.byte 16).toNat
     let v := vidCfgOf c k
     reservedZero c (if k = 2 then [(16, 25), (27, 48), (50, 57)] else [(16, 26), (27, 48), (50, 57)]) = true ∧ v.prio ≤ 7 ∧
     2 ≤ v.buffers ∧ v.buffers ≤ 1024 ∧ 64 ≤ v.width ∧ v.width ≤ 8192 ∧ 64 ≤ v.height ∧ v.height ≤ 4352 ∧ v.fmt ≤ 3 ∧
     (c.byte 25).toNat ≤ 3 ∧ (k = 1 → v.opPoint ≤ 31) ∧
     (k = 2 → 3 ≤ v.buffers ∧ v.width % 8 = 0 ∧ v.height % 8 = 0 ∧ ∀ r ∈ encRules c v, r.1 = false) ∧
     ((s.sessionsOf (Cmd.ownCtx c)).map fun k => (s.sess k).cfg.buffers).foldl (· + ·) 0 + v.buffers ≤ 1024 ∧
     (∃ n, n < (if k = 2 then 64 else 256) ∧ (s.sess (sessKey n (k == 2))).opened = false) ∧
     (s.pickPages (Cmd.ownCtx c) (cdiv (v.buffers * v.bufBytes) pageBytes)).isSome = true ∧ Tbl.wf s.mem.xlat = true ∧
     cdiv (v.buffers * v.bufBytes) pageBytes ≤ s.framesFree))) ∧
    (∃ (c : Cmd) (k : Nat) (s : State), (accepts s c 0x3A [] = true) ∧ (reservedZero c [(16, 16)] = true) ∧
      (s.namedSess (Cmd.ownCtx c) (c.byte 16).toNat = some k) ∧ ((s.sess k).st ≠ .closing) ∧ ((s.sess k).subs = []) ∧
      ((∀ i, i < (s.sess k).cfg.buffers → ((s.sess k).bufs.get i).jobRefs = 0 ∧ ((s.sess k).bufs.get i).piped = false)) ∧
      (s.sessPiped k = false)) ∧
    (∃ (c : Cmd) (k : Nat) (s : State), (accepts s c 0x3A [] = true) ∧ (reservedZero c [(16, 16)] = true) ∧
      (s.namedSess (Cmd.ownCtx c) (c.byte 16).toNat = some k) ∧ (s.sessPiped k = true)) ∧
    (∃ (c : Cmd) (s : State), (accepts s c 0x3A [] = true) ∧ (reservedZero c [(16, 16)] = true) ∧
      (s.namedSess (Cmd.ownCtx c) (c.byte 16).toNat = none)) ∧
    (∃ (c : Cmd) (k : Nat) (s : State), (accepts s c 0x3B [] = true) ∧ (reservedZero c [(16, 26), (27, 48), (50, 57)] = true) ∧ (s.namedSess (Cmd.ownCtx c) (c.byte 16).toNat = some k) ∧ (k < 256) ∧ ((let o := (s.sess k).cfg
     let v := vidCfgOf c o.kind
     v.prio ≤ 7 ∧ (c.byte 25).toNat ≤ 3 ∧ v = { o with prio := v.prio, hashCheck := v.hashCheck, ctu64 := v.ctu64 }))) ∧
    (∃ (c : Cmd) (k : Nat) (s : State), (accepts s c 0x3B [] = true) ∧ (reservedZero c [(16, 25), (27, 48), (50, 57)] = true) ∧ (s.namedSess (Cmd.ownCtx c) (c.byte 16).toNat = some k) ∧ (256 ≤ k) ∧ ((let o := (s.sess k).cfg
     let v := vidCfgOf c o.kind
     v.prio ≤ 7 ∧ (c.byte 25).toNat ≤ 3 ∧ v.buffers = o.buffers ∧ v.width = o.width ∧ v.height = o.height ∧ v.fmt = o.fmt ∧
       v.hashCheck = o.hashCheck ∧ v.ctu64 = o.ctu64 ∧ ∀ r ∈ encRules c v, r.1 = false))) :=
  ⟨⟨vf 0x38 [(16, [2, 7, 3, 0, 64, 0, 64, 0]), (30, [0, 51, 0, 0, 0, 1]), (40, [0xE8, 3]), (48, [255])], up,
    by decide +kernel⟩,
   ⟨vf 0x3A [], 0, upSess 0 {}, by decide +kernel⟩,
   ⟨vf 0x3A [(16, [255])], 255, running 0, by decide +kernel⟩,
   ⟨vf 0x3A [], up, by decide +kernel⟩,
   ⟨vf 0x3B [(17, [7, 2]), (25, [1]), (48, [255])], 0, upSess 0 { cfg := { buffers := 2 } }, by decide +kernel⟩,
   ⟨vf 0x3B [(16, [63, 7]), (30, [0, 51, 0, 0, 0, 1]), (40, [0xE8, 3]), (48, [255])], 319, upSess 319 {}, by decide +kernel⟩⟩

theorem witness_VideoSubmissions :
    (let good (s : State) (c : Cmd) : Prop :=
       accepts s c 0x39 [] = true ∧ reservedZero c subBytes = true ∧ (c.byte 18).toNat ≤ 31 ∧
       ((c.byte 18).getLsbD 0 = true → s.pegUsable c.fn.val (c.byte 19).toNat = true) ∧
       ((c.byte 18).getLsbD 1 = true ∨ (c.byte 18).getLsbD 2 = true → (c.byte 20).toNat ≤ 3)
    ∃ (c : Cmd) (k : Nat) (s : State), (good s c) ∧ ((c.byte 17).toNat = 0) ∧ (c.le 28 4 ≤ 2 ^ 25) ∧
      (s.subSess c false = some k) ∧ (s.queued k < 16)) ∧
    (let good (s : State) (c : Cmd) : Prop :=
       accepts s c 0x39 [] = true ∧ reservedZero c subBytes = true ∧ (c.byte 18).toNat ≤ 31 ∧
       ((c.byte 18).getLsbD 0 = true → s.pegUsable c.fn.val (c.byte 19).toNat = true) ∧
       ((c.byte 18).getLsbD 1 = true ∨ (c.byte 18).getLsbD 2 = true → (c.byte 20).toNat ≤ 3)
    ∃ (c : Cmd) (k : Nat) (s : State), (good s c) ∧ ((c.byte 17).toNat = 0) ∧ (c.le 28 4 ≤ 2 ^ 25) ∧
      (s.subSess c false = some k) ∧ (16 ≤ s.queued k)) ∧
    (let good (s : State) (c : Cmd) : Prop :=
       accepts s c 0x39 [] = true ∧ reservedZero c subBytes = true ∧ (c.byte 18).toNat ≤ 31 ∧
       ((c.byte 18).getLsbD 0 = true → s.pegUsable c.fn.val (c.byte 19).toNat = true) ∧
       ((c.byte 18).getLsbD 1 = true ∨ (c.byte 18).getLsbD 2 = true → (c.byte 20).toNat ≤ 3)
    ∃ (c : Cmd) (k : Nat) (s : State), (good s c) ∧ ((c.byte 17).toNat = 1) ∧ (s.subSess c true = some k) ∧ ((s.sess k).cfg.capBits ≤ 8 * c.le 28 4) ∧ ((c.byte 40).toNat ≤ 16) ∧ (s.handleOk (Cmd.ownCtx c) (c.le 44 4) = true) ∧ (s.queued k < 16) ∧ (let n := (c.byte 40).toNat; let roi := (upto n).map fun i => s.mem.bytesAt (ctxKey (Cmd.ownCtx c) (c.le 48 8 + 16 * i)) 16; n = 0 ∨ s.vaOk (Cmd.ownCtx c) (c.le 48 8) (16 * n) false = true ∧ (∀ e ∈ roi, roiOk (s.sess k).cfg e = true))) ∧
    (let good (s : State) (c : Cmd) : Prop :=
       accepts s c 0x39 [] = true ∧ reservedZero c subBytes = true ∧ (c.byte 18).toNat ≤ 31 ∧
       ((c.byte 18).getLsbD 0 = true → s.pegUsable c.fn.val (c.byte 19).toNat = true) ∧
       ((c.byte 18).getLsbD 1 = true ∨ (c.byte 18).getLsbD 2 = true → (c.byte 20).toNat ≤ 3)
    ∃ (c : Cmd) (h : BitVec 32) (s : State), (good s c) ∧ ((c.byte 17).toNat = 2) ∧ (c.le 28 4 = 1) ∧ ((c.le 32 8 < 2 ^ 63 ∨ s.vaOk (Cmd.ownCtx c) (c.le 32 8 % 2 ^ 63) 4 false = true)) ∧ (let n := if (c.le 32 8).testBit 63 then s.ctxLe (Cmd.ownCtx c) (c.le 32 8 % 2 ^ 63) 4 else h.toNat; s.handleOk (Cmd.ownCtx c) n = true) ∧ (let n := if (c.le 32 8).testBit 63 then s.ctxLe (Cmd.ownCtx c) (c.le 32 8 % 2 ^ 63) 4 else h.toNat; let b := (s.sess (handleSess n)).bufs.get (handleBuf n); 0 < b.hostRefs) ∧ ((s.namedSess (Cmd.ownCtx c) (c.byte 16).toNat).isSome = true)) ∧
    (let good (s : State) (c : Cmd) : Prop :=
       accepts s c 0x39 [] = true ∧ reservedZero c subBytes = true ∧ (c.byte 18).toNat ≤ 31 ∧
       ((c.byte 18).getLsbD 0 = true → s.pegUsable c.fn.val (c.byte 19).toNat = true) ∧
       ((c.byte 18).getLsbD 1 = true ∨ (c.byte 18).getLsbD 2 = true → (c.byte 20).toNat ≤ 3)
    ∃ (c : Cmd) (h : BitVec 32) (s : State), (good s c) ∧ ((c.byte 17).toNat = 2) ∧ (c.le 28 4 = 1) ∧ ((c.le 32 8 < 2 ^ 63 ∨ s.vaOk (Cmd.ownCtx c) (c.le 32 8 % 2 ^ 63) 4 false = true)) ∧ (let n := if (c.le 32 8).testBit 63 then s.ctxLe (Cmd.ownCtx c) (c.le 32 8 % 2 ^ 63) 4 else h.toNat; s.handleOk (Cmd.ownCtx c) n = true) ∧ (let n := if (c.le 32 8).testBit 63 then s.ctxLe (Cmd.ownCtx c) (c.le 32 8 % 2 ^ 63) 4 else h.toNat; let b := (s.sess (handleSess n)).bufs.get (handleBuf n); 0 < b.hostRefs) ∧ (s.namedSess (Cmd.ownCtx c) (c.byte 16).toNat = none)) ∧
    (let good (s : State) (c : Cmd) : Prop :=
       accepts s c 0x39 [] = true ∧ reservedZero c subBytes = true ∧ (c.byte 18).toNat ≤ 31 ∧
       ((c.byte 18).getLsbD 0 = true → s.pegUsable c.fn.val (c.byte 19).toNat = true) ∧
       ((c.byte 18).getLsbD 1 = true ∨ (c.byte 18).getLsbD 2 = true → (c.byte 20).toNat ≤ 3)
    ∃ (c : Cmd) (h : BitVec 32) (s : State), (good s c) ∧ ((c.byte 17).toNat = 2) ∧ (c.le 28 4 = 1) ∧ ((c.le 32 8 < 2 ^ 63 ∨ s.vaOk (Cmd.ownCtx c) (c.le 32 8 % 2 ^ 63) 4 false = true)) ∧ (let n := if (c.le 32 8).testBit 63 then s.ctxLe (Cmd.ownCtx c) (c.le 32 8 % 2 ^ 63) 4 else h.toNat; s.handleOk (Cmd.ownCtx c) n = true) ∧ (let n := if (c.le 32 8).testBit 63 then s.ctxLe (Cmd.ownCtx c) (c.le 32 8 % 2 ^ 63) 4 else h.toNat; let b := (s.sess (handleSess n)).bufs.get (handleBuf n); b.hostRefs = 0)) ∧
    (let good (s : State) (c : Cmd) : Prop :=
       accepts s c 0x39 [] = true ∧ reservedZero c subBytes = true ∧ (c.byte 18).toNat ≤ 31 ∧
       ((c.byte 18).getLsbD 0 = true → s.pegUsable c.fn.val (c.byte 19).toNat = true) ∧
       ((c.byte 18).getLsbD 1 = true ∨ (c.byte 18).getLsbD 2 = true → (c.byte 20).toNat ≤ 3)
    ∃ (c : Cmd) (k : Nat) (s : State), (good s c) ∧ ((c.byte 17).toNat = 3) ∧ (s.subSess c true = some k) ∧
      ((∃ i, i < (s.sess k).cfg.buffers ∧ ((s.sess k).bufs.get i).held = false))) ∧
    (let good (s : State) (c : Cmd) : Prop :=
       accepts s c 0x39 [] = true ∧ reservedZero c subBytes = true ∧ (c.byte 18).toNat ≤ 31 ∧
       ((c.byte 18).getLsbD 0 = true → s.pegUsable c.fn.val (c.byte 19).toNat = true) ∧
       ((c.byte 18).getLsbD 1 = true ∨ (c.byte 18).getLsbD 2 = true → (c.byte 20).toNat ≤ 3)
    ∃ (c : Cmd) (k : Nat) (h : VidSub) (s : State), (good s c) ∧ ((c.byte 17).toNat = 4) ∧ (s.subSess c false = some k) ∧
      ((s.sess k).subs.head? = some h) ∧ (h.kind ≠ 4 ∨ s.sessPiped k = true) ∧ (s.queued k < 16)) ∧
    (let good (s : State) (c : Cmd) : Prop :=
       accepts s c 0x39 [] = true ∧ reservedZero c subBytes = true ∧ (c.byte 18).toNat ≤ 31 ∧
       ((c.byte 18).getLsbD 0 = true → s.pegUsable c.fn.val (c.byte 19).toNat = true) ∧
       ((c.byte 18).getLsbD 1 = true ∨ (c.byte 18).getLsbD 2 = true → (c.byte 20).toNat ≤ 3)
    ∃ (c : Cmd) (k : Nat) (s : State), (good s c) ∧ ((c.byte 17).toNat = 4) ∧ (s.subSess c false = some k) ∧
      ((s.sess k).subs = []) ∧ (s.sessPiped k = false)) ∧
    (let good (s : State) (c : Cmd) : Prop :=
       accepts s c 0x39 [] = true ∧ reservedZero c subBytes = true ∧ (c.byte 18).toNat ≤ 31 ∧
       ((c.byte 18).getLsbD 0 = true → s.pegUsable c.fn.val (c.byte 19).toNat = true) ∧
       ((c.byte 18).getLsbD 1 = true ∨ (c.byte 18).getLsbD 2 = true → (c.byte 20).toNat ≤ 3)
    ∃ (c : Cmd) (s : State), (good s c) ∧ ((c.byte 17).toNat = 0) ∧ (c.le 28 4 ≤ 2 ^ 25) ∧ (s.subSess c false = none)) ∧
    (let good (s : State) (c : Cmd) : Prop :=
       accepts s c 0x39 [] = true ∧ reservedZero c subBytes = true ∧ (c.byte 18).toNat ≤ 31 ∧
       ((c.byte 18).getLsbD 0 = true → s.pegUsable c.fn.val (c.byte 19).toNat = true) ∧
       ((c.byte 18).getLsbD 1 = true ∨ (c.byte 18).getLsbD 2 = true → (c.byte 20).toNat ≤ 3)
    ∃ (c : Cmd) (s : State), (good s c) ∧ ((c.byte 17).toNat = 1) ∧ (s.subSess c true = none)) ∧
    (let good (s : State) (c : Cmd) : Prop :=
       accepts s c 0x39 [] = true ∧ reservedZero c subBytes = true ∧ (c.byte 18).toNat ≤ 31 ∧
       ((c.byte 18).getLsbD 0 = true → s.pegUsable c.fn.val (c.byte 19).toNat = true) ∧
       ((c.byte 18).getLsbD 1 = true ∨ (c.byte 18).getLsbD 2 = true → (c.byte 20).toNat ≤ 3)
    ∃ (c : Cmd) (s : State), (good s c) ∧ ((c.byte 17).toNat = 3) ∧ (s.subSess c true = none)) ∧
    (let good (s : State) (c : Cmd) : Prop :=
       accepts s c 0x39 [] = true ∧ reservedZero c subBytes = true ∧ (c.byte 18).toNat ≤ 31 ∧
       ((c.byte 18).getLsbD 0 = true → s.pegUsable c.fn.val (c.byte 19).toNat = true) ∧
       ((c.byte 18).getLsbD 1 = true ∨ (c.byte 18).getLsbD 2 = true → (c.byte 20).toNat ≤ 3)
    ∃ (c : Cmd) (s : State), (good s c) ∧ ((c.byte 17).toNat = 4) ∧ (s.subSess c false = none)) :=
  ⟨⟨vf 0x39 [(28, [0, 0, 0, 2])], 0, upSess 0 {}, by decide +kernel⟩,
   ⟨vf 0x39 [], 0, upSess 0 { subs := List.replicate 16 {} }, by decide +kernel⟩,
   ⟨vf 0x39 [(17, [1]), (44, [0])], 256,
    (upSess 0 { cfg := { buffers := 1 } }).updSess 256 fun _ => { opened := true, cfg := { buffers := 3 } },
    by decide +kernel⟩,
   ⟨vf 0x39 [(17, [2]), (28, [1])], 0, upSess 0 { cfg := { buffers := 1 }, bufs := [(0, { hostRefs := 1 })] },
    by decide +kernel⟩,
   ⟨vf 0x39 [(16, [9, 2]), (28, [1])], 0, upSess 0 { cfg := { buffers := 1 }, bufs := [(0, { hostRefs := 1 })] },
    by decide +kernel⟩,
   ⟨vf 0x39 [(17, [2]), (28, [1])], 0, upSess 0 { cfg := { buffers := 1 } }, by decide +kernel⟩,
   ⟨vf 0x39 [(16, [63, 3])], 319, upSess 319 { cfg := { buffers := 3 } }, by decide +kernel⟩,
   ⟨vf 0x39 [(17, [4])], 0, { kind := 0 }, upSess 0 { subs := [{}] }, by decide +kernel⟩,
   ⟨vf 0x39 [(17, [4])], 0, upSess 0 {}, by decide +kernel⟩,
   ⟨vf 0x39 [], up, by decide +kernel⟩,
   ⟨vf 0x39 [(17, [1])], up, by decide +kernel⟩,
   ⟨vf 0x39 [(17, [3])], up, by decide +kernel⟩,
   ⟨vf 0x39 [(17, [4])], up, by decide +kernel⟩⟩

theorem witness_Pictures :
    (∃ (a : PictureTaken) (s : State), (a.pipe.val < 2) ∧ (s.codecOn = true) ∧
      ((s.vid.pipes.get a.pipe.val).busy = false) ∧
      ((∃ k, k < 256 ∧ (s.pictureOf k).isSome = true ∧ (s.sess k).freeBufs ≠ []))) ∧
    (∃ (a : PictureTaken) (k : Nat) (s : State), (a.pipe.val < 2) ∧ (s.codecOn = true) ∧
      ((s.vid.pipes.get a.pipe.val).busy = false) ∧ (k < 256) ∧ ((s.sess k).st ≠ .closing) ∧
      ((s.pictureOf k).isSome = true) ∧ ((s.sess k).freeBufs ≠ []) ∧ ((∀ j, j < 256 → j ≠ k → s.pictureOf j = none))) ∧
    (∃ (a : PictureTaken) (k : Nat) (q : VidSub) (s : State), (a.pipe = 2) ∧ (s.codecOn = true) ∧
      ((s.vid.pipes.get 2).busy = false) ∧ (256 ≤ k) ∧ (k < 320) ∧ ((s.sess k).st ≠ .closing) ∧
      (s.pictureOf k = some q) ∧ (s.handleOk (s.sess k).ctx q.source = true) ∧
      ((∀ j, j < 320 → 256 ≤ j → j ≠ k → s.pictureOf j = none))) ∧
    (let kept (s : State) (k : Nat) (res : PicResult) : Prop :=
     (s.sess k).cfg.fits res = true ∧ (res.irap = true ∨ (s.sess k).discarding = false)
    ∃ (p : Fin 3) (k : Nat) (q : VidSub) (res : PicResult) (s : State), (p.val < 2) ∧
      ((s.vid.pipes.get p.val).busy = true) ∧ ((s.vid.pipes.get p.val).session = k) ∧ ((s.sess k).st = .running) ∧
      ((s.sess k).subs.head? = some q) ∧ (q.kind = 0) ∧ ((s.vid.pipes.get p.val).target < (s.sess k).cfg.buffers) ∧
      (res.decoded = true) ∧ (kept s k res) ∧ (res.outputs = []) ∧ (res.lastOfAu = false)) ∧
    (∃ (p : Fin 3) (k : Nat) (q : VidSub) (res : PicResult) (s : State), (p.val < 2) ∧
      ((s.vid.pipes.get p.val).busy = true) ∧ ((s.vid.pipes.get p.val).session = k) ∧ ((s.sess k).st = .running) ∧
      ((s.sess k).subs.head? = some q) ∧ ((∀ r ∈ (s.sess k).subs, r.kind = 0)) ∧ (res.outputs = []) ∧
      (res.lastOfAu = true)) ∧
    (let kept (s : State) (k : Nat) (res : PicResult) : Prop :=
     (s.sess k).cfg.fits res = true ∧ (res.irap = true ∨ (s.sess k).discarding = false)
    ∃ (p : Fin 3) (k : Nat) (q : VidSub) (res : PicResult) (s : State), (p.val < 2) ∧
      ((s.vid.pipes.get p.val).busy = true) ∧ ((s.vid.pipes.get p.val).session = k) ∧
      ((s.vid.pipes.get p.val).since + (s.vid.pipes.get p.val).limit ≤ s.time) ∧ ((s.sess k).st = .running) ∧
      ((s.sess k).subs.head? = some q) ∧ (q.kind = 0) ∧ ((s.vid.pipes.get p.val).target < (s.sess k).cfg.buffers) ∧
      (kept s k res) ∧ (res.outputs = []) ∧ (res.lastOfAu = false)) ∧
    (∃ (p : Fin 3) (s : State),
      ((s.vid.pipes.get p.val).busy = false ∨ s.time < (s.vid.pipes.get p.val).since + (s.vid.pipes.get p.val).limit)) ∧
    (∃ (k : Nat) (q : VidSub) (s : State), ((s.vid.pipes.get 2).busy = true) ∧ (k = 256 + (s.vid.pipes.get 2).session) ∧
      ((s.sess k).st = .running) ∧ ((s.sess k).subs.head? = some q)) ∧
    (∃ (q : VidSub) (data : List Byte) (s : State), ((s.vid.pipes.get 2).busy = true) ∧
      ((s.sess (256 + (s.vid.pipes.get 2).session)).subs.head? = some q) ∧
      ((s.vid.pipes.get 2).coded.slices[(s.vid.pipes.get 2).slices]? = some data)) ∧
    (∃ (bits : Nat) (last : Bool) (data : List Byte) (s : State), ((s.vid.pipes.get 2).nextSlice ≠ some (bits, last, data))) :=
  ⟨⟨{ pipe := 1, samples := 255, bins := 9 }, up.updSess 255 fun _ => sessOne, by decide +kernel⟩,
   ⟨{ pipe := 1, samples := 255, bins := 9 }, 255, up.updSess 255 fun _ => sessOne, by decide +kernel⟩,
   ⟨{ pipe := 2, samples := 255, bins := 9 }, 319, { kind := 1 },
    (up.updSess 319 fun _ => { sessOne with subs := [{ kind := 1 }] }).updSess 0 fun _ => sessOne, by decide +kernel⟩,
   ⟨0, 255, {}, { irap := true, lastOfAu := false }, running 0, by decide +kernel⟩,
   ⟨0, 255, {}, { irap := true }, running 0, by decide +kernel⟩,
   ⟨0, 255, {}, { irap := true, lastOfAu := false }, running 0, by decide +kernel⟩,
   ⟨2, up, by decide +kernel⟩,
   ⟨319, { kind := 1 }, encoding, by decide +kernel⟩,
   ⟨{ kind := 1 }, [1, 2],
    encoding.updVid fun v => { v with pipes := [(2, { busy := true, session := 63, enc := true, coded := { slices := [[1, 2]] } })] },
    by decide +kernel⟩,
   ⟨0, false, [], up, by decide +kernel⟩⟩

theorem witness_Interlock :
    (∃ (k : CoreAB) (s : State), (s.ctl.owner = some k)) ∧
    (∃ (k : CoreAB) (s : State), (s.ctl.owner ≠ some k) ∧ (s.board.powered = true)) ∧
    (∃ (k : CoreAB) (s : State), (s.ctl.owner = some k) ∧ ((s.ctlCore (coreOther k)).health = .standbyOk)) ∧
    (∃ (k : CoreAB) (s : State), (s.ctl.owner = some k) ∧ (s.stepRuns = true)) ∧
    (∃ (k : CoreAB) (s : State), (s.ctl.owner = some k) ∧ (s.stepRuns = false)) ∧
    (∃ (k : CoreAB) (s : State), (s.ctl.owner = some k) ∧ (s.board.powered = true) ∧ (s.glb.state ≠ .recovery) ∧
      (s.ctl.lastBeat + 5 * msNs ≤ s.time)) ∧
    (∃ (k : CoreAB) (inp : RestoreInput) (s : State), (s.ctl.gap = true) ∧ (s.ctl.successor = some k) ∧ (s.ctxs = []) ∧
      (s.glb.state = .ready) ∧ (s.glb.dozeEntering = false) ∧ (inp.storeOk = true)) ∧
    (∃ (k : CoreAB) (inp : RestoreInput) (s : State), (s.ctl.gap = true) ∧ (s.ctl.successor = some k) ∧
      (s.glb.state = .ready) ∧ (inp.storeOk = false) ∧ (inp.mirrorOk = false ∨ s.ctl.mirrorStep = none) ∧
      ((∀ i, i < 16 → (s.ctx i).st ≠ .resetting))) ∧
    (∃ (k : CoreAB) (s : State), (s.ctl.successor ≠ some k) ∧ (s.board.powered = true)) :=
  ⟨⟨.b, upCtl fun k => { k with owner := some .b }, by decide +kernel⟩,
   ⟨.b, up, by decide +kernel⟩,
   ⟨.a, standby, by decide +kernel⟩,
   ⟨.a, (upCtx fun x => { x with st := .running, steps := [{}] }).updArr fun a => { a with cur := some 0 },
    by decide +kernel⟩,
   ⟨.a, standby, by decide +kernel⟩,
   ⟨.a, up, by decide +kernel⟩,
   ⟨.b, {}, { (upCtl fun k => { k with owner := none, successor := some .b, gap := true }) with ctxs := [] },
    by decide +kernel⟩,
   ⟨.b, { storeOk := false, mirrorOk := false },
    { (upCtl fun k => { k with owner := none, successor := some .b, gap := true }) with ctxs := [(15, { st := .ready })] },
    by decide +kernel⟩,
   ⟨.b, up, by decide +kernel⟩⟩

theorem witness_GapAndStandby :
    (∃ (s : State), (s.ctl.gap = true) ∧ (s.ctl.secondGap = false) ∧ (s.ctl.gapSince + 40 * msNs ≤ s.time)) ∧
    (∃ (s : State), (s.ctl.gap = true) ∧ (s.ctl.secondGap = true) ∧ (s.ctl.gapSince + 80 * msNs ≤ s.time)) ∧
    (∃ (k : CoreAB) (s : State), (s.ctl.owner = some k) ∧ (s.ctl.gap = false) ∧
      ((s.ctlCore (coreOther k)).health = .booting) ∧ (s.ctl.phase ≠ .soakStandby)) ∧
    (∃ (k : CoreAB) (f : Fin 5) (s : State), (s.ctl.owner = some k) ∧ (s.ctl.gap = false) ∧ (f.val ≠ 0) ∧
      ((s.ctlCore (coreOther k)).health = .standbyFail) ∧ (s.ctl.phase ≠ .soakStandby)) ∧
    (∃ (k : CoreAB) (s : State), (s.ctl.owner = some k) ∧ (k ≠ s.ctl.preferred) ∧
      ((s.ctlCore s.ctl.preferred).health = .standbyOk) ∧ (s.ctl.takebackMin ≠ 0) ∧
      (s.ctl.takebackMin * 60 ≤ s.cleanS s.ctl.preferred) ∧ (s.ctl.phase ∈ [.none_, .rolledBack]) ∧
      (s.glb.state = .ready ∨ s.glb.state = .quiesced)) ∧
    (∃ (s : State), (s.ctl.owner.isSome = true) ∧ (s.ctl.gap = false) ∧ (4 ≤ s.glb.stage) ∧ (s.board.powered = true)) :=
  ⟨⟨upCtl fun k => { k with owner := none, gap := true }, by decide +kernel⟩,
   ⟨upCtl fun k => { k with owner := none, gap := true, secondGap := true }, by decide +kernel⟩,
   ⟨.a, upCtl fun k => { k with cores := [(1, { health := .booting })] }, by decide +kernel⟩,
   ⟨.a, 4, upCtl fun k => { k with cores := [(1, { health := .standbyFail, failCycles := 2 })] }, by decide +kernel⟩,
   ⟨.b, upCtl fun k => { k with owner := some .b, cores := [(0, { health := .standbyOk, cleanSince := some 0 })] },
    by decide +kernel⟩,
   ⟨up, by decide +kernel⟩⟩

theorem witness_FirmwareCommands :
    (∃ (c : Cmd) (s : State), (accepts s c 0x50 [] = true) ∧ (reservedZero c [(24, 35), (40, 49)] = true) ∧
      (c.le 32 4 ≤ 64 * 2 ^ 20) ∧ (c.le 48 2 = 0) ∧ (s.ctl.updating = false) ∧ (s.ctl.staging ≠ .pending) ∧
      ((∀ i ∈ s.host.inflight, i.wait ≠ .fwStage))) ∧
    (∃ (c : Cmd) (id : BitVec 128) (s : State), (accepts s c 0x50 [] = true) ∧
      (reservedZero c [(24, 35), (40, 49)] = true) ∧ (c.le 32 4 ≤ 64 * 2 ^ 20) ∧ (1 ≤ c.le 48 2) ∧ (c.le 48 2 ≤ 255) ∧
      (s.glb.state ≠ .recovery) ∧ (s.ctl.updating = false) ∧ (s.ctl.staging ≠ .pending) ∧
      ((∀ i ∈ s.host.inflight, i.wait ≠ .fwStage)) ∧ (s.sessionOf id = none)) ∧
    (∃ (c : Cmd) (id : BitVec 128) (s : State) (e : Nat), (accepts s c 0x50 [] = true) ∧
      (reservedZero c [(24, 35), (40, 49)] = true) ∧ (c.le 32 4 ≤ 64 * 2 ^ 20) ∧ (1 ≤ c.le 48 2) ∧ (c.le 48 2 ≤ 255) ∧
      (s.glb.state ≠ .recovery) ∧ (s.ctl.updating = false) ∧ (s.ctl.staging ≠ .pending) ∧
      ((∀ i ∈ s.host.inflight, i.wait ≠ .fwStage)) ∧ (s.sessionOf id = some e)) ∧
    (∃ (c : Cmd) (s : State), (accepts s c 0x51 [] = true) ∧ (reservedZero c [(16, 17)] = true) ∧ ((c.byte 17).toNat ≤ 1) ∧
      (s.ctl.staged = none ∨ s.ctl.staging ≠ .valid) ∧ ((c.byte 16).toNat = 0)) ∧
    (∃ (c : Cmd) (s : State), (accepts s c 0x51 [] = true) ∧ (reservedZero c [(16, 17)] = true) ∧ ((c.byte 17).toNat ≤ 1) ∧
      (s.ctl.staged = none ∨ s.ctl.staging ≠ .valid) ∧ ((c.byte 16).toNat = 1)) ∧
    (∃ (c : Cmd) (b : Bundle) (s : State), (accepts s c 0x51 [] = true) ∧ (reservedZero c [(16, 17)] = true) ∧
      ((c.byte 16).toNat = 1) ∧ ((c.byte 17).toNat ≤ 1) ∧ (s.ctl.staged = some b) ∧ (s.ctl.staging = .valid) ∧
      (s.ctl.updating = false) ∧ (b.svn.toNat < s.sec.svn.toNat)) ∧
    (∃ (c : Cmd) (b : Bundle) (k : CoreAB) (s : State), (accepts s c 0x51 [] = true) ∧ (reservedZero c [(16, 17)] = true) ∧
      ((c.byte 16).toNat = 0) ∧ ((c.byte 17).toNat ≤ 1) ∧ (s.ctl.staged = some b) ∧ (s.ctl.staging = .valid) ∧
      (s.ctl.updating = false) ∧ (s.ctl.owner = some k) ∧ ((s.ctlCore (coreOther k)).health = .standbyOk) ∧
      (s.ctl.formatsMeet b = true) ∧ (s.sec.svn.toNat ≤ b.svn.toNat)) ∧
    (∃ (c : Cmd) (b : Bundle) (s : State), (accepts s c 0x51 [] = true) ∧ (reservedZero c [(16, 17)] = true) ∧
      ((c.byte 16).toNat = 1) ∧ ((c.byte 17).toNat ≤ 1) ∧ (s.ctl.staged = some b) ∧ (s.ctl.staging = .valid) ∧
      (s.ctl.updating = false) ∧ (s.sec.svn.toNat ≤ b.svn.toNat)) ∧
    (∃ (c : Cmd) (k : CoreAB) (s : State), (accepts s c 0x52 [] = true) ∧ (reservedZero c [] = true) ∧
      (s.ctl.owner = some k)) :=
  ⟨⟨pf 0x50 [(32, [0, 0, 0, 4])], up, by decide +kernel⟩,
   ⟨pf 0x50 [(32, [0, 0, 0, 4]), (48, [2])], 7, up, by decide +kernel⟩,
   ⟨pf 0x50 [(32, [0, 0, 0, 4]), (48, [2])], 7, linked 255, 255, by decide +kernel⟩,
   ⟨pf 0x51 [], up, by decide +kernel⟩,
   ⟨pf 0x51 [(16, [1])], up, by decide +kernel⟩,
   ⟨pf 0x51 [(16, [1])], {},
    (upCtl fun k => { k with staged := some {}, staging := .valid }).updSec fun x => { x with svn := 1 },
    by decide +kernel⟩,
   ⟨pf 0x51 [(17, [1])], {}, .a, standby.updCtl fun k => { k with staged := some {}, staging := .valid }, by decide +kernel⟩,
   ⟨pf 0x51 [(16, [1])], {}, upCtl fun k => { k with staged := some {}, staging := .valid }, by decide +kernel⟩,
   ⟨pf 0x52 [], .a, up, by decide +kernel⟩⟩

theorem witness_UpdateAndRelay :
    (∃ (s : State), (s.ctl.phase = .soakStandby) ∧ (10 ≤ s.ctl.soakCycles) ∧ (s.ctl.owner.isSome = true)) ∧
    (∃ (k : CoreAB) (s : State), (s.ctl.phase = .soakStandby) ∧ (s.ctl.soakCycles < 10) ∧
      (s.ctl.phaseSince + 30 * secNs ≤ s.time) ∧ (s.ctl.owner = some k)) ∧
    (∃ (k : CoreAB) (b : Bundle) (s : State), (s.ctl.phase = .soakActive) ∧ (s.ctl.phaseSince + 600 * secNs ≤ s.time) ∧
      (s.ctl.owner = some k) ∧ (s.ctl.staged = some b)) ∧
    (∃ (due : Nat) (s : State), (s.ctl.recoveryAt = some due) ∧ (due ≤ s.time) ∧ (s.glb.state = .recovery)) ∧
    (∃ (e : Nat) (f : Frame) (s : State), (s.frameEntry f = some e) ∧ ((s.peer e).gen = f.sessGen) ∧
      ((s.peer e).encrypted = false) ∧ (s.glb.state = .ready) ∧ (s.lnk.open_ = false) ∧
      (0 < s.cons (cid 0x53 (lnkIdx e 3))) ∧ (s.ctl.updating = false) ∧ (s.ctl.staging = .empty) ∧
      ((∀ i ∈ s.host.inflight, i.wait ≠ .fwStage))) ∧
    (∃ (hop : Nat) (e : Nat) (s : State), ((∃ i ∈ s.host.inflight, i.wait = .fwStage)) ∧ (hop < s.ctl.chain) ∧
      (hop ∉ s.ctl.reported) ∧ (s.ctl.relayDown = some e) ∧
      ((s.mbx.boxes.get (20 + (s.peer e).port.val)).length < 4) ∧ (s.ctl.reported.length + 1 < s.ctl.chain)) ∧
    (∃ (s : State), ((∃ i ∈ s.host.inflight, i.wait = .fwStage)) ∧ (s.ctl.lastFrame + 60 * secNs ≤ s.time)) :=
  ⟨⟨upCtl fun k => { k with phase := .soakStandby, soakCycles := 10 }, by decide +kernel⟩,
   ⟨.a, upCtl fun k => { k with phase := .soakStandby, soakCycles := 9 }, by decide +kernel⟩,
   ⟨.a, {}, upCtl fun k => { k with phase := .soakActive, staged := some {} }, by decide +kernel⟩,
   ⟨0, (upIn .recovery).updCtl fun k => { k with recoveryAt := some 0 }, by decide +kernel⟩,
   ⟨255, frameOne, (linked 255).consAdd (cid 0x53 (lnkIdx 255 3)) 1, by decide +kernel⟩,
   ⟨1, 255,
    (upHost fun h => { h with inflight := [inflightOf .fwStage] }).updCtl fun k => { k with chain := 3, relayDown := some 255 },
    by decide +kernel⟩,
   ⟨(upHost fun h => { h with inflight := [inflightOf .fwStage] }).updCtl fun k => { k with chain := 2 }, by decide +kernel⟩⟩

theorem witness_LinkCommands :
    (∃ (c : Cmd) (s : State), (accepts s c 0x78 [] = true) ∧ ((c.byte 16).toNat = 0) ∧ (reservedZero c [(16, 18)] = true) ∧
      ((c.byte 17).toNat ≤ 1) ∧ (((c.byte 17).toNat = 0 → (c.byte 18).toNat ≤ 31)) ∧
      ((∀ p, p < 4 → (s.portAt p).st = .disabled))) ∧
    (∃ (c : Cmd) (s : State), (accepts s c 0x78 [] = true) ∧ ((c.byte 16).toNat = 1) ∧
      (reservedZero c [(16, 17), (24, 39)] = true) ∧ (s.lnk.open_ = false) ∧ ((c.byte 17).toNat ≤ 31)) ∧
    (∃ (c : Cmd) (s : State), (accepts s c 0x78 [] = true) ∧ ((c.byte 16).toNat = 0) ∧ (reservedZero c [(16, 18)] = true) ∧
      ((c.byte 17).toNat ≤ 1) ∧ (((c.byte 17).toNat = 0 → (c.byte 18).toNat ≤ 31)) ∧
      ((∃ p, p < 4 ∧ (s.portAt p).st ≠ .disabled))) ∧
    (∃ (c : Cmd) (s : State), (accepts s c 0x78 [] = true) ∧ ((c.byte 16).toNat = 1) ∧
      (reservedZero c [(16, 17), (24, 39)] = true) ∧ (s.lnk.open_ = true)) ∧
    (∃ (c : Cmd) (s : State), (accepts s c 0x78 [] = true) ∧ ((c.byte 16).toNat = 2) ∧ (reservedZero c [(16, 18)] = true) ∧
      ((c.byte 17).toNat ≤ 3) ∧ ((c.byte 18).toNat ≤ 3) ∧ ((c.byte 18).getLsbD 0 = true)) ∧
    (∃ (c : Cmd) (s : State), (accepts s c 0x78 [] = true) ∧ ((c.byte 16).toNat = 2) ∧ (reservedZero c [(16, 18)] = true) ∧
      ((c.byte 17).toNat ≤ 3) ∧ ((c.byte 18).toNat ≤ 3) ∧ ((c.byte 18).getLsbD 0 = false) ∧ (s.ctl.relayDown = none)) ∧
    (∃ (c : Cmd) (s : State), (accepts s c 0x78 [] = true) ∧ ((c.byte 16).toNat = 3) ∧
      (reservedZero c [(16, 16), (18, 19)] = true) ∧ (c.le 18 2 ≤ 255) ∧ (s.ctl.relayDown ≠ some (c.le 18 2))) ∧
    (∃ (c : Cmd) (s : State), (accepts s c 0x79 [] = true) ∧ ((c.byte 16).toNat = 0) ∧ (reservedZero c [(16, 17)] = true) ∧
      ((c.byte 17).toNat ≤ 3)) ∧
    (∃ (c : Cmd) (s : State), (accepts s c 0x79 [] = true) ∧ ((c.byte 16).toNat = 1) ∧
      (reservedZero c [(16, 16), (18, 19)] = true) ∧ (c.le 18 2 ≤ 255) ∧ ((s.peer (c.le 18 2)).st = .empty)) ∧
    (∃ (c : Cmd) (s : State), (accepts s c 0x79 [] = true) ∧ ((c.byte 16).toNat = 1) ∧
      (reservedZero c [(16, 16), (18, 19)] = true) ∧ (c.le 18 2 ≤ 255) ∧ ((s.peer (c.le 18 2)).st ≠ .empty)) :=
  ⟨⟨pf 0x78 [(18, [31])], up, by decide +kernel⟩,
   ⟨pf 0x78 [(16, [1, 31]), (24, [7])], up, by decide +kernel⟩,
   ⟨pf 0x78 [(18, [31])], portIn .retry, by decide +kernel⟩,
   ⟨pf 0x78 [(16, [1, 40])], upLnk fun l => { l with open_ := true }, by decide +kernel⟩,
   ⟨pf 0x78 [(16, [2, 3, 3])], up, by decide +kernel⟩,
   ⟨pf 0x78 [(16, [2, 3, 2])], portIn .up, by decide +kernel⟩,
   ⟨pf 0x78 [(16, [3]), (18, [255])], up.updPeer 255 fun p => { p with st := .down, id := 3 }, by decide +kernel⟩,
   ⟨pf 0x79 [(17, [3])], up, by decide +kernel⟩,
   ⟨pf 0x79 [(16, [1]), (18, [255])], up, by decide +kernel⟩,
   ⟨pf 0x79 [(16, [1]), (18, [255])], linked 255, by decide +kernel⟩⟩

theorem witness_PortStates :
    (∃ (s : State), (s.linksRun = true)) ∧
    (∃ (p : Fin 4) (s : State), (s.linksRun = true) ∧ ((s.portAt p.val).st = .train ∨ (s.portAt p.val).st = .cableInit)) ∧
    (∃ (p : Fin 4) (s : State), (s.linksRun = true) ∧ ((s.portAt p.val).st = .disabled ∨ (s.portAt p.val).st = .retry)) ∧
    (∃ (p : Fin 4) (s : State), ((s.portAt p.val).st = .cableInit)) ∧
    (∃ (p : Fin 4) (s : State), ((s.portAt p.val).st = .cableInit) ∧ ((s.portAt p.val).since + 200 * msNs ≤ s.time)) ∧
    (∃ (p : Fin 4) (s : State), ((s.portAt p.val).st = .train)) ∧
    (∃ (p : Fin 4) (s : State), ((s.portAt p.val).st = .train) ∧ ((s.portAt p.val).since + 500 * msNs ≤ s.time)) ∧
    (∃ (p : Fin 4) (s : State), ((s.portAt p.val).st = .retry) ∧
      ((s.portAt p.val).since + (s.portAt p.val).delay * secNs ≤ s.time)) ∧
    (∃ (p : Fin 4) (s : State), ((s.portAt p.val).st = .up) ∧ (s.ctl.relayDown = none) ∧ (s.linksRun = true)) ∧
    (∃ (p : Fin 4) (s : State), ((s.portAt p.val).st = .up) ∧ (s.ctl.relayDown = none)) ∧
    (∃ (p : Fin 4) (s : State), ((s.portAt p.val).st = .up)) :=
  ⟨⟨up, by decide +kernel⟩,
   ⟨3, portIn .train, by decide +kernel⟩,
   ⟨3, portIn .retry, by decide +kernel⟩,
   ⟨3, portIn .cableInit, by decide +kernel⟩,
   ⟨3, portIn .cableInit, by decide +kernel⟩,
   ⟨3, portIn .train, by decide +kernel⟩,
   ⟨3, portIn .train, by decide +kernel⟩,
   ⟨3, portIn .retry, by decide +kernel⟩,
   ⟨3, portIn .up, by decide +kernel⟩,
   ⟨3, portIn .up, by decide +kernel⟩,
   ⟨3, portIn .up, by decide +kernel⟩⟩

theorem witness_Sessions :
    (∃ (f : Frame) (h : Hello) (e : Nat) (s : State), ((s.portAt f.port.val).st = .up) ∧ (h.major = 1) ∧
      (s.glb.state = .ready) ∧ (s.lnk.open_ = true ∨ f.src < 32 ∧ f.peer ≠ 0 ∧ s.lnk.table.get f.src = f.peer) ∧
      (s.helloEntry f.peer = some e) ∧ ((s.peer e).st ≠ .up) ∧
      ((∀ d ∈ s.sec.set_, d.id ≠ h.setId ∨ d.gen ≠ h.setGen) ∨ h.minor = 0)) ∧
    (∃ (f : Frame) (h : Hello) (e : Nat) (d : DevSet) (s : State), ((s.portAt f.port.val).st = .up) ∧ (h.major = 1) ∧
      (s.glb.state = .ready) ∧ (s.lnk.open_ = true ∨ f.src < 32 ∧ f.peer ≠ 0 ∧ s.lnk.table.get f.src = f.peer) ∧
      (s.helloEntry f.peer = some e) ∧ ((s.peer e).st ≠ .up) ∧ (s.sec.set_ = some d) ∧ (d.id = h.setId) ∧
      (d.gen = h.setGen) ∧ (1 ≤ h.minor)) ∧
    (∃ (f : Frame) (h : Hello) (s : State), ((s.portAt f.port.val).st = .up) ∧ (h.major = 1) ∧ (s.glb.state = .ready) ∧
      (s.lnk.open_ = false) ∧ (32 ≤ f.src ∨ s.lnk.table.get f.src ≠ f.peer)) ∧
    (∃ (e : Fin 256) (s : State), ((s.peer e.val).st = .up) ∧ ((s.peer e.val).lastSent + 500 * usNs ≤ s.time)) ∧
    (∃ (e : Fin 256) (s : State), ((s.peer e.val).st = .up) ∧ ((s.peer e.val).missed < 9) ∧
      ((s.peer e.val).lastHeard + ((s.peer e.val).missed + 1) * msNs ≤ s.time)) ∧
    (∃ (e : Fin 256) (s : State), ((s.peer e.val).st = .up) ∧ ((s.peer e.val).missed = 9) ∧
      (s.ctl.relayDown ≠ some e.val) ∧ ((s.peer e.val).lastHeard + 10 * msNs ≤ s.time)) ∧
    (∃ (f : Frame) (e : Nat) (s : State), (s.frameEntry f = some e) ∧ ((s.peer e).gen = f.sessGen) ∧ (f.tagOk = true)) ∧
    (∃ (f : Frame) (e : Nat) (s : State), (s.frameEntry f = some e) ∧ ((s.peer e).gen = f.sessGen) ∧
      (s.ctl.relayDown ≠ some e) ∧ ((s.peer e).encrypted = true) ∧ (f.tagOk = false)) ∧
    (∃ (f : Frame) (e : Nat) (s : State), (s.frameEntry f = some e) ∧ ((s.peer e).gen = f.sessGen) ∧
      (s.ctl.relayDown ≠ some e)) :=
  ⟨⟨frameOne, {}, 0, (upLnk fun l => { l with open_ := true }).updPort 3 fun p => { p with st := .up }, by decide +kernel⟩,
   ⟨frameOne, {}, 0, {},
    ((upLnk fun l => { l with open_ := true }).updPort 3 fun p => { p with st := .up }).updSec fun x => { x with set_ := some {} },
    by decide +kernel⟩,
   ⟨{ frameOne with src := 32 }, {}, portIn .up, by decide +kernel⟩,
   ⟨255, linked 255, by decide +kernel⟩,
   ⟨255, (linked 255).updPeer 255 fun p => { p with missed := 8 }, by decide +kernel⟩,
   ⟨255, (linked 255).updPeer 255 fun p => { p with missed := 9 }, by decide +kernel⟩,
   ⟨frameOne, 255, linked 255, by decide +kernel⟩,
   ⟨{ frameOne with tagOk := false }, 255, (linked 255).updPeer 255 fun p => { p with encrypted := true }, by decide +kernel⟩,
   ⟨frameOne, 255, linked 255, by decide +kernel⟩⟩

theorem witness_LinkFrames :
    (∃ (f : Frame) (e : Nat) (s : State), (s.frameEntry f = some e) ∧ ((s.peer e).gen ≠ f.sessGen)) ∧
    (let arrives (s : State) (f : Frame) (e : Nat) (typ : Nat) : Prop :=
       s.frameEntry f = some e ∧ (s.peer e).gen = f.sessGen ∧ ((s.peer e).encrypted = true → f.tagOk = true) ∧
       s.carries e typ = true ∧ 0 < s.cons (cid 0x53 (lnkIdx e (frameVc typ)))
    ∃ (f : Frame) (e : Nat) (s : State), (arrives s f e 1) ∧ (s.staleGen e f = false) ∧ (s.arr.cur = none)) ∧
    (let arrives (s : State) (f : Frame) (e : Nat) (typ : Nat) : Prop :=
       s.frameEntry f = some e ∧ (s.peer e).gen = f.sessGen ∧ ((s.peer e).encrypted = true → f.tagOk = true) ∧
       s.carries e typ = true ∧ 0 < s.cons (cid 0x53 (lnkIdx e (frameVc typ)))
    ∃ (f : Frame) (e : Nat) (d : Nat) (r : StepRec) (s : State), (arrives s f e 1) ∧ (s.staleGen e f = false) ∧
      (s.arr.cur = some d) ∧ ((s.ctx d).steps.find? (fun q => q.fenced = false) = some r)) ∧
    (let arrives (s : State) (f : Frame) (e : Nat) (typ : Nat) : Prop :=
       s.frameEntry f = some e ∧ (s.peer e).gen = f.sessGen ∧ ((s.peer e).encrypted = true → f.tagOk = true) ∧
       s.carries e typ = true ∧ 0 < s.cons (cid 0x53 (lnkIdx e (frameVc typ)))
    ∃ (f : Frame) (e : Nat) (s : State), (arrives s f e 2) ∧ (s.staleGen e f = false)) ∧
    (let arrives (s : State) (f : Frame) (e : Nat) (typ : Nat) : Prop :=
       s.frameEntry f = some e ∧ (s.peer e).gen = f.sessGen ∧ ((s.peer e).encrypted = true → f.tagOk = true) ∧
       s.carries e typ = true ∧ 0 < s.cons (cid 0x53 (lnkIdx e (frameVc typ)))
    ∃ (f : Frame) (e : Nat) (s : State), (arrives s f e 3) ∧ (s.staleGen e f = false)) ∧
    (let arrives (s : State) (f : Frame) (e : Nat) (typ : Nat) : Prop :=
       s.frameEntry f = some e ∧ (s.peer e).gen = f.sessGen ∧ ((s.peer e).encrypted = true → f.tagOk = true) ∧
       s.carries e typ = true ∧ 0 < s.cons (cid 0x53 (lnkIdx e (frameVc typ)))
    ∃ (f : Frame) (e : Nat) (s : State), (arrives s f e 4) ∧ ((s.mbx.boxes.get (16 + f.port.val)).length < 4)) ∧
    (let arrives (s : State) (f : Frame) (e : Nat) (typ : Nat) : Prop :=
       s.frameEntry f = some e ∧ (s.peer e).gen = f.sessGen ∧ ((s.peer e).encrypted = true → f.tagOk = true) ∧
       s.carries e typ = true ∧ 0 < s.cons (cid 0x53 (lnkIdx e (frameVc typ)))
    ∃ (f : Frame) (e : Nat) (s : State), (arrives s f e 4) ∧ (4 ≤ (s.mbx.boxes.get (16 + f.port.val)).length) ∧
      (0 < s.cons (cid 0x50 (lnkIdx e 2)))) ∧
    (let arrives (s : State) (f : Frame) (e : Nat) (typ : Nat) : Prop :=
       s.frameEntry f = some e ∧ (s.peer e).gen = f.sessGen ∧ ((s.peer e).encrypted = true → f.tagOk = true) ∧
       s.carries e typ = true ∧ 0 < s.cons (cid 0x53 (lnkIdx e (frameVc typ)))
    ∃ (f : Frame) (e : Nat) (s : State), (arrives s f e 5)) ∧
    (∃ (f : Frame) (e : Nat) (s : State), (s.frameEntry f = some e) ∧ ((s.peer e).gen = f.sessGen) ∧
      (((s.peer e).encrypted = true → f.tagOk = true)) ∧ ((s.peer e).waiting = [])) :=
  ⟨⟨{ frameOne with sessGen := 1 }, 255, linked 255, by decide +kernel⟩,
   ⟨{ frameOne with ctx := 15, step := 4 }, 255, credited 0, by decide +kernel⟩,
   ⟨{ frameOne with ctx := 15, step := 4 }, 255, 0, { k := 5 },
    ((credited 0).updCtx 0 fun x => { x with st := .running, steps := [{ k := 5 }] }).updArr fun a => { a with cur := some 0 },
    by decide +kernel⟩,
   ⟨{ frameOne with ctx := 15, step := 4 }, 255, credited 1, by decide +kernel⟩,
   ⟨{ frameOne with ctx := 15, step := 4 }, 255, credited 1, by decide +kernel⟩,
   ⟨{ frameOne with payload := [1] }, 255, credited 2, by decide +kernel⟩,
   ⟨{ frameOne with payload := [1] }, 255,
    ((credited 2).consAdd (cid 0x50 (lnkIdx 255 2)) 1).updMbx fun b => { b with boxes := [(19, List.replicate 4 {})] },
    by decide +kernel⟩,
   ⟨frameOne, 255, credited 2, by decide +kernel⟩,
   ⟨{ frameOne with vc := 3 }, 255, linked 255, by decide +kernel⟩⟩

theorem witness_SegmentInstructions :
    (∃ (n : CoreId) (s : State), ∀ c, ¬ (s.segOf n.val = some c ∧ s.segAt c n.val = some .stepFence)) ∧
    (let runs (s : State) (n : CoreId) (c : Nat) (i : SInstr) : Prop := s.segOf n.val = some c ∧ s.segAt c n.val = some i
    ∃ (n : CoreId) (op : Nat) (c : Nat) (s : State), (runs s n c (.opBegin op))) ∧
    (let runs (s : State) (n : CoreId) (c : Nat) (i : SInstr) : Prop := s.segOf n.val = some c ∧ s.segAt c n.val = some i
    ∃ (n : CoreId) (q : Fin 4) (d : Desc) (c : Nat) (s : State), (runs s n c (.issue q d.off d.credits))) ∧
    (let runs (s : State) (n : CoreId) (c : Nat) (i : SInstr) : Prop := s.segOf n.val = some c ∧ s.segAt c n.val = some i
    ∃ (n : CoreId) (d : CoreId) (r : Fin 32) (k : Nat) (c : Nat) (s : State), (runs s n c (.creditSend d r k))) ∧
    (let runs (s : State) (n : CoreId) (c : Nat) (i : SInstr) : Prop := s.segOf n.val = some c ∧ s.segAt c n.val = some i
    ∃ (n : CoreId) (cyc : Nat) (c : Nat) (s : State), (runs s n c (.checkSlot cyc))) ∧
    (let runs (s : State) (n : CoreId) (c : Nat) (i : SInstr) : Prop := s.segOf n.val = some c ∧ s.segAt c n.val = some i
    ∃ (n : CoreId) (cyc : Nat) (c : Nat) (x : Tile) (p : StepRec) (q : StepRec) (r : List StepRec) (s : State),
      (runs s n c (.checkSlot cyc)) ∧ (cyc ≠ 0) ∧ ((s.ctx c).steps = p :: q :: r) ∧
      (p.unchecked.filter (fun u => u.core = buddyOf n.val) = [x]) ∧ (x.poisoned = false)) ∧
    (let runs (s : State) (n : CoreId) (c : Nat) (i : SInstr) : Prop := s.segOf n.val = some c ∧ s.segAt c n.val = some i
    ∃ (n : CoreId) (count : Nat) (target : Nat) (c : Nat) (s : State), (runs s n c (.loop count target))) ∧
    (let runs (s : State) (n : CoreId) (c : Nat) (i : SInstr) : Prop := s.segOf n.val = some c ∧ s.segAt c n.val = some i
    ∃ (n : CoreId) (op : Nat) (c : Nat) (s : State), (runs s n c (.opEnd op)) ∧
      ((∀ r, (s.ctx c).steps.getLast? = some r → (n.val, op) ∉ r.faultOps)) ∧
      (imgUrgent (s.runImage c) op = false ∨ s.arr.pauseAct = none ∧ s.arr.urgentTo = none)) ∧
    (let runs (s : State) (n : CoreId) (c : Nat) (i : SInstr) : Prop := s.segOf n.val = some c ∧ s.segAt c n.val = some i
    ∃ (n : CoreId) (op : Nat) (c : Nat) (m : Nat) (s : State), (runs s n c (.opEnd op)) ∧
      ((∀ r, (s.ctx c).steps.getLast? = some r → (n.val, op) ∉ r.faultOps)) ∧ (imgUrgent (s.runImage c) op = true) ∧
      (s.arr.pauseAct.isSome = true) ∧ (m < 64) ∧ (m ≠ n.val) ∧ ((s.core m).paused = false) ∧
      ((s.core m).atFence = false)) ∧
    (let runs (s : State) (n : CoreId) (c : Nat) (i : SInstr) : Prop := s.segOf n.val = some c ∧ s.segAt c n.val = some i
    ∃ (n : CoreId) (op : Nat) (c : Nat) (r : StepRec) (s : State), (runs s n c (.opEnd op)) ∧
      ((s.ctx c).steps.getLast? = some r) ∧ ((n.val, op) ∈ r.faultOps) ∧ (c < 16)) :=
  ⟨⟨63, up, fun c h => nomatch h.1⟩,
   ⟨63, 9, 0, segWith [{ k := 5 }] (.opBegin 9) (blk 32 [(0, [9]), (4, [2])]), by decide +kernel⟩,
   ⟨63, 3, { credits := [31], off := 5 }, 0, seg (.issue 3 5 [31]), by decide +kernel⟩,
   ⟨63, 0, 31, 0xFFFF, 0, seg (.creditSend 0 31 0xFFFF), by decide +kernel⟩,
   ⟨63, 9, 0, seg (.checkSlot 9), by decide +kernel⟩,
   ⟨63, 9, 0, { core := 62 }, { k := 3, fenced := true, unchecked := [{ core := 62 }] }, { k := 4 }, [],
    segWith [{ k := 3, fenced := true, unchecked := [{ core := 62 }] }, { k := 4 }] (.checkSlot 9) [], by decide +kernel⟩,
   ⟨63, 2, 0, 0, seg (.loop 2 0), by decide +kernel⟩,
   ⟨63, 9, 0, seg (.opEnd 9), by decide +kernel⟩,
   ⟨63, 9, 0, 62,
    (segWith [{ k := 5 }] (.opEnd 9) (blk 32 [(0, [9]), (7, [0x40])])).updArr fun a => { a with pauseAct := some .rinseSram },
    by decide +kernel⟩,
   ⟨63, 9, 0, { faultOps := [(63, 9)] }, segWith [{ faultOps := [(63, 9)] }] (.opEnd 9) [], by decide +kernel⟩⟩

theorem witness_SegmentWaits :
    (let runs (s : State) (n : CoreId) (c : Nat) (i : SInstr) : Prop := s.segOf n.val = some c ∧ s.segAt c n.val = some i
    ∃ (n : CoreId) (r : Fin 32) (k : Nat) (c : Nat) (s : State), (runs s n c (.creditWait r k))) ∧
    (∃ (n : CoreId) (s : State), ((s.core n.val).sstate = .waitCredit) ∧ (s.arr.cur.isSome = true) ∧ (let reg := creditKey n.val (s.core n.val).waitOn; (s.core n.val).waitCount ≤ s.arr.credits.get reg)) ∧
    (∃ (n : CoreId) (s : State), ((s.core n.val).sstate = .waitCredit) ∧ (s.arr.cur.isSome = true) ∧ (let reg := creditKey n.val (s.core n.val).waitOn; s.arr.credits.get reg < (s.core n.val).waitCount)) ∧
    (let runs (s : State) (n : CoreId) (c : Nat) (i : SInstr) : Prop := s.segOf n.val = some c ∧ s.segAt c n.val = some i
    ∃ (n : CoreId) (ch : Fin 4) (k : Nat) (c : Nat) (s : State), (runs s n c (.waitDma ch k))) ∧
    (∃ (n : CoreId) (s : State), ((s.core n.val).sstate = .waitDma) ∧ (s.arr.cur.isSome = true) ∧ (let at_ := (s.chan (4 * n.val + (s.core n.val).waitOn)).progress; (s.core n.val).waitCount ≤ at_)) ∧
    (∃ (n : CoreId) (s : State), ((s.core n.val).sstate = .waitDma) ∧ (s.arr.cur.isSome = true) ∧ (let at_ := (s.chan (4 * n.val + (s.core n.val).waitOn)).progress; at_ < (s.core n.val).waitCount)) ∧
    (let runs (s : State) (n : CoreId) (c : Nat) (i : SInstr) : Prop := s.segOf n.val = some c ∧ s.segAt c n.val = some i
    ∃ (n : CoreId) (press : Bool) (c : Nat) (s : State), (runs s n c (.modeFence press))) ∧
    (∃ (press : Bool) (s : State), (s.fenceTarget = some press)) ∧
    (∃ (s : State), (s.fenceTarget = none)) ∧
    (let runs (s : State) (n : CoreId) (c : Nat) (i : SInstr) : Prop := s.segOf n.val = some c ∧ s.segAt c n.val = some i
    ∃ (n : CoreId) (c : Nat) (s : State), (runs s n c .stepFence) ∧
      (s.arr.pauseAct = none ∧ s.arr.urgentTo = none ∨ (∀ m, m < 64 → (s.core m).paused = false))) :=
  ⟨⟨63, 31, 1, 0, seg (.creditWait 31 1), by decide +kernel⟩,
   ⟨63, stepping.updCore 63 fun k => { k with sstate := .waitCredit, waitOn := 31, waitCount := 0 }, by decide +kernel⟩,
   ⟨63, stepping.updCore 63 fun k => { k with sstate := .waitCredit, waitOn := 31, waitCount := 1 }, by decide +kernel⟩,
   ⟨63, 3, 1, 0, seg (.waitDma 3 1), by decide +kernel⟩,
   ⟨63, stepping.updCore 63 fun k => { k with sstate := .waitDma, waitOn := 3 }, by decide +kernel⟩,
   ⟨63, stepping.updCore 63 fun k => { k with sstate := .waitDma, waitOn := 3, waitCount := 1 }, by decide +kernel⟩,
   ⟨63, true, 0, seg (.modeFence true), by decide +kernel⟩,
   ⟨false, atFence false, by decide +kernel⟩,
   ⟨up, by decide +kernel⟩,
   ⟨63, 0, seg .stepFence, by decide +kernel⟩⟩

theorem witness_StepEvents :
    (∃ (x : CtxId) (r : StepRec) (g : Image) (s : State), (s.mayStep = true) ∧ (s.mayHold x.val = true) ∧
      (s.arr.cur = some x.val) ∧ ((s.ctx x.val).unsettled = false) ∧ ((s.ctx x.val).midStep = false) ∧
      ((s.ctx x.val).next = some r) ∧ (s.image x.val r.handle = some g) ∧
      ((∃ w ∈ (s.ctx x.val).weights, w.id = imgWeightsId g))) ∧
    (∃ (x : CtxId) (r : StepRec) (s : State), (s.arr.cur = some x.val) ∧ ((s.ctx x.val).steps = [r]) ∧ (r.fenced = false) ∧
      (r.poisoned = false) ∧ ((s.ctx x.val).leaving = false) ∧ (s.atStepFence x.val = true) ∧ (s.badHandoffs = []) ∧
      (s.ctl.gap = true)) ∧
    (∃ (x : CtxId) (r : StepRec) (s : State), ((s.ctx x.val).steps.getLast? = some r) ∧ (r.fenced = false) ∧
      ((s.ctx x.val).leaving = false) ∧ (s.atStepFence x.val = false)) ∧
    (∃ (x : CtxId) (s : State), (s.arr.cur = some x.val) ∧ ((s.ctx x.val).running = true) ∧
      ((s.ctx x.val).steps.length = 1) ∧ ((s.ctx x.val).stepStart + (s.actx x.val).wdogUs * usNs ≤ s.time)) ∧
    (∃ (x : CtxId) (s : State),
      (s.arr.cur ≠ some x.val ∨ (s.ctx x.val).running = false ∨ s.time < (s.ctx x.val).stepStart + (s.actx x.val).wdogUs * usNs)) ∧
    (∃ (act : WashAct) (c : Nat) (s : State), (act ≠ .phyCal ∨ s.phySlots = false) ∧
      (s.mem.washAt.get (washNo act) + washMax act ≤ s.time) ∧ (s.ctl.owner.isSome = true) ∧ (s.arr.cur = some c) ∧
      ((s.ctx c).running = true) ∧ (s.arr.pauseAct = none)) ∧
    (∃ (act : WashAct) (c : Nat) (since : Nat) (s : State), (s.arr.cur = some c) ∧ (s.arr.pauseAct = some act) ∧
      (s.arr.pauseSince = some since) ∧ (s.arr.urgentTo = none)) :=
  ⟨⟨0, { k := 5 }, imgOne,
    (upCtx fun x => { x with next := some { k := 5 }, images := [(0, some imgOne)], weights := [{ id := 0 }] }).updArr fun a => { a with cur := some 0 },
    by decide +kernel⟩,
   ⟨0, { k := 5 },
    ((upCoreSteps [{ k := 5 }]).updArr fun a => { a with cores := (upto 64).map fun n => (n, { atFence := true }) }).updCtl fun k => { k with gap := true },
    by decide +kernel⟩,
   ⟨0, { k := 5 }, upCoreSteps [{ k := 5 }], by decide +kernel⟩,
   ⟨0, upCoreSteps [{ k := 5 }], by decide +kernel⟩,
   ⟨0, up, by decide +kernel⟩,
   ⟨.rinseSram, 0, upCoreSteps [{ k := 5 }], by decide +kernel⟩,
   ⟨.rinseSram, 0, 5,
    (upCoreSteps [{ k := 5 }]).updArr fun a => { a with pauseAct := some .rinseSram, pauseSince := some 5 },
    by decide +kernel⟩⟩

theorem witness_UnitOperations :
    (let may (s : State) (n : CoreId) (c : Nat) (d : Desc) : Prop :=
     s.arr.cur = some c ∧ (s.ctx c).running = true ∧ d.credits.Nodup ∧
     (∀ r ∈ d.credits, 1 ≤ s.arr.credits.get (creditKey n.val r.val)) ∧ d.collide = [] ∧ d.ecc = [] ∧ d.tiles = [] ∧ d.residueBad = false ∧
     (s.core 0).modeFence = none ∧ s.arr.pauseAct = none ∧ s.arr.urgentTo = none
    ∃ (n : CoreId) (c : Nat) (op : Nat) (d : Desc) (rest : List Desc) (s : State), (may s n c d) ∧
      ((s.core n.val).queues.get 3 = d :: rest) ∧ (d.work = .dpp op) ∧ (s.dpp.queue.length < 4)) ∧
    (let may (s : State) (n : CoreId) (c : Nat) (d : Desc) : Prop :=
     s.arr.cur = some c ∧ (s.ctx c).running = true ∧ d.credits.Nodup ∧
     (∀ r ∈ d.credits, 1 ≤ s.arr.credits.get (creditKey n.val r.val)) ∧ d.collide = [] ∧ d.ecc = [] ∧ d.tiles = [] ∧ d.residueBad = false ∧
     (s.core 0).modeFence = none ∧ s.arr.pauseAct = none ∧ s.arr.urgentTo = none
    ∃ (n : CoreId) (c : Nat) (op : Nat) (d : Desc) (rest : List Desc) (s : State), (may s n c d) ∧
      ((s.core n.val).queues.get 3 = d :: rest) ∧ (d.work = .tsu op) ∧ (s.tsu.queue.length < 4)) ∧
    (let may (s : State) (n : CoreId) (c : Nat) (d : Desc) : Prop :=
     s.arr.cur = some c ∧ (s.ctx c).running = true ∧ d.credits.Nodup ∧
     (∀ r ∈ d.credits, 1 ≤ s.arr.credits.get (creditKey n.val r.val)) ∧ d.collide = [] ∧ d.ecc = [] ∧ d.tiles = [] ∧ d.residueBad = false ∧
     (s.core 0).modeFence = none ∧ s.arr.pauseAct = none ∧ s.arr.urgentTo = none
    ∃ (n : CoreId) (q : Fin 4) (c : Nat) (op : Nat) (k : Nat) (b : MatRef) (d : Desc) (rest : List Desc) (s : State),
      (may s n c d) ∧ ((s.core n.val).queues.get q.val = d :: rest) ∧ (d.work = .load op b k) ∧
      ((s.core n.val).shadow = none) ∧ (s.workFault c n.val d.work = none)) ∧
    (∃ (n : CoreId) (q : Fin 4) (d : Desc) (rest : List Desc) (s : State), ((s.core n.val).queues.get q.val = d :: rest) ∧
      ((∃ r ∈ d.credits, s.arr.credits.get (creditKey n.val r.val) < 1))) ∧
    (∃ (o : DppOp) (rest : List DppOp) (s : State), (s.dpp.queue = o :: rest) ∧ (s.dpp.busy = false)) ∧
    (∃ (o : DppOp) (rest : List DppOp) (r : StepRec) (s : State), (s.dpp.queue = o :: rest) ∧ (s.ctl.gap = true) ∧
      ((s.ctx o.ctx).steps.getLast? = some r)) ∧
    (∃ (o : DppOp) (rest : List DppOp) (s : State), (s.dpp.queue = o :: rest) ∧ (s.dpp.busy = true) ∧
      (s.dppFault o s.dpp.image = none) ∧ (s.dppOpen (dppRead o.desc) = true) ∧
      (s.dpp.image + 1 < (dppRead o.desc).images)) ∧
    (∃ (o : DppOp) (rest : List DppOp) (s : State), (s.dpp.queue = o :: rest) ∧ (s.dpp.busy = true) ∧ (s.dppFault o s.dpp.image = none) ∧ (s.dppOpen (dppRead o.desc) = true) ∧ ((dppRead o.desc).images ≤ s.dpp.image + 1) ∧ (let key := creditKey (dppRead o.desc).core (dppRead o.desc).reg; s.arr.credits.get key < 0xFFFF)) ∧
    (∃ (o : TsuOp) (rest : List TsuOp) (s : State), (s.tsu.queue = o :: rest) ∧ (s.tsu.busy = false) ∧ (s.tsuLeft o ≠ [])) ∧
    (∃ (o : TsuOp) (rest : List TsuOp) (r : StepRec) (s : State), (s.tsu.queue = o :: rest) ∧ (s.ctl.gap = true) ∧
      ((s.ctx o.ctx).steps.getLast? = some r)) ∧
    (∃ (o : TsuOp) (rest : List TsuOp) (lane : Fin 16) (i : Nat) (j : Nat) (s : State), (s.tsu.queue = o :: rest) ∧ (s.tsu.busy = true) ∧ (s.tsu.lanes.getLsbD lane.val = true) ∧ ((i, j) ∈ s.tsuLeft o) ∧ (s.tsuFault o i = none) ∧ (let p := { o with done := o.done ++ [(i, j)] }; let mid := s.tsuPosition o i j; mid.tsuLeft p ≠ [])) :=
  ⟨⟨63, 0, 9, { work := .dpp 9, credits := [31] }, [],
    (stepping.updCore 63 fun k => { k with queues := [(3, [{ work := .dpp 9, credits := [31] }])] }).updArr fun a => { a with credits := [(creditKey 63 31, 1)] },
    by decide +kernel⟩,
   ⟨63, 0, 9, { work := .tsu 9, credits := [31] }, [],
    (stepping.updCore 63 fun k => { k with queues := [(3, [{ work := .tsu 9, credits := [31] }])] }).updArr fun a => { a with credits := [(creditKey 63 31, 1)] },
    by decide +kernel⟩,
   ⟨63, 0, 0, 9, 128, { fmt := 11, rows := 8 }, { work := .load 9 { fmt := 11, rows := 8 } 128 }, [],
    stepping.updCore 63 fun k => { k with queues := [(0, [{ work := .load 9 { fmt := 11, rows := 8 } 128 }])] },
    by decide +kernel⟩,
   ⟨63, 3, { credits := [31] }, [], stepping.updCore 63 fun k => { k with queues := [(3, [{ credits := [31] }])] },
    by decide +kernel⟩,
   ⟨{ op := 9 }, [], upDpp fun d => { d with queue := [{ op := 9 }] }, by decide +kernel⟩,
   ⟨{ op := 9 }, [], { k := 5 },
    ((upCoreSteps [{ k := 5 }]).updDpp fun d => { d with queue := [{ op := 9 }] }).updCtl fun k => { k with gap := true },
    by decide +kernel⟩,
   ⟨dppTwo, [], dppUp 0, by decide +kernel⟩,
   ⟨dppTwo, [], dppUp 1, by decide +kernel⟩,
   ⟨tsuOne, [], tsuUp false, by decide +kernel⟩,
   ⟨tsuOne, [], { entries := [{ req := 5, slot := 0, drafts := 1 }] }, (tsuUp false).updCtl fun k => { k with gap := true },
    by decide +kernel⟩,
   ⟨tsuOne, [], 0, 0, 0, tsuUp true, by decide +kernel⟩⟩

theorem witness_ChannelInstructions :
    (let row (u : State) (ch : Fin 272) (ins : List Byte) (w : MoveMeets) : Prop :=
     lb ins 0 1 = 1 ∧ lb ins 3 1 = 0x40 ∧ mvRows ins = 1 ∧ (u.chan ch.val).offset = 0 ∧ (u.chan ch.val).st = .run ∧
     portFive ch.val w.lost = [] ∧ w.ecc = []
    ∃ (ch : Fin 272) (ins : List Byte) (w : MoveMeets) (s : State) (u : State), (s.takeUp ch.val ins = some u) ∧
      (row u ch ins w) ∧ (mvFill ins = true) ∧ (u.moveStop (u.chan ch.val) ins 0 = none)) ∧
    (let row (u : State) (ch : Fin 272) (ins : List Byte) (w : MoveMeets) : Prop :=
     lb ins 0 1 = 1 ∧ lb ins 3 1 = 0x40 ∧ mvRows ins = 1 ∧ (u.chan ch.val).offset = 0 ∧ (u.chan ch.val).st = .run ∧
     portFive ch.val w.lost = [] ∧ w.ecc = []
    ∃ (ch : Fin 272) (ins : List Byte) (w : MoveMeets) (s : State) (u : State), (s.takeUp ch.val ins = some u) ∧
      (row u ch ins w) ∧ (mvFill ins = false) ∧ (lb ins 2 1 = 0x40) ∧ (u.moveStop (u.chan ch.val) ins 0 = none) ∧
      (mvSrc (u.chan ch.val) ins 0 + mvLen ins ≤ mvDst (u.chan ch.val) ins 0)) ∧
    (let row (u : State) (ch : Fin 272) (ins : List Byte) (w : MoveMeets) : Prop :=
     lb ins 0 1 = 1 ∧ lb ins 3 1 = 0x40 ∧ mvRows ins = 1 ∧ (u.chan ch.val).offset = 0 ∧ (u.chan ch.val).st = .run ∧
     portFive ch.val w.lost = [] ∧ w.ecc = []
    ∃ (ch : Fin 272) (ins : List Byte) (w : MoveMeets) (m : MoveStop) (s : State) (u : State),
      (s.takeUp ch.val ins = some u) ∧ (row u ch ins w) ∧ (mvFill ins = true) ∧
      (u.moveStop (u.chan ch.val) ins 0 = some m)) ∧
    (∃ (ch : Fin 272) (ins : List Byte) (s : State), (s.takeUp ch.val ins = none)) ∧
    (∃ (ch : Fin 272) (m : OutMove) (r : List OutMove) (s : State), ((s.chan ch.val).out = m :: r)) ∧
    (∃ (ch : Fin 272) (ins : List Byte) (s : State) (u : State), (s.takeUp ch.val ins = some u) ∧ (lb ins 0 1 = 2) ∧
      ((u.chan ch.val).st = .run)) ∧
    (let ready (s : State) (ch : Fin 272) : Prop :=
     s.dmaLive = true ∧ 256 ≤ ch.val ∧ (s.chan ch.val).owned = false ∧ ((s.chan ch.val).st = .idle ∨ (s.chan ch.val).st = .done)
    ∃ (ch : Fin 272) (ins : List Byte) (s : State), (ready s ch) ∧ (lb ins 0 1 = 3) ∧ (lb ins 1 1 = 3)) ∧
    (∃ (ch : Fin 272) (s : State), (s.dmaLive = true) ∧ ((s.chan ch.val).st = .wait) ∧ ((s.chan ch.val).waitKind = 3) ∧
      ((s.chan ch.val).waitCount ≤ s.dma.events.get (s.chan ch.val).waitObj)) ∧
    (∃ (ch : Fin 272) (s : State),
      (s.dmaLive = false ∨ (s.chan ch.val).st ≠ .wait ∨ (s.chan ch.val).waitKind = 3 ∧ s.dma.events.get (s.chan ch.val).waitObj < (s.chan ch.val).waitCount)) ∧
    (let ready (s : State) (ch : Fin 272) : Prop :=
     s.dmaLive = true ∧ 256 ≤ ch.val ∧ (s.chan ch.val).owned = false ∧ ((s.chan ch.val).st = .idle ∨ (s.chan ch.val).st = .done)
    ∃ (ch : Fin 272) (ins : List Byte) (s : State), (ready s ch) ∧ (lb ins 0 1 = 4) ∧ (lb ins 1 1 = 2)) :=
  ⟨⟨271, mvInside, {}, up, took up 271 mvInside, by decide +kernel⟩,
   ⟨271, mvCopy, {}, upMem fun m => m.put (basketKey 3) 7, took (upMem fun m => m.put (basketKey 3) 7) 271 mvCopy,
    by decide +kernel⟩,
   ⟨271, mvBeyond, {}, ((took up 271 mvBeyond).moveStop ((took up 271 mvBeyond).chan 271) mvBeyond 0).getD default, up,
    took up 271 mvBeyond, by decide +kernel⟩,
   ⟨255, mvInside, up, by decide +kernel⟩,
   ⟨271, { tags := 1 }, [], chanWith { st := .run, out := [{ tags := 1 }], progress := 0xFFFF }, by decide +kernel⟩,
   ⟨271, blk 32 [(0, [2, 0]), (4, [3]), (8, [7])], up, took up 271 (blk 32 [(0, [2, 0]), (4, [3]), (8, [7])]),
    by decide +kernel⟩,
   ⟨271, blk 32 [(0, [3, 3]), (4, [63]), (8, [1])], up, by decide +kernel⟩,
   ⟨271, chanWith { st := .wait, waitKind := 3, waitObj := 63 }, by decide +kernel⟩,
   ⟨271, up, by decide +kernel⟩,
   ⟨271, blk 32 [(0, [4, 2]), (4, [63]), (8, [1])], up, by decide +kernel⟩⟩

theorem witness_FaultsAndRinse :
    (∃ (ch : Fin 272) (m : OutMove) (r : List OutMove) (s : State), ((s.chan ch.val).out = m :: r)) ∧
    (∃ (ch : Fin 272) (s : State), ((∃ o ∈ (s.chan ch.val).out, o.since + 2 * usNs ≤ s.time))) ∧
    (∃ (tag : Nat) (e : Nat) (s : State), ((tag, e) ∈ s.mem.quarantine)) ∧
    (∃ (tag : Nat) (s : State), ((∀ q ∈ s.mem.quarantine, q.1 ≠ tag))) ∧
    (∃ (ch : Fin 272) (s : State), (s.dmaLive = true) ∧
      ((s.chan ch.val).st = .run ∨ (s.chan ch.val).st = .wait ∧ (s.chan ch.val).waitKind ≠ 2) ∧
      ((s.chan ch.val).lastAt + s.dma.timeoutMs * msNs ≤ s.time)) ∧
    (∃ (k : CoreAB) (ch : Fin 272) (s : State), (s.ctl.owner = some k) ∧ (s.dmaLive = true) ∧
      ((s.chan ch.val).st = .halted)) ∧
    (∃ (k : CoreAB) (ch : Fin 272) (s : State), (s.ctl.owner = some k) ∧ (s.dmaLive = true) ∧
      ((s.chan ch.val).st ≠ .halted)) ∧
    (∃ (k : CoreAB) (s : State), (s.ctl.owner ≠ some k) ∧ (s.board.powered = true)) ∧
    (∃ (x : CtxId) (n : CoreId) (s : State), (s.controlRuns = true) ∧ (s.arr.cur = some x.val) ∧ ((s.core n.val).stalled = true) ∧ ((s.mem.faults.get x.val).valid = true) ∧ (let f := s.mem.faults.get x.val; let cause := s.vaCause x.val (f.va / pageBytes) f.write; cause = some 1) ∧ (s.framesFree ≠ 0)) ∧
    (∃ (x : CtxId) (n : CoreId) (s : State), (s.controlRuns = true) ∧ (s.arr.cur = some x.val) ∧ ((s.core n.val).stalled = true) ∧ ((s.mem.faults.get x.val).valid = true) ∧ (let f := s.mem.faults.get x.val; let cause := s.vaCause x.val (f.va / pageBytes) f.write; cause = none)) ∧
    (∃ (x : CtxId) (n : CoreId) (s : State), (s.controlRuns = true) ∧ (s.arr.cur = some x.val) ∧ ((s.core n.val).stalled = true) ∧ ((s.mem.faults.get x.val).valid = true) ∧ (let f := s.mem.faults.get x.val; let cause := s.vaCause x.val (f.va / pageBytes) f.write; cause = some 0 ∨ cause = some 2 ∨ cause = some 3)) ∧
    (∃ (x : CtxId) (ch : Fin 272) (s : State), (s.controlRuns = true) ∧ ((let k := s.chan ch.val
      k.st = .halted ∧ k.cls = .mmuFault ∧ k.ctx = x.val ∧ k.errSpace = 0x41)) ∧ (let c := x.val; let v := (s.chan ch.val).errAddr / pageBytes; let cause := s.vaCause c v (s.chan ch.val).errWrite; cause = some 1) ∧ (s.framesFree ≠ 0)) ∧
    (∃ (x : CtxId) (ch : Fin 272) (s : State), (s.controlRuns = true) ∧ ((let k := s.chan ch.val
      k.st = .halted ∧ k.cls = .mmuFault ∧ k.ctx = x.val ∧ k.errSpace = 0x41)) ∧ (let c := x.val; let v := (s.chan ch.val).errAddr / pageBytes; let cause := s.vaCause c v (s.chan ch.val).errWrite; cause = none)) ∧
    (∃ (x : CtxId) (ch : Fin 272) (s : State), (s.controlRuns = true) ∧ ((let k := s.chan ch.val
      k.st = .halted ∧ k.cls = .mmuFault ∧ k.ctx = x.val ∧ k.errSpace = 0x41)) ∧ (let c := x.val; let v := (s.chan ch.val).errAddr / pageBytes; let cause := s.vaCause c v (s.chan ch.val).errWrite; cause = some 0 ∨ cause = some 2 ∨ cause = some 3 ∨ cause = some 1 ∧ s.framesFree = 0)) ∧
    (let may (s : State) (kind : Fin 4) (addr : Nat) : Prop :=
        s.mem.rinseOn = true ∧ s.glb.state ≠ .doze ∧ kindHas kind.val (addr / 256 * 256) = true ∧
        s.washOpen kind.val (addr / 256 * 256) = true
    ∃ (kind : Fin 4) (addr : Nat) (s : State), (¬ may s kind addr)) ∧
    (let may (s : State) (kind : Fin 4) (addr : Nat) : Prop :=
        s.mem.rinseOn = true ∧ s.glb.state ≠ .doze ∧ kindHas kind.val (addr / 256 * 256) = true ∧
        s.washOpen kind.val (addr / 256 * 256) = true
    ∃ (kind : Fin 4) (addr : Nat) (hits : List EccHit) (s : State), (may s kind addr) ∧ ((∀ h ∈ hits, h = .clean))) ∧
    (let may (s : State) (kind : Fin 4) (addr : Nat) : Prop :=
        s.mem.rinseOn = true ∧ s.glb.state ≠ .doze ∧ kindHas kind.val (addr / 256 * 256) = true ∧
        s.washOpen kind.val (addr / 256 * 256) = true
    ∃ (kind : Fin 4) (addr : Nat) (s : State), (may s kind addr)) ∧
    (let may (s : State) (kind : Fin 4) (addr : Nat) : Prop :=
        s.mem.rinseOn = true ∧ s.glb.state ≠ .doze ∧ kindHas kind.val (addr / 256 * 256) = true ∧
        s.washOpen kind.val (addr / 256 * 256) = true
    ∃ (kind : Fin 4) (addr : Nat) (s : State), (may s kind addr) ∧ (kind.val ≠ 0)) :=
  ⟨⟨271, { index := 2 }, [], chanWith { st := .run, out := [{ index := 2 }] }, by decide +kernel⟩,
   ⟨271, chanWith { st := .run, out := [{ index := 2 }] }, by decide +kernel⟩,
   ⟨5, 9, upMem fun m => { m with quarantine := [(5, 9)] }, by decide +kernel⟩,
   ⟨5, up, by decide +kernel⟩,
   ⟨271, chanWith { st := .run }, by decide +kernel⟩,
   ⟨.a, 271, chanWith { st := .halted, cls := .bus }, by decide +kernel⟩,
   ⟨.a, 271, up, by decide +kernel⟩,
   ⟨.b, up, by decide +kernel⟩,
   ⟨0, 63, stalledOn { onDemand := true, read := true }, by decide +kernel⟩,
   ⟨0, 63, stalledOn { valid := true, read := true }, by decide +kernel⟩,
   ⟨0, 63, stalledOn {}, by decide +kernel⟩,
   ⟨0, 271,
    (chanWith { st := .halted, cls := .mmuFault, errSpace := 0x41 }).updMem fun m => { m with xlat := [(0, { onDemand := true, read := true })] },
    by decide +kernel⟩,
   ⟨0, 271,
    (chanWith { st := .halted, cls := .mmuFault, errSpace := 0x41 }).updMem fun m => { m with xlat := [(0, { valid := true, read := true })] },
    by decide +kernel⟩,
   ⟨0, 271, (chanWith { st := .halted, cls := .mmuFault, errSpace := 0x41 }).updMem fun m => { m with xlat := [(0, {})] },
    by decide +kernel⟩,
   ⟨0, 256, up, by decide +kernel⟩,
   ⟨0, 255, [.clean], upMem fun m => { m with rinseOn := true }, by decide +kernel⟩,
   ⟨3, 0x004201FFFF00, upMem fun m => { m with rinseOn := true }, by decide +kernel⟩,
   ⟨2, 0x004000000000, upMem fun m => { m with rinseOn := true }, by decide +kernel⟩⟩

end Sys2Proof.Tests
end

/-!
Accounts (09, R221-R225): how one movement of budget changes its account and nothing else, what ACCOUNT_SET, ACCOUNT_QUERY
and the refill make of an account, and from these the settlement of O36.
-/

namespace Sys2Proof

section
variable {α : Type} [Inhabited α] [DecidableEq α]

/-! ### Tables as lists of entries -/

theorem Tbl.le_of_mem_wfFrom {t : Tbl α} {lo : Nat} (w : Tbl.wfFrom lo t = true) : ∀ e ∈ t, lo ≤ e.1 := by
  induction t generalizing lo with
  | nil => simp
  | cons e r ih =>
    obtain ⟨j, v⟩ := e
    simp only [Tbl.wfFrom, Bool.and_eq_true, decide_eq_true_eq] at w
    obtain ⟨⟨hlo, -⟩, hr⟩ := w
    intro e he
    rcases List.mem_cons.1 he with rfl | he
    · exact hlo
    · have := ih hr e he
      omega

/-- The indices of a canonical table are distinct, so each listed entry is the one its index reads. -/
theorem Tbl.nodup_of_wfFrom {t : Tbl α} {lo : Nat} (w : Tbl.wfFrom lo t = true) : (t.map Prod.fst).Nodup := by
  induction t generalizing lo with
  | nil => exact List.nodup_nil
  | cons e r ih =>
    obtain ⟨j, v⟩ := e
    simp only [Tbl.wfFrom, Bool.and_eq_true] at w
    refine List.nodup_cons.2 ⟨fun hj => ?_, ih w.2⟩
    obtain ⟨e, he, hej⟩ := List.mem_map.1 hj
    have := Tbl.le_of_mem_wfFrom w.2 e he
    omega

omit [DecidableEq α] in
theorem Tbl.get_of_mem {t : Tbl α} (hd : (t.map Prod.fst).Nodup) : ∀ e ∈ t, t.get e.1 = e.2 := by
  induction t with
  | nil => simp
  | cons d r ih =>
    obtain ⟨j, v⟩ := d
    obtain ⟨hj, hr⟩ := List.nodup_cons.1 hd
    intro e he
    rcases List.mem_cons.1 he with rfl | he
    · simp [Tbl.get]
    · have hne : j ≠ e.1 := fun h => hj (List.mem_map.2 ⟨e, he, h.symm⟩)
      simp [Tbl.get, hne, ih hr e he]

omit [DecidableEq α] in
theorem Tbl.get_of_not_mem {t : Tbl α} {k : Nat} (hk : k ∉ t.map Prod.fst) : t.get k = default := by
  induction t with
  | nil => rfl
  | cons d r ih =>
    obtain ⟨j, v⟩ := d
    simp only [List.map_cons, List.mem_cons, not_or] at hk
    simp [Tbl.get, Ne.symm hk.1, ih hk.2]

end

theorem KeepsBut.refl (l : List Block) (s : Machine.State) : KeepsBut l s s := ⟨rfl, fun b _ => by cases b <;> rfl⟩

end Sys2Proof

namespace Sys2Proof.Machine

/-! ### One movement of budget -/

/-- From `s` to `t` only account `a` of context `x` and conservation counters have changed. -/
structure AcctMoved (x a : Nat) (s t : State) : Prop where
  ctx_same : t.ctx x = { s.ctx x with accounts := (t.ctx x).accounts }
  ctx_ne : ∀ i, i ≠ x → t.ctx i = s.ctx i
  acct_ne : ∀ b, b ≠ a → t.acct x b = s.acct x b
  keeps : KeepsBut [.ctxs, .tel] s t
  tel : t.tel = { s.tel with cons := t.tel.cons }

theorem AcctMoved.refl (x a : Nat) (s : State) : AcctMoved x a s s :=
  ⟨rfl, fun _ _ => rfl, fun _ _ => rfl, KeepsBut.refl _ s, rfl⟩

theorem AcctMoved.trans {x a : Nat} {s t u : State} (h : AcctMoved x a s t) (k : AcctMoved x a t u) : AcctMoved x a s u where
  ctx_same := by rw [k.ctx_same, h.ctx_same]
  ctx_ne i hi := (k.ctx_ne i hi).trans (h.ctx_ne i hi)
  acct_ne b hb := (k.acct_ne b hb).trans (h.acct_ne b hb)
  keeps := h.keeps.trans k.keeps
  tel := by rw [k.tel, h.tel]

@[simp] theorem State.consAdd_ctx (s : State) (id n i : Nat) : (s.consAdd id n).ctx i = s.ctx i := rfl
@[simp] theorem State.consAdd_acct (s : State) (id n x a : Nat) : (s.consAdd id n).acct x a = s.acct x a := rfl

@[simp] theorem State.updAcct_acct_same (s : State) (x a : Nat) (f : Account → Account) :
    (s.updAcct x a f).acct x a = f (s.acct x a) := by
  simp [State.acct, State.updAcct]

theorem State.updAcct_moved (s : State) (x a : Nat) (f : Account → Account) : AcctMoved x a s (s.updAcct x a f) where
  ctx_same := by simp [State.updAcct]
  ctx_ne _ hi := State.updCtx_ctx_ne s x _ _ hi
  acct_ne b hb := by simp [State.acct, State.updAcct, Tbl.get_upd_ne _ f hb]
  keeps := ⟨rfl, fun b hb => by cases b <;> simp_all [Block.same, State.updAcct]⟩
  tel := rfl

theorem State.consAdd_moved (s : State) (x a id n : Nat) : AcctMoved x a s (s.consAdd id n) where
  ctx_same := rfl
  ctx_ne _ _ := rfl
  acct_ne _ _ := rfl
  keeps := ⟨rfl, fun b hb => by cases b <;> simp_all [Block.same]⟩
  tel := rfl

theorem State.updAcct_consAdd_moved (s : State) (x a id n : Nat) (f : Account → Account) :
    AcctMoved x a s ((s.updAcct x a f).consAdd id n) :=
  (s.updAcct_moved x a f).trans (State.consAdd_moved _ x a id n)

theorem State.accTrim_moved (s : State) (x a : Nat) : AcctMoved x a s (s.accTrim x a) := by
  unfold State.accTrim
  dsimp only
  split
  · exact s.updAcct_consAdd_moved x a _ _ _
  · exact AcctMoved.refl x a s

theorem State.accTrim_acct_same (s : State) (x a : Nat) :
    (s.accTrim x a).acct x a = { s.acct x a with level := min (s.acct x a).level (s.acct x a).depth } := by
  unfold State.accTrim
  dsimp only
  split
  case isTrue h => simp [Nat.min_eq_right (Nat.le_of_lt h)]
  case isFalse h => rw [Nat.min_eq_left (Nat.le_of_not_lt h)]

theorem State.accGrant_moved (s : State) (x a n : Nat) : AcctMoved x a s (s.accGrant x a n) :=
  s.updAcct_consAdd_moved x a _ _ _

theorem State.accGrant_acct_same (s : State) (x a n : Nat) (h : (s.acct x a).level ≤ (s.acct x a).depth) :
    (s.accGrant x a n).acct x a =
      { s.acct x a with level := min (s.acct x a).depth ((s.acct x a).level + n) } := by
  have hl : (s.acct x a).level + min n ((s.acct x a).depth - (s.acct x a).level) =
      min (s.acct x a).depth ((s.acct x a).level + n) := by omega
  simp [State.accGrant, hl]

/-! ### The frame of a movement -/

section
variable {x a : Nat} {s t : State} (h : AcctMoved x a s t)
include h

theorem AcctMoved.host : t.host = s.host := h.keeps.2 .host (by decide)

theorem AcctMoved.glb : t.glb = s.glb := h.keeps.2 .glb (by decide)

theorem AcctMoved.reqs (i : Nat) : (t.ctx i).reqs = (s.ctx i).reqs := by
  by_cases hi : i = x
  · subst hi; rw [h.ctx_same]
  · rw [h.ctx_ne i hi]

theorem AcctMoved.mayAdmit : t.mayAdmit x = s.mayAdmit x := by
  have hst : (t.ctx x).st = (s.ctx x).st := by rw [h.ctx_same]
  simp only [State.mayAdmit, h.glb, hst]

theorem AcctMoved.quiet (c : Cmd) : Quiet c s t := by
  refine ⟨⟨fun g _ => ?_, ?_, fun g m _ => ?_, ?_, .inl ?_, ?_, ?_⟩, ?_⟩ <;>
    simp only [State.func, State.ring, h.host]
  rw [h.tel]

end

/-- Nothing is admitted where nothing may be, or no request is tracked (09, R229). -/
theorem State.admission_idle {s : State} {x : Nat} (h : s.mayAdmit x = false ∨ (s.ctx x).reqs = []) : s.admission x = s := by
  unfold State.admission
  rcases h with h | h
  · simp [h]
  · simp [h, sortBy, admitList]

/-! ### ACCOUNT_SET -/

/-- The level ACCOUNT_SET carries (09, R223). -/
def State.setLevel (s : State) (x a level : Nat) : State :=
  if (s.acct x a).level ≤ level then s.accGrant x a (level - (s.acct x a).level)
  else (s.updAcct x a fun y => { y with level }).consAdd (cid 0x02 (accIdx x a)) ((s.acct x a).level - level)

theorem State.setLevel_moved (s : State) (x a level : Nat) : AcctMoved x a s (s.setLevel x a level) := by
  unfold State.setLevel
  split
  · exact s.accGrant_moved x a _
  · exact s.updAcct_consAdd_moved x a _ _ _

theorem State.setLevel_acct_same (s : State) (x a level : Nat) (h : level ≤ (s.acct x a).depth) :
    (s.setLevel x a level).acct x a = { s.acct x a with level } := by
  unfold State.setLevel
  split
  case isTrue hn =>
    have hl : min (s.acct x a).depth ((s.acct x a).level + (level - (s.acct x a).level)) = level := by omega
    rw [s.accGrant_acct_same x a _ (Nat.le_trans hn h), hl]
  case isFalse => simp

/-- The terms ACCOUNT_SET gives an account (09, R221). -/
def Account.withTerms (y : Account) (c : Cmd) : Account :=
  { y with
    known := true, enable := (c.byte 18).toNat.testBit 0, noQueue := (c.byte 18).toNat.testBit 1
    inCost := c.le 20 2, outCost := c.le 22 2, rate := c.le 24 4, depth := c.le 32 8 }

/-- The accounts after ACCOUNT_SET, before admission runs again. -/
def State.setAccount (s : State) (c : Cmd) : State :=
  let x := Cmd.ownCtx c
  let a := c.le 16 2
  let t := (s.updAcct x a fun y => y.withTerms c).accTrim x a
  if !(c.byte 18).toNat.testBit 2 then t else t.setLevel x a (c.le 40 8)

theorem State.setAccount_moved (s : State) (c : Cmd) :
    AcctMoved (Cmd.ownCtx c) (c.le 16 2) s (s.setAccount c) := by
  have ht := (s.updAcct_moved (Cmd.ownCtx c) (c.le 16 2) fun y => y.withTerms c).trans (State.accTrim_moved _ _ _)
  unfold State.setAccount
  dsimp only
  split
  · exact ht
  · exact ht.trans (State.setLevel_moved _ _ _ _)

theorem State.setAccount_acct_same (s : State) (c : Cmd) (h : (c.byte 18).toNat.testBit 2 = true → c.le 40 8 ≤ c.le 32 8) :
    (s.setAccount c).acct (Cmd.ownCtx c) (c.le 16 2) =
      { (s.acct (Cmd.ownCtx c) (c.le 16 2)).withTerms c with
        level := if (c.byte 18).toNat.testBit 2 then c.le 40 8
          else min (s.acct (Cmd.ownCtx c) (c.le 16 2)).level (c.le 32 8) } := by
  have ht := (s.updAcct (Cmd.ownCtx c) (c.le 16 2) fun y => y.withTerms c).accTrim_acct_same (Cmd.ownCtx c) (c.le 16 2)
  rw [State.updAcct_acct_same] at ht
  unfold State.setAccount
  dsimp only
  cases hf : (c.byte 18).toNat.testBit 2 with
  | false => simpa [Account.withTerms] using ht
  | true =>
    rw [Bool.not_true, if_neg (by decide), State.setLevel_acct_same _ _ _ _ (by rw [ht]; exact h hf), ht]
    rfl

theorem execAccountSet_eq (c : Cmd) (s : State) : execAccountSet c s = .next (s.row c 0x24 [] fun s =>
    params s c [(16, 18), (20, 27), (32, 47)]
      [(decide (1023 < c.le 16 2), 16), (decide (7 < (c.byte 18).toNat), 18), (c.le 22 2 == 0, 22),
       (c.le 32 8 == 0 || decide (2 ^ 48 < c.le 32 8), 32),
       ((c.byte 18).toNat.testBit 2 && decide (c.le 32 8 < c.le 40 8), 40)] <|
    .reply ((s.setAccount c).admission (Cmd.ownCtx c)) (.of stOk)) := rfl

/-! ### A row answered at once -/

/-- What a row leaves when its chapter answers at once with a status other than BUSY_RETRY: the completion, the contexts as
the chapter left them, and the frame. -/
theorem State.row_replies {more : List Block} {s : State} {c : Cmd} {op : Nat} {feats : List Nat} {body : State → Verdict}
    {t : State} {r : Reply} (h : accepts s c op feats = true) (hb : body (s.fetched c) = .reply t r) (hr : r.status ≠ stBusy)
    (hk : KeepsBut (more ++ cmdBlocks) (s.fetched c) t) (hh : t.host = (s.fetched c).host) (hq : Quiet c (s.fetched c) t) :
    Answered (s.row c op feats body) c r ∧ (s.row c op feats body).ctxs = t.ctxs ∧ Serves more c s (s.row c op feats body) := by
  have hrow : s.row c op feats body = State.conclude c (.reply t r) := by rw [State.row_runs body h, hb]
  have hfin : s.row c op feats body = t.finish c.fn.val c.ring.val c.seq t.time c.noIrq r := by
    rw [hrow, State.conclude, State.withWait_of_ne t r hr]
  have hc : ∀ b ∈ cmdBlocks, b ∈ more ++ cmdBlocks := fun b hb => List.mem_append_right _ hb
  refine ⟨?_, by rw [hfin, State.finish_ctxs], ?_, ?_⟩
  · rw [hrow]
    refine State.conclude_answered t c r hr ?_
    simpa only [State.ring, hh] using State.fetched_head s c
  · rw [hfin]
    exact (((fetched_keeps c s).mono hc).trans hk).trans ((finish_keeps t _ _ _ _ _ r).mono hc)
  · rw [hrow]
    exact (conclude_reply_quiet r ((quiet_fetched c s).trans hq)).1

/-- A row that answers at once and changes nothing more. -/
theorem State.row_reports {s : State} {c : Cmd} {op : Nat} {feats : List Nat} {body : State → Verdict} {r : Reply}
    (h : accepts s c op feats = true) (hb : body (s.fetched c) = .reply (s.fetched c) r) (hr : r.status ≠ stBusy) :
    Answered (s.row c op feats body) c r ∧ Serves [] c s (s.row c op feats body) :=
  have hrep := State.row_replies (more := []) h hb hr (KeepsBut.refl _ _) rfl (Quiet.refl c _)
  ⟨hrep.1, hrep.2.2⟩

@[simp] theorem State.fetched_ctx (s : State) (c : Cmd) (i : Nat) : (s.fetched c).ctx i = s.ctx i := by
  simp only [State.ctx, State.fetched_ctxs]

@[simp] theorem State.fetched_acct (s : State) (c : Cmd) (x a : Nat) : (s.fetched c).acct x a = s.acct x a := by
  simp only [State.acct, State.fetched_ctx]

theorem State.mayAdmit_fetched (s : State) (c : Cmd) (x : Nat) : (s.fetched c).mayAdmit x = s.mayAdmit x := by
  simp only [State.mayAdmit, State.fetched_glb, State.fetched_ctx]

/-! ### ACCOUNT_QUERY -/

theorem State.cons_fetched_ne (s : State) (c : Cmd) {id : Nat} (h : id ≠ cid 0x40 c.fn.val) :
    (s.fetched c).cons id = s.cons id := by
  simp [State.cons, State.fetched, State.consAdd, Tbl.get_upd_ne _ _ h]

/-- The counter of fetched commands is none of an account's. -/
theorem cid_accIdx_ne_fetch {c : Cmd} {fam a : Nat} (hf : fam ≤ 5) (ha : a ≤ 1023) :
    cid fam (accIdx (Cmd.ownCtx c) a) ≠ cid 0x40 c.fn.val := by
  have hfn := c.fn.isLt
  have hx : Cmd.ownCtx c ≤ 16 := by unfold Cmd.ownCtx; split <;> omega
  simp only [cid, accIdx]
  omega

theorem State.accHeld_fetched (s : State) (c : Cmd) {a : Nat} (ha : a ≤ 1023) :
    (s.fetched c).accHeld (Cmd.ownCtx c) a = s.accHeld (Cmd.ownCtx c) a := by
  simp only [State.accHeld]
  rw [State.cons_fetched_ne s c (cid_accIdx_ne_fetch (by decide) ha),
    State.cons_fetched_ne s c (cid_accIdx_ne_fetch (by decide) ha),
    State.cons_fetched_ne s c (cid_accIdx_ne_fetch (by decide) ha)]

/-- What ACCOUNT_QUERY reports of account `a` (09, R225). -/
def State.accountReply (s : State) (x a : Nat) : Reply :=
  let mine := (s.ctx x).reqs.filter fun r => decide (r.account = a)
  let q := (mine.filter fun r => r.st == .queued).length
  .ok (leBytes 8 (s.acct x a).level ++ leBytes 8 (s.accHeld x a) ++ leBytes 4 q ++ leBytes 4 (mine.length - q))

theorem State.accountReply_fetched (s : State) (c : Cmd) {a : Nat} (ha : a ≤ 1023) :
    (s.fetched c).accountReply (Cmd.ownCtx c) a = s.accountReply (Cmd.ownCtx c) a := by
  simp only [State.accountReply, State.fetched_ctx, State.fetched_acct, State.accHeld_fetched s c ha]

theorem execAccountQuery_eq (c : Cmd) (s : State) : execAccountQuery c s = .next (s.row c 0x25 [] fun s =>
    params s c [(16, 17)] [(decide (1023 < c.le 16 2), 16)] <|
    if !(s.acct (Cmd.ownCtx c) (c.le 16 2)).known then .reply s (.of stNotBound)
    else .reply s (s.accountReply (Cmd.ownCtx c) (c.le 16 2))) := rfl

/-- ACCOUNT_QUERY answers with the account, or NOT_BOUND for one never set. -/
theorem execAccountQuery_answers (c : Cmd) (s : State) (h : accepts s c 0x25 [] = true)
    (hz : reservedZero c [(16, 17)] = true) (ha : c.le 16 2 ≤ 1023) :
    ∃ t, execAccountQuery c s = .next t ∧ Serves [] c s t ∧
      Answered t c (if (s.acct (Cmd.ownCtx c) (c.le 16 2)).known then s.accountReply (Cmd.ownCtx c) (c.le 16 2)
        else .of stNotBound) := by
  have hrules : ∀ r ∈ [(decide (1023 < c.le 16 2), 16)], r.1 = false := by simpa using ha
  refine ⟨_, execAccountQuery_eq c s, And.symm (State.row_reports h ?_ ?_)⟩
  · rw [params_run _ hz hrules, State.fetched_acct, State.accountReply_fetched s c ha]
    cases (s.acct (Cmd.ownCtx c) (c.le 16 2)).known <;> rfl
  · split
    · exact (by decide : stOk ≠ stBusy)
    · exact (by decide : stNotBound ≠ stBusy)

/-- ACCOUNT_SET leaves the accounts as `setAccount` says where no request is admitted. -/
theorem execAccountSet_answers (c : Cmd) (s : State) (h : accepts s c 0x24 [] = true)
    (hz : reservedZero c [(16, 18), (20, 27), (32, 47)] = true) (ha : c.le 16 2 ≤ 1023) (hf : (c.byte 18).toNat ≤ 7)
    (hc : c.le 22 2 ≠ 0) (hd : c.le 32 8 ≠ 0) (hd' : c.le 32 8 ≤ 2 ^ 48)
    (hl : (c.byte 18).toNat.testBit 2 = true → c.le 40 8 ≤ c.le 32 8)
    (hi : s.mayAdmit (Cmd.ownCtx c) = false ∨ (s.ctx (Cmd.ownCtx c)).reqs = []) :
    ∃ t, execAccountSet c s = .next t ∧ Answered t c (.of stOk) ∧ t.ctxs = ((s.fetched c).setAccount c).ctxs ∧
      Serves [.ctxs] c s t := by
  have hm := (s.fetched c).setAccount_moved c
  have hidle : ((s.fetched c).setAccount c).admission (Cmd.ownCtx c) = (s.fetched c).setAccount c := by
    refine State.admission_idle ?_
    rw [hm.mayAdmit, hm.reqs, State.mayAdmit_fetched, State.fetched_ctx]
    exact hi
  have hk : KeepsBut ([.ctxs] ++ cmdBlocks) (s.fetched c) ((s.fetched c).setAccount c) := hm.keeps.mono (by decide)
  have hrules : ∀ r ∈ [(decide (1023 < c.le 16 2), 16), (decide (7 < (c.byte 18).toNat), 18), (c.le 22 2 == 0, 22),
       (c.le 32 8 == 0 || decide (2 ^ 48 < c.le 32 8), 32),
       ((c.byte 18).toNat.testBit 2 && decide (c.le 32 8 < c.le 40 8), 40)], r.1 = false := by
    simpa [ha, hf, hc, hd] using And.intro hd' hl
  refine ⟨_, execAccountSet_eq c s, State.row_replies h ?_ (by decide) hk hm.host (hm.quiet c)⟩
  rw [params_run _ hz hrules, hidle]

/-! ### The refill -/

/-- An account after one tick of the refill (09, R222). -/
def Account.refilled (y : Account) : Account :=
  { y with level := min y.depth (y.level + (y.rem + y.rate) / 1000), rem := (y.rem + y.rate) % 1000 }

@[simp] theorem Account.refilled_default : (default : Account).refilled = default := rfl

/-- The refill of one entry of a context's accounts. -/
def State.refillEntry (x : Nat) (s : State) (e : Nat × Account) : State :=
  (s.updAcct x e.1 fun a => { a with rem := (e.2.rem + e.2.rate) % 1000 }).accGrant x e.1 ((e.2.rem + e.2.rate) / 1000)

/-- The refill of one context. -/
def State.refillCtx (s : State) (x : Nat) : State := foldS (s.ctx x).accounts (State.refillEntry x) s

theorem State.refillEntry_moved (x : Nat) (s : State) (e : Nat × Account) : AcctMoved x e.1 s (s.refillEntry x e) :=
  (s.updAcct_moved x e.1 _).trans (State.accGrant_moved _ x e.1 _)

theorem State.refillEntry_acct_same (x : Nat) (s : State) (e : Nat × Account) (he : s.acct x e.1 = e.2)
    (hl : e.2.level ≤ e.2.depth) : (s.refillEntry x e).acct x e.1 = e.2.refilled := by
  unfold State.refillEntry
  rw [State.accGrant_acct_same, State.updAcct_acct_same, he]
  · rfl
  · simpa [he] using hl

/-- A pass over entries of distinct accounts refills each of them once and no other. -/
theorem foldS_refillEntry_acct (x : Nat) (l : List (Nat × Account)) (s : State) (hd : (l.map Prod.fst).Nodup)
    (hl : ∀ e ∈ l, s.acct x e.1 = e.2 ∧ e.2.level ≤ e.2.depth) (a : Nat) :
    (foldS l (State.refillEntry x) s).acct x a = if a ∈ l.map Prod.fst then (s.acct x a).refilled else s.acct x a := by
  induction l generalizing s with
  | nil => simp
  | cons e r ih =>
    obtain ⟨he, hr⟩ := List.nodup_cons.1 hd
    obtain ⟨heq, hlev⟩ := hl e List.mem_cons_self
    have hne := (State.refillEntry_moved x s e).acct_ne
    have hl' : ∀ d ∈ r, (s.refillEntry x e).acct x d.1 = d.2 ∧ d.2.level ≤ d.2.depth := by
      intro d hdr
      have hde : d.1 ≠ e.1 := fun h => he (h ▸ List.mem_map_of_mem hdr)
      rw [hne _ hde]
      exact hl d (List.mem_cons_of_mem _ hdr)
    rw [foldS_cons, ih _ hr hl']
    by_cases hae : a = e.1
    · subst hae
      simp [he, State.refillEntry_acct_same x s e heq hlev, heq]
    · rw [hne a hae]
      simp only [List.map_cons, List.mem_cons, hae, false_or]

theorem State.refillCtx_acct (s : State) (x : Nat) (w : Tbl.wf (s.ctx x).accounts = true)
    (hl : ∀ e ∈ (s.ctx x).accounts, e.2.level ≤ e.2.depth) (a : Nat) :
    (s.refillCtx x).acct x a = (s.acct x a).refilled := by
  have hd := Tbl.nodup_of_wfFrom w
  rw [State.refillCtx, foldS_refillEntry_acct x _ s hd fun e he => ⟨Tbl.get_of_mem hd e he, hl e he⟩]
  split
  case isTrue => rfl
  case isFalse h =>
    have ha : s.acct x a = default := Tbl.get_of_not_mem h
    rw [ha, Account.refilled_default]

theorem State.refillCtx_ctx_ne (s : State) (x : Nat) {i : Nat} (hi : i ≠ x) : (s.refillCtx x).ctx i = s.ctx i :=
  foldS_keeps s (fun s => s.ctx i) _ _ fun s e => (State.refillEntry_moved x s e).ctx_ne i hi

theorem State.refillCtx_reqs (s : State) (x i : Nat) : ((s.refillCtx x).ctx i).reqs = (s.ctx i).reqs :=
  foldS_keeps s (fun s => (s.ctx i).reqs) _ _ fun s e => (State.refillEntry_moved x s e).reqs i

theorem State.refillCtx_keeps (s : State) (x : Nat) : KeepsBut [.ctxs, .tel] s (s.refillCtx x) :=
  foldS_preserves s (KeepsBut [.ctxs, .tel] s) _ _ (fun t e ht => ht.trans (State.refillEntry_moved x t e).keeps)
    (KeepsBut.refl _ s)

theorem foldS_refillCtx_ctx_ne (l : List Nat) (s : State) {x : Nat} (hx : x ∉ l) :
    (foldS l State.refillCtx s).ctx x = s.ctx x := by
  induction l generalizing s with
  | nil => rfl
  | cons c r ih =>
    simp only [List.mem_cons, not_or] at hx
    rw [foldS_cons, ih _ hx.2, State.refillCtx_ctx_ne s c hx.1]

/-- A pass over distinct contexts refills the accounts of each once. -/
theorem foldS_refillCtx_acct (l : List Nat) (s : State) {x : Nat} (hd : l.Nodup) (hx : x ∈ l)
    (w : Tbl.wf (s.ctx x).accounts = true) (hl : ∀ e ∈ (s.ctx x).accounts, e.2.level ≤ e.2.depth) (a : Nat) :
    (foldS l State.refillCtx s).acct x a = (s.acct x a).refilled := by
  induction l generalizing s with
  | nil => simp at hx
  | cons c r ih =>
    obtain ⟨hc, hr⟩ := List.nodup_cons.1 hd
    rw [foldS_cons]
    by_cases hxc : x = c
    · subst hxc
      rw [State.acct, foldS_refillCtx_ctx_ne r _ hc]
      exact s.refillCtx_acct x w hl a
    · have hctx := s.refillCtx_ctx_ne c hxc
      rw [ih _ hr ((List.mem_cons.1 hx).resolve_left hxc) (by rwa [hctx]) (by rwa [hctx]), State.acct, hctx, State.acct]

/-- The refill while a core is in charge and the module is in a state in which budgets grow (09, R222; 17, R461). -/
theorem execAccountRefill_eq {s : State} (hst : s.glb.state = .ready ∨ s.glb.state = .draining ∨ s.glb.state = .suspect)
    (ho : s.ctl.owner.isSome = true) (hg : s.ctl.gap = false) :
    execAccountRefill s = .next (foldS allCtxs State.refillCtx s) := by
  have hrun : (s.ctl.owner.isNone || s.ctl.gap) = false := by
    simpa [hg, Option.isSome_iff_ne_none] using ho
  unfold execAccountRefill
  rcases hst with hst | hst | hst <;>
    · simp only [hst, hrun]
      rfl

theorem execAccountRefill_quiesced {s : State} (h : s.glb.state = .quiesced) : execAccountRefill s = .next s := by
  simp [execAccountRefill, h]

end Sys2Proof.Machine

namespace Sys2Proof

open Machine

/-- Settles O36: the parameters good, ACCOUNT_SET's one movement of its account, ACCOUNT_QUERY's report, and the refill as a
pass over the contexts in which each account is met once. -/
theorem accountCommands : Obligations.AccountCommands := by
  unfold Obligations.AccountCommands
  refine ⟨?_, ?_, ?_, ?_, fun s hq => execAccountRefill_quiesced hq⟩
  · intro c s h hz ha hf hc hd hd' hl hi
    have hl' : (c.byte 18).toNat.testBit 2 = true → c.le 40 8 ≤ c.le 32 8 := by
      simpa only [BitVec.testBit_toNat] using hl
    obtain ⟨t, hexec, hans, hctxs, hserves⟩ := execAccountSet_answers c s h hz ha hf hc hd hd' hl' hi
    have hm := (s.fetched c).setAccount_moved c
    have hctx : ∀ i, t.ctx i = ((s.fetched c).setAccount c).ctx i := fun i => by simp only [State.ctx, hctxs]
    have hacct : ∀ b, t.acct (Cmd.ownCtx c) b = ((s.fetched c).setAccount c).acct (Cmd.ownCtx c) b :=
      fun b => by simp only [State.acct, hctx]
    refine ⟨t, hexec, hans, ?_, fun b hb => ?_, fun i hne => ?_, hserves⟩
    · rw [hacct, State.setAccount_acct_same _ c hl', State.fetched_acct]
      simp only [Account.withTerms, BitVec.testBit_toNat, and_self]
    · rw [hacct, hm.acct_ne b hb, State.fetched_acct]
    · rw [hctx, hm.ctx_ne i hne, State.fetched_ctx]
  · intro c s h hz ha hk
    obtain ⟨t, hexec, hserves, hans⟩ := execAccountQuery_answers c s h hz ha
    rw [hk] at hans
    exact ⟨t, hexec, hserves, hans⟩
  · intro c s h hz ha hk
    obtain ⟨t, hexec, hserves, hans⟩ := execAccountQuery_answers c s h hz ha
    rw [hk] at hans
    exact ⟨t, hexec, hans, hserves⟩
  · intro x a s hst ho hg hx hwf
    obtain ⟨w, hl⟩ := hwf x hx
    have hacct := foldS_refillCtx_acct allCtxs s List.nodup_range (List.mem_range.2 hx) w hl a
    refine ⟨_, execAccountRefill_eq hst ho hg, by rw [hacct]; rfl, by rw [hacct]; rfl, ?_, ?_⟩
    · exact foldS_keeps s (fun s => (s.ctx x).reqs) _ _ fun s c => s.refillCtx_reqs c x
    · exact foldS_preserves s (KeepsBut [.ctxs, .tel] s) _ _ (fun t c ht => ht.trans (t.refillCtx_keeps c))
        (KeepsBut.refl _ s)

end Sys2Proof

/-!
Registers of a ring pair (15, R405-R410, R548): what an operation on one ring pair leaves as it is, what a write of each of
its registers makes of the pair, and from these the settlement of O11.
-/

namespace Sys2Proof.Machine

/-! ### The frame of an operation on one ring pair -/

/-- Beyond ring pair `n` of function `f`, only the parts of the host interface that are not rings may have changed. -/
structure RingFrame (f n : Nat) (s t : State) : Prop where
  rings : OtherRings f n s t
  keeps : KeepsBut [.host] s t

theorem RingFrame.refl (f n : Nat) (s : State) : RingFrame f n s s := ⟨fun _ _ _ => rfl, KeepsBut.refl _ s⟩

theorem RingFrame.trans {f n : Nat} {s t u : State} (h : RingFrame f n s t) (k : RingFrame f n t u) : RingFrame f n s u where
  rings g m hm := (k.rings g m hm).trans (h.rings g m hm)
  keeps := h.keeps.trans k.keeps

theorem State.updHost_keepsBut (s : State) (g : HostIf → HostIf) : KeepsBut [.host] s (s.updHost g) := by
  refine ⟨rfl, fun b hb => ?_⟩
  cases b
  case host => exact absurd (List.mem_singleton_self _) hb
  all_goals rfl

theorem State.updRing_frame (s : State) (f n : Nat) (g : Ring → Ring) : RingFrame f n s (s.updRing f n g) :=
  ⟨fun i m hm => State.updRing_ring_ne s f n g i.val m.val hm, s.updHost_keepsBut _⟩

theorem State.hostPut_frame (s : State) (f n g a : Nat) (bs : List Byte) : RingFrame f n s (s.hostPut g a bs) :=
  ⟨fun _ _ _ => rfl, s.updHost_keepsBut _⟩

theorem State.doorbell_frame (s : State) (f n g j : Nat) : RingFrame f n s (s.doorbell g j) where
  rings i m _ := State.doorbell_ring s g j i.val m.val
  keeps := by
    have hp := s.updHost_keepsBut fun h =>
      { h with funcs := h.funcs.upd g fun w => { w with dbPend := w.dbPend ||| (1 <<< j) } }
    unfold State.doorbell
    dsimp only
    split
    · exact KeepsBut.refl _ s
    · split
      · exact hp
      · exact hp.trans (State.updHost_keepsBut _ _)

theorem State.writeEntry_frame (s : State) (f n : Nat) (e : Completion) (q : Bool) :
    RingFrame f n s (s.writeEntry f n e q) := by
  unfold State.writeEntry
  dsimp only
  split
  · exact s.updRing_frame f n _
  · split
    · exact (s.updRing_frame f n _).trans (State.doorbell_frame _ f n f 24)
    · have hput := (s.hostPut_frame f n f ((s.ring f n).cqBase.toNat + 32 * (s.ring f n).cqTail) e.toBytes).trans
        (State.updRing_frame _ f n fun r => { r with cq := r.cq ++ [e], cqTail := (r.cqTail + 1) % ringEntries r.cqSize })
      split
      · exact hput
      · exact hput.trans (State.doorbell_frame _ f n f n)

/-- A doorbell raised is pending, whether or not it was before (15, R401). -/
theorem State.doorbell_pends (s : State) (f : Nat) {j : Nat} (hj : j < 32) :
    ((s.doorbell f j).func f).dbPend.getLsbD j = true := by
  have hp : ((s.updFunc f fun w => { w with dbPend := w.dbPend ||| (1 <<< j) }).func f).dbPend.getLsbD j = true := by
    rw [State.updFunc_func_same, BitVec.getLsbD_or, BitVec.natCast_eq_ofNat, BitVec.getLsbD_ofNat, Nat.shiftLeft_eq,
      Nat.one_mul, Nat.testBit_two_pow_self]
    simp [hj]
  unfold State.doorbell
  dsimp only
  split
  case isTrue h => exact h
  case isFalse => split <;> exact hp

/-! ### Completions written again after an ENABLE (15, R410) -/

/-- While completion writes succeed, an entry lengthens its completion ring and leaves the rest of the pair. -/
theorem State.writeEntry_ring_same (s : State) (f : Nat) {n : Nat} (e : Completion) (q : Bool) (hn : n ≠ 8)
    (hw : (s.ring f n).writeFails = false) :
    (s.writeEntry f n e q).ring f n =
      { s.ring f n with
        cq := (s.ring f n).cq ++ [e], cqTail := ((s.ring f n).cqTail + 1) % ringEntries (s.ring f n).cqSize } := by
  have hput := State.updRing_ring_same (s.hostPut f ((s.ring f n).cqBase.toNat + 32 * (s.ring f n).cqTail) e.toBytes) f n
    fun r => { r with cq := r.cq ++ [e], cqTail := (r.cqTail + 1) % ringEntries r.cqSize }
  unfold State.writeEntry
  dsimp only
  rw [if_neg hn, if_neg (by simp [hw])]
  split
  · exact hput
  · exact (State.doorbell_ring _ f n f n).trans hput

/-- A pass of such entries leaves all of the pair but its completion ring. -/
theorem foldS_writeEntry_ring (l : List (Completion × Bool)) (s : State) (f : Nat) {n : Nat} (hn : n ≠ 8)
    (hw : (s.ring f n).writeFails = false) :
    ∃ cq cqTail, (foldS l (fun s e => s.writeEntry f n e.1 e.2) s).ring f n = { s.ring f n with cq, cqTail } := by
  refine foldS_preserves s (fun u => ∃ cq cqTail, u.ring f n = { s.ring f n with cq, cqTail }) _ _ ?_ ⟨_, _, rfl⟩
  rintro u e ⟨cq, cqTail, hu⟩
  rw [u.writeEntry_ring_same f e.1 e.2 hn (by rw [hu]; exact hw), hu]
  exact ⟨_, _, rfl⟩

theorem State.rewrite_ring (s : State) (f : Nat) {n : Nat} (hn : n ≠ 8) (hw : (s.ring f n).writeFails = false) :
    ∃ cq cqTail, (s.rewrite f n).ring f n = { s.ring f n with unwritten := [], cq, cqTail } := by
  have h := foldS_writeEntry_ring (s.ring f n).unwritten (s.updRing f n fun r => { r with unwritten := [] }) f hn
    (by simpa using hw)
  rwa [State.updRing_ring_same] at h

theorem State.rewrite_frame (s : State) (f n : Nat) : RingFrame f n s (s.rewrite f n) :=
  foldS_preserves _ (RingFrame f n s) _ _ (fun u e hu => hu.trans (u.writeEntry_frame f n e.1 e.2)) (s.updRing_frame f n _)

/-! ### SQ_TAIL (15, R409, R410) -/

theorem exec_sqTailWrite (fn : Fn) (n : Fin 8) (v : Word) (pcie : Pcie) (s : State) :
    exec (.sqTailWrite fn n v pcie) s = execSqTailWrite fn n v pcie s := rfl

/-- A failing fetch of an entry that is there stops the pair with FETCH_ERR and rings its function's doorbell 24. -/
theorem State.fetchFails_stops {s : State} {f n : Nat} (he : (s.ring f n).enable = true)
    (hq : (s.ring f n).sqHead ≠ (s.ring f n).sqTail) :
    (s.fetchFails f n).ring f n = { s.ring f n with enable := false, fetchErr := true } ∧
      ((s.fetchFails f n).func f).dbPend.getLsbD 24 = true := by
  have hq' : (s.ring f n).enable && (s.ring f n).sqHead ≠ (s.ring f n).sqTail := by simp [he, hq]
  unfold State.fetchFails
  dsimp only
  rw [if_pos hq']
  exact ⟨(State.doorbell_ring _ f 24 f n).trans (State.updRing_ring_same s f n _), State.doorbell_pends _ f (by decide)⟩

theorem State.fetchFails_frame (s : State) (f n : Nat) : RingFrame f n s (s.fetchFails f n) := by
  unfold State.fetchFails
  dsimp only
  split
  · exact (s.updRing_frame f n _).trans (State.doorbell_frame _ f n f 24)
  · exact RingFrame.refl f n s

section
variable {fn : Fn} {n : Fin 8} {v : Word} {s : State} (hup : s.windowUp fn.val = true)
include hup

theorem execSqTailWrite_taken (pcie : Pcie) (hv : v.toNat < ringEntries (s.ring fn.val n.val).sqSize) :
    execSqTailWrite fn n v pcie s =
      .next ((s.updRing fn.val n.val fun r => { r with sqTail := v.toNat }).pcieEnds fn.val n.val pcie) := by
  simp [execSqTailWrite, hup, Nat.not_le.2 hv]

theorem execSqTailWrite_above (pcie : Pcie) (hv : ringEntries (s.ring fn.val n.val).sqSize ≤ v.toNat) :
    execSqTailWrite fn n v pcie s = .next (s.updRing fn.val n.val fun r => { r with tailErr := true }) := by
  simp [execSqTailWrite, hup, hv]

end

/-! ### CQ_HEAD (15, R407) -/

theorem exec_cqHeadWrite (fn : Fn) (n : Fin 8) (v : Word) (s : State) :
    exec (.cqHeadWrite fn n v) s = execCqHeadWrite fn n v s := rfl

section
variable {fn : Fn} {n : Fin 8} {v : Word} {s : State} (hup : s.windowUp fn.val = true)
include hup

theorem execCqHeadWrite_taken (hv : v.toNat < ringEntries (s.ring fn.val n.val).cqSize) :
    execCqHeadWrite fn n v s = .next (s.updRing fn.val n.val fun r =>
      { r with cqHead := v.toNat, cq := r.cq.drop ((v.toNat + ringEntries r.cqSize - r.cqHead) % ringEntries r.cqSize) }) := by
  simp [execCqHeadWrite, hup, Nat.not_le.2 hv]

theorem execCqHeadWrite_above (hv : ringEntries (s.ring fn.val n.val).cqSize ≤ v.toNat) :
    execCqHeadWrite fn n v s = .next s := by
  simp [execCqHeadWrite, hup, hv]

end

/-! ### RING_CTRL (15, R406) -/

theorem exec_ringEnableWrite (fn : Fn) (n : Fin 8) (v : Word) (pcie : Pcie) (s : State) :
    exec (.ringEnableWrite fn n v pcie) s = execRingEnableWrite fn n v pcie s := rfl

/-- The pair with RING_CTRL written, its completion writes to succeed once it is enabled. -/
def Ring.withCtrl (r : Ring) (v : Word) : Ring :=
  { r with
    enable := v.getLsbD 31, writeFails := if v.getLsbD 31 then false else r.writeFails
    fetchErr := r.fetchErr && !v.getLsbD 29, writeErr := r.writeErr && !v.getLsbD 28, tailErr := r.tailErr && !v.getLsbD 27 }

theorem execRingEnableWrite_good {fn : Fn} {n : Fin 8} {v : Word} {s : State} (hup : s.windowUp fn.val = true) :
    execRingEnableWrite fn n v .good s = .next
      (let t := s.updRing fn.val n.val fun r => r.withCtrl v
       if v.getLsbD 31 then t.rewrite fn.val n.val else t) := by
  unfold execRingEnableWrite
  cases hon : v.getLsbD 31 <;> simp only [Ring.withCtrl, hup, hon] <;> rfl

/-- A RING_CTRL write gives the pair its control bits; the completions that had waited may follow. -/
theorem execRingEnableWrite_ring {fn : Fn} {n : Fin 8} {v : Word} {s : State} (hup : s.windowUp fn.val = true) :
    ∃ t, execRingEnableWrite fn n v .good s = .next t ∧ RingFrame fn.val n.val s t ∧
      ∃ unwritten cq cqTail,
        t.ring fn.val n.val = { (s.ring fn.val n.val).withCtrl v with unwritten, cq, cqTail } := by
  have hframe := s.updRing_frame fn.val n.val fun r => r.withCtrl v
  have hring := State.updRing_ring_same s fn.val n.val fun r => r.withCtrl v
  refine ⟨_, execRingEnableWrite_good hup, ?_⟩
  dsimp only
  split
  case isTrue hon =>
    obtain ⟨cq, cqTail, h⟩ := State.rewrite_ring (s.updRing fn.val n.val fun r => r.withCtrl v) fn.val
      (n := n.val) (by omega) (by rw [hring, Ring.withCtrl, if_pos hon])
    rw [hring] at h
    exact ⟨hframe.trans (State.rewrite_frame _ _ _), _, cq, cqTail, h⟩
  case isFalse => exact ⟨hframe, _, _, _, hring⟩

/-! ### Base and size registers (15, R407) -/

theorem exec_ringReconfigure (fn : Fn) (n : Fin 8) (reg : Fin 6) (v : Word) (s : State) :
    exec (.ringReconfigure fn n reg v) s = execRingReconfigure fn n reg v s := rfl

theorem execRingReconfigure_restarts {fn : Fn} {n : Fin 8} {reg : Fin 6} {v : Word} {s : State} {r : Ring}
    (hup : s.windowUp fn.val = true) (he : (s.ring fn.val n.val).enable = false) (hi : s.inflightOn fn.val n.val = 0)
    (hr : (s.ring fn.val n.val).setReg reg.val v = some r) :
    execRingReconfigure fn n reg v s = .next (s.updRing fn.val n.val fun _ => r.restart) := by
  simp [execRingReconfigure, hup, he, hi, hr]

/-- A write of a base or size register of a busy pair is ignored, or turned away by a function that receives no TLPs (14,
R390). -/
theorem execRingReconfigure_busy {fn : Fn} {n : Fin 8} (reg : Fin 6) (v : Word) {s : State}
    (h : (s.ring fn.val n.val).enable = true ∨ s.inflightOn fn.val n.val ≠ 0) :
    execRingReconfigure fn n reg v s = .next (if s.windowUp fn.val then s else s.turnAway fn.val) := by
  cases hup : s.windowUp fn.val with
  | false => simp [execRingReconfigure, hup]
  | true => simp [execRingReconfigure, hup, h]

end Sys2Proof.Machine

namespace Sys2Proof

open Machine

/-- Settles O11: each register write by its equation, which changes its own ring pair by `updRing`; after an ENABLE the
completions written again lengthen the completion ring alone. -/
theorem ringRegisters : Obligations.RingRegisters := by
  unfold Obligations.RingRegisters
  simp only [exec_sqTailWrite, exec_cqHeadWrite, exec_ringEnableWrite, exec_ringReconfigure]
  refine ⟨⟨fun fn n v s hup =>
      ⟨fun hv => execSqTailWrite_taken hup .good hv, fun pcie hv => execSqTailWrite_above hup pcie hv⟩,
    ?_, ?_, ?_, ?_⟩, fun fn n reg v s h => execRingReconfigure_busy reg v h⟩
  · intro fn n v s hup he hv hq
    have hring := State.updRing_ring_same s fn.val n.val fun r => { r with sqTail := v.toNat }
    obtain ⟨hstop, hbell⟩ := State.fetchFails_stops (s := s.updRing fn.val n.val fun r => { r with sqTail := v.toNat })
      (f := fn.val) (n := n.val) (by rw [hring]; exact he) (by rw [hring]; exact hq)
    have hframe := (s.updRing_frame fn.val n.val fun r => { r with sqTail := v.toNat }).trans (State.fetchFails_frame _ _ _)
    exact ⟨_, execSqTailWrite_taken hup .fetchError hv, by rw [State.pcieEnds, hstop, hring], hbell, hframe.rings,
      hframe.keeps⟩
  · intro fn n v s hup
    refine ⟨fun hv => ⟨_, execCqHeadWrite_taken hup hv, ?_⟩, execCqHeadWrite_above hup⟩
    have hframe := s.updRing_frame fn.val n.val fun r =>
      { r with cqHead := v.toNat, cq := r.cq.drop ((v.toNat + ringEntries r.cqSize - r.cqHead) % ringEntries r.cqSize) }
    rw [State.updRing_ring_same]
    exact ⟨rfl, rfl, hframe.rings, hframe.keeps⟩
  · intro fn n v s hup
    obtain ⟨t, hexec, hframe, unwritten, cq, cqTail, hring⟩ := execRingEnableWrite_ring (n := n) (v := v) hup
    refine ⟨t, hexec, ?_⟩
    rw [hring]
    exact ⟨rfl, rfl, rfl, rfl, rfl, rfl, rfl, hframe.rings, hframe.keeps⟩
  · intro fn n reg v s r hup he hi hr
    have hframe := s.updRing_frame fn.val n.val fun _ => r.restart
    exact ⟨_, execRingReconfigure_restarts hup he hi hr, State.updRing_ring_same s _ _ _, hframe.rings, hframe.keeps⟩

end Sys2Proof

/-!
A message for a full mailbox (16, R436, R448, R449): the frame gives its credit back, and its MBX_NAK takes one wherever the
peer entry reads UP, which every entry of `frameEntry` does in a canonical peer table.  O54 asks for that credit in every
state; a peer table that lists an entry twice refutes it.
-/

namespace Sys2Proof.Machine

/-! ### Counters of one channel -/

theorem State.cons_consSet (s : State) (id n i : Nat) : (s.consSet id n).cons i = if i = id then n else s.cons i :=
  Tbl.get_set s.tel.cons id i n

theorem State.cons_consAdd (s : State) (id n i : Nat) :
    (s.consAdd id n).cons i = if i = id then s.cons i + n else s.cons i :=
  Tbl.get_upd s.tel.cons id i (· + n)

/-- The counters of one channel are told apart by their families (19, R520). -/
@[simp] theorem cid_eq_cid_iff {a b i : Nat} : cid a i = cid b i ↔ a = b := by
  unfold cid; omega

@[simp] theorem State.updPeer_cons (s : State) (e : Nat) (g : Peer → Peer) (id : Nat) :
    (s.updPeer e g).cons id = s.cons id := rfl

@[simp] theorem State.lifetime_cons (s : State) (k : Nat) (p : List Nat) (id : Nat) : (s.lifetime k p).cons id = s.cons id := by
  simp only [State.cons, State.lifetime, State.updTel_tel]
  split <;> rfl

@[simp] theorem State.bump_cons (s : State) (off id : Nat) : (s.bump off).cons id = s.cons id := by
  unfold State.bump State.bumpBy
  dsimp only
  split
  · rfl
  · rw [State.lifetime_cons]; rfl

/-! ### What the link's own operations leave -/

theorem State.updPeer_keepsBut (s : State) (e : Nat) (g : Peer → Peer) : KeepsBut [.lnk, .tel] s (s.updPeer e g) :=
  ⟨rfl, fun b hb => by cases b <;> simp_all [Block.same]⟩

theorem State.updTel_keepsBut (s : State) (g : Tel → Tel) : KeepsBut [.lnk, .tel] s (s.updTel g) :=
  ⟨rfl, fun b hb => by cases b <;> simp_all [Block.same]⟩

theorem State.transmit_keepsBut (s : State) (e : Nat) (f : OutFrame) : KeepsBut [.lnk, .tel] s (s.transmit e f) := by
  unfold State.transmit
  dsimp only
  split
  · exact ((s.updTel_keepsBut _).trans (State.updTel_keepsBut _ _)).trans (State.updPeer_keepsBut _ _ _)
  · exact s.updPeer_keepsBut e _

theorem State.sendFrame_keepsBut (s : State) (e : Nat) (f : OutFrame) : KeepsBut [.lnk, .tel] s (s.sendFrame e f) := by
  unfold State.sendFrame
  split
  · exact KeepsBut.refl _ s
  · split
    · exact s.updPeer_keepsBut e _
    · exact s.transmit_keepsBut e f

theorem State.rxTake_keepsBut (s : State) (e v : Nat) : KeepsBut [.lnk, .tel] s (s.rxTake e v) :=
  (s.updTel_keepsBut _).trans (State.updTel_keepsBut _ _)

theorem State.rxRelease_keepsBut (s : State) (e v : Nat) : KeepsBut [.lnk, .tel] s (s.rxRelease e v) :=
  ((s.updTel_keepsBut _).trans (State.updTel_keepsBut _ _)).trans (State.sendFrame_keepsBut _ _ _)

/-! ### Credits of a frame sent (16, R448) -/

/-- A frame whose type needs no credit moves no counter. -/
theorem State.sendFrame_cons_of_free (s : State) (e id : Nat) {f : OutFrame} (hf : takesCredit f.typ = false) :
    (s.sendFrame e f).cons id = s.cons id := by
  unfold State.sendFrame
  split
  · rfl
  · simp [State.transmit, hf]

/-- A credited frame with a credit there takes it, if its entry reads UP. -/
theorem State.sendFrame_credits_left (s : State) (e : Nat) {f : OutFrame} (hf : takesCredit f.typ = true)
    (hc : 0 < s.cons (cid 0x50 (lnkIdx e f.vc))) :
    (s.sendFrame e f).cons (cid 0x50 (lnkIdx e f.vc)) + b2n (decide ((s.peer e).st = .up)) =
      s.cons (cid 0x50 (lnkIdx e f.vc)) := by
  unfold State.sendFrame
  by_cases hup : (s.peer e).st = .up
  · have hsent : ¬ (takesCredit f.typ && decide (s.cons (cid 0x50 (lnkIdx e f.vc)) = 0)) = true := by
      simp [Nat.ne_of_gt hc]
    have hleft : (s.transmit e f).cons (cid 0x50 (lnkIdx e f.vc)) = s.cons (cid 0x50 (lnkIdx e f.vc)) - 1 := by
      simp [State.transmit, State.cons_consAdd, State.cons_consSet, hf]
    rw [if_neg (not_not_intro hup), if_neg hsent, hleft, hup]
    exact Nat.sub_add_cancel hc
  · simp [hup, b2n]

/-- Sending moves no counter beyond the credits of the frame's own channel. -/
theorem State.sendFrame_cons_ne (s : State) (e : Nat) (f : OutFrame) {id : Nat} (h0 : id ≠ cid 0x50 (lnkIdx e f.vc))
    (h1 : id ≠ cid 0x51 (lnkIdx e f.vc)) : (s.sendFrame e f).cons id = s.cons id := by
  unfold State.sendFrame State.transmit
  dsimp only
  split
  · rfl
  · split
    · rfl
    · split <;> simp [State.cons_consAdd, State.cons_consSet, h0, h1]

/-! ### The buffer entry of a received frame (16, R448, R449) -/

/-- Taking an entry counts it out of the free ones of its channel. -/
theorem State.rxTake_cons_same (s : State) (e v : Nat) :
    (s.rxTake e v).cons (cid 0x53 (lnkIdx e v)) = s.cons (cid 0x53 (lnkIdx e v)) - 1 := by
  simp [State.rxTake, State.cons_consAdd, State.cons_consSet]

theorem State.rxTake_cons_family (s : State) (e v : Nat) {fam : Nat} (h3 : fam ≠ 0x53) (h4 : fam ≠ 0x54) :
    (s.rxTake e v).cons (cid fam (lnkIdx e v)) = s.cons (cid fam (lnkIdx e v)) := by
  simp [State.rxTake, State.cons_consAdd, State.cons_consSet, h3, h4]

@[simp] theorem State.rxTake_peer (s : State) (e v i : Nat) : (s.rxTake e v).peer i = s.peer i := rfl

/-- Its release counts it back; the CREDIT frame itself needs no credit. -/
theorem State.rxRelease_cons_same (s : State) (e v : Nat) :
    (s.rxRelease e v).cons (cid 0x53 (lnkIdx e v)) = s.cons (cid 0x53 (lnkIdx e v)) + 1 := by
  unfold State.rxRelease
  rw [State.sendFrame_cons_of_free _ _ _ (by rfl)]
  simp [State.cons_consAdd]

theorem State.rxRelease_cons_family (s : State) (e v : Nat) {fam : Nat} (h3 : fam ≠ 0x53) (h5 : fam ≠ 0x55) :
    (s.rxRelease e v).cons (cid fam (lnkIdx e v)) = s.cons (cid fam (lnkIdx e v)) := by
  unfold State.rxRelease
  rw [State.sendFrame_cons_of_free _ _ _ (by rfl)]
  simp [State.cons_consAdd, h3, h5]

/-! ### A credited frame arrives (16, R442, R448) -/

/-- Frame `f` of type `typ` is one the session of entry `e` acts on: of its generation, its tag good, its type carried, a
buffer entry free. -/
structure CreditedArrives (s : State) (f : Frame) (e typ : Nat) : Prop where
  entry : s.frameEntry f = some e
  gen : (s.peer e).gen = f.sessGen
  tag : (s.peer e).encrypted = true → f.tagOk = true
  carried : s.carries e typ = true
  free : 0 < s.cons (cid 0x53 (lnkIdx e (frameVc typ)))

/-- The session of entry `e` has heard frame `f`. -/
def State.heard (s : State) (e : Nat) (f : Frame) : State :=
  s.updPeer e fun p => { p.exchange f.seq with lastHeard := s.time, missed := 0, rxSeq := f.seq }

@[simp] theorem State.heard_cons (s : State) (e id : Nat) (f : Frame) : (s.heard e f).cons id = s.cons id := rfl

/-- Hearing a frame changes neither what the session is nor where it stands. -/
theorem State.heard_session (s : State) (e : Nat) (f : Frame) :
    ((s.heard e f).peer e).st = (s.peer e).st ∧ ((s.heard e f).peer e).minor = (s.peer e).minor ∧
      ((s.heard e f).peer e).encrypted = (s.peer e).encrypted := by
  rw [State.heard, State.updPeer_peer_same]
  unfold Peer.exchange
  split <;> exact ⟨rfl, rfl, rfl⟩

@[simp] theorem State.heard_carries (s : State) (e typ : Nat) (f : Frame) : (s.heard e f).carries e typ = s.carries e typ := by
  obtain ⟨-, hminor, henc⟩ := s.heard_session e f
  simp only [State.carries, hminor, henc]
  rfl

/-- A frame the session acts on takes its buffer entry, does its work and gives the entry back. -/
theorem CreditedArrives.onCredited_eq {s : State} {f : Frame} {e typ : Nat} (h : CreditedArrives s f e typ)
    (g : Nat → State → State) :
    s.onCredited f typ g = (g e ((s.heard e f).rxTake e (frameVc typ))).rxRelease e (frameVc typ) := by
  have htag : ((s.peer e).encrypted && !f.tagOk) = false := by
    cases henc : (s.peer e).encrypted
    · rfl
    · simp [h.tag henc]
  have hcarried : (s.heard e f).carries e typ = true := by rw [State.heard_carries, h.carried]
  unfold State.onCredited State.onFrame
  simp only [h.entry, h.gen, htag, ne_eq, not_true_eq_false, if_false, Bool.false_eq_true]
  rw [← State.heard, hcarried]
  simp [Nat.ne_of_gt h.free]

/-! ### MBX with its mailbox full (16, R436, R448) -/

/-- Mailbox `m` has rejected a message: the overflow is recorded and counted (R436). -/
def State.mailRejected (s : State) (m : Nat) : State :=
  (s.updMbx fun b => { b with ovf := b.ovf ||| (1 <<< m) }).bump (mbxBase + 0x18)

theorem State.mailPut_full {s : State} {m : Nat} (slot : Slot) (h : 4 ≤ (s.mbx.boxes.get m).length) :
    s.mailPut m slot = (false, s.mailRejected m) := by
  rw [State.mailPut, if_pos h, State.mailRejected]

@[simp] theorem State.mailRejected_cons (s : State) (m id : Nat) : (s.mailRejected m).cons id = s.cons id :=
  State.bump_cons _ _ id

@[simp] theorem State.mailRejected_peer (s : State) (m e : Nat) : (s.mailRejected m).peer e = s.peer e := by
  simp only [State.mailRejected, State.peer, State.bump_lnk, State.updMbx_lnk]

@[simp] theorem State.mailRejected_boxes (s : State) (m : Nat) : (s.mailRejected m).mbx.boxes = s.mbx.boxes := by
  simp [State.mailRejected]

theorem State.mailRejected_keepsBut (s : State) (m : Nat) : KeepsBut [.mbx, .lnk, .tel] s (s.mailRejected m) :=
  ⟨by simp [State.mailRejected], fun b hb => by cases b <;> simp_all [Block.same, State.mailRejected]⟩

theorem exec_mbx (f : Frame) (macOk : Bool) (s : State) : exec (.mbx f macOk) s = execMbx f macOk s := rfl

/-- The state a message for a full mailbox leads to: rejected, answered with MBX_NAK, its buffer entry released. -/
def State.mbxNaked (s : State) (e : Nat) (f : Frame) : State :=
  ((((s.heard e f).rxTake e 2).mailRejected (16 + f.port.val)).sendFrame e
    { typ := 0x05, vc := 2, answers := f.seq }).rxRelease e 2

theorem execMbx_full {f : Frame} {e : Nat} (macOk : Bool) {s : State} (h : CreditedArrives s f e 4)
    (hfull : 4 ≤ (s.mbx.boxes.get (16 + f.port.val)).length) : exec (.mbx f macOk) s = .next (s.mbxNaked e f) := by
  have hfull' : 4 ≤ (((s.heard e f).rxTake e (frameVc 4)).mbx.boxes.get (16 + f.port.val)).length := hfull
  rw [exec_mbx, execMbx, h.onCredited_eq]
  dsimp only
  rw [State.mailPut_full _ hfull']
  rfl

/-- The message itself gives its credit back. -/
theorem State.mbxNaked_entries_free {s : State} {f : Frame} {e : Nat} (h : CreditedArrives s f e 4) :
    (s.mbxNaked e f).cons (cid 0x53 (lnkIdx e 2)) = s.cons (cid 0x53 (lnkIdx e 2)) := by
  have hfree : 0 < s.cons (cid 0x53 (lnkIdx e 2)) := h.free
  rw [State.mbxNaked, State.rxRelease_cons_same, State.sendFrame_cons_ne _ _ _ (by simp) (by simp),
    State.mailRejected_cons, State.rxTake_cons_same, State.heard_cons]
  omega

/-- Its MBX_NAK takes one, if the entry reads UP. -/
theorem State.mbxNaked_credits_left {s : State} (e : Nat) (f : Frame) (hc : 0 < s.cons (cid 0x50 (lnkIdx e 2))) :
    (s.mbxNaked e f).cons (cid 0x50 (lnkIdx e 2)) + b2n (decide ((s.peer e).st = .up)) =
      s.cons (cid 0x50 (lnkIdx e 2)) := by
  have hbefore : (((s.heard e f).rxTake e 2).mailRejected (16 + f.port.val)).cons (cid 0x50 (lnkIdx e 2)) =
      s.cons (cid 0x50 (lnkIdx e 2)) := by
    rw [State.mailRejected_cons, State.rxTake_cons_family _ _ _ (by decide) (by decide), State.heard_cons]
  have hnak := State.sendFrame_credits_left _ e (f := { typ := 0x05, vc := 2, answers := f.seq }) (by rfl)
    (hbefore ▸ hc)
  rw [State.mailRejected_peer, State.rxTake_peer, (s.heard_session e f).1, hbefore] at hnak
  rw [State.mbxNaked, State.rxRelease_cons_family _ _ _ (by decide) (by decide)]
  exact hnak

theorem State.mbxNaked_keepsBut (s : State) (e : Nat) (f : Frame) : KeepsBut [.mbx, .lnk, .tel] s (s.mbxNaked e f) := by
  have hlink : ∀ b ∈ [Block.lnk, .tel], b ∈ [Block.mbx, .lnk, .tel] := fun _ => List.mem_cons_of_mem _
  have htaken := ((s.updPeer_keepsBut e _).trans ((s.heard e f).rxTake_keepsBut e 2)).mono hlink
  exact (htaken.trans (State.mailRejected_keepsBut _ _)).trans
    (((State.sendFrame_keepsBut _ e _).trans (State.rxRelease_keepsBut _ e 2)).mono hlink)

theorem State.mbxNaked_boxes (s : State) (e : Nat) (f : Frame) : (s.mbxNaked e f).mbx.boxes = s.mbx.boxes := by
  rw [State.mbxNaked, (State.rxRelease_keepsBut _ e 2).2 .mbx (by decide),
    (State.sendFrame_keepsBut _ e _).2 .mbx (by decide), State.mailRejected_boxes,
    ((s.heard e f).rxTake_keepsBut e 2).2 .mbx (by decide), State.heard, State.updPeer_mbx]

/-! ### Peer tables -/

/-- In a canonical peer table the entry a frame arrives on reads UP. -/
theorem State.frameEntry_up {s : State} {f : Frame} {e : Nat} (hwf : Tbl.wf s.lnk.peers = true)
    (he : s.frameEntry f = some e) : (s.peer e).st = .up := by
  obtain ⟨p, hp, rfl⟩ := List.mem_map.1 (List.mem_of_find?_eq_some he)
  obtain ⟨hmem, hup⟩ := List.mem_filter.1 hp
  rw [State.peer, Tbl.get_of_mem (Tbl.nodup_of_wfFrom hwf) p hmem]
  exact of_decide_eq_true hup

/-- What R436 and R448 say of a full mailbox, where the peer table is canonical. -/
theorem execMbx_full_of_wf {f : Frame} {e : Nat} (macOk : Bool) {s : State} (hwf : Tbl.wf s.lnk.peers = true)
    (h : CreditedArrives s f e 4) (hfull : 4 ≤ (s.mbx.boxes.get (16 + f.port.val)).length)
    (hc : 0 < s.cons (cid 0x50 (lnkIdx e 2))) :
    ∃ t, exec (.mbx f macOk) s = .next t ∧ t.mbx.boxes = s.mbx.boxes ∧
      t.cons (cid 0x50 (lnkIdx e 2)) + 1 = s.cons (cid 0x50 (lnkIdx e 2)) ∧
      t.cons (cid 0x53 (lnkIdx e 2)) = s.cons (cid 0x53 (lnkIdx e 2)) ∧ KeepsBut [.mbx, .lnk, .tel] s t := by
  have hcredits := State.mbxNaked_credits_left e f hc
  rw [State.frameEntry_up hwf h.entry] at hcredits
  exact ⟨_, execMbx_full macOk h hfull, s.mbxNaked_boxes e f, hcredits, State.mbxNaked_entries_free h,
    s.mbxNaked_keepsBut e f⟩

/-- A peer table that lists entry 0 twice, DOWN and then UP, with one credit and one buffer entry free on its VC2, and
mailbox 16 full. -/
def State.listedTwice : State :=
  { lnk := { peers := [(0, { st := .down }), (0, { st := .up })] }
    tel := { cons := [(cid 0x50 (lnkIdx 0 2), 1), (cid 0x53 (lnkIdx 0 2), 1)] }
    mbx := { boxes := [(16, List.replicate 4 {})] } }

end Sys2Proof.Machine

namespace Sys2Proof

open Machine

/-- Refutes O54 by its clause on a full mailbox: where the peer table lists entry 0 DOWN and again UP, a message finds the
UP listing while the entry reads DOWN, so that no MBX_NAK goes and no credit is taken.  In a canonical peer table the clause
holds (`execMbx_full_of_wf`). -/
theorem not_linkFrames : ¬ Obligations.LinkFrames := by
  unfold Obligations.LinkFrames
  rintro ⟨-, -, -, -, -, -, hnaked, -⟩
  have harrives : CreditedArrives State.listedTwice {} 0 4 := by constructor <;> decide
  have hfull : 4 ≤ (State.listedTwice.mbx.boxes.get 16).length := by decide
  have hc : 0 < State.listedTwice.cons (cid 0x50 (lnkIdx 0 2)) := by decide
  have hdown : (State.listedTwice.peer 0).st = .down := by decide
  obtain ⟨t, hexec, -, htaken, -, -⟩ := hnaked {} 0 true State.listedTwice
    ⟨harrives.entry, harrives.gen, harrives.tag, harrives.carried, harrives.free⟩ hfull hc
  obtain rfl : State.listedTwice.mbxNaked 0 {} = t := by
    rw [execMbx_full true harrives hfull] at hexec
    exact Host.Outcome.next.inj hexec
  have hkept := State.mbxNaked_credits_left 0 {} hc
  rw [hdown] at hkept
  exact absurd (htaken.trans hkept.symm) (by simp [b2n])

end Sys2Proof

/-! Frames (serves every obligation below): which blocks of the state an operation can change, and that memory keeps its canonical
form.  `Within l a t` says both from `a` to `t`; each operation of the model has a lemma that carries it, most of them as an
equivalence for `simp`, the ones that write bytes of memory as an implication.  First the updates of single blocks. -/

namespace Sys2Proof
open Machine

/-- Every block of the state. -/
def allBlocks : List Block :=
  [.time, .fresh, .glb, .peg, .host, .ctxs, .kvp, .arr, .atn, .dpp, .tsu, .mem, .dma, .drn, .sec, .vid, .mbx, .lnk, .ctl, .clk,
   .pwr, .settings, .settingsPrev, .tel, .board]

@[simp] theorem mem_allBlocks (b : Block) : b ∈ allBlocks := by cases b <;> decide

/-- From `a` to `t` only blocks of `l` have changed, and memory has kept its canonical form. -/
structure Within (l : List Block) (a t : State) : Prop where
  keeps : KeepsBut l a t
  memWf : MemWf a → MemWf t

@[simp] theorem Within.refl (l : List Block) (a : State) : Within l a a := ⟨KeepsBut.refl l a, id⟩

theorem Within.trans {l : List Block} {a s t : State} (h : Within l a s) (k : Within l s t) : Within l a t :=
  ⟨h.keeps.trans k.keeps, k.memWf ∘ h.memWf⟩

theorem Block.same_symm {b : Block} {s t : State} (h : b.same s t) : b.same t s := by
  cases b <;> exact Eq.symm h

/-- A step that changes only blocks of the frame, and not memory, does not show in the frame. -/
theorem Within.iff_of_keeps {l m : List Block} {a s t : State} (h : KeepsBut m s t) (hm : .mem ∉ m) (hl : ∀ b ∈ m, b ∈ l) :
    Within l a t ↔ Within l a s := by
  have hmem : t.mem = s.mem := h.2 .mem hm
  have hst : KeepsBut l s t := h.mono hl
  have hts : KeepsBut l t s := ⟨hst.1.symm, fun b hb => Block.same_symm (hst.2 b hb)⟩
  have hwf : MemWf t ↔ MemWf s := by rw [MemWf, hmem, MemWf]
  exact ⟨fun k => ⟨k.keeps.trans hts, fun w => hwf.1 (k.memWf w)⟩, fun k => ⟨k.keeps.trans hst, fun w => hwf.2 (k.memWf w)⟩⟩

namespace Machine

section
variable {l : List Block} {a s : State}

@[simp] theorem within_ite {t : State} (c : Prop) [Decidable c] :
    Within l a (if c then s else t) ↔ if c then Within l a s else Within l a t := by
  split <;> rfl

theorem foldS_within {α : Type} (f : State → α → State) (xs : List α) (hf : ∀ s x, Within l a (f s x) ↔ Within l a s) :
    Within l a (foldS xs f s) ↔ Within l a s := by
  induction xs generalizing s with
  | nil => rfl
  | cons x r ih => rw [foldS_cons, ih, hf]

theorem foldl_within {α : Type} (f : State → α → State) (xs : List α) (hf : ∀ s x, Within l a (f s x) ↔ Within l a s) :
    Within l a (xs.foldl f s) ↔ Within l a s := foldS_within f xs hf

@[simp] theorem State.updHost_within (g : HostIf → HostIf) (h : .host ∈ l) : Within l a (s.updHost g) ↔ Within l a s :=
  Within.iff_of_keeps (m := [.host]) ⟨rfl, fun b hb => by cases b <;> simp_all [Block.same]⟩ (by decide) (by simpa using h)
@[simp] theorem State.updGlb_within (g : Glb → Glb) (h : .glb ∈ l) : Within l a (s.updGlb g) ↔ Within l a s :=
  Within.iff_of_keeps (m := [.glb]) ⟨rfl, fun b hb => by cases b <;> simp_all [Block.same]⟩ (by decide) (by simpa using h)
@[simp] theorem State.updTel_within (g : Tel → Tel) (h : .tel ∈ l) : Within l a (s.updTel g) ↔ Within l a s :=
  Within.iff_of_keeps (m := [.tel]) ⟨rfl, fun b hb => by cases b <;> simp_all [Block.same]⟩ (by decide) (by simpa using h)
@[simp] theorem State.updKvp_within (g : Kvp → Kvp) (h : .kvp ∈ l) : Within l a (s.updKvp g) ↔ Within l a s :=
  Within.iff_of_keeps (m := [.kvp]) ⟨rfl, fun b hb => by cases b <;> simp_all [Block.same]⟩ (by decide) (by simpa using h)
@[simp] theorem State.updPeg_within (g : PegUnit → PegUnit) (h : .peg ∈ l) : Within l a (s.updPeg g) ↔ Within l a s :=
  Within.iff_of_keeps (m := [.peg]) ⟨rfl, fun b hb => by cases b <;> simp_all [Block.same]⟩ (by decide) (by simpa using h)
@[simp] theorem State.updArr_within (g : Arr → Arr) (h : .arr ∈ l) : Within l a (s.updArr g) ↔ Within l a s :=
  Within.iff_of_keeps (m := [.arr]) ⟨rfl, fun b hb => by cases b <;> simp_all [Block.same]⟩ (by decide) (by simpa using h)
@[simp] theorem State.updDrn_within (g : Drn → Drn) (h : .drn ∈ l) : Within l a (s.updDrn g) ↔ Within l a s :=
  Within.iff_of_keeps (m := [.drn]) ⟨rfl, fun b hb => by cases b <;> simp_all [Block.same]⟩ (by decide) (by simpa using h)
@[simp] theorem State.updSec_within (g : Sec → Sec) (h : .sec ∈ l) : Within l a (s.updSec g) ↔ Within l a s :=
  Within.iff_of_keeps (m := [.sec]) ⟨rfl, fun b hb => by cases b <;> simp_all [Block.same]⟩ (by decide) (by simpa using h)
@[simp] theorem State.updVid_within (g : Vid → Vid) (h : .vid ∈ l) : Within l a (s.updVid g) ↔ Within l a s :=
  Within.iff_of_keeps (m := [.vid]) ⟨rfl, fun b hb => by cases b <;> simp_all [Block.same]⟩ (by decide) (by simpa using h)
@[simp] theorem State.updTsu_within (g : Tsu → Tsu) (h : .tsu ∈ l) : Within l a (s.updTsu g) ↔ Within l a s :=
  Within.iff_of_keeps (m := [.tsu]) ⟨rfl, fun b hb => by cases b <;> simp_all [Block.same]⟩ (by decide) (by simpa using h)
@[simp] theorem State.updDpp_within (g : Dpp → Dpp) (h : .dpp ∈ l) : Within l a (s.updDpp g) ↔ Within l a s :=
  Within.iff_of_keeps (m := [.dpp]) ⟨rfl, fun b hb => by cases b <;> simp_all [Block.same]⟩ (by decide) (by simpa using h)
@[simp] theorem State.updDma_within (g : Dma → Dma) (h : .dma ∈ l) : Within l a (s.updDma g) ↔ Within l a s :=
  Within.iff_of_keeps (m := [.dma]) ⟨rfl, fun b hb => by cases b <;> simp_all [Block.same]⟩ (by decide) (by simpa using h)
@[simp] theorem State.updMbx_within (g : Mbx → Mbx) (h : .mbx ∈ l) : Within l a (s.updMbx g) ↔ Within l a s :=
  Within.iff_of_keeps (m := [.mbx]) ⟨rfl, fun b hb => by cases b <;> simp_all [Block.same]⟩ (by decide) (by simpa using h)
@[simp] theorem State.updLnk_within (g : Lnk → Lnk) (h : .lnk ∈ l) : Within l a (s.updLnk g) ↔ Within l a s :=
  Within.iff_of_keeps (m := [.lnk]) ⟨rfl, fun b hb => by cases b <;> simp_all [Block.same]⟩ (by decide) (by simpa using h)
@[simp] theorem State.updCtl_within (g : Ctl → Ctl) (h : .ctl ∈ l) : Within l a (s.updCtl g) ↔ Within l a s :=
  Within.iff_of_keeps (m := [.ctl]) ⟨rfl, fun b hb => by cases b <;> simp_all [Block.same]⟩ (by decide) (by simpa using h)
@[simp] theorem State.updClk_within (g : Clk → Clk) (h : .clk ∈ l) : Within l a (s.updClk g) ↔ Within l a s :=
  Within.iff_of_keeps (m := [.clk]) ⟨rfl, fun b hb => by cases b <;> simp_all [Block.same]⟩ (by decide) (by simpa using h)
@[simp] theorem State.updPwr_within (g : Pwr → Pwr) (h : .pwr ∈ l) : Within l a (s.updPwr g) ↔ Within l a s :=
  Within.iff_of_keeps (m := [.pwr]) ⟨rfl, fun b hb => by cases b <;> simp_all [Block.same]⟩ (by decide) (by simpa using h)
@[simp] theorem State.updBoard_within (g : Board → Board) (h : .board ∈ l) : Within l a (s.updBoard g) ↔ Within l a s :=
  Within.iff_of_keeps (m := [.board]) ⟨rfl, fun b hb => by cases b <;> simp_all [Block.same]⟩ (by decide) (by simpa using h)
@[simp] theorem State.updCtx_within (c : Nat) (g : Ctx → Ctx) (h : .ctxs ∈ l) : Within l a (s.updCtx c g) ↔ Within l a s :=
  Within.iff_of_keeps (m := [.ctxs]) ⟨rfl, fun b hb => by cases b <;> simp_all [Block.same]⟩ (by decide) (by simpa using h)
@[simp] theorem State.draw_within (h : .fresh ∈ l) : Within l a s.draw.2 ↔ Within l a s :=
  Within.iff_of_keeps (m := [.fresh]) ⟨rfl, fun b hb => by cases b <;> simp_all [Block.same, State.draw]⟩ (by decide) (by simpa using h)
/-- A change of memory that leaves its bytes (translation entries, poison bits, frames) does not touch the canonical form. -/
@[simp] theorem State.updMem_within_iff (g : Mem → Mem) (h : .mem ∈ l) (hg : ∀ m, (g m).cells = m.cells) :
    Within l a (s.updMem g) ↔ Within l a s := by
  have hk : KeepsBut l s (s.updMem g) := ⟨rfl, fun b hb => by cases b <;> simp_all [Block.same]⟩
  have hk' : KeepsBut l (s.updMem g) s := ⟨rfl, fun b hb => Block.same_symm (hk.2 b hb)⟩
  have hwf : MemWf (s.updMem g) ↔ MemWf s := by simp only [MemWf, Mem.wf, State.updMem_mem, hg]
  exact ⟨fun k => ⟨k.keeps.trans hk', fun w => hwf.1 (k.memWf w)⟩, fun k => ⟨k.keeps.trans hk, fun w => hwf.2 (k.memWf w)⟩⟩
theorem State.updMem_within (g : Mem → Mem) (h : .mem ∈ l) (hg : s.mem.wf = true → (g s.mem).wf = true) (hs : Within l a s) :
    Within l a (s.updMem g) :=
  hs.trans ⟨⟨rfl, fun b hb => by cases b <;> simp_all [Block.same]⟩, hg⟩
@[simp] theorem State.wipe_within (lo hi : Nat) (h : .mem ∈ l) (hs : Within l a s) :
    Within l a (s.updMem fun m => m.wipe lo hi) := State.updMem_within _ h (Mem.wf_wipe _ _ _) hs

end
end Machine
end Sys2Proof

/-! Frames of the shared operations, Darner, flags and KV pages. -/

namespace Sys2Proof.Machine
open Sys2Proof
section
variable {l : List Block} {a s : State}

@[simp] theorem State.updFunc_within (k : Nat) (f : Func → Func) (h : .host ∈ l) :
    Within l a (s.updFunc k f) ↔ Within l a s := by
  simp [State.updFunc, h]

@[simp] theorem State.updRing_within (f n : Nat) (g : Ring → Ring) (h : .host ∈ l) :
    Within l a (s.updRing f n g) ↔ Within l a s := by
  simp [State.updRing, h]

@[simp] theorem State.notOwner_within (h : .ctl ∈ l) : Within l a s.notOwner ↔ Within l a s := by
  simp [State.notOwner, h]

@[simp] theorem State.updActx_within (c : Nat) (f : ArrCtx → ArrCtx) (h : .arr ∈ l) :
    Within l a (s.updActx c f) ↔ Within l a s := by
  simp [State.updActx, h]

@[simp] theorem State.updCore_within (n : Nat) (f : Core → Core) (h : .arr ∈ l) :
    Within l a (s.updCore n f) ↔ Within l a s := by
  simp [State.updCore, h]

@[simp] theorem State.updChan_within (i : Nat) (f : Chan → Chan) (h : .dma ∈ l) :
    Within l a (s.updChan i f) ↔ Within l a s := by
  simp [State.updChan, h]

@[simp] theorem State.updLine_within (n : Nat) (f : Line → Line) (h : .peg ∈ l) :
    Within l a (s.updLine n f) ↔ Within l a s := by
  simp [State.updLine, h]

@[simp] theorem State.updPegAt_within (n : Nat) (f : Peg → Peg) (h : .peg ∈ l) :
    Within l a (s.updPegAt n f) ↔ Within l a s := by
  simp [State.updPegAt, h]

@[simp] theorem State.updPage_within (p : Nat) (f : Page → Page) (h : .kvp ∈ l) :
    Within l a (s.updPage p f) ↔ Within l a s := by
  simp [State.updPage, h]

@[simp] theorem State.updSess_within (k : Nat) (f : Sess → Sess) (h : .vid ∈ l) :
    Within l a (s.updSess k f) ↔ Within l a s := by
  simp [State.updSess, h]

@[simp] theorem State.updPeer_within (e : Nat) (f : Peer → Peer) (h : .lnk ∈ l) :
    Within l a (s.updPeer e f) ↔ Within l a s := by
  simp [State.updPeer, h]

@[simp] theorem State.updPort_within (p : Nat) (f : Port → Port) (h : .lnk ∈ l) :
    Within l a (s.updPort p f) ↔ Within l a s := by
  simp [State.updPort, h]

@[simp] theorem State.tick_within (h : .time ∈ l) : Within l a s.tick ↔ Within l a s := by
  refine Within.iff_of_keeps (m := [.time]) ⟨by simp, fun b hb => ?_⟩ (by decide) (by simpa using h)
  cases b <;> simp_all [Block.same]

theorem State.choose_within {xs : List Nat} {p : Nat × State} (e : s.choose xs = some p) (h : .fresh ∈ l) :
    Within l a p.2 ↔ Within l a s := by
  unfold State.choose at e
  split at e <;> simp_all
  · simp [← e]
  · simp [← e, h]

@[simp] theorem State.freeRun_within (k n : Nat) (h : .fresh ∈ l ∧ .mem ∈ l) (hs : Within l a s) : Within l a (s.freeRun k n) := by
  unfold State.freeRun
  refine State.updMem_within _ h.2 (fun w => Mem.wf_putAll _ _ _ w) (hs.trans ⟨⟨rfl, fun b hb => ?_⟩, id⟩)
  cases b <;> simp_all [Block.same]

@[simp] theorem State.putBytes_within (k : Nat) (bs : List Byte) (h : .mem ∈ l) (hs : Within l a s) : Within l a (s.putBytes k bs) :=
  State.updMem_within _ h (Mem.wf_putAll _ _ _) hs

@[simp] theorem State.putClean_within (k : Nat) (bs : List Byte) (h : .mem ∈ l) (hs : Within l a s) : Within l a (s.putClean k bs) :=
  State.updMem_within _ h (fun w => Mem.wf_putAll bs _ k w) hs

@[simp] theorem State.consAdd_within (id n : Nat) (h : .tel ∈ l) : Within l a (s.consAdd id n) ↔ Within l a s := by
  simp [State.consAdd, h]

@[simp] theorem State.consSet_within (id n : Nat) (h : .tel ∈ l) : Within l a (s.consSet id n) ↔ Within l a s := by
  simp [State.consSet, h]

@[simp] theorem State.lifetime_within (kind : Nat) (payload : List Nat) (h : .tel ∈ l) :
    Within l a (s.lifetime kind payload) ↔ Within l a s := by
  simp [State.lifetime, h]

@[simp] theorem State.bumpBy_within (off n : Nat) (h : .tel ∈ l) : Within l a (s.bumpBy off n) ↔ Within l a s := by
  simp [State.bumpBy, h]

@[simp] theorem State.bump_within (off : Nat) (h : .tel ∈ l) : Within l a (s.bump off) ↔ Within l a s := by
  simp [State.bump, h]

@[simp] theorem State.sample_within (h_ v : Nat) (h : .tel ∈ l) : Within l a (s.sample h_ v) ↔ Within l a s := by
  simp [State.sample, h]

@[simp] theorem State.doorbell_within (f j : Nat) (h : .host ∈ l) : Within l a (s.doorbell f j) ↔ Within l a s := by
  simp [State.doorbell, h]

@[simp] theorem State.sendPending_within (f : Nat) (bits : Word) (h : .host ∈ l) :
    Within l a (s.sendPending f bits) ↔ Within l a s := by
  simp [State.sendPending, foldS_within, h]

@[simp] theorem State.hostPut_within (f a_ : Nat) (bs : List Byte) (h : .host ∈ l) :
    Within l a (s.hostPut f a_ bs) ↔ Within l a s := by
  simp [State.hostPut, h]

@[simp] theorem State.answer_within (v : Nat) (h : .host ∈ l) : Within l a (s.answer v) ↔ Within l a s := by
  simp [State.answer, h]

@[simp] theorem State.writeEntry_within (f n : Nat) (c : Completion) (noIrq : Bool) (h : .host ∈ l) :
    Within l a (s.writeEntry f n c noIrq) ↔ Within l a s := by
  simp [State.writeEntry, h]

@[simp] theorem State.finish_within (f n : Nat) (seq : Word) (since : Nat) (noIrq : Bool) (r : Reply) (h : .tel ∈ l ∧ .host ∈ l) :
    Within l a (s.finish f n seq since noIrq r) ↔ Within l a s := by
  simp [State.finish, foldS_within, h]

@[simp] theorem State.finishBadSeq_within (c : Cmd) (detail : Nat) (h : .tel ∈ l ∧ .host ∈ l) :
    Within l a (s.finishBadSeq c detail) ↔ Within l a s := by
  simp [State.finishBadSeq, h]

@[simp] theorem State.complete_within (i : Inflight) (r : Reply) (h : .tel ∈ l ∧ .host ∈ l) :
    Within l a (s.complete i r) ↔ Within l a s := by
  simp [State.complete, h]

@[simp] theorem State.completeAll_within (p : WaitFor → Bool) (g : Inflight → Reply) (h : .tel ∈ l ∧ .host ∈ l) :
    Within l a (s.completeAll p g) ↔ Within l a s := by
  simp [State.completeAll, foldS_within, h]

@[simp] theorem State.withWait_within (r : Reply) (h : .fresh ∈ l) : Within l a (s.withWait r).1 ↔ Within l a s := by
  unfold State.withWait; split <;> simp [h]

@[simp] theorem State.turnAway_within (f : Nat) (h : .host ∈ l) : Within l a (s.turnAway f) ↔ Within l a s := by
  simp [State.turnAway, h]

@[simp] theorem State.takeEntry_within (f n : Nat) (h : .host ∈ l) : Within l a (s.takeEntry f n) ↔ Within l a s := by
  simp [State.takeEntry, h]

@[simp] theorem State.fetched_within (c : Cmd) (h : .tel ∈ l ∧ .host ∈ l) : Within l a (s.fetched c) ↔ Within l a s := by
  simp [State.fetched, h]

/-- The state a chapter leaves, whether it answers now or later. -/
def Verdict.state : Verdict → State
  | .reply s _ => s
  | .later s _ => s

@[simp] theorem Verdict.state_reply (r : Reply) : (Verdict.reply s r).state = s := rfl
@[simp] theorem Verdict.state_later (w : WaitFor) : (Verdict.later s w).state = s := rfl
@[simp] theorem refuse_state (r : Reply) : (refuse s r).state = s := rfl
@[simp] theorem Verdict.state_ite (c : Prop) [Decidable c] (v w : Verdict) :
    (if c then v else w).state = if c then v.state else w.state := by split <;> rfl

theorem State.checked_state (c : Cmd) (feats : List Nat) (body : State → Verdict) :
    (s.checked c feats body).state = if (s.gate c feats).isSome then s else if Cmd.badFlags c then s else (body s).state := by
  unfold State.checked
  split
  case _ r hr => simp [hr]
  case _ hr => simp [hr]

@[simp] theorem State.conclude_within (c : Cmd) (v : Verdict) (h : .tel ∈ l ∧ .host ∈ l ∧ .fresh ∈ l) :
    Within l a (State.conclude c v) ↔ Within l a v.state := by
  cases v <;> simp [State.conclude, h]

@[simp] theorem State.outOfSeq_within (c : Cmd) (h : .tel ∈ l ∧ .host ∈ l) : Within l a (s.outOfSeq c) ↔ Within l a s := by
  unfold State.outOfSeq; dsimp only; (repeat' split) <;> simp [h]

theorem State.command_within (c : Cmd) (feats : List Nat) (body : State → Verdict) (h : .tel ∈ l ∧ .host ∈ l ∧ .fresh ∈ l)
    (hb : ∀ t, Within l a t → Within l a (body t).state) (hs : Within l a s) : Within l a (s.command c feats body) := by
  have hf : Within l a (s.fetched c) := by simp [h, hs]
  have := hb _ hf
  simp [State.command, State.checked_state, h, hs, this]

theorem State.row_within (c : Cmd) (opcode : Nat) (feats : List Nat) (body : State → Verdict)
    (h : .tel ∈ l ∧ .host ∈ l ∧ .fresh ∈ l) (hb : ∀ t, Within l a t → Within l a (body t).state) (hs : Within l a s) :
    Within l a (s.row c opcode feats body) := by
  unfold State.row; split
  · exact State.command_within c feats body h hb hs
  · exact hs

@[simp] theorem needZero_state (c : Cmd) (rs : List (Nat × Nat)) (k : Verdict) :
    (needZero s c rs k).state = if (Cmd.reservedAt c rs).isSome then s else k.state := by
  unfold needZero; split <;> simp [*]

@[simp] theorem params_state (c : Cmd) (used : List (Nat × Nat)) (rules : List (Bool × Nat)) (k : Verdict) :
    (params s c used rules k).state = if (Cmd.badParam c used rules).isSome then s else k.state := by
  unfold params; split <;> simp [*]

theorem State.subRow_within (c : Cmd) (opcode : Nat) (sel : Cmd → Bool) (feats : List Nat) (body : State → Verdict)
    (h : .tel ∈ l ∧ .host ∈ l ∧ .fresh ∈ l) (hb : ∀ t, Within l a t → Within l a (body t).state) (hs : Within l a s) :
    Within l a (s.subRow c opcode sel feats body) := by
  unfold State.subRow; split
  · exact State.row_within c opcode feats body h hb hs
  · exact hs

@[simp] theorem checks_state (cs : List (Bool × Reply)) (k : Verdict) :
    (checks s cs k).state = if cs.any (·.1) then s else k.state := by
  induction cs with
  | nil => rfl
  | cons c cs ih =>
    obtain ⟨b, r⟩ := c
    cases b with
    | true => rfl
    | false => exact ih

@[simp] theorem State.clearUnits_within (c : Nat) (h : .drn ∈ l) : Within l a (s.clearUnits c) ↔ Within l a s := by
  simp [State.clearUnits, h]

@[simp] theorem State.sampleTile_within (c n : Nat) (fclass : Fin 5) (t : TileRef) (again : Bool) (h : .tel ∈ l ∧ .fresh ∈ l ∧ .drn ∈ l) :
    Within l a (s.sampleTile c n fclass t again).1 ↔ Within l a s := by
  unfold State.sampleTile; dsimp only; (repeat' split) <;> simp [h]

@[simp] theorem State.doorbellOpen_within (j : Nat) (h : .host ∈ l) : Within l a (s.doorbellOpen j) ↔ Within l a s := by
  simp [State.doorbellOpen, foldS_within, h]

@[simp] theorem State.enterDrain_within (cause : DrainCause) (h : .glb ∈ l) :
    Within l a (s.enterDrain cause) ↔ Within l a s := by
  unfold State.enterDrain
  split <;> simp [h]

@[simp] theorem State.darnerDrain_within (what bin : Nat) (h : .tel ∈ l ∧ .host ∈ l ∧ .glb ∈ l ∧ .drn ∈ l ∧ .board ∈ l) :
    Within l a (s.darnerDrain what bin) ↔ Within l a s := by
  simp [State.darnerDrain, h]

@[simp] theorem State.countBin_within (bin : Nat) (h : .drn ∈ l) : Within l a (s.countBin bin) ↔ Within l a s := by
  simp [State.countBin, h]

@[simp] theorem State.latchLast_within (verdict c core group op tile bin k : Nat) (h : .drn ∈ l) :
    Within l a (s.latchLast verdict c core group op tile bin k) ↔ Within l a s := by
  simp [State.latchLast, h]

@[simp] theorem State.chargeMinority_within (core bin : Nat) (h : .tel ∈ l ∧ .host ∈ l ∧ .glb ∈ l ∧ .drn ∈ l ∧ .board ∈ l) :
    Within l a (s.chargeMinority core bin).1 ↔ Within l a s := by
  unfold State.chargeMinority; dsimp only; split <;> simp [h]

@[simp] theorem State.pathEvent_within (bin : Nat) (h : .tel ∈ l ∧ .host ∈ l ∧ .glb ∈ l ∧ .drn ∈ l ∧ .board ∈ l) :
    Within l a (s.pathEvent bin) ↔ Within l a s := by
  simp [State.pathEvent, h]

@[simp] theorem State.verdict_within (c k : Nat) (t : Tile) (r : Referee) (h : .tel ∈ l ∧ .host ∈ l ∧ .glb ∈ l ∧ .drn ∈ l ∧ .board ∈ l) :
    Within l a (s.verdict c k t r).1 ↔ Within l a s := by
  unfold State.verdict
  split <;> simp [h]

@[simp] theorem State.residueMismatch_within (c k n op group index bin : Nat) (h : .tel ∈ l ∧ .host ∈ l ∧ .glb ∈ l ∧ .drn ∈ l ∧ .board ∈ l) :
    Within l a (s.residueMismatch c k n op group index bin).1 ↔ Within l a s := by
  simp [State.residueMismatch, h]

@[simp] theorem State.lockstepDrain_within (last : Option Nat) (what : Nat) (h : .tel ∈ l ∧ .host ∈ l ∧ .glb ∈ l ∧ .drn ∈ l ∧ .board ∈ l) :
    Within l a (s.lockstepDrain last what) ↔ Within l a s := by
  unfold State.lockstepDrain
  split <;> simp [h]

@[simp] theorem State.releaseBins_within (h : .drn ∈ l) : Within l a s.releaseBins ↔ Within l a s := by
  simp [State.releaseBins, h]

@[simp] theorem State.mstepTick_within (h : .tel ∈ l ∧ .ctl ∈ l ∧ .drn ∈ l) : Within l a s.mstepTick ↔ Within l a s := by
  simp [State.mstepTick, h]

@[simp] theorem State.bumpN_within (off n : Nat) (h : .tel ∈ l) : Within l a (s.bumpN off n) ↔ Within l a s := by
  simp [State.bumpN, h]

@[simp] theorem State.chargeSeam_within (c : Nat) (h_ : Charge) (h : .tel ∈ l ∧ .arr ∈ l) :
    Within l a (s.chargeSeam c h_) ↔ Within l a s := by
  simp [State.chargeSeam, h]

@[simp] theorem State.setAtn_within (x : Atn) (h : .atn ∈ l) : Within l a { s with atn := x } ↔ Within l a s := by
  refine Within.iff_of_keeps (m := [.atn]) ⟨rfl, fun b hb => ?_⟩ (by decide) (by simpa using h)
  cases b <;> simp_all [Block.same]

@[simp] theorem State.chargeAtn_within (c : Nat) (h_ : Charge) (h : .tel ∈ l ∧ .atn ∈ l) :
    Within l a (s.chargeAtn c h_) ↔ Within l a s := by
  simp only [State.chargeAtn, State.bumpN_within, State.setAtn_within, h]

@[simp] theorem State.chargeDpp_within (h_ : Charge) (h : .dpp ∈ l ∧ .tel ∈ l) :
    Within l a (s.chargeDpp h_) ↔ Within l a s := by
  simp [State.chargeDpp, h]

@[simp] theorem State.chargeTsu_within (c : Nat) (h_ : Charge) (h : .tel ∈ l ∧ .tsu ∈ l) :
    Within l a (s.chargeTsu c h_) ↔ Within l a s := by
  simp [State.chargeTsu, h]

@[simp] theorem State.chargeStep_within (c : Nat) (h_ : Charge) (h : .dpp ∈ l ∧ .tel ∈ l ∧ .atn ∈ l ∧ .arr ∈ l ∧ .tsu ∈ l) :
    Within l a (s.chargeStep c h_) ↔ Within l a s := by
  simp [State.chargeStep, h]

@[simp] theorem State.unitEnter_within (c : Nat) (k : Bool) (h : .tel ∈ l) :
    Within l a (s.unitEnter c k) ↔ Within l a s := by
  simp [State.unitEnter, h]

@[simp] theorem State.retireGen_within (c : Nat) (h : .host ∈ l ∧ .sec ∈ l) :
    Within l a (s.retireGen c) ↔ Within l a s := by
  simp [State.retireGen, h]

@[simp] theorem State.unitLeave_within (c : Nat) (k : Bool) (h : .tel ∈ l ∧ .host ∈ l ∧ .sec ∈ l) :
    Within l a (s.unitLeave c k) ↔ Within l a s := by
  simp [State.unitLeave, h]

@[simp] theorem State.pageAdd_within (p : Nat) (h : .tel ∈ l ∧ .kvp ∈ l) : Within l a (s.pageAdd p) ↔ Within l a s := by
  simp [State.pageAdd, h]

@[simp] theorem State.pageFree_within (p : Nat) (h : .tel ∈ l ∧ .host ∈ l ∧ .kvp ∈ l ∧ .sec ∈ l ∧ .mem ∈ l) :
    Within l a (s.pageFree p) ↔ Within l a s := by
  simp [State.pageFree, h]

@[simp] theorem State.pageDrop_within (p k : Nat) (done : Bool) (h : .tel ∈ l ∧ .host ∈ l ∧ .kvp ∈ l ∧ .sec ∈ l ∧ .mem ∈ l) :
    Within l a (s.pageDrop p k done) ↔ Within l a s := by
  simp [State.pageDrop, h]

theorem State.pageAlloc_within {c : Nat} {copy : Bool} {p : Nat × State} (e : s.pageAlloc c copy = some p)
    (h : .tel ∈ l ∧ .kvp ∈ l) : Within l a p.2 ↔ Within l a s := by
  simp only [State.pageAlloc, Option.map_eq_some_iff] at e
  obtain ⟨q, -, rfl⟩ := e
  simp [h]

@[simp] theorem State.loadLists_within (slot : Nat) (ents : List ListEnt) (h : .kvp ∈ l ∧ .mem ∈ l) (hs : Within l a s) :
    Within l a (s.loadLists slot ents) := by
  unfold State.loadLists
  refine State.updMem_within _ h.2 (fun w => ?_) (by simp [h, hs])
  exact Mem.wf_putAll _ _ _ (Mem.wf_putAll _ _ _ (Mem.wf_wipe _ _ _ w))

theorem State.swapRoot_within (c slot : Nat) (valid : Bool) (ents : List ListEnt) (h : .kvp ∈ l ∧ .mem ∈ l)
    (hs : Within l a s) : Within l a (s.swapRoot c slot valid ents) := by
  simp [State.swapRoot, h, State.loadLists_within slot ents h hs]

theorem Applied.drop_within {x : Applied} (k : Nat) (done again : Bool) (p : Nat)
    (h : .tel ∈ l ∧ .host ∈ l ∧ .kvp ∈ l ∧ .sec ∈ l ∧ .mem ∈ l) (hs : Within l a x.s) : Within l a (x.drop k done again p).s :=
  (State.pageDrop_within p k done h).2 hs

@[simp] theorem Applied.add_within {x : Applied} (p : Nat) (h : .tel ∈ l ∧ .kvp ∈ l) : Within l a (x.add p).s ↔ Within l a x.s := by
  simp [Applied.add, h]

@[simp] theorem Applied.setList_s (x : Applied) (slot : Nat) (es : Option (List ListEnt)) : (x.setList slot es).s = x.s := rfl

@[simp] theorem Applied.edit_s (x : Applied) (e : ListEdit) : (x.edit e).s = x.s := by
  cases e
  case clear => simp only [Applied.edit]; split <;> rfl
  all_goals rfl

@[simp] theorem foldl_edit_s (es : List ListEdit) (x : Applied) : (es.foldl Applied.edit x).s = x.s :=
  List.foldlRecOn es Applied.edit (motive := fun y : Applied => y.s = x.s) rfl fun y hy e _ => by simp [hy]

@[simp] theorem foldl_setList_s (f : Applied → Nat × Nat → Option (List ListEnt)) (js : List (Nat × Nat)) (x : Applied) :
    (js.foldl (fun y j => y.setList j.1 (f y j)) x).s = x.s :=
  List.foldlRecOn js _ (motive := fun y : Applied => y.s = x.s) rfl fun y hy j _ => by simp [hy]

theorem foldl_add_within {x : Applied} (ps : List Nat) (h : .tel ∈ l ∧ .kvp ∈ l) (hs : Within l a x.s) :
    Within l a (ps.foldl Applied.add x).s :=
  List.foldlRecOn ps _ (motive := fun y : Applied => Within l a y.s) hs fun y hy p _ => by simpa [h] using hy

theorem Applied.alloc_within {x : Applied} (c : Nat) (q : AllocReq) (h : .tel ∈ l ∧ .kvp ∈ l ∧ .ctxs ∈ l)
    (hs : Within l a x.s) : Within l a (x.alloc c q).s := by
  unfold Applied.alloc
  split
  · exact hs
  case _ p t e =>
    have ht : Within l a t := (State.pageAlloc_within e ⟨h.1, h.2.1⟩).2 hs
    cases q.copyOf <;> cases q.req <;> simp [h, ht, foldl_add_within]

theorem Applied.serve_within {x : Applied} (c : Nat) (qs : List AllocReq) (h : .tel ∈ l ∧ .kvp ∈ l ∧ .ctxs ∈ l)
    (hs : Within l a x.s) : Within l a (x.serve c qs).s := by
  unfold Applied.serve
  split
  · exact List.foldlRecOn qs _ (motive := fun y : Applied => Within l a y.s) hs fun y hy q _ => Applied.alloc_within c q h hy
  · simp [h, hs]

theorem State.applyOnce_within (c k : Nat) (done : Bool) (g : Staged)
    (h : .tel ∈ l ∧ .host ∈ l ∧ .kvp ∈ l ∧ .sec ∈ l ∧ .mem ∈ l ∧ .ctxs ∈ l) (hs : Within l a s) :
    Within l a (s.applyOnce c k done g).s := by
  obtain ⟨htel, hhost, hkvp, hsec, hmem, hctxs⟩ := h
  have hdrop (x : Applied) (ps : List Nat) (again : Bool) (hx : Within l a x.s) :
      Within l a (ps.foldl (Applied.drop · k done again) x).s :=
    List.foldlRecOn ps _ (motive := fun y : Applied => Within l a y.s) hx fun y hy p _ =>
      Applied.drop_within k done again p ⟨htel, hhost, hkvp, hsec, hmem⟩ hy
  have hserve (x : Applied) (qss : List (List AllocReq)) (hx : Within l a x.s) :
      Within l a (qss.foldl (Applied.serve · c) x).s :=
    List.foldlRecOn qss _ (motive := fun y : Applied => Within l a y.s) hx fun y hy qs _ =>
      Applied.serve_within c qs ⟨htel, hkvp, hctxs⟩ hy
  unfold State.applyOnce
  refine List.foldlRecOn _ _ (motive := fun y : Applied => Within l a y.s) ?_ fun y hy e _ =>
    State.swapRoot_within c _ _ _ ⟨hkvp, hmem⟩ hy
  refine foldl_add_within _ ⟨htel, hkvp⟩ ?_
  rw [foldl_edit_s]
  refine hserve _ _ ?_
  rw [foldl_edit_s]
  exact hdrop _ _ _ (hdrop _ _ _ hs)

theorem State.applyFit_within (c k : Nat) (done : Bool) (g : Staged) (lost : List AllocReq) (n : Nat) (out : List Nat)
    (h : .tel ∈ l ∧ .host ∈ l ∧ .kvp ∈ l ∧ .sec ∈ l ∧ .mem ∈ l ∧ .ctxs ∈ l) (hs : Within l a s) :
    Within l a (s.applyFit c k done g lost n out).s := by
  induction n generalizing s lost out with
  | zero => exact State.applyOnce_within c k done _ h hs
  | succ n ih =>
    simp only [State.applyFit]
    split
    · exact State.applyOnce_within c k done _ h hs
    · exact ih _ _ (by simp [h, hs])

theorem State.applyEdits_within (c k : Nat) (done : Bool) (commit : Option Nat)
    (h : .tel ∈ l ∧ .host ∈ l ∧ .kvp ∈ l ∧ .sec ∈ l ∧ .mem ∈ l ∧ .ctxs ∈ l) (hs : Within l a s) :
    Within l a (s.applyEdits c k done commit).s := by
  obtain ⟨htel, hhost, hkvp, hsec, hmem, hctxs⟩ := h
  unfold State.applyEdits
  dsimp only
  rw [State.updCtx_within _ _ hctxs]
  refine State.applyFit_within c k done _ _ _ _ ⟨htel, hhost, hkvp, hsec, hmem, hctxs⟩ ?_
  exact foldS_preserves _ (Within l a) _ _ (fun t p ht => (State.pageFree_within p ⟨htel, hhost, hkvp, hsec, hmem⟩).2 ht)
    (by simp [hctxs, hs])

@[simp] theorem State.stage_within (c : Nat) (f : Staged → Staged) (h : .ctxs ∈ l) :
    Within l a (s.stage c f) ↔ Within l a s := by
  simp [State.stage, h]

theorem State.reverseOne_within (c : Nat) (u : Undo)
    (h : .tel ∈ l ∧ .host ∈ l ∧ .tsu ∈ l ∧ .kvp ∈ l ∧ .sec ∈ l ∧ .mem ∈ l ∧ .ctxs ∈ l) (hs : Within l a s) :
    Within l a (s.reverseOne c u) := by
  obtain ⟨htel, hhost, htsu, hkvp, hsec, hmem, hctxs⟩ := h
  cases u with
  | swapped slot r es =>
    simp only [State.reverseOne, State.updKvp_within, hkvp]
    exact State.loadLists_within slot es ⟨hkvp, hmem⟩ hs
  | _ => simp [State.reverseOne, *]

theorem State.reverseAll_within (c : Nat) (u : List Undo)
    (h : .tel ∈ l ∧ .host ∈ l ∧ .tsu ∈ l ∧ .kvp ∈ l ∧ .sec ∈ l ∧ .mem ∈ l ∧ .ctxs ∈ l) (hs : Within l a s) :
    Within l a (s.reverseAll c u) :=
  foldS_preserves _ (Within l a) _ _ (fun _ u ht => State.reverseOne_within c u h ht) hs

@[simp] theorem State.kvpFlag_within (c bitNo : Nat) (h : .kvp ∈ l) : Within l a (s.kvpFlag c bitNo) ↔ Within l a s := by
  simp [State.kvpFlag, h]

@[simp] theorem State.latchPoison_within (c p : Nat) (h : .kvp ∈ l) : Within l a (s.latchPoison c p) ↔ Within l a s := by
  simp [State.latchPoison, h]

end
end Sys2Proof.Machine

/-! Frames of serving. -/

namespace Sys2Proof.Machine
open Sys2Proof
section
variable {l : List Block} {a s : State}

@[simp] theorem State.bindPeg_within (n : Nat) (b : Binding) (h : .peg ∈ l) :
    Within l a (s.bindPeg n b) ↔ Within l a s := by
  simp [State.bindPeg, h]

@[simp] theorem State.releasePeg_within (peg : Option Nat) (b : Binding) (h : .peg ∈ l) :
    Within l a (s.releasePeg peg b) ↔ Within l a s := by
  unfold State.releasePeg
  split <;> simp [h]

@[simp] theorem State.updAcct_within (c a_ : Nat) (f : Account → Account) (h : .ctxs ∈ l) :
    Within l a (s.updAcct c a_ f) ↔ Within l a s := by
  simp [State.updAcct, h]

@[simp] theorem State.accReserve_within (c a_ n : Nat) (h : .tel ∈ l ∧ .ctxs ∈ l) :
    Within l a (s.accReserve c a_ n) ↔ Within l a s := by
  simp [State.accReserve, h]

@[simp] theorem State.accCharge_within (c a_ n : Nat) (h : .tel ∈ l) : Within l a (s.accCharge c a_ n) ↔ Within l a s := by
  simp [State.accCharge, h]

@[simp] theorem State.accTrim_within (c a_ : Nat) (h : .tel ∈ l ∧ .ctxs ∈ l) :
    Within l a (s.accTrim c a_) ↔ Within l a s := by
  simp [State.accTrim, h]

@[simp] theorem State.accRefund_within (c a_ n : Nat) (h : .tel ∈ l ∧ .ctxs ∈ l) :
    Within l a (s.accRefund c a_ n) ↔ Within l a s := by
  simp [State.accRefund, h]

@[simp] theorem State.accGrant_within (c a_ n : Nat) (h : .tel ∈ l ∧ .ctxs ∈ l) :
    Within l a (s.accGrant c a_ n) ↔ Within l a s := by
  simp [State.accGrant, h]

@[simp] theorem State.updReq_within (c id : Nat) (f : Req → Req) (h : .ctxs ∈ l) :
    Within l a (s.updReq c id f) ↔ Within l a s := by
  simp [State.updReq, h]

@[simp] theorem State.cancelReq_within (c id tail : Nat) (late : Bool) (h : .ctxs ∈ l) :
    Within l a (s.cancelReq c id tail late) ↔ Within l a s := by
  simp [State.cancelReq, h]

@[simp] theorem State.cancelAllReqs_within (c : Nat) (h : .ctxs ∈ l) : Within l a (s.cancelAllReqs c) ↔ Within l a s := by
  simp [State.cancelAllReqs, foldS_within, h]

@[simp] theorem State.tbPut_within (c : Nat) (r : TbRec) (h : .host ∈ l ∧ .ctxs ∈ l) :
    Within l a (s.tbPut c r) ↔ Within l a s := by
  simp [State.tbPut, foldS_within, h]

@[simp] theorem tbDrainList_within (c : Nat) (rs : List TbRec) (h : .host ∈ l ∧ .ctxs ∈ l) :
    Within l a (tbDrainList c rs s) ↔ Within l a s := by
  induction rs generalizing s with
  | nil => simp [tbDrainList, h]
  | cons r rs ih => unfold tbDrainList; split <;> simp [ih, h]

@[simp] theorem State.tbDrain_within (c : Nat) (h : .host ∈ l ∧ .ctxs ∈ l) : Within l a (s.tbDrain c) ↔ Within l a s := by
  simp [State.tbDrain, h]

@[simp] theorem State.tbWrite_within (c : Nat) (r : TbRec) (h : .host ∈ l ∧ .ctxs ∈ l) :
    Within l a (s.tbWrite c r) ↔ Within l a s := by
  simp [State.tbWrite, h]

@[simp] theorem State.writeNostep_within (c : Nat) (h : .host ∈ l ∧ .ctxs ∈ l) :
    Within l a (s.writeNostep c) ↔ Within l a s := by
  simp [State.writeNostep, foldS_within, h]

@[simp] theorem State.unpinPatch_within (k : Nat) (h : .tel ∈ l ∧ .tsu ∈ l) :
    Within l a (s.unpinPatch k) ↔ Within l a s := by
  simp [State.unpinPatch, h]

@[simp] theorem State.pushUndo_within (c : Nat) (us : List Undo) (h : .ctxs ∈ l) :
    Within l a (s.pushUndo c us) ↔ Within l a s := by
  simp [State.pushUndo, h]

@[simp] theorem State.finishReq_within (c : Nat) (r : Req) (h : .tel ∈ l ∧ .peg ∈ l ∧ .ctxs ∈ l) :
    Within l a (s.finishReq c r) ↔ Within l a s := by
  simp [State.finishReq, h]

@[simp] theorem State.endReq_within (c : Nat) (r : Req) (reason : Nat) (denied : Bool) (step : Option Nat) (h : .tel ∈ l ∧ .peg ∈ l ∧ .tsu ∈ l ∧ .ctxs ∈ l) :
    Within l a (s.endReq c r reason denied step) ↔ Within l a s := by
  unfold State.endReq; dsimp only; (repeat' split) <;> simp [h]

@[simp] theorem State.joinPrefix_within (c slot : Nat) (n : Pin) (h : .ctxs ∈ l) :
    Within l a (s.joinPrefix c slot n) ↔ Within l a s := by
  simp [State.joinPrefix, foldS_within, h]

@[simp] theorem State.admitOne_within (c : Nat) (r : Req) (reservation slot pages : Nat) (pin : Option Pin) (h : .tel ∈ l ∧ .peg ∈ l ∧ .tsu ∈ l ∧ .ctxs ∈ l) :
    Within l a (s.admitOne c r reservation slot pages pin) ↔ Within l a s := by
  unfold State.admitOne; dsimp only; (repeat' split) <;> simp [h]

@[simp] theorem State.yieldSlot_within (c : Nat) (q : Req) (k : Nat) (h : .tel ∈ l ∧ .tsu ∈ l ∧ .ctxs ∈ l) :
    Within l a (s.yieldSlot c q k) ↔ Within l a s := by
  unfold State.yieldSlot; dsimp only; (repeat' split) <;> simp [h]

@[simp] theorem State.yieldSlots_within (c : Nat) (us : List Undo) (h : .tel ∈ l ∧ .tsu ∈ l ∧ .ctxs ∈ l) :
    Within l a (s.yieldSlots c us) ↔ Within l a s := by
  refine foldS_within _ us fun t u => ?_
  cases u with
  | slotReleased k id => exact foldS_within _ _ fun t q => by simp [h]
  | _ => rfl

@[simp] theorem admitList_within (c : Nat) (rs : List Req) (blocked : List Nat)
    (h : .tel ∈ l ∧ .peg ∈ l ∧ .tsu ∈ l ∧ .fresh ∈ l ∧ .ctxs ∈ l) : Within l a (admitList c rs blocked s) ↔ Within l a s := by
  induction rs generalizing s blocked with
  | nil => simp [admitList]
  | cons r rs ih =>
    unfold admitList
    dsimp only
    split
    · exact ih _
    · split
      · simp [ih]
      · split
        · simp [ih, h]
        · split
          · rfl
          · split
            · rfl
            case _ e => rw [ih, State.admitOne_within _ _ _ _ _ _ (by simp [h]), State.choose_within e h.2.2.2.1]

@[simp] theorem State.admission_within (c : Nat) (h : .tel ∈ l ∧ .peg ∈ l ∧ .tsu ∈ l ∧ .fresh ∈ l ∧ .ctxs ∈ l) :
    Within l a (s.admission c) ↔ Within l a s := by
  simp [State.admission, h]

@[simp] theorem State.boundaryEnd_within (c : Nat) (r : Req) (h : .tel ∈ l ∧ .peg ∈ l ∧ .tsu ∈ l ∧ .ctxs ∈ l) :
    Within l a (s.boundaryEnd c r) ↔ Within l a s := by
  unfold State.boundaryEnd; dsimp only; (repeat' split) <;> simp [h]

@[simp] theorem State.boundaryEnds_within (c : Nat) (h : .tel ∈ l ∧ .peg ∈ l ∧ .tsu ∈ l ∧ .ctxs ∈ l) :
    Within l a (s.boundaryEnds c) ↔ Within l a s := by
  simp [State.boundaryEnds, foldS_within, h]

theorem Build.place_within {b : Build} (c k : Nat) (g : Image) (prefill : Bool) (r : Req)
    (h : .tel ∈ l ∧ .peg ∈ l ∧ .tsu ∈ l ∧ .kvp ∈ l ∧ .ctxs ∈ l) (hs : Within l a b.s) : Within l a (b.place c k g prefill r).s := by
  unfold Build.place
  split
  · exact hs
  · split
    · exact hs
    · dsimp only
      split <;> simp [h, hs, apply_ite Build.s]

@[simp] theorem State.buildBatch_within (c k : Nat) (h : .tel ∈ l ∧ .peg ∈ l ∧ .tsu ∈ l ∧ .kvp ∈ l ∧ .ctxs ∈ l)
    (hs : Within l a s) : Within l a (s.buildBatch c k).1 := by
  unfold State.buildBatch
  split
  · exact hs
  · split
    · exact hs
    · dsimp only
      split
      · exact hs
      case _ r rs _ g _ =>
        have hb (b : Build) (qs : List Req) (hb : Within l a b.s) :
            Within l a (qs.foldl (Build.place · c k g (imgRole g == 1)) b).s :=
          List.foldlRecOn qs _ (motive := fun b : Build => Within l a b.s) hb fun b hb q _ => Build.place_within c k g _ q h hb
        split <;> exact hb _ _ hs

@[simp] theorem State.settleBatch_within (c : Nat) (x : Applied) (b : Option StepRec) (h : .tel ∈ l ∧ .fresh ∈ l ∧ .ctxs ∈ l) :
    Within l a (s.settleBatch c x b).1 ↔ Within l a s := by
  unfold State.settleBatch
  extract_lets t
  have ht : Within l a t ↔ Within l a s := foldS_within _ _ fun u r => by
    dsimp only
    split
    · rw [State.updReq_within _ _ _ h.2.2, State.lifetime_within _ _ h.1, State.draw_within h.2.1]
    · rfl
  cases b with
  | none => exact ht
  | some b => simp [foldS_within, h, ht, apply_ite Prod.fst]

@[simp] theorem State.fenceEntry_within (c k : Nat) (pre : Bool) (e : Entry) (h : .tel ∈ l ∧ .peg ∈ l ∧ .tsu ∈ l ∧ .ctxs ∈ l) :
    Within l a (s.fenceEntry c k pre e).1 ↔ Within l a s := by
  unfold State.fenceEntry
  split
  · rfl
  · split
    · rfl
    · simp [h, apply_ite Prod.fst]

@[simp] theorem State.fenceOthers_within (c k : Nat) (es : List Entry) (h : .tsu ∈ l ∧ .ctxs ∈ l) :
    Within l a (s.fenceOthers c k es) ↔ Within l a s := by
  simp [State.fenceOthers, foldS_within, h]

@[simp] theorem fenceEntries_within (c k : Nat) (pre : Bool) (es : List Entry) (h : .tel ∈ l ∧ .peg ∈ l ∧ .tsu ∈ l ∧ .ctxs ∈ l) :
    Within l a (fenceEntries c k pre es s).1 ↔ Within l a s := by
  induction es generalizing s with
  | nil => rfl
  | cons e es ih => simp [fenceEntries, ih, h]

@[simp] theorem State.writeEarly_within (c : Nat) (b : StepRec) (h : .host ∈ l ∧ .ctxs ∈ l) :
    Within l a (s.writeEarly c b) ↔ Within l a s := by
  simp [State.writeEarly, h]

@[simp] theorem State.commitServing_within (c : Nat) (b : StepRec) (serving : Bool)
    (h : .tel ∈ l ∧ .peg ∈ l ∧ .host ∈ l ∧ .ctxs ∈ l) : Within l a (s.commitServing c b serving) ↔ Within l a s := by
  unfold State.commitServing
  extract_lets t es room ends allEarly all t₁ t₂
  have ht : Within l a t ↔ Within l a s := foldS_within _ _ fun u e => by
    split
    · rfl
    · dsimp only; split <;> simp [h]
  simp [foldS_within, h, t₂, t₁, ht]

end
end Sys2Proof.Machine

/-! Frames of translation, contexts, video sessions and links. -/

namespace Sys2Proof.Machine
open Sys2Proof
section
variable {l : List Block} {a s : State}

@[simp] theorem State.setXlat_within (c v : Nat) (e : Xlat) (h : .mem ∈ l) :
    Within l a (s.setXlat c v e) ↔ Within l a s := by
  simp [State.setXlat, h]

theorem State.pickPlace_within {size n : Nat} {used : List (Nat × Nat)} {p : Nat × State}
    (e : s.pickPlace size n used = some p) (h : .fresh ∈ l) : Within l a p.2 ↔ Within l a s := by
  simp only [State.pickPlace] at e
  split at e
  · cases e
  case _ t ht =>
    have hc := State.choose_within (l := l) (a := a) ht h
    split at e <;> cases e
    · exact hc
    · simpa [h] using hc

@[simp] theorem State.mapPage_within (c v : Nat) (write weight : Bool) (h : .tel ∈ l ∧ .fresh ∈ l ∧ .mem ∈ l) :
    Within l a (s.mapPage c v write weight) ↔ Within l a s := by
  unfold State.mapPage
  dsimp only
  split
  · simp [h]
  · split
    · rfl
    case _ e => simpa [h] using State.pickPlace_within e h.2.1

theorem State.newFrame_within {p : Nat × State} (e : s.newFrame = some p) (h : .fresh ∈ l) : Within l a p.2 ↔ Within l a s := by
  simp only [State.newFrame] at e
  split at e
  · cases e; rfl
  · exact State.pickPlace_within e h

theorem Mem.wf_setPoisonAll (m : Mem) (bs : List Nat) (f : Nat → Nat) (h : m.wf = true) :
    (bs.foldl (fun m i => m.setPoison (f i) true) m).wf = true :=
  List.foldlRecOn bs _ (motive := fun m : Mem => m.wf = true) h fun _ hm _ _ => hm

@[simp] theorem State.retireFrame_within (f : Nat) (h : .fresh ∈ l ∧ .kvp ∈ l ∧ .mem ∈ l) (hs : Within l a s) :
    Within l a (s.retireFrame f) := by
  unfold State.retireFrame
  split
  · exact hs
  · dsimp only
    split
    · simp [h, hs]
    case _ e =>
      refine (State.updMem_within_iff _ h.2.2 (by intro; rfl)).2 ?_
      refine foldS_preserves _ (Within l a) _ _ (fun t k ht => ?_) (by simp [h, (State.newFrame_within e h.1).2 hs])
      exact State.updMem_within _ h.2.2 (fun w => Mem.wf_setPoisonAll _ _ _ (Mem.wf_putAll _ _ _ (Mem.wf_wipe _ _ _ w)))
        (by simp [h, ht])

@[simp] theorem State.reservePage_within (c v : Nat) (h : .mem ∈ l) : Within l a (s.reservePage c v) ↔ Within l a s := by
  simp [State.reservePage, h]

@[simp] theorem State.unmapPage_within (c v : Nat) (h : .tel ∈ l ∧ .host ∈ l ∧ .sec ∈ l ∧ .mem ∈ l) (hs : Within l a s) :
    Within l a (s.unmapPage c v) := by
  unfold State.unmapPage
  dsimp only
  rw [State.setXlat_within _ _ _ h.2.2.2]
  split <;> simp [h, hs]

@[simp] theorem State.mapRange_within (c va len : Nat) (write weight : Bool) (h : .tel ∈ l ∧ .fresh ∈ l ∧ .mem ∈ l) :
    Within l a (s.mapRange c va len write weight) ↔ Within l a s := by
  simp [State.mapRange, foldS_within, h]

@[simp] theorem State.unmapRange_within (c va len : Nat) (h : .tel ∈ l ∧ .host ∈ l ∧ .sec ∈ l ∧ .mem ∈ l) (hs : Within l a s) :
    Within l a (s.unmapRange c va len) :=
  foldS_preserves _ (Within l a) _ _ (fun _ v ht => State.unmapPage_within c v h ht) hs

@[simp] theorem State.touchRange_within (c va len : Nat) (h : .tel ∈ l ∧ .fresh ∈ l ∧ .mem ∈ l) :
    Within l a (s.touchRange c va len) ↔ Within l a s := by
  simp [State.touchRange, foldS_within, h]

theorem State.pickPages_within {c n : Nat} {p : Nat × State} (e : s.pickPages c n = some p) (h : .fresh ∈ l) :
    Within l a p.2 ↔ Within l a s := State.pickPlace_within e h

@[simp] theorem State.updBuf_within (k i : Nat) (f : FrameBuf → FrameBuf) (h : .tel ∈ l ∧ .vid ∈ l) :
    Within l a (s.updBuf k i f) ↔ Within l a s := by
  simp [State.updBuf, h]

@[simp] theorem State.unmapAll_within (c : Nat) (h : .tel ∈ l ∧ .host ∈ l ∧ .sec ∈ l ∧ .mem ∈ l) (hs : Within l a s) :
    Within l a (s.unmapAll c) :=
  foldS_preserves _ (Within l a) _ _ (fun _ v ht => State.unmapPage_within c v h ht) hs

@[simp] theorem State.freeCtx_within (c : Nat) (h : .tel ∈ l ∧ .host ∈ l ∧ .kvp ∈ l ∧ .sec ∈ l ∧ .mem ∈ l ∧ .ctxs ∈ l)
    (hs : Within l a s) : Within l a (s.freeCtx c) := by
  obtain ⟨htel, hhost, hkvp, hsec, hmem, hctxs⟩ := h
  unfold State.freeCtx
  rw [State.completeAll_within _ _ ⟨htel, hhost⟩]
  refine (State.updCtx_within c (fun _ => {}) hctxs).2 ?_
  rw [State.updSec_within _ hsec]
  refine foldS_preserves _ (Within l a) _ _ (fun t j ht => by simp [hkvp, hmem, ht]) ?_
  rw [State.updKvp_within _ hkvp, State.updKvp_within _ hkvp]
  refine State.unmapAll_within c ⟨htel, hhost, hsec, hmem⟩ ?_
  exact foldS_preserves _ (Within l a) _ _ (fun t j ht => by simp [htel, hctxs, ht]) hs

@[simp] theorem State.tryResetDone_within (c : Nat) (h : .tel ∈ l ∧ .host ∈ l ∧ .kvp ∈ l ∧ .sec ∈ l ∧ .mem ∈ l ∧ .ctxs ∈ l)
    (hs : Within l a s) : Within l a (s.tryResetDone c) := by
  unfold State.tryResetDone
  dsimp only
  split
  · split <;> simp [h, hs]
  · exact hs

@[simp] theorem State.veqPut_within (c : Nat) (r : VidRec) (h : .host ∈ l ∧ .mem ∈ l) (hs : Within l a s) :
    Within l a (s.veqPut c r) := by
  unfold State.veqPut
  dsimp only
  rw [State.doorbell_within _ _ h.1]
  split <;> simp [h, hs]

@[simp] theorem State.settleSess_within (c k : Nat) (h : .vid ∈ l) : Within l a (s.settleSess c k) ↔ Within l a s := by
  simp [State.settleSess, h]

@[simp] theorem State.vidRecord_within (c k : Nat) (r : VidRec) (h : .host ∈ l ∧ .vid ∈ l ∧ .mem ∈ l) (hs : Within l a s) :
    Within l a (s.vidRecord c k r) := by
  unfold State.vidRecord
  dsimp only
  split <;> simp [h, hs]

theorem drainKept_within (c : Nat) (rs : List VidRec) (h : .host ∈ l ∧ .vid ∈ l ∧ .mem ∈ l) (hs : Within l a s) :
    Within l a (drainKept c rs s) := by
  induction rs generalizing s with
  | nil => exact hs
  | cons r rs ih =>
    unfold drainKept
    split
    · exact ih (by simp [h, hs])
    · exact hs

@[simp] theorem State.veqDrain_within (c : Nat) (h : .host ∈ l ∧ .vid ∈ l ∧ .mem ∈ l) (hs : Within l a s) :
    Within l a (s.veqDrain c) := drainKept_within c _ h hs

@[simp] theorem State.subEnd_within (c k : Nat) (q : VidSub) (h : .tel ∈ l ∧ .peg ∈ l ∧ .vid ∈ l) :
    Within l a (s.subEnd c k q) ↔ Within l a s := by
  simp [State.subEnd, h]

@[simp] theorem State.auDone_within (c k : Nat) (q : VidSub) (status : Nat) (h : .tel ∈ l ∧ .peg ∈ l ∧ .host ∈ l ∧ .vid ∈ l ∧ .mem ∈ l) (hs : Within l a s) :
    Within l a (s.auDone c k q status) := by
  simp [State.auDone, h, hs]

@[simp] theorem State.encDone_within (c k : Nat) (q : VidSub) (status : Nat) (e : EncEnd) (h : .tel ∈ l ∧ .peg ∈ l ∧ .host ∈ l ∧ .vid ∈ l ∧ .mem ∈ l) (hs : Within l a s) :
    Within l a (s.encDone c k q status e) := by
  simp [State.encDone, h, hs]

@[simp] theorem State.abortSub_within (c k : Nat) (q : VidSub)
    (h : .tel ∈ l ∧ .peg ∈ l ∧ .host ∈ l ∧ .vid ∈ l ∧ .mem ∈ l) (hs : Within l a s) : Within l a (s.abortSub c k q) := by
  unfold State.abortSub
  split <;> simp [h, hs]

@[simp] theorem State.trySessClose_within (k : Nat)
    (h : .tel ∈ l ∧ .host ∈ l ∧ .kvp ∈ l ∧ .sec ∈ l ∧ .vid ∈ l ∧ .mem ∈ l ∧ .ctxs ∈ l) (hs : Within l a s) :
    Within l a (s.trySessClose k) := by
  unfold State.trySessClose
  dsimp only
  split
  · refine State.tryResetDone_within _ (by simp [h]) ?_
    rw [State.completeAll_within _ _ (by simp [h]), State.updVid_within _ (by simp [h])]
    refine State.unmapRange_within _ _ _ (by simp [h]) ?_
    exact (foldS_within _ _ fun t i => by simp [h]).2 hs
  · exact hs

@[simp] theorem State.closeSess_within (k : Nat)
    (h : .tel ∈ l ∧ .peg ∈ l ∧ .host ∈ l ∧ .kvp ∈ l ∧ .sec ∈ l ∧ .vid ∈ l ∧ .mem ∈ l ∧ .ctxs ∈ l) (hs : Within l a s) :
    Within l a (s.closeSess k) := by
  unfold State.closeSess
  refine State.trySessClose_within _ (by simp [h]) ?_
  rw [State.updSess_within _ _ h.2.2.2.2.2.1, foldS_within _ _ fun t i => by simp [h]]
  exact foldS_preserves _ (Within l a) _ _ (fun t q ht => by simp [h, ht]) hs

@[simp] theorem State.dropJobRefs_within (handles : List Nat)
    (h : .tel ∈ l ∧ .host ∈ l ∧ .kvp ∈ l ∧ .sec ∈ l ∧ .vid ∈ l ∧ .mem ∈ l ∧ .ctxs ∈ l) (hs : Within l a s) :
    Within l a (s.dropJobRefs handles) :=
  foldS_preserves _ (Within l a) _ _ (fun t k ht => State.trySessClose_within _ h (by simp [h, ht])) hs

@[simp] theorem State.abandonPictures_within (h : .tel ∈ l ∧ .vid ∈ l) : Within l a s.abandonPictures ↔ Within l a s := by
  refine foldS_within _ _ fun t p => ?_
  dsimp only
  split
  · rw [State.updVid_within _ h.2, State.updSess_within _ _ h.2]
    split
    · split <;> simp [h]
    · simp [h]
  · rfl

@[simp] theorem State.transmit_within (e : Nat) (f : OutFrame) (h : .tel ∈ l ∧ .lnk ∈ l) :
    Within l a (s.transmit e f) ↔ Within l a s := by
  simp [State.transmit, h]

@[simp] theorem State.sendFrame_within (e : Nat) (f : OutFrame) (h : .tel ∈ l ∧ .lnk ∈ l) :
    Within l a (s.sendFrame e f) ↔ Within l a s := by
  simp [State.sendFrame, h]

@[simp] theorem drainWaiting_within (e v : Nat) (fs : List OutFrame) (h : .tel ∈ l ∧ .lnk ∈ l) :
    Within l a (drainWaiting e v fs s) ↔ Within l a s := by
  induction fs generalizing s with
  | nil => rfl
  | cons f fs ih => unfold drainWaiting; split <;> simp [ih, h]

@[simp] theorem State.creditBack_within (e v n : Nat) (h : .tel ∈ l ∧ .lnk ∈ l) :
    Within l a (s.creditBack e v n) ↔ Within l a s := by
  simp [State.creditBack, h]

@[simp] theorem State.rxTake_within (e v : Nat) (h : .tel ∈ l) : Within l a (s.rxTake e v) ↔ Within l a s := by
  simp [State.rxTake, h]

@[simp] theorem State.rxRelease_within (e v : Nat) (h : .tel ∈ l ∧ .lnk ∈ l) :
    Within l a (s.rxRelease e v) ↔ Within l a s := by
  simp [State.rxRelease, h]

@[simp] theorem State.retireCredits_within (e : Nat) (h : .tel ∈ l ∧ .lnk ∈ l) :
    Within l a (s.retireCredits e) ↔ Within l a s := by
  simp [State.retireCredits, foldS_within, h]

@[simp] theorem State.openCredits_within (e : Nat) (init : List Nat) (h : .tel ∈ l) :
    Within l a (s.openCredits e init) ↔ Within l a s := by
  simp [State.openCredits, foldS_within, h]

@[simp] theorem State.revokeDeps_within (e c k gen : Nat) (h : .lnk ∈ l ∧ .ctxs ∈ l) :
    Within l a (s.revokeDeps e c k gen) ↔ Within l a s := by
  simp [State.revokeDeps, foldS_within, h]

@[simp] theorem State.stageEnds_within (cause : Nat) (h : .tel ∈ l ∧ .host ∈ l ∧ .ctl ∈ l) :
    Within l a (s.stageEnds cause) ↔ Within l a s := by
  simp [State.stageEnds, h]

@[simp] theorem State.relayDrop_within (e : Nat) (h : .tel ∈ l ∧ .host ∈ l ∧ .lnk ∈ l ∧ .ctl ∈ l) :
    Within l a (s.relayDrop e) ↔ Within l a s := by
  unfold State.relayDrop
  dsimp only
  (repeat' split) <;> simp [h]

@[simp] theorem State.sessionDown_within (e : Nat) (h : .tel ∈ l ∧ .host ∈ l ∧ .lnk ∈ l ∧ .ctl ∈ l ∧ .ctxs ∈ l) :
    Within l a (s.sessionDown e) ↔ Within l a s := by
  simp [State.sessionDown, foldS_within, h]

@[simp] theorem State.takeUnread_within (r : StepRec) (h : .lnk ∈ l) : Within l a (s.takeUnread r).1 ↔ Within l a s := by
  unfold State.takeUnread; dsimp only; split <;> simp [h]

@[simp] theorem State.portSessionsDown_within (p : Nat) (h : .tel ∈ l ∧ .host ∈ l ∧ .lnk ∈ l ∧ .ctl ∈ l ∧ .ctxs ∈ l) :
    Within l a (s.portSessionsDown p) ↔ Within l a s := by
  simp [State.portSessionsDown, foldS_within, h]

@[simp] theorem State.closeLinks_within (h : .tel ∈ l ∧ .host ∈ l ∧ .lnk ∈ l ∧ .ctl ∈ l ∧ .ctxs ∈ l) :
    Within l a s.closeLinks ↔ Within l a s := by
  simp [State.closeLinks, foldS_within, h]

@[simp] theorem State.openLinks_within (h : .lnk ∈ l) : Within l a s.openLinks ↔ Within l a s := by
  simp [State.openLinks, foldS_within, h]

end
end Sys2Proof.Machine

/-! Frames of steps, boundaries and fences. -/

namespace Sys2Proof.Machine
open Sys2Proof
section
variable {l : List Block} {a s : State}

@[simp] theorem State.advanceNominal_within (c : Nat) (h : .ctxs ∈ l) :
    Within l a (s.advanceNominal c) ↔ Within l a s := by
  simp [State.advanceNominal, h]

@[simp] theorem State.setQuads_within (qs : List Nat) (h : .arr ∈ l ∧ .clk ∈ l ∧ .ctxs ∈ l) :
    Within l a (s.setQuads qs) ↔ Within l a s := by
  simp [State.setQuads, foldS_within, h]

@[simp] theorem State.equalise_within (h : .arr ∈ l ∧ .clk ∈ l ∧ .ctxs ∈ l) : Within l a s.equalise ↔ Within l a s := by
  simp [State.equalise, h]

@[simp] theorem State.stepQuads_within (qs : List Nat) (h : .arr ∈ l ∧ .clk ∈ l ∧ .pwr ∈ l ∧ .ctxs ∈ l) :
    Within l a (s.stepQuads qs) ↔ Within l a s := by
  simp [State.stepQuads, h]

@[simp] theorem State.pressBoundary_within (h : .arr ∈ l ∧ .clk ∈ l ∧ .pwr ∈ l ∧ .ctxs ∈ l) :
    Within l a s.pressBoundary ↔ Within l a s := by
  unfold State.pressBoundary
  split <;> simp [h]

@[simp] theorem State.changeMode_within (press : Bool) (excessNs : Nat) (h : .tel ∈ l ∧ .arr ∈ l ∧ .clk ∈ l ∧ .pwr ∈ l ∧ .ctxs ∈ l) :
    Within l a (s.changeMode press excessNs) ↔ Within l a s := by
  simp [State.changeMode, h]

@[simp] theorem State.setMode_within (press : Bool) (h : .tel ∈ l ∧ .arr ∈ l ∧ .clk ∈ l ∧ .fresh ∈ l ∧ .pwr ∈ l ∧ .ctxs ∈ l) :
    Within l a (s.setMode press) ↔ Within l a s := by
  simp [State.setMode, h]

@[simp] theorem State.checkDrained_within (h : .tel ∈ l ∧ .host ∈ l ∧ .glb ∈ l ∧ .ctxs ∈ l) :
    Within l a s.checkDrained ↔ Within l a s := by
  unfold State.checkDrained
  split
  · rfl
  · extract_lets t
    have ht : Within l a t ↔ Within l a s := foldS_within _ _ fun u c => by dsimp only; split <;> simp [h]
    split
    · exact ht
    · split <;> simp [h, ht]

@[simp] theorem State.checkQuiesced_within (h : .tel ∈ l ∧ .host ∈ l) : Within l a s.checkQuiesced ↔ Within l a s := by
  simp [State.checkQuiesced, h]

@[simp] theorem State.resumeModule_within
    (h : .tel ∈ l ∧ .host ∈ l ∧ .glb ∈ l ∧ .lnk ∈ l ∧ .ctl ∈ l ∧ .vid ∈ l ∧ .mem ∈ l ∧ .board ∈ l) (hs : Within l a s) :
    Within l a s.resumeModule := by
  unfold State.resumeModule
  extract_lets st t u bad v w
  have hw : Within l a w :=
    foldS_preserves _ (Within l a) _ _ (fun x c hx => State.veqDrain_within c (by simp [h]) hx) (by simp [v, u, t, h, hs])
  split <;> simp [h, hw]

@[simp] theorem State.cancelAll_within (h : .ctxs ∈ l) : Within l a s.cancelAll ↔ Within l a s := by
  simp [State.cancelAll, foldS_within, h]

@[simp] theorem State.safeOutputs_within (h : .peg ∈ l ∧ .board ∈ l) : Within l a s.safeOutputs ↔ Within l a s := by
  simp [State.safeOutputs, h]

@[simp] theorem State.holdClocks_within (h : .tel ∈ l ∧ .peg ∈ l ∧ .clk ∈ l ∧ .mem ∈ l ∧ .board ∈ l) :
    Within l a s.holdClocks ↔ Within l a s := by
  simp [State.holdClocks, h]

@[simp] theorem State.dozeExit_within (h : ∀ b : Block, b ∈ l) (hs : Within l a s) : Within l a s.dozeExit := by
  simp [State.dozeExit, h, hs]

@[simp] theorem State.checkDoze_within (h : ∀ b : Block, b ∈ l) (hs : Within l a s) : Within l a s.checkDoze := by
  simp [State.checkDoze, h, hs]

@[simp] theorem State.clearArray_within (c : Nat) (h : .dpp ∈ l ∧ .atn ∈ l ∧ .arr ∈ l ∧ .tsu ∈ l ∧ .dma ∈ l) :
    Within l a (s.clearArray c) ↔ Within l a s := by
  simp only [State.clearArray, State.updArr_within, State.updDpp_within, State.updTsu_within, State.updDma_within,
    State.setAtn_within, h]

@[simp] theorem State.loadCredits_within (c : Nat) (g : Image) (h : .tel ∈ l ∧ .arr ∈ l) :
    Within l a (s.loadCredits c g) ↔ Within l a s := by
  simp [State.loadCredits, foldS_within, h]

@[simp] theorem State.startChans_within (c : Nat) (g : Image) (h : .dma ∈ l) :
    Within l a (s.startChans c g) ↔ Within l a s := by
  simp [State.startChans, foldS_within, h]

@[simp] theorem State.revokeEpoch_within (c : Nat) (r : StepRec) (h : .tel ∈ l ∧ .lnk ∈ l) :
    Within l a (s.revokeEpoch c r) ↔ Within l a s := by
  simp [State.revokeEpoch, foldS_within, h]

@[simp] theorem State.revokeHost_within (c : Nat) (rs : List StepRec) (h : .host ∈ l ∧ .ctxs ∈ l) :
    Within l a (s.revokeHost c rs) ↔ Within l a s := by
  unfold State.revokeHost
  split <;> simp [h]

@[simp] theorem State.restoreTsu_within (r : StepRec) (h : .tsu ∈ l) : Within l a (s.restoreTsu r) ↔ Within l a s := by
  simp [State.restoreTsu, h]

@[simp] theorem State.discardFrom_within (c k : Nat) (h : ∀ b : Block, b ∈ l) (hs : Within l a s) :
    Within l a (s.discardFrom c k) := by
  unfold State.discardFrom
  extract_lets rs t u v w x
  have ht : Within l a t := (foldS_within _ _ fun y r => by simp [h]).2 hs
  have hv : Within l a v :=
    foldS_preserves _ (Within l a) _ _ (fun y r hy => State.reverseAll_within c _ (by simp [h]) hy) (by simp [u, h, ht])
  have hw : Within l a w := (foldS_within _ _ fun y r => by simp [h]).2 hv
  simp [x, h, hw]

@[simp] theorem State.rewind_within (c k : Nat) (h : ∀ b : Block, b ∈ l) (hs : Within l a s) :
    Within l a (s.rewind c k) := by
  unfold State.rewind
  split <;> simp [h, hs]

@[simp] theorem State.endJob_within (c : Nat) (j : Job) (r : Reply) (abortReply : Nat) (h : .tel ∈ l ∧ .peg ∈ l ∧ .host ∈ l ∧ .kvp ∈ l ∧ .sec ∈ l ∧ .vid ∈ l ∧ .mem ∈ l ∧ .ctxs ∈ l) (hs : Within l a s) :
    Within l a (s.endJob c j r abortReply) := by
  simp [State.endJob, h, hs]

@[simp] theorem State.settleJobs_within (c : Nat) (h : .tel ∈ l ∧ .peg ∈ l ∧ .host ∈ l ∧ .kvp ∈ l ∧ .sec ∈ l ∧ .vid ∈ l ∧ .mem ∈ l ∧ .ctxs ∈ l) (hs : Within l a s) :
    Within l a (s.settleJobs c) := by
  exact foldS_preserves _ (Within l a) _ _ (fun t x ht => by simp [h, ht]) hs

@[simp] theorem State.abortJob_within (c id : Nat) (late silent : Bool) (h : .tel ∈ l ∧ .peg ∈ l ∧ .host ∈ l ∧ .kvp ∈ l ∧ .sec ∈ l ∧ .vid ∈ l ∧ .mem ∈ l ∧ .ctxs ∈ l) (hs : Within l a s) :
    Within l a (s.abortJob c id late silent) := by
  simp [State.abortJob, h, hs]

@[simp] theorem State.freePatches_within (c : Nat) (h : .tel ∈ l ∧ .host ∈ l ∧ .tsu ∈ l ∧ .ctxs ∈ l) :
    Within l a (s.freePatches c) ↔ Within l a s := by
  simp [State.freePatches, foldS_within, h]

@[simp] theorem State.readyPatches_within (c : Nat) (h : .tel ∈ l ∧ .host ∈ l ∧ .tsu ∈ l ∧ .ctxs ∈ l) :
    Within l a (s.readyPatches c) ↔ Within l a s := by
  simp [State.readyPatches, foldS_within, h]

@[simp] theorem State.switchGen_within (c : Nat) (h : .tel ∈ l ∧ .host ∈ l ∧ .sec ∈ l) :
    Within l a (s.switchGen c) ↔ Within l a s := by
  simp [State.switchGen, h]

@[simp] theorem State.commitHw_within (c : Nat) (r : StepRec) (h : .dpp ∈ l ∧ .tel ∈ l ∧ .atn ∈ l ∧ .arr ∈ l ∧ .tsu ∈ l ∧ .lnk ∈ l ∧ .ctxs ∈ l) :
    Within l a (s.commitHw c r) ↔ Within l a s := by
  simp [State.commitHw, foldS_within, h]

@[simp] theorem State.commitFw_within (c : Nat) (r : StepRec) (h : .tel ∈ l ∧ .peg ∈ l ∧ .host ∈ l ∧ .tsu ∈ l ∧ .kvp ∈ l ∧ .sec ∈ l ∧ .vid ∈ l ∧ .mem ∈ l ∧ .ctxs ∈ l) (hs : Within l a s) :
    Within l a (s.commitFw c r) := by
  unfold State.commitFw
  split <;> simp [h, hs]

@[simp] theorem State.commit_within (c : Nat) (r : StepRec) (h : ∀ b : Block, b ∈ l) (hs : Within l a s) :
    Within l a (s.commit c r) := by
  simp [State.commit, h, hs]

@[simp] theorem State.releaseArray_within (c : Nat) (p : Phase) (h : .dpp ∈ l ∧ .atn ∈ l ∧ .arr ∈ l ∧ .tsu ∈ l ∧ .dma ∈ l) :
    Within l a (s.releaseArray c p) ↔ Within l a s := by
  simp [State.releaseArray, h]

@[simp] theorem State.endWork_within (c reason status : Nat)
    (h : .tel ∈ l ∧ .peg ∈ l ∧ .host ∈ l ∧ .tsu ∈ l ∧ .kvp ∈ l ∧ .sec ∈ l ∧ .vid ∈ l ∧ .mem ∈ l ∧ .ctxs ∈ l)
    (hs : Within l a s) : Within l a (s.endWork c reason status) := by
  refine State.applyEdits_within _ _ _ _ (by simp [h]) ?_
  refine foldS_preserves _ (Within l a) _ _ (fun t j ht => by simp [h, ht]) ?_
  exact (foldS_within _ _ fun t r => by simp [h]).2 hs

@[simp] theorem State.dropSaved_within (c : Nat) (h : .dpp ∈ l ∧ .atn ∈ l ∧ .arr ∈ l ∧ .tsu ∈ l ∧ .dma ∈ l) :
    Within l a (s.dropSaved c) ↔ Within l a s := by
  simp only [State.dropSaved, State.updArr_within, State.updDpp_within, State.updTsu_within, State.updDma_within,
    State.setAtn_within, h]

/-- A step that has compared equal commits, another stays. -/
theorem commit_of_clean_within (c : Nat) (r : StepRec) (p : Prop) [Decidable p] (h : ∀ b : Block, b ∈ l) (hs : Within l a s) :
    Within l a (if p then s.commit c r else s) := by
  split <;> simp [h, hs]

@[simp] theorem State.commitBefore_within (c : Nat) (h : ∀ b : Block, b ∈ l) (hs : Within l a s) :
    Within l a (s.commitBefore c) := by
  unfold State.commitBefore
  split
  · exact commit_of_clean_within c _ _ h hs
  · exact hs

@[simp] theorem State.faultCtx_within (c status : Nat) (h : ∀ b : Block, b ∈ l) (hs : Within l a s) :
    Within l a (s.faultCtx c status) := by
  unfold State.faultCtx
  extract_lets t u v
  have ht : Within l a t := by
    simp only [t]
    split <;> simp [h, hs]
  have hu : Within l a u := State.endWork_within _ _ _ (by simp [h]) (by simp [h, ht])
  exact State.checkDoze_within h (by simp [v, h, hu])

@[simp] theorem State.suspectAll_within (h : ∀ b : Block, b ∈ l) (hs : Within l a s) : Within l a s.suspectAll := by
  unfold State.suspectAll
  rw [State.completeAll_within _ _ (by simp [h]), State.updGlb_within _ (h _)]
  exact foldS_preserves _ (Within l a) _ _ (fun t c ht => by split <;> simp [h, ht]) hs

@[simp] theorem State.retable_within (c : Nat) (h : .ctxs ∈ l) : Within l a (s.retable c) ↔ Within l a s := by
  simp [State.retable, h]

/-- The boundary application and the choice of the step that follows, for a state `s`. -/
theorem settleBoundary_within (c k : Nat) (done : Bool) (m : Option Nat) (b : Option StepRec)
    (h : .tel ∈ l ∧ .fresh ∈ l ∧ .host ∈ l ∧ .kvp ∈ l ∧ .sec ∈ l ∧ .mem ∈ l ∧ .ctxs ∈ l) (hs : Within l a s) :
    Within l a ((((s.applyEdits c k done m).s.pushUndo c (s.applyEdits c k done m).undo).settleBatch c
      { s.applyEdits c k done m with s := (s.applyEdits c k done m).s.pushUndo c (s.applyEdits c k done m).undo } b).1) := by
  rw [State.settleBatch_within _ _ _ (by simp [h]), State.pushUndo_within _ _ (by simp [h])]
  exact State.applyEdits_within _ _ _ _ (by simp [h]) hs

@[simp] theorem State.boundary_within (c : Nat)
    (h : .tel ∈ l ∧ .peg ∈ l ∧ .host ∈ l ∧ .tsu ∈ l ∧ .fresh ∈ l ∧ .kvp ∈ l ∧ .sec ∈ l ∧ .mem ∈ l ∧ .ctxs ∈ l)
    (hs : Within l a s) : Within l a (s.boundary c) := by
  unfold State.boundary
  extract_lets t last done b u k v
  have ht : Within l a t := by simp [t, h, hs]
  have hk : Within l a (t.buildBatch c k).1 := State.buildBatch_within _ _ (by simp [h]) ht
  suffices hv : Within l a v by simp [h, hv]
  simp only [v]
  split
  · exact (State.updCtx_within _ _ (by simp [h])).2 (settleBoundary_within _ _ _ _ _ (by simp [h]) ht)
  · refine (State.updCtx_within _ _ (by simp [h])).2 (settleBoundary_within _ _ _ _ _ (by simp [h]) ?_)
    split
    · exact hk
    · split
      · exact ht
      · split
        · exact hk
        · exact ht

@[simp] theorem State.updStep_within (c k : Nat) (f : StepRec → StepRec) (h : .ctxs ∈ l) :
    Within l a (s.updStep c k f) ↔ Within l a s := by
  simp [State.updStep, h]

@[simp] theorem State.applyChecks_within (c k : Nat) (p : Tile → Bool) (eq : List Bool) (h : .tel ∈ l ∧ .ctxs ∈ l) :
    Within l a (s.applyChecks c k p eq) ↔ Within l a s := by
  unfold State.applyChecks
  split <;> simp [h]

@[simp] theorem verdicts_within (c k : Nat) (rs : List (Tile × Referee))
    (h : .tel ∈ l ∧ .host ∈ l ∧ .glb ∈ l ∧ .drn ∈ l ∧ .board ∈ l) :
    Within l a (verdicts c k rs s).1 ↔ Within l a s := by
  induction rs generalizing s with
  | nil => rfl
  | cons r rs ih => simp [verdicts, ih, h]

@[simp] theorem State.referee_within (c k : Nat) (rs : List Referee)
    (h : .tel ∈ l ∧ .host ∈ l ∧ .glb ∈ l ∧ .drn ∈ l ∧ .board ∈ l ∧ .ctxs ∈ l) :
    Within l a (s.referee c k rs).1 ↔ Within l a s := by
  unfold State.referee
  split
  · rfl
  · simp [h]

@[simp] theorem State.frameUe_within (f : Nat) (h : .tel ∈ l ∧ .fresh ∈ l ∧ .kvp ∈ l ∧ .mem ∈ l) (hs : Within l a s) :
    Within l a (s.frameUe f) := by
  unfold State.frameUe
  split <;> simp [h, hs]

@[simp] theorem State.poisonPage_within (c p : Nat) (h : .kvp ∈ l ∧ .ctxs ∈ l) :
    Within l a (s.poisonPage c p) ↔ Within l a s := by
  simp [State.poisonPage, h]

@[simp] theorem State.repair_within (c : Nat) (o : Option PoisonOwner)
    (h : .tel ∈ l ∧ .fresh ∈ l ∧ .kvp ∈ l ∧ .mem ∈ l ∧ .ctxs ∈ l) (hs : Within l a s) :
    Within l a (s.repair c o).1 := by
  unfold State.repair
  split
  case h_2 p => split <;> simp [h, hs]
  case h_3 va => split <;> simp [h, hs]
  case h_4 f => simp [h, hs]
  all_goals exact hs

@[simp] theorem State.leave_within (c : Nat) (ext : List Bool) (h : ∀ b : Block, b ∈ l) (hs : Within l a s) :
    Within l a (s.leave c ext) := by
  unfold State.leave
  extract_lets left t u v held w x
  have ht : Within l a t := by
    simp only [t]
    split <;> simp [h, hs]
  have hu : Within l a u := foldS_preserves _ (Within l a) _ _ (fun y r hy => by
    split
    · exact commit_of_clean_within c _ _ h hy
    · exact hy) ht
  have hv : Within l a v := (foldS_within _ _ fun y r => by simp [h]).2 hu
  split
  · simp [h, hs]
  · exact State.checkDoze_within h (by simp [x, w, h, hv])

@[simp] theorem State.takeArray_within (c : Nat) (press : Bool) (h : .tel ∈ l ∧ .arr ∈ l ∧ .clk ∈ l ∧ .fresh ∈ l ∧ .pwr ∈ l ∧ .ctxs ∈ l) :
    Within l a (s.takeArray c press) ↔ Within l a s := by
  simp [State.takeArray, h]

@[simp] theorem State.fenceServing_within (c k : Nat) (h : .tel ∈ l ∧ .peg ∈ l ∧ .host ∈ l ∧ .tsu ∈ l ∧ .ctxs ∈ l) :
    Within l a (s.fenceServing c k) ↔ Within l a s := by
  unfold State.fenceServing
  split
  · rfl
  case _ r _ =>
    extract_lets t u
    have hu : Within l a u ↔ Within l a s :=
      (foldS_within _ _ fun x e => by split <;> simp [h]).trans (by simp [t, h])
    dsimp only
    split <;> simp [h, hu]

/-- The boundary after a fence, and the end of the context's turn where it comes. -/
theorem boundary_leave_within (c : Nat) (ext : List Bool) (h : ∀ b : Block, b ∈ l) (hs : Within l a s) :
    Within l a (if (s.boundary c).turnEnds c then (s.boundary c).leave c ext else s.boundary c) := by
  have hb : Within l a (s.boundary c) := State.boundary_within _ (by simp [h]) hs
  split
  · exact State.leave_within _ _ h hb
  · exact hb

@[simp] theorem State.fenceFirmware_within (c : Nat) (ext : List Bool) (h : ∀ b : Block, b ∈ l) (hs : Within l a s) :
    Within l a (s.fenceFirmware c ext) := by
  unfold State.fenceFirmware
  extract_lets owed t u v w
  have hu : Within l a u :=
    foldS_preserves _ (Within l a) _ _ (fun x r hx => by simp [h, hx]) (by simp [t, h, hs])
  have hv : Within l a v := State.commitBefore_within c h hu
  have hw : Within l a w := by
    simp only [w]
    split <;> simp [h, hv]
  split
  · refine boundary_leave_within c ext h (State.rewind_within _ _ h ?_)
    split
    · exact commit_of_clean_within c _ _ h hu
    · exact hu
  · exact boundary_leave_within c ext h hw

@[simp] theorem State.endFence_within (c : Nat) (r : StepRec) (inp : FenceInput) (ext : List Bool) (h : ∀ b : Block, b ∈ l)
    (hs : Within l a s) : Within l a (s.endFence c r inp ext) := by
  unfold State.endFence
  extract_lets lag t u v
  have hu : Within l a u := by simp [u, t, h, hs]
  have hv : Within l a v := by
    simp only [v]
    split
    · exact commit_of_clean_within c _ _ h hu
    · exact hu
  have hr : Within l a (u.repair c inp.poison).1 := State.repair_within _ _ (by simp [h]) hu
  split
  · dsimp only
    split
    · exact State.faultCtx_within _ _ h hr
    · split
      · simp [h, hr]
      · exact State.fenceFirmware_within _ _ h (by simp [h, hr])
  · split
    · exact (State.updCtx_within _ _ (h _)).2 hv
    · exact State.fenceFirmware_within _ _ h hu

end
end Sys2Proof.Machine

/-! Frames of start-up, clocks and power. -/

namespace Sys2Proof.Machine
open Sys2Proof
section
variable {l : List Block} {a s : State}

@[simp] theorem State.enterDoze_within (thermal : Bool) (h : ∀ b : Block, b ∈ l) (hs : Within l a s) :
    Within l a (s.enterDoze thermal) := by
  unfold State.enterDoze
  extract_lets t u v
  have ht : Within l a t := by
    simp only [t]
    split <;> simp [h, hs]
  have hu : Within l a u := (State.updGlb_within _ (h _)).2 ht
  have hv : Within l a v := by
    simp only [v]
    split
    · split <;> simp [h, hu]
    · exact hu
  split
  · split <;> simp [h, ht]
  · exact State.checkDoze_within h hv

@[simp] theorem State.enterClockHold_within (h : ∀ b : Block, b ∈ l) (hs : Within l a s) :
    Within l a s.enterClockHold := by
  unfold State.enterClockHold
  extract_lets entering starting t u v w
  have hv : Within l a v :=
    foldS_preserves _ (Within l a) _ _ (fun x c hx => by split <;> simp [h, hx]) (by simp [u, t, h, hs])
  have hw : Within l a w := by
    simp only [w]
    split <;> simp [h, hv]
  split <;> simp [h, hw]

@[simp] theorem State.moduleReset_within (h : ∀ b : Block, b ∈ l) (hs : Within l a s) : Within l a s.moduleReset :=
  ⟨⟨hs.keeps.1, fun b hb => absurd (h b) hb⟩, fun _ => rfl⟩

@[simp] theorem State.powerOff_within (h : ∀ b : Block, b ∈ l) (hs : Within l a s) : Within l a s.powerOff :=
  ⟨⟨hs.keeps.1, fun b hb => absurd (h b) hb⟩, fun _ => rfl⟩

@[simp] theorem State.tryClose_within (h : .board ∈ l) : Within l a s.tryClose ↔ Within l a s := by
  simp [State.tryClose, h]

@[simp] theorem State.openSwitch_within (cause : OpenCause) (h : ∀ b : Block, b ∈ l) (hs : Within l a s) :
    Within l a (s.openSwitch cause) := by
  simp [State.openSwitch, h, hs]

@[simp] theorem State.bootFailure_within (h : ∀ b : Block, b ∈ l) (hs : Within l a s) : Within l a s.bootFailure := by
  simp [State.bootFailure, h, hs]

@[simp] theorem State.takePending_within (h : .ctl ∈ l) : Within l a s.takePending ↔ Within l a s := by
  simp [State.takePending, h]

@[simp] theorem State.raiseSvn_within (b : Bundle) (h : .ctl ∈ l ∧ .sec ∈ l) :
    Within l a (s.raiseSvn b) ↔ Within l a s := by
  simp [State.raiseSvn, h]

@[simp] theorem State.reachReady_within (h : .glb ∈ l ∧ .ctl ∈ l ∧ .sec ∈ l ∧ .board ∈ l) :
    Within l a s.reachReady ↔ Within l a s := by
  unfold State.reachReady
  split <;> simp [h]

theorem State.setSettings_within (g p : Settings) (h : .settings ∈ l ∧ .settingsPrev ∈ l) :
    Within l a { s with settings := g, settingsPrev := p } ↔ Within l a s := by
  refine Within.iff_of_keeps (m := [.settings, .settingsPrev]) ⟨rfl, fun b hb => ?_⟩ (by decide) (by simpa using h)
  cases b <;> simp_all [Block.same]

@[simp] theorem State.coreStarts_within (r : StageResult)
    (h : .tel ∈ l ∧ .fresh ∈ l ∧ .settingsPrev ∈ l ∧ .ctl ∈ l ∧ .pwr ∈ l ∧ .board ∈ l ∧ .settings ∈ l) :
    Within l a (s.coreStarts r) ↔ Within l a s := by
  unfold State.coreStarts
  extract_lets owner n cur t g u v
  have ht : Within l a t ↔ Within l a s := by
    simp only [t]
    split
    · exact State.setSettings_within _ _ (by simp [h])
    · split
      · exact State.setSettings_within _ _ (by simp [h])
      · split
        · exact State.setSettings_within _ _ (by simp [h])
        · rfl
  have hv : Within l a v ↔ Within l a s := by simp [v, u, h, ht]
  dsimp only
  split <;> simp [h, hv]

@[simp] theorem State.crystalOn_within (h : .peg ∈ l ∧ .clk ∈ l) : Within l a s.crystalOn ↔ Within l a s := by
  simp [State.crystalOn, h]

@[simp] theorem State.pllsOn_within (h : .arr ∈ l ∧ .clk ∈ l ∧ .vid ∈ l ∧ .ctxs ∈ l) :
    Within l a s.pllsOn ↔ Within l a s := by
  simp [State.pllsOn, h]

@[simp] theorem State.stageDone_within (st : Stage) (r : StageResult) (h : ∀ b : Block, b ∈ l) :
    Within l a (s.stageDone st r) ↔ Within l a s := by
  unfold State.stageDone; dsimp only; (repeat' split) <;> simp [h]

@[simp] theorem State.hbmFails_within (stackMask : Byte) (h : .tel ∈ l ∧ .glb ∈ l ∧ .mem ∈ l) :
    Within l a (s.hbmFails stackMask) ↔ Within l a s := by
  simp [State.hbmFails, h]

@[simp] theorem State.holdEnds_within (h : ∀ b : Block, b ∈ l) (hs : Within l a s) : Within l a s.holdEnds := by
  unfold State.holdEnds; dsimp only; (repeat' split) <;> simp [h, hs]

@[simp] theorem State.stageGood_within (st : Stage) (r : StageResult) (h : ∀ b : Block, b ∈ l) (hs : Within l a s) :
    Within l a (s.stageGood st r) := by
  simp [State.stageGood, h, hs]

@[simp] theorem State.undefinePress_within (h : .arr ∈ l ∧ .fresh ∈ l ∧ .mem ∈ l) (hs : Within l a s) :
    Within l a s.undefinePress := by
  unfold State.undefinePress
  split
  · exact hs
  · dsimp only
    split
    · exact hs
    · exact foldS_preserves _ (Within l a) _ _ (fun t r ht => by simp [h, ht]) (by simp [h, hs])

@[simp] theorem State.latch_within (opens : Bool) (h : .host ∈ l ∧ .board ∈ l) :
    Within l a (s.latch opens) ↔ Within l a s := by
  simp [State.latch, h]

end
end Sys2Proof.Machine

/-! Frames of video, contexts and channels. -/

namespace Sys2Proof.Machine
open Sys2Proof
section
variable {l : List Block} {a s : State}

@[simp] theorem State.putPlane_within (v : VidCfg) (k w h_ : Nat) (f : Nat → Nat → Nat) (h : .mem ∈ l) (hs : Within l a s) :
    Within l a (s.putPlane v k w h_ f) := by
  exact foldS_preserves _ (Within l a) _ _ (fun t x ht => by simp [h, ht]) hs

@[simp] theorem State.putPlanes_within (k i w h_ : Nat) (luma chroma : Nat → Nat → Nat) (h : .mem ∈ l) (hs : Within l a s) :
    Within l a (s.putPlanes k i w h_ luma chroma) := by
  simp [State.putPlanes, h, hs]

@[simp] theorem State.putPicture_within (k i : Nat) (r : PicResult) (h : .mem ∈ l) (hs : Within l a s) :
    Within l a (s.putPicture k i r) := by
  simp [State.putPicture, h, hs]

theorem State.pickSession_within {c : Nat} {enc : Bool} {p : Nat × State} (e : s.pickSession c enc = some p) (h : .fresh ∈ l) :
    Within l a p.2 ↔ Within l a s := State.choose_within e h

@[simp] theorem State.accept_within (c : Cmd) (k : Nat) (q : VidSub) (h : .tel ∈ l ∧ .peg ∈ l ∧ .vid ∈ l) :
    Within l a (s.accept c k q) ↔ Within l a s := by
  unfold State.accept
  dsimp only
  split <;> simp [h]

@[simp] theorem State.outputBuf_within (c k i : Nat) (h : .tel ∈ l ∧ .host ∈ l ∧ .vid ∈ l ∧ .mem ∈ l) (hs : Within l a s) :
    Within l a (s.outputBuf c k i) := by
  simp [State.outputBuf, h, hs]

@[simp] theorem serveEos_within (c k n : Nat) (h : .tel ∈ l ∧ .peg ∈ l ∧ .host ∈ l ∧ .vid ∈ l ∧ .mem ∈ l) (hs : Within l a s) :
    Within l a (serveEos c k n s) := by
  induction n generalizing s with
  | zero => exact hs
  | succ n ih =>
    unfold serveEos
    split
    · split
      · refine ih (State.auDone_within _ _ _ _ h ?_)
        exact foldS_preserves _ (Within l a) _ _ (fun t i ht => by simp [h, ht]) hs
      · exact hs
    · exact hs

theorem dropHandles_within {c : Nat} {xs : List Nat} {t : State} (e : dropHandles c xs s = some t) (h : .tel ∈ l ∧ .vid ∈ l) :
    Within l a t ↔ Within l a s := by
  induction xs generalizing s with
  | nil => cases e; rfl
  | cons x xs ih =>
    unfold dropHandles at e
    split at e
    · rw [ih e, State.updBuf_within _ _ _ h]
    · cases e

@[simp] theorem State.bufFreed_within (k : Nat) (h : .vid ∈ l) : Within l a (s.bufFreed k) ↔ Within l a s := by
  simp [State.bufFreed, h]

@[simp] theorem evict_within (k n : Nat) (h : .tel ∈ l ∧ .vid ∈ l) : Within l a (evict k n s) ↔ Within l a s := by
  induction n generalizing s with
  | zero => rfl
  | succ n ih =>
    unfold evict
    extract_lets x alone short
    split
    · split <;> simp [ih, h]
    · rfl

@[simp] theorem State.startEncode_within (k : Nat) (q : VidSub)
    (h : .tel ∈ l ∧ .peg ∈ l ∧ .host ∈ l ∧ .kvp ∈ l ∧ .sec ∈ l ∧ .vid ∈ l ∧ .mem ∈ l ∧ .ctxs ∈ l) (hs : Within l a s) :
    Within l a (s.startEncode k q) := by
  unfold State.startEncode
  dsimp only
  split
  · exact State.trySessClose_within _ (by simp [h]) (State.abortSub_within _ _ _ (by simp [h]) hs)
  · simp [h, hs]

@[simp] theorem State.startDecode_within (p k samples bins : Nat) (h : .tel ∈ l ∧ .fresh ∈ l ∧ .vid ∈ l) :
    Within l a (s.startDecode p k samples bins) ↔ Within l a s := by
  unfold State.startDecode
  extract_lets t
  have ht : Within l a t ↔ Within l a s := evict_within _ _ (by simp [h])
  split
  · simp [h, ht]
  case _ e => simp [h, ht, State.choose_within e]

@[simp] theorem startFirst_within (p samples bins : Nat) (xs : List (Nat × VidSub))
    (h : .tel ∈ l ∧ .peg ∈ l ∧ .host ∈ l ∧ .fresh ∈ l ∧ .kvp ∈ l ∧ .sec ∈ l ∧ .vid ∈ l ∧ .mem ∈ l ∧ .ctxs ∈ l)
    (hs : Within l a s) : Within l a (startFirst p samples bins xs s) := by
  induction xs generalizing s with
  | nil => exact hs
  | cons x xs ih =>
    have hd : Within l a (s.startDecode p x.1 samples bins) := (State.startDecode_within _ _ _ _ (by simp [h])).2 hs
    unfold startFirst
    dsimp only
    split
    · simp [h, hs]
    · split
      · exact hd
      · exact ih hd

/-- Behind a decoded picture a closed session gives up its buffers, another serves the ends of stream that have come up. -/
theorem closedOrServed_within (k c n : Nat) (closing : Prop) [Decidable closing]
    (h : .tel ∈ l ∧ .peg ∈ l ∧ .host ∈ l ∧ .vid ∈ l ∧ .mem ∈ l) (hs : Within l a s) :
    Within l a (if closing then
        foldS (upto n) (fun s i => s.updBuf k i fun b => { b with mark := none, output := false, hostRefs := 0 }) s
      else serveEos c k 16 s) := by
  split
  · exact (foldS_within _ _ fun t i => State.updBuf_within _ _ _ (by simp [h])).2 hs
  · exact serveEos_within _ _ _ h hs

theorem endedAu_within {c k st : Nat} {p : Prop} [Decidable p] (h : .tel ∈ l ∧ .peg ∈ l ∧ .host ∈ l ∧ .vid ∈ l ∧ .mem ∈ l)
    (hs : Within l a s) :
    Within l a (if p then
        match (s.sess k).subs.head? with
        | some q => s.auDone c k q st
        | none => s
      else s) := by
  split
  · split
    · exact State.auDone_within _ _ _ _ h hs
    · exact hs
  · exact hs

@[simp] theorem State.decodeEnds_within (p : Nat) (res : PicResult) (extra : Nat)
    (h : .tel ∈ l ∧ .peg ∈ l ∧ .host ∈ l ∧ .kvp ∈ l ∧ .sec ∈ l ∧ .vid ∈ l ∧ .mem ∈ l ∧ .ctxs ∈ l) (hs : Within l a s) :
    Within l a (s.decodeEnds p res extra) := by
  unfold State.decodeEnds
  extract_lets pipe k x c own t u closing n
  have hu : Within l a u := by simp [u, t, h, hs]
  split
  · exact (State.updVid_within _ (by simp [h])).2 hs
  · refine State.trySessClose_within _ (by simp [h]) ?_
    refine closedOrServed_within k c x.cfg.buffers _ (by simp [h]) ?_
    refine endedAu_within (by simp [h]) ?_
    rw [State.settleSess_within _ _ (by simp [h]), State.updSess_within _ _ (by simp [h])]
    refine iteInduction (motive := Within l a) (fun _ => by simp [h, hu]) fun _ => ?_
    refine foldS_preserves _ (Within l a) _ _ (fun y i hy => ?_) ?_
    · split <;> simp [h, hy]
    · rw [foldS_within _ _ fun y i => State.updBuf_within _ _ _ (by simp [h]), State.updBuf_within _ _ _ (by simp [h]),
        State.updSess_within _ _ (by simp [h])]
      refine State.putPicture_within _ _ _ (by simp [h]) ?_
      split <;> simp [h, hu]

@[simp] theorem State.sliceEnds_within (h : .host ∈ l ∧ .vid ∈ l ∧ .mem ∈ l) (hs : Within l a s) :
    Within l a s.sliceEnds := by
  unfold State.sliceEnds
  dsimp only
  split <;> simp [h, hs]

@[simp] theorem State.encodeEnds_within (wdog : Bool)
    (h : .tel ∈ l ∧ .peg ∈ l ∧ .host ∈ l ∧ .kvp ∈ l ∧ .sec ∈ l ∧ .vid ∈ l ∧ .mem ∈ l ∧ .ctxs ∈ l) (hs : Within l a s) :
    Within l a (s.encodeEnds wdog) := by
  unfold State.encodeEnds
  extract_lets t pipe k x c u
  have ht : Within l a t := by
    simp only [t]
    split
    · exact hs
    · exact foldS_preserves _ (Within l a) _ _ (fun y _ hy => State.sliceEnds_within (by simp [h]) hy) hs
  have hu : Within l a u := by simp [u, h, ht]
  split
  · exact hu
  · refine State.trySessClose_within _ (by simp [h]) (State.trySessClose_within _ (by simp [h]) ?_)
    rw [State.bufFreed_within _ (by simp [h]), State.settleSess_within _ _ (by simp [h])]
    refine State.encDone_within _ _ _ _ _ (by simp [h]) ?_
    rw [State.updBuf_within _ _ _ (by simp [h]), State.updSess_within _ _ (by simp [h])]
    refine iteInduction (motive := Within l a) (fun _ => ?_)
      fun _ => State.putPlanes_within _ _ _ _ _ _ (by simp [h]) ?_
    all_goals exact iteInduction (motive := Within l a) (fun _ => by simp [h, hu]) fun _ => by simp [h, hu]

@[simp] theorem State.resetPages_within (c : Nat) (h : .tel ∈ l ∧ .host ∈ l ∧ .kvp ∈ l ∧ .sec ∈ l ∧ .mem ∈ l ∧ .ctxs ∈ l)
    (hs : Within l a s) : Within l a (s.resetPages c) := by
  refine (State.updCtx_within _ _ (by simp [h])).2 ((foldS_within _ _ fun t j => by simp [h]).2 ?_)
  exact foldS_preserves _ (Within l a) _ _ (fun t e ht => by split <;> simp [h, ht]) hs

@[simp] theorem State.resetTsu_within (c : Nat) (h : .tel ∈ l ∧ .host ∈ l ∧ .tsu ∈ l) :
    Within l a (s.resetTsu c) ↔ Within l a s := by
  simp [State.resetTsu, foldS_within, h]

@[simp] theorem State.resetCtx_within (c : Nat) (h : ∀ b : Block, b ∈ l) (hs : Within l a s) : Within l a (s.resetCtx c) := by
  unfold State.resetCtx
  extract_lets t u v w x y z p q r o m n k j
  have hu : Within l a u := by
    simp only [u]
    split <;> simp [t, h, hs]
  have hx : Within l a x := (foldS_within _ _ fun y r => by simp [h]).2 (by simp [w, v, h, hu])
  have hy : Within l a y := foldS_preserves _ (Within l a) _ _ (fun t j ht => by simp [h, ht]) hx
  have hz : Within l a z := (State.resetTsu_within _ (by simp [h])).2 (State.resetPages_within _ (by simp [h]) hy)
  have hq : Within l a q := by simp [q, p, h, hz]
  clear_value q
  have ho : Within l a o := (State.setAtn_within _ (h _)).2 hq
  have hn : Within l a n :=
    foldS_preserves _ (Within l a) _ _ (fun t k ht => State.closeSess_within k (by simp [h]) ht)
      ((State.updVid_within _ (h _)).2 ho)
  have hk : Within l a k := by
    simp only [k]
    split <;> simp [h, hn]
  exact State.tryResetDone_within _ (by simp [h]) (by simp [j, h, hk])

@[simp] theorem State.closeCtx_within (c : Nat) (h : ∀ b : Block, b ∈ l) (hs : Within l a s) :
    Within l a (s.closeCtx c) := by
  simp [State.closeCtx, h, hs]

theorem State.pickRange_within {n : Nat} {p : Nat × State} (e : s.pickRange n = some p) (h : .fresh ∈ l) :
    Within l a p.2 ↔ Within l a s := State.pickPlace_within e h

theorem pickRuns_within {size n : Nat} {ps : List Nat} {used : List (Nat × Nat)} {r : List (Nat × Nat) × State}
    (e : pickRuns size n ps used s = some r) (h : .fresh ∈ l) : Within l a r.2 ↔ Within l a s := by
  induction ps generalizing s used r with
  | nil => cases e; rfl
  | cons p ps ih =>
    unfold pickRuns at e
    split at e
    · cases e
    case _ b t e' =>
      obtain ⟨r', hr, rfl⟩ := Option.map_eq_some_iff.1 e
      exact (ih hr).trans (State.pickPlace_within e' h)

theorem State.placeRuns_within {size n : Nat} {ps : List Nat} {used : List (Nat × Nat)} {r : List (Nat × Nat) × State}
    (e : s.placeRuns size n ps used = some r) (h : .fresh ∈ l) : Within l a r.2 ↔ Within l a s := by
  unfold State.placeRuns at e
  split at e
  case _ e' => cases e; exact pickRuns_within e' h
  · obtain ⟨r', -, rfl⟩ := Option.map_eq_some_iff.1 e
    rfl

theorem State.placeCtx_within {n : Nat} {ids slots : List Nat} {r : List (Nat × Nat) × List (Nat × Nat) × State}
    (e : s.placeCtx n ids slots = some r) (h : .fresh ∈ l) : Within l a r.2.2 ↔ Within l a s := by
  unfold State.placeCtx at e
  dsimp only at e
  split at e
  · cases e
  case _ e' =>
    obtain ⟨r', hr, rfl⟩ := Option.map_eq_some_iff.1 e
    exact (State.placeRuns_within hr h).trans (State.placeRuns_within e' h)

@[simp] theorem State.putChan_within (i : Nat) (k : Chan) (h : .dma ∈ l) : Within l a (s.putChan i k) ↔ Within l a s := by
  simp [State.putChan, h]

@[simp] theorem State.chanNext_within (i : Nat) (h : .dma ∈ l) : Within l a (s.chanNext i) ↔ Within l a s := by
  simp [State.chanNext, h]

@[simp] theorem State.chanHalt_within (i : Nat) (cls : ErrClass) (write : Bool) (space addr offset : Nat) (h : .dma ∈ l) :
    Within l a (s.chanHalt i cls write space addr offset) ↔ Within l a s := by
  simp [State.chanHalt, h]

theorem State.setFresh_within (n : Nat) (h : .fresh ∈ l) : Within l a { s with fresh := n } ↔ Within l a s := by
  refine Within.iff_of_keeps (m := [.fresh]) ⟨rfl, fun b hb => ?_⟩ (by decide) (by simpa using h)
  cases b <;> simp_all [Block.same]

@[simp] theorem State.chanTimeout_within (i : Nat) (h : .fresh ∈ l ∧ .dma ∈ l) :
    Within l a (s.chanTimeout i) ↔ Within l a s := by
  simp only [State.chanTimeout, State.putChan_within, State.setFresh_within, h]

@[simp] theorem State.overWaiters_within (n : Nat) (f : Nat → Chan → Chan) (h : .dma ∈ l) :
    Within l a (s.overWaiters n f) ↔ Within l a s := by
  simp [State.overWaiters, foldS_within, h]

@[simp] theorem State.pegFired_within (n : Nat) (h : .dma ∈ l) : Within l a (s.pegFired n) ↔ Within l a s := by
  simp [State.pegFired, h]

@[simp] theorem State.pegGone_within (n : Nat) (h : .fresh ∈ l ∧ .dma ∈ l) : Within l a (s.pegGone n) ↔ Within l a s := by
  unfold State.pegGone
  split
  · simp only [State.overWaiters_within, State.setFresh_within, h]
  · rfl

end
end Sys2Proof.Machine

/-! Frames of work on the array, and the canonical form under runs, rows and page copies. -/

namespace Sys2Proof.Machine
open Sys2Proof
section
variable {l : List Block} {a s : State}

@[simp] theorem State.chargeRun_within (c : Nat) (h_ : Charge) (h : .ctxs ∈ l) :
    Within l a (s.chargeRun c h_) ↔ Within l a s := by
  unfold State.chargeRun
  split <;> simp [h]

@[simp] theorem State.poisonRun_within (c : Nat) (p : Bool) (h : .ctxs ∈ l) :
    Within l a (s.poisonRun c p) ↔ Within l a s := by
  unfold State.poisonRun
  (repeat' split) <;> simp [h]

@[simp] theorem State.latchFault_within (c : Nat) (write : Bool) (f : Nat × Nat) (h : .mem ∈ l) :
    Within l a (s.latchFault c write f) ↔ Within l a s := by
  simp [State.latchFault, h]

@[simp] theorem State.doLoad_within (c n op : Nat) (b : MatRef) (k : Nat) (h : .arr ∈ l) :
    Within l a (s.doLoad c n op b k) ↔ Within l a s := by
  simp [State.doLoad, h]

@[simp] theorem State.takeRows_within (n : Nat) (switch : Bool) (rows : Slab) (h : .arr ∈ l) :
    Within l a (s.takeRows n switch rows) ↔ Within l a s := by
  simp [State.takeRows, h]

@[simp] theorem State.doStream_within (c n op bank : Nat) (fresh switch : Bool) (a_ : MatRef) (k : Nat) (h : .arr ∈ l ∧ .ctxs ∈ l) :
    Within l a (s.doStream c n op bank fresh switch a_ k) ↔ Within l a s := by
  simp [State.doStream, h]

@[simp] theorem State.poisonOut_within (n : Nat) (p : Bool) (h : .arr ∈ l) :
    Within l a (s.poisonOut n p) ↔ Within l a s := by
  simp [State.poisonOut, h]

theorem Mem.wf_foldl {α : Type} (f : Mem → α → Mem) (xs : List α) {m : Mem} (hf : ∀ m x, m.wf = true → (f m x).wf = true)
    (h : m.wf = true) : (xs.foldl f m).wf = true :=
  List.foldlRecOn xs _ (motive := fun m : Mem => m.wf = true) h fun m hm x _ => hf m x hm

theorem Mem.wf_putElem {m : Mem} (k w i v : Nat) (p : Bool) (h : m.wf = true) : (m.putElem k w i v p).wf = true := by
  have hp (b : Nat) (bs : List Byte) : (m.putAll b bs).wf = true := Mem.wf_putAll _ _ _ h
  unfold Mem.putElem
  dsimp only
  split
  · simp only [Mem.wf_setPoison, hp]
  · exact hp _ _

theorem Mem.wf_freshRun {m : Mem} (k n : Nat) (h : m.wf = true) : (m.freshRun k n).wf = true := h

theorem Mem.wf_putRow {m : Mem} (k w : Nat) (vs : List (Nat × Bool)) (h : m.wf = true) : (m.putRow k w vs).wf = true :=
  Mem.wf_foldl _ _ (fun _ _ hm => Mem.wf_putElem _ _ _ _ _ hm) (Mem.wf_freshRun _ _ h)

@[simp] theorem State.doDrain_within (c n op bank rows cols : Nat) (bias residual : Option VecRef) (out : Place) (pitch : Nat)
    (h : .arr ∈ l ∧ .mem ∈ l ∧ .ctxs ∈ l) (hs : Within l a s) :
    Within l a (s.doDrain c n op bank rows cols bias residual out pitch) := by
  unfold State.doDrain
  dsimp only
  rw [State.poisonRun_within _ _ (by simp [h]), State.chargeRun_within _ _ (by simp [h]), State.poisonOut_within _ _ (by simp [h]),
    State.updArr_within _ (by simp [h])]
  exact State.updMem_within _ (by simp [h]) (Mem.wf_foldl _ _ fun m q => Mem.wf_putRow _ _ _) hs

@[simp] theorem State.doPatch_within (c n op bank row0 col0 cols : Nat) (x : MatRef) (k : Nat) (h : .arr ∈ l ∧ .ctxs ∈ l) :
    Within l a (s.doPatch c n op bank row0 col0 cols x k) ↔ Within l a s := by
  simp [State.doPatch, h]

@[simp] theorem State.doVec_within (c op : Nat) (v : VOp) (x y d : VecRef) (bf : Bool) (out : Place)
    (h : .fresh ∈ l ∧ .mem ∈ l ∧ .ctxs ∈ l) (hs : Within l a s) : Within l a (s.doVec c op v x y d bf out) := by
  unfold State.doVec
  dsimp only
  rw [State.poisonRun_within _ _ (by simp [h])]
  exact State.updMem_within _ (by simp [h]) (fun w => Mem.wf_putRow _ _ _ (Mem.wf_putRow _ _ _ w))
    ((State.setFresh_within _ (by simp [h])).2 hs)

theorem Mem.wf_copyRun {m : Mem} (src dst n : Nat) (h : m.wf = true) : (m.copyRun src dst n).wf = true := by
  induction n generalizing m src dst with
  | zero => exact h
  | succ n ih =>
    refine ih _ _ ?_
    split
    · exact Mem.wf_put _ _ _ h
    · exact Mem.wf_put _ _ _ h

theorem Mem.wf_copyPage {m : Mem} (g : Geom) (src dst n : Nat) (h : m.wf = true) : (m.copyPage g src dst n).wf = true := by
  refine Mem.wf_foldl _ _ (fun m x hm => Mem.wf_foldl _ _ (fun m y hm => Mem.wf_foldl _ _ (fun m r hm => ?_) hm) hm) h
  exact Mem.wf_copyRun _ _ _ (Mem.wf_freshRun _ _ hm)

@[simp] theorem State.doKvPrep_within (c op : Nat) (h : .kvp ∈ l ∧ .mem ∈ l ∧ .ctxs ∈ l) (hs : Within l a s) :
    Within l a (s.doKvPrep c op) := by
  unfold State.doKvPrep
  split
  · exact hs
  · refine foldS_preserves _ (Within l a) _ _ (fun t q ht => ?_) ?_
    · rw [State.updPage_within _ _ (by simp [h])]
      exact State.updMem_within _ (by simp [h]) (Mem.wf_copyPage _ _ _ _) ht
    · rw [State.updStep_within _ _ _ (by simp [h])]
      exact State.updMem_within _ (by simp [h]) (fun w => Mem.wf_putAll _ _ _ w) hs

@[simp] theorem State.opFault_within (c n op : Nat) (h : ∀ b : Block, b ∈ l) (hs : Within l a s) :
    Within l a (s.opFault c n op) := by
  unfold State.opFault
  (repeat' split) <;> simp [h, hs]

@[simp] theorem State.listFaulted_within (c n op : Nat) (bad : Bool) (h : ∀ b : Block, b ∈ l) (hs : Within l a s) :
    Within l a (s.listFaulted c n op bad) := by
  simp [State.listFaulted, h, hs]

@[simp] theorem State.putK_within (c layer head pos page : Nat) (vs : List (Val × Bool)) (rtz : Bool) (h : .mem ∈ l)
    (hs : Within l a s) : Within l a (s.putK c layer head pos page vs rtz) := by
  unfold State.putK
  dsimp only
  split
  · exact State.updMem_within _ h (fun w => Mem.wf_putRow _ _ _ (Mem.wf_putRow _ _ _ w)) hs
  · exact State.updMem_within _ h (Mem.wf_putRow _ _ _) hs

@[simp] theorem State.putV_within (c layer head pos page : Nat) (vs : List (Val × Bool)) (rtz : Bool) (h : .mem ∈ l)
    (hs : Within l a s) : Within l a (s.putV c layer head pos page vs rtz) := by
  unfold State.putV
  refine State.updMem_within _ h (fun w => ?_) hs
  exact Mem.wf_foldl _ _ (fun m e hm => Mem.wf_putElem _ _ _ _ _ hm) w

@[simp] theorem State.putVBlock_within (c layer head comp page blk : Nat) (vs : List (Option (Val × Bool))) (h : .mem ∈ l)
    (hs : Within l a s) : Within l a (s.putVBlock c layer head comp page blk vs) := by
  unfold State.putVBlock
  dsimp only
  split
  · refine State.updMem_within _ h (fun w => Mem.wf_putElem _ _ _ _ _ (Mem.wf_foldl _ _ (fun m e hm => ?_) w)) hs
    exact Mem.wf_putElem _ _ _ _ _ hm
  · refine State.updMem_within _ h (fun w => Mem.wf_putElem _ _ _ _ _ (Mem.wf_foldl _ _ (fun m e hm => ?_) w)) hs
    split
    · exact Mem.wf_putElem _ _ _ _ _ hm
    · exact hm

@[simp] theorem State.doAppend_within (c n op : Nat) (src : MatRef) (h : ∀ b : Block, b ∈ l) (hs : Within l a s) :
    Within l a (s.doAppend c n op src) := by
  unfold State.doAppend
  split
  · exact hs
  · refine State.listFaulted_within _ _ _ _ h ((State.poisonRun_within _ _ (h _)).2 ?_)
    refine iteInduction (motive := Within l a) (fun _ => ?_) fun _ => iteInduction (motive := Within l a) (fun _ => ?_) fun _ => ?_
    all_goals refine foldS_preserves _ (Within l a) _ _ (fun t q ht => foldS_preserves _ (Within l a) _ _ (fun t i ht => ?_) ht) hs
    · exact State.putK_within _ _ _ _ _ _ _ (h _) ht
    · exact State.putV_within _ _ _ _ _ _ _ (h _) ht
    · exact foldS_preserves _ (Within l a) _ _ (fun t j ht => State.putVBlock_within _ _ _ _ _ _ _ (h _) ht) ht

@[simp] theorem State.doAttn_within (c n op i head lo hi : Nat) (final : Bool) (q : MatRef) (out : Place)
    (h : ∀ b : Block, b ∈ l) (hs : Within l a s) : Within l a (s.doAttn c n op i head lo hi final q out) := by
  unfold State.doAttn
  split
  · exact hs
  · extract_lets A fmt rtz q u e segs cols live used ents bad tooMany t v blocks recs pages seam keep mine bad' w x y src all z
      top res wd pitch m empties flags bad2
    have hv : Within l a v := by
      simp only [v]
      split
      · exact State.opFault_within _ _ _ h ((State.setAtn_within _ (h _)).2 hs)
      · exact hs
    have hw : Within l a w := (foldS_within _ _ fun t p => by split <;> simp [h]).2 hv
    have hy : Within l a y := by simp [y, x, h, hw]
    have hz : Within l a z := (State.setAtn_within _ (h _)).2 hy
    have hm : Within l a m :=
      State.updMem_within _ (h _) (fun k => Mem.wf_foldl _ _ (fun m e hm => Mem.wf_putRow _ _ _ hm) k) hz
    split
    · exact State.listFaulted_within _ _ _ _ h hv
    · split
      · exact (State.setAtn_within _ (h _)).2 hy
      · simp [h, hm]

@[simp] theorem State.eccCount_within (kind addr : Nat) (x : EccHit) (h : .tel ∈ l ∧ .mem ∈ l) :
    Within l a (s.eccCount kind addr x) ↔ Within l a s := by
  cases x <;> simp [State.eccCount, h]

@[simp] theorem State.eccRead_within (e : EccRead) (h : .tel ∈ l ∧ .fresh ∈ l ∧ .mem ∈ l) :
    Within l a (s.eccRead e).1 ↔ Within l a s := by
  unfold State.eccRead
  dsimp only
  (repeat' split) <;> simp [h]

@[simp] theorem State.eccReads_within (es : List EccRead) (h : .tel ∈ l ∧ .fresh ∈ l ∧ .mem ∈ l) :
    Within l a (s.eccReads es).1 ↔ Within l a s := by
  induction es generalizing s with
  | nil => rfl
  | cons e es ih => simp [State.eccReads, ih, h]

@[simp] theorem State.reading_within (es : List EccRead) (f : State → State) (h : .tel ∈ l ∧ .fresh ∈ l ∧ .mem ∈ l)
    (hf : ∀ t, Within l a t → Within l a (f t)) (hs : Within l a s) : Within l a (s.reading es f) := by
  unfold State.reading
  refine State.updMem_within _ (by simp [h]) (fun w => ?_) (hf _ ?_)
  · refine Mem.wf_foldl _ _ (fun m e hm => ?_) w
    split
    · exact Mem.wf_putAll _ _ _ hm
    · exact hm
  · refine State.updMem_within _ (by simp [h]) (fun w => ?_) (by simp [h, hs])
    exact Mem.wf_foldl _ _ (fun m e hm => Mem.wf_putAll _ _ _ hm) (Mem.wf_foldl _ _ (fun m k hm => hm) w)

end
end Sys2Proof.Machine

/-! Frames of power commands and steps. -/

namespace Sys2Proof.Machine
open Sys2Proof
section
variable {l : List Block} {a s : State}

@[simp] theorem State.moveQuads_within (qs : List Nat) (h : .arr ∈ l ∧ .clk ∈ l ∧ .pwr ∈ l ∧ .ctxs ∈ l) :
    Within l a (s.moveQuads qs) ↔ Within l a s := by
  simp [State.moveQuads, h]

@[simp] theorem State.lowerQuads_within (h : .arr ∈ l ∧ .clk ∈ l ∧ .pwr ∈ l ∧ .ctxs ∈ l) :
    Within l a s.lowerQuads ↔ Within l a s := by
  simp [State.lowerQuads, h]

@[simp] theorem State.raiseQuads_within (h : .arr ∈ l ∧ .clk ∈ l ∧ .pwr ∈ l ∧ .ctxs ∈ l) :
    Within l a s.raiseQuads ↔ Within l a s := by
  simp [State.raiseQuads, h]

@[simp] theorem State.dropQuads_within (h : .arr ∈ l ∧ .clk ∈ l ∧ .pwr ∈ l ∧ .ctxs ∈ l) :
    Within l a s.dropQuads ↔ Within l a s := by
  simp [State.dropQuads, h]

@[simp] theorem State.thermalAct_within (h : ∀ b : Block, b ∈ l) (hs : Within l a s) : Within l a s.thermalAct := by
  unfold State.thermalAct; split <;> simp [h, hs]

@[simp] theorem State.beat_within (h : .pwr ∈ l) : Within l a s.beat ↔ Within l a s := by
  simp [State.beat, h]

theorem State.powerRow_within (c : Cmd) (opcode : Nat) (sel : Cmd → Bool) (body : State → Verdict)
    (h : .tel ∈ l ∧ .host ∈ l ∧ .fresh ∈ l ∧ .pwr ∈ l) (hb : ∀ t, Within l a t → Within l a (body t).state) (hs : Within l a s) :
    Within l a (s.powerRow c opcode sel body) := by
  unfold State.powerRow
  split
  · exact State.subRow_within c opcode sel [] body (by simp [h]) hb ((State.beat_within (by simp [h])).2 hs)
  · exact State.subRow_within c opcode sel [] body (by simp [h]) hb hs

@[simp] theorem State.keepSettings_within (c : Cmd) (f : Settings → Settings) (h : .settings ∈ l) :
    Within l a (s.keepSettings c f) ↔ Within l a s := by
  unfold State.keepSettings
  split
  · refine Within.iff_of_keeps (m := [.settings]) ⟨rfl, fun b hb => ?_⟩ (by decide) (by simpa using h)
    cases b <;> simp_all [Block.same]
  · rfl

@[simp] theorem State.loadWeights_within (x va : Nat) (copy : Bool) (bytes : List Byte) (h : .tel ∈ l ∧ .fresh ∈ l ∧ .mem ∈ l) (hs : Within l a s) :
    Within l a (s.loadWeights x va copy bytes) := by
  simp [State.loadWeights, h, hs]

@[simp] theorem State.mapImage_within (c : Nat) (g : Image) (h : .tel ∈ l ∧ .fresh ∈ l ∧ .mem ∈ l) :
    Within l a (s.mapImage c g) ↔ Within l a s := by
  simp [State.mapImage, foldS_within, h]

@[simp] theorem State.writeTables_within (c : Nat) (g : Image) (r : StepRec) (h : .mem ∈ l) (hs : Within l a s) :
    Within l a (s.writeTables c g r) := by
  unfold State.writeTables
  split
  · exact hs
  · exact State.updMem_within _ h (fun w => Mem.wf_putAll _ _ _ (Mem.wf_putAll _ _ _ w)) hs

@[simp] theorem State.beginStep_within (c : Nat) (r : StepRec) (h : ∀ b : Block, b ∈ l) (hs : Within l a s) :
    Within l a (s.beginStep c r) := by
  unfold State.beginStep
  split <;> simp [h, hs]

@[simp] theorem State.saveLive_within (c : Nat) (h : .arr ∈ l) : Within l a (s.saveLive c) ↔ Within l a s := by
  simp [State.saveLive, h]

@[simp] theorem State.restoreLive_within (c : Nat) (h : .arr ∈ l ∧ .mem ∈ l) (hs : Within l a s) :
    Within l a (s.restoreLive c) := by
  unfold State.restoreLive
  refine (State.updArr_within _ h.1).2 (State.updMem_within _ h.2 (fun w => ?_) hs)
  exact List.foldlRecOn _ _ (motive := fun t : Tbl Byte => Tbl.wf t = true) (Tbl.wf_filter _ w) fun t ht e _ => Tbl.wf_set _ _ ht

@[simp] theorem State.resumeStep_within (c : Nat)
    (h : .dpp ∈ l ∧ .atn ∈ l ∧ .arr ∈ l ∧ .tsu ∈ l ∧ .mem ∈ l ∧ .dma ∈ l ∧ .ctxs ∈ l) (hs : Within l a s) :
    Within l a (s.resumeStep c) := by
  simp only [State.resumeStep, State.updCtx_within, State.updActx_within, State.updArr_within, State.updDpp_within,
    State.updTsu_within, State.updDma_within, State.setAtn_within, h]
  exact State.restoreLive_within _ (by simp [h]) hs

@[simp] theorem State.saveStep_within (c : Nat) (h : .dpp ∈ l ∧ .atn ∈ l ∧ .arr ∈ l ∧ .tsu ∈ l ∧ .dma ∈ l ∧ .ctxs ∈ l) :
    Within l a (s.saveStep c) ↔ Within l a s := by
  simp [State.saveStep, h]

@[simp] theorem State.urgentSwitch_within (c : Nat) (ext : List Bool) (h : ∀ b : Block, b ∈ l) (hs : Within l a s) :
    Within l a (s.urgentSwitch c ext) := by
  unfold State.urgentSwitch
  dsimp only
  (repeat' split) <;> simp [h, hs]

@[simp] theorem State.creditFault_within (c : Nat) (bad : List (Nat × HandOff)) (h : ∀ b : Block, b ∈ l) (hs : Within l a s) :
    Within l a (s.creditFault c bad) := by
  refine State.faultCtx_within _ _ h ((State.updActx_within _ _ (h _)).2 ?_)
  refine (foldS_within _ _ fun t e => State.consSet_within _ _ (h _)).2 ?_
  exact (foldS_within _ _ fun t e => State.lifetime_within _ _ (h _)).2 hs

/-- The boundary after the step that a verdict or a debt rewinds. -/
theorem rewind_boundary_within (c k : Nat) (h : ∀ b : Block, b ∈ l) (hs : Within l a s) :
    Within l a ((s.rewind c k).boundary c) :=
  State.boundary_within _ (by simp [h]) (State.rewind_within _ _ h hs)

@[simp] theorem State.settleFence_within (c : Nat) (inp : FenceInput) (h : ∀ b : Block, b ∈ l) (hs : Within l a s) :
    Within l a (s.settleFence c inp) := by
  unfold State.settleFence
  split
  · exact State.leave_within _ _ h hs
  · split
    case h_1 r _ =>
      have hr : Within l a (s.referee c r.k inp.referee).1 := by simp [h, hs]
      dsimp only
      split
      · simp [h, hs]
      · split
        · exact State.suspectAll_within h hr
        · split
          · exact rewind_boundary_within _ _ h hr
          · exact hr
    case h_2 =>
      split
      · split
        · exact hs
        · exact rewind_boundary_within _ _ h hs
      · split
        · exact State.leave_within _ _ h hs
        · exact hs

@[simp] theorem State.settlePause_within (c : Nat) (h : ∀ b : Block, b ∈ l) (hs : Within l a s) :
    Within l a (s.settlePause c) := by
  unfold State.settlePause
  (repeat' split) <;> simp [h, hs]

end
end Sys2Proof.Machine

/-! Frames of links, handover and DPP. -/

namespace Sys2Proof.Machine
open Sys2Proof
section
variable {l : List Block} {a s : State}

@[simp] theorem State.pcNext_within (n : Nat) (h : .arr ∈ l) : Within l a (s.pcNext n) ↔ Within l a s := by
  simp [State.pcNext, h]

/-- The outcome goes on, in a state that differs from `a` in blocks of the frame alone and keeps the form of memory. -/
def Ran (l : List Block) (a : State) (o : Host.Outcome State Fault Refusal) : Prop := ∃ t, o = .next t ∧ Within l a t

@[simp] theorem ran_next {t : State} : Ran l a (.next t) ↔ Within l a t :=
  ⟨fun ⟨_, e, h⟩ => by cases e; exact h, fun h => ⟨t, rfl, h⟩⟩

@[simp] theorem ran_ite {o p : Host.Outcome State Fault Refusal} (c : Prop) [Decidable c] :
    Ran l a (if c then o else p) ↔ if c then Ran l a o else Ran l a p := by
  split <;> rfl

theorem State.onCore_ran (n : Nat) (i : SInstr) (f : Nat → State) (hf : ∀ c, Within l a (f c)) (hs : Within l a s) :
    Ran l a (s.onCore n i f) := by
  unfold State.onCore
  split
  · split <;> simp [hf, hs]
  · simp [hs]

@[simp] theorem State.addCredit_within (c n r count : Nat) (h : .tel ∈ l ∧ .arr ∈ l ∧ .fresh ∈ l) :
    Within l a (s.addCredit c n r count) ↔ Within l a s := by
  simp [State.addCredit, foldS_within, h]

@[simp] theorem State.takeCredit_within (n r count : Nat) (h : .arr ∈ l) :
    Within l a (s.takeCredit n r count) ↔ Within l a s := by
  simp [State.takeCredit, h]

@[simp] theorem State.noteFence_within (h : .arr ∈ l) : Within l a s.noteFence ↔ Within l a s := by
  simp [State.noteFence, h]

@[simp] theorem State.attnOver_within (c op : Nat) (h : .atn ∈ l) : Within l a (s.attnOver c op) ↔ Within l a s := by
  simp [State.attnOver, h]

@[simp] theorem State.undefine_within (c op : Nat) (runs : List (Nat × Nat)) (h : .arr ∈ l ∧ .fresh ∈ l ∧ .mem ∈ l)
    (hs : Within l a s) : Within l a (s.undefine c op runs) := by
  unfold State.undefine
  split
  · exact foldS_preserves _ (Within l a) _ _ (fun t r ht => by simp [h, ht]) hs
  · split <;> simp [h, hs]

@[simp] theorem State.doWork_within (c n : Nat) (w : Work) (h : ∀ b : Block, b ∈ l) (hs : Within l a s) :
    Within l a (s.doWork c n w) := by
  unfold State.doWork
  split <;> simp [h, hs]

@[simp] theorem State.putLine_within (n off : Nat) (x : List Byte × List Bool) (h : .mem ∈ l) (hs : Within l a s) :
    Within l a (s.putLine n off x) := by
  unfold State.putLine
  refine State.updMem_within _ h (fun w => ?_) hs
  exact Mem.wf_foldl _ _ (fun m e hm => hm) (Mem.wf_putAll _ _ _ w)

@[simp] theorem State.healLine_within (n off : Nat) (x : List Byte × List Bool) (h : .mem ∈ l) (hs : Within l a s) :
    Within l a (s.healLine n off x) := by
  unfold State.healLine
  refine State.updMem_within _ h (fun w => ?_) hs
  exact Mem.wf_foldl _ _ (fun m e hm => by split <;> exact hm) w

@[simp] theorem State.poisonLine_within (n off : Nat) (h : .mem ∈ l) (hs : Within l a s) : Within l a (s.poisonLine n off) := by
  unfold State.poisonLine
  refine State.updMem_within _ h (fun w => ?_) hs
  exact Mem.wf_foldl _ _ (fun m e hm => hm) w

@[simp] theorem State.collided_within (c n op : Nat) (e : Collide) (h : ∀ b : Block, b ∈ l) (hs : Within l a s) :
    Within l a (s.collided c n op e) := by
  simp [State.collided, h, hs]

@[simp] theorem State.collidedAll_within (c n op : Nat) (es : List Collide) (h : ∀ b : Block, b ∈ l) (hs : Within l a s) :
    Within l a (s.collidedAll c n op es) := by
  exact foldS_preserves _ (Within l a) _ _ (fun t x ht => by simp [h, ht]) hs

@[simp] theorem State.losing_within (n : Nat) (es : List Collide) (f : State → State) (h : .mem ∈ l)
    (hf : ∀ t, Within l a t → Within l a (f t)) (hs : Within l a s) : Within l a (s.losing n es f) := by
  refine foldS_preserves _ (Within l a) _ _ (fun t q ht => by split <;> simp [h, ht]) (hf _ ?_)
  exact foldS_preserves _ (Within l a) _ _ (fun t q ht => by split <;> simp [h, ht]) hs

@[simp] theorem State.workCollide_within (c n : Nat) (d : Desc) (h : ∀ b : Block, b ∈ l) (hs : Within l a s) :
    Within l a (s.workCollide c n d) :=
  State.reading_within _ _ (by simp [h]) (fun _ ht => State.losing_within _ _ _ (h _)
    (fun _ hu => State.undefine_within _ _ _ (by simp [h]) (State.doWork_within _ _ _ h hu)) ht) hs

@[simp] theorem State.tileDone_within (c n : Nat) (fclass : Fin 5) (poisoned : Bool) (t : TileRef) (h : .tel ∈ l ∧ .fresh ∈ l ∧ .drn ∈ l ∧ .ctxs ∈ l) :
    Within l a (s.tileDone c n fclass poisoned t) ↔ Within l a s := by
  unfold State.tileDone
  split <;> simp [h]

@[simp] theorem State.residueBad_within (c n op : Nat) (fclass : Fin 5) (t : Option TileRef) (h : ∀ b : Block, b ∈ l) (hs : Within l a s) :
    Within l a (s.residueBad c n op fclass t) := by
  unfold State.residueBad
  split <;> simp [h, hs]

@[simp] theorem State.dppImage_within (o : DppOp) (i : Nat) (h : .mem ∈ l ∧ .ctxs ∈ l) (hs : Within l a s) :
    Within l a (s.dppImage o i) := by
  unfold State.dppImage
  dsimp only
  rw [State.poisonRun_within _ _ (by simp [h]), State.chargeRun_within _ _ (by simp [h])]
  exact State.updMem_within _ h.1 (Mem.wf_putRow _ _ _) hs

@[simp] theorem State.dppHalt_within (c : Nat) (d : DppD) (write : Bool) (f : Nat × Nat) (h : .mem ∈ l ∧ .dma ∈ l) :
    Within l a (s.dppHalt c d write f) ↔ Within l a s := by
  simp [State.dppHalt, h]

@[simp] theorem State.lockstepRewind_within (c : Nat) (h : ∀ b : Block, b ∈ l) (hs : Within l a s) :
    Within l a (s.lockstepRewind c) := by
  unfold State.lockstepRewind
  (repeat' split) <;> simp [h, hs]

@[simp] theorem State.markLockstep_within (c : Nat) (h : ∀ b : Block, b ∈ l) (hs : Within l a s) :
    Within l a (s.markLockstep c) := by
  unfold State.markLockstep
  split <;> simp [h, hs]

@[simp] theorem State.mailPut_within (m : Nat) (x : Slot) (h : .tel ∈ l ∧ .host ∈ l ∧ .mbx ∈ l) :
    Within l a (s.mailPut m x).2 ↔ Within l a s := by
  unfold State.mailPut
  dsimp only
  split <;> simp [h]

@[simp] theorem State.mailPop_within (m : Nat) (h : .tel ∈ l ∧ .mbx ∈ l) : Within l a (s.mailPop m) ↔ Within l a s := by
  unfold State.mailPop; split <;> simp [h]

@[simp] theorem State.peerMessage_within (x : Slot) (h : .tel ∈ l ∧ .lnk ∈ l) :
    Within l a (s.peerMessage x) ↔ Within l a s := by
  unfold State.peerMessage; dsimp only; (repeat' split) <;> simp [h]

@[simp] theorem State.mailTake_within (m : Nat) (h : .tel ∈ l ∧ .mbx ∈ l ∧ .lnk ∈ l) :
    Within l a (s.mailTake m) ↔ Within l a s := by
  unfold State.mailTake
  dsimp only
  split <;> simp [h]

@[simp] theorem State.idle_within (h : .tel ∈ l ∧ .time ∈ l ∧ .mbx ∈ l ∧ .lnk ∈ l) : Within l a s.idle ↔ Within l a s := by
  simp [State.idle, foldS_within, h]

theorem State.linkRow_within (c : Cmd) (op : Nat) (body : State → Verdict) (h : .tel ∈ l ∧ .host ∈ l ∧ .fresh ∈ l)
    (hb : ∀ t, Within l a t → Within l a (body t).state) (hs : Within l a s) : Within l a (s.linkRow c op body) :=
  State.subRow_within c _ _ [] body h hb hs

@[simp] theorem State.portTo_within (p : Nat) (st : PortSt) (h : .tel ∈ l ∧ .host ∈ l ∧ .lnk ∈ l ∧ .ctl ∈ l ∧ .ctxs ∈ l) :
    Within l a (s.portTo p st) ↔ Within l a s := by
  simp [State.portTo, h]

@[simp] theorem State.helloRefused_within (h : .tel ∈ l) : Within l a s.helloRefused ↔ Within l a s := by
  simp [State.helloRefused, h]

@[simp] theorem State.resend_within (e : Nat) (h : .tel ∈ l ∧ .lnk ∈ l) : Within l a (s.resend e) ↔ Within l a s := by
  simp [State.resend, foldS_within, h]

theorem State.onFrame_within (f : Frame) (g : Nat → State → State)
    (h : .tel ∈ l ∧ .host ∈ l ∧ .lnk ∈ l ∧ .ctl ∈ l ∧ .ctxs ∈ l) (hg : ∀ e t, Within l a t → Within l a (g e t))
    (hs : Within l a s) : Within l a (s.onFrame f g) := by
  unfold State.onFrame
  split
  · exact hs
  · dsimp only
    split
    · exact hs
    · split
      · simp [h, hs]
      · exact hg _ _ (by simp [h, hs])

theorem State.onCredited_within (f : Frame) (typ : Nat) (g : Nat → State → State)
    (h : .tel ∈ l ∧ .host ∈ l ∧ .lnk ∈ l ∧ .ctl ∈ l ∧ .ctxs ∈ l) (hg : ∀ e t, Within l a t → Within l a (g e t))
    (hs : Within l a s) : Within l a (s.onCredited f typ g) := by
  refine State.onFrame_within f _ h (fun e t ht => ?_) hs
  split
  · exact ht
  · exact (State.rxRelease_within _ _ (by simp [h])).2 (hg _ _ (by simp [h, ht]))

@[simp] theorem State.addDep_within (e c k : Nat) (h : .lnk ∈ l ∧ .ctxs ∈ l) :
    Within l a (s.addDep e c k) ↔ Within l a s := by
  unfold State.addDep
  dsimp only
  split <;> simp [h]

@[simp] theorem State.updCtlCore_within (k : CoreAB) (f : CtlCore → CtlCore) (h : .ctl ∈ l) :
    Within l a (s.updCtlCore k f) ↔ Within l a s := by
  simp [State.updCtlCore, h]

@[simp] theorem State.rolledBack_within (h : .tel ∈ l ∧ .host ∈ l ∧ .ctl ∈ l) :
    Within l a s.rolledBack ↔ Within l a s := by
  simp [State.rolledBack, h]

@[simp] theorem State.release_within (k : CoreAB) (planned beat : Bool) (h : .tel ∈ l ∧ .host ∈ l ∧ .ctl ∈ l) :
    Within l a (s.release k planned beat) ↔ Within l a s := by
  simp [State.release, h]

@[simp] theorem State.identityFails_within (values : List Nat) (h : .tel ∈ l ∧ .host ∈ l ∧ .glb ∈ l) :
    Within l a (s.identityFails values) ↔ Within l a s := by
  simp [State.identityFails, h]

@[simp] theorem State.looseEdits_within (c : Nat) (h : .ctxs ∈ l) : Within l a (s.looseEdits c) ↔ Within l a s := by
  simp [State.looseEdits, h]

@[simp] theorem State.lostCtx_within (c : Nat) (h : ∀ b : Block, b ∈ l) (hs : Within l a s) : Within l a (s.lostCtx c) := by
  unfold State.lostCtx
  extract_lets t u v
  have ht : Within l a t := by
    simp only [t]
    split <;> simp [h, hs]
  have hu : Within l a u := State.endWork_within _ _ _ (by simp [h]) (by simp [h, ht])
  have hv : Within l a v := (foldS_within _ _ fun x b => by simp [h]).2 hu
  split
  · exact hs
  · simp [h, hv]

@[simp] theorem State.controlLost_within (ok : Bool) (h : ∀ b : Block, b ∈ l) (hs : Within l a s) :
    Within l a (s.controlLost ok) := by
  unfold State.controlLost
  extract_lets t
  have ht : Within l a t := by
    simp only [t, State.doorbell_within, State.lifetime_within, h]
    exact foldS_preserves _ (Within l a) _ _ (fun x c hx => State.lostCtx_within c h hx) hs
  split <;> simp [h, ht]

@[simp] theorem State.lostReq_within (c id : Nat) (h : .tel ∈ l ∧ .peg ∈ l ∧ .tsu ∈ l ∧ .ctxs ∈ l) :
    Within l a (s.lostReq c id) ↔ Within l a s := by
  unfold State.lostReq
  split <;> simp [h]

@[simp] theorem State.restore_within (inp : RestoreInput) (h : ∀ b : Block, b ∈ l) (hs : Within l a s) :
    Within l a (s.restore inp) := by
  unfold State.restore
  dsimp only
  split
  · simp [h, hs]
  · split
    · exact (foldS_within _ _ fun t r => by simp [h]).2 (by simp [h, hs])
    · simp [h, hs]

@[simp] theorem State.updateTaken_within (k : CoreAB) (h : .tel ∈ l ∧ .host ∈ l ∧ .ctl ∈ l ∧ .sec ∈ l) :
    Within l a (s.updateTaken k) ↔ Within l a s := by
  simp [State.updateTaken, h]

@[simp] theorem State.catchUp_within (c : Nat) (h : ∀ b : Block, b ∈ l) (hs : Within l a s) :
    Within l a (s.catchUp c) := by
  simp [State.catchUp, h, hs]

@[simp] theorem State.staged_within (b : Bundle) (h : .ctl ∈ l) : Within l a (s.staged b) ↔ Within l a s := by
  simp [State.staged, h]

@[simp] theorem State.reportUp_within (h : .tel ∈ l ∧ .lnk ∈ l) : Within l a s.reportUp ↔ Within l a s := by
  unfold State.reportUp; split <;> simp [h]

@[simp] theorem State.reportMail_within (h : .tel ∈ l ∧ .host ∈ l ∧ .mbx ∈ l ∧ .fresh ∈ l) :
    Within l a s.reportMail.2 ↔ Within l a s := by
  unfold State.reportMail
  split <;> simp [h]

theorem State.activateRow_within (c : Cmd) (sel : Cmd → Bool) (live : Bool) (k : State → Bundle → Verdict)
    (h : .tel ∈ l ∧ .host ∈ l ∧ .fresh ∈ l ∧ .ctl ∈ l) (hk : ∀ t b, Within l a t → Within l a (k t b).state) (hs : Within l a s) :
    Within l a (s.activateRow c sel live k) := by
  refine State.subRow_within c _ _ [] _ (by simp [h]) (fun t ht => ?_) hs
  dsimp only
  rw [params_state]
  split
  · exact ht
  · split
    · exact ht
    · rw [checks_state]
      split
      · exact ht
      · exact hk _ _ (by simp [h, ht])

@[simp] theorem State.setPending_within (h : .ctl ∈ l) : Within l a s.setPending ↔ Within l a s := by
  simp [State.setPending, h]

@[simp] theorem State.clearMap_within (h : .drn ∈ l) : Within l a s.clearMap ↔ Within l a s := by
  simp [State.clearMap, h]

@[simp] theorem State.clearCore_within (n : Nat) (h : .drn ∈ l) : Within l a (s.clearCore n) ↔ Within l a s := by
  simp [State.clearCore, h]

@[simp] theorem State.showStore_within (o n : Nat) (h : .mem ∈ l) (hs : Within l a s) : Within l a (s.showStore o n) := by
  simp [State.showStore, h, hs]

end
end Sys2Proof.Machine

/-! Frames of channels, pegs, resets and keys. -/

namespace Sys2Proof.Machine
open Sys2Proof
section
variable {l : List Block} {a s : State}

@[simp] theorem State.moveRow_within (k : Chan) (ins : List Byte) (host : Blob) (i j n : Nat) (h : .host ∈ l ∧ .mem ∈ l)
    (hs : Within l a s) : Within l a (s.moveRow k ins host i j n) := by
  unfold State.moveRow
  extract_lets src dst sk t key ps
  have ht : Within l a t := by
    simp only [t]
    split <;> simp [h, hs]
  split
  · simp [h, ht]
  · refine State.updMem_within _ h.2 (fun w => Mem.wf_foldl _ _ (fun m p hm => ?_) w)
      (State.updMem_within _ h.2 (fun w => Mem.wf_foldl _ _ (fun m p hm => Mem.wf_freshRun _ _ hm) w) ht)
    split
    · exact Mem.wf_putAll _ _ _ hm
    · split
      · exact Mem.wf_putAll _ _ _ hm
      · exact Mem.wf_copyRun _ _ _ hm

@[simp] theorem State.moveSpan_within (k : Chan) (ins : List Byte) (host : Blob) (lo hi : Nat) (h : .host ∈ l ∧ .mem ∈ l) (hs : Within l a s) :
    Within l a (s.moveSpan k ins host lo hi) := by
  exact foldS_preserves _ (Within l a) _ _ (fun t x ht => by simp [h, ht]) hs

theorem State.takeUp_within {i : Nat} {ins : List Byte} {t : State} (e : s.takeUp i ins = some t) (h : .dma ∈ l) :
    Within l a t ↔ Within l a s := by
  unfold State.takeUp at e
  dsimp only at e
  (repeat' split at e) <;> cases e <;> simp [h]

theorem State.waitMet_within {i kind obj count : Nat} {t : State} (e : s.waitMet i kind obj count = some t) (h : .arr ∈ l ∧ .dma ∈ l) :
    Within l a t ↔ Within l a s := by
  unfold State.waitMet at e
  split at e <;> split at e <;> cases e <;> simp [h]

theorem State.chanCommand_within (r : Requester) (i : Nat) (f : State → State) (h : .ctl ∈ l ∧ .dma ∈ l)
    (hf : ∀ t, Within l a t → Within l a (f t)) (hs : Within l a s) : Within l a (s.chanCommand r i f) := by
  have hmine (core : CoreAB) : Within l a (if s.ctl.owner ≠ some core then s.notOwner
      else if !s.dmaLive then s
      else if (s.chan i).st ≠ .halted then s.updChan i fun k => { k with cmdIgnored := true }
      else f s) := by
    split
    · simp [h, hs]
    · split
      · exact hs
      · split
        · simp [h, hs]
        · exact hf _ hs
  unfold State.chanCommand
  cases r with
  | controlA => exact hmine .a
  | controlB => exact hmine .b
  | _ => exact hs

@[simp] theorem State.ueOwner_within (addr : Nat) (h : ∀ b : Block, b ∈ l) (hs : Within l a s) : Within l a (s.ueOwner addr) := by
  refine State.frameUe_within _ (by simp [h]) ?_
  split
  case h_1 c v _ =>
    split
    · have hr : Within l a (s.repair c (some (.weightPage (v * pageBytes)))).1 := State.repair_within _ _ (by simp [h]) hs
      dsimp only
      split
      · exact State.faultCtx_within _ _ h hr
      · exact hr
    · exact hs
  · split <;> simp [h, hs]

@[simp] theorem State.rinseWord_within (kind addr : Nat) (x : EccHit) (h : ∀ b : Block, b ∈ l) (hs : Within l a s) :
    Within l a (s.rinseWord kind addr x) := by
  cases x with
  | clean => exact hs
  | single => simp [State.rinseWord, h, hs]
  | double => simp [State.rinseWord, h, hs]
  | uncorrectable =>
    have he : Within l a (s.eccCount kind addr .uncorrectable) := by simp [h, hs]
    have hp (ks : List Nat) : Within l a ((s.eccCount kind addr .uncorrectable).updMem fun m =>
        ks.foldl (fun m k => m.setPoison k true) m) :=
      State.updMem_within _ (h _) (fun w => Mem.wf_foldl _ _ (fun m k hm => hm) w) he
    unfold State.rinseWord
    dsimp only
    split
    · exact State.updMem_within _ (h _) (fun w => Mem.wf_putAll _ _ _ w) he
    · split
      · exact State.ueOwner_within _ h (hp _)
      · exact hp _
  | miscorrected => simp [State.rinseWord, h, hs]

@[simp] theorem State.pegRecord_within (f : Nat) (r : PegRec) (h : .peg ∈ l ∧ .host ∈ l) :
    Within l a (s.pegRecord f r) ↔ Within l a s := by
  simp [State.pegRecord, h]

@[simp] theorem State.lateWork_within (b : Binding) (h : .tel ∈ l ∧ .peg ∈ l ∧ .host ∈ l ∧ .kvp ∈ l ∧ .sec ∈ l ∧ .vid ∈ l ∧ .mem ∈ l ∧ .ctxs ∈ l) (hs : Within l a s) :
    Within l a (s.lateWork b) := by
  unfold State.lateWork
  (repeat' split) <;> simp [h, hs]

@[simp] theorem State.pegWake_within (h : ∀ b : Block, b ∈ l) (hs : Within l a s) : Within l a s.pegWake := by
  simp [State.pegWake, h, hs]

@[simp] theorem State.firePeg_within (past : Bool) (n : Nat) (h : ∀ b : Block, b ∈ l) (hs : Within l a s) :
    Within l a (s.firePeg past n) := by
  unfold State.firePeg
  extract_lets p f t miss u v w x y z
  have hw : Within l a w := by simp [w, v, u, t, h, hs]
  have hz : Within l a y := by
    simp only [y]
    split
    · split <;> simp [x, h, hw]
    · split <;> simp [h, hw]
  have hy : Within l a z := foldS_preserves _ (Within l a) _ _ (fun t b ht => State.lateWork_within _ (by simp [h]) ht) hz
  split
  · exact State.pegWake_within (by simp [h]) hy
  · exact hy

@[simp] theorem State.fireLine_within (l_ : Nat) (h : ∀ b : Block, b ∈ l) (hs : Within l a s) :
    Within l a (s.fireLine l_) := by
  exact foldS_preserves _ (Within l a) _ _ (fun t x ht => by simp [h, ht]) hs

@[simp] theorem State.moveLine_within (l_ : Nat) (q : Pos) (h : ∀ b : Block, b ∈ l) (hs : Within l a s) :
    Within l a (s.moveLine l_ q) := by
  simp [State.moveLine, h, hs]

@[simp] theorem State.freePeg_within (n : Nat) (h : .peg ∈ l ∧ .fresh ∈ l ∧ .dma ∈ l) :
    Within l a (s.freePeg n) ↔ Within l a s := by
  simp [State.freePeg, h]

@[simp] theorem State.lineOffPeg_within (n : Nat) (h : .peg ∈ l ∧ .host ∈ l ∧ .fresh ∈ l ∧ .dma ∈ l) :
    Within l a (s.lineOffPeg n) ↔ Within l a s := by
  simp [State.lineOffPeg, h]

@[simp] theorem State.fetchFails_within (f n : Nat) (h : .host ∈ l) : Within l a (s.fetchFails f n) ↔ Within l a s := by
  simp [State.fetchFails, h]

@[simp] theorem State.pcieEnds_within (f n : Nat) (x : Pcie) (h : .host ∈ l) : Within l a (s.pcieEnds f n x) ↔ Within l a s := by
  cases x <;> simp [State.pcieEnds, h]

@[simp] theorem State.rewrite_within (f n : Nat) (h : .host ∈ l) : Within l a (s.rewrite f n) ↔ Within l a s := by
  simp [State.rewrite, foldS_within, h]

@[simp] theorem State.resetWindow_within (f : Nat) (h : .host ∈ l ∧ .ctxs ∈ l) :
    Within l a (s.resetWindow f) ↔ Within l a s := by
  simp [State.resetWindow, h]

@[simp] theorem State.dropInflight_within (p : Inflight → Bool) (h : .tel ∈ l ∧ .host ∈ l) :
    Within l a (s.dropInflight p) ↔ Within l a s := by
  simp [State.dropInflight, foldS_within, h]

@[simp] theorem State.resetHost_within (h : ∀ b : Block, b ∈ l) (hs : Within l a s) : Within l a s.resetHost := by
  unfold State.resetHost
  extract_lets t u v w
  have hu : Within l a u := (foldS_within _ _ fun x f => by simp [h]).2 (by simp [t, h, hs])
  have hw : Within l a w :=
    foldS_preserves _ (Within l a) _ _ (fun x c hx => by split <;> simp [h, hx]) (by simp [v, h, hu])
  simp [h, hw]

@[simp] theorem State.abandon_within (x : WaitFor)
    (h : .tel ∈ l ∧ .peg ∈ l ∧ .host ∈ l ∧ .tsu ∈ l ∧ .kvp ∈ l ∧ .glb ∈ l ∧ .sec ∈ l ∧ .vid ∈ l ∧ .mem ∈ l ∧ .ctxs ∈ l)
    (hs : Within l a s) : Within l a (s.abandon x) := by
  cases x with
  | dozed =>
    unfold State.abandon
    split <;> simp [h, hs]
  | _ => simp [State.abandon, h, hs]

@[simp] theorem State.flipUnit_within (c : Nat) (isPage : Bool) (n : Nat) (old : Bool) (h : .tel ∈ l ∧ .host ∈ l ∧ .kvp ∈ l ∧ .sec ∈ l ∧ .mem ∈ l) :
    Within l a (s.flipUnit c isPage n old) ↔ Within l a s := by
  simp [State.flipUnit, h]

theorem State.setRow_within (c : Cmd) (sel : Cmd → Bool) (body : State → Verdict) (h : .tel ∈ l ∧ .host ∈ l ∧ .fresh ∈ l)
    (hb : ∀ t, Within l a t → Within l a (body t).state) (hs : Within l a s) : Within l a (s.setRow c sel body) := by
  refine State.subRow_within c _ _ [] _ h (fun t ht => ?_) hs
  rw [params_state]
  split
  · exact ht
  · exact hb t ht

@[simp] theorem State.askSnapshot_within (h : .tel ∈ l) : Within l a s.askSnapshot ↔ Within l a s := by
  simp [State.askSnapshot, h]

@[simp] theorem State.snapReplies_within (h : .tel ∈ l ∧ .peg ∈ l ∧ .host ∈ l) : Within l a s.snapReplies ↔ Within l a s := by
  refine foldS_within _ _ fun t i => ?_
  split
  · dsimp only
    split
    · simp [h]
    · rw [State.complete_within _ _ (by simp [h])]
      split <;> split <;> simp [h, foldS_within]
  · rfl

@[simp] theorem State.suppressedRecords_within (h : .tel ∈ l) : Within l a s.suppressedRecords ↔ Within l a s := by
  simp [State.suppressedRecords, foldS_within, h]

end
end Sys2Proof.Machine

/-! Each command goes on and keeps its frame. -/

namespace Sys2Proof.Machine
open Sys2Proof
section
variable {l : List Block} {a s : State}

@[simp] theorem execEnSenseMake_ran (h : .board ∈ l) (hs : Within l a s) : Ran l a (execEnSenseMake s) := by
  simp [execEnSenseMake, h, hs]

@[simp] theorem execInputInRange_ran (h : .board ∈ l) (hs : Within l a s) : Ran l a (execInputInRange s) := by
  simp [execInputInRange, h, hs]

@[simp] theorem execTripLatchClear_ran (h : ∀ b : Block, b ∈ l) (hs : Within l a s) :
    Ran l a (execTripLatchClear s) := by
  simp [execTripLatchClear, h, hs]

@[simp] theorem execSwitchOpen_ran (cause : OpenCause) (h : ∀ b : Block, b ∈ l) (hs : Within l a s) :
    Ran l a (execSwitchOpen cause s) := by
  simp [execSwitchOpen, h, hs]

@[simp] theorem execPowerGood_ran (h : .tel ∈ l ∧ .time ∈ l ∧ .board ∈ l) (hs : Within l a s) :
    Ran l a (execPowerGood s) := by
  unfold execPowerGood
  split
  · refine ran_next.2 (hs.trans ⟨⟨rfl, fun b hb => ?_⟩, id⟩)
    cases b <;> simp_all [Block.same]
  · exact ran_next.2 hs

@[simp] theorem execStageComplete_ran (stage : Stage) (res : StageResult) (h : ∀ b : Block, b ∈ l) (hs : Within l a s) :
    Ran l a (execStageComplete stage res s) := by
  simp [execStageComplete, h, hs]

@[simp] theorem execStageTimeout_ran (h : ∀ b : Block, b ∈ l) (hs : Within l a s) : Ran l a (execStageTimeout s) := by
  unfold execStageTimeout
  split <;> simp [h, hs]

@[simp] theorem execCrystalTimeout_ran (h : ∀ b : Block, b ∈ l) (hs : Within l a s) :
    Ran l a (execCrystalTimeout s) := by
  simp [execCrystalTimeout, h, hs]

@[simp] theorem execXtalLost_ran (h : ∀ b : Block, b ∈ l) (hs : Within l a s) : Ran l a (execXtalLost s) := by
  unfold execXtalLost
  (repeat' split) <;> simp [h, hs]

@[simp] theorem execCrystalStable_ran (h : .peg ∈ l ∧ .clk ∈ l ∧ .glb ∈ l) (hs : Within l a s) :
    Ran l a (execCrystalStable s) := by
  unfold execCrystalStable
  (repeat' split) <;> simp [h, hs]

@[simp] theorem execClkCtlSrcWrite_ran (by_ : Requester) (value : Word) (h : .clk ∈ l) (hs : Within l a s) :
    Ran l a (execClkCtlSrcWrite by_ value s) := by
  simp [execClkCtlSrcWrite, h, hs]

@[simp] theorem execMuxSwitchDone_ran (mux : Fin 7) (h : .clk ∈ l) (hs : Within l a s) :
    Ran l a (execMuxSwitchDone mux s) := by
  unfold execMuxSwitchDone
  (repeat' split) <;> simp [h, hs]

/-- Every running context faults. -/
theorem faultRunning_within (h : ∀ b : Block, b ∈ l) (hs : Within l a s) :
    Within l a (foldS allCtxs (fun s c => if (s.ctx c).st = .running then s.faultCtx c stCtxFault else s) s) :=
  foldS_preserves _ (Within l a) _ _ (fun t c ht => by split <;> simp [h, ht]) hs

@[simp] theorem execMuxHung_ran (mux : Fin 7) (h : ∀ b : Block, b ∈ l) (hs : Within l a s) :
    Ran l a (execMuxHung mux s) := by
  unfold execMuxHung
  dsimp only
  split
  · exact ran_next.2 hs
  · split
    · simp [h, hs]
    · exact ran_next.2 (faultRunning_within h (by simp [h, hs]))

@[simp] theorem execFmeasStart_ran (value : Word) (h : .clk ∈ l) (hs : Within l a s) :
    Ran l a (execFmeasStart value s) := by
  simp [execFmeasStart, h, hs]

@[simp] theorem execFmeasDone_ran (edges : Word) (h : .clk ∈ l) (hs : Within l a s) :
    Ran l a (execFmeasDone edges s) := by
  simp [execFmeasDone, h, hs]

@[simp] theorem execClkPllSettingWrite_ran (pll : Fin 6) (value : Word) (h : .arr ∈ l ∧ .clk ∈ l ∧ .fresh ∈ l ∧ .mem ∈ l ∧ .ctxs ∈ l) (hs : Within l a s) :
    Ran l a (execClkPllSettingWrite pll value s) := by
  simp [execClkPllSettingWrite, h, hs]

@[simp] theorem execThermalRelease_ran (h : ∀ b : Block, b ∈ l) (hs : Within l a s) :
    Ran l a (execThermalRelease s) := by
  unfold execThermalRelease
  dsimp only
  (repeat' split) <;> simp [h, hs]

@[simp] theorem execDozeEntryTimeout_ran (h : ∀ b : Block, b ∈ l) (hs : Within l a s) :
    Ran l a (execDozeEntryTimeout s) := by
  unfold execDozeEntryTimeout
  split
  · exact ran_next.2 (State.checkDoze_within h (faultRunning_within h hs))
  · exact ran_next.2 hs

@[simp] theorem execPerstAssert_ran (h : ∀ b : Block, b ∈ l) (hs : Within l a s) : Ran l a (execPerstAssert s) := by
  simp [execPerstAssert, h, hs]

@[simp] theorem execPerstDeassert_ran (h : .glb ∈ l ∧ .board ∈ l) (hs : Within l a s) :
    Ran l a (execPerstDeassert s) := by
  simp [execPerstDeassert, h, hs]

@[simp] theorem execLatchOpen_ran (h : .host ∈ l ∧ .board ∈ l) (hs : Within l a s) : Ran l a (execLatchOpen s) := by
  simp [execLatchOpen, h, hs]

@[simp] theorem execLatchClose_ran (h : .host ∈ l ∧ .board ∈ l) (hs : Within l a s) : Ran l a (execLatchClose s) := by
  simp [execLatchClose, h, hs]

@[simp] theorem execVidOpen_ran (c : Cmd) (h : .tel ∈ l ∧ .host ∈ l ∧ .fresh ∈ l ∧ .vid ∈ l ∧ .mem ∈ l) (hs : Within l a s) :
    Ran l a (execVidOpen c s) := by
  refine ran_next.2 (State.row_within _ _ _ _ (by simp [h]) (fun t ht => ?_) hs)
  rw [params_state]
  refine iteInduction (motive := Within l a) (fun _ => ht) fun _ => ?_
  · rw [apply_ite Verdict.state]
    refine iteInduction (motive := Within l a) (fun _ => ht) fun _ => ?_
    · split
      · exact ht
      case _ n u e =>
        have hu : Within l a u := (State.pickSession_within e (by simp [h])).2 ht
        rw [apply_ite Verdict.state]
        refine iteInduction (motive := Within l a) (fun _ => hu) fun _ => ?_
        split
        · exact hu
        case _ gap v e' =>
          have hv : Within l a v := (State.pickPages_within e' (by simp [h])).2 hu
          refine iteInduction (motive := Within l a)
            (fun _ => (foldS_within _ _ fun w i => State.updBuf_within _ _ _ (by simp [h])).2 ?_) fun _ => ?_
          all_goals
            rw [State.updSess_within _ _ (by simp [h]), State.updVid_within _ (by simp [h]),
              State.mapRange_within _ _ _ _ _ (by simp [h])]
            exact hv

@[simp] theorem execVidReconfig_ran (c : Cmd) (h : .tel ∈ l ∧ .host ∈ l ∧ .fresh ∈ l ∧ .vid ∈ l) (hs : Within l a s) :
    Ran l a (execVidReconfig c s) := by
  refine ran_next.2 (State.row_within _ _ _ _ (by simp [h]) (fun t ht => ?_) hs)
  dsimp only
  (repeat' split) <;> simp [h, ht]

@[simp] theorem execVidClose_ran (c : Cmd) (h : .tel ∈ l ∧ .peg ∈ l ∧ .host ∈ l ∧ .fresh ∈ l ∧ .kvp ∈ l ∧ .sec ∈ l ∧ .vid ∈ l ∧ .mem ∈ l ∧ .ctxs ∈ l) (hs : Within l a s) :
    Ran l a (execVidClose c s) := by
  refine ran_next.2 (State.row_within _ _ _ _ (by simp [h]) (fun t ht => ?_) hs)
  dsimp only
  (repeat' split) <;> simp [h, ht]

@[simp] theorem execDecodeAu_ran (c : Cmd) (h : .tel ∈ l ∧ .peg ∈ l ∧ .host ∈ l ∧ .fresh ∈ l ∧ .vid ∈ l) (hs : Within l a s) :
    Ran l a (execDecodeAu c s) := by
  refine ran_next.2 (State.subRow_within _ _ _ _ _ (by simp [h]) (fun t ht => ?_) hs)
  simp only [params_state]
  (repeat' split) <;> simp [h, ht]

@[simp] theorem execEncode_ran (c : Cmd) (h : .tel ∈ l ∧ .peg ∈ l ∧ .host ∈ l ∧ .fresh ∈ l ∧ .vid ∈ l) (hs : Within l a s) :
    Ran l a (execEncode c s) := by
  refine ran_next.2 (State.subRow_within _ _ _ _ _ (by simp [h]) (fun t ht => ?_) hs)
  dsimp only
  (repeat' split) <;> simp [h, ht]

@[simp] theorem execRelease_ran (c : Cmd) (hostList : List (BitVec 32)) (h : .tel ∈ l ∧ .host ∈ l ∧ .fresh ∈ l ∧ .vid ∈ l) (hs : Within l a s) :
    Ran l a (execRelease c hostList s) := by
  refine ran_next.2 (State.subRow_within _ _ _ _ _ (by simp [h]) (fun t ht => ?_) hs)
  simp only [params_state]
  split
  · exact ht
  · split
    · exact ht
    case _ u e =>
      have hu : Within l a u := (dropHandles_within e (by simp [h])).2 ht
      rw [apply_ite Verdict.state]
      exact iteInduction (motive := Within l a) (fun _ => ht) fun _ => (foldS_within _ _ fun v k => by simp [h]).2 hu

@[simp] theorem execAcquire_ran (c : Cmd) (h : .tel ∈ l ∧ .host ∈ l ∧ .fresh ∈ l ∧ .vid ∈ l) (hs : Within l a s) :
    Ran l a (execAcquire c s) := by
  refine ran_next.2 (State.subRow_within _ _ _ _ _ (by simp [h]) (fun t ht => ?_) hs)
  simp only [params_state]
  split
  · exact ht
  · split
    · exact ht
    · split
      · exact ht
      case _ e => simp [h, State.choose_within e, ht]

@[simp] theorem execEos_ran (c : Cmd) (h : .tel ∈ l ∧ .peg ∈ l ∧ .host ∈ l ∧ .fresh ∈ l ∧ .vid ∈ l ∧ .mem ∈ l) (hs : Within l a s) :
    Ran l a (execEos c s) := by
  refine ran_next.2 (State.subRow_within _ _ _ _ _ (by simp [h]) (fun t ht => ?_) hs)
  dsimp only
  (repeat' split) <;> simp [h, ht]

@[simp] theorem execPictureStart_ran (pic : PictureTaken) (h : .tel ∈ l ∧ .peg ∈ l ∧ .host ∈ l ∧ .fresh ∈ l ∧ .kvp ∈ l ∧ .sec ∈ l ∧ .vid ∈ l ∧ .mem ∈ l ∧ .ctxs ∈ l) (hs : Within l a s) :
    Ran l a (execPictureStart pic s) := by
  simp [execPictureStart, h, hs]

@[simp] theorem execSliceDone_ran (bits : Nat) (last : Bool) (data : List Byte) (h : .host ∈ l ∧ .vid ∈ l ∧ .mem ∈ l) (hs : Within l a s) :
    Ran l a (execSliceDone bits last data s) := by
  simp [execSliceDone, h, hs]

@[simp] theorem execPictureDone_ran (pipe : Fin 3) (res : PicResult) (h : .tel ∈ l ∧ .peg ∈ l ∧ .host ∈ l ∧ .kvp ∈ l ∧ .sec ∈ l ∧ .vid ∈ l ∧ .mem ∈ l ∧ .ctxs ∈ l) (hs : Within l a s) :
    Ran l a (execPictureDone pipe res s) := by
  simp [execPictureDone, h, hs]

@[simp] theorem execPictureWatchdog_ran (pipe : Fin 3) (res : PicResult) (h : .tel ∈ l ∧ .peg ∈ l ∧ .host ∈ l ∧ .kvp ∈ l ∧ .sec ∈ l ∧ .vid ∈ l ∧ .mem ∈ l ∧ .ctxs ∈ l) (hs : Within l a s) :
    Ran l a (execPictureWatchdog pipe res s) := by
  simp [execPictureWatchdog, h, hs]

theorem State.setCtxs_within (x : Tbl Ctx) (h : .ctxs ∈ l) : Within l a { s with ctxs := x } ↔ Within l a s := by
  refine Within.iff_of_keeps (m := [.ctxs]) ⟨rfl, fun b hb => ?_⟩ (by decide) (by simpa using h)
  cases b <;> simp_all [Block.same]

@[simp] theorem execCtxOpen_ran (c : Cmd) (h : .tel ∈ l ∧ .host ∈ l ∧ .fresh ∈ l ∧ .kvp ∈ l ∧ .sec ∈ l ∧ .ctxs ∈ l) (hs : Within l a s) :
    Ran l a (execCtxOpen c s) := by
  refine ran_next.2 (State.row_within _ _ _ _ (by simp [h]) (fun t ht => ?_) hs)
  rw [params_state]
  refine iteInduction (motive := Within l a) (fun _ => ht) fun _ => ?_
  rw [apply_ite Verdict.state]
  refine iteInduction (motive := Within l a) (fun _ => ht) fun _ => ?_
  dsimp only
  rw [apply_ite Verdict.state]
  refine iteInduction (motive := Within l a) (fun _ => ht) fun _ => ?_
  split
  · exact ht
  case _ lo u e =>
    have hu : Within l a u := (State.pickRange_within e (by simp [h])).2 ht
    split
    · exact hu
    case _ pages lists v e' =>
      have hv : Within l a v := (State.placeCtx_within e' (by simp [h])).2 hu
      rw [Verdict.state_reply, State.updSec_within _ (by simp [h]), State.updFunc_within _ _ (by simp [h]),
        State.setCtxs_within _ (by simp [h]), foldS_within _ _ fun w e => State.updKvp_within _ (by simp [h]),
        foldS_within _ _ fun w e => State.updPage_within _ _ (by simp [h])]
      exact hv

@[simp] theorem execCtxReset_ran (c : Cmd) (h : ∀ b : Block, b ∈ l) (hs : Within l a s) :
    Ran l a (execCtxReset c s) := by
  refine ran_next.2 (State.row_within _ _ _ _ (by simp [h]) (fun t ht => ?_) hs)
  dsimp only
  (repeat' split) <;> simp [h, ht]

@[simp] theorem execCtxClose_ran (c : Cmd) (h : ∀ b : Block, b ∈ l) (hs : Within l a s) :
    Ran l a (execCtxClose c s) := by
  refine ran_next.2 (State.row_within _ _ _ _ (by simp [h]) (fun t ht => ?_) hs)
  simp [h, ht]

@[simp] theorem execCtxQuery_ran (c : Cmd) (h : .tel ∈ l ∧ .host ∈ l ∧ .fresh ∈ l) (hs : Within l a s) :
    Ran l a (execCtxQuery c s) := by
  refine ran_next.2 (State.row_within _ _ _ _ (by simp [h]) (fun t ht => ?_) hs)
  simp [ht]

@[simp] theorem execJobRun_ran (c : Cmd) (h : .tel ∈ l ∧ .peg ∈ l ∧ .host ∈ l ∧ .fresh ∈ l ∧ .vid ∈ l ∧ .ctxs ∈ l) (hs : Within l a s) :
    Ran l a (execJobRun c s) := by
  refine ran_next.2 (State.row_within _ _ _ _ (by simp [h]) (fun t ht => ?_) hs)
  simp only [params_state]
  split
  · exact ht
  · split
    · exact ht
    · split
      · exact ht
      · split <;> simp [h, ht, foldS_within]

@[simp] theorem execJobAbort_ran (c : Cmd) (h : .tel ∈ l ∧ .peg ∈ l ∧ .host ∈ l ∧ .fresh ∈ l ∧ .kvp ∈ l ∧ .sec ∈ l ∧ .vid ∈ l ∧ .mem ∈ l ∧ .ctxs ∈ l) (hs : Within l a s) :
    Ran l a (execJobAbort c s) := by
  refine ran_next.2 (State.row_within _ _ _ _ (by simp [h]) (fun t ht => ?_) hs)
  dsimp only
  (repeat' split) <;> simp [h, ht]

@[simp] theorem execQuiesce_ran (c : Cmd) (h : .tel ∈ l ∧ .host ∈ l ∧ .fresh ∈ l ∧ .glb ∈ l) (hs : Within l a s) :
    Ran l a (execQuiesce c s) := by
  refine ran_next.2 (State.row_within _ _ _ _ (by simp [h]) (fun t ht => ?_) hs)
  dsimp only
  (repeat' split) <;> simp [h, ht]

theorem settleAllJobs_within (h : .tel ∈ l ∧ .peg ∈ l ∧ .host ∈ l ∧ .kvp ∈ l ∧ .sec ∈ l ∧ .vid ∈ l ∧ .mem ∈ l ∧ .ctxs ∈ l)
    (hs : Within l a s) : Within l a (foldS allCtxs (fun s i => s.settleJobs i) s) :=
  foldS_preserves _ (Within l a) _ _ (fun _ c ht => State.settleJobs_within c h ht) hs

@[simp] theorem execDrain_ran (c : Cmd) (h : .tel ∈ l ∧ .peg ∈ l ∧ .host ∈ l ∧ .fresh ∈ l ∧ .kvp ∈ l ∧ .glb ∈ l ∧ .sec ∈ l ∧ .vid ∈ l ∧ .mem ∈ l ∧ .ctxs ∈ l) (hs : Within l a s) :
    Ran l a (execDrain c s) := by
  refine ran_next.2 (State.row_within _ _ _ _ (by simp [h]) (fun t ht => ?_) hs)
  rw [params_state]
  refine iteInduction (motive := Within l a) (fun _ => ht) fun _ => ?_
  extract_lets u v w x y
  have hw : Within l a w := by
    simp only [w]
    split <;> simp [v, u, h, ht]
  have hy : Within l a y := (State.checkDrained_within (by simp [h])).2 (settleAllJobs_within (by simp [h]) hw)
  clear_value y
  split
  · split <;> exact hy
  · split <;> exact hy
  all_goals exact ht

@[simp] theorem execResume_ran (c : Cmd) (h : .tel ∈ l ∧ .host ∈ l ∧ .fresh ∈ l ∧ .glb ∈ l ∧ .ctxs ∈ l) (hs : Within l a s) :
    Ran l a (execResume c s) := by
  refine ran_next.2 (State.row_within _ _ _ _ (by simp [h]) (fun t ht => ?_) hs)
  simp only [params_state]
  split
  · exact ht
  · split
    · simp [h, ht, foldS_within]
    all_goals exact ht

@[simp] theorem execDrainLimit_ran (h : .tel ∈ l ∧ .peg ∈ l ∧ .host ∈ l ∧ .kvp ∈ l ∧ .glb ∈ l ∧ .sec ∈ l ∧ .vid ∈ l ∧ .mem ∈ l ∧ .ctxs ∈ l) (hs : Within l a s) :
    Ran l a (execDrainLimit s) := by
  unfold execDrainLimit
  split
  · exact ran_next.2 hs
  · split
    · exact ran_next.2 hs
    · dsimp only
      split
      · refine ran_next.2 ((State.checkDrained_within (by simp [h])).2 (settleAllJobs_within (by simp [h]) ?_))
        simp [h, hs]
      all_goals simp [h, hs]

@[simp] theorem execPowerControllerTick_ran (inputDw thermalW : Nat) (h : .tel ∈ l ∧ .arr ∈ l ∧ .clk ∈ l ∧ .fresh ∈ l ∧ .pwr ∈ l ∧ .ctxs ∈ l) (hs : Within l a s) :
    Ran l a (execPowerControllerTick inputDw thermalW s) := by
  simp [execPowerControllerTick, h, hs]

@[simp] theorem execPmbusTelemetry_ran (vin iin pin temp : Word) (h : .pwr ∈ l) (hs : Within l a s) :
    Ran l a (execPmbusTelemetry vin iin pin temp s) := by
  simp [execPmbusTelemetry, h, hs]

@[simp] theorem execBrakeAssert_ran (h : .tel ∈ l ∧ .arr ∈ l ∧ .host ∈ l ∧ .clk ∈ l ∧ .pwr ∈ l ∧ .ctxs ∈ l) (hs : Within l a s) :
    Ran l a (execBrakeAssert s) := by
  simp [execBrakeAssert, h, hs]

@[simp] theorem execBrakeRelease_ran (h : .pwr ∈ l) (hs : Within l a s) : Ran l a (execBrakeRelease s) := by
  simp [execBrakeRelease, h, hs]

@[simp] theorem execPwrWarnAssert_ran (h : .tel ∈ l ∧ .arr ∈ l ∧ .host ∈ l ∧ .clk ∈ l ∧ .pwr ∈ l ∧ .ctxs ∈ l) (hs : Within l a s) :
    Ran l a (execPwrWarnAssert s) := by
  simp [execPwrWarnAssert, h, hs]

@[simp] theorem execPwrWarnRelease_ran (h : .pwr ∈ l) (hs : Within l a s) : Ran l a (execPwrWarnRelease s) := by
  simp [execPwrWarnRelease, h, hs]

@[simp] theorem execCoolantFault_ran (flow : Bool) (inlet : Int) (h : .tel ∈ l ∧ .host ∈ l ∧ .pwr ∈ l) (hs : Within l a s) :
    Ran l a (execCoolantFault flow inlet s) := by
  simp [execCoolantFault, h, hs]

@[simp] theorem execCoolantFaultClear_ran (flow : Bool) (inlet : Int) (h : .pwr ∈ l) (hs : Within l a s) :
    Ran l a (execCoolantFaultClear flow inlet s) := by
  simp [execCoolantFaultClear, h, hs]

@[simp] theorem execDieSensorRead_ran (temps : List Int) (h : ∀ b : Block, b ∈ l) (hs : Within l a s) :
    Ran l a (execDieSensorRead temps s) := by
  simp [execDieSensorRead, h, hs]

@[simp] theorem execHeartbeatLoss_ran (h : .pwr ∈ l) (hs : Within l a s) : Ran l a (execHeartbeatLoss s) := by
  simp [execHeartbeatLoss, h, hs]

@[simp] theorem execOrphan_ran (h : .tel ∈ l ∧ .host ∈ l ∧ .pwr ∈ l) (hs : Within l a s) : Ran l a (execOrphan s) := by
  simp [execOrphan, h, hs]

@[simp] theorem execSetCap_ran (c : Cmd) (h : .tel ∈ l ∧ .host ∈ l ∧ .fresh ∈ l ∧ .pwr ∈ l ∧ .settings ∈ l) (hs : Within l a s) :
    Ran l a (execSetCap c s) := by
  refine ran_next.2 (State.powerRow_within _ _ _ _ (by simp [h]) (fun t ht => ?_) hs)
  simp [h, ht]

@[simp] theorem execSetRamp_ran (c : Cmd) (h : .tel ∈ l ∧ .host ∈ l ∧ .fresh ∈ l ∧ .pwr ∈ l ∧ .settings ∈ l) (hs : Within l a s) :
    Ran l a (execSetRamp c s) := by
  refine ran_next.2 (State.powerRow_within _ _ _ _ (by simp [h]) (fun t ht => ?_) hs)
  simp [h, ht]

@[simp] theorem execHeartbeat_ran (c : Cmd) (h : .tel ∈ l ∧ .host ∈ l ∧ .fresh ∈ l ∧ .pwr ∈ l) (hs : Within l a s) :
    Ran l a (execHeartbeat c s) := by
  refine ran_next.2 (State.powerRow_within _ _ _ _ (by simp [h]) (fun t ht => ?_) hs)
  simp [ht]

@[simp] theorem execDoze_ran (c : Cmd) (h : ∀ b : Block, b ∈ l) (hs : Within l a s) : Ran l a (execDoze c s) := by
  refine ran_next.2 (State.powerRow_within _ _ _ _ (by simp [h]) (fun t ht => ?_) hs)
  dsimp only
  (repeat' split) <;> simp [h, ht]

@[simp] theorem execWake_ran (c : Cmd) (h : ∀ b : Block, b ∈ l) (hs : Within l a s) : Ran l a (execWake c s) := by
  refine ran_next.2 (State.powerRow_within _ _ _ _ (by simp [h]) (fun t ht => ?_) hs)
  simp [h, ht]

@[simp] theorem execSetLimits_ran (c : Cmd) (h : .tel ∈ l ∧ .host ∈ l ∧ .fresh ∈ l ∧ .pwr ∈ l ∧ .settings ∈ l) (hs : Within l a s) :
    Ran l a (execSetLimits c s) := by
  refine ran_next.2 (State.powerRow_within _ _ _ _ (by simp [h]) (fun t ht => ?_) hs)
  simp [h, ht]

@[simp] theorem execPowerQuery_ran (c : Cmd) (h : .tel ∈ l ∧ .host ∈ l ∧ .fresh ∈ l ∧ .pwr ∈ l) (hs : Within l a s) :
    Ran l a (execPowerQuery c s) := by
  refine ran_next.2 (State.powerRow_within _ _ _ _ (by simp [h]) (fun t ht => ?_) hs)
  simp [ht]

@[simp] theorem execReqSubmit_ran (c : Cmd) (h : .tel ∈ l ∧ .peg ∈ l ∧ .host ∈ l ∧ .tsu ∈ l ∧ .fresh ∈ l ∧ .ctxs ∈ l) (hs : Within l a s) :
    Ran l a (execReqSubmit c s) := by
  refine ran_next.2 (State.row_within _ _ _ _ (by simp [h]) (fun t ht => ?_) hs)
  simp [h, ht]

@[simp] theorem execReqCancel_ran (c : Cmd) (h : .tel ∈ l ∧ .host ∈ l ∧ .fresh ∈ l ∧ .ctxs ∈ l) (hs : Within l a s) :
    Ran l a (execReqCancel c s) := by
  refine ran_next.2 (State.row_within _ _ _ _ (by simp [h]) (fun t ht => ?_) hs)
  dsimp only
  (repeat' split) <;> simp [h, ht]

@[simp] theorem execReqQuery_ran (c : Cmd) (h : .tel ∈ l ∧ .host ∈ l ∧ .fresh ∈ l) (hs : Within l a s) :
    Ran l a (execReqQuery c s) := by
  refine ran_next.2 (State.row_within _ _ _ _ (by simp [h]) (fun t ht => ?_) hs)
  dsimp only
  (repeat' split) <;> simp [ht]

@[simp] theorem execAccountSet_ran (c : Cmd) (h : .tel ∈ l ∧ .peg ∈ l ∧ .host ∈ l ∧ .tsu ∈ l ∧ .fresh ∈ l ∧ .ctxs ∈ l) (hs : Within l a s) :
    Ran l a (execAccountSet c s) := by
  refine ran_next.2 (State.row_within _ _ _ _ (by simp [h]) (fun t ht => ?_) hs)
  simp [h, ht]

@[simp] theorem execAccountQuery_ran (c : Cmd) (h : .tel ∈ l ∧ .host ∈ l ∧ .fresh ∈ l) (hs : Within l a s) :
    Ran l a (execAccountQuery c s) := by
  refine ran_next.2 (State.row_within _ _ _ _ (by simp [h]) (fun t ht => ?_) hs)
  simp [ht]

@[simp] theorem execPrefixPin_ran (c : Cmd) (h : .tel ∈ l ∧ .host ∈ l ∧ .fresh ∈ l ∧ .ctxs ∈ l) (hs : Within l a s) :
    Ran l a (execPrefixPin c s) := by
  refine ran_next.2 (State.row_within _ _ _ _ (by simp [h]) (fun t ht => ?_) hs)
  dsimp only
  (repeat' split) <;> simp [h, ht]

@[simp] theorem execPrefixRelease_ran (c : Cmd) (h : .tel ∈ l ∧ .host ∈ l ∧ .fresh ∈ l ∧ .ctxs ∈ l) (hs : Within l a s) :
    Ran l a (execPrefixRelease c s) := by
  refine ran_next.2 (State.row_within _ _ _ _ (by simp [h]) (fun t ht => ?_) hs)
  dsimp only
  (repeat' split) <;> simp [h, ht]

@[simp] theorem execPatchLoad_ran (c : Cmd) (pkg : Blob) (h : .tel ∈ l ∧ .host ∈ l ∧ .tsu ∈ l ∧ .fresh ∈ l) (hs : Within l a s) :
    Ran l a (execPatchLoad c pkg s) := by
  refine ran_next.2 (State.row_within _ _ _ _ (by simp [h]) (fun t ht => ?_) hs)
  simp only [params_state]
  split
  · exact ht
  · split
    · exact ht
    · split
      · exact ht
      · split
        · exact ht
        case _ e => simp [h, State.choose_within e, ht]

@[simp] theorem execPatchRetire_ran (c : Cmd) (h : .tel ∈ l ∧ .host ∈ l ∧ .tsu ∈ l ∧ .fresh ∈ l ∧ .ctxs ∈ l) (hs : Within l a s) :
    Ran l a (execPatchRetire c s) := by
  refine ran_next.2 (State.row_within _ _ _ _ (by simp [h]) (fun t ht => ?_) hs)
  dsimp only
  (repeat' split) <;> simp [h, ht]

@[simp] theorem execGrammarLoad_ran (c : Cmd) (table : Blob) (h : .tel ∈ l ∧ .host ∈ l ∧ .tsu ∈ l ∧ .fresh ∈ l ∧ .ctxs ∈ l) (hs : Within l a s) :
    Ran l a (execGrammarLoad c table s) := by
  refine ran_next.2 (State.row_within _ _ _ _ (by simp [h]) (fun t ht => ?_) hs)
  simp [h, ht]

@[simp] theorem execGrammarUnload_ran (c : Cmd) (h : .tel ∈ l ∧ .host ∈ l ∧ .tsu ∈ l ∧ .fresh ∈ l ∧ .ctxs ∈ l) (hs : Within l a s) :
    Ran l a (execGrammarUnload c s) := by
  refine ran_next.2 (State.row_within _ _ _ _ (by simp [h]) (fun t ht => ?_) hs)
  simp [h, ht]

@[simp] theorem execWeightsLoad_ran (c : Cmd) (pkg : Blob) (unwrapOk tagsOk : Bool) (h : .tel ∈ l ∧ .host ∈ l ∧ .fresh ∈ l ∧ .mem ∈ l ∧ .ctxs ∈ l) (hs : Within l a s) :
    Ran l a (execWeightsLoad c pkg unwrapOk tagsOk s) := by
  refine ran_next.2 (State.row_within _ _ _ _ (by simp [h]) (fun t ht => ?_) hs)
  simp [h, ht]

@[simp] theorem execWeightsUnload_ran (c : Cmd) (h : .tel ∈ l ∧ .host ∈ l ∧ .fresh ∈ l ∧ .sec ∈ l ∧ .mem ∈ l ∧ .ctxs ∈ l) (hs : Within l a s) :
    Ran l a (execWeightsUnload c s) := by
  refine ran_next.2 (State.row_within _ _ _ _ (by simp [h]) (fun t ht => ?_) hs)
  dsimp only
  (repeat' split) <;> simp [h, ht]

@[simp] theorem execWeightReloadDone_ran (ctx : CtxId) (h : .mem ∈ l ∧ .ctxs ∈ l) (hs : Within l a s) :
    Ran l a (execWeightReloadDone ctx s) := by
  unfold execWeightReloadDone
  dsimp only
  (repeat' split) <;> simp [h, hs]

@[simp] theorem execWeightReloadTimeout_ran (ctx : CtxId) (h : ∀ b : Block, b ∈ l) (hs : Within l a s) :
    Ran l a (execWeightReloadTimeout ctx s) := by
  simp [execWeightReloadTimeout, h, hs]

@[simp] theorem execSchedLoad_ran (c : Cmd) (img : Image) (h : .tel ∈ l ∧ .host ∈ l ∧ .fresh ∈ l ∧ .mem ∈ l ∧ .ctxs ∈ l) (hs : Within l a s) :
    Ran l a (execSchedLoad c img s) := by
  refine ran_next.2 (State.row_within _ _ _ _ (by simp [h]) (fun t ht => ?_) hs)
  simp only [params_state]
  split
  · exact ht
  · split
    · exact ht
    · split
      · exact ht
      case _ e => simp [h, State.choose_within e, ht]

@[simp] theorem execSchedUnload_ran (c : Cmd) (h : .tel ∈ l ∧ .host ∈ l ∧ .fresh ∈ l ∧ .sec ∈ l ∧ .mem ∈ l ∧ .ctxs ∈ l) (hs : Within l a s) :
    Ran l a (execSchedUnload c s) := by
  refine ran_next.2 (State.row_within _ _ _ _ (by simp [h]) (fun t ht => ?_) hs)
  simp only [params_state]
  split
  · exact ht
  · split
    · exact ht
    · split
      · exact ht
      · exact foldS_preserves _ (Within l a) _ _ (fun u v hu => by simp [h, hu]) (by simp [h, ht])

/-- The next step begins; without one the context leaves the array. -/
theorem beginOrLeave_ran (c : Nat) (o : Option StepRec) (h : ∀ b : Block, b ∈ l) (hs : Within l a s) :
    Ran l a (match o with
      | none => .next (s.leave c [])
      | some r => .next (s.beginStep c r)) := by
  cases o <;> simp [h, hs]

theorem madeNext_within (c : Nat) (p : Prop) [Decidable p] (h : ∀ b : Block, b ∈ l) (hs : Within l a s) :
    Within l a (if p then s.boundary c else s) := by
  split <;> simp [h, hs]

@[simp] theorem execStepBegin_ran (ctx : CtxId) (h : ∀ b : Block, b ∈ l) (hs : Within l a s) :
    Ran l a (execStepBegin ctx s) := by
  unfold execStepBegin
  extract_lets c x t u v w
  have ht : Within l a t := madeNext_within _ _ h hs
  have hv : Within l a v := by simp [v, u, h, hs]
  have hw : Within l a w := madeNext_within _ _ h hv
  split
  · exact ran_next.2 hs
  · split
    · split
      · exact ran_next.2 hs
      · exact beginOrLeave_ran c _ h ht
    · refine iteInduction (motive := Ran l a) (fun _ => ran_next.2 hs) fun _ => ?_
      refine iteInduction (motive := Ran l a) (fun _ => ran_next.2 (State.resumeStep_within _ (by simp [h]) ?_)) fun _ => ?_
      · simp [u, h, hs]
      · refine iteInduction (motive := Ran l a) (fun _ => ran_next.2 hv) fun _ => ?_
        exact beginOrLeave_ran c _ h hw

/-- The referee's verdicts, where there is a mismatch. -/
theorem verdictsTaken_within (c k m : Nat) (rs : List Referee)
    (h : .tel ∈ l ∧ .host ∈ l ∧ .glb ∈ l ∧ .drn ∈ l ∧ .board ∈ l ∧ .ctxs ∈ l) (hs : Within l a s) :
    Within l a (if m = 0 then (s, false) else s.referee c k rs).1 := by
  split
  · exact hs
  · exact (State.referee_within _ _ _ h).2 hs

/-- A fence whose hand-off buffers are not back faults, another ends the step. -/
theorem fenceCredits_ran (c : Nat) (r : StepRec) (inp : FenceInput) (ext : List Bool) (h : ∀ b : Block, b ∈ l) (hs : Within l a s) :
    Ran l a (if !s.badHandoffs.isEmpty then .next (s.creditFault c s.badHandoffs) else .next (s.endFence c r inp ext)) := by
  split
  · exact ran_next.2 (State.creditFault_within _ _ h hs)
  · exact ran_next.2 (State.endFence_within _ _ _ _ h hs)

@[simp] theorem execStepFenceComplete_ran (ctx : CtxId) (inp : FenceInput) (h : ∀ b : Block, b ∈ l) (hs : Within l a s) :
    Ran l a (execStepFenceComplete ctx inp s) := by
  unfold execStepFenceComplete
  extract_lets c wait
  have hwait : Within l a wait := (State.updActx_within _ _ (h _)).2 hs
  split
  · exact ran_next.2 hs
  · split
    · exact ran_next.2 hs
    · split
      · exact ran_next.2 (State.settleFence_within _ _ h hs)
      · split
        · exact ran_next.2 (State.urgentSwitch_within _ _ h hs)
        · split
          · exact ran_next.2 hs
          · split
            case _ p _ _ _ =>
              dsimp only
              split
              · exact ran_next.2 hwait
              · have hp : Within l a (s.applyChecks c p.k (fun _ => true) (inp.extension.take p.checksLeft)) := by simp [h, hs]
                have hq (m : Nat) := verdictsTaken_within c p.k m inp.referee (by simp [h]) hp
                refine iteInduction (motive := Ran l a) (fun _ => ran_next.2 hwait) fun _ => ?_
                refine iteInduction (motive := Ran l a) (fun _ => ran_next.2 (State.suspectAll_within h (hq _))) fun _ => ?_
                refine iteInduction (motive := Ran l a) (fun _ => ran_next.2 hwait) fun _ => ?_
                exact fenceCredits_ran c _ _ _ h (hq _)
            · exact fenceCredits_ran c _ _ _ h hs

@[simp] theorem execStepWatchdogExpiry_ran (ctx : CtxId) (h : ∀ b : Block, b ∈ l) (hs : Within l a s) :
    Ran l a (execStepWatchdogExpiry ctx s) := by
  unfold execStepWatchdogExpiry
  dsimp only
  split
  · exact ran_next.2 hs
  · exact ran_next.2 ((State.updActx_within _ _ (h _)).2 (State.faultCtx_within _ _ h (State.commitBefore_within _ h (by simp [h, hs]))))

@[simp] theorem execForcedWashPause_ran (act : WashAct) (h : .arr ∈ l ∧ .mem ∈ l) (hs : Within l a s) :
    Ran l a (execForcedWashPause act s) := by
  unfold execForcedWashPause
  (repeat' split) <;> simp [h, hs]

@[simp] theorem execWashPauseEnd_ran (h : ∀ b : Block, b ∈ l) (hs : Within l a s) : Ran l a (execWashPauseEnd s) := by
  unfold execWashPauseEnd
  split <;> simp [h, hs]

@[simp] theorem execNostepBoundary_ran (h : .tel ∈ l ∧ .peg ∈ l ∧ .host ∈ l ∧ .tsu ∈ l ∧ .fresh ∈ l ∧ .kvp ∈ l ∧ .glb ∈ l ∧ .sec ∈ l ∧ .mem ∈ l ∧ .ctxs ∈ l) (hs : Within l a s) :
    Ran l a (execNostepBoundary s) := by
  unfold execNostepBoundary
  split
  · exact ran_next.2 hs
  · refine ran_next.2 ((State.checkDrained_within (by simp [h])).2 ?_)
    refine foldS_preserves _ (Within l a) _ _ (fun t c ht => ?_) hs
    extract_lets x u v m w y
    have hu : Within l a u := (foldS_within _ _ fun z r => by simp [h]).2 ht
    have hv : Within l a v := (State.admission_within _ (by simp [h])).2 hu
    have hw : Within l a w := by
      simp only [w]
      split
      · exact (State.settleBatch_within _ _ _ (by simp [h])).2 (State.applyEdits_within _ _ _ _ (by simp [h]) hv)
      · exact hv
    have hy : Within l a y := by
      simp only [y]
      split <;> simp [h, hw]
    split
    · exact ht
    · split <;> simp [h, hy]

@[simp] theorem execAccountRefill_ran (h : .tel ∈ l ∧ .ctxs ∈ l) (hs : Within l a s) :
    Ran l a (execAccountRefill s) := by
  have hf : Within l a (foldS allCtxs (fun s c => foldS (s.ctx c).accounts (fun s e =>
      (s.updAcct c e.1 fun a => { a with rem := (e.2.rem + e.2.rate) % 1000 }).accGrant c e.1 ((e.2.rem + e.2.rate) / 1000)) s) s) :=
    (foldS_within _ _ fun t c => foldS_within _ _ fun u e => by simp [h]).2 hs
  unfold execAccountRefill
  split
  case h_6 => split <;> simp [hf, hs]
  all_goals simp [hs]

@[simp] theorem execTokenRingTimeout_ran (ctx : CtxId) (h : ∀ b : Block, b ∈ l) (hs : Within l a s) :
    Ran l a (execTokenRingTimeout ctx s) := by
  unfold execTokenRingTimeout
  dsimp only
  split <;> simp [h, hs]

@[simp] theorem execOpBegin_ran (core : CoreId) (op : Nat) (temp : Int) (h : .atn ∈ l ∧ .arr ∈ l) (hs : Within l a s) :
    Ran l a (execOpBegin core op temp s) := by
  refine State.onCore_ran _ _ _ (fun c => ?_) hs
  extract_lets first t
  have ht : Within l a t := by simp [t, h, hs]
  split
  · split
    · exact (State.setAtn_within _ (by simp [h])).2 ht
    · exact ht
  · exact ht

@[simp] theorem execIssue_ran (core : CoreId) (queue : Fin 4) (desc : Desc) (h : .arr ∈ l) (hs : Within l a s) :
    Ran l a (execIssue core queue desc s) := by
  refine State.onCore_ran _ _ _ (fun c => ?_) hs
  split <;> simp [h, hs]

@[simp] theorem execCreditWait_ran (core : CoreId) (reg : Fin 32) (count : Nat) (h : .arr ∈ l) (hs : Within l a s) :
    Ran l a (execCreditWait core reg count s) := by
  refine State.onCore_ran _ _ _ (fun c => ?_) hs
  split <;> simp [h, hs]

@[simp] theorem execCreditWaitRelease_ran (core : CoreId) (h : .arr ∈ l) (hs : Within l a s) :
    Ran l a (execCreditWaitRelease core s) := by
  simp [execCreditWaitRelease, h, hs]

@[simp] theorem execCreditSend_ran (core dst : CoreId) (reg : Fin 32) (count : Nat) (h : .tel ∈ l ∧ .arr ∈ l ∧ .fresh ∈ l) (hs : Within l a s) :
    Ran l a (execCreditSend core dst reg count s) := by
  refine State.onCore_ran _ _ _ (fun c => ?_) hs
  simp [h, hs]

@[simp] theorem execCheckSlot_ran (core : CoreId) (cycles : Nat) (equal : List Bool) (h : .tel ∈ l ∧ .arr ∈ l ∧ .ctxs ∈ l) (hs : Within l a s) :
    Ran l a (execCheckSlot core cycles equal s) := by
  refine State.onCore_ran _ _ _ (fun c => ?_) hs
  rw [State.pcNext_within _ (by simp [h])]
  split
  · split <;> simp [h, hs]
  · exact hs

@[simp] theorem execModeFence_ran (core : CoreId) (press : Bool) (h : .arr ∈ l) (hs : Within l a s) :
    Ran l a (execModeFence core press s) := by
  refine State.onCore_ran _ _ _ (fun c => ?_) hs
  simp [h, hs]

@[simp] theorem execModeFenceProceed_ran (excessNs : Nat) (h : .tel ∈ l ∧ .arr ∈ l ∧ .clk ∈ l ∧ .pwr ∈ l ∧ .ctxs ∈ l) (hs : Within l a s) :
    Ran l a (execModeFenceProceed excessNs s) := by
  unfold execModeFenceProceed
  split <;> simp [h, hs]

@[simp] theorem execStepFence_ran (core : CoreId) (h : ∀ b : Block, b ∈ l) (hs : Within l a s) :
    Ran l a (execStepFence core s) := by
  refine State.onCore_ran _ _ _ (fun c => ?_) hs
  simp [h, hs]

@[simp] theorem execLoop_ran (core : CoreId) (count target : Nat) (h : .arr ∈ l) (hs : Within l a s) :
    Ran l a (execLoop core count target s) := by
  refine State.onCore_ran _ _ _ (fun c => ?_) hs
  simp [h, hs]

@[simp] theorem execWaitDma_ran (core : CoreId) (channel : Fin 4) (count : Nat) (h : .arr ∈ l) (hs : Within l a s) :
    Ran l a (execWaitDma core channel count s) := by
  refine State.onCore_ran _ _ _ (fun c => ?_) hs
  split <;> simp [h, hs]

@[simp] theorem execWaitDmaRelease_ran (core : CoreId) (h : .arr ∈ l) (hs : Within l a s) :
    Ran l a (execWaitDmaRelease core s) := by
  simp [execWaitDmaRelease, h, hs]

@[simp] theorem execOpEnd_ran (core : CoreId) (op : Nat) (urgent : Option CtxId) (h : ∀ b : Block, b ∈ l) (hs : Within l a s) :
    Ran l a (execOpEnd core op urgent s) := by
  refine State.onCore_ran _ _ _ (fun c => ?_) hs
  extract_lets n t opOver u v w
  have ht : Within l a t := by simp [t, h, hs]
  have hu : Within l a u := by
    simp only [u]
    split <;> simp [h, ht]
  have hv : Within l a v := by
    simp only [v]
    split <;> simp [h, hu]
  have hw : Within l a w := by
    simp only [w]
    split
    · split <;> simp [h, hv]
    · exact hv
  split
  · simp [h, ht]
  · split <;> simp [h, hw]

/-- What follows a work: its tiles are checked, a bad residue acts, and a pause that is due is settled. -/
theorem afterWork_ran (c n op : Nat) (d : Desc) (f : State → Nat → Fin 5) (p : Bool) (h : ∀ b : Block, b ∈ l) (hs : Within l a s) :
    Ran l a (
      if s.arr.cur ≠ some c then .next s
      else
        let s := foldS (s.eligibleTiles c d.tiles) (fun s t => s.tileDone c n (f s t.op) p t) s
        let s := if d.residueBad && workDrains d.work then s.residueBad c n op (f s op) d.tiles.head? else s
        if s.arr.cur ≠ some c then .next s else .next (s.noteFence.settlePause c)) := by
  extract_lets t u
  have ht : Within l a t := (foldS_within _ _ fun v e => by simp [h]).2 hs
  have hu : Within l a u := by
    simp only [u]
    split <;> simp [h, ht]
  split
  · exact ran_next.2 hs
  · split
    · exact ran_next.2 hu
    · exact ran_next.2 (State.settlePause_within _ h ((State.noteFence_within (h _)).2 hu))

@[simp] theorem execEngineInstructionStart_ran (core : CoreId) (queue : Fin 4) (h : ∀ b : Block, b ∈ l) (hs : Within l a s) :
    Ran l a (execEngineInstructionStart core queue s) := by
  unfold execEngineInstructionStart
  extract_lets n
  split
  case _ c d rest _ _ =>
    split
    · exact ran_next.2 hs
    · split
      · simp [h, hs]
      · refine afterWork_ran c n _ d (fun s op => s.fclass c queue op) _ h ?_
        refine State.collidedAll_within _ _ _ _ h (State.workCollide_within _ _ _ h ?_)
        exact (State.updCore_within _ _ (h _)).2 ((foldS_within _ _ fun t r => by simp [h]).2 hs)
  · exact ran_next.2 hs

@[simp] theorem execDppOperation_ran (mismatch : Bool) (h : ∀ b : Block, b ∈ l) (hs : Within l a s) :
    Ran l a (execDppOperation mismatch s) := by
  unfold execDppOperation
  split <;> simp [h, hs]

@[simp] theorem execDppImageDone_ran (cycles : Word) (h : .dpp ∈ l ∧ .tel ∈ l ∧ .arr ∈ l ∧ .fresh ∈ l ∧ .mem ∈ l ∧ .dma ∈ l ∧ .ctxs ∈ l) (hs : Within l a s) :
    Ran l a (execDppImageDone cycles s) := by
  unfold execDppImageDone
  dsimp only
  (repeat' split) <;> simp [h, hs]

@[simp] theorem execMailboxWrite_ran (m : Fin 24) (senderClass senderIndex : Nat) (bytes : List Byte) (h : .tel ∈ l ∧ .host ∈ l ∧ .mbx ∈ l) (hs : Within l a s) :
    Ran l a (execMailboxWrite m senderClass senderIndex bytes s) := by
  simp [execMailboxWrite, h, hs]

@[simp] theorem execMbxPost_ran (w : Word) (h : .tel ∈ l ∧ .host ∈ l ∧ .mbx ∈ l) (hs : Within l a s) :
    Ran l a (execMbxPost w s) := by
  refine ran_next.2 ?_
  split
  · exact hs
  · dsimp only
    split <;> simp [h, hs]

@[simp] theorem execMbxRxPop_ran (w : Word) (h : .tel ∈ l ∧ .mbx ∈ l) (hs : Within l a s) :
    Ran l a (execMbxRxPop w s) := by
  refine ran_next.2 ?_
  split <;> simp [h, hs]

@[simp] theorem execSetMode_ran (c : Cmd) (h : .tel ∈ l ∧ .host ∈ l ∧ .fresh ∈ l ∧ .lnk ∈ l) (hs : Within l a s) :
    Ran l a (execSetMode c s) := by
  refine ran_next.2 (State.linkRow_within _ _ _ (by simp [h]) (fun t ht => ?_) hs)
  simp [h, ht]

@[simp] theorem execTableEntry_ran (c : Cmd) (h : .tel ∈ l ∧ .host ∈ l ∧ .fresh ∈ l ∧ .lnk ∈ l) (hs : Within l a s) :
    Ran l a (execTableEntry c s) := by
  refine ran_next.2 (State.linkRow_within _ _ _ (by simp [h]) (fun t ht => ?_) hs)
  simp [h, ht]

@[simp] theorem execPort_ran (c : Cmd) (h : .tel ∈ l ∧ .host ∈ l ∧ .fresh ∈ l ∧ .lnk ∈ l ∧ .ctl ∈ l ∧ .ctxs ∈ l) (hs : Within l a s) :
    Ran l a (execPort c s) := by
  refine ran_next.2 (State.linkRow_within _ _ _ (by simp [h]) (fun t ht => ?_) hs)
  simp [h, ht]

@[simp] theorem execDropPeer_ran (c : Cmd) (h : .tel ∈ l ∧ .host ∈ l ∧ .fresh ∈ l ∧ .lnk ∈ l ∧ .ctl ∈ l ∧ .ctxs ∈ l) (hs : Within l a s) :
    Ran l a (execDropPeer c s) := by
  refine ran_next.2 (State.linkRow_within _ _ _ (by simp [h]) (fun t ht => ?_) hs)
  simp [h, ht]

@[simp] theorem execLinkQuery_ran (c : Cmd) (h : .tel ∈ l ∧ .host ∈ l ∧ .fresh ∈ l) (hs : Within l a s) :
    Ran l a (execLinkQuery c s) := by
  refine ran_next.2 (State.row_within _ _ _ _ (by simp [h]) (fun t ht => ?_) hs)
  simp [h, ht]

@[simp] theorem execCableInsertion_ran (port : Fin 4) (h : .lnk ∈ l) (hs : Within l a s) :
    Ran l a (execCableInsertion port s) := by
  simp [execCableInsertion, h, hs]

@[simp] theorem execCableRemoval_ran (port : Fin 4) (h : .tel ∈ l ∧ .host ∈ l ∧ .lnk ∈ l ∧ .ctl ∈ l ∧ .ctxs ∈ l) (hs : Within l a s) :
    Ran l a (execCableRemoval port s) := by
  simp [execCableRemoval, h, hs]

@[simp] theorem execCableInitDone_ran (port : Fin 4) (active : Bool) (maxPower : Byte) (ready : Bool) (temp : Byte) (h : .tel ∈ l ∧ .host ∈ l ∧ .lnk ∈ l ∧ .ctl ∈ l ∧ .ctxs ∈ l) (hs : Within l a s) :
    Ran l a (execCableInitDone port active maxPower ready temp s) := by
  simp [execCableInitDone, h, hs]

@[simp] theorem execCableInitTimeout_ran (port : Fin 4) (h : .tel ∈ l ∧ .host ∈ l ∧ .lnk ∈ l ∧ .ctl ∈ l ∧ .ctxs ∈ l) (hs : Within l a s) :
    Ran l a (execCableInitTimeout port s) := by
  simp [execCableInitTimeout, h, hs]

@[simp] theorem execTrainDone_ran (port : Fin 4) (lanes : Byte) (peerV12 : Bool) (h : .tel ∈ l ∧ .host ∈ l ∧ .lnk ∈ l ∧ .ctl ∈ l ∧ .ctxs ∈ l) (hs : Within l a s) :
    Ran l a (execTrainDone port lanes peerV12 s) := by
  simp [execTrainDone, h, hs]

@[simp] theorem execTrainTimeout_ran (port : Fin 4) (h : .tel ∈ l ∧ .host ∈ l ∧ .lnk ∈ l ∧ .ctl ∈ l ∧ .ctxs ∈ l) (hs : Within l a s) :
    Ran l a (execTrainTimeout port s) := by
  simp [execTrainTimeout, h, hs]

@[simp] theorem execRetryExpiry_ran (port : Fin 4) (h : .tel ∈ l ∧ .host ∈ l ∧ .lnk ∈ l ∧ .ctl ∈ l ∧ .ctxs ∈ l) (hs : Within l a s) :
    Ran l a (execRetryExpiry port s) := by
  simp [execRetryExpiry, h, hs]

@[simp] theorem execLaneLoss_ran (port : Fin 4) (h : .tel ∈ l ∧ .host ∈ l ∧ .lnk ∈ l ∧ .ctl ∈ l ∧ .ctxs ∈ l) (hs : Within l a s) :
    Ran l a (execLaneLoss port s) := by
  simp [execLaneLoss, h, hs]

@[simp] theorem execCablePoll_ran (port : Fin 4) (alarm : Bool) (temp : Byte) (h : .host ∈ l ∧ .lnk ∈ l) (hs : Within l a s) :
    Ran l a (execCablePoll port alarm temp s) := by
  simp [execCablePoll, h, hs]

@[simp] theorem execKeepaliveSend_ran (entry : Fin 256) (h : .tel ∈ l ∧ .lnk ∈ l) (hs : Within l a s) :
    Ran l a (execKeepaliveSend entry s) := by
  simp [execKeepaliveSend, h, hs]

@[simp] theorem execMissedWindow_ran (entry : Fin 256) (h : .tel ∈ l ∧ .host ∈ l ∧ .lnk ∈ l ∧ .ctl ∈ l ∧ .ctxs ∈ l) (hs : Within l a s) :
    Ran l a (execMissedWindow entry s) := by
  simp [execMissedWindow, h, hs]

@[simp] theorem execHello_ran (f : Frame) (h_ : Hello) (h : .tel ∈ l ∧ .host ∈ l ∧ .lnk ∈ l ∧ .ctl ∈ l ∧ .ctxs ∈ l) (hs : Within l a s) :
    Ran l a (execHello f h_ s) := by
  unfold execHello
  (repeat' split) <;> simp [h, hs]

@[simp] theorem execData_ran (f : Frame) (h : .tel ∈ l ∧ .host ∈ l ∧ .lnk ∈ l ∧ .ctl ∈ l ∧ .ctxs ∈ l) (hs : Within l a s) :
    Ran l a (execData f s) := by
  refine ran_next.2 (State.onCredited_within _ _ _ (by simp [h]) (fun e t ht => ?_) hs)
  split <;> simp [h, ht]

@[simp] theorem execConfirm_ran (f : Frame) (h : .tel ∈ l ∧ .host ∈ l ∧ .lnk ∈ l ∧ .ctl ∈ l ∧ .ctxs ∈ l) (hs : Within l a s) :
    Ran l a (execConfirm f s) := by
  refine ran_next.2 (State.onCredited_within _ _ _ (by simp [h]) (fun e t ht => ?_) hs)
  split
  · exact ht
  · exact (foldS_within _ _ fun u j => by simp [h]).2 (by simp [h, ht])

@[simp] theorem execRevoke_ran (f : Frame) (h : .tel ∈ l ∧ .host ∈ l ∧ .lnk ∈ l ∧ .ctl ∈ l ∧ .ctxs ∈ l) (hs : Within l a s) :
    Ran l a (execRevoke f s) := by
  refine ran_next.2 (State.onCredited_within _ _ _ (by simp [h]) (fun e t ht => ?_) hs)
  split <;> simp [h, ht]

@[simp] theorem execMbx_ran (f : Frame) (macOk : Bool) (h : .tel ∈ l ∧ .host ∈ l ∧ .mbx ∈ l ∧ .lnk ∈ l ∧ .ctl ∈ l ∧ .ctxs ∈ l) (hs : Within l a s) :
    Ran l a (execMbx f macOk s) := by
  refine ran_next.2 (State.onCredited_within _ _ _ (by simp [h]) (fun e t ht => ?_) hs)
  dsimp only
  split <;> simp [h, ht]

@[simp] theorem execMbxNak_ran (f : Frame) (h : .tel ∈ l ∧ .host ∈ l ∧ .lnk ∈ l ∧ .ctl ∈ l ∧ .ctxs ∈ l) (hs : Within l a s) :
    Ran l a (execMbxNak f s) := by
  refine ran_next.2 (State.onCredited_within _ _ _ (by simp [h]) (fun e t ht => ?_) hs)
  simp [h, ht]

@[simp] theorem execCredit_ran (f : Frame) (count : Nat) (h : .tel ∈ l ∧ .host ∈ l ∧ .lnk ∈ l ∧ .ctl ∈ l ∧ .ctxs ∈ l) (hs : Within l a s) :
    Ran l a (execCredit f count s) := by
  refine ran_next.2 (State.onFrame_within _ _ (by simp [h]) (fun e t ht => ?_) hs)
  simp [h, ht]

@[simp] theorem execKeepalive_ran (f : Frame) (h : .tel ∈ l ∧ .host ∈ l ∧ .lnk ∈ l ∧ .ctl ∈ l ∧ .ctxs ∈ l) (hs : Within l a s) :
    Ran l a (execKeepalive f s) := by
  refine ran_next.2 (State.onFrame_within _ _ (by simp [h]) (fun e t ht => ?_) hs)
  exact ht

@[simp] theorem execBye_ran (f : Frame) (h : .tel ∈ l ∧ .host ∈ l ∧ .lnk ∈ l ∧ .ctl ∈ l ∧ .ctxs ∈ l) (hs : Within l a s) :
    Ran l a (execBye f s) := by
  refine ran_next.2 (State.onFrame_within _ _ (by simp [h]) (fun e t ht => ?_) hs)
  simp [h, ht]

@[simp] theorem execInterlockHeartbeat_ran (core : CoreAB) (h : .ctl ∈ l) (hs : Within l a s) :
    Ran l a (execInterlockHeartbeat core s) := by
  simp [execInterlockHeartbeat, h, hs]

@[simp] theorem execReleaseFault_ran (core : CoreAB) (h : .tel ∈ l ∧ .host ∈ l ∧ .ctl ∈ l) (hs : Within l a s) :
    Ran l a (execReleaseFault core s) := by
  simp [execReleaseFault, h, hs]

@[simp] theorem execReleasePlanned_ran (core : CoreAB) (h : .tel ∈ l ∧ .host ∈ l ∧ .ctl ∈ l) (hs : Within l a s) :
    Ran l a (execReleasePlanned core s) := by
  simp [execReleasePlanned, h, hs]

@[simp] theorem execHeartbeatTimeout_ran (h : .tel ∈ l ∧ .host ∈ l ∧ .ctl ∈ l) (hs : Within l a s) :
    Ran l a (execHeartbeatTimeout s) := by
  unfold execHeartbeatTimeout
  split <;> simp [h, hs]

@[simp] theorem execGapExpiry_ran (h : .tel ∈ l ∧ .host ∈ l ∧ .glb ∈ l ∧ .ctl ∈ l ∧ .board ∈ l) (hs : Within l a s) :
    Ran l a (execGapExpiry s) := by
  simp [execGapExpiry, h, hs]

@[simp] theorem execTake_ran (core : CoreAB) (inp : RestoreInput) (h : ∀ b : Block, b ∈ l) (hs : Within l a s) :
    Ran l a (execTake core inp s) := by
  refine ran_next.2 ?_
  split
  · simp [h, hs]
  · refine (State.updTel_within _ (h _)).2 (State.checkDoze_within h ?_)
    rw [State.checkQuiesced_within (by simp [h]), State.checkDrained_within (by simp [h])]
    refine foldS_preserves _ (Within l a) _ _ (fun t c ht => State.catchUp_within c h ht) ?_
    simp [h, hs]

@[simp] theorem execSelfTestCycle_ran (fail : Fin 5) (h : .tel ∈ l ∧ .host ∈ l ∧ .ctl ∈ l) (hs : Within l a s) :
    Ran l a (execSelfTestCycle fail s) := by
  unfold execSelfTestCycle
  split <;> simp [h, hs]

@[simp] theorem execTakeBack_ran (h : .ctl ∈ l) (hs : Within l a s) : Ran l a (execTakeBack s) := by
  unfold execTakeBack
  split <;> simp [h, hs]

@[simp] theorem execSubHeartbeatMiss_ran (sub : Fin 6) (h : .tel ∈ l ∧ .host ∈ l ∧ .lnk ∈ l ∧ .ctl ∈ l ∧ .vid ∈ l ∧ .ctxs ∈ l) (hs : Within l a s) :
    Ran l a (execSubHeartbeatMiss sub s) := by
  simp [execSubHeartbeatMiss, h, hs]

@[simp] theorem execFwStage_ran (c : Cmd) (bundle : Bundle) (chain : List (BitVec 128)) (h : .tel ∈ l ∧ .host ∈ l ∧ .fresh ∈ l ∧ .lnk ∈ l ∧ .ctl ∈ l) (hs : Within l a s) :
    Ran l a (execFwStage c bundle chain s) := by
  refine ran_next.2 (State.row_within _ _ _ _ (by simp [h]) (fun t ht => ?_) hs)
  simp only [params_state]
  split
  · exact ht
  · split
    · exact ht
    · split
      · simp [h, ht]
      · split
        · simp [h, ht]
        · simp [h, ht, foldS_within]

@[simp] theorem execRelay_ran (f : Frame) (last : Bool) (bundle : Bundle) (next : Option (BitVec 128)) (h : .tel ∈ l ∧ .host ∈ l ∧ .lnk ∈ l ∧ .ctl ∈ l ∧ .ctxs ∈ l) (hs : Within l a s) :
    Ran l a (execRelay f last bundle next s) := by
  refine ran_next.2 (State.onCredited_within _ _ _ (by simp [h]) (fun e t ht => ?_) hs)
  extract_lets held busy u v w
  have hv : Within l a v := by
    simp only [v]
    split
    · simp [u, h, ht]
    · split <;> simp [u, h, ht]
  have hw : Within l a w := by
    simp only [w]
    split
    · exact hv
    · split
      · simp [h, hv]
      · split <;> simp [h, hv]
  split <;> simp [h, hw]

@[simp] theorem execRelayReport_ran (hop : Nat) (cause : Fin 6) (h : .tel ∈ l ∧ .host ∈ l ∧ .mbx ∈ l ∧ .fresh ∈ l ∧ .lnk ∈ l ∧ .ctl ∈ l) (hs : Within l a s) :
    Ran l a (execRelayReport hop cause s) := by
  simp [execRelayReport, h, hs]

@[simp] theorem execRelayReportTimeout_ran (h : .tel ∈ l ∧ .host ∈ l ∧ .ctl ∈ l) (hs : Within l a s) :
    Ran l a (execRelayReportTimeout s) := by
  simp [execRelayReportTimeout, h, hs]

@[simp] theorem execRecoveryReset_ran (h : ∀ b : Block, b ∈ l) (hs : Within l a s) : Ran l a (execRecoveryReset s) := by
  unfold execRecoveryReset
  split <;> simp [h, hs]

@[simp] theorem execLive_ran (c : Cmd) (h : .tel ∈ l ∧ .host ∈ l ∧ .fresh ∈ l ∧ .ctl ∈ l) (hs : Within l a s) :
    Ran l a (execLive c s) := by
  refine ran_next.2 (State.activateRow_within _ _ _ _ (by simp [h]) (fun t b ht => ?_) hs)
  dsimp only
  (repeat' split) <;> simp [h, ht]

@[simp] theorem execNextStart_ran (c : Cmd) (h : .tel ∈ l ∧ .host ∈ l ∧ .fresh ∈ l ∧ .ctl ∈ l) (hs : Within l a s) :
    Ran l a (execNextStart c s) := by
  refine ran_next.2 (State.activateRow_within _ _ _ _ (by simp [h]) (fun t b ht => ?_) hs)
  simp [h, ht]

@[simp] theorem execSoakStandbyDone_ran (h : .ctl ∈ l) (hs : Within l a s) : Ran l a (execSoakStandbyDone s) := by
  simp [execSoakStandbyDone, h, hs]

@[simp] theorem execSoakStandbyTimeout_ran (h : .tel ∈ l ∧ .host ∈ l ∧ .ctl ∈ l) (hs : Within l a s) :
    Ran l a (execSoakStandbyTimeout s) := by
  unfold execSoakStandbyTimeout
  dsimp only
  (repeat' split) <;> simp [h, hs]

@[simp] theorem execSoakActiveEnd_ran (h : .tel ∈ l ∧ .ctl ∈ l) (hs : Within l a s) : Ran l a (execSoakActiveEnd s) := by
  unfold execSoakActiveEnd
  dsimp only
  (repeat' split) <;> simp [h, hs]

@[simp] theorem execFwStatus_ran (c : Cmd) (h : .tel ∈ l ∧ .host ∈ l ∧ .fresh ∈ l) (hs : Within l a s) :
    Ran l a (execFwStatus c s) := by
  refine ran_next.2 (State.row_within _ _ _ _ (by simp [h]) (fun t ht => ?_) hs)
  simp [ht]

@[simp] theorem execCheckConfig_ran (c : Cmd) (h : .tel ∈ l ∧ .host ∈ l ∧ .fresh ∈ l ∧ .drn ∈ l) (hs : Within l a s) :
    Ran l a (execCheckConfig c s) := by
  refine ran_next.2 (State.row_within _ _ _ _ (by simp [h]) (fun t ht => ?_) hs)
  rw [params_state]
  refine iteInduction (motive := Within l a) (fun _ => ht) fun _ => ?_
  rw [apply_ite Verdict.state]
  refine iteInduction (motive := Within l a) (fun _ => ht) fun _ => ?_
  extract_lets u v w x
  have hu : Within l a u := by simp [u, h, ht]
  have hv : Within l a v := by
    simp only [v]
    split <;> simp [h, hu]
  have hw : Within l a w := by
    simp only [w]
    split
    · split <;> simp [h, hv, foldS_within]
    · exact hv
  show Within l a x
  simp only [x]
  split <;> simp [h, hw]

@[simp] theorem execCheckQuery_ran (c : Cmd) (h : .tel ∈ l ∧ .host ∈ l ∧ .fresh ∈ l) (hs : Within l a s) :
    Ran l a (execCheckQuery c s) := by
  refine ran_next.2 (State.row_within _ _ _ _ (by simp [h]) (fun t ht => ?_) hs)
  dsimp only
  (repeat' split) <;> simp [ht]

@[simp] theorem execDrnLastClear_ran (value : Word) (h : .drn ∈ l) (hs : Within l a s) :
    Ran l a (execDrnLastClear value s) := by
  refine ran_next.2 ?_
  split <;> simp [h, hs]

@[simp] theorem execMove_ran (ch : Fin 272) (ins : List Byte) (meets : MoveMeets) (h : ∀ b : Block, b ∈ l) (hs : Within l a s) :
    Ran l a (execMove ch ins meets s) := by
  refine ran_next.2 ?_
  split
  · exact hs
  · split
    · exact hs
    case _ e =>
      refine State.reading_within _ _ (by simp [h]) (fun t ht => ?_) ((State.takeUp_within e (h _)).2 hs)
      have hm (k : Chan) (n m : Nat) : Within l a (t.losing (ch.val / 4) (portFive ch.val meets.lost)
          fun s => s.moveSpan k ins meets.host n m) :=
        State.losing_within _ _ _ (h _) (fun u hu => State.moveSpan_within _ _ _ _ _ (by simp [h]) hu) ht
      dsimp only
      split
      · refine State.collidedAll_within _ _ _ _ h ?_
        split <;> simp [h, hm]
      · have hc (k c n op : Nat) (x : Chan) (j : Nat) : Within l a ((t.losing (ch.val / 4) (portFive ch.val meets.lost)
            fun s => s.moveSpan x ins meets.host k j).collidedAll c n op (portFive ch.val meets.lost)) :=
          State.collidedAll_within _ _ _ _ h (hm _ _ _)
        split <;> simp [h, hc]

@[simp] theorem execMoveComplete_ran (ch : Fin 272) (h : .dma ∈ l) (hs : Within l a s) :
    Ran l a (execMoveComplete ch s) := by
  simp [execMoveComplete, h, hs]

@[simp] theorem execDmaLoop_ran (ch : Fin 272) (ins : List Byte) (h : .dma ∈ l) (hs : Within l a s) :
    Ran l a (execDmaLoop ch ins s) := by
  refine ran_next.2 ?_
  split
  · exact hs
  · split
    · exact hs
    case _ e => simp [h, State.takeUp_within e, hs]

@[simp] theorem execWait_ran (ch : Fin 272) (ins : List Byte) (h : .arr ∈ l ∧ .fresh ∈ l ∧ .dma ∈ l) (hs : Within l a s) :
    Ran l a (execWait ch ins s) := by
  refine ran_next.2 ?_
  dsimp only
  split
  · exact hs
  · split
    · exact hs
    case _ t e =>
      have ht : Within l a t := (State.takeUp_within e (by simp [h])).2 hs
      split
      · simp [h, ht]
      · split
        case _ e' => simp [h, State.waitMet_within e', ht]
        · simp [h, ht]

@[simp] theorem execWaitSatisfied_ran (ch : Fin 272) (h : .arr ∈ l ∧ .dma ∈ l) (hs : Within l a s) :
    Ran l a (execWaitSatisfied ch s) := by
  refine ran_next.2 ?_
  dsimp only
  split
  · exact hs
  · split
    case _ e => simp [h, State.waitMet_within e, hs]
    · exact hs

@[simp] theorem execSignal_ran (ch : Fin 272) (ins : List Byte) (h : .tel ∈ l ∧ .arr ∈ l ∧ .host ∈ l ∧ .fresh ∈ l ∧ .dma ∈ l) (hs : Within l a s) :
    Ran l a (execSignal ch ins s) := by
  refine ran_next.2 ?_
  dsimp only
  split
  · exact hs
  · split
    · exact hs
    case _ t e =>
      have ht : Within l a t := (State.takeUp_within e (by simp [h])).2 hs
      rw [State.chanNext_within _ (by simp [h])]
      split
      · split
        · split <;> simp [h, ht]
        · split <;> simp [h, ht]
      · simp [h, ht]
      · simp [h, ht]

@[simp] theorem execAccessError_ran (ch : Fin 272) (err : AccessErr) (write : Bool) (space addr offset : Nat) (h : .dma ∈ l) (hs : Within l a s) :
    Ran l a (execAccessError ch err write space addr offset s) := by
  simp [execAccessError, h, hs]

@[simp] theorem execTransactionTimeout_ran (ch : Fin 272) (tag : Nat) (write : Bool) (space addr offset : Nat) (h : .mem ∈ l ∧ .dma ∈ l) (hs : Within l a s) :
    Ran l a (execTransactionTimeout ch tag write space addr offset s) := by
  simp [execTransactionTimeout, h, hs]

@[simp] theorem execLateResponse_ran (tag : Nat) (h : .tel ∈ l) (hs : Within l a s) :
    Ran l a (execLateResponse tag s) := by
  simp [execLateResponse, h, hs]

@[simp] theorem execTagQuarantineEnd_ran (tag : Nat) (h : .mem ∈ l) (hs : Within l a s) :
    Ran l a (execTagQuarantineEnd tag s) := by
  simp [execTagQuarantineEnd, h, hs]

@[simp] theorem execChTimeout_ran (ch : Fin 272) (h : .fresh ∈ l ∧ .dma ∈ l) (hs : Within l a s) :
    Ran l a (execChTimeout ch s) := by
  simp [execChTimeout, h, hs]

@[simp] theorem execDmaChResume_ran (by_ : Requester) (ch : Fin 272) (h : .ctl ∈ l ∧ .dma ∈ l) (hs : Within l a s) :
    Ran l a (execDmaChResume by_ ch s) := by
  refine ran_next.2 (State.chanCommand_within _ _ _ (by simp [h]) (fun t ht => ?_) hs)
  simp [h, ht]

@[simp] theorem execDmaChSkip_ran (by_ : Requester) (ch : Fin 272) (h : .ctl ∈ l ∧ .dma ∈ l) (hs : Within l a s) :
    Ran l a (execDmaChSkip by_ ch s) := by
  refine ran_next.2 (State.chanCommand_within _ _ _ (by simp [h]) (fun t ht => ?_) hs)
  simp [h, ht]

@[simp] theorem execDmaChAbort_ran (by_ : Requester) (ch : Fin 272) (h : ∀ b : Block, b ∈ l) (hs : Within l a s) :
    Ran l a (execDmaChAbort by_ ch s) := by
  refine ran_next.2 (State.chanCommand_within _ _ _ (by simp [h]) (fun t ht => ?_) hs)
  dsimp only
  rw [State.updDma_within _ (h _), State.updChan_within _ _ (h _)]
  split <;> simp [h, ht]

@[simp] theorem execMmuFaultResolve_ran (ctx : CtxId) (ch : Option (Fin 272)) (core : Option CoreId) (h : ∀ b : Block, b ∈ l) (hs : Within l a s) :
    Ran l a (execMmuFaultResolve ctx ch core s) := by
  refine ran_next.2 ?_
  extract_lets c waits f key live saved cores unit k va write resumed
  have hr (t : State) (ht : Within l a t) : Within l a (resumed t) := by
    simp only [resumed]
    split
    · simp [h, ht]
    · split
      · simp [h, ht]
      · split <;> simp [h, ht]
  have hf : Within l a (s.faultCtx c stMemFault) := State.faultCtx_within _ _ h hs
  split
  · exact hs
  · split
    · exact hf
    · split
      · exact hr _ hs
      · split
        · exact hf
        · exact hr _ ((State.mapPage_within _ _ _ _ (by simp [h])).2 hs)
      · exact hf

@[simp] theorem execRinseUnit_ran (kind : Fin 4) (addr : Nat) (hits : List EccHit) (h : ∀ b : Block, b ∈ l) (hs : Within l a s) :
    Ran l a (execRinseUnit kind addr hits s) := by
  refine ran_next.2 ?_
  dsimp only
  split
  · exact hs
  · refine (State.updMem_within_iff _ (h _) fun m => ?_).2
      (foldS_preserves _ (Within l a) _ _ (fun t j ht => by simp [h, ht]) hs)
    split
    · rfl
    · split <;> rfl

@[simp] theorem execLineConfigLine_ran (c : Cmd) (h : ∀ b : Block, b ∈ l) (hs : Within l a s) :
    Ran l a (execLineConfigLine c s) := by
  refine ran_next.2 (State.subRow_within _ _ _ _ _ (by simp [h]) (fun t ht => ?_) hs)
  rw [params_state]
  refine iteInduction (motive := Within l a) (fun _ => ht) fun _ => ?_
  extract_lets ln enable preset at_ u v w x
  have hu : Within l a u := by simp [u, h, ht]
  have hv : Within l a v := by
    simp only [v]
    split
    · exact (State.updLine_within _ _ (by simp [h])).2 ((foldS_within _ _ fun y k => State.lineOffPeg_within _ (by simp [h])).2 hu)
    · exact hu
  have hw : Within l a w := by
    simp only [w]
    split
    · simp [h, hv]
    · split <;> simp [h, hv]
  show Within l a x
  simp only [x]
  split
  · exact State.fireLine_within _ h hw
  · exact hw

@[simp] theorem execLineConfigTrigger_ran (c : Cmd) (h : .tel ∈ l ∧ .peg ∈ l ∧ .host ∈ l ∧ .fresh ∈ l ∧ .dma ∈ l) (hs : Within l a s) :
    Ran l a (execLineConfigTrigger c s) := by
  refine ran_next.2 (State.subRow_within _ _ _ _ _ (by simp [h]) (fun t ht => ?_) hs)
  simp only [params_state]
  split
  · exact ht
  · split
    · simp [h, ht]
    · simp [h, ht, foldS_within]

@[simp] theorem execLinePosition_ran (c : Cmd) (h : ∀ b : Block, b ∈ l) (hs : Within l a s) :
    Ran l a (execLinePosition c s) := by
  refine ran_next.2 (State.row_within _ _ _ _ (by simp [h]) (fun t ht => ?_) hs)
  simp [h, ht]

@[simp] theorem execPegArm_ran (c : Cmd) (h : ∀ b : Block, b ∈ l) (hs : Within l a s) : Ran l a (execPegArm c s) := by
  refine ran_next.2 (State.row_within _ _ _ _ (by simp [h]) (fun t ht => ?_) hs)
  dsimp only
  (repeat' split) <;> simp [h, ht]

@[simp] theorem execPegDisarm_ran (c : Cmd) (h : .tel ∈ l ∧ .peg ∈ l ∧ .host ∈ l ∧ .fresh ∈ l ∧ .dma ∈ l) (hs : Within l a s) :
    Ran l a (execPegDisarm c s) := by
  refine ran_next.2 (State.row_within _ _ _ _ (by simp [h]) (fun t ht => ?_) hs)
  simp [h, ht]

@[simp] theorem execEncoderTransition_ran (line : Fin 8) (kind : Enc) (tooFast : Bool) (h : ∀ b : Block, b ∈ l) (hs : Within l a s) :
    Ran l a (execEncoderTransition line kind tooFast s) := by
  unfold execEncoderTransition
  split <;> simp [h, hs]

@[simp] theorem execIndexPulse_ran (line : Fin 8) (h : .peg ∈ l) (hs : Within l a s) :
    Ran l a (execIndexPulse line s) := by
  simp [execIndexPulse, h, hs]

@[simp] theorem execTriggerEdge_ran (trigger : Fin 4) (rising : Bool) (h : ∀ b : Block, b ∈ l) (hs : Within l a s) :
    Ran l a (execTriggerEdge trigger rising s) := by
  unfold execTriggerEdge
  dsimp only
  (repeat' split) <;> simp [h, hs]

@[simp] theorem execLineStopped_ran (line : Fin 16) (h : .peg ∈ l) (hs : Within l a s) :
    Ran l a (execLineStopped line s) := by
  simp [execLineStopped, h, hs]

@[simp] theorem execVelocityUpdate_ran (h : .peg ∈ l ∧ .fresh ∈ l) (hs : Within l a s) :
    Ran l a (execVelocityUpdate s) := by
  unfold execVelocityUpdate
  split
  · exact ran_next.2 hs
  · refine ran_next.2 ((foldS_within _ _ fun t n => by simp [h]).2 ?_)
    exact (State.draw_within (by simp [h])).2 hs

@[simp] theorem execMissHoldExpiry_ran (h : .peg ∈ l) (hs : Within l a s) : Ran l a (execMissHoldExpiry s) := by
  simp [execMissHoldExpiry, h, hs]

@[simp] theorem execNop_ran (c : Cmd) (h : .tel ∈ l ∧ .host ∈ l ∧ .fresh ∈ l) (hs : Within l a s) :
    Ran l a (execNop c s) := by
  refine ran_next.2 (State.row_within _ _ _ _ (by simp [h]) (fun t ht => ?_) hs)
  simp [ht]

@[simp] theorem execNegotiate_ran (c : Cmd) (h : .tel ∈ l ∧ .host ∈ l ∧ .fresh ∈ l) (hs : Within l a s) :
    Ran l a (execNegotiate c s) := by
  refine ran_next.2 (State.row_within _ _ _ _ (by simp [h]) (fun t ht => ?_) hs)
  simp [h, ht]

@[simp] theorem execIdentify_ran (c : Cmd) (h : .tel ∈ l ∧ .host ∈ l ∧ .fresh ∈ l) (hs : Within l a s) :
    Ran l a (execIdentify c s) := by
  refine ran_next.2 (State.row_within _ _ _ _ (by simp [h]) (fun t ht => ?_) hs)
  simp [ht]

@[simp] theorem execUndefinedOpcode_ran (c : Cmd) (h : .tel ∈ l ∧ .host ∈ l ∧ .fresh ∈ l) (hs : Within l a s) :
    Ran l a (execUndefinedOpcode c s) := by
  refine ran_next.2 ?_
  split
  · exact hs
  · exact State.command_within _ _ _ (by simp [h]) (fun t ht => ht) hs

@[simp] theorem execSqTailWrite_ran (fn : Fn) (ring : Fin 8) (value : Word) (pcie : Pcie) (h : .host ∈ l) (hs : Within l a s) :
    Ran l a (execSqTailWrite fn ring value pcie s) := by
  simp [execSqTailWrite, h, hs]

@[simp] theorem execCqHeadWrite_ran (fn : Fn) (ring : Fin 8) (value : Word) (h : .host ∈ l) (hs : Within l a s) :
    Ran l a (execCqHeadWrite fn ring value s) := by
  simp [execCqHeadWrite, h, hs]

@[simp] theorem execRingEnableWrite_ran (fn : Fn) (ring : Fin 8) (value : Word) (pcie : Pcie) (h : .host ∈ l) (hs : Within l a s) :
    Ran l a (execRingEnableWrite fn ring value pcie s) := by
  simp [execRingEnableWrite, h, hs]

@[simp] theorem execRingReconfigure_ran (fn : Fn) (ring : Fin 8) (reg : Fin 6) (value : Word) (h : .host ∈ l) (hs : Within l a s) :
    Ran l a (execRingReconfigure fn ring reg value s) := by
  unfold execRingReconfigure
  dsimp only
  (repeat' split) <;> simp [h, hs]

@[simp] theorem execTbHeadWrite_ran (fn : Fn) (value : Word) (h : .host ∈ l ∧ .ctxs ∈ l) (hs : Within l a s) :
    Ran l a (execTbHeadWrite fn value s) := by
  simp [execTbHeadWrite, h, hs]

@[simp] theorem execVeqHeadWrite_ran (fn : Fn) (value : Word) (h : .host ∈ l ∧ .vid ∈ l ∧ .mem ∈ l) (hs : Within l a s) :
    Ran l a (execVeqHeadWrite fn value s) := by
  simp [execVeqHeadWrite, h, hs]

@[simp] theorem execDbMaskWrite_ran (fn : Fn) (value : Word) (h : .host ∈ l) (hs : Within l a s) :
    Ran l a (execDbMaskWrite fn value s) := by
  simp [execDbMaskWrite, h, hs]

@[simp] theorem execMsixUnmask_ran (fn : Fn) (vector : Fin 32) (h : .host ∈ l) (hs : Within l a s) :
    Ran l a (execMsixUnmask fn vector s) := by
  simp [execMsixUnmask, h, hs]

@[simp] theorem execUnsupportedAccess_ran (_fn : Fn) (off width : Nat) (isRead : Bool) (h : .host ∈ l) (hs : Within l a s) :
    Ran l a (execUnsupportedAccess _fn off width isRead s) := by
  simp [execUnsupportedAccess, h, hs]

@[simp] theorem execFlrVf_ran (ctx : CtxId) (h : ∀ b : Block, b ∈ l) (hs : Within l a s) :
    Ran l a (execFlrVf ctx s) := by
  unfold execFlrVf
  dsimp only
  (repeat' split) <;> simp [h, hs]

@[simp] theorem execFlrPf0_ran (_vfEnableCleared : Bool) (h : ∀ b : Block, b ∈ l) (hs : Within l a s) :
    Ran l a (execFlrPf0 _vfEnableCleared s) := by
  simp [execFlrPf0, h, hs]

@[simp] theorem execLinkLoss_ran (h : ∀ b : Block, b ∈ l) (hs : Within l a s) : Ran l a (execLinkLoss s) := by
  simp [execLinkLoss, h, hs]

@[simp] theorem execPcieLinkUp_ran (speed width : Nat) (h : .host ∈ l) (hs : Within l a s) :
    Ran l a (execPcieLinkUp speed width s) := by
  simp [execPcieLinkUp, h, hs]

@[simp] theorem execConfigRequest_ran (fn : Fn) (vfEnable : Option Bool) (h : ∀ b : Block, b ∈ l) (hs : Within l a s) :
    Ran l a (execConfigRequest fn vfEnable s) := by
  unfold execConfigRequest
  dsimp only
  (repeat' split) <;> simp [h, hs]

@[simp] theorem execCommandTimeout_ran (fn : Fn) (ring : Fin 9) (seq : Word) (h : .tel ∈ l ∧ .peg ∈ l ∧ .host ∈ l ∧ .tsu ∈ l ∧ .kvp ∈ l ∧ .glb ∈ l ∧ .sec ∈ l ∧ .vid ∈ l ∧ .mem ∈ l ∧ .ctxs ∈ l) (hs : Within l a s) :
    Ran l a (execCommandTimeout fn ring seq s) := by
  unfold execCommandTimeout
  split <;> simp [h, hs]

@[simp] theorem execRtpLate_ran (h : .tel ∈ l ∧ .host ∈ l ∧ .sec ∈ l) (hs : Within l a s) : Ran l a (execRtpLate s) := by
  refine ran_next.2 ?_
  split
  · exact hs
  · exact (State.updSec_within _ (by simp [h])).2 ((foldS_within _ _ fun t i => by simp [h]).2 hs)

@[simp] theorem execDoeRequest_ran (fn : Fn) (secure : Bool) (h : .host ∈ l ∧ .sec ∈ l) (hs : Within l a s) :
    Ran l a (execDoeRequest fn secure s) := by
  simp [execDoeRequest, h, hs]

@[simp] theorem execIdeIntegrityFail_ran (fn : Fn) (h : .host ∈ l ∧ .sec ∈ l) (hs : Within l a s) :
    Ran l a (execIdeIntegrityFail fn s) := by
  simp [execIdeIntegrityFail, h, hs]

@[simp] theorem execTlpOutsideStream_ran (fn : Fn) (h : .host ∈ l) (hs : Within l a s) :
    Ran l a (execTlpOutsideStream fn s) := by
  simp [execTlpOutsideStream, h, hs]

@[simp] theorem execAttest_ran (c : Cmd) (answers : Bool) (h : .tel ∈ l ∧ .host ∈ l ∧ .fresh ∈ l ∧ .sec ∈ l) (hs : Within l a s) :
    Ran l a (execAttest c answers s) := by
  refine ran_next.2 (State.row_within _ _ _ _ (by simp [h]) (fun t ht => ?_) hs)
  simp [h, ht]

@[simp] theorem execKeyRotate_ran (c : Cmd) (h : .tel ∈ l ∧ .host ∈ l ∧ .fresh ∈ l ∧ .sec ∈ l) (hs : Within l a s) :
    Ran l a (execKeyRotate c s) := by
  refine ran_next.2 (State.row_within _ _ _ _ (by simp [h]) (fun t ht => ?_) hs)
  dsimp only
  (repeat' split) <;> simp [h, ht]

@[simp] theorem execKeyPassUnit_ran (ctx : CtxId) (raced : Bool) (h : .tel ∈ l ∧ .host ∈ l ∧ .fresh ∈ l ∧ .kvp ∈ l ∧ .sec ∈ l ∧ .mem ∈ l) (hs : Within l a s) :
    Ran l a (execKeyPassUnit ctx raced s) := by
  unfold execKeyPassUnit
  extract_lets c k old t
  have ht : Within l a t := by
    simp only [t]
    split
    · split <;> simp [h, hs]
    · exact hs
  split
  · exact ran_next.2 hs
  · split
    · split
      · exact ran_next.2 ht
      · split <;> simp [h, ht]
    · split
      · simp [h, ht]
      case _ e => simp [h, State.choose_within e, ht]

@[simp] theorem execCreate_ran (c : Cmd) (doc : AdmissionDoc) (h : .tel ∈ l ∧ .host ∈ l ∧ .fresh ∈ l ∧ .sec ∈ l) (hs : Within l a s) :
    Ran l a (execCreate c doc s) := by
  refine ran_next.2 (State.setRow_within _ _ _ (by simp [h]) (fun t ht => ?_) hs)
  simp [h, ht]

@[simp] theorem execJoin_ran (c : Cmd) (doc : AdmissionDoc) (sponsorAnswers : Bool) (h : .tel ∈ l ∧ .host ∈ l ∧ .fresh ∈ l ∧ .sec ∈ l) (hs : Within l a s) :
    Ran l a (execJoin c doc sponsorAnswers s) := by
  refine ran_next.2 (State.setRow_within _ _ _ (by simp [h]) (fun t ht => ?_) hs)
  simp [h, ht]

@[simp] theorem execLeave_ran (c : Cmd) (h : .tel ∈ l ∧ .host ∈ l ∧ .fresh ∈ l ∧ .sec ∈ l) (hs : Within l a s) :
    Ran l a (execLeave c s) := by
  refine ran_next.2 (State.setRow_within _ _ _ (by simp [h]) (fun t ht => ?_) hs)
  simp [h, ht]

@[simp] theorem execRekey_ran (c : Cmd) (doc : AdmissionDoc) (h : .tel ∈ l ∧ .host ∈ l ∧ .fresh ∈ l ∧ .sec ∈ l) (hs : Within l a s) :
    Ran l a (execRekey c doc s) := by
  refine ran_next.2 (State.setRow_within _ _ _ (by simp [h]) (fun t ht => ?_) hs)
  split
  · exact ht
  · rw [checks_state]
    split <;> simp [h, ht]

@[simp] theorem execSponsorTimeout_ran (h : .tel ∈ l ∧ .host ∈ l) (hs : Within l a s) :
    Ran l a (execSponsorTimeout s) := by
  exact ran_next.2 ((foldS_within _ _ fun t i => by simp [h]).2 hs)

@[simp] theorem execTelemetrySnapshot_ran (c : Cmd) (h : .tel ∈ l ∧ .host ∈ l ∧ .fresh ∈ l) (hs : Within l a s) :
    Ran l a (execTelemetrySnapshot c s) := by
  refine ran_next.2 (State.row_within _ _ _ _ (by simp [h]) (fun t ht => ?_) hs)
  simp [h, ht]

@[simp] theorem execTelSnapTake_ran (value : Word) (h : .tel ∈ l) (hs : Within l a s) :
    Ran l a (execTelSnapTake value s) := by
  simp [execTelSnapTake, h, hs]

@[simp] theorem execPeriodicSnapshot_ran (h : .tel ∈ l) (hs : Within l a s) : Ran l a (execPeriodicSnapshot s) := by
  simp [execPeriodicSnapshot, h, hs]

@[simp] theorem execSnapshotCapture_ran (h : .tel ∈ l ∧ .peg ∈ l ∧ .host ∈ l ∧ .glb ∈ l ∧ .mem ∈ l) (hs : Within l a s) :
    Ran l a (execSnapshotCapture s) := by
  unfold execSnapshotCapture
  dsimp only
  (repeat' split) <;> simp [h, hs]

@[simp] theorem execTelHistClear_ran (value : Word) (h : .tel ∈ l) (hs : Within l a s) :
    Ran l a (execTelHistClear value s) := by
  simp [execTelHistClear, h, hs]

@[simp] theorem execLifetimeFlush_ran (h : .tel ∈ l) (hs : Within l a s) : Ran l a (execLifetimeFlush s) := by
  simp [execLifetimeFlush, h, hs]

@[simp] theorem execSummaryWrite_ran (h : .tel ∈ l) (hs : Within l a s) : Ran l a (execSummaryWrite s) := by
  simp [execSummaryWrite, h, hs]

@[simp] theorem execLifetimeRead_ran (c : Cmd) (h : .tel ∈ l ∧ .host ∈ l ∧ .fresh ∈ l) (hs : Within l a s) :
    Ran l a (execLifetimeRead c s) := by
  refine ran_next.2 (State.row_within _ _ _ _ (by simp [h]) (fun t ht => ?_) hs)
  simp [h, ht]

end
end Sys2Proof.Machine

/-! Frames of register accesses, MCTP and the TSU, and of every command (`exec_ran`). -/

namespace Sys2Proof.Machine
open Sys2Proof
section
variable {l : List Block} {a s : State}

theorem after_within {o : Host.Outcome State Fault Refusal} (ho : Ran l a o) : Within l a (after s o) := by
  obtain ⟨t, rfl, ht⟩ := ho
  exact ht

theorem atElem_within {o base stride n : Nat} {f : Nat → Nat → State} {k : State} (hf : ∀ i r, Within l a (f i r))
    (hk : Within l a k) : Within l a (atElem o base stride n f k) := by
  unfold atElem
  split
  · exact hf _ _
  · exact hk

@[simp] theorem State.readEffect_within (r : Requester) (o : Nat) (h : .tel ∈ l ∧ .peg ∈ l) :
    Within l a (s.readEffect r o) ↔ Within l a s := by
  unfold State.readEffect
  split
  · rfl
  · split
    · simp [h]
    · split <;> simp [h]

@[simp] theorem State.read32_within (r : Requester) (o : Nat) (h : .tel ∈ l ∧ .peg ∈ l ∧ .host ∈ l) :
    Within l a (s.read32 r o) ↔ Within l a s := by
  unfold State.read32
  dsimp only
  split
  case h_4 => split <;> simp [h]
  all_goals simp [h]

@[simp] theorem State.read64_within (r : Requester) (o : Nat) (h : .tel ∈ l ∧ .peg ∈ l ∧ .host ∈ l) :
    Within l a (s.read64 r o) ↔ Within l a s := by
  simp [State.read64, h]

@[simp] theorem State.missed_within (r : Requester) (read wide : Bool) (h : .host ∈ l) :
    Within l a (s.missed r read wide) ↔ Within l a s := by
  unfold State.missed
  split
  · dsimp only
    split <;> simp [h]
  · rfl

@[simp] theorem State.readReg_within (r : Requester) (o : Nat) (wide : Bool) (h : .tel ∈ l ∧ .peg ∈ l ∧ .host ∈ l) :
    Within l a (s.readReg r o wide) ↔ Within l a s := by
  simp [State.readReg, h]

@[simp] theorem State.writePeq_within (f o : Nat) (w : Word) (h : .host ∈ l) : Within l a (s.writePeq f o w) ↔ Within l a s := by
  unfold State.writePeq
  dsimp only
  (repeat' split) <;> simp [h]

@[simp] theorem State.writeVeq_within (f o : Nat) (w : Word) (h : .host ∈ l ∧ .vid ∈ l ∧ .mem ∈ l) (hs : Within l a s) :
    Within l a (s.writeVeq f o w) := by
  unfold State.writeVeq
  dsimp only
  (repeat' split) <;> simp [h, hs]

theorem State.windowRow_within {f o : Nat} {w : Word} {t : State} (e : s.windowRow f o w = some t)
    (h : .host ∈ l ∧ .vid ∈ l ∧ .mem ∈ l ∧ .ctxs ∈ l) (hs : Within l a s) : Within l a t := by
  unfold State.windowRow at e
  dsimp only at e
  (repeat' split at e) <;> cases e <;> exact after_within (by simp [h, hs])

theorem State.blockRow_within {r : Requester} {b o : Nat} {w : Word} {t : State} (e : s.blockRow r b o w = some t)
    (h : ∀ b : Block, b ∈ l) (hs : Within l a s) : Within l a t := by
  unfold State.blockRow at e
  split at e
  case h_3 => exact State.windowRow_within e (by simp [h]) hs
  all_goals (repeat' split at e) <;> cases e <;> exact after_within (by simp [h, hs])

@[simp] theorem State.writeWindow_within (f o : Nat) (w : Word) (h : .host ∈ l ∧ .vid ∈ l ∧ .mem ∈ l) (hs : Within l a s) :
    Within l a (s.writeWindow f o w) := by
  unfold State.writeWindow
  split
  · simp [h, hs]
  · split
    · simp [h, hs]
    · split
      · simp [h, hs]
      · refine atElem_within (fun j r => ?_) hs
        (repeat' split) <;> simp [h, hs]

@[simp] theorem State.writeCmd_within (o : Nat) (w : Word) (h : .host ∈ l ∧ .vid ∈ l ∧ .mem ∈ l) (hs : Within l a s) :
    Within l a (s.writeCmd o w) := by
  unfold State.writeCmd
  dsimp only
  (repeat' split) <;> simp [h, hs]

@[simp] theorem State.writePeg_within (o : Nat) (w : Word) (h : .peg ∈ l) (hs : Within l a s) : Within l a (s.writePeg o w) := by
  unfold State.writePeg
  split
  · simp [h, hs]
  · refine atElem_within (fun n r => ?_) (atElem_within (fun k r => by simp [h, hs]) hs)
    split <;> simp [h, hs]

@[simp] theorem State.writeArr_within (pf0 : Bool) (o : Nat) (w : Word) (h : .arr ∈ l) (hs : Within l a s) :
    Within l a (s.writeArr pf0 o w) := by
  unfold State.writeArr
  dsimp only
  split
  · simp [h, hs]
  · split
    · split <;> simp [h, hs]
    · refine atElem_within (fun n r => ?_) (atElem_within (fun c r => ?_) (atElem_within (fun c r => ?_) hs))
      all_goals (repeat' split) <;> simp [h, hs]

@[simp] theorem State.writeDma_within (pf0 : Bool) (o : Nat) (w : Word) (h : .dma ∈ l) (hs : Within l a s) :
    Within l a (s.writeDma pf0 o w) := by
  unfold State.writeDma
  dsimp only
  split
  · split <;> simp [h, hs]
  · refine atElem_within (fun k r => by simp [h, hs]) (atElem_within (fun i r => ?_) hs)
    split <;> simp [h, hs]

@[simp] theorem State.writeMem_within (pf0 : Bool) (o : Nat) (w : Word) (h : .mem ∈ l) (hs : Within l a s) :
    Within l a (s.writeMem pf0 o w) := by
  unfold State.writeMem
  dsimp only
  split
  · split <;> simp [h, hs]
  · refine atElem_within (fun c r => ?_) hs
    split <;> simp [h, hs]

@[simp] theorem State.writeSec_within (pf0 : Bool) (o : Nat) (w : Word) (h : .sec ∈ l) :
    Within l a (s.writeSec pf0 o w) ↔ Within l a s := by
  simp [State.writeSec, h]

theorem State.setOwnSettings_within (g : Settings) (h : .settings ∈ l) : Within l a { s with settings := g } ↔ Within l a s := by
  refine Within.iff_of_keeps (m := [.settings]) ⟨rfl, fun b hb => ?_⟩ (by decide) (by simpa using h)
  cases b <;> simp_all [Block.same]

@[simp] theorem State.writeCtl_within (pf0 : Bool) (o : Nat) (w : Word) (h : .ctl ∈ l ∧ .settings ∈ l) (hs : Within l a s) :
    Within l a (s.writeCtl pf0 o w) := by
  unfold State.writeCtl
  dsimp only
  split
  · split
    · exact hs
    · exact (State.setOwnSettings_within _ h.2).2 ((State.updCtl_within _ h.1).2 hs)
  · split <;> simp [h, hs]

@[simp] theorem State.writeTel_within (pf0 : Bool) (o : Nat) (w : Word) (h : .tel ∈ l) :
    Within l a (s.writeTel pf0 o w) ↔ Within l a s := by
  simp [State.writeTel, h]

@[simp] theorem State.writeBlock_within (pf0 : Bool) (b o : Nat) (w : Word) (h : ∀ b : Block, b ∈ l) (hs : Within l a s) :
    Within l a (s.writeBlock pf0 b o w) := by
  unfold State.writeBlock
  split
  case h_18 =>
    refine atElem_within (fun c r => ?_) hs
    split
    · exact (State.setAtn_within _ (h _)).2 hs
    · exact hs
  case h_1 | h_2 | h_9 => split <;> simp [h, hs]
  case h_4 | h_8 | h_17 =>
    split
    · simp [h, hs]
    · refine atElem_within (fun i r => ?_) hs
      (repeat' split) <;> simp [h, hs]
  case h_11 | h_12 =>
    refine atElem_within (fun i r => ?_) hs
    split <;> simp [h, hs]
  all_goals simp [h, hs]

@[simp] theorem State.write32_within (r : Requester) (o : Nat) (w : Word) (h : ∀ b : Block, b ∈ l) (hs : Within l a s) :
    Within l a (s.write32 r o w) := by
  unfold State.write32
  split
  · split
    · cases e : s.windowRow _ o w with
      | none => simp [h, hs]
      | some t => exact State.windowRow_within e (by simp [h]) hs
    · exact hs
  · split
    · cases e : s.blockRow r (o / 2 ^ 20) (o % 2 ^ 20) w with
      | none => simp [h, hs]
      | some t => exact State.blockRow_within e h hs
    · exact hs

@[simp] theorem execRegisterWrite_ran (r : Requester) (off : Nat) (wide : Bool) (v : BitVec 64) (h : ∀ b : Block, b ∈ l)
    (hs : Within l a s) : Ran l a (execRegisterWrite r off wide v s) := by
  refine ran_next.2 ?_
  split
  · simp [h, hs]
  · dsimp only
    split <;> simp [h, hs]

@[simp] theorem execRcRead_ran (r : Requester) (off : Nat) (wide : Bool) (h : .tel ∈ l ∧ .peg ∈ l ∧ .host ∈ l) (hs : Within l a s) :
    Ran l a (execRcRead r off wide s) := by
  simp [execRcRead, h, hs]

@[simp] theorem execLoReadLatch_ran (r : Requester) (off : Nat) (h : .tel ∈ l ∧ .peg ∈ l ∧ .host ∈ l) (hs : Within l a s) :
    Ran l a (execLoReadLatch r off s) := by
  simp [execLoReadLatch, h, hs]

theorem runRows_ran {fs : List (State → Host.Outcome State Fault Refusal)}
    (hf : ∀ f ∈ fs, ∀ t, Within l a t → Ran l a (f t)) (hs : Within l a s) : Ran l a (runRows fs s) := by
  induction fs generalizing s with
  | nil => exact ran_next.2 hs
  | cons f fs ih =>
    obtain ⟨t, e, ht⟩ := hf f (by simp) s hs
    unfold runRows
    rw [e]
    exact ih (fun g hg => hf g (by simp [hg])) ht

@[simp] theorem vfCommand_ran (c : Cmd) (h : .tel ∈ l ∧ .host ∈ l ∧ .fresh ∈ l) (hs : Within l a s) : Ran l a (vfCommand c s) := by
  refine ran_next.2 ?_
  split
  · exact State.command_within _ _ _ h (fun t ht => ht) hs
  · exact hs

theorem pf0Rows_ran {c : Cmd} {doc : AdmissionDoc} {answers : Bool} {bundle : Bundle} {chain : List (BitVec 128)}
    (h : ∀ b : Block, b ∈ l) : ∀ f ∈ pf0Rows c doc answers bundle chain, ∀ t, Within l a t → Ran l a (f t) := by
  simp only [pf0Rows, List.forall_mem_cons, List.not_mem_nil, false_implies, implies_true, and_true]
  and_intros
  all_goals
    intro t ht
    simp [h, ht]

@[simp] theorem execMctpMessage_ran (m : Mctp) (h : ∀ b : Block, b ∈ l) (hs : Within l a s) : Ran l a (execMctpMessage m s) := by
  unfold execMctpMessage
  dsimp only
  split
  · exact ran_next.2 hs
  · split
    case h_6 => exact runRows_ran (pf0Rows_ran h) hs
    all_goals simp [State.mctpAnswer, h, hs]

@[simp] theorem State.tsuEnd_within (o : TsuOp) (rest : List TsuOp) (h : .tel ∈ l ∧ .arr ∈ l ∧ .tsu ∈ l ∧ .fresh ∈ l) :
    Within l a (s.tsuEnd o rest) ↔ Within l a s := by
  simp [State.tsuEnd, h]

@[simp] theorem State.updEntry_within (c id : Nat) (f : Entry → Entry) (h : .ctxs ∈ l) :
    Within l a (s.updEntry c id f) ↔ Within l a s := by
  unfold State.updEntry
  split <;> simp [h]

@[simp] theorem State.tsuWrite_within (out : Place) (c j tok : Nat) (p : Bool) (h : .mem ∈ l) (hs : Within l a s) :
    Within l a (s.tsuWrite out c j tok p) := State.updMem_within _ h (Mem.wf_putRow _ _ _) hs

@[simp] theorem State.tsuPosition_within (o : TsuOp) (i j : Nat) (h : .mem ∈ l ∧ .ctxs ∈ l) (hs : Within l a s) :
    Within l a (s.tsuPosition o i j) := by
  unfold State.tsuPosition
  dsimp only
  split
  · exact hs
  · split
    · exact hs
    · split
      · refine State.tsuWrite_within _ _ _ _ _ h.1 ?_
        simp [h, hs]
      · refine State.tsuWrite_within _ _ _ _ _ h.1 ?_
        rw [State.updEntry_within _ _ _ h.2]
        refine State.updMem_within _ h.1 (Mem.wf_putRow _ _ _) ?_
        simp [h, hs]
      · refine iteInduction (motive := Within l a) (fun _ => by simp [h, hs]) fun _ => ?_
        exact foldS_preserves _ (Within l a) _ _ (fun t q ht => by simp [h, ht]) (by simp [h, hs])

@[simp] theorem execTsuOperation_ran (mismatch : Bool) (h : ∀ b : Block, b ∈ l) (hs : Within l a s) :
    Ran l a (execTsuOperation mismatch s) := by
  unfold execTsuOperation
  split
  · exact ran_next.2 hs
  · split
    · simp [h, hs]
    · dsimp only
      split
      · exact ran_next.2 hs
      · split <;> simp [h, hs]

@[simp] theorem execTsuPositionDone_ran (lane : Fin 16) (entry index : Nat)
    (h : .tel ∈ l ∧ .arr ∈ l ∧ .tsu ∈ l ∧ .fresh ∈ l ∧ .mem ∈ l ∧ .ctxs ∈ l) (hs : Within l a s) :
    Ran l a (execTsuPositionDone lane entry index s) := by
  unfold execTsuPositionDone
  split
  · exact ran_next.2 hs
  · split
    · exact ran_next.2 hs
    · split
      · simp [h, hs]
      · dsimp only
        split
        · simp [h, hs]
        · split <;> simp [h, hs]

/-- Every command goes on, keeps the queue and the canonical form of memory. -/
theorem exec_ran (i : Instr) (h : ∀ b : Block, b ∈ l) (hs : Within l a s) : Ran l a (exec i s) := by
  cases i <;> simp [exec, h, hs]

end
end Sys2Proof.Machine

/-! What every command and every step keeps. -/

namespace Sys2Proof
open Machine

/-- Settles O1: both sides are the definition of a step. -/
theorem stepRunsFront : Obligations.StepRunsFront := by
  unfold Obligations.StepRunsFront
  refine ⟨fun c rest s => rfl, fun s h => ?_⟩
  rw [step, h]

/-- Settles O2: every command goes on (`exec_ran`). -/
theorem everyCommandRuns : Obligations.EveryCommandRuns := by
  unfold Obligations.EveryCommandRuns
  intro i s
  obtain ⟨t, ht, -⟩ := exec_ran i mem_allBlocks (Within.refl allBlocks s)
  exact ⟨t, ht⟩

/-- Settles O3: what every command keeps (`exec_ran`) includes the queue. -/
theorem queueUntouched : Obligations.QueueUntouched := by
  unfold Obligations.QueueUntouched
  intro i s t e
  obtain ⟨u, hu, h⟩ := exec_ran i mem_allBlocks (Within.refl allBlocks s)
  cases e.symm.trans hu
  exact h.keeps.1

/-- Settles O4: the command at the front keeps the form (`exec_ran`), and so does the passing of time. -/
theorem stepKeepsMemory : Obligations.StepKeepsMemory := by
  unfold Obligations.StepKeepsMemory
  intro s t hs e
  unfold step at e
  split at e
  · obtain rfl : s.idle = t := Host.Outcome.next.inj e
    have h : Within allBlocks s s.idle := (State.idle_within (by simp)).2 (Within.refl _ s)
    exact h.memWf hs
  case _ c rest _ =>
    obtain ⟨u, hu, h⟩ := exec_ran c mem_allBlocks (Within.refl allBlocks { s with pending := rest })
    cases e.symm.trans hu
    exact h.memWf hs

/-- Settles O5: the reset state lists no byte. -/
theorem resetMemory : Obligations.ResetMemory := Mem.wf_reset

end Sys2Proof

/-! Host commands (15): which rows a packet runs (O6, O7). -/

namespace Sys2Proof.Machine
open Sys2Proof

/-! ### Host rows -/

/-- The outcome is that of a row: the packet runs as one operation of its opcode, `own` where it is that operation, and on a
POWER row with a heartbeat first where it came over MCTP (15, R415; 18, R505). -/
def RowOutcome (s : State) (c : Cmd) (op : Nat) (own : Bool) (o : Host.Outcome State Fault Refusal) : Prop :=
  ∃ sel : Cmd → Bool, sel c = own ∧
    ((∃ feats body, o = .next (s.subRow c op sel feats body)) ∨ ∃ body, o = .next (s.powerRow c op sel body))

theorem RowOutcome.of_row {s : State} {c : Cmd} {op : Nat} {o : Host.Outcome State Fault Refusal} {feats : List Nat}
    {body : State → Verdict} (h : o = .next (s.row c op feats body)) : RowOutcome s c op true o :=
  ⟨fun _ => true, rfl, .inl ⟨feats, body, h⟩⟩

theorem RowOutcome.of_subRow {s : State} {c : Cmd} {op : Nat} {own : Bool} {sel : Cmd → Bool} {o : Host.Outcome State Fault Refusal}
    {feats : List Nat} {body : State → Verdict} (h : o = .next (s.subRow c op sel feats body)) (hs : sel c = own) :
    RowOutcome s c op own o :=
  ⟨sel, hs, .inl ⟨feats, body, h⟩⟩

theorem RowOutcome.of_powerRow {s : State} {c : Cmd} {op : Nat} {own : Bool} {sel : Cmd → Bool} {o : Host.Outcome State Fault Refusal}
    {body : State → Verdict} (h : o = .next (s.powerRow c op sel body)) (hs : sel c = own) : RowOutcome s c op own o :=
  ⟨sel, hs, .inr ⟨body, h⟩⟩

theorem hostRow_exec {i : Instr} {c : Cmd} {op : Nat} {own : Bool} (h : hostRow i = some (c, op, own)) (s : State) :
    RowOutcome s c op own (exec i s) := by
  cases i
  case nop | negotiate | identify | ctxOpen | ctxClose | ctxReset | ctxQuery | schedLoad | schedUnload | weightsLoad | weightsUnload
      | patchLoad | patchRetire | grammarLoad | grammarUnload | reqSubmit | reqCancel | reqQuery | accountSet | accountQuery | prefixPin
      | prefixRelease | jobRun | jobAbort | vidOpen | vidClose | vidReconfig | linePosition | pegArm | pegDisarm | attest | keyRotate
      | fwStage | fwStatus | quiesce | drain | resume | telemetrySnapshot | lifetimeRead | checkConfig | checkQuery | linkQuery =>
    cases h
    exact .of_row rfl
  case decodeAu | encode | release | acquire | eos | lineConfigLine | lineConfigTrigger | create | join | leave | rekey | live | nextStart
      | setMode =>
    cases h
    exact .of_subRow rfl rfl
  case tableEntry | port | dropPeer =>
    cases h
    exact .of_subRow rfl (by simp)
  case setCap | setRamp | heartbeat | doze | wake | setLimits | powerQuery =>
    cases h
    exact .of_powerRow rfl rfl
  all_goals cases h

end Sys2Proof.Machine


namespace Sys2Proof
open Machine

section
variable {s : State} {c : Cmd}

/-- What serving leaves of the state before a heartbeat is that of the state with it, but for the power block. -/
theorem Serves.of_beat {t : State} (h : Serves [] c s.beat t) : Serves [.pwr] c s t := by
  obtain ⟨⟨hq, hb⟩, hr⟩ := h
  refine ⟨⟨hq, fun b hn => ?_⟩, hr⟩
  have h := hb b (by simp_all)
  cases b <;> simp_all [Block.same, State.beat]

theorem Serves.mono_nil {more : List Block} {t : State} (h : Serves [] c s t) : Serves more c s t :=
  ⟨h.1.mono (by simp +contextual), h.2⟩

theorem Serves.same {more : List Block} {t : State} (h : Serves more c s t) {b : Block} (hb : b ∉ more ++ cmdBlocks) : b.same s t :=
  h.1.2 b hb

/-- A packet that is a row's own, and that the module can fetch, is run as a command, after a heartbeat on a POWER row over
MCTP. -/
theorem Machine.RowOutcome.command {op : Nat} {o : Host.Outcome State Fault Refusal} (h : RowOutcome s c op true o) (hop : c.opcode = op)
    (hf : s.fetchable c = true) :
    ∃ feats body, o = .next (s.command c feats body) ∨ (c.ring.val = 8 ∧ o = .next (s.beat.command c feats body)) := by
  obtain ⟨sel, hsel, ⟨feats, body, rfl⟩ | ⟨body, rfl⟩⟩ := h
  · exact ⟨feats, body, .inl (by rw [State.subRow, if_pos hsel, State.row, if_pos hop])⟩
  · refine ⟨[], body, ?_⟩
    have hrun (u : State) : u.subRow c op sel [] body = u.command c [] body := by
      rw [State.subRow, if_pos hsel, State.row, if_pos hop]
    by_cases hr : c.ring.val = 8
    · exact .inr ⟨hr, by simp [State.powerRow, hrun, hsel, hop, hr, hf]⟩
    · exact .inl (by simp [State.powerRow, hrun, hr])

/-- A command in sequence whose checks answer it at once has that answer, and nothing else happens. -/
theorem Machine.State.command_answers {feats : List Nat} {body : State → Verdict} {r : Reply} (hf : s.fetchable c = true)
    (hq : c.seq = s.expects c) (h : (s.fetched c).checked c feats body = .reply (s.fetched c) r) (hr : r.status ≠ stBusy) :
    Answered (s.command c feats body) c r ∧ Serves [] c s (s.command c feats body) := by
  have hrun : s.command c feats body = State.conclude c (.reply (s.fetched c) r) := by
    simp [State.command, hf, hq.symm, h]
  rw [hrun]
  refine ⟨State.conclude_answered _ c r hr (State.fetched_head s c), ?_, (conclude_reply_quiet r (quiet_fetched c s)).1⟩
  rw [State.conclude, State.withWait_of_ne _ r hr]
  exact (fetched_keeps c s).trans (finish_keeps _ _ _ _ _ _ r)

/-- The same with a heartbeat before it. -/
theorem Machine.RowOutcome.answers {op : Nat} {o : Host.Outcome State Fault Refusal} {r : Reply} (h : RowOutcome s c op true o)
    (hop : c.opcode = op) (hf : s.fetchable c = true) (hq : c.seq = s.expects c) (hr : r.status ≠ stBusy)
    (hg : ∀ feats, s.gate c feats = some r) :
    ∃ t, o = .next t ∧ Answered t c r ∧ Serves [.pwr] c s t ∧ (c.ring.val ≠ 8 → t.pwr = s.pwr) := by
  have hchecked (u : State) (feats : List Nat) (body : State → Verdict) (hu : u.gate c feats = some r) :
      (u.fetched c).checked c feats body = .reply (u.fetched c) r := by
    rw [State.checked, State.gate_fetched, hu]
  obtain ⟨feats, body, e | ⟨h8, e⟩⟩ := h.command hop hf
  · obtain ⟨ha, hs⟩ := State.command_answers hf hq (hchecked s feats body (hg feats)) hr
    exact ⟨_, e, ha, Serves.mono_nil hs, fun _ => Serves.same hs (b := .pwr) (by decide)⟩
  · obtain ⟨ha, hs⟩ := State.command_answers (s := s.beat) hf hq (hchecked s.beat feats body (hg feats)) hr
    exact ⟨_, e, ha, Serves.of_beat hs, fun h => absurd h8 h⟩

theorem opcodeDefined_of_hostRow {i : Instr} {op : Nat} {own : Bool} (h : hostRow i = some (c, op, own)) : opcodeDefined op = true := by
  cases i <;> cases h <;> decide

/-- A function that may not send an opcode fails that check of R412. -/
theorem Machine.State.gate_denied (feats : List Nat) (hdef : opcodeDefined c.opcode = true) (hmaj : c.major = 2)
    (hmin : c.minor ≤ (s.func c.fn.val).minor)
    (h : (c.fn.val ≠ 0 ∧ pf0Only c.opcode = true) ∨ (c.fn.val = 0 ∧ vfOnly c.opcode = true)) :
    s.gate c feats = some (.of stDenied) := by
  have hne : c.opcode ≠ 0x01 := by
    intro e
    rw [e] at h
    simp [pf0Only, vfOnly] at h
  have hsend : ((decide (c.fn.val ≠ 0) && pf0Only c.opcode) || (decide (c.fn.val = 0) && vfOnly c.opcode)) = true := by
    simpa using h
  simp only [State.gate, hne, hmaj, hdef, Nat.not_lt.2 hmin]
  simp_all
end


/-- Settles O6: a row leaves a packet it cannot fetch where it is. -/
theorem unfetchedWaits : Obligations.UnfetchedWaits := by
  unfold Obligations.UnfetchedWaits
  intro i s c op own h hf
  obtain ⟨sel, -, ⟨feats, body, e⟩ | ⟨body, e⟩⟩ := hostRow_exec h s
  · rw [e, State.subRow_waits op sel feats body hf]
  · rw [e, State.powerRow_waits op sel body hf]

/-- Settles O7: the sender's check of R412 answers the command. -/
theorem senderDenied : Obligations.SenderDenied := by
  unfold Obligations.SenderDenied
  intro i s c op h hop hf hq hmaj hmin hsend
  subst hop
  exact (hostRow_exec h s).answers rfl hf hq (by decide) fun feats =>
    State.gate_denied feats (opcodeDefined_of_hostRow h) hmaj hmin hsend

end Sys2Proof

/-! Sequence numbers (O8). -/

namespace Sys2Proof.Machine

/-! ### Commands out of sequence (15, R413) -/

/-- What writing an entry does to the host interface depends on the host interface alone. -/
theorem State.writeEntry_host_congr {s u : State} (h : s.host = u.host) (f n : Nat) (e : Completion) (q : Bool) :
    (s.writeEntry f n e q).host = (u.writeEntry f n e q).host := by
  have hr : s.ring f n = u.ring f n := by rw [State.ring, State.ring, h]
  have hupd {a b : State} (hab : a.host = b.host) (g : Ring → Ring) : (a.updRing f n g).host = (b.updRing f n g).host := by
    simp only [State.updRing, State.updHost, hab]
  have hbell {a b : State} (hab : a.host = b.host) (j : Nat) : (a.doorbell f j).host = (b.doorbell f j).host := by
    have hf : a.func f = b.func f := by rw [State.func, State.func, hab]
    have hu (g : Func → Func) : (a.updFunc f g).host = (b.updFunc f g).host := by simp only [State.updFunc, State.updHost, hab]
    unfold State.doorbell
    simp only [hf]
    split
    · exact hab
    · split
      · exact hu _
      · simp only [State.updHost, hu]
  have hput : (s.hostPut f ((u.ring f n).cqBase.toNat + 32 * (u.ring f n).cqTail) e.toBytes).host =
      (u.hostPut f ((u.ring f n).cqBase.toNat + 32 * (u.ring f n).cqTail) e.toBytes).host := by
    simp only [State.hostPut, State.updHost, h]
  unfold State.writeEntry
  simp only [hr]
  split
  · exact hupd h _
  · split
    · exact hbell (hupd h _) 24
    · split
      · exact hupd hput _
      · exact hbell (hupd hput _) n

/-- An entry written leaves the expected sequence number. -/
theorem State.writeEntry_ring_expected (s : State) (f n : Nat) (e : Completion) (q : Bool) :
    ((s.writeEntry f n e q).ring f n).expected = (s.ring f n).expected := by
  unfold State.writeEntry
  dsimp only
  split
  · rw [State.updRing_ring_same]
  · split
    · rw [State.doorbell_ring, State.updRing_ring_same]
    · have hput := congrArg Ring.expected (State.updRing_ring_same
        (s.hostPut f ((s.ring f n).cqBase.toNat + 32 * (s.ring f n).cqTail) e.toBytes) f n
        fun r => { r with cq := r.cq ++ [e], cqTail := (r.cqTail + 1) % ringEntries r.cqSize })
      split
      · exact hput
      · rw [State.doorbell_ring]
        exact hput

theorem State.takeEntry_ring_expected (s : State) (f n : Nat) :
    ((s.takeEntry f n).ring f n).expected = (s.ring f n).expected := by
  unfold State.takeEntry
  split
  · rfl
  · rw [State.updRing_ring_same]

theorem State.takeEntry_ring_kept (s : State) (f n : Nat) : ((s.takeEntry f n).ring f n).kept = (s.ring f n).kept := by
  unfold State.takeEntry
  split
  · rfl
  · rw [State.updRing_ring_same]

section
variable {s : State} {c : Cmd}

theorem quiet_takeEntry (c : Cmd) (s : State) : Quiet c s (s.takeEntry c.fn.val c.ring.val) := by
  unfold State.takeEntry
  split
  · exact Quiet.refl c s
  · exact quiet_updRing c s _ fun _ => rfl

theorem quiet_finishBadSeq (c : Cmd) (s : State) (d : Nat) : Quiet c s (s.finishBadSeq c d) := by
  refine Quiet.trans ?_ (quiet_writeEntry c _ _ _)
  exact ((quiet_consAdd c s _ _).trans (quiet_consAdd c _ _ _)).trans (quiet_sample c _ _ _)

theorem State.command_outOfSeq {feats : List Nat} {body : State → Verdict} (hf : s.fetchable c = true)
    (hq : c.seq ≠ s.expects c) : s.command c feats body = (s.takeEntry c.fn.val c.ring.val).outOfSeq c := by
  simp [State.command, hf, hq]

/-- A retry of a kept command whose completion was written gets that completion again. -/
theorem State.outOfSeq_retry {k : Kept} {comp : Completion}
    (hk : (s.ring c.fn.val c.ring.val).kept.find? (fun k => k.seq = c.seq) = some k) (hb : k.bytes = c.masked)
    (hc : k.comp = some comp) :
    (s.takeEntry c.fn.val c.ring.val).outOfSeq c =
      ((s.takeEntry c.fn.val c.ring.val).writeEntry c.fn.val c.ring.val comp c.noIrq).consAdd (cid 0x42 c.fn.val) 1 := by
  simp only [State.outOfSeq, State.takeEntry_ring_kept, hk, hb, hc, if_pos]

/-- The detail of BAD_SEQUENCE: 3 with a kept number, 1 behind the number expected, 2 ahead of it (15, R413). -/
def State.badSeqDetail (s : State) (c : Cmd) : Nat :=
  if ((s.ring c.fn.val c.ring.val).kept.find? fun k => k.seq = c.seq).isSome then 3
  else if seqBehind c.seq (s.expects c) then 1 else 2

theorem State.outOfSeq_refused
    (hk : ∀ k ∈ (s.ring c.fn.val c.ring.val).kept.find? fun k => k.seq = c.seq, k.bytes ≠ c.masked) :
    (s.takeEntry c.fn.val c.ring.val).outOfSeq c =
      (s.takeEntry c.fn.val c.ring.val).finishBadSeq c (s.badSeqDetail c) := by
  have hexp : (s.takeEntry c.fn.val c.ring.val).expects c = s.expects c := by
    rw [State.expects, State.expects, State.takeEntry_ring_expected]
  simp only [State.outOfSeq, State.takeEntry_ring_kept, State.badSeqDetail, hexp]
  cases h : (s.ring c.fn.val c.ring.val).kept.find? fun k => k.seq = c.seq with
  | some k => simp [hk k h]
  | none => simp

/-- What a command out of sequence does, on its ring and in the counters. -/
theorem State.outOfSeq_retry_serves (comp : Completion) :
    Serves [] c s (((s.takeEntry c.fn.val c.ring.val).writeEntry c.fn.val c.ring.val comp c.noIrq).consAdd
      (cid 0x42 c.fn.val) 1) :=
  ⟨Within.keeps (l := [] ++ cmdBlocks) (by simp [cmdBlocks]),
    (((quiet_takeEntry c s).trans (quiet_writeEntry c _ _ _)).trans (quiet_consAdd c _ _ _)).1⟩

theorem State.outOfSeq_refused_serves (d : Nat) :
    Serves [] c s ((s.takeEntry c.fn.val c.ring.val).finishBadSeq c d) :=
  ⟨Within.keeps (l := [] ++ cmdBlocks) (by simp [cmdBlocks]), ((quiet_takeEntry c s).trans (quiet_finishBadSeq c _ d)).1⟩

theorem State.takeEntry_host_congr {u : State} (h : s.host = u.host) (f n : Nat) :
    (s.takeEntry f n).host = (u.takeEntry f n).host := by
  unfold State.takeEntry
  split
  · exact h
  · simp only [State.updRing, State.updHost, h]

end

end Sys2Proof.Machine

namespace Sys2Proof
open Machine

/-- A packet that is a row's own, and that the module can fetch out of sequence, is handled by R413 alone; over MCTP a POWER
row counts a heartbeat first. -/
theorem Machine.RowOutcome.outOfSeq {s : State} {c : Cmd} {op : Nat} {o : Host.Outcome State Fault Refusal}
    (h : RowOutcome s c op true o) (hop : c.opcode = op) (hf : s.fetchable c = true) (hq : c.seq ≠ s.expects c) :
    o = .next ((s.takeEntry c.fn.val c.ring.val).outOfSeq c) ∨
      (c.ring.val = 8 ∧ o = .next ((s.beat.takeEntry c.fn.val c.ring.val).outOfSeq c)) := by
  obtain ⟨feats, body, e | ⟨h8, e⟩⟩ := h.command hop hf
  · exact .inl (by rw [e, State.command_outOfSeq hf hq])
  · exact .inr ⟨h8, by rw [e, State.command_outOfSeq (s := s.beat) hf hq]⟩

/-- Settles O8: a retry is answered from the kept commands, any other command out of sequence with BAD_SEQUENCE. -/
theorem sequenceChecks : Obligations.SequenceChecks := by
  unfold Obligations.SequenceChecks
  refine ⟨fun i s c op k comp h hop hf hq hk hb hc => ?_, fun i s c op h hop hf hq => ?_⟩
  · have hhost (u : State) : (u.consAdd (cid 0x42 c.fn.val) 1).host = u.host := rfl
    obtain e | ⟨h8, e⟩ := (hostRow_exec h s).outOfSeq hop hf hq
    · rw [State.outOfSeq_retry hk hb hc] at e
      have hs := State.outOfSeq_retry_serves (s := s) (c := c) comp
      exact ⟨_, e, hs.mono_nil, hhost _, by simp [State.consAdd], fun _ => hs.same (b := .pwr) (by decide)⟩
    · rw [State.outOfSeq_retry (s := s.beat) hk hb hc] at e
      refine ⟨_, e, (State.outOfSeq_retry_serves (s := s.beat) comp).of_beat, ?_, by simp [State.consAdd, State.beat],
        fun h => absurd h8 h⟩
      exact (hhost _).trans (State.writeEntry_host_congr (State.takeEntry_host_congr (s := s.beat) (u := s) rfl _ _) _ _ _ _)
  · intro old hk
    have hhost (u : State) (d : Nat) : (u.finishBadSeq c d).host = (u.writeEntry c.fn.val c.ring.val
        { seq := c.seq, status := stBadSeq, detail := d, result := [] } c.noIrq).host :=
      State.writeEntry_host_congr (by simp [State.sample, State.consAdd]) _ _ _ _
    have hexp (u : State) (d : Nat) : (((u.takeEntry c.fn.val c.ring.val).finishBadSeq c d).ring c.fn.val c.ring.val).expected =
        (u.ring c.fn.val c.ring.val).expected := by
      rw [State.finishBadSeq, State.writeEntry_ring_expected, ← u.takeEntry_ring_expected]
      simp [State.ring]
    obtain e | ⟨h8, e⟩ := (hostRow_exec h s).outOfSeq hop hf hq
    · rw [State.outOfSeq_refused hk] at e
      have hs := State.outOfSeq_refused_serves (s := s) (c := c) (s.badSeqDetail c)
      exact ⟨_, e, hs.mono_nil, fun _ => hs.same (b := .pwr) (by decide), hhost _ _, hexp s _⟩
    · rw [State.outOfSeq_refused (s := s.beat) hk] at e
      refine ⟨_, e, (State.outOfSeq_refused_serves (s := s.beat) _).of_beat, fun h => absurd h8 h, ?_, hexp s.beat _⟩
      exact (hhost _ _).trans (State.writeEntry_host_congr (State.takeEntry_host_congr (s := s.beat) (u := s) rfl _ _) _ _ _ _)

end Sys2Proof

/-! NOP, NEGOTIATE, IDENTIFY; reset (O9, O10). -/

namespace Sys2Proof.Machine

/-- The frame of a command that goes on, at the state it goes on with. -/
theorem Ran.keeps {l : List Block} {a t : State} {o : Host.Outcome State Fault Refusal} (h : Ran l a o) (e : o = .next t) :
    KeepsBut l a t := by
  subst e
  exact (ran_next.1 h).keeps

theorem Reply.ok_status_ne_busy (bs : List Byte) : (Reply.ok bs).status ≠ stBusy := by simp [Reply.ok, stBusy, stOk]

/-! ### NOP, NEGOTIATE and IDENTIFY -/

/-- A change of the sender's window and the fetch of its command do not meet. -/
theorem State.fetched_updFunc (s : State) (c : Cmd) (f : Nat) (g : Func → Func) :
    (s.fetched c).updFunc f g = (s.updFunc f g).fetched c := by
  by_cases h : c.ring.val = 8
  · simp only [State.fetched, State.takeEntry, if_pos h]
    rfl
  · simp only [State.fetched, State.takeEntry, if_neg h]
    rfl

/-- A row whose chapter changes its sender's window and answers. -/
theorem State.row_grants {s : State} {c : Cmd} {op : Nat} {feats : List Nat} {body : State → Verdict} {g : Func → Func} {r : Reply}
    (h : accepts s c op feats = true) (hb : body (s.fetched c) = .reply ((s.fetched c).updFunc c.fn.val g) r)
    (hr : r.status ≠ stBusy) :
    Answered (s.row c op feats body) c r ∧ Serves [] c (s.updFunc c.fn.val g) (s.row c op feats body) := by
  rw [State.fetched_updFunc] at hb
  rw [State.row_runs body h, hb]
  refine ⟨State.conclude_answered _ c r hr (State.fetched_head _ c), ?_, (conclude_reply_quiet r (quiet_fetched c _)).1⟩
  rw [State.conclude, State.withWait_of_ne _ r hr]
  exact (fetched_keeps c _).trans (finish_keeps _ _ _ _ _ _ r)

theorem State.gate_badVersion {s : State} {c : Cmd} (feats : List Nat) (hop : c.opcode = 0x01)
    (h : c.major ≠ 2 ∨ min (c.byte 17).toNat 3 < (c.byte 16).toNat) :
    s.gate c feats = some { status := stBadVersion, result := [0x03, 0x02] } := by
  have hb : (decide (c.major ≠ 2) || decide (min (c.byte 17).toNat 3 < (c.byte 16).toNat)) = true := by simpa using h
  simp only [State.gate, hop]
  simp_all

theorem State.gate_badOpcode {s : State} {c : Cmd} (feats : List Nat) (hop : opcodeDefined c.opcode = false) (hmaj : c.major = 2)
    (hmin : c.minor ≤ (s.func c.fn.val).minor) : s.gate c feats = some (.of stBadOpcode) := by
  have hne : c.opcode ≠ 0x01 := by
    intro e
    rw [e] at hop
    exact absurd hop (by decide)
  simp [State.gate, hne, hmaj, Nat.not_lt.2 hmin, hop]

end Sys2Proof.Machine

namespace Sys2Proof
open Machine

/-- Settles O9, block by block of the reset state. -/
theorem resetState : Obligations.ResetState := by
  unfold Obligations.ResetState
  refine ⟨rfl, rfl, rfl, rfl, fun _ => rfl, fun _ _ => ⟨rfl, rfl, rfl, rfl⟩, fun _ => ⟨rfl, rfl, rfl⟩, fun _ => rfl,
    fun _ => ⟨rfl, rfl, rfl⟩, rfl, rfl, rfl, fun _ => rfl, fun _ => ⟨rfl, rfl⟩, fun _ => rfl, rfl, rfl, rfl, rfl, rfl, rfl, rfl,
    rfl, rfl, rfl, rfl, rfl, rfl, rfl, fun _ => rfl⟩

/-- Settles O10: each of the four is answered at once, NEGOTIATE with a change of its sender's window. -/
theorem basicCommands : Obligations.BasicCommands := by
  unfold Obligations.BasicCommands
  refine ⟨fun c s h hz => ?_, fun c s h hz => ?_, fun c s hop hf hq hv => ?_, fun c s h hz => ?_,
    fun c s hop hf hq hmaj hmin => ?_⟩
  · exact ⟨_, rfl, State.row_reports h (params_run _ hz (by simp)) (by decide)⟩
  · exact ⟨_, rfl, State.row_grants h (params_run _ hz (by simp)) (Reply.ok_status_ne_busy _)⟩
  · refine ⟨_, rfl, ?_⟩
    rw [State.row, if_pos hop]
    exact State.command_answers hf hq (by rw [State.checked, State.gate_fetched, State.gate_badVersion _ hop hv]) (by decide)
  · have hfw : (s.fetched c).fwVersion = s.fwVersion := by simp [State.fwVersion]
    refine ⟨_, rfl, State.row_reports h ?_ (Reply.ok_status_ne_busy _)⟩
    rw [params_run _ hz (by simp), hfw, State.fetched_sec]
  · refine ⟨_, rfl, ?_⟩
    rw [if_neg (by simp [hop])]
    exact State.command_answers hf hq (by rw [State.checked, State.gate_fetched, State.gate_badOpcode _ hop hmaj hmin])
      (by decide)

end Sys2Proof

/-! Doorbells and heads (O12). -/

namespace Sys2Proof.Machine

/-! ### Doorbells and heads -/

section
variable (s : State)

/-- A doorbell bit changes the pending bits of a window and no other field of it. -/
theorem State.doorbell_func (f j g : Nat) : ∃ p, (s.doorbell f j).func g = { s.func g with dbPend := p } := by
  have h : ∃ p, (s.updFunc f fun w => { w with dbPend := w.dbPend ||| (1 <<< j) }).func g = { s.func g with dbPend := p } := by
    by_cases hg : g = f
    · subst hg
      exact ⟨_, State.updFunc_func_same s g _⟩
    · exact ⟨_, State.updFunc_func_ne s f _ g hg⟩
  unfold State.doorbell
  dsimp only
  split
  · exact ⟨_, rfl⟩
  · split
    · exact h
    · exact h

@[simp] theorem State.doorbell_func_tbHead (f j g : Nat) : ((s.doorbell f j).func g).tbHead = (s.func g).tbHead := by
  obtain ⟨p, h⟩ := s.doorbell_func f j g
  rw [h]

@[simp] theorem State.doorbell_func_veqHead (f j g : Nat) : ((s.doorbell f j).func g).veqHead = (s.func g).veqHead := by
  obtain ⟨p, h⟩ := s.doorbell_func f j g
  rw [h]

@[simp] theorem State.hostPut_func (f a : Nat) (bs : List Byte) (g : Nat) : (s.hostPut f a bs).func g = s.func g := rfl
@[simp] theorem State.hostPut_ctx (f a : Nat) (bs : List Byte) (c : Nat) : (s.hostPut f a bs).ctx c = s.ctx c := rfl
@[simp] theorem State.doorbell_ctx (f j c : Nat) : (s.doorbell f j).ctx c = s.ctx c := by
  simp only [State.ctx, State.doorbell_ctxs]

/-! ### The token batch ring (09, R240, R245) -/

theorem State.tbPut_tbHead (c : Nat) (r : TbRec) (g : Nat) : ((s.tbPut c r).func g).tbHead = (s.func g).tbHead := by
  have hpad (l : List TbRec) (u : State) (a : State → Nat) :
      (foldS l (fun s p => s.hostPut (c + 1) (a s) p.toBytes) u).func g = u.func g :=
    foldS_keeps u (fun u => u.func g) l _ fun _ _ => rfl
  have hupd (u : State) (n : Nat) : ((u.updFunc (c + 1) fun f => { f with tbTail := n }).func g).tbHead = (u.func g).tbHead := by
    rw [State.updFunc_func]
    split
    · simp_all
    · rfl
  simp [State.tbPut, hpad _ _ fun s' => (s'.ctx c).tbBase.toNat + (s.func (c + 1)).tbTail, hupd]

theorem State.tbPut_ctx_ne (c : Nat) (r : TbRec) {i : Nat} (h : i ≠ c) : (s.tbPut c r).ctx i = s.ctx i := by
  have hpad (l : List TbRec) (u : State) (a : State → Nat) :
      (foldS l (fun s p => s.hostPut (c + 1) (a s) p.toBytes) u).ctx i = u.ctx i :=
    foldS_keeps u (fun u => u.ctx i) l _ fun _ _ => rfl
  simp [State.tbPut, hpad _ _ fun s' => (s'.ctx c).tbBase.toNat + (s.func (c + 1)).tbTail, h]

theorem tbDrainList_tbHead (c : Nat) (rs : List TbRec) (g : Nat) :
    ((tbDrainList c rs s).func g).tbHead = (s.func g).tbHead := by
  induction rs generalizing s with
  | nil => rfl
  | cons r rs ih =>
    rw [tbDrainList]
    split
    · rw [ih, State.tbPut_tbHead]
    · rfl

theorem tbDrainList_ctx_ne (c : Nat) (rs : List TbRec) {i : Nat} (h : i ≠ c) : (tbDrainList c rs s).ctx i = s.ctx i := by
  induction rs generalizing s with
  | nil => simp [tbDrainList, h]
  | cons r rs ih =>
    rw [tbDrainList]
    split
    · rw [ih, State.tbPut_ctx_ne s c r h]
    · simp [h]

@[simp] theorem State.tbDrain_tbHead (c g : Nat) : ((s.tbDrain c).func g).tbHead = (s.func g).tbHead := by
  unfold State.tbDrain
  split
  · rfl
  · exact tbDrainList_tbHead s c _ g

theorem State.tbDrain_ctx_ne (c : Nat) {i : Nat} (h : i ≠ c) : (s.tbDrain c).ctx i = s.ctx i := by
  unfold State.tbDrain
  split
  · rfl
  · exact tbDrainList_ctx_ne s c _ h

/-! ### The video event queue (11, R293) -/

theorem State.veqPut_veqHead (c : Nat) (r : VidRec) (g : Nat) : ((s.veqPut c r).func g).veqHead = (s.func g).veqHead := by
  have hupd (u : State) (h : Func → Func) (hh : ∀ w, (h w).veqHead = w.veqHead) :
      ((u.updFunc (c + 1) h).func g).veqHead = (u.func g).veqHead := by
    rw [State.updFunc_func]
    split
    · simp_all
    · rfl
  unfold State.veqPut
  dsimp only
  rw [State.doorbell_func_veqHead]
  split
  · exact (hupd _ _ fun _ => rfl)
  · exact (hupd _ _ fun _ => rfl)

theorem drainKept_veqHead (c : Nat) (rs : List VidRec) (g : Nat) :
    ((drainKept c rs s).func g).veqHead = (s.func g).veqHead := by
  induction rs generalizing s with
  | nil => rfl
  | cons r rs ih =>
    rw [drainKept]
    split
    · rw [ih]
      exact State.veqPut_veqHead _ c r g
    · rfl

@[simp] theorem State.veqDrain_veqHead (c g : Nat) : ((s.veqDrain c).func g).veqHead = (s.func g).veqHead :=
  drainKept_veqHead s c _ g

theorem State.veqDrain_of_nil {c : Nat} (h : s.vid.kept.get c = []) : s.veqDrain c = s := by
  rw [State.veqDrain, h, drainKept]

/-! ### Messages that unmasking sends (15, R402) -/

/-- The messages a list of doorbell bits sends: one more for each bit set. -/
theorem foldS_send_msgs (f : Nat) (bits : Word) (l : List Nat) (hl : l.Nodup) (j : Nat) :
    (foldS l (fun s k => if bits.getLsbD k then s.updHost fun h => { h with msgs := h.msgs.upd (32 * f + k) (· + 1) } else s)
      s).host.msgs.get (32 * f + j) = s.host.msgs.get (32 * f + j) + b2n (decide (j ∈ l) && bits.getLsbD j) := by
  induction l generalizing s with
  | nil => simp [b2n]
  | cons k r ih =>
    obtain ⟨hk, hr⟩ := List.nodup_cons.1 hl
    rw [foldS_cons, ih _ hr]
    by_cases hjk : j = k
    · subst hjk
      by_cases hb : bits.getLsbD j = true
      · simp [hb, hk, b2n]
      · simp [hb, b2n]
    · have hne : 32 * f + j ≠ 32 * f + k := by omega
      split
      · simp [Tbl.get_upd_ne _ _ hne, hjk]
      · simp [hjk]

theorem State.sendPending_msgs (f : Nat) (bits : Word) {j : Nat} (hj : j < 32) :
    (s.sendPending f bits).host.msgs.get (32 * f + j) = s.host.msgs.get (32 * f + j) + b2n (bits.getLsbD j) := by
  rw [State.sendPending, foldS_send_msgs s f bits (upto 32) List.nodup_range j]
  simp [upto, hj]

@[simp] theorem State.sendPending_funcs (f : Nat) (bits : Word) : (s.sendPending f bits).host.funcs = s.host.funcs :=
  foldS_keeps s (fun u => u.host.funcs) _ _ fun u k => by split <;> rfl

@[simp] theorem State.sendPending_rings (f : Nat) (bits : Word) : (s.sendPending f bits).host.rings = s.host.rings :=
  foldS_keeps s (fun u => u.host.rings) _ _ fun u k => by split <;> rfl

@[simp] theorem State.sendPending_func (f : Nat) (bits : Word) (g : Nat) : (s.sendPending f bits).func g = s.func g := by
  simp only [State.func, State.sendPending_funcs]

theorem bit_getLsbD {j k : Nat} (hk : k < 32) : (BitVec.ofNat 32 (1 <<< j)).getLsbD k = decide (k = j) := by
  rw [BitVec.getLsbD_ofNat, Nat.shiftLeft_eq, Nat.one_mul, Nat.testBit_two_pow]
  simp [hk, eq_comm]

/-- What raising a doorbell bit that was not pending sends: a message, unless one of its masks is set. -/
theorem State.doorbell_msgs {f j : Nat} (h : (s.func f).dbPend.getLsbD j = false) :
    (s.doorbell f j).host.msgs.get (32 * f + j) =
      s.host.msgs.get (32 * f + j) + b2n (!(s.func f).dbMask.getLsbD j && !(s.func f).msixMask.getLsbD j) := by
  unfold State.doorbell
  dsimp only
  rw [if_neg (by simp [h])]
  split
  next hm =>
    have hno : (!(s.func f).dbMask.getLsbD j && !(s.func f).msixMask.getLsbD j) = false := by
      simpa [Bool.not_or] using congrArg not hm
    simp [hno, b2n, State.updFunc]
  next hm =>
    have hyes : (!(s.func f).dbMask.getLsbD j && !(s.func f).msixMask.getLsbD j) = true := by
      simpa [Bool.not_or] using congrArg not (Bool.eq_false_iff.2 hm)
    simp [hyes, b2n, State.updFunc]

end

end Sys2Proof.Machine

namespace Sys2Proof
open Machine

/-- Settles O12, clause by clause: a head taken moves the records on, a mask cleared sends what is pending and free. -/
theorem doorbellsAndHeads : Obligations.DoorbellsAndHeads := by
  unfold Obligations.DoorbellsAndHeads
  refine ⟨⟨fun c fn v s hfn hw hv hsz => ?_, fun c fn v s hfn hv => ?_, fun fn v s hw hv => ?_, fun fn v s hv => ?_,
    fun fn v s j hw hj => ?_, fun fn j s hw => ?_⟩, fun s f j hj => ⟨fun h => ?_, fun h => ⟨?_, ?_⟩, ?_⟩⟩
  · have hne : fn.val ≠ 0 := by omega
    have hc : fn.val - 1 = c.val := by omega
    refine ⟨_, by show execTbHeadWrite fn v s = _; simp only [execTbHeadWrite, hw, hc, hne, hv, Nat.not_le.2 hsz]; rfl, by simp, fun i hi => ?_, Within.keeps (by simp)⟩
    simp [State.tbDrain_ctx_ne _ _ hi, hi]
  · have hc : fn.val - 1 = c.val := by omega
    have hbad : (decide (v.toNat % 64 ≠ 0) || decide (s.tbSize c.val ≤ v.toNat)) = true := by simpa using hv
    show execTbHeadWrite fn v s = _
    by_cases hw : s.windowUp fn.val = true
    · simp only [execTbHeadWrite, hw, hc, Bool.or_assoc, hbad]
      simp
    · simp [execTbHeadWrite, hw]
  · refine ⟨_, by show execVeqHeadWrite fn v s = _; simp only [execVeqHeadWrite, hw, Nat.not_le.2 hv, Bool.not_true, Bool.false_eq_true, if_false]; rfl, ?_, Within.keeps (by simp), fun hk => ?_⟩
    · split <;> simp
    · have hstay {p : Prop} [Decidable p] {u : State} (hv : u.vid = s.vid) (hn : ¬ p → fn.val ≠ 0) :
          (if p then u else u.veqDrain (fn.val - 1)) = u := by
        split
        · rfl
        · next h => exact u.veqDrain_of_nil (by rw [hv, hk.resolve_left (hn h)])
      rw [hstay (u := s.updFunc fn.val _) rfl (by simp)]
      exact ⟨fun _ => rfl, rfl⟩
  · show execVeqHeadWrite fn v s = _
    by_cases hw : s.windowUp fn.val = true <;> simp [execVeqHeadWrite, hw, hv]
  · refine ⟨_, by show execDbMaskWrite fn v s = _; simp only [execDbMaskWrite, hw, Bool.not_true, Bool.false_eq_true, if_false]; rfl, by simp, ?_, by simp [State.updFunc], Within.keeps (by simp)⟩
    rw [State.sendPending_msgs _ _ _ hj]
    simp [State.updFunc, hj]
  · refine ⟨_, by show execMsixUnmask fn j s = _; simp only [execMsixUnmask, hw, Bool.not_true, Bool.false_eq_true, if_false]; rfl, ?_, fun k hk hkj => ⟨?_, ?_⟩, ?_, by simp [State.updFunc],
      Within.keeps (by simp)⟩
    · rw [State.sendPending_func, State.updFunc_func_same]
      simp only [BitVec.getLsbD_and, BitVec.getLsbD_not, BitVec.natCast_eq_ofNat, bit_getLsbD j.isLt]
      simp
    · rw [State.sendPending_func, State.updFunc_func_same]
      simp only [BitVec.getLsbD_and, BitVec.getLsbD_not, BitVec.natCast_eq_ofNat, bit_getLsbD hk]
      simp [hk, hkj]
    · rw [State.sendPending_msgs _ _ _ hk]
      simp only [BitVec.getLsbD_and, BitVec.getLsbD_not, BitVec.natCast_eq_ofNat, bit_getLsbD hk]
      simp [State.updFunc, hkj, b2n]
    · rw [State.sendPending_msgs _ _ _ j.isLt]
      simp only [BitVec.getLsbD_and, BitVec.getLsbD_not, BitVec.natCast_eq_ofNat, bit_getLsbD j.isLt]
      simp [State.updFunc]
  · rw [State.doorbell, if_pos h]
  · exact State.doorbell_pends s f hj
  · exact State.doorbell_msgs s h
  · exact Within.keeps (by simp)

end Sys2Proof

/-! Register accesses (O13). -/

namespace Sys2Proof.Machine

/-! ### Register accesses by offset (00, R3-R7) -/

section
variable {s : State} {b : Requester}

theorem exec_registerWrite_misses {o : Nat} {v : BitVec 64} (h : s.reaches b o false = false) :
    exec (.registerWrite b o false v) s = .next (s.missed b false false) := by
  show execRegisterWrite b o false v s = _
  simp [execRegisterWrite, h]

theorem exec_registerWrite_reaches {o : Nat} {v : BitVec 64} (h : s.reaches b o false = true) :
    exec (.registerWrite b o false v) s = .next (s.write32 b o (v.extractLsb' 0 32)) := by
  show execRegisterWrite b o false v s = _
  simp [execRegisterWrite, h]

/-- A write to a register of a block of PF0 BAR0 that has no row of its own. -/
theorem State.write32_block {o : Nat} {w : Word} (hb : ownVf b = none) (hl : s.blockLive (o / 2 ^ 20) = true)
    (hr : s.blockRow b (o / 2 ^ 20) (o % 2 ^ 20) w = none) :
    s.write32 b o w = s.writeBlock (reqNo b == 0) (o / 2 ^ 20) (o % 2 ^ 20) w := by
  simp only [State.write32, hb, hl, hr, if_true, Option.getD_none]

theorem State.write32_silent {o : Nat} {w : Word} (hb : ownVf b = none) (hl : s.blockLive (o / 2 ^ 20) = false) :
    s.write32 b o w = s := by
  simp only [State.write32, hb, hl, Bool.false_eq_true, if_false]

/-- A write to a register of a VF's window that has no row of its own. -/
theorem State.write32_window {f o : Nat} {w : Word} (hb : ownVf b = some f) (hr : s.glb.readyReached = true)
    (hn : s.windowRow f o w = none) : s.write32 b o w = s.writeWindow f o w := by
  simp [State.write32, hb, hr, hn]

theorem elemOf_below {o base stride n : Nat} (h : o < base) : elemOf o base stride n = none := by
  simp [elemOf, Nat.not_le.2 h]

theorem atElem_element {o base stride n i r : Nat} {f : Nat → Nat → State} {k : State} (h : elemOf o base stride n = some (i, r)) :
    atElem o base stride n f k = f i r := by
  simp [atElem, h]

/-- What a read of a register of a live block of PF0 BAR0 finds. -/
theorem State.regAt_block {o : Nat} (hb : ownVf b = none) (hl : s.blockLive (o / 2 ^ 20) = true) :
    s.regAt b o = ((s.blockRegs (o / 2 ^ 20) (o % 2 ^ 20)).find? fun r => r.1 == o % 2 ^ 20).map Prod.snd := by
  obtain ⟨hst, hd⟩ : blockStage (o / 2 ^ 20) ≤ s.glb.stage ∧ (dozeSilent (o / 2 ^ 20) && s.glb.state == .doze) = false := by
    simpa only [State.blockLive, Bool.and_eq_true, decide_eq_true_eq, Bool.not_eq_true'] using hl
  simp only [State.regAt, hb, hd, hst]
  rfl

theorem State.readReg_reaches {o : Nat} (h : s.reaches b o false = true) : s.readReg b o false = s.read32 b o := by
  simp [State.readReg, h]

theorem regArray_at {x base stride n k : Nat} (f : Nat → Regs) (hin : base ≤ x ∧ x < base + stride * n) (hk : (x - base) / stride = k) :
    regArray x base stride n f = (f k).map fun r => (base + stride * k + r.1, r.2) := by
  rw [regArray, if_pos hin, hk]

/-- LINE_STATUS of line `n` in the PEG block, at 0x1004 + 0x40 n (02, R54). -/
theorem State.pegRegs_lineStatus (n : Fin 16) {x : Nat} (hx : x = 0x1000 + 0x40 * n.val + 4) :
    ((s.blockRegs 3 x).find? fun r => r.1 == x).map Prod.snd = some (.one (s.line n.val).status) := by
  have hk : (x - 0x1000) / 0x40 = n.val := by omega
  have hin : 0x1000 ≤ x ∧ x < 0x1000 + 0x40 * 16 := by omega
  have hne (k : Nat) (h : k < 0x1000) : (k == x) = false := by
    rw [beq_eq_false_iff_ne]
    omega
  have hcfg : (0x1000 + 0x40 * n.val + 0 == x) = false := by
    rw [beq_eq_false_iff_ne]
    omega
  have hstatus : (0x1000 + 0x40 * n.val + 4 == x) = true := by
    rw [beq_iff_eq]
    omega
  rw [State.blockRegs, State.pegRegs]
  simp only [regArray_at _ hin hk, reg, regPair, List.cons_append, List.nil_append, List.append_assoc, List.map_cons,
    List.find?_cons, hne 0x0 (by decide), hne 0x10 (by decide), hne 0x20 (by decide), hne (0x20 + 4) (by decide),
    hne 0x30 (by decide), hne (0x30 + 4) (by decide), hne 0x38 (by decide), hcfg, hstatus, Option.map_some]

theorem State.regAt_lineStatus (n : Fin 16) (hb : ownVf b = none) (hl : s.blockLive 3 = true) :
    s.regAt b (0x301004 + 0x40 * n.val) = some (.one (s.line n.val).status) := by
  have hblk : (0x301004 + 0x40 * n.val) / 2 ^ 20 = 3 := by omega
  have hoff : (0x301004 + 0x40 * n.val) % 2 ^ 20 = 0x1004 + 0x40 * n.val := by omega
  rw [State.regAt_block hb (by rw [hblk]; exact hl), hblk, hoff]
  exact State.pegRegs_lineStatus n (by omega)

/-- PEG_TIME (02, R54). -/
theorem State.regAt_pegTime (hb : ownVf b = none) (hl : s.blockLive 3 = true) :
    s.regAt b 0x300020 = some (.lo s.pegTime.toNat) := by
  rw [State.regAt_block hb hl]
  rfl

theorem State.readEffect_lineStatus (n : Fin 16) (hb : ownVf b = none) (hl : s.blockLive 3 = true) :
    s.readEffect b (0x301004 + 0x40 * n.val) = s.updLine n.val fun l => { l with errCnt := 0 } := by
  have hk : (0x301004 + 0x40 * n.val - 0x301000) / 0x40 = n.val := by omega
  have hin : 0x301000 ≤ 0x301004 + 0x40 * n.val ∧ 0x301004 + 0x40 * n.val < 0x301400 ∧ (0x301004 + 0x40 * n.val) % 0x40 = 4 := by
    omega
  simp [State.readEffect, hb, hl, pegBase, hk, hin]

theorem Line.status_errCnt (l : Line) : l.status % 2 ^ 16 = l.errCnt.toNat := by
  have h := l.errCnt.isLt
  unfold Line.status
  omega

end

end Sys2Proof.Machine

namespace Sys2Proof
open Machine

/-- Settles O13: each access goes to the block or window its offset names. -/
theorem registerAccesses : Obligations.RegisterAccesses := by
  unfold Obligations.RegisterAccesses
  refine ⟨fun b v s hb hr hl => ?_, fun b v s hb hr hl => ?_, fun b n v s hb hr hl => ?_, fun f v s hf hr hg => ?_,
    fun b v s hb => ?_, fun b n s hb hr hl => ?_, fun b s hb hr hl => ?_, fun fn off width rd s hoff => ?_⟩
  · rw [exec_registerWrite_reaches hr, State.write32_block hb hl rfl]
    simp [State.writeBlock]
  · rw [exec_registerWrite_reaches hr, State.write32_block hb hl rfl]
    simp [State.writeBlock, State.writeCmd]
  · have hblk : (0x301004 + 0x40 * n.val) / 2 ^ 20 = 3 := by omega
    have hoff : (0x301004 + 0x40 * n.val) % 2 ^ 20 = 0x1004 + 0x40 * n.val := by omega
    rw [exec_registerWrite_reaches hr, State.write32_block hb (by rwa [hblk]) (by rw [hblk]; rfl), hblk, hoff]
    have he : elemOf (0x1004 + 0x40 * n.val) 0x1000 0x40 16 = some (n.val, 4) := by
      rw [elemOf, if_pos (by omega)]
      exact congrArg some (Prod.ext (by dsimp only; omega) (by dsimp only; omega))
    have hne : 0x1004 + 0x40 * n.val ≠ 0x10 := by omega
    simp [State.writeBlock, State.writePeg, atElem_element he, hne]
  · rw [exec_registerWrite_reaches hr, State.write32_window (f := f.val) (by simp [ownVf, hf]) hg rfl]
    rfl
  · split
    next hr =>
      rw [exec_registerWrite_reaches hr]
      cases hl : s.blockLive 3 with
      | true => rw [State.write32_block hb hl rfl]; rfl
      | false => rw [State.write32_silent hb hl]
    next hr => exact exec_registerWrite_misses (Bool.eq_false_iff.2 hr)
  · have e : exec (.rcRead b (0x301004 + 0x40 * n.val) false) s =
        .next ((s.updLine n.val fun l => { l with errCnt := 0 }).answer ((s.line n.val).status % 2 ^ 32)) := by
      show Host.Outcome.next (s.readReg b (0x301004 + 0x40 * n.val) false) = _
      simp only [State.readReg_reaches hr, State.read32, State.regAt_lineStatus n hb hl, State.readEffect_lineStatus n hb hl]
    refine ⟨_, e, by simp [State.line, State.updLine], ?_, by simp, rfl, Within.keeps (by simp)⟩
    have h := (s.line n.val).status_errCnt
    simp only [State.answer, State.updHost_host, BitVec.toNat_ofNat]
    omega
  · have e : exec (.loReadLatch b 0x300020) s =
        .next ((s.updHost fun h => { h with
          latches := h.latches.set (latchKey b 0x300020) (some (BitVec.ofNat 32 (s.pegTime.toNat / 2 ^ 32))) }).answer
            (s.pegTime.toNat % 2 ^ 32)) := by
      show Host.Outcome.next (s.readReg b 0x300020 false) = _
      have hre : s.readEffect b 0x300020 = s := by simp [State.readEffect, hb, pegBase]
      simp only [State.readReg_reaches hr, State.read32, State.regAt_pegTime hb hl, hre]
    refine ⟨_, e, ?_, ?_, rfl, Within.keeps (by simp)⟩
    · simp only [State.answer, State.updHost_host, State.pegTime, BitVec.toNat_ofNat]
      omega
    · simp only [State.answer, State.updHost_host, State.pegTime, BitVec.toNat_ofNat, Tbl.get_set_same]
      congr 1
      apply BitVec.eq_of_toNat_eq
      simp only [BitVec.toNat_ofNat]
      omega
  · have hb : ((decide (width = 4) || decide (width = 8)) && decide (off % width = 0)) = false := by simpa using hoff
    have e : exec (.unsupportedAccess fn off width rd) s = .next
        (if rd then (s.updHost fun h => { h with unsupported := h.unsupported + 1 }).answer (2 ^ (8 * min width 8) - 1)
          else s.updHost fun h => { h with unsupported := h.unsupported + 1 }) := by
      show execUnsupportedAccess fn off width rd s = _
      simp only [execUnsupportedAccess, hb, Bool.false_eq_true, if_false]
    exact ⟨_, e, by cases rd <;> rfl, by rintro rfl; rfl,
      (execUnsupportedAccess_ran fn off width rd (by simp) (Within.refl _ s)).keeps e⟩

end Sys2Proof

/-! The hot-swap switch, PERST# and the latch; start-up (O14, O15). -/

namespace Sys2Proof.Machine

/-! ### The hot-swap switch and the latch (20, R532; 15, R430) -/

theorem State.tryClose_board (s : State) : s.tryClose.board =
    if s.board.enSense && s.board.inputOk && !s.board.tripLatch then { s.board with closed := true } else s.board := rfl

theorem State.latch_moves (s : State) {opens : Bool} (h : (s.board.powered && decide (3 ≤ s.glb.stage)) = false) :
    s.latch opens = { s with board := { s.board with latchOpen := opens } } := by
  by_cases e : s.board.latchOpen = opens
  · subst e
    rw [State.latch, if_pos rfl]
  · rw [State.latch, if_neg e]
    exact if_neg (Bool.eq_false_iff.1 h)

/-- The latch moves with the unit powered and stage CORE_A complete: noted in LATCH_EVT. -/
def State.latchNoted (s : State) (opens : Bool) : State :=
  (s.updBoard fun b => { b with latchOpen := opens }).updHost fun h => { h with latchEvt := true }

theorem State.latch_noted (s : State) {opens : Bool} (ho : s.board.latchOpen ≠ opens) (hp : s.board.powered = true)
    (hst : 3 ≤ s.glb.stage) : s.latch opens = if opens then (s.latchNoted opens).doorbell 0 15 else s.latchNoted opens := by
  rw [State.latch, if_neg ho]
  exact if_pos (by simp [hp, hst])

/-- A doorbell bit leaves all of the host interface but the windows and the messages. -/
theorem State.doorbell_host (s : State) (f j : Nat) :
    ∃ funcs msgs, (s.doorbell f j).host = { s.host with funcs, msgs } := by
  unfold State.doorbell
  dsimp only
  split
  · exact ⟨_, _, rfl⟩
  · split <;> exact ⟨_, _, rfl⟩

end Sys2Proof.Machine

namespace Sys2Proof
open Machine

/-- Settles O14, event by event. -/
theorem switchAndReset : Obligations.SwitchAndReset := by
  unfold Obligations.SwitchAndReset
  refine ⟨⟨fun s => ⟨_, rfl, ?_, Within.keeps (by simp), fun hc => ?_⟩, fun s => ⟨_, rfl, ?_, Within.keeps (by simp), fun hc => ?_⟩,
    fun cause s => ⟨_, rfl, rfl, rfl, rfl, rfl, rfl, rfl, rfl, rfl, ?_⟩, fun s => ⟨_, rfl, rfl, rfl, rfl⟩, fun s hc hp => ?_⟩,
    ⟨fun s hp => ?_, fun s => rfl, fun s h => ?_, fun s ho hp hst => ?_, fun s ho hp hst => ?_⟩⟩
  · rw [State.tryClose_board]
    split <;> rfl
  · rw [State.tryClose_board]
    split <;> simp_all
  · rw [State.tryClose_board]
    split <;> rfl
  · rw [State.tryClose_board]
    split <;> simp_all
  · rintro rfl
    rfl
  · refine ⟨_, if_pos (by simp [hc, hp]), rfl, rfl, rfl, rfl, fun b hb => ?_⟩
    cases b <;> simp_all [Block.same]
  · exact ⟨_, if_neg (by simp [hp]), rfl, rfl, rfl, hp, rfl, rfl, rfl, rfl, rfl, rfl, rfl, rfl, rfl⟩
  · have hoff : (s.board.powered && decide (3 ≤ s.glb.stage)) = false := by
      obtain h | h := h
      · simp [h]
      · simp [Nat.not_le.2 h]
    exact ⟨congrArg Host.Outcome.next (s.latch_moves hoff), congrArg Host.Outcome.next (s.latch_moves hoff)⟩
  · have e : exec .latchOpen s = .next ((s.latchNoted true).doorbell 0 15) :=
      congrArg Host.Outcome.next (s.latch_noted (by simp [ho]) hp hst)
    obtain ⟨funcs, msgs, hh⟩ := (s.latchNoted true).doorbell_host 0 15
    refine ⟨_, e, ?_, ?_, State.doorbell_pends _ 0 (by decide), (execLatchOpen_ran (by simp) (Within.refl _ s)).keeps e⟩
    · rw [State.doorbell_board]
      rfl
    · rw [hh]
      rfl
  · exact congrArg Host.Outcome.next (s.latch_noted (by simp [ho]) hp hst)

/-- Start-up in stage 5 with a step of context 0 that has not reached its fence. -/
def steppingInStartUp : State :=
  (Tests.starting 5).updCtx 0 fun x => { x with steps := [{ k := 5 }], images := [(0, some Tests.imgOne)] }

/-- Refutes O15: with a step under way the completion of stage PLLS sets the quadrants' clocks, and with them counts the
step's nominal time, which is kept in its context. -/
theorem not_startUp : ¬ Obligations.StartUp := by
  unfold Obligations.StartUp
  rintro ⟨⟨hgood, -⟩, -⟩
  obtain ⟨t, e, -, -, hctxs, -⟩ := hgood .plls {} steppingInStartUp (by decide) (by decide) (by decide) (by decide) (by simp)
  obtain rfl := Host.Outcome.next.inj e
  exact absurd (congrArg (fun l : Tbl Ctx => (l.get 0).nomDone) hctxs) (by decide)

end Sys2Proof

/-! Clocks (O16). -/

namespace Sys2Proof
open Machine

/-- Context 0, idle between steps, has a step that depends on a provisional epoch received over an UP session. -/
def provisionalOverLink : State :=
  ((Tests.linked 255).updPeer 255 fun p => { p with provisional := [(0, 1, 0)] }).updCtx 0 fun x =>
    { x with steps := [{ k := 1, deps := [(255, 0, 1)] }] }

/-- Refutes O16: entering CLOCK_HOLD closes the sessions between modules, and one that goes down revokes the epochs it had
received provisionally, so that a step of an idle context that depends on one is to be rewound. -/
theorem not_clocks : ¬ Obligations.Clocks := by
  unfold Obligations.Clocks
  rintro ⟨-, hlost, -⟩
  obtain ⟨t, e, -, -, -, -, -, -, hctxs, -⟩ :=
    hlost provisionalOverLink (by decide) (by decide) (by decide) (by decide) (by decide)
  obtain rfl := Host.Outcome.next.inj e
  exact absurd (congrArg (fun l : Tbl Ctx => (l.get 0).steps.map (·.rewindDue)) hctxs) (by decide)

end Sys2Proof

/-! POWER_SET and POWER_QUERY (O17). -/

namespace Sys2Proof.Machine

/-! ### Rows answered at once -/

section
variable {s u : State} {c : Cmd} {op : Nat} {feats : List Nat} {body : State → Verdict} {r : Reply} {more : List Block}

/-- A row whose chapter answers at once, with a status other than BUSY_RETRY, in state `u`: it is answered, it leaves `u` but
for the completion, and of the state before it all but what its chapter changed. -/
theorem State.row_ends (h : accepts s c op feats = true) (hb : body (s.fetched c) = .reply u r) (hr : r.status ≠ stBusy)
    (hk : KeepsBut (more ++ cmdBlocks) (s.fetched c) u) (hh : u.host = (s.fetched c).host) (ht : u.tel = (s.fetched c).tel) :
    Answered (s.row c op feats body) c r ∧ KeepsBut cmdBlocks u (s.row c op feats body) ∧
      Serves more c s (s.row c op feats body) := by
  obtain ⟨ha, -, hs⟩ := State.row_replies h hb hr hk hh ((Quiet.refl c _).of_eq hh ht)
  refine ⟨ha, ?_, hs⟩
  rw [State.row_runs body h, hb, State.conclude, State.withWait_of_ne u r hr]
  exact finish_keeps u _ _ _ _ _ r

/-! ### POWER_SET and POWER_QUERY (18, R505-R507) -/

/-- The state a POWER command runs in: over MCTP, after a heartbeat (18, R505). -/
def State.afterBeat (s : State) (c : Cmd) : State := if c.ring.val = 8 then s.beat else s

@[simp] theorem State.afterBeat_settings : (s.afterBeat c).settings = s.settings := by
  unfold State.afterBeat
  split <;> rfl

@[simp] theorem State.afterBeat_glb : (s.afterBeat c).glb = s.glb := by
  unfold State.afterBeat
  split <;> rfl

theorem State.afterBeat_eq : s.afterBeat c = { s with pwr := (s.afterBeat c).pwr } := by
  unfold State.afterBeat
  split <;> rfl

@[simp] theorem State.keepSettings_pwr (f : Settings → Settings) : (s.keepSettings c f).pwr = s.pwr := by
  unfold State.keepSettings
  split <;> rfl

@[simp] theorem State.keepSettings_host (f : Settings → Settings) : (s.keepSettings c f).host = s.host := by
  unfold State.keepSettings
  split <;> rfl

@[simp] theorem State.keepSettings_tel (f : Settings → Settings) : (s.keepSettings c f).tel = s.tel := by
  unfold State.keepSettings
  split <;> rfl

/-! The readings of the power block do not change with the fetch of a command. -/

theorem State.fetched_inputAvg (s : State) (c : Cmd) : (s.fetched c).inputAvg = s.inputAvg := by simp [State.inputAvg]

theorem State.fetched_effLimit (s : State) (c : Cmd) : (s.fetched c).effLimit = s.effLimit := by
  simp [State.effLimit, State.limits, State.startHeld]

theorem State.fetched_trackMs (s : State) (c : Cmd) : (s.fetched c).trackMs = s.trackMs := by
  simp [State.trackMs, State.fetched_effLimit]

theorem State.fetched_pwrStatus (s : State) (c : Cmd) : (s.fetched c).pwrStatus = s.pwrStatus := by
  simp [State.pwrStatus, State.fetched_effLimit]

theorem State.fetched_quad0 (s : State) (c : Cmd) : (s.fetched c).quad0 = s.quad0 := by simp [State.quad0, State.quadMhz]

theorem State.fetched_hbAge (s : State) (c : Cmd) : (s.fetched c).hbAge = s.hbAge := by simp [State.hbAge]

theorem State.keepSettings_settings (f : Settings → Settings) :
    (s.keepSettings c f).settings = if (c.byte 17).getLsbD 0 then f s.settings else s.settings := by
  unfold State.keepSettings Cmd.persist
  split <;> rfl

theorem State.accepts_afterBeat (h : accepts s c op [] = true) : accepts (s.afterBeat c) c op [] = true := by
  unfold State.afterBeat
  split
  · exact h
  · exact h

theorem State.powerRow_afterBeat {sel : Cmd → Bool} (h : accepts s c op [] = true) (hsel : sel c = true) :
    s.powerRow c op sel body = (s.afterBeat c).row c op [] body := by
  have hrow (v : State) : v.subRow c op sel [] body = v.row c op [] body := by rw [State.subRow, if_pos hsel]
  by_cases h8 : c.ring.val = 8
  · simp [State.powerRow, State.afterBeat, hrow, hsel, h8, accepts_opcode h, accepts_fetchable h]
  · simp [State.powerRow, State.afterBeat, hrow, h8]

end

end Sys2Proof.Machine

namespace Sys2Proof
open Machine

/-- A heartbeat before it changes the power block alone. -/
theorem Serves.of_afterBeat {s t : State} {c : Cmd} {more : List Block} (hp : .pwr ∈ more) (h : Serves more c (s.afterBeat c) t) :
    Serves more c s t := by
  rw [State.afterBeat_eq] at h
  obtain ⟨⟨hq, hb⟩, hr⟩ := h
  refine ⟨⟨hq, fun b hn => ?_⟩, hr⟩
  have h := hb b hn
  cases b
  case pwr => exact absurd (List.mem_append_left _ hp) hn
  all_goals exact h

section
variable {s u : State} {c : Cmd} {op : Nat} {body : State → Verdict} {r : Reply} {more : List Block} {sel : Cmd → Bool}
  {P : State → Prop}

/-- A POWER command answered at once: what holds of every state that answers it, leaves what its chapter left and frames the
rest holds of the state it ends in. -/
theorem Machine.State.powerRow_ends (h : accepts s c op [] = true) (hsel : sel c = true)
    (hb : body ((s.afterBeat c).fetched c) = .reply u r) (hr : r.status ≠ stBusy) (hp : .pwr ∈ more)
    (hk : KeepsBut (more ++ cmdBlocks) ((s.afterBeat c).fetched c) u) (hh : u.host = ((s.afterBeat c).fetched c).host)
    (ht : u.tel = ((s.afterBeat c).fetched c).tel)
    (hP : ∀ t, Answered t c r → KeepsBut cmdBlocks u t → Serves more c s t → P t) :
    ∃ t, (.next (s.powerRow c op sel body) : Host.Outcome State Fault Refusal) = .next t ∧ P t := by
  obtain ⟨ha, hu, hs⟩ := State.row_ends (State.accepts_afterBeat h) hb hr hk hh ht
  refine ⟨_, congrArg _ (State.powerRow_afterBeat h hsel), hP _ ha hu (hs.of_afterBeat hp)⟩
end

/-- Settles O17: each command ends in its chapter's change of the power block, after the heartbeat that an MCTP one counts as. -/
theorem powerCommands : Obligations.PowerCommands := by
  unfold Obligations.PowerCommands
  intro beat good
  have hbeat (s : State) (c : Cmd) : (s.afterBeat c).pwr = beat s c := by
    dsimp only [beat, State.afterBeat]
    split <;> rfl
  have hout {lo hi n : Nat} (hl : lo ≤ n) (hh : n ≤ hi) : outOf lo hi n = false := by simp [outOf, hl, hh]
  have hpersist {c : Cmd} (h : (c.byte 17).toNat ≤ 1) : (persistRule c).1 = false := by simp [persistRule, h]
  refine ⟨fun c s ⟨h, ho, hz, hp⟩ hl hh => ?_, fun c s ⟨h, ho, hz, hp⟩ hl hh hl' hh' => ?_, fun c s ⟨h, ho, hz, hp⟩ => ?_,
    fun c s ⟨h, ho, hz, hp⟩ h1 h2 h3 h4 h5 h6 h7 h8 => ?_, fun c s h hz => ?_⟩
  · refine State.powerRow_ends (more := [.pwr, .settings]) h (by simp [ho])
      (params_run _ hz (by simp [ho, hpersist hp, hout hl hh])) (by decide) (by simp) (Within.keeps (by simp)) (by simp) (by simp)
      fun t ha ⟨_, hu⟩ hs => ⟨ha, (hu .pwr (by decide)).trans ?_, (hu .settings (by decide)).trans ?_, hs⟩
    · simp [hbeat]
    · simp [State.keepSettings_settings]
  · refine State.powerRow_ends (more := [.pwr, .settings]) h (by simp [ho])
      (params_run _ hz (by simp [hpersist hp, hout hl hh, hout hl' hh'])) (by decide) (by simp) (Within.keeps (by simp)) (by simp)
      (by simp) fun t ha ⟨_, hu⟩ hs => ⟨ha, (hu .pwr (by decide)).trans ?_, (hu .settings (by decide)).trans ?_, hs⟩
    · simp [hbeat]
    · simp [State.keepSettings_settings]
  · refine State.powerRow_ends (more := [.pwr]) h (by simp [ho]) (params_run _ hz (by simp [hpersist hp])) (by decide) (by simp)
      (Within.keeps (by simp)) rfl rfl fun t ha ⟨_, hu⟩ hs => ⟨ha, (hu .pwr (by decide)).trans ?_, hs⟩
    simp [hbeat]
  · refine State.powerRow_ends (more := [.pwr, .settings]) h (by simp [ho])
      (params_run _ hz (by simp [hpersist hp, hout h1 h2, hout h3 h4, hout h5 h6, hout h7 h8])) (by decide) (by simp)
      (Within.keeps (by simp)) (by simp) (by simp)
      fun t ha ⟨_, hu⟩ hs => ⟨ha, (hu .pwr (by decide)).trans ?_, (hu .settings (by decide)).trans ?_, hs⟩
    · simp [hbeat]
    · simp [State.keepSettings_settings]
  · refine State.powerRow_ends (more := [.pwr]) h rfl (params_run _ hz (by simp)) (Reply.ok_status_ne_busy _) (by simp)
      (Within.keeps (by simp)) rfl rfl fun t ha ⟨_, hk⟩ hs => ⟨(hk .pwr (by decide)).trans ?_, hs, ?_⟩
    · simp [hbeat]
    · have hu : ({ s with pwr := beat s c } : State) = s.afterBeat c := by rw [State.afterBeat_eq, hbeat]
      rw [hu]
      rwa [State.fetched_inputAvg, State.fetched_effLimit, State.fetched_trackMs, State.fetched_pwrStatus, State.fetched_quad0,
        State.fetched_hbAge, State.fetched_pwr] at ha

end Sys2Proof

/-! Refusals (O18). -/

namespace Sys2Proof.Machine

/-! ### Refusals -/

section
variable {s u : State} {c : Cmd} {op : Nat} {feats : List Nat} {body : State → Verdict} {r : Reply} {more : List Block}
  {P : State → Prop}

/-- `State.row_ends` for a command's outcome: what holds of every state that answers it, leaves what its chapter left and
frames the rest holds of the state it ends in. -/
theorem State.row_answers (more : List Block) (h : accepts s c op feats = true) (hb : body (s.fetched c) = .reply u r)
    (hr : r.status ≠ stBusy) (hk : KeepsBut (more ++ cmdBlocks) (s.fetched c) u) (hh : u.host = (s.fetched c).host)
    (ht : u.tel = (s.fetched c).tel) (hP : ∀ t, Answered t c r → KeepsBut cmdBlocks u t → Serves more c s t → P t) :
    ∃ t, (.next (s.row c op feats body) : Host.Outcome State Fault Refusal) = .next t ∧ P t := by
  obtain ⟨ha, hu, hs⟩ := State.row_ends h hb hr hk hh ht
  exact ⟨_, rfl, hP _ ha hu hs⟩

/-- A row that answers at once and changes nothing more. -/
theorem State.row_refuses (h : accepts s c op feats = true) (hb : body (s.fetched c) = .reply (s.fetched c) r)
    (hr : r.status ≠ stBusy) :
    ∃ t, (.next (s.row c op feats body) : Host.Outcome State Fault Refusal) = .next t ∧ Answered t c r ∧ Serves [] c s t :=
  ⟨_, rfl, State.row_reports h hb hr⟩

/-- Parameters whose reserved bytes are 0 and of whose rules one fails: BAD_PARAM at its byte (15, R411, R412). -/
theorem params_bad {used : List (Nat × Nat)} {rules : List (Bool × Nat)} {k : Verdict} {o : Nat} (hz : reservedZero c used = true)
    (hr : (rules.filterMap fun r => if r.1 then some r.2 else none) = [o]) : params s c used rules k = .reply s (.bad o) := by
  simp only [reservedZero, Option.isNone_iff_eq_none] at hz
  simp [params, Cmd.badParam, hz, hr]
/-- A bit set in a word of flags. -/
theorem or_bit_getLsbD {w m : Nat} (x : BitVec w) (h : m < w) : (x ||| BitVec.ofNat w (1 <<< m)).getLsbD m = true := by
  rw [BitVec.getLsbD_or, BitVec.getLsbD_ofNat, Nat.shiftLeft_eq, Nat.one_mul, Nat.testBit_two_pow_self]
  simp [h]

/-- What an event counter's advance does to the telemetry depends on the telemetry and the time alone. -/
theorem State.bump_tel_congr {v w : State} (ht : v.tel = w.tel) (hp : v.time = w.time) (off : Nat) :
    (v.bump off).tel = (w.bump off).tel := by
  have hlife {a b : State} (ht : a.tel = b.tel) (hp : a.time = b.time) (k : Nat) (l : List Nat) :
      (a.lifetime k l).tel = (b.lifetime k l).tel := by
    simp only [State.lifetime, State.updTel, State.pegTime, ht, hp]
  have hev : v.evAt off = w.evAt off := by rw [State.evAt, State.evAt, ht]
  unfold State.bump State.bumpBy
  simp only [hev]
  split
  · simp only [State.updTel, ht]
  · refine hlife ?_ (by simpa using hp) _ _
    simp only [State.updTel, ht]

theorem State.mailRejected_ovf (s : State) {m : Nat} (h : m < 24) : (s.mailRejected m).mbx.ovf.getLsbD m = true := by
  simpa [State.mailRejected] using or_bit_getLsbD s.mbx.ovf h

theorem State.mailRejected_tel (s : State) (m : Nat) : (s.mailRejected m).tel = (s.bump (mbxBase + 0x18)).tel :=
  State.bump_tel_congr (v := s.updMbx _) (w := s) rfl rfl _

end

end Sys2Proof.Machine

namespace Sys2Proof
open Machine

/-- Settles O18: each of the five is a check that comes before its command's effect. -/
theorem refusals : Obligations.Refusals := by
  unfold Obligations.Refusals
  refine ⟨fun c s h hf hx => ?_, fun c s h ho hz hp hw => ?_, fun c table s h hz hk hg hl => ?_,
    ⟨fun m cls idx bs s hv hs hm => ?_, fun v s hv hm => ?_⟩, fun c s h h8 h15 ho => ?_⟩
  · exact State.row_refuses h (if_pos ⟨hf, hx⟩) (by decide)
  · have hout : outOf 120 640 (c.le 20 2) = true := by simpa [outOf] using hw
    refine State.powerRow_ends (more := [.pwr]) h (by simp [ho])
      (params_bad (o := 20) hz (by simp [ho, persistRule, Nat.not_lt.2 hp, hout])) (by decide) (by simp) (Within.keeps (by simp)) rfl rfl
      fun t ha ⟨_, hu⟩ hs => ⟨ha, fun h8 => (hu .pwr (by decide)).trans ?_, hs⟩
    simp [State.afterBeat, h8]
  · refine State.row_refuses h ((params_run _ hz ?_).trans (if_pos ?_)) (by decide)
    · simp [Nat.not_lt.2 hk, hg]
    · simp [hl]
  · have e : exec (.mailboxWrite m cls idx bs) s = .next (s.mailRejected m.val) := by
      show execMailboxWrite m cls idx bs s = _
      simp [execMailboxWrite, hv, hs, State.mailPut_full _ hm]
    exact ⟨_, e, by simp, s.mailRejected_ovf m.isLt, s.mailRejected_tel _, Within.keeps (by simp [State.mailRejected])⟩
  · have e : exec (.mbxPost v) s =
        .next ((s.mailRejected 1).updHost fun h => { h with unsupported := h.unsupported + 1 }) := by
      show execMbxPost v s = _
      simp [execMbxPost, hv, State.mailPut_full _ hm]
    exact ⟨_, e, by simp, s.mailRejected_ovf (m := 1) (by decide), s.mailRejected_tel 1, by simp [State.mailRejected],
      Within.keeps (by simp [State.mailRejected])⟩
  · refine State.row_refuses h (if_pos ?_) (by decide)
    have hl : (s.fetched c).line (c.byte 16).toNat = s.line (c.byte 16).toNat := by simp [State.line]
    rw [hl]
    simpa [h15, isPhysical, Nat.not_lt.2 h8] using ho

end Sys2Proof

/-! DOZE and WAKE (O19). -/

namespace Sys2Proof
open Machine

theorem Within.same {l : List Block} {a t : State} (h : Within l a t) (b : Block) (hb : b ∉ l) : b.same a t := h.keeps.2 b hb

end Sys2Proof

namespace Sys2Proof.Machine

/-! ### DOZE and its exit (18, R508-R511) -/

section
variable (s : State)

/-- The links and pictures that close on entry to DOZE or CLOCK_HOLD. -/
theorem State.closed_within : Within [.vid, .tel, .host, .lnk, .ctl, .ctxs] s s.abandonPictures.closeLinks := by simp

variable {s}

/-- A DOZE entry that finds the array free: pictures are abandoned, links closed, the quadrants' settings kept; a WAKE that
came meanwhile acts (18, R508). -/
theorem State.checkDoze_free (he : s.glb.dozeEntering = true) (hc : s.arr.cur = none) :
    ∃ u, Within [.vid, .tel, .host, .lnk, .ctl, .ctxs, .clk, .glb] s u ∧
      u.glb = { s.glb with
        state := .doze, dozeEntering := false, resumeState := some (s.glb.resumeState.getD s.glb.state) } ∧
      u.clk.saved = s.quads ++ [s.clk.nocPll, s.clk.codecPll] ∧
      s.checkDoze = if u.glb.wakePending && !u.pwr.dozeThermal then u.dozeExit else u := by
  have hglb : s.abandonPictures.closeLinks.glb = s.glb := s.closed_within.same .glb (by decide)
  have hclk : s.abandonPictures.closeLinks.clk = s.clk := s.closed_within.same .clk (by decide)
  have hend (u : State) : Within [.host, .tel] u
      (((u.bump (pwrBase + 0x40)).doorbellOpen 14).completeAll (fun w => w == .dozed) fun _ => .of stOk) := by simp
  unfold State.checkDoze
  rw [if_neg (by simp [he, hc])]
  refine ⟨_, ?_, ?_, ?_, rfl⟩
  · simp
  · refine ((hend _).same .glb (by decide)).trans ?_
    simp only [State.updGlb_glb, State.updCtl_glb, State.updClk_glb, hglb]
  · refine (congrArg Clk.saved ((hend _).same .clk (by decide))).trans ?_
    simp only [State.updGlb_clk, State.updCtl_clk, State.updClk_clk, hclk]
    rfl

/-- The state DOZE is entered from, with the entry begun. -/
theorem State.enterDoze_free (hd : s.glb.dozeEntering = false) (hw : s.glb.wakePending = false) (hc : s.arr.cur = none) :
    Within [.vid, .tel, .host, .lnk, .ctl, .ctxs, .clk, .glb] s (s.enterDoze false) ∧
      (s.enterDoze false).glb.state = .doze ∧ (s.enterDoze false).glb.dozeEntering = false ∧
      (s.enterDoze false).glb.resumeState = some (s.glb.resumeState.getD s.glb.state) ∧
      (s.enterDoze false).clk.saved = s.quads ++ [s.clk.nocPll, s.clk.codecPll] := by
  obtain ⟨u, hu, hg, hs, e⟩ := State.checkDoze_free (s := s.updGlb fun g => { g with dozeEntering := true, dozeSince := s.time })
    rfl hc
  have hwake : u.glb.wakePending = false := by rw [hg]; exact hw
  have he : s.enterDoze false = u := by
    rw [if_neg (by simp [hwake])] at e
    rw [← e]
    simp [State.enterDoze, hd, hc]
  rw [he, hg]
  refine ⟨Within.trans ?_ hu, rfl, rfl, rfl, hs⟩
  simp

/-- A DOZE entry that finds a step under way waits for it. -/
theorem State.enterDoze_waits {x : Nat} (hd : s.glb.dozeEntering = false) (hc : s.arr.cur = some x) (hx : (s.ctx x).running = true) :
    s.enterDoze false = s.updGlb fun g => { g with dozeEntering := true, dozeSince := s.time } := by
  have hctx (g : Glb → Glb) : (s.updGlb g).ctx x = s.ctx x := rfl
  simp [State.enterDoze, hd, hc, State.checkDoze, hctx, hx]

/-- The quadrants' settings after they are set. -/
theorem State.setQuads_qpll (qs : List Nat) {q : Nat} (hq : q < 4) : (s.setQuads qs).clk.qpll.get q = qs.getD q 0 := by
  have hadv (u : State) : (foldS allCtxs (fun s c => if (s.ctx c).running then s.advanceNominal c else s) u).clk = u.clk :=
    (Within.same (l := [.ctxs]) (by simp [foldS_within]) .clk (by decide))
  have hwdog (u : State) (n : State → Nat → Nat) : (foldS allCtxs (fun s c => if (s.ctx c).running then
      s.updActx c fun a => { a with wdogUs := n s c } else s) u).clk = u.clk :=
    (Within.same (l := [.arr]) (by simp [foldS_within]) .clk (by decide))
  have hset (t : Tbl Nat) : ((upto 4).foldl (fun t q => t.set q (qs.getD q 0)) t).get q = qs.getD q 0 := by
    have h : q = 0 ∨ q = 1 ∨ q = 2 ∨ q = 3 := by omega
    obtain rfl | rfl | rfl | rfl := h <;> simp [upto, List.range_succ, Tbl.get_set]
  unfold State.setQuads
  dsimp only
  split
  · rw [hwdog, State.updArr_clk, State.updClk_clk]
    exact hset _
  · rw [State.updArr_clk, State.updClk_clk]
    exact hset _

/-- What going back to the state to resume does after it: links, video records and the WAKE commands that waited. -/
def State.resumed (s : State) (st : ModState) : State :=
  (if st = .ready then (foldS allCtxs State.veqDrain s).openLinks else foldS allCtxs State.veqDrain s).completeAll
    (fun w => w == .awake) fun _ => .of stOk

theorem State.resumed_within (u : State) (st : ModState) : Within [.host, .tel, .vid, .mem, .lnk] u (u.resumed st) := by
  have hd : Within [.host, .tel, .vid, .mem, .lnk] u (foldS allCtxs State.veqDrain u) :=
    foldS_preserves _ (Within _ u) _ _ (fun v c hv => State.veqDrain_within c (by simp) hv) (Within.refl _ u)
  unfold State.resumed
  split
  · simpa using hd
  · simpa using hd

theorem State.resumeModule_glb : s.resumeModule.glb =
    { s.glb with state := s.glb.resumeState.getD .ready, resumeState := none, wakePending := false } :=
  (State.resumed_within _ _).same .glb (by decide)

theorem State.resumeModule_clk : s.resumeModule.clk = s.clk :=
  (State.resumed_within _ _).same .clk (by decide)

/-- The exit from DOZE with the crystal good and no DRAIN limit passed (18, R510). -/
theorem State.dozeExit_crystal (hx : s.clk.xtalOk = true) (hlate : s.glb.drainLimitPassed = false) :
    s.dozeExit.glb.state = s.glb.resumeState.getD .ready ∧ s.dozeExit.glb.resumeState = none ∧
      ∀ q, q < 4 → s.dozeExit.clk.qpll.get q = s.clk.saved.getD q 0 := by
  have hbell : Within [.host] s (s.doorbellOpen 14) := by simp
  have hclk : (s.doorbellOpen 14).clk = s.clk := hbell.same .clk (by decide)
  have hglb : (s.doorbellOpen 14).glb = s.glb := hbell.same .glb (by decide)
  have hquads (u : State) (qs : List Nat) : (u.setQuads qs).glb = u.glb :=
    Within.same (l := [.arr, .clk, .ctxs]) (by simp) .glb (by decide)
  unfold State.dozeExit
  simp only [State.updPwr_clk, hclk, hx, Bool.not_true, Bool.false_eq_true, if_false, hquads, State.updClk_glb, State.updPwr_glb,
    hglb, hlate, State.resumeModule_glb, State.resumeModule_clk, State.updGlb_glb, State.updGlb_clk]
  refine ⟨trivial, trivial, fun q hq => ?_⟩
  rw [State.setQuads_qpll _ hq]
  simp [upto, hq, hclk]

/-- The exit from DOZE with the crystal lost leads to CLOCK_HOLD (18, R510). -/
theorem State.dozeExit_noCrystal (hx : s.clk.xtalOk = false) :
    s.dozeExit.glb = { s.glb with state := .clockHold, wakePending := false, holdStage := 0, startingUp := false } := by
  have hbell : Within [.host] s (s.doorbellOpen 14) := by simp
  have hclk : (s.doorbellOpen 14).clk = s.clk := hbell.same .clk (by decide)
  have hglb : (s.doorbellOpen 14).glb = s.glb := hbell.same .glb (by decide)
  have hhold (u : State) : u.holdClocks.glb = u.glb :=
    Within.same (l := [.tel, .peg, .clk, .mem, .board]) (by simp) .glb (by decide)
  unfold State.dozeExit
  simp only [State.updPwr_clk, hclk, hx, Bool.not_false, if_true, hhold, State.updGlb_glb, State.updPwr_glb, hglb]

end

/-! ### Rows that answer BUSY_RETRY or wait -/

section
variable {s u : State} {c : Cmd} {op : Nat} {feats : List Nat} {body : State → Verdict} {r : Reply} {more : List Block}
  {P : State → Prop} {sel : Cmd → Bool}

/-- A row whose chapter answers BUSY_RETRY and changes nothing: it is answered with a suggested wait. -/
theorem State.row_busy (h : accepts s c op feats = true) (hb : body (s.fetched c) = .reply (s.fetched c) (.of stBusy)) :
    (∃ d, Answered (s.row c op feats body) c { status := stBusy, detail := d }) ∧ Serves [.fresh] c s (s.row c op feats body) := by
  rw [State.row_runs body h, hb]
  have hw : KeepsBut [.fresh] (s.fetched c) ((s.fetched c).withWait (.of stBusy)).1 := Within.keeps (by simp)
  refine ⟨⟨_, State.finish_head _ _ _ _ _ _ _ _ ?_⟩, ?_, (conclude_reply_quiet _ (quiet_fetched c s)).1⟩
  · simpa [State.ring] using State.fetched_head s c
  · exact (((fetched_keeps c s).mono (by simp +contextual)).trans (hw.mono (by simp))).trans
      ((finish_keeps _ _ _ _ _ _ _).mono (by simp +contextual))

/-- A row whose chapter answers at once leaves what its chapter left, but for the completion. -/
theorem State.row_leaves (h : accepts s c op feats = true) (hb : body (s.fetched c) = .reply u r) (hr : r.status ≠ stBusy) :
    KeepsBut cmdBlocks u (s.row c op feats body) := by
  rw [State.row_runs body h, hb, State.conclude, State.withWait_of_ne u r hr]
  exact finish_keeps u _ _ _ _ _ r

/-- What a POWER command finds when its chapter takes it up: the state before it but for the heartbeat and the fetch. -/
theorem State.afterBeat_fetched_within (s : State) (c : Cmd) : Within [.pwr, .host, .tel] s ((s.afterBeat c).fetched c) := by
  unfold State.afterBeat
  split <;> simp

theorem State.afterBeat_dozeThermal (s : State) (c : Cmd) : (s.afterBeat c).pwr.dozeThermal = s.pwr.dozeThermal := by
  unfold State.afterBeat
  split <;> rfl

/-- A POWER command's outcome is its row's after the heartbeat. -/
theorem State.powerRow_goes (h : accepts s c op [] = true) (hsel : sel c = true) (hP : P ((s.afterBeat c).row c op [] body)) :
    ∃ t, (.next (s.powerRow c op sel body) : Host.Outcome State Fault Refusal) = .next t ∧ P t :=
  ⟨_, congrArg _ (State.powerRow_afterBeat h hsel), hP⟩

/-- A POWER command answered at once leaves what its chapter left, but for the completion. -/
theorem State.powerRow_leaves (h : accepts s c op [] = true) (hsel : sel c = true)
    (hb : body ((s.afterBeat c).fetched c) = .reply u r) (hr : r.status ≠ stBusy) (hP : ∀ t, KeepsBut cmdBlocks u t → P t) :
    ∃ t, (.next (s.powerRow c op sel body) : Host.Outcome State Fault Refusal) = .next t ∧ P t :=
  State.powerRow_goes h hsel (hP _ (State.row_leaves (State.accepts_afterBeat h) hb hr))

/-- A row whose chapter leaves its command waiting. -/
theorem State.row_waits_for {w : WaitFor} (h : accepts s c op feats = true) (hb : body (s.fetched c) = .later u w) :
    Waits (s.row c op feats body) c w ∧ KeepsBut [.host] u (s.row c op feats body) := by
  rw [State.row_runs body h, hb]
  exact ⟨State.conclude_waits u c w, updHost_keepsBut u _⟩

/-- The same, framed: its chapter had changed nothing of the host interface and the counters. -/
theorem State.row_waits_serves {w : WaitFor} (h : accepts s c op feats = true) (hb : body (s.fetched c) = .later u w)
    (hk : KeepsBut (more ++ cmdBlocks) (s.fetched c) u) (hh : u.host = (s.fetched c).host) (ht : u.tel = (s.fetched c).tel) :
    Serves more c s (s.row c op feats body) := by
  have hc : ∀ b ∈ cmdBlocks, b ∈ more ++ cmdBlocks := fun b hb => List.mem_append_right _ hb
  rw [State.row_runs body h, hb]
  refine ⟨?_, conclude_later_served w ((quiet_fetched c s).of_eq hh ht)⟩
  exact (((fetched_keeps c s).mono hc).trans hk).trans ((updHost_keepsBut u _).mono (by simp [cmdBlocks]))

/-- A POWER command answered BUSY_RETRY. -/
theorem State.powerRow_busy {Q : State → Nat → Prop} (h : accepts s c op [] = true) (hsel : sel c = true)
    (hb : body ((s.afterBeat c).fetched c) = .reply ((s.afterBeat c).fetched c) (.of stBusy))
    (hQ : ∀ t d, Answered t c { status := stBusy, detail := d } → Serves [.pwr, .fresh] c s t → Q t d) :
    ∃ t d, (.next (s.powerRow c op sel body) : Host.Outcome State Fault Refusal) = .next t ∧ Q t d := by
  obtain ⟨⟨d, ha⟩, hk, hr⟩ := State.row_busy (State.accepts_afterBeat h) hb
  exact ⟨_, d, congrArg _ (State.powerRow_afterBeat h hsel),
    hQ _ d ha (Serves.of_afterBeat (by simp) ⟨hk.mono (by simp +contextual), hr⟩)⟩

/-- A POWER command left waiting. -/
theorem State.powerRow_defers {w : WaitFor} (h : accepts s c op [] = true) (hsel : sel c = true)
    (hb : body ((s.afterBeat c).fetched c) = .later u w)
    (hP : ∀ t, Waits t c w → KeepsBut [.host] u t →
      (∀ more, .pwr ∈ more → KeepsBut (more ++ cmdBlocks) ((s.afterBeat c).fetched c) u →
        u.host = ((s.afterBeat c).fetched c).host → u.tel = ((s.afterBeat c).fetched c).tel → Serves more c s t) → P t) :
    ∃ t, (.next (s.powerRow c op sel body) : Host.Outcome State Fault Refusal) = .next t ∧ P t := by
  obtain ⟨hw, hk⟩ := State.row_waits_for (State.accepts_afterBeat h) hb
  exact State.powerRow_goes h hsel (hP _ hw hk fun more hp hk hh ht =>
    (State.row_waits_serves (State.accepts_afterBeat h) hb hk hh ht).of_afterBeat hp)
end

end Sys2Proof.Machine

namespace Sys2Proof
open Machine

/-- Settles O19: the entry, the exit and the refusals of DOZE. -/
theorem dozeAndWake : Obligations.DozeAndWake := by
  unfold Obligations.DozeAndWake
  intro good
  have hpersist {c : Cmd} (h : (c.byte 17).toNat ≤ 1) : (persistRule c).1 = false := by simp [persistRule, h]
  have hrun {v : State} {c : Cmd} (k : Verdict) (hz : reservedZero c [(16, 17)] = true) (hp : (c.byte 17).toNat ≤ 1) :
      params v c [(16, 17)] [persistRule c] k = k := params_run k hz (by simp [hpersist hp])
  refine ⟨fun c s ⟨h, ho, hz, hp⟩ hst hd hw hres hcur => ?_, fun c x s ⟨h, ho, hz, hp⟩ hst hd hcur hx => ?_,
    fun c s ⟨h, ho, hz, hp⟩ hst => ?_, fun c s ⟨h, ho, hz, hp⟩ hst => ?_,
    fun c r s ⟨h, ho, hz, hp⟩ hst hres hr hlate hth hx => ?_, fun c s ⟨h, ho, hz, hp⟩ hst hth => ?_,
    fun c s ⟨h, ho, hz, hp⟩ hst hth hx => ?_⟩
  · have hv := s.afterBeat_fetched_within c
    have hglb := hv.same .glb (by decide)
    obtain ⟨hw', hdoze, hent, hresume, hsaved⟩ := State.enterDoze_free (s := (s.afterBeat c).fetched c) (by rw [hglb]; exact hd)
      (by rw [hglb]; exact hw) (by rw [hv.same .arr (by decide)]; exact hcur)
    refine State.powerRow_leaves h (by simp [ho]) (u := ((s.afterBeat c).fetched c).enterDoze false) ((hrun _ hz hp).trans ?_)
      (r := .of stOk) (by decide) fun t ⟨_, hk⟩ => ⟨?_, ?_, ?_, fun k => ?_⟩
    · obtain hst | hst := hst <;> simp [hst, hent]
    · exact (congrArg Glb.state (hk .glb (by decide))).trans hdoze
    · rw [congrArg Glb.resumeState (hk .glb (by decide)), hresume, hglb, hres]
      rfl
    · rw [congrArg Clk.saved (hk .clk (by decide)), hsaved, State.quads, hv.same .clk (by decide)]
      rfl
    · rw [hk .mem (by decide), hw'.same .mem (by decide), hv.same .mem (by decide)]
  · have hv := s.afterBeat_fetched_within c
    have e := State.enterDoze_waits (s := (s.afterBeat c).fetched c) (x := x) (by rw [hv.same .glb (by decide)]; exact hd)
      (by rw [hv.same .arr (by decide)]; exact hcur) (by rw [State.ctx, hv.same .ctxs (by decide)]; exact hx)
    refine State.powerRow_defers h (by simp [ho]) (u := ((s.afterBeat c).fetched c).enterDoze false) (w := .dozed)
      ((hrun _ hz hp).trans ?_) fun t hwt ⟨_, hk⟩ hs => ⟨hwt, ?_, ?_, hs [.glb, .pwr] (by simp) (Within.keeps ?_) ?_ ?_⟩
    · obtain hst | hst := hst <;> simp [hst, e]
    · rw [hk .glb (by decide), e]
      rfl
    · rw [hk .glb (by decide), e]
      show ((s.afterBeat c).fetched c).glb.state = s.glb.state
      rw [hv.same .glb (by decide)]
    · rw [e]
      simp
    · rw [e]
      rfl
    · rw [e]
      rfl
  · refine State.powerRow_ends (more := [.pwr]) h (by simp [ho]) ((hrun _ hz hp).trans (by simp [hst])) (by decide) (by simp)
      (Within.keeps (by simp)) rfl rfl fun t ha _ hs => ⟨ha, hs⟩
  · refine State.powerRow_ends (more := [.pwr]) h (by simp [ho]) ((hrun _ hz hp).trans (if_pos (by simp [hst]))) (by decide) (by simp)
      (Within.keeps (by simp)) rfl rfl fun t ha _ hs => ⟨ha, hs⟩
  · have hv := s.afterBeat_fetched_within c
    have hglb := hv.same .glb (by decide)
    have hclk := hv.same .clk (by decide)
    obtain ⟨hstate, hresume, hquads⟩ := State.dozeExit_crystal (s := (s.afterBeat c).fetched c) (by rw [hclk]; exact hx)
      (by rw [hglb]; exact hlate)
    have hr' : ((s.afterBeat c).fetched c).dozeExit.glb.state = r := by
      rw [hstate, hglb, hres]
      rfl
    have hhold : r ≠ .clockHold := by obtain rfl | rfl := hr <;> decide
    refine State.powerRow_leaves h (by simp [ho]) (u := ((s.afterBeat c).fetched c).dozeExit) (r := .of stOk)
      ((hrun _ hz hp).trans ?_) (by decide) fun t ⟨_, hk⟩ => ⟨?_, ?_, fun q hq => ?_⟩
    · simp [State.afterBeat_dozeThermal, hth, hr', hhold, hst]
    · rw [hk .glb (by decide), hr']
    · rw [hk .glb (by decide), hresume]
    · rw [hk .clk (by decide), hquads q hq, hclk]
  · refine State.powerRow_busy h (by simp [ho]) ((hrun _ hz hp).trans ?_) fun t d ha hs => ⟨ha, ?_, hs⟩
    · simp [State.afterBeat_dozeThermal, hth, hst]
    · rw [Serves.same hs (b := .glb) (by decide), hst]
  · have hv := s.afterBeat_fetched_within c
    have hglb := hv.same .glb (by decide)
    have hclk := hv.same .clk (by decide)
    have e := State.dozeExit_noCrystal (s := (s.afterBeat c).fetched c) (by rw [hclk]; exact hx)
    refine State.powerRow_defers h (by simp [ho]) (u := ((s.afterBeat c).fetched c).dozeExit) (w := .awake)
      ((hrun _ hz hp).trans ?_) fun t hwt ⟨_, hk⟩ _ => ⟨hwt, ?_, ?_⟩
    · simp [State.afterBeat_dozeThermal, hth, hst, e]
    · rw [hk .glb (by decide), e]
    · rw [hk .glb (by decide), e, hglb]

end Sys2Proof

/-! Cabinet signals and die sensors (O20). -/

namespace Sys2Proof
open Machine

theorem Within.mono {l m : List Block} {a t : State} (h : Within l a t) (hm : ∀ b ∈ l, b ∈ m) : Within m a t :=
  ⟨h.keeps.mono hm, h.memWf⟩

end Sys2Proof

namespace Sys2Proof.Machine

/-! ### What steps and their ends leave alone

Commit and the array's release touch no clock, power or control block; so what a context does on leaving the array,
but for a DOZE entry that waited for it, leaves them too. -/

section
variable {s a : State}

/-- The blocks that the work of steps touches. -/
abbrev stepBlocks : List Block := [.dpp, .tel, .atn, .peg, .arr, .host, .tsu, .kvp, .lnk, .sec, .vid, .mem, .dma, .ctxs]

theorem State.commit_stays (c : Nat) (r : StepRec) (hs : Within stepBlocks a s) : Within stepBlocks a (s.commit c r) := by
  simp [State.commit, hs]

/-- Leaving the array is work of steps, with a state change of the module, and a DOZE entry that waited for it. -/
theorem State.leave_checkDoze (c : Nat) (ext : List Bool) :
    ∃ u, Within (.glb :: stepBlocks) s u ∧ (s.leave c ext = u ∨ s.leave c ext = u.checkDoze) := by
  unfold State.leave
  extract_lets left t u v held w x
  have ht : Within stepBlocks s t := by
    simp only [t]
    split <;> simp
  have hu : Within stepBlocks s u := foldS_preserves _ (Within stepBlocks s) _ _ (fun y r hy => by
    split
    · split
      · exact State.commit_stays c _ hy
      · exact hy
    · exact hy) ht
  have hv : Within stepBlocks s v := (foldS_within _ _ fun y r => by simp).2 hu
  have hx : Within (.glb :: stepBlocks) s x := by
    have hv' : Within (.glb :: stepBlocks) s v := hv.mono (by simp +contextual)
    simp [x, w, hv']
  split
  · exact ⟨_, by simp, .inl rfl⟩
  · exact ⟨_, by simp [hx], .inr rfl⟩

/-- The exit from DOZE changes one flag of the power block. -/
theorem State.dozeExit_pwr : s.dozeExit.pwr = { s.pwr with dozeThermal := false } := by
  have hbell : (s.doorbellOpen 14).pwr = s.pwr := Within.same (l := [.host]) (by simp) .pwr (by decide)
  have hhold (u : State) : u.holdClocks.pwr = u.pwr :=
    Within.same (l := [.tel, .peg, .clk, .mem, .board]) (by simp) .pwr (by decide)
  have hresume (u : State) : u.resumeModule.pwr = u.pwr :=
    Within.same (l := [.tel, .host, .glb, .lnk, .ctl, .vid, .mem, .board]) (by simp) .pwr (by decide)
  have hcancel (u : State) : u.cancelAll.pwr = u.pwr := Within.same (l := [.ctxs]) (by simp) .pwr (by decide)
  have hquads (u : State) (qs : List Nat) : (u.setQuads qs).pwr = u.pwr :=
    Within.same (l := [.arr, .clk, .ctxs]) (by simp) .pwr (by decide)
  unfold State.dozeExit
  dsimp only
  split
  · rw [hhold]
    simp [hbell]
  · split
    · rw [hcancel, hresume]
      simp [hquads, hbell]
    · rw [hresume]
      simp [hquads, hbell]

theorem State.checkDoze_hottest : s.checkDoze.pwr.hottest = s.pwr.hottest := by
  by_cases h : s.glb.dozeEntering = true ∧ s.arr.cur = none
  · obtain ⟨u, hu, -, -, e⟩ := State.checkDoze_free h.1 h.2
    rw [e]
    split
    · rw [State.dozeExit_pwr, hu.same .pwr (by decide)]
    · rw [hu.same .pwr (by decide)]
  · rw [State.checkDoze, if_pos]
    rcases Classical.not_and_iff_not_or_not.1 h with h | h
    · simp [h]
    · simp [Option.isSome_iff_ne_none, h]

theorem State.leave_hottest (c : Nat) (ext : List Bool) : (s.leave c ext).pwr.hottest = s.pwr.hottest := by
  obtain ⟨u, hu, e | e⟩ := s.leave_checkDoze c ext
  · rw [e, hu.same .pwr (by decide)]
  · rw [e, State.checkDoze_hottest, hu.same .pwr (by decide)]

theorem State.enterDoze_hottest (thermal : Bool) : (s.enterDoze thermal).pwr.hottest = s.pwr.hottest := by
  unfold State.enterDoze
  extract_lets t u v
  have ht : t.pwr.hottest = s.pwr.hottest := by
    simp only [t]
    split <;> rfl
  have hu : u.pwr.hottest = s.pwr.hottest := ht
  have hv : v.pwr.hottest = s.pwr.hottest := by
    simp only [v]
    split
    · split
      · exact hu
      · rw [State.leave_hottest, hu]
    · exact hu
  split
  · split
    · exact ht
    · exact ht
  · rw [State.checkDoze_hottest, hv]

/-- A thermal DOZE entry that finds the array free. -/
theorem State.enterDoze_thermal (hd : s.glb.dozeEntering = false) (hc : s.arr.cur = none) :
    (s.enterDoze true).glb.state = .doze ∧ (s.enterDoze true).pwr.dozeThermal = true := by
  obtain ⟨u, hu, hg, -, e⟩ := State.checkDoze_free (s := (s.updPwr fun p =>
    { p with dozeThermal := true, events := p.events ||| 1 }).updGlb fun g => { g with dozeEntering := true, dozeSince := s.time })
    rfl hc
  have hp : u.pwr.dozeThermal = true := by rw [hu.same .pwr (by decide)]; rfl
  have he : s.enterDoze true = u := by
    rw [if_neg (by simp [hp])] at e
    rw [← e]
    simp [State.enterDoze, hd, hc]
  exact ⟨by rw [he, hg], by rw [he, hp]⟩

/-! ### Cabinet signals and die sensors (18, R502-R504) -/

theorem State.stepQuads_qpll (qs : List Nat) {q : Nat} (hq : q < 4) : (s.stepQuads qs).clk.qpll.get q = qs.getD q 0 :=
  State.setQuads_qpll _ hq

/-- The quadrants on step to their lowest clock. -/
theorem State.dropQuads_qpll (h : s.quadsOn = true) {q : Nat} (hq : q < 4) : s.dropQuads.clk.qpll.get q = 0 := by
  rw [State.dropQuads, if_pos h, State.stepQuads_qpll _ hq]
  have hq : q = 0 ∨ q = 1 ∨ q = 2 ∨ q = 3 := by omega
  obtain rfl | rfl | rfl | rfl := hq <;> rfl

/-- A step of the quadrants changes of the power block the change that waited for a Press boundary. -/
theorem State.stepQuads_pwr (qs : List Nat) : (s.stepQuads qs).pwr = { s.pwr with pressTo := none } := by
  have hquads (u : State) : (u.setQuads qs).pwr = u.pwr := Within.same (l := [.arr, .clk, .ctxs]) (by simp) .pwr (by decide)
  rw [State.stepQuads, hquads]
  rfl

theorem State.dropQuads_pwr : ∃ p, s.dropQuads.pwr = { s.pwr with pressTo := p } := by
  unfold State.dropQuads
  split
  · exact ⟨_, State.stepQuads_pwr _⟩
  · exact ⟨_, rfl⟩

@[simp] theorem State.dropQuads_brake : s.dropQuads.pwr.brake = s.pwr.brake := by
  obtain ⟨p, h⟩ := s.dropQuads_pwr
  rw [h]

@[simp] theorem State.dropQuads_warn : s.dropQuads.pwr.warn = s.pwr.warn := by
  obtain ⟨p, h⟩ := s.dropQuads_pwr
  rw [h]

@[simp] theorem State.dropQuads_events : s.dropQuads.pwr.events = s.pwr.events := by
  obtain ⟨p, h⟩ := s.dropQuads_pwr
  rw [h]

@[simp] theorem State.dropQuads_forcedEnd : s.dropQuads.pwr.forcedEnd = s.pwr.forcedEnd := by
  obtain ⟨p, h⟩ := s.dropQuads_pwr
  rw [h]

@[simp] theorem State.dropQuads_tel : s.dropQuads.tel = s.tel :=
  Within.same (l := [.arr, .clk, .pwr, .ctxs]) (by simp) .tel (by decide)

/-- A record leaves the totals of the lifetime summary. -/
theorem State.lifetime_totals (k : Nat) (l : List Nat) :
    (s.lifetime k l).tel.brakes = s.tel.brakes ∧ (s.lifetime k l).tel.warns = s.tel.warns := by
  simp only [State.lifetime, State.updTel]
  split <;> exact ⟨rfl, rfl⟩

/-- An event counter's advance leaves the totals of the lifetime summary. -/
theorem State.bump_totals (off : Nat) : (s.bump off).tel.brakes = s.tel.brakes ∧ (s.bump off).tel.warns = s.tel.warns := by
  unfold State.bump State.bumpBy
  dsimp only
  split
  · exact ⟨rfl, rfl⟩
  · exact State.lifetime_totals _ _

theorem State.thermalAct_hottest : s.thermalAct.pwr.hottest = s.pwr.hottest := by
  unfold State.thermalAct
  split
  case h_5 | h_6 | h_7 | h_8 => rfl
  all_goals
    split
    · rfl
    · exact State.enterDoze_hottest true

theorem State.thermalAct_init (h : s.glb.state = .init) :
    s.thermalAct.glb.thermalHeld = true ∧ s.thermalAct.pwr.dozeThermal = true := by
  unfold State.thermalAct
  rw [h]
  exact ⟨rfl, rfl⟩

theorem State.thermalAct_ready (h : s.glb.state = .ready) (hd : s.glb.dozeEntering = false) (hc : s.arr.cur = none) :
    s.thermalAct.glb.state = .doze ∧ s.thermalAct.pwr.dozeThermal = true := by
  have e : s.thermalAct = s.enterDoze true := by
    unfold State.thermalAct
    rw [h]
    exact if_neg (by simp [hd])
  rw [e]
  exact State.enterDoze_thermal hd hc

/-- What a brake or a warning that begins does: noted in the power block and counted, the quadrants on step to their lowest
clock, PF0's doorbell rings. -/
theorem State.signalled {g : Pwr → Pwr} {w : Tel → Tel} {off : Nat} :
    let v := ((s.updPwr g).updTel w).bump off
    ((v.dropQuads.doorbell 0 14).func 0).dbPend.getLsbD 14 = true ∧
      (s.quadsOn = true → ∀ q, q < 4 → (v.dropQuads.doorbell 0 14).clk.qpll.get q = 0) ∧
      KeepsBut [.pwr, .tel, .host, .clk, .arr, .ctxs] s (v.dropQuads.doorbell 0 14) := by
  refine ⟨State.doorbell_pends _ 0 (by decide), fun h q hq => ?_, Within.keeps (by simp)⟩
  rw [State.doorbell_clk]
  exact State.dropQuads_qpll (by simpa [State.quadsOn] using h) hq
end

end Sys2Proof.Machine

namespace Sys2Proof
open Machine

/-- Settles O20, event by event. -/
theorem powerEvents : Obligations.PowerEvents := by
  unfold Obligations.PowerEvents
  refine ⟨⟨fun s hp hb => ?_, fun s => rfl, fun s hp hw => ?_, fun s => rfl, fun a b c d s hp => ?_, fun flow inlet s hp hc hbad => ?_,
    fun inlet s hp hi => ?_⟩, fun temps s hp hlen hhot => ?_, fun temps s hp hlen hlo hhi => ?_, fun temps s hp hlen hhi => ?_⟩
  · refine ⟨_, (if_neg (by simp [hb])).trans (if_neg (by simp [hp])), by simp, ?_, ?_, State.signalled⟩
    · simp
    · simp [State.bump_totals]
  · refine ⟨_, (if_neg (by simp [hw])).trans (if_neg (by simp [hp])), by simp, ?_, by simp, ?_, State.signalled⟩
    · simp
    · simp [State.bump_totals]
  · exact if_pos hp
  · have hbad' : flow = true → (s.pwr.inletMax : Int) < inlet := fun h => hbad.resolve_left (by simp [h])
    refine ⟨_, (if_neg (by simp [hp])).trans (if_neg (by simp [hc]; exact hbad')), by simp, by simp, ?_,
      State.doorbell_pends _ 0 (by decide), Within.keeps (by simp)⟩
    simp
  · exact (if_neg (by simp [hp])).trans (if_pos (by simp [hi]))
  · refine ⟨_, (if_neg (by simp [hp, hlen])).trans (if_pos hhot), rfl, rfl⟩
  · refine ⟨_, (if_neg (by simp [hp, hlen])).trans ((if_neg (Int.not_le.2 hhi)).trans (if_pos hlo)), ?_,
      fun hst => State.thermalAct_init hst, fun hst hd hc => State.thermalAct_ready hst hd hc⟩
    exact State.thermalAct_hottest
  · refine ⟨_, (if_neg (by simp [hp, hlen])).trans ((if_neg (by omega)).trans (if_neg (by omega))), rfl, fun h => ?_, Within.keeps (by simp)⟩
    have hh : (s.pwr.tThrottle : Int) < temps.foldl max (temps.headD 0) := h
    simp only [State.updPwr_pwr, State.updTel_pwr]
    exact Bool.or_eq_true_iff.2 (.inl (decide_eq_true hh))

end Sys2Proof

/-! The power controller's tick (O21). -/

namespace Sys2Proof.Machine

section
variable {s : State}

/-! ### The power controller's tick (18, R498-R501) -/

/-- A change of the quadrants, at once or at the next Press boundary, changes of the power block what waits for one. -/
theorem State.moveQuads_pwr (qs : List Nat) : ∃ p, (s.moveQuads qs).pwr = { s.pwr with pressTo := p } := by
  unfold State.moveQuads
  extract_lets running
  split
  · exact ⟨_, rfl⟩
  · exact ⟨_, State.stepQuads_pwr qs⟩

theorem State.lowerQuads_pwr : ∃ p, s.lowerQuads.pwr = { s.pwr with pressTo := p } := by
  unfold State.lowerQuads
  dsimp only
  split
  · exact ⟨_, rfl⟩
  · split <;> exact State.moveQuads_pwr _

theorem State.raiseQuads_pwr : ∃ p, s.raiseQuads.pwr = { s.pwr with pressTo := p } := by
  unfold State.raiseQuads
  dsimp only
  split
  · exact ⟨_, rfl⟩
  · split <;> exact State.moveQuads_pwr _

/-- What a tick of the power controller sets: the sample, the energy and the ceiling (18, R498). -/
def TickSets (s : State) (inputDw : Nat) (t : State) : Prop :=
  t.pwr.inputDw = inputDw ∧ t.pwr.samples = (inputDw :: s.pwr.samples).take 100 ∧
    t.tel.energyUj = s.tel.energyUj + inputDw ∧
    (s.pwr.brake = true ∨ s.time < s.pwr.forcedEnd → t.pwr.ceilMw = 120000) ∧
    (s.pwr.brake = false → s.pwr.forcedEnd ≤ s.time → s.pwr.ceilMw ≤ t.pwr.ceilMw + s.pwr.down * 10)

/-- A change of the quadrants' clock after it leaves what the tick set. -/
theorem TickSets.of_clock {inputDw : Nat} {t u : State} (h : TickSets s inputDw u)
    (hp : ∃ p, t.pwr = { u.pwr with pressTo := p }) (ht : t.tel = u.tel) : TickSets s inputDw t := by
  obtain ⟨p, hp⟩ := hp
  unfold TickSets
  rw [hp, ht]
  exact h

theorem State.lowerQuads_tel : s.lowerQuads.tel = s.tel :=
  Within.same (l := [.arr, .clk, .pwr, .ctxs]) ((State.lowerQuads_within (by simp)).2 (Within.refl _ s)) .tel (by decide)

theorem State.raiseQuads_tel : s.raiseQuads.tel = s.tel :=
  Within.same (l := [.arr, .clk, .pwr, .ctxs]) ((State.raiseQuads_within (by simp)).2 (Within.refl _ s)) .tel (by decide)

theorem powerControllerTick_sets (inputDw thermalW : Nat) (hp : s.board.powered = true) :
    ∃ t, exec (.powerControllerTick inputDw thermalW) s = .next t ∧ TickSets s inputDw t := by
  show ∃ t, execPowerControllerTick inputDw thermalW s = .next t ∧ _
  unfold execPowerControllerTick
  rw [if_neg (by simp [hp])]
  extract_lets p prev s1 s2 s3 forced down up hold shed doze allLow
  split
  case _ lim code hlim =>
  extract_lets ceil allow u
  have hu : TickSets s inputDw u := by
    refine ⟨rfl, rfl, rfl, fun h => if_pos ?_, fun hb ht => ?_⟩
    · show (s.pwr.brake || decide (s.time < s.pwr.forcedEnd)) = true
      simpa using h
    · have hf : ¬ forced = true := by
        show ¬ (s.pwr.brake || decide (s.time < s.pwr.forcedEnd)) = true
        simpa [hb] using ht
      have hc : u.pwr.ceilMw = max (lim * 1000) (s.pwr.ceilMw - s.pwr.down * 10) := if_neg hf
      omega
  split
  · exact ⟨_, rfl, hu⟩
  · split
    · exact ⟨_, rfl, hu.of_clock State.lowerQuads_pwr State.lowerQuads_tel⟩
    · split
      next k v hv =>
        obtain rfl : u.draw.2 = v := congrArg Prod.snd hv
        have hd : TickSets s inputDw u.draw.2 := hu
        split
        · exact ⟨_, rfl, hd.of_clock State.raiseQuads_pwr State.raiseQuads_tel⟩
        · exact ⟨_, rfl, hd⟩

end

end Sys2Proof.Machine

namespace Sys2Proof
open Machine

/-- Settles O21: what the tick takes and the ceiling it sets stand before the clock step it may make. -/
theorem powerTick : Obligations.PowerTick := by
  unfold Obligations.PowerTick
  intro inputDw thermalW s hp
  obtain ⟨t, e, hin, hsamples, henergy, hforced, hramp⟩ := powerControllerTick_sets inputDw thermalW hp
  exact ⟨t, e, hin, hsamples, henergy, hforced, hramp,
    (execPowerControllerTick_ran inputDw thermalW (by simp) (Within.refl _ s)).keeps e⟩

end Sys2Proof

/-! Heat, the orphan countdown and the release (O22). -/

namespace Sys2Proof.Machine

section
variable {s : State}

/-- A fold that changes no state leaves it. -/
theorem foldS_unchanged {α : Type} (l : List α) (f : State → α → State) (h : ∀ x ∈ l, f s x = s) : foldS l f s = s := by
  induction l with
  | nil => rfl
  | cons x l ih =>
    show foldS l f (f s x) = s
    rw [h x (by simp)]
    exact ih fun y hy => h y (by simp [hy])

/-- With no step that runs, the limit of a DOZE entry faults no context. -/
theorem State.faultRunning_of_none (h : ∀ c, c < 16 → (s.ctx c).st ≠ .running) :
    foldS allCtxs (fun s c => if (s.ctx c).st = .running then s.faultCtx c stCtxFault else s) s = s :=
  foldS_unchanged _ _ fun c hc => if_neg (h c (by simpa [allCtxs, upto] using hc))

/-- An entry for heat with no context on the array ends in DOZE. -/
theorem State.checkDoze_thermal_free (he : s.glb.dozeEntering = true) (hc : s.arr.cur = none) (ht : s.pwr.dozeThermal = true) :
    s.checkDoze.glb.state = .doze := by
  obtain ⟨u, hu, hg, -, e⟩ := State.checkDoze_free he hc
  have hp : u.pwr.dozeThermal = true := by rw [hu.same .pwr (by decide), ht]
  rw [e, hp, Bool.not_true, Bool.and_false, if_neg Bool.false_ne_true, hg]

end

end Sys2Proof.Machine

namespace Sys2Proof
open Machine

/-- Settles O22. -/
theorem thermalAndOrphan : Obligations.ThermalAndOrphan := by
  unfold Obligations.ThermalAndOrphan
  refine ⟨⟨?loss, ?orphan⟩, ?init, ?recovery, ?doze, ?entry⟩
  case loss =>
    intro s hp ha hh ho ht
    exact if_pos (by simp [hp, ha, hh, ho, ht])
  case orphan =>
    intro s hp hh ho ht
    have hran := execOrphan_ran (l := [.pwr, .tel, .host]) (by simp) (Within.refl _ s)
    obtain ⟨t, e, hw⟩ := hran
    refine ⟨t, e, ?_, ?_, hw.keeps⟩
    all_goals
      obtain rfl := Host.Outcome.next.inj ((if_pos (by simp [hp, hh, ho, ht])).symm.trans e)
    · rw [State.lifetime_pwr, State.doorbell_pwr, State.bump_pwr, State.updPwr_pwr]
    · exact State.doorbell_pends _ 0 (by decide)
  case init =>
    intro since s hc ht hcool hdoze hs hst
    show execThermalRelease s = _
    unfold execThermalRelease
    rw [hc]
    refine (if_neg (by simp [hcool, hdoze]; omega)).trans ?_
    rw [hs]
    exact if_neg hst
  case recovery =>
    intro since s hc ht hcool hdoze hs
    show execThermalRelease s = _
    unfold execThermalRelease
    rw [hc]
    refine (if_neg (by simp [hcool, hdoze]; omega)).trans ?_
    rw [hs]
    rfl
  case doze =>
    intro since s hc ht hcool hdoze hs hr hlate hx
    refine ⟨s.dozeExit, ?_, ?_, ?_⟩
    · show execThermalRelease s = _
      unfold execThermalRelease
      rw [hc]
      refine (if_neg (by simp [hcool, hdoze]; omega)).trans ?_
      rw [hs]
    · rw [(State.dozeExit_crystal hx hlate).1, hr]
      rfl
    · rw [State.dozeExit_pwr]
  case entry =>
    intro s he hd ht hcur hrun
    refine ⟨_, if_pos (by simp [he, hd, ht]), ?_⟩
    rw [State.faultRunning_of_none hrun]
    exact State.checkDoze_thermal_free he hcur hd

end Sys2Proof

/-! Lines (O23). -/

namespace Sys2Proof
open Machine

/-- Line 8 with an armed peg whose fire aborts job 7 of context 0, which stands at its limit; the command that submitted the job
carries the sequence number the ring expects next. -/
def lateJobOnLine : State :=
  (((Tests.upLine 8 fun x => { x with enable := true }).updPegAt 0 fun p =>
    { p with st := .armed, line := 8, target := 50, armedBy := some 0, bindings := [.job 0 7] }).updCtx 0 fun x =>
      { x with jobs := [{ id := 7, steps := 2, dropLate := true }] }).updHost fun h =>
        { h with inflight := [{ wait := .job 0 7 }] }

/-- LINE_POSITION of line 8 to 100. -/
def toHundred : Cmd := Tests.pf 0x41 [(16, [8]), (24, [100])]

/-- Refutes O23: where the peg that the new position fires aborts a job of the sequence number of the command itself, the
completion of the job takes the place of the command's own. -/
theorem not_lines : ¬ Obligations.Lines := by
  unfold Obligations.Lines
  rintro ⟨⟨-, -, -, -, -, -, hpos⟩, -⟩
  obtain ⟨t, e, ha, -⟩ := hpos toHundred lateJobOnLine (by decide) (by decide) (by decide) (by decide) (by decide) (by decide)
  obtain rfl := Host.Outcome.next.inj e
  have hc := congrArg (fun k : Option Kept => k.bind fun k => k.comp.map (·.status)) ha
  exact absurd hc (by decide)

end Sys2Proof

/-! Peg commands (O24). -/

namespace Sys2Proof
open Machine

/-- Peg 0 is armed, and channel 0 of the DMA waits for it. -/
def awaitedPeg : State :=
  (Tests.upDma fun d => { d with chans := [(0, { st := .wait, waitKind := 2, waitObj := 0 })] }).updPegAt 0 fun p =>
    { p with st := .armed, armedBy := some 0 }

/-- Refutes O24: a channel that waits for the disarmed peg halts with a latch whose unspecified values are drawn afresh. -/
theorem not_pegCommands : ¬ Obligations.PegCommands := by
  unfold Obligations.PegCommands
  rintro ⟨-, -, -, -, hdisarm, -⟩
  obtain ⟨t, e, -, -, -, hkeeps, -⟩ := hdisarm (Tests.pf 0x43 []) awaitedPeg (by decide) (by decide) (by decide) (by decide)
  obtain rfl := Host.Outcome.next.inj e
  exact absurd (show State.fresh _ = awaitedPeg.fresh from hkeeps.2 .fresh (by decide)) (by decide)

end Sys2Proof

/-! Pegs that fire and captures (O25). -/

namespace Sys2Proof.Machine

section
variable {s : State}

/-! ### Pegs that fire and captures (02) -/

/-- A fire's record: a room of the peg queue, or the count of the records lost. -/
theorem State.pegRecord_peg (f : Nat) (r : PegRec) : ∃ q, (s.pegRecord f r).peg = { s.peg with qovf := q } := by
  unfold State.pegRecord
  rw [State.doorbell_peg]
  split
  · exact ⟨_, rfl⟩
  · exact ⟨_, rfl⟩

theorem State.pegFired_peg (n : Nat) : (s.pegFired n).peg = s.peg :=
  Within.same (l := [.dma]) (by simp) .peg (by decide)

/-- The state a fire leaves before its consequences: the channels that wait go on, the record is written, and the peg shows
whether work was bound to it (02, R43, R45). -/
def State.fireNoted (s : State) (past : Bool) (n : Nat) : State :=
  let p := s.pegAt n
  let miss := !p.bindings.isEmpty
  let u := (s.pegFired n).pegRecord (p.armedBy.getD 0)
    { peg := BitVec.ofNat 8 n, line := BitVec.ofNat 4 p.line.val, past, miss, wake := p.wake, lineOff := false
      hwm := ((s.pegFired n).line p.line.val).hwm, time := (s.pegFired n).pegTime }
  (u.updPeg fun v => { v with fired := v.fired.upd (n / 32) (· ||| (1 <<< (n % 32))) }).updPegAt n fun p =>
    { p with st := if miss then .fired else .free, miss, firedAt := some u.time }

theorem State.fireNoted_within (past : Bool) (n : Nat) : Within [.host, .peg, .dma] s (s.fireNoted past n) := by
  simp [State.fireNoted]

theorem State.fireNoted_peg (past : Bool) (n : Nat) :
    ∃ q, (s.fireNoted past n).peg = { s.peg with
      qovf := q, fired := s.peg.fired.upd (n / 32) (· ||| (1 <<< (n % 32)))
      pegs := s.peg.pegs.upd n fun p => { p with
        st := if (s.pegAt n).bindings.isEmpty then .free else .fired, miss := !(s.pegAt n).bindings.isEmpty
        firedAt := some s.time } } := by
  unfold State.fireNoted
  extract_lets p miss u old
  have ht : u.time = s.time := Within.same (l := [.host, .peg, .dma]) (by simp [u]) .time (by decide)
  obtain ⟨q, hq⟩ : ∃ q, u.peg = { (s.pegFired n).peg with qovf := q } := State.pegRecord_peg _ _
  rw [State.pegFired_peg] at hq
  refine ⟨q, ?_⟩
  rw [State.updPegAt, State.updPeg_peg, State.updPeg_peg, hq, ht]
  cases h : (s.pegAt n).bindings.isEmpty <;> simp [miss, p, old, h]

/-- A fire with no work bound and no wake has no consequence but a sample. -/
theorem State.firePeg_idle {n : Nat} (hb : (s.pegAt n).bindings = []) (hw : (s.pegAt n).wake = false) (past : Bool) :
    (s.firePeg past n).peg = (s.fireNoted past n).peg := by
  unfold State.firePeg
  simp only [hb, hw, List.isEmpty_nil, Bool.not_true, Bool.false_eq_true, if_false]
  show State.peg (match (s.pegAt n).releasedAt with | some t => _ | none => _) = _
  split
  · simp [State.fireNoted, hb, hw]
  · simp [State.fireNoted, hb, hw]

/-- A fire that misses a picture, with MISS_OUT to hold: the peg block but for MISS_OUT is as noted. -/
theorem State.firePeg_missed {n k tag : Nat} {enc : Bool} (hb : (s.pegAt n).bindings = [.picture k enc tag])
    (hw : (s.pegAt n).wake = false) (hm : (s.pegAt n).noMissOut = false) (hh : s.peg.missHold ≠ 0) (ho : s.outputsLive = true)
    (past : Bool) : (s.firePeg past n).peg =
      { (s.fireNoted past n).peg with missOut := true, missEnd := s.time + s.peg.missHold.toNat * msNs } := by
  obtain ⟨q, hq⟩ := State.fireNoted_peg (s := s) past n
  have hhold : (s.fireNoted past n).peg.missHold = s.peg.missHold := by rw [hq]
  have hw' : Within [.host, .peg, .dma, .tel] s ((s.fireNoted past n).bump (pegBase + 0x30)) := by simp [State.fireNoted]
  have htime : ((s.fireNoted past n).bump (pegBase + 0x30)).time = s.time := hw'.same .time (by decide)
  have hlive : ((s.fireNoted past n).bump (pegBase + 0x30)).outputsLive = true := by
    rw [← ho, State.outputsLive, State.outputsLive, show State.glb _ = s.glb from hw'.same .glb (by decide)]
  have e : s.firePeg past n =
      (((s.fireNoted past n).bump (pegBase + 0x30)).updPeg fun u =>
        { u with missOut := true, missEnd := s.time + u.missHold.toNat * msNs }).updSess (sessKey k enc) fun x =>
          { x with subs := x.subs.map fun (q : VidSub) => if q.order = tag then { q with late := true } else q } := by
    unfold State.firePeg
    extract_lets p f s1 miss s2 s3 s4 s5 s6 s7
    have hmiss : miss = true := by simp [miss, p, hb]
    have h6 : s6 = s5.updPeg fun u => { u with missOut := true, missEnd := s5.time + u.missHold.toNat * msNs } := by
      refine (if_pos hmiss).trans (if_pos ?_)
      rw [show s5.outputsLive = true from hlive, show s5.peg = (s.fireNoted past n).peg from State.bump_peg _ _, hhold, show p.noMissOut = false from hm]
      simpa using hh
    rw [if_neg (by simp [p, hw]), show s7 = foldS p.bindings State.lateWork s6 from rfl, show p.bindings = _ from hb, h6, show s5.time = s.time from htime]
    rfl
  rw [← hhold, e, State.updSess_peg, State.updPeg_peg, State.bump_peg]

/-- The velocities of the lines of a list are set, each from its line. -/
theorem foldS_updLine_line (g : Nat → Line → Line) {l : List Nat} (hl : l.Nodup) (m : Nat) :
    (foldS l (fun s i => s.updLine i (g s.time)) s).line m = if m ∈ l then g s.time (s.line m) else s.line m := by
  induction l generalizing s with
  | nil => rfl
  | cons i l ih =>
    obtain ⟨hi, hl⟩ := List.nodup_cons.1 hl
    show (foldS l (fun s i => s.updLine i (g s.time)) (s.updLine i (g s.time))).line m = _
    rw [ih hl, State.updLine_time]
    by_cases hm : m = i
    · subst hm
      simp [hi]
    · simp [hm]

theorem foldS_updLine_pegs (g : Nat → Line → Line) (l : List Nat) :
    (foldS l (fun s i => s.updLine i (g s.time)) s).peg.pegs = s.peg.pegs := by
  induction l generalizing s with
  | nil => rfl
  | cons i l ih => exact ih

theorem lineVel_of_still {x : Line} (h : x.stopped = true ∨ x.enable = false) (now : Nat) (v : Word) : lineVel x now v = 0 := by
  unfold lineVel
  split
  · rfl
  · refine if_pos ?_
    obtain h | h := h <;> simp [h]

end

end Sys2Proof.Machine

namespace Sys2Proof
open Machine

/-- Settles O25. -/
theorem pegsAndTriggers : Obligations.PegsAndTriggers := by
  unfold Obligations.PegsAndTriggers
  refine ⟨⟨?free, ?missed⟩, ?edge, ?other, ?hold, ?velocity⟩
  case free =>
    intro n past s hn hb hw
    obtain ⟨q, hq⟩ := State.fireNoted_peg (s := s) past n
    rw [← State.firePeg_idle hb hw, hb] at hq
    refine ⟨?_, ?_, ?_, ?_, fun m hm => ?_⟩
    · rw [State.pegAt, hq, Tbl.get_upd_same]
      rfl
    · rw [State.pegAt, hq, Tbl.get_upd_same]
      rfl
    · rw [hq, Tbl.get_upd_same]
      exact or_bit_getLsbD _ (Nat.mod_lt _ (by decide))
    · rw [hq]
    · rw [State.pegAt, hq, Tbl.get_upd_ne _ _ hm]
      rfl
  case missed =>
    intro n k enc tag s hn hb hw hm hh ho
    obtain ⟨q, hq⟩ := State.fireNoted_peg (s := s) false n
    have e := State.firePeg_missed hb hw hm hh ho false
    rw [hq, hb] at e
    refine ⟨?_, ?_, by rw [e], by rw [e]⟩
    all_goals
      rw [State.pegAt, e, Tbl.get_upd_same]
      rfl
  case edge =>
    intro m rising s hl ht hr hline hpegs
    have hws : ((upto 256).filter fun n => (s.pegAt n).st == .waiting && (s.pegAt n).trigger == some m) = [] :=
      List.filter_eq_nil_iff.2 fun n hn => by simp [hpegs n (by simpa [upto] using hn)]
    have e : exec (.triggerEdge m rising) s = .next (s.updPeg fun p => { p with trigs := p.trigs.upd m.val fun t =>
        { t with capPos := (s.line (s.peg.trigs.get m.val).line.val).pos, capTime := s.pegTime, seq := t.seq + 1
                 history := ({ seq := t.seq + 1, pos := (s.line (s.peg.trigs.get m.val).line.val).pos, time := s.pegTime } ::
                   t.history).take 64 } }) := by
      refine (if_neg (by simp [hl, ht, hline, hr])).trans ?_
      show (match sortBy _ ((upto 256).filter fun n => (s.pegAt n).st == .waiting && (s.pegAt n).trigger == some m) with
        | [] => _ | n :: _ => _) = _
      rw [hws]
      rfl
    refine ⟨_, e, ?_, rfl, rfl, Within.keeps (by simp)⟩
    simp
  case other =>
    intro m s
    exact if_pos (by simp)
  case hold =>
    intro s hm he
    exact if_pos (by simp [hm, he])
  case velocity =>
    intro l s hl hlt hstill
    have hnodup : (upto 16).Nodup := by decide
    have hline (v : Word) (m : Nat) (hm : m < 16) :
        (foldS (upto 16) (fun s i => s.updLine i fun x => { x with vel := lineVel x s.time v }) s.draw.2).line m =
          { s.line m with vel := lineVel (s.line m) s.time v } :=
      (foldS_updLine_line (s := s.draw.2) (fun now x => { x with vel := lineVel x now v }) hnodup m).trans
        (if_pos (by simpa [upto] using hm))
    obtain ⟨v, e⟩ : ∃ v, exec .velocityUpdate s =
        .next (foldS (upto 16) (fun s i => s.updLine i fun x => { x with vel := lineVel x s.time v }) s.draw.2) := by
      show ∃ v, execVelocityUpdate s = _
      unfold execVelocityUpdate
      rw [if_neg (by simp [hl])]
      rcases s.draw with ⟨k, u⟩
      exact ⟨_, rfl⟩
    refine ⟨_, e, ?_, foldS_updLine_pegs (s := s.draw.2) (fun now x => { x with vel := lineVel x now v }) (upto 16), fun m hm => ?_, (execVelocityUpdate_ran (by simp) (Within.refl _ s)).keeps e⟩
    · rw [hline _ l hlt]
      exact lineVel_of_still hstill _ _
    · rw [hline _ m hm]

end Sys2Proof

/-! Mailboxes (O26, O27). -/

namespace Sys2Proof.Machine

/-! ### Mailboxes: a message put and a message popped (16, R434-R436) -/

section
variable {s : State}

/-- The slot a message put into mailbox `m` stands in: the message with its arrival number. -/
def State.arrived (s : State) (m : Nat) (x : Slot) : Slot := { x with arrival := s.mbx.arrivals.get m + 1 }

theorem State.mailBell_mbx (p : Prop) [Decidable p] (f j : Nat) : (if p then s.doorbell f j else s).mbx = s.mbx := by
  split
  · exact State.doorbell_mbx _ _ _
  · rfl

theorem State.mailBell_tel (p : Prop) [Decidable p] (f j : Nat) : (if p then s.doorbell f j else s).tel = s.tel := by
  split
  · exact State.doorbell_tel _ _ _
  · rfl

/-- A mailbox with room takes the message last, and its put count advances. -/
theorem State.mailPut_room {m : Nat} (x : Slot) (h : (s.mbx.boxes.get m).length < 4) :
    (s.mailPut m x).1 = true ∧ (∀ n, (s.mailPut m x).2.mbx.boxes.get n =
      if n = m then s.mbx.boxes.get m ++ [s.arrived m x] else s.mbx.boxes.get n) ∧
      ∀ id, (s.mailPut m x).2.cons id = if id = cid 0x48 m then s.cons id + 1 else s.cons id := by
  rw [State.mailPut, if_neg (Nat.not_le.2 h)]
  refine ⟨rfl, fun n => ?_, fun id => ?_⟩
  · dsimp only
    rw [State.mailBell_mbx]
    simp only [State.consAdd_mbx, State.updMbx_mbx, Tbl.get_upd]
    split
    · next e => subst e; rfl
    · rfl
  · dsimp only
    rw [State.cons, State.mailBell_tel]
    exact State.cons_consAdd _ _ _ _

/-- A message popped is the head of its mailbox, and its take count advances. -/
theorem State.mailPop_head {m : Nat} {x : Slot} {r : List Slot} (h : s.mbx.boxes.get m = x :: r) :
    (∀ n, (s.mailPop m).mbx.boxes.get n = if n = m then r else s.mbx.boxes.get n) ∧
      ∀ id, (s.mailPop m).cons id = if id = cid 0x49 m then s.cons id + 1 else s.cons id := by
  unfold State.mailPop
  rw [h]
  refine ⟨fun n => ?_, fun id => State.cons_consAdd _ _ _ _⟩
  simp only [State.consAdd_mbx, State.updMbx_mbx, Tbl.get_set]

/-- Every mailbox holds at most 4 messages, and as many as were put and not taken (16, R435; 19, R511). -/
def MailBalanced (s : State) : Prop := ∀ m, m < 24 → (s.mbx.boxes.get m).length ≤ 4 ∧
  s.cons (cid 0x48 m) = s.cons (cid 0x49 m) + (s.mbx.boxes.get m).length

theorem MailBalanced.mailPut (hs : MailBalanced s) {m : Nat} (hm : m < 24) (x : Slot) : MailBalanced (s.mailPut m x).2 := by
  intro n hn
  obtain ⟨hl, he⟩ := hs n hn
  obtain h | h := Nat.lt_or_ge (s.mbx.boxes.get m).length 4
  · obtain ⟨-, hbox, hcons⟩ := State.mailPut_room x h
    rw [hbox, hcons, hcons]
    rw [if_neg (c := cid 0x49 n = cid 0x48 m) (by simp only [cid]; omega)]
    by_cases e : n = m
    · subst e
      rw [if_pos rfl, if_pos rfl, List.length_append]
      exact ⟨h, by simp [he]; omega⟩
    · rw [if_neg e, if_neg (by simp only [cid]; omega)]
      exact ⟨hl, he⟩
  · rw [State.mailPut_full x h]
    simpa using ⟨hl, he⟩

theorem MailBalanced.mailPop (hs : MailBalanced s) {m : Nat} (hm : m < 24) : MailBalanced (s.mailPop m) := by
  cases hbox : s.mbx.boxes.get m with
  | nil =>
    rw [State.mailPop, hbox]
    exact hs
  | cons x r =>
    intro n hn
    obtain ⟨hl, he⟩ := hs n hn
    obtain ⟨hpop, hcons⟩ := State.mailPop_head hbox
    rw [hpop, hcons, hcons]
    rw [if_neg (c := cid 0x48 n = cid 0x49 m) (by simp only [cid]; omega)]
    by_cases e : n = m
    · subst e
      rw [if_pos rfl, if_pos rfl]
      rw [hbox] at hl he
      simp only [List.length_cons] at hl he
      exact ⟨by omega, by omega⟩
    · rw [if_neg e, if_neg (by simp only [cid]; omega)]
      exact ⟨hl, he⟩

/-- The message of PF0's staged words (16, R448). -/
def State.stagedSlot (s : State) : Slot :=
  { bytes := (upto 16).flatMap fun i => leBytes 4 (s.mbx.stage.get i).toNat, stamped := true, cls := 1, index := 0 }

theorem execMbxPost_put (v : Word) (hv : s.mbxValid = true) :
    exec (.mbxPost v) s = .next (if (s.mailPut 1 s.stagedSlot).1 then (s.mailPut 1 s.stagedSlot).2
      else (s.mailPut 1 s.stagedSlot).2.updHost fun h => { h with unsupported := h.unsupported + 1 }) :=
  congrArg (fun t : State => (.next t : Host.Outcome State Fault Refusal)) (if_neg (by simp [hv]))

end

end Sys2Proof.Machine

namespace Sys2Proof
open Machine

/-- Settles O26. -/
theorem mail : Obligations.Mail := by
  unfold Obligations.Mail
  refine ⟨fun m cls idx bs s hv hs hroom => ?_, fun v s hv hroom => ?_, fun v x r s hv hbox => ?_⟩
  · obtain ⟨-, hbox, -⟩ := State.mailPut_room
      { bytes := slotBytes bs, stamped := true, cls, index := idx : Slot } hroom
    have e : exec (.mailboxWrite m cls idx bs) s =
        .next (s.mailPut m.val { bytes := slotBytes bs, stamped := true, cls, index := idx }).2 :=
      congrArg (fun t : State => (.next t : Host.Outcome State Fault Refusal)) (if_neg (by simp [hv, hs]))
    refine ⟨_, s.arrived m.val _, e, (hbox m.val).trans (if_pos rfl), rfl, rfl, rfl, fun n hn => (hbox n).trans (if_neg hn),
      (execMailboxWrite_ran m cls idx bs (by simp) (Within.refl _ s)).keeps e⟩
  · obtain ⟨hok, hbox, -⟩ := State.mailPut_room s.stagedSlot hroom
    have e := execMbxPost_put v hv
    rw [if_pos hok] at e
    refine ⟨_, s.arrived 1 _, e, (hbox 1).trans (if_pos rfl), rfl, rfl, rfl, fun n hn => (hbox n).trans (if_neg hn),
      Within.keeps (l := [.mbx, .tel]) ?_⟩
    rw [State.mailPut, if_neg (Nat.not_le.2 hroom)]
    simp
  · have e : exec (.mbxRxPop v) s = .next (s.mailPop 0) :=
      congrArg (fun t : State => (.next t : Host.Outcome State Fault Refusal)) (if_pos hv)
    obtain ⟨hpop, -⟩ := State.mailPop_head hbox
    exact ⟨_, e, (hpop 0).trans (if_pos rfl), fun n hn => (hpop n).trans (if_neg hn),
      (execMbxRxPop_ran v (by simp) (Within.refl _ s)).keeps e⟩

/-- Settles O27. -/
theorem mailConservation : Obligations.MailConservation := by
  unfold Obligations.MailConservation
  intro Inv s t hs
  change MailBalanced s at hs
  refine ⟨fun m cls idx bs e => ?_, fun v e => ?_, fun v e => ?_⟩
  · obtain rfl := Host.Outcome.next.inj e
    split
    · exact hs
    · exact hs.mailPut m.isLt _
  · by_cases hv : s.mbxValid = true
    · obtain rfl := Host.Outcome.next.inj ((execMbxPost_put v hv).symm.trans e)
      have hp := hs.mailPut (m := 1) (by decide) s.stagedSlot
      split
      · exact hp
      · exact hp
    · obtain rfl := Host.Outcome.next.inj e
      rw [if_pos (by simp [hv])]
      exact hs
  · obtain rfl := Host.Outcome.next.inj e
    split
    · exact hs.mailPop (by decide)
    · exact hs

end Sys2Proof

/-! Snapshots, the lifetime record and the histograms (O28). -/

namespace Sys2Proof.Machine

/-! ### Snapshots (19, R520, R521) -/

section
variable {s u : State} {c : Cmd} {op : Nat} {feats : List Nat} {body : State → Verdict} {r : Reply} {P : State → Prop}

/-- `State.row_answers` for a chapter that also writes to the host's memory: what serving the command may change, but for its
rings, it may have changed already. -/
theorem State.row_posts (more : List Block) (h : accepts s c op feats = true) (hb : body (s.fetched c) = .reply u r)
    (hr : r.status ≠ stBusy) (hk : KeepsBut (more ++ cmdBlocks) (s.fetched c) u) (hq : Quiet c (s.fetched c) u)
    (hrings : u.host.rings = (s.fetched c).host.rings)
    (hP : ∀ t, Answered t c r → KeepsBut cmdBlocks u t → Serves more c s t → P t) :
    ∃ t, (.next (s.row c op feats body) : Host.Outcome State Fault Refusal) = .next t ∧ P t := by
  have hrow : s.row c op feats body = State.conclude c (.reply u r) := by rw [State.row_runs body h, hb]
  have hfin : s.row c op feats body = u.finish c.fn.val c.ring.val c.seq u.time c.noIrq r := by
    rw [hrow, State.conclude, State.withWait_of_ne u r hr]
  have hc : ∀ b ∈ cmdBlocks, b ∈ more ++ cmdBlocks := fun b hb => List.mem_append_right _ hb
  refine ⟨_, rfl, hP _ ?_ ?_ ⟨?_, ?_⟩⟩
  · rw [hrow]
    refine State.conclude_answered u c r hr ?_
    simpa only [State.ring, hrings] using State.fetched_head s c
  · rw [hfin]
    exact finish_keeps u _ _ _ _ _ r
  · rw [hfin]
    exact (((fetched_keeps c s).mono hc).trans hk).trans ((finish_keeps u _ _ _ _ _ r).mono hc)
  · rw [hrow]
    exact (conclude_reply_quiet r ((quiet_fetched c s).trans hq)).1

/-- Of the telemetry the completion of commands changes the counters, the histograms and the notes of their overflow alone. -/
def RecordStays (s t : State) : Prop :=
  t.tel = { s.tel with cons := t.tel.cons, hists := t.tel.hists, events := t.tel.events } ∧
    (s.tel.events.getLsbD 2 = true → t.tel.events.getLsbD 2 = true)

theorem RecordStays.refl (s : State) : RecordStays s s := ⟨rfl, id⟩

theorem RecordStays.trans {t u : State} (h : RecordStays s t) (k : RecordStays t u) : RecordStays s u := by
  obtain ⟨ht, he⟩ := h
  obtain ⟨hu, hf⟩ := k
  exact ⟨by rw [hu, ht], fun hb => hf (he hb)⟩

theorem RecordStays.of_tel {t : State} (h : t.tel = s.tel) : RecordStays s t := by
  unfold RecordStays
  rw [h]
  exact ⟨rfl, id⟩

theorem RecordStays.foldS {α : Type} (f : State → α → State) (h : ∀ s a, RecordStays s (f s a)) (l : List α) (s : State) :
    RecordStays s (Machine.foldS l f s) := by
  induction l generalizing s with
  | nil => exact .refl s
  | cons a l ih => exact (h s a).trans (ih _)

theorem recordStays_sample (h v : Nat) : RecordStays s (s.sample h v) := by
  unfold State.sample RecordStays
  rw [State.updTel_tel]
  dsimp only
  split
  · exact ⟨rfl, fun h => by simp [h]⟩
  · exact ⟨rfl, id⟩

theorem recordStays_complete (i : Inflight) (r : Reply) : RecordStays s (s.complete i r) := by
  unfold State.complete State.finish
  dsimp only
  refine RecordStays.trans ?_ (.foldS _ (fun u _ => ?_) _ _)
  · refine RecordStays.trans ?_ (.of_tel (State.writeEntry_tel _ _ _ _ _))
    exact RecordStays.trans (t := (s.updHost _).consAdd _ 1) ⟨rfl, id⟩ (recordStays_sample _ _)
  · exact RecordStays.trans (.of_tel (State.writeEntry_tel u _ _ _ _)) ⟨rfl, id⟩

theorem recordStays_snapReplies : RecordStays s s.snapReplies := by
  refine .foldS _ (fun s i => ?_) _ _
  split
  · dsimp only
    split
    · exact recordStays_complete _ _
    · refine RecordStays.trans (.of_tel ?_) (recordStays_complete _ _)
      have hw (u : State) : (foldS (upto 16) (fun s n => s.updLine n fun l => { l with errCnt := 0 }) u).tel = u.tel :=
        Within.same (l := [.peg]) (by simp [foldS_within]) .tel (by decide)
      split <;> split <;> simp only [hw, State.hostPut_tel]
  · exact .refl s

theorem State.snapReplies_glb : s.snapReplies.glb = s.glb :=
  Within.same (l := [.tel, .peg, .host]) (by simp) .glb (by decide)

/-- A broken identity is reported in TEL_EVENTS, and drains a READY module (19, R514, R515). -/
theorem State.identityFails_tel (vs : List Nat) : ∃ q n e, (s.identityFails vs).tel = { s.tel with
    ltQueue := q, ltSuppressed := n, events := e } ∧ e.getLsbD 2 = true := by
  have henter (u : State) : (u.enterDrain .identity).tel = u.tel := by
    unfold State.enterDrain
    split <;> rfl
  unfold State.identityFails
  rw [henter, State.doorbell_tel, State.updTel_tel]
  unfold State.lifetime
  dsimp only [State.updTel]
  split
  · exact ⟨_, _, _, rfl, or_bit_getLsbD (m := 2) _ (by decide)⟩
  · exact ⟨_, _, _, rfl, or_bit_getLsbD (m := 2) _ (by decide)⟩

theorem State.identityFails_ready (vs : List Nat) (h : s.glb.state = .ready) : (s.identityFails vs).glb.state = .draining := by
  have hb : ((((s.lifetime 0x0010 vs).updTel fun t => { t with events := t.events ||| 4 }).doorbell 0 13)).glb = s.glb :=
    Within.same (l := [.tel, .host]) (by simp) .glb (by decide)
  unfold State.identityFails State.enterDrain
  rw [hb, h]
  rfl

/-- The state with a snapshot taken and its identities checked. -/
def State.snapTaken (s : State) (ok : Bool) : State :=
  (s.updTel fun t => { t with
    snap := s.capture, pending := false, take := false, snapSeq := t.snapSeq + 1, snapTime := s.pegTime, identityOk := ok }).updMem
      fun m => { m with washAt := m.washAt.set 3 s.time }

theorem State.snapshotCapture_cases (hp : s.tel.pending = true) (hr : s.controlRuns = true) :
    ((s.brokenIds fun id => Tbl.get s.capture id) = none ∧ exec .snapshotCapture s = .next (s.snapTaken true).snapReplies) ∨
      ∃ ids vs, (s.brokenIds fun id => Tbl.get s.capture id) = some ids ∧
        exec .snapshotCapture s = .next ((s.snapTaken false).identityFails vs).snapReplies := by
  have e : exec .snapshotCapture s = .next (State.snapReplies (match (s.brokenIds fun id => Tbl.get s.capture id) with
      | some ids => (s.snapTaken (s.brokenIds fun id => Tbl.get s.capture id).isNone).identityFails
          (ids.flatMap fun i => idWords i (s.capture.get i))
      | none => s.snapTaken (s.brokenIds fun id => Tbl.get s.capture id).isNone)) :=
    congrArg (fun t : State => (.next t : Host.Outcome State Fault Refusal)) (if_neg (by simp [hp, hr]))
  cases hb : s.brokenIds fun id => Tbl.get s.capture id with
  | none => rw [hb] at e; exact .inl ⟨rfl, e⟩
  | some ids => rw [hb] at e; exact .inr ⟨ids, _, rfl, e⟩

/-- What a snapshot sets stays through the replies to the commands that wait for it. -/
theorem RecordStays.snap {t : State} (h : RecordStays s t) :
    t.tel.snapSeq = s.tel.snapSeq ∧ t.tel.snapTime = s.tel.snapTime ∧ t.tel.pending = s.tel.pending ∧
      t.tel.take = s.tel.take ∧ t.tel.snap = s.tel.snap ∧ t.tel.identityOk = s.tel.identityOk := by
  rw [h.1]
  exact ⟨rfl, rfl, rfl, rfl, rfl, rfl⟩

/-- The fetch of a command counts it in the telemetry. -/
theorem State.fetched_tel (c : Cmd) : (s.fetched c).tel = { s.tel with cons := (s.fetched c).tel.cons } := by
  unfold State.fetched
  rw [State.consAdd, State.updTel_tel, State.updRing_tel, State.takeEntry_tel]

theorem State.fetched_askSnapshot (c : Cmd) : (s.fetched c).askSnapshot = s.askSnapshot.fetched c := by
  unfold State.fetched State.takeEntry
  split <;> rfl

/-! ### The lifetime record and the histograms (19, R522-R525) -/

/-- Records join the ring, numbered in order, while it has room. -/
theorem appendRing_room (ring rs : List LtRec) (n : Nat) (h : ring.length + rs.length ≤ 63488) :
    appendRing ring rs n = ring ++ rs.mapIdx fun i r => { r with seq := n + i + 1 } := by
  induction rs generalizing ring n with
  | nil => simp [appendRing]
  | cons r rs ih =>
    rw [List.length_cons] at h
    rw [appendRing, if_neg (by omega), ih _ _ (by simp; omega)]
    simp [List.mapIdx_cons, Nat.add_assoc, Nat.add_comm 1]

theorem hists_clear_get (v : Word) (l : List Nat) (h : Tbl Hist) (i : Nat) :
    (l.foldl (fun h i => if v.getLsbD i then h.set i {} else h) h).get i =
      if i ∈ l ∧ v.getLsbD i then {} else h.get i := by
  induction l generalizing h with
  | nil => simp
  | cons j l ih =>
    rw [List.foldl_cons, ih]
    by_cases e : i = j
    · subst e
      by_cases hv : v.getLsbD i <;> simp [hv]
    · by_cases hv : v.getLsbD j <;> simp [hv, e, Tbl.get_set]

end

end Sys2Proof.Machine

namespace Sys2Proof
open Machine

/-- Settles O28. -/
theorem snapshotsAndRecords : Obligations.SnapshotsAndRecords := by
  unfold Obligations.SnapshotsAndRecords
  refine ⟨⟨?asked, ?taken, ?period, ?captured⟩, ?flush, ?summary, ?read, ?oldest, ?clear⟩
  case asked =>
    intro c s h hz hf
    have hb : params (s.fetched c) c [(16, 16), (24, 35)] [(decide (3 < (c.byte 16).toNat), 16)]
        (.later (s.fetched c).askSnapshot (.snapshot (c.byte 16).toNat (c.le 24 8) (c.le 32 4))) =
          .later (s.askSnapshot.fetched c) (.snapshot (c.byte 16).toNat (c.le 24 8) (c.le 32 4)) :=
      (params_run _ hz (by simp [Nat.not_lt.2 hf])).trans (by rw [State.fetched_askSnapshot])
    refine ⟨_, rfl, (State.row_waits_for h hb).1, ?_⟩
    rw [State.row_runs _ h]
    rw [hb]
    exact ⟨((fetched_keeps c s.askSnapshot).mono (by simp)).trans ((State.updHost_keepsBut _ _).mono (by simp [cmdBlocks])),
      conclude_later_served _ (quiet_fetched c s.askSnapshot)⟩
  case taken =>
    intro v s ht hv
    exact congrArg (fun t : State => (.next t : Host.Outcome State Fault Refusal)) (if_pos (by simp [ht, hv]))
  case period =>
    intro s ht hr hd
    exact congrArg (fun t : State => (.next t : Host.Outcome State Fault Refusal)) (if_pos (by simp [ht, hr, hd]))
  case captured =>
    intro s hp hr
    obtain ⟨hb, e⟩ | ⟨ids, vs, hb, e⟩ := State.snapshotCapture_cases hp hr
    · obtain ⟨hseq, htime, hpend, htake, hsnap, hok⟩ := (recordStays_snapReplies (s := s.snapTaken true)).snap
      refine ⟨_, e, hseq, htime, hpend, htake, hsnap, by rw [hok, hb]; rfl, fun h => ?_⟩
      exact Bool.noConfusion (hok.symm.trans h : true = false)
    · obtain ⟨hseq, htime, hpend, htake, hsnap, hok⟩ :=
        (recordStays_snapReplies (s := (s.snapTaken false).identityFails vs)).snap
      obtain ⟨q, n, ev, htel, hbit⟩ := State.identityFails_tel (s := s.snapTaken false) vs
      rw [htel] at hseq htime hpend htake hsnap hok
      refine ⟨_, e, hseq, htime, hpend, htake, hsnap, by rw [hok, hb]; rfl, fun _ => ⟨?_, fun hst => ?_⟩⟩
      · exact recordStays_snapReplies.2 (by rw [htel]; exact hbit)
      · rw [State.snapReplies_glb]
        exact State.identityFails_ready (s := s.snapTaken false) vs hst
  case flush =>
    intro s ht hr hf hq hs
    have hpos : 0 < s.tel.ltQueue.length := List.length_pos_iff.2 hq
    have hmay : min (if s.tel.flushAt = 0 then 16 else min 16 ((s.time - s.tel.flushAt) * 16 / secNs)) s.tel.ltQueue.length =
        min 16 s.tel.ltQueue.length := by rw [if_pos hf]
    have e : exec .lifetimeFlush s = .next (s.updTel fun t =>
        { t with ltRing := appendRing t.ltRing (t.ltQueue.take (min 16 t.ltQueue.length)) t.ltSeq
                 ltSeq := t.ltSeq + min 16 t.ltQueue.length, ltQueue := t.ltQueue.drop (min 16 t.ltQueue.length)
                 flushAt := s.time }) := by
      show execLifetimeFlush s = _
      simp only [execLifetimeFlush, hmay]
      rw [if_neg (by simp [ht, hr]; omega), State.suppressedRecords]
      simp only [State.updTel_tel, hs]
      rfl
    have htake : s.tel.ltQueue.take (min 16 s.tel.ltQueue.length) = s.tel.ltQueue.take 16 := by
      rw [List.take_eq_take_iff]; simp
    have hdrop : s.tel.ltQueue.drop (min 16 s.tel.ltQueue.length) = s.tel.ltQueue.drop 16 := by
      rw [List.drop_eq_drop_iff]; omega
    refine ⟨_, e, hdrop, rfl, rfl, fun hroom => ?_, Within.keeps (by simp)⟩
    simp only [State.updTel_tel, htake]
    exact appendRing_room _ _ _ (by simp; omega)
  case summary =>
    intro s ht hr hd
    exact congrArg (fun t : State => (.next t : Host.Outcome State Fault Refusal)) (if_pos (by simp [ht, hr, hd]))
  case read =>
    intro c n r rs s h hz h16 hlen hfrom
    have hfetch : (s.fetched c).tel.ltRing = s.tel.ltRing := by rw [State.fetched_tel]
    refine State.row_posts [] (u := (s.fetched c).hostPut c.fn.val (c.le 24 8) (((r :: rs).take (min (n + 1) (rs.length + 1))).flatMap LtRec.toBytes)) h
      ((params_run _ hz ?_).trans ?_) (Reply.ok_status_ne_busy _) (Within.keeps ((State.hostPut_within _ _ _ (by simp [cmdBlocks])).2 (Within.refl _ _))) (quiet_hostPut c _ _ _ _) rfl
      fun t ha _ hs => ⟨hs, ha⟩
    · simp [h16, hlen]
    · have hring : (if c.le 20 4 = 0xFFFFFFFF then s.tel.ltRing
          else s.tel.ltRing.filter fun r => decide (c.le 20 4 ≤ r.seq % 2 ^ 32)) = r :: rs := by
        split
        · next hw =>
          rw [← hfrom]
          exact (List.filter_eq_self.2 fun r _ => by simp [hw]).symm
        · next hw => rw [← hfrom]; simp [hw]
      dsimp only
      rw [hfetch, hring, h16, hlen, Nat.mul_div_cancel_left _ (by decide), if_neg (c := (1 : Nat) = 0) (by decide), if_neg (by simp)]
      rfl
  case oldest =>
    intro c s h hz h16 hlen
    have hfetch : (s.fetched c).tel.ltRing = s.tel.ltRing := by rw [State.fetched_tel]
    refine exists_comm.1 ⟨Config.value (s.fetched c).draw.1, ?_⟩
    refine State.row_posts [.fresh] (u := (s.fetched c).draw.2.hostPut c.fn.val (c.le 24 8)
      (Config.bytes (s.fetched c).draw.1 (min (c.le 32 4) 4096))) h
      ((params_run _ hz ?_).trans ?_) (Reply.ok_status_ne_busy _) (Within.keeps ?_) ?_ ?_ fun t ha _ hs => ⟨hs, ha⟩
    · simp [h16, hlen]
    · dsimp only
      rw [hfetch, h16, if_pos (c := (0 : Nat) = 0) rfl, if_pos (c := (0 : Nat) = 0) rfl, if_pos rfl]
    · exact (State.hostPut_within _ _ _ (by simp [cmdBlocks])).2 ((State.draw_within (by simp)).2 (Within.refl _ _))
    · exact Quiet.trans ((Quiet.refl c _).of_eq rfl rfl) (quiet_hostPut c _ _ _ _)
    · rfl
  case clear =>
    intro v i s ht hi
    have e : exec (.telHistClear v) s = .next (s.updTel fun t =>
        { t with hists := (upto 6).foldl (fun h i => if v.getLsbD i then h.set i {} else h) t.hists }) :=
      congrArg (fun t : State => (.next t : Host.Outcome State Fault Refusal)) (if_neg (by simp [ht]))
    refine ⟨_, e, Within.keeps (by simp), rfl, ?_⟩
    rw [State.updTel_tel, hists_clear_get]
    simp [upto, hi]

end Sys2Proof

/-! The Darner's commands (O29). -/

namespace Sys2Proof.Machine

section
variable {s u : State} {c : Cmd} {op : Nat} {feats : List Nat} {body : State → Verdict} {r : Reply} {P : State → Prop}

/-- A row whose chapter answers at once and leaves the rings: it is answered, and leaves what its chapter left but for the
completion. -/
theorem State.row_changes (h : accepts s c op feats = true) (hb : body (s.fetched c) = .reply u r) (hr : r.status ≠ stBusy)
    (hrings : u.host.rings = (s.fetched c).host.rings) (hP : ∀ t, Answered t c r → KeepsBut cmdBlocks u t → P t) :
    ∃ t, (.next (s.row c op feats body) : Host.Outcome State Fault Refusal) = .next t ∧ P t := by
  have hrow : s.row c op feats body = State.conclude c (.reply u r) := by rw [State.row_runs body h, hb]
  refine ⟨_, rfl, hP _ ?_ (State.row_leaves h hb hr)⟩
  rw [hrow]
  refine State.conclude_answered u c r hr ?_
  simpa only [State.ring, hrings] using State.fetched_head s c

/-! ### The Darner's commands (13) -/

/-- A parameter that is in its range where its bit asks for it breaks no rule. -/
theorem asked_in_range {b : Bool} {lo hi n : Nat} (h : b = true → lo ≤ n ∧ n ≤ hi) :
    (b && (decide (n < lo) || decide (hi < n))) = false := by
  cases b with
  | false => rfl
  | true =>
    obtain ⟨hlo, hhi⟩ := h rfl
    simp [Nat.not_lt.2 hlo, Nat.not_lt.2 hhi]

@[simp] theorem State.fetched_evAt (c : Cmd) (off : Nat) : (s.fetched c).evAt off = s.evAt off := by
  rw [State.evAt, State.fetched_tel, State.evAt]

@[simp] theorem State.fetched_mstep (c : Cmd) : (s.fetched c).mstep = s.mstep := by simp [State.mstep]

end

end Sys2Proof.Machine

namespace Sys2Proof
open Machine

/-- Settles O29. -/
theorem darnerRegisters : Obligations.DarnerRegisters := by
  unfold Obligations.DarnerRegisters
  refine ⟨?config, ?drain, ?totals, ?bin, ?core, ?last⟩
  case config =>
    intro c s h hz f d r hf hdiv hrot hraised horder hrel
    have h4 : f.testBit 4 = false := Nat.testBit_lt_two_pow (by omega)
    have h5 : f.testBit 5 = false := Nat.testBit_lt_two_pow (by omega)
    let v := (s.fetched c).updDrn fun x => { x with
      div := d, raisedDiv := r, rotFloor := if f.testBit 1 then c.le 22 1 else x.rotFloor
      release := if f.testBit 3 then c.le 24 4 else x.release }
    refine State.row_changes (u := if f = 0 then v
      else v.lifetime 0x0032 [f, v.drn.div, v.drn.rotFloor, v.drn.raisedDiv, v.drn.release, c.le 28 1]) h
      ((params_run _ hz ?_).trans ?_) (by decide) ?_ fun t ha ht => ⟨ha, (ht.2 .drn (by decide)).trans ?_, ?_⟩
    · simp only [State.fetched_drn]
      simp only [List.forall_mem_cons]
      refine ⟨decide_eq_false (by omega), asked_in_range hdiv, asked_in_range hrot, asked_in_range hraised, ?_, asked_in_range hrel,
        by rw [show (c.le 16 1).testBit 5 = false from h5]; rfl, by simp⟩
      obtain hle | ⟨h0, h2⟩ := horder
      · exact Bool.and_eq_false_imp.2 fun _ => decide_eq_false (Nat.not_lt.2 hle)
      · exact (congrArg (· && _) (show (f.testBit 0 || f.testBit 2) = false by rw [h0, h2]; rfl)).trans rfl
    · dsimp only
      rw [show (c.le 16 1).testBit 4 = false from h4, show (c.le 16 1).testBit 5 = false from h5]
      simp only [Bool.false_and, Bool.false_eq_true, if_false, State.fetched_drn]
      rfl
    · split <;> rfl
    · have hv : v.drn = { s.drn with
          div := d, raisedDiv := r, rotFloor := if f.testBit 1 then c.le 22 1 else s.drn.rotFloor
          release := if f.testBit 3 then c.le 24 4 else s.drn.release } := by
        rw [show v.drn = _ from State.updDrn_drn _ _, State.fetched_drn]
      split <;> exact hv
    · have hw : Within (.drn :: cmdBlocks) s v := by simp [v, cmdBlocks]
      refine KeepsBut.trans (Within.keeps ?_) (ht.mono fun b hb => List.mem_cons_of_mem _ hb)
      split
      · exact hw
      · exact (State.lifetime_within _ _ (by simp [cmdBlocks])).2 hw
  case drain =>
    intro c s h hz hf hcore hd
    refine State.row_refuses h ((params_run _ hz ?_).trans (if_pos ?_)) (by decide)
    · simp only [List.forall_mem_cons, hf]
      have hno {p : Prop} {k : Nat} (hk : Nat.testBit 0x20 k = false) (h : Nat.testBit 0x20 k = true) : p :=
        Bool.noConfusion (hk.symm.trans h)
      refine ⟨by decide, asked_in_range (hno (by decide)), asked_in_range (hno (by decide)), asked_in_range (hno (by decide)),
        by rw [show Nat.testBit 0x20 0 = false by decide, show Nat.testBit 0x20 2 = false by decide]; rfl,
        asked_in_range (hno (by decide)), ?_, by simp⟩
      obtain hcore | hcore := hcore
      · simp [Nat.not_lt.2 hcore]
      · simp [hcore]
    · simp [hf, hd]
      decide
  case totals =>
    intro c s h hz h16
    refine (State.row_refuses (r := .ok _) h ?_ (Reply.ok_status_ne_busy _)).imp fun t ht => ⟨ht.1, ht.2.2, ht.2.1⟩
    dsimp only
    rw [h16]
    refine (params_run _ hz (by simp)).trans ?_
    simp [State.raisedBins, State.goalsOff]
  case bin =>
    intro c s h hz h16 hbin
    refine (State.row_refuses (r := .ok _) h ?_ (Reply.ok_status_ne_busy _)).imp fun t ht => ⟨ht.1, ht.2.2, ht.2.1⟩
    dsimp only
    rw [h16]
    refine (params_run _ hz (by simp [Nat.not_lt.2 hbin])).trans ?_
    simp [State.binSince]
  case core =>
    intro c s h hz h16 hcore
    refine (State.row_refuses (r := .ok _) h ?_ (Reply.ok_status_ne_busy _)).imp fun t ht => ⟨ht.1, ht.2.2, ht.2.1⟩
    dsimp only
    rw [h16]
    refine (params_run _ hz (by simp [Nat.not_lt.2 hcore])).trans ?_
    simp [State.minWindow]
  case last =>
    intro v s hv h31
    exact congrArg (fun t : State => (.next t : Host.Outcome State Fault Refusal)) (if_pos (by simp [hv, h31]))

end Sys2Proof

/-! Context commands (O30). -/

namespace Sys2Proof
open Machine

/-- Context 0 is READY with no work in hand but a patch that loads; the command that loads it carries the sequence number the
ring expects next. -/
def loadingPatch : State :=
  (Tests.upTsu fun t => { t with patches := [(0, { st := .loading })] }).updHost fun h =>
    { h with inflight := [{ fn := 1, wait := .patchReady 0 }] }

/-- Refutes O30: the CTX_RESET ends the patch load with CTX_FAULT, and where that command has the sequence number of the CTX_RESET
itself, its completion takes the place of the command's own. -/
theorem not_contextCommands : ¬ Obligations.ContextCommands := by
  unfold Obligations.ContextCommands
  rintro ⟨-, -, hreset, -⟩
  obtain ⟨t, e, ha, -⟩ := hreset (Tests.vf 0x0A []) loadingPatch (by decide) (by decide) (by decide) (by decide) (by decide)
    (by decide) (by decide) (by decide) (by decide) (by decide)
  obtain rfl := Host.Outcome.next.inj e
  have hc := congrArg (fun k : Option Kept => k.bind fun k => k.comp.map (·.status)) ha
  exact absurd hc (by decide)

end Sys2Proof

/-! Module states (O31). -/

namespace Sys2Proof.Machine

section
variable {s u : State} {c : Cmd} {op : Nat} {feats : List Nat} {body : State → Verdict} {r : Reply} {P : State → Prop}

/-- `State.row_waits_for` for a command's outcome. -/
theorem State.row_defers {w : WaitFor} (h : accepts s c op feats = true) (hb : body (s.fetched c) = .later u w)
    (hP : ∀ t, Waits t c w → KeepsBut [.host] u t → P t) :
    ∃ t, (.next (s.row c op feats body) : Host.Outcome State Fault Refusal) = .next t ∧ P t := by
  obtain ⟨hw, hk⟩ := State.row_waits_for h hb
  exact ⟨_, rfl, hP _ hw hk⟩

/-- `State.row_waits_serves` for a command's outcome. -/
theorem State.row_defers_serves (more : List Block) {w : WaitFor} (h : accepts s c op feats = true)
    (hb : body (s.fetched c) = .later u w) (hk : KeepsBut (more ++ cmdBlocks) (s.fetched c) u)
    (hh : u.host = (s.fetched c).host) (ht : u.tel = (s.fetched c).tel)
    (hP : ∀ t, Waits t c w → KeepsBut [.host] u t → Serves more c s t → P t) :
    ∃ t, (.next (s.row c op feats body) : Host.Outcome State Fault Refusal) = .next t ∧ P t := by
  obtain ⟨hw, hk'⟩ := State.row_waits_for h hb
  exact ⟨_, rfl, hP _ hw hk' (State.row_waits_serves h hb hk hh ht)⟩

/-- `State.row_leaves` for a command's outcome. -/
theorem State.row_leads (h : accepts s c op feats = true) (hb : body (s.fetched c) = .reply u r) (hr : r.status ≠ stBusy)
    (hP : ∀ t, KeepsBut cmdBlocks u t → P t) :
    ∃ t, (.next (s.row c op feats body) : Host.Outcome State Fault Refusal) = .next t ∧ P t :=
  ⟨_, rfl, hP _ (State.row_leaves h hb hr)⟩

/-! ### Module states (01, 15) -/

/-- A change of every context of a list, each from itself. -/
theorem foldS_updCtx_ctx (p : Ctx → Prop) [DecidablePred p] (g : Ctx → Ctx) {l : List Nat} (hl : l.Nodup) (i : Nat) :
    (foldS l (fun s c => if p (s.ctx c) then s.updCtx c g else s) s).ctx i =
      if i ∈ l ∧ p (s.ctx i) then g (s.ctx i) else s.ctx i := by
  induction l generalizing s with
  | nil => simp
  | cons k l ih =>
    obtain ⟨hk, hl⟩ := List.nodup_cons.1 hl
    rw [foldS_cons, ih hl]
    by_cases e : i = k
    · subst e
      by_cases hp : p (s.ctx i) <;> simp [hk, hp]
    · by_cases hp : p (s.ctx k) <;> simp [hp, e]

/-- Jobs settle in a context without one: nothing happens. -/
theorem State.settleJobs_of_nil {c : Nat} (h : (s.ctx c).jobs = []) : s.settleJobs c = s := by
  rw [State.settleJobs, h]
  rfl

theorem foldS_settleJobs (h : ∀ i, i < 16 → (s.ctx i).jobs = []) : foldS allCtxs (fun s i => s.settleJobs i) s = s :=
  foldS_unchanged _ _ fun c hc => State.settleJobs_of_nil (h c (by simpa [allCtxs, upto] using hc))

theorem mem_allCtxs {i : Nat} : i ∈ allCtxs ↔ i < 16 := by simp [allCtxs, upto]

theorem allCtxs_nodup : allCtxs.Nodup := by decide

/-- No context's state or steps change, and no context gets a request or a job. -/
def GainsNoWork (s t : State) : Prop := ∀ i, (t.ctx i).st = (s.ctx i).st ∧ (t.ctx i).steps = (s.ctx i).steps ∧
  ((s.ctx i).reqs = [] → (t.ctx i).reqs = []) ∧ ((s.ctx i).jobs = [] → (t.ctx i).jobs = [])

theorem GainsNoWork.refl (s : State) : GainsNoWork s s := fun _ => ⟨rfl, rfl, id, id⟩

theorem GainsNoWork.trans {t u : State} (h : GainsNoWork s t) (k : GainsNoWork t u) : GainsNoWork s u := fun i =>
  have ⟨hst, hsteps, hreqs, hjobs⟩ := h i
  have ⟨kst, ksteps, kreqs, kjobs⟩ := k i
  ⟨kst.trans hst, ksteps.trans hsteps, kreqs ∘ hreqs, kjobs ∘ hjobs⟩

theorem GainsNoWork.foldS {α : Type} (f : State → α → State) (h : ∀ s a, GainsNoWork s (f s a)) (l : List α) (s : State) :
    GainsNoWork s (Machine.foldS l f s) := by
  induction l generalizing s with
  | nil => exact .refl s
  | cons a l ih => exact (h s a).trans (ih _)

theorem gainsNoWork_updCtx (c : Nat) {g : Ctx → Ctx} (h : ∀ x, (g x).st = x.st ∧ (g x).steps = x.steps ∧
    (x.reqs = [] → (g x).reqs = []) ∧ (x.jobs = [] → (g x).jobs = [])) : GainsNoWork s (s.updCtx c g) := by
  intro i
  by_cases e : i = c
  · subst e
    rw [State.updCtx_ctx_same]
    exact h _
  · rw [State.updCtx_ctx_ne _ _ _ _ e]
    exact ⟨rfl, rfl, id, id⟩

/-- The cancellation of everything gives no context work. -/
theorem State.cancelAll_gainsNoWork : GainsNoWork s s.cancelAll := by
  refine .foldS _ (fun s c => GainsNoWork.trans (t := s.cancelAllReqs c) (.foldS _ (fun s r => ?_) _ _) ?_) _ _
  · exact gainsNoWork_updCtx _ fun x => ⟨rfl, rfl, fun h => by simp [h], id⟩
  · exact gainsNoWork_updCtx _ fun x => ⟨rfl, rfl, id, fun h => by simp [h]⟩

/-- A drain leaves every READY context without work DRAINED. -/
def State.drainReady (s : State) : State :=
  foldS allCtxs (fun s c => if (s.ctx c).st = .ready && (s.ctx c).reqs.isEmpty && (s.ctx c).jobs.isEmpty &&
    (s.ctx c).steps.isEmpty then s.updCtx c fun x => { x with st := .drained } else s) s

theorem State.drainReady_within : Within [.ctxs] s s.drainReady := by
  simp [State.drainReady, foldS_within]

theorem State.drainReady_ctx {i : Nat} (hi : i < 16) : s.drainReady.ctx i =
    if (s.ctx i).st = .ready && (s.ctx i).reqs.isEmpty && (s.ctx i).jobs.isEmpty && (s.ctx i).steps.isEmpty then
      { s.ctx i with st := .drained } else s.ctx i := by
  refine (foldS_updCtx_ctx (fun x : Ctx => (decide (x.st = .ready) && x.reqs.isEmpty && x.jobs.isEmpty &&
    x.steps.isEmpty) = true) _ allCtxs_nodup i).trans ?_
  simp [mem_allCtxs, hi]

/-- Once no context has work, a drain for the host ends in QUIESCED (15, R418); while one has, it goes on. -/
theorem State.checkDrained_host (hd : s.glb.state = .draining) (hf : s.glb.drainFor = .host) :
    s.checkDrained = if s.drainReady.allDrained then
        (s.drainReady.updGlb fun g => { g with state := .quiesced, drainFor := .none_, drainLimit := none }).completeAll
          (fun w => w == .drained) fun _ => .of stOk
      else s.drainReady := by
  have hfor : s.drainReady.glb.drainFor = .host := by
    rw [show s.drainReady.glb = s.glb from s.drainReady_within.same .glb (by decide), hf]
  unfold State.checkDrained
  rw [if_neg (by simp [hd]), ← State.drainReady]
  dsimp only
  rw [hfor]
  cases s.drainReady.allDrained <;> rfl

/-- With no context that has work, a drain for the host ends at once (15, R418). -/
theorem State.checkDrained_idle (hd : s.glb.state = .draining) (hf : s.glb.drainFor = .host)
    (hctx : ∀ i, i < 16 → (s.ctx i).st = .free ∨
      (s.ctx i).st = .ready ∧ (s.ctx i).reqs = [] ∧ (s.ctx i).steps = [] ∧ (s.ctx i).jobs = []) :
    s.checkDrained.glb.state = .quiesced ∧
      ∀ i, i < 16 → (s.checkDrained.ctx i).st = if (s.ctx i).st = .ready then .drained else (s.ctx i).st := by
  have hv (i : Nat) (hi : i < 16) : (s.drainReady.ctx i).st = if (s.ctx i).st = .ready then .drained else (s.ctx i).st := by
    rw [State.drainReady_ctx hi]
    obtain hfree | ⟨hready, hreqs, hsteps, hjobs⟩ := hctx i hi
    · simp [hfree]
    · simp [hready, hreqs, hsteps, hjobs]
  have hall : s.drainReady.allDrained = true := by
    refine List.all_eq_true.2 fun i hi => ?_
    have hi := mem_allCtxs.1 hi
    rw [hv i hi]
    obtain hfree | ⟨hready, -⟩ := hctx i hi
    · rw [hfree]; rfl
    · rw [hready]; rfl
  rw [State.checkDrained_host hd hf, if_pos hall]
  refine ⟨by simp only [State.completeAll_glb, State.updGlb_glb], fun i hi => ?_⟩
  rw [State.ctx, State.completeAll_ctxs, State.updGlb_ctxs, ← State.ctx, hv i hi]

/-- A drain for the host that begins, with its limit (15, R418). -/
def State.drainBegun (s : State) (ms : Nat) : State :=
  (s.enterDrain .host).updGlb fun g => { g with drainLimit := if ms = 0 then none else some ((s.enterDrain .host).time + ms * msNs) }

theorem State.drainBegun_glb (h : s.glb.state = .ready ∨ s.glb.state = .quiesced) (ms : Nat) : (s.drainBegun ms).glb =
    { s.glb with state := .draining, drainFor := .host, drainLimit := if ms = 0 then none else some (s.time + ms * msNs) } := by
  unfold State.drainBegun State.enterDrain
  obtain h | h := h <;> rw [h] <;> rfl

theorem State.drainBegun_ctx (ms i : Nat) : (s.drainBegun ms).ctx i = s.ctx i := by
  unfold State.drainBegun State.enterDrain
  split <;> rfl

/-- What a DRAIN does in READY and QUIESCED. -/
def State.drainRun (s : State) (cancel : Bool) (ms : Nat) : State :=
  (foldS allCtxs (fun s i => s.settleJobs i) (if cancel then (s.drainBegun ms).cancelAll else s.drainBegun ms)).checkDrained

theorem State.drainRun_eq (cancel : Bool) (ms : Nat) (hjobs : ∀ i, i < 16 → (s.ctx i).jobs = []) :
    s.drainRun cancel ms = (if cancel then (s.drainBegun ms).cancelAll else s.drainBegun ms).checkDrained := by
  have hv : ∀ i, i < 16 → ((if cancel then (s.drainBegun ms).cancelAll else s.drainBegun ms).ctx i).jobs = [] := by
    intro i hi
    have hu : ((s.drainBegun ms).ctx i).jobs = [] := by rw [State.drainBegun_ctx]; exact hjobs i hi
    split
    · exact (State.cancelAll_gainsNoWork i).2.2.2 hu
    · exact hu
  unfold State.drainRun
  generalize (if cancel then (s.drainBegun ms).cancelAll else s.drainBegun ms) = v at hv ⊢
  rw [foldS_settleJobs hv]

end

end Sys2Proof.Machine

namespace Sys2Proof
open Machine

/-- Settles O31. -/
theorem moduleStates : Obligations.ModuleStates := by
  unfold Obligations.ModuleStates
  refine ⟨?quiesce, ?quiesceWaits, ?resume, ?drain, ?drainWaits, ?limit⟩
  case quiesce =>
    intro c s h hz hst hsteps
    refine State.row_answers [.glb] (u := (s.fetched c).updGlb fun g => { g with state := .quiesced }) h
      ((params_run _ hz (by simp)).trans ?_) (by decide) (Within.keeps (by simp)) rfl rfl
      fun t ha ht hs => ⟨ha, (ht.2 .glb (by decide)).trans ?_, hs⟩
    · dsimp only
      rw [State.fetched_glb, hst]
      refine if_pos ?_
      simpa [allCtxs, upto] using hsteps
    · rw [State.updGlb_glb, State.fetched_glb]
  case quiesceWaits =>
    intro c s h hz hst hsteps
    refine State.row_defers_serves [.glb] (u := (s.fetched c).updGlb fun g => { g with state := .quiesced }) h
      ((params_run _ hz (by simp)).trans ?_) (Within.keeps (by simp)) rfl rfl
      fun t hw ht hs => ⟨hw, (ht.2 .glb (by decide)).trans ?_, hs⟩
    · dsimp only
      rw [State.fetched_glb, hst]
      refine if_neg ?_
      simpa [allCtxs, upto] using hsteps
    · rw [State.updGlb_glb, State.fetched_glb]
  case resume =>
    intro c s h hz hst
    let u := (s.fetched c).updGlb fun g => { g with state := .ready, drainFor := .none_ }
    let v := foldS allCtxs (fun s i => s.updCtx i fun x => { x with st := if x.st = .drained then .ready else x.st }) u
    have hw : Within [.glb, .ctxs] (s.fetched c) v := by simp [v, u, foldS_within]
    have hglb : v.glb = u.glb := Within.same (l := [.ctxs]) (by simp [v, foldS_within]) .glb (by decide)
    have hctx (i : Nat) (hi : i < 16) : v.ctx i = { s.ctx i with st := if (s.ctx i).st = .drained then .ready else (s.ctx i).st } := by
      refine (foldS_updCtx_ctx (fun _ => True) _ allCtxs_nodup i).trans ?_
      simp [mem_allCtxs, hi, u]
    refine State.row_answers [.glb, .ctxs] (u := v) h ((params_run _ hz (by simp)).trans ?_) (by decide)
      (hw.keeps.mono (by simp +contextual)) (hw.same .host (by decide)) (hw.same .tel (by decide))
      fun t ha ht hs => ⟨ha, ?_, fun i hi => ?_, hs⟩
    · dsimp only
      rw [State.fetched_glb, hst]
    · rw [show t.glb = _ from ht.2 .glb (by decide), hglb]
      rfl
    · rw [State.ctx, show t.ctxs = _ from ht.2 .ctxs (by decide)]
      exact hctx i hi
  case drain =>
    intro c s h hz hf hst hctx hjobs
    have hst' : (s.fetched c).glb.state = .ready ∨ (s.fetched c).glb.state = .quiesced := by rwa [State.fetched_glb]
    have hjobs' (i : Nat) (hi : i < 16) : ((s.fetched c).ctx i).jobs = [] := by rw [State.fetched_ctx]; exact hjobs i hi
    obtain ⟨u, hu⟩ : ∃ u, u = (s.fetched c).drainRun ((c.byte 16).getLsbD 0) (c.le 20 4) := ⟨_, rfl⟩
    have he := hu.trans (State.drainRun_eq _ _ hjobs')
    have hwork : GainsNoWork (s.fetched c) (if (c.byte 16).getLsbD 0 then ((s.fetched c).drainBegun (c.le 20 4)).cancelAll
        else (s.fetched c).drainBegun (c.le 20 4)) := by
      have hb : GainsNoWork (s.fetched c) ((s.fetched c).drainBegun (c.le 20 4)) := fun i => by
        rw [State.drainBegun_ctx]; exact ⟨rfl, rfl, id, id⟩
      split
      · exact hb.trans State.cancelAll_gainsNoWork
      · exact hb
    have hglb : (if (c.byte 16).getLsbD 0 then ((s.fetched c).drainBegun (c.le 20 4)).cancelAll
        else (s.fetched c).drainBegun (c.le 20 4)).glb = ((s.fetched c).drainBegun (c.le 20 4)).glb := by
      split
      · exact Within.same (l := [.ctxs]) (by simp) .glb (by decide)
      · rfl
    rw [State.drainBegun_glb hst'] at hglb
    obtain ⟨hq, hstates⟩ := State.checkDrained_idle (by rw [hglb]) (by rw [hglb]) fun i hi => by
      obtain ⟨hst, hsteps, hreqs, hjobs'⟩ := hwork i
      rw [hst, hsteps]
      rw [State.fetched_ctx] at *
      obtain hfree | ⟨hready, hr, hs⟩ := hctx i hi
      · exact .inl hfree
      · exact .inr ⟨hready, hreqs hr, hs, hjobs' (hjobs i hi)⟩
    rw [← he] at hq hstates
    obtain ⟨t, e, hg, hc⟩ : ∃ t, exec (.drain c) s = .next t ∧ t.glb = u.glb ∧ t.ctxs = u.ctxs := by
      refine State.row_leads (u := u) (r := .of stOk) h ((params_run _ hz (by simp [Nat.not_lt.2 hf])).trans ?_) (by decide)
        fun t ht => ⟨ht.2 .glb (by decide), ht.2 .ctxs (by decide)⟩
      dsimp only
      obtain hst' | hst' := hst'
      all_goals
        rw [hst']
        dsimp only
        rw [← State.drainBegun, ← State.drainRun, ← hu, if_pos hq]
    refine ⟨t, e, by rw [hg, hq], fun i hi => ?_⟩
    rw [State.ctx, hc]
    rw [← State.ctx, hstates i hi, (hwork i).1, State.fetched_ctx]
  case drainWaits =>
    intro c i s h hz hf hst hi hrun hjobs
    have hst' : (s.fetched c).glb.state = .ready ∨ (s.fetched c).glb.state = .quiesced := by rwa [State.fetched_glb]
    have hjobs' (i : Nat) (hi : i < 16) : ((s.fetched c).ctx i).jobs = [] := by rw [State.fetched_ctx]; exact hjobs i hi
    have hflag : (c.byte 16).getLsbD 0 = false := by rw [BitVec.eq_of_toNat_eq (y := 0#8) hf]; rfl
    obtain ⟨v, hv⟩ : ∃ v, v = (s.fetched c).drainBegun (c.le 20 4) := ⟨_, rfl⟩
    have hglb := State.drainBegun_glb hst' (c.le 20 4)
    rw [← hv] at hglb
    have hvi : v.ctx i = s.ctx i := by rw [hv, State.drainBegun_ctx, State.fetched_ctx]
    have hui : v.drainReady.ctx i = s.ctx i := by
      rw [State.drainReady_ctx hi, hvi]
      exact if_neg (by simp [hrun])
    have hnot : v.drainReady.allDrained ≠ true := fun hall => by
      have hd := List.all_eq_true.1 hall i (mem_allCtxs.2 hi)
      rw [hui, hrun] at hd
      exact Bool.noConfusion hd
    obtain ⟨u, hu⟩ : ∃ u, u = (s.fetched c).drainRun ((c.byte 16).getLsbD 0) (c.le 20 4) := ⟨_, rfl⟩
    have he : u = v.drainReady := by
      rw [hu, State.drainRun_eq _ _ hjobs', if_neg (by rw [hflag]; exact Bool.false_ne_true), ← hv,
        State.checkDrained_host (by rw [hglb]) (by rw [hglb]), if_neg hnot]
    have hug : u.glb = v.glb := by rw [he]; exact State.drainReady_within.same .glb (by decide)
    refine State.row_defers (u := u) h ((params_run _ hz (by simp [hf])).trans ?_) fun t hw ht => ⟨hw, ?_, ?_, ?_⟩
    · dsimp only
      obtain hst' | hst' := hst'
      all_goals
        rw [hst']
        dsimp only
        rw [← State.drainBegun, ← State.drainRun, ← hu, if_neg (by rw [hug, hglb]; simp)]
    · rw [show t.glb = _ from ht.2 .glb (by decide), hug, hglb]
    · rw [show t.glb = _ from ht.2 .glb (by decide), hug, hglb, State.fetched_time]
    · have hti : t.ctx i = s.ctx i := by
        rw [State.ctx, show t.ctxs = _ from ht.2 .ctxs (by decide), he]
        exact hui
      rw [hti]
      exact ⟨hrun, rfl⟩
  case limit =>
    intro lim s hl ht hst
    show execDrainLimit s = _
    unfold execDrainLimit
    rw [hl]
    refine (if_neg (Nat.not_lt.2 ht)).trans ?_
    have hnot : s.glb.state ≠ .draining := by obtain hst | hst := hst <;> simp [hst]
    dsimp only
    split
    · next hd => exact absurd hd hnot
    · rfl
    · rfl
    · next hdoze hhold => exact absurd hst (not_or.2 ⟨hdoze, hhold⟩)

end Sys2Proof

/-! Objects (O32). -/

namespace Sys2Proof
open Machine

/-- Context 0 rotates its key, and the one page of its weights is the last unit under the old one. -/
def lastOldUnit : State :=
  (((Tests.upCtx fun x => { x with weights := [{ len := 1 }] }).updMem fun m =>
    { m with xlat := [(0, { valid := true })] }).updSec fun x =>
      { x with keys := [(0, { valid := true, gen := 1, rotating := true })] }).consAdd (cid 0x58 0) 1

/-- Refutes O32: weights whose pages are the last under the old key of a rotation retire that key as they are unloaded, which
changes the key block. -/
theorem not_objectCommands : ¬ Obligations.ObjectCommands := by
  unfold Obligations.ObjectCommands
  rintro ⟨-, -, -, -, hunload, -⟩
  obtain ⟨t, e, -, -, -, hkeeps, -⟩ :=
    hunload (Tests.vf 0x15 []) { len := 1 } lastOldUnit (by decide) (by decide) (by decide) (by decide)
  obtain rfl := Host.Outcome.next.inj e
  exact absurd (congrArg (fun x : Sec => (x.keys.get 0).rotating) (show State.sec _ = lastOldUnit.sec from hkeeps.2 .sec (by decide)))
    (by decide)

end Sys2Proof

/-! Patches and reloads (O33). -/

namespace Sys2Proof
open Machine

/-- Context 0 has a READY patch without a pin that step 5, not yet committed, has read. -/
def readPatch : State := Tests.upTsu fun t => { t with patches := [(0, { st := .ready, lastRead := some 5 })] }

/-- Refutes O33: a patch without a pin whose last reading step is not committed is not freed at once: its PATCH_RETIRE waits. -/
theorem not_patchesAndReloads : ¬ Obligations.PatchesAndReloads := by
  unfold Obligations.PatchesAndReloads
  rintro ⟨-, -, hfree, -⟩
  obtain ⟨t, e, -, hst, -⟩ := hfree (Tests.vf 0x19 []) 0 { st := .ready, lastRead := some 5 } readPatch
    (by decide) (by decide) (by decide) (by decide) (by decide) (by decide) (by decide) (by decide) (by decide)
  obtain rfl := Host.Outcome.next.inj e
  exact absurd hst (by decide)

end Sys2Proof

/-! Submission (O34). -/

namespace Sys2Proof
open Machine

/-- Context 0 in service, with a queued request whose pin is poisoned, on an account whose number lies beyond the
accounts. -/
def strayAccount : State :=
  (Tests.serving.updGlb fun g => { g with state := .ready }).updCtx 0 fun x =>
    { x with reqs := [{ id := 1, st := .queued, account := 11 * 2 ^ 24, reservation := 5, pin := some 2 }]
             pins := [{ id := 2, poisoned := true }]
             accounts := x.accounts ++ [(11 * 2 ^ 24, { known := true, enable := true, depth := 8 })] }

/-- A good REQ_SUBMIT of context 0. -/
def goodSubmit : Cmd := Tests.vf 0x20 [(8, [5]), (16, [0x10, 7, 0xFF, 3]), (24, [4, 0, 0, 0, 4])]

/-- Refutes O34: the admission that follows ends the poisoned request, and the refund of its account, whose number is beyond the
accounts, is counted where the submissions are. -/
theorem not_requestSubmitted : ¬ Obligations.RequestSubmitted := by
  unfold Obligations.RequestSubmitted
  intro h
  obtain ⟨t, r, e, -, -, -, -, -, -, -, -, -, -, hcount, -⟩ := h goodSubmit 0 8 (strayAccount.selAt 0 0)
    (strayAccount.acct 0 1023) none strayAccount (by decide) (by decide) (by decide) (by decide) (by decide) (by decide) (by decide)
    (by decide) (by decide) (by decide) (by decide) (by decide) (by decide) (by decide) (by decide) (by decide) (by decide)
    (by decide) (by decide)
  obtain rfl := Host.Outcome.next.inj e
  exact absurd hcount (by decide)

end Sys2Proof

/-! Requests and accounts (O35, O37). -/

namespace Sys2Proof.Machine

section
variable {s : State}

/-! ### Requests and accounts (09) -/

/-- What a change of a request by its ID does to the requests found. -/
theorem State.findReq_updReq (c id : Nat) {g : Req → Req} (hg : ∀ r, (g r).id = r.id) (j : Nat) :
    (s.updReq c id g).findReq c j = (s.findReq c j).map fun r => if r.id = id then g r else r := by
  have hid (r : Req) : (if r.id = id then g r else r).id = r.id := by split <;> simp [hg]
  unfold State.findReq State.updReq
  rw [State.updCtx_ctx_same]
  dsimp only
  rw [List.find?_map]
  simp only [Function.comp_def, hid]

theorem State.findReq_id {c id : Nat} {r : Req} (h : s.findReq c id = some r) : r.id = id := by
  simpa using List.find?_some h

theorem State.findReq_updReq_ne (c : Nat) {id j : Nat} {g : Req → Req} (hg : ∀ r, (g r).id = r.id) (h : j ≠ id) :
    (s.updReq c id g).findReq c j = s.findReq c j := by
  rw [State.findReq_updReq c id hg]
  cases hr : s.findReq c j with
  | none => rfl
  | some r => simp [State.findReq_id hr, h]

theorem State.findReq_updReq_same {c id : Nat} {g : Req → Req} (hg : ∀ r, (g r).id = r.id) {r : Req} (h : s.findReq c id = some r) :
    (s.updReq c id g).findReq c id = some (g r) := by
  rw [State.findReq_updReq c id hg, h]
  simp [State.findReq_id h]

@[simp] theorem State.fetched_findReq (c : Cmd) (x id : Nat) : (s.fetched c).findReq x id = s.findReq x id := by
  simp only [State.findReq, State.fetched_ctx]

@[simp] theorem State.fetched_waitingOn (c : Cmd) (x : Nat) (r : Req) : (s.fetched c).waitingOn x r = s.waitingOn x r := by
  simp only [State.waitingOn, State.fetched_acct, State.fetched_ctx, State.freeSlots, State.usedSlots, State.pagesAvailable,
    State.kvpFree, State.kvpPend, State.pagesIn, State.ctxPages, State.fetched_kvp, State.image, State.tbReady, State.tbHeld]
  rfl

/-- The identity of R224 and the bound of the level, for one account. -/
def Balanced (s : State) (c a : Nat) : Prop :=
  s.cons (cid 1 (accIdx c a)) + s.cons (cid 5 (accIdx c a)) =
      (s.acct c a).level + s.cons (cid 2 (accIdx c a)) + s.cons (cid 3 (accIdx c a)) ∧
    (s.acct c a).level ≤ (s.acct c a).depth

/-- A change of an account's level together with the count of one of its counters. -/
theorem State.cons_updAcct_consAdd (c a fam n i : Nat) (f : Account → Account) :
    ((s.updAcct c a f).consAdd (cid fam i) n).cons = fun id => if id = cid fam i then s.cons id + n else s.cons id :=
  funext fun _ => State.cons_consAdd _ _ _ _

theorem cid_ne {f g : Nat} (i : Nat) (h : f ≠ g) : cid f i ≠ cid g i := by
  simpa using h

/-- A trim takes what stands above the depth, and counts it as removed. -/
theorem balanced_accTrim {c a : Nat} (h : s.cons (cid 1 (accIdx c a)) + s.cons (cid 5 (accIdx c a)) =
      (s.acct c a).level + s.cons (cid 2 (accIdx c a)) + s.cons (cid 3 (accIdx c a))) : Balanced (s.accTrim c a) c a := by
  unfold Balanced
  rw [State.accTrim_acct_same]
  refine ⟨?_, Nat.min_le_right _ _⟩
  unfold State.accTrim
  dsimp only
  split
  · rw [State.cons_updAcct_consAdd]
    simp only [cid_eq_cid_iff, if_true]
    simp
    omega
  · omega

theorem Balanced.accGrant {c a : Nat} (h : Balanced s c a) (n : Nat) : Balanced (s.accGrant c a n) c a := by
  obtain ⟨hid, hle⟩ := h
  unfold Balanced
  rw [State.accGrant_acct_same _ _ _ _ hle, State.accGrant]
  rw [State.cons_updAcct_consAdd]
  simp
  omega

theorem Balanced.accRefund {c a : Nat} (h : Balanced s c a) (n : Nat) : Balanced (s.accRefund c a n) c a := by
  obtain ⟨hid, hle⟩ := h
  refine balanced_accTrim ?_
  rw [State.cons_updAcct_consAdd, State.consAdd_acct, State.updAcct_acct_same]
  simp
  omega

theorem Balanced.accReserve {c a n : Nat} (h : Balanced s c a) (hn : n ≤ (s.acct c a).level) :
    Balanced (s.accReserve c a n) c a := by
  obtain ⟨hid, hle⟩ := h
  unfold Balanced
  rw [State.accReserve, State.cons_updAcct_consAdd, State.consAdd_acct, State.updAcct_acct_same]
  simp
  omega

theorem Balanced.accCharge {c a : Nat} (h : Balanced s c a) (n : Nat) : Balanced (s.accCharge c a n) c a := by
  obtain ⟨hid, hle⟩ := h
  unfold Balanced State.accCharge
  simp only [State.cons_consAdd, State.consAdd_acct]
  simp
  omega

end

end Sys2Proof.Machine

namespace Sys2Proof
open Machine

/-- Settles O35. -/
theorem requestCommands : Obligations.RequestCommands := by
  unfold Obligations.RequestCommands
  refine ⟨fun c r s h hz hr hst hc => ?_, fun c r s h hz hr hdone => ?_, fun c r s h hz hr => ?_, fun c s h hz hr => ?_,
    fun c s h hz hr => ?_⟩
  · have hid := State.findReq_id hr
    let g : Req → Req := fun q =>
      if q.st = .ending || q.cancel.isSome then q
      else { q with
        cancel := some (s.lastFence (Cmd.ownCtx c)), late := false, tail := r.tail
        limit := if q.st = .decode then min q.limit r.tail else q.limit }
    have hg (q : Req) : (g q).id = q.id := by
      simp only [g]
      split <;> rfl
    have hgr : g r = { r with
        cancel := some (s.lastFence (Cmd.ownCtx c)), late := false, tail := r.tail
        limit := if r.st = .decode then min r.limit r.tail else r.limit } := if_neg (by simp [hst, hc])
    have hfence : (s.fetched c).lastFence (Cmd.ownCtx c) = s.lastFence (Cmd.ownCtx c) := by
      simp only [State.lastFence, State.fetched_ctx, State.actx, State.fetched_arr]
    obtain ⟨t, e, ha, ht, hs⟩ : ∃ t, exec (.reqCancel c) s = .next t ∧ Answered t c (.of stOk) ∧
        KeepsBut cmdBlocks ((s.fetched c).updReq (Cmd.ownCtx c) c.objId g) t ∧ Serves [.ctxs] c s t := by
      refine State.row_answers [.ctxs] (u := (s.fetched c).updReq (Cmd.ownCtx c) c.objId g) h ((params_run _ hz (by simp)).trans ?_) (by decide) (Within.keeps (by simp)) rfl rfl
        fun t ha ht hs => ⟨ha, ht, hs⟩
      rw [State.fetched_findReq, hr]
      refine (if_neg (by simp [hst, hc])).trans ?_
      rw [State.cancelReq, hfence, hid]
    · have hctx : t.ctxs = _ := ht.2 .ctxs (by decide)
      have hfind (j : Nat) : t.findReq (Cmd.ownCtx c) j = ((s.fetched c).updReq (Cmd.ownCtx c) c.objId g).findReq (Cmd.ownCtx c) j := by
        simp only [State.findReq, State.ctx, hctx]
      refine ⟨t, g r, e, ha, ?_, ?_, ?_, ?_, ?_, ?_, fun id hne => ?_, fun i hi => ?_, hs⟩
      · rw [hfind, State.findReq_updReq_same hg ((State.fetched_findReq c _ _).trans hr)]
      · rw [hgr]; rfl
      · rw [hgr]
      · rw [hgr]
      · rw [hgr]
      · rw [hgr]
      · rw [hfind, State.findReq_updReq_ne _ hg hne, State.fetched_findReq]
      · rw [State.ctx, hctx]
        exact (State.updCtx_ctx_ne _ _ _ _ hi).trans (State.fetched_ctx s c i)
  · refine State.row_refuses h ((params_run _ hz (by simp)).trans ?_) (by decide)
    rw [State.fetched_findReq, hr]
    exact if_pos (by simpa using hdone)
  · refine (State.row_refuses (r := .ok _) h ((params_run _ hz (by simp)).trans ?_) (Reply.ok_status_ne_busy _)).imp
      fun t ht => ⟨ht.1, ht.2.2, ht.2.1⟩
    rw [State.fetched_findReq, hr]
    simp only [State.fetched_waitingOn]
  · refine State.row_refuses h ((params_run _ hz (by simp)).trans ?_) (by decide)
    rw [State.fetched_findReq, hr]
  · refine State.row_refuses h ((params_run _ hz (by simp)).trans ?_) (by decide)
    rw [State.fetched_findReq, hr]

/-- Settles O37. -/
theorem accountConservation : Obligations.AccountConservation := by
  unfold Obligations.AccountConservation
  intro Inv s c a n hc ha hinv
  change Balanced s c a at hinv
  exact ⟨hinv.accGrant n, hinv.accRefund n, balanced_accTrim hinv.1, hinv.accReserve, hinv.accCharge n⟩

end Sys2Proof

/-! The configuration path (O38). -/

namespace Sys2Proof.Machine

section
variable {s : State}

/-! ### The configuration path (15; 14, R399) -/

theorem shifted_getLsbD {w n j : Nat} (h : j < w) : (BitVec.ofNat w (1 <<< n)).getLsbD j = decide (j = n) := by
  rw [BitVec.getLsbD_ofNat, Nat.shiftLeft_eq, Nat.one_mul, Nat.testBit_two_pow]
  simp [h, eq_comm]

theorem or_shifted_getLsbD {w n : Nat} (x : BitVec w) (h : n < w) (j : Nat) :
    (x ||| BitVec.ofNat w (1 <<< n)).getLsbD j = (x.getLsbD j || decide (j = n)) := by
  obtain hj | hj := Nat.lt_or_ge j w
  · rw [BitVec.getLsbD_or, shifted_getLsbD hj]
  · rw [BitVec.getLsbD_of_ge _ _ hj, BitVec.getLsbD_of_ge _ _ hj, decide_eq_false (by omega)]
    rfl

theorem andNot_shifted_getLsbD {w : Nat} (n : Nat) (x : BitVec w) (j : Nat) :
    (x &&& ~~~BitVec.ofNat w (1 <<< n)).getLsbD j = (x.getLsbD j && decide (j ≠ n)) := by
  obtain hj | hj := Nat.lt_or_ge j w
  · rw [BitVec.getLsbD_and, BitVec.getLsbD_not, shifted_getLsbD hj]
    simp [hj]
  · rw [BitVec.getLsbD_of_ge _ _ hj, BitVec.getLsbD_of_ge _ _ hj]
    rfl

theorem and_shifted_eq_zero {w n : Nat} (x : BitVec w) (h : n < w) :
    (x &&& BitVec.ofNat w (1 <<< n)) = 0 ↔ x.getLsbD n = false := by
  constructor
  · intro h0
    have hb := congrArg (fun y : BitVec w => y.getLsbD n) h0
    simp only [BitVec.getLsbD_and, shifted_getLsbD h] at hb
    simpa using hb
  · intro h0
    refine BitVec.eq_of_getLsbD_eq fun i hi => ?_
    rw [BitVec.getLsbD_and, shifted_getLsbD hi]
    by_cases e : i = n
    · rw [e, h0]
      simp
    · simp [e]

/-- Rows that pass a state by leave it. -/
theorem runRows_pass {fs : List (State → Host.Outcome State Fault Refusal)} (h : ∀ f ∈ fs, f s = .next s) : runRows fs s = .next s := by
  induction fs with
  | nil => rfl
  | cons f fs ih =>
    rw [runRows, h f (by simp)]
    exact ih fun g hg => h g (by simp [hg])

theorem runRows_next {f : State → Host.Outcome State Fault Refusal} {fs : List (State → Host.Outcome State Fault Refusal)} {t : State}
    (h : f s = .next t) : runRows (f :: fs) s = runRows fs t := by
  rw [runRows, h]

/-- A row passes a packet of another opcode by. -/
theorem RowOutcome.passes {c : Cmd} {op : Nat} {own : Bool} {o : Host.Outcome State Fault Refusal} (h : RowOutcome s c op own o)
    (hop : c.opcode ≠ op) : o = .next s := by
  obtain ⟨sel, -, ⟨feats, body, rfl⟩ | ⟨body, rfl⟩⟩ := h
  · simp [State.subRow, State.row, hop]
  · simp [State.powerRow, State.subRow, State.row, hop]

/-- The rows that PF0 may send pass a NOP by, but for its own. -/
theorem pf0Rows_nop {c : Cmd} (doc : AdmissionDoc) (ans : Bool) (b : Bundle) (chain : List (BitVec 128)) (hop : c.opcode = 0)
    (s : State) : runRows (pf0Rows c doc ans b chain).tail s = .next s := by
  have hpass {i : Instr} {op : Nat} {own : Bool} (h : hostRow i = some (c, op, own)) (hne : (0 : Nat) ≠ op) : exec i s = .next s :=
    (hostRow_exec h s).passes (by rw [hop]; exact hne)
  refine runRows_pass ?_
  simp only [pf0Rows, List.tail_cons, List.forall_mem_cons]
  refine ⟨hpass (i := .negotiate c) rfl (by decide), hpass (i := .identify c) rfl (by decide),
    hpass (i := .ctxOpen c) rfl (by decide), hpass (i := .ctxClose c) rfl (by decide),
    hpass (i := .ctxReset c) rfl (by decide), hpass (i := .ctxQuery c) rfl (by decide),
    hpass (i := .lineConfigLine c) rfl (by decide), hpass (i := .lineConfigTrigger c) rfl (by decide),
    hpass (i := .linePosition c) rfl (by decide), hpass (i := .pegArm c) rfl (by decide),
    hpass (i := .pegDisarm c) rfl (by decide), hpass (i := .attest c ans) rfl (by decide),
    hpass (i := .keyRotate c) rfl (by decide), hpass (i := .create c doc) rfl (by decide),
    hpass (i := .join c doc ans) rfl (by decide), hpass (i := .leave c) rfl (by decide),
    hpass (i := .rekey c doc) rfl (by decide), hpass (i := .fwStage c b chain) rfl (by decide),
    hpass (i := .live c) rfl (by decide), hpass (i := .nextStart c) rfl (by decide), hpass (i := .fwStatus c) rfl (by decide),
    hpass (i := .quiesce c) rfl (by decide), hpass (i := .drain c) rfl (by decide), hpass (i := .resume c) rfl (by decide),
    hpass (i := .setCap c) rfl (by decide), hpass (i := .setRamp c) rfl (by decide), hpass (i := .heartbeat c) rfl (by decide),
    hpass (i := .doze c) rfl (by decide), hpass (i := .wake c) rfl (by decide), hpass (i := .setLimits c) rfl (by decide),
    hpass (i := .powerQuery c) rfl (by decide), hpass (i := .telemetrySnapshot c) rfl (by decide),
    hpass (i := .lifetimeRead c) rfl (by decide), hpass (i := .checkConfig c) rfl (by decide),
    hpass (i := .checkQuery c) rfl (by decide), hpass (i := .setMode c) rfl (by decide),
    hpass (i := .tableEntry c) rfl (by decide), hpass (i := .port c) rfl (by decide), hpass (i := .dropPeer c) rfl (by decide),
    hpass (i := .linkQuery c) rfl (by decide), ?_, ?_, by simp⟩
  · exact congrArg (fun t : State => (.next t : Host.Outcome State Fault Refusal)) (if_neg (by rw [hop]; decide))
  · exact congrArg (fun t : State => (.next t : Host.Outcome State Fault Refusal)) (if_pos (by rw [hop]; decide))

end

end Sys2Proof.Machine

namespace Sys2Proof
open Machine

/-- Settles O38. -/
theorem configurationPath : Obligations.ConfigurationPath := by
  unfold Obligations.ConfigurationPath
  refine ⟨?early, ?vfs, ?linkUp, ?doe, ?fails, ?insecure, ?outside, ?eid, ?pcieEid, ?nop⟩
  case early =>
    intro fn v s hp hl hst
    exact congrArg (fun t : State => (.next t : Host.Outcome State Fault Refusal)) ((if_neg (by simp [hp, hl])).trans (if_pos hst))
  case vfs =>
    intro s hp hl hst
    exact congrArg (fun t : State => (.next t : Host.Outcome State Fault Refusal))
      ((if_neg (by simp [hp, hl])).trans (if_neg (Nat.not_lt.2 hst)))
  case linkUp =>
    intro speed width s hp hr hst hl hlo hhi hw
    refine congrArg (fun t : State => (.next t : Host.Outcome State Fault Refusal)) (if_neg ?_)
    simpa [hp, hr, hl, hlo, hhi, Nat.not_lt.2 hst] using fun h4 h8 => (hw.resolve_left h4).resolve_left h8
  case doe =>
    intro fn secure s hp hl hst
    let b : BitVec 17 := 1 <<< fn.val
    let u := (s.updHost fun h => { h with mctpAnswered := h.mctpAnswered + 1 }).updSec fun x =>
      { x with ideSecure := if secure && s.host.flit then x.ideSecure ||| b
                            else if secure then x.ideSecure else x.ideSecure &&& ~~~b }
    have e : exec (.doeRequest fn secure) s = .next u :=
      congrArg (fun t : State => (.next t : Host.Outcome State Fault Refusal)) (if_neg (by simp [hp, hl, hst]))
    have hbits (j : Nat) : u.sec.ideSecure.getLsbD j = if j = fn.val then secure && (s.host.flit || s.sec.ideSecure.getLsbD fn.val)
        else s.sec.ideSecure.getLsbD j := by
      show BitVec.getLsbD (if secure && s.host.flit then s.sec.ideSecure ||| BitVec.ofNat 17 (1 <<< fn.val)
        else if secure then s.sec.ideSecure else s.sec.ideSecure &&& ~~~(BitVec.ofNat 17 (1 <<< fn.val))) j = _
      cases secure with
      | false =>
        rw [if_neg (by simp), if_neg (by simp), andNot_shifted_getLsbD]
        by_cases hj : j = fn.val <;> simp [hj]
      | true =>
        cases s.host.flit with
        | false =>
          rw [if_neg (by simp), if_pos rfl]
          by_cases hj : j = fn.val <;> simp [hj]
        | true =>
          rw [if_pos (c := (true && true) = true) rfl, or_shifted_getLsbD _ fn.isLt]
          by_cases hj : j = fn.val <;> simp [hj]
    refine ⟨u, e, rfl, rfl, (hbits _).trans (if_pos rfl), fun j hj => (hbits j).trans (if_neg hj), Within.keeps (by simp [u])⟩
  case fails =>
    intro fn s h
    have e : exec (.ideIntegrityFail fn) s = .next ((s.updSec fun x =>
        { x with ideSecure := x.ideSecure &&& ~~~(BitVec.ofNat 17 (1 <<< fn.val)), ideFail := x.ideFail ||| BitVec.ofNat 17 (1 <<< fn.val) }).doorbell 0 16) :=
      congrArg (fun t : State => (.next t : Host.Outcome State Fault Refusal))
        (if_neg fun h0 => Bool.noConfusion (h.symm.trans ((and_shifted_eq_zero _ fn.isLt).1 h0)))
    refine ⟨_, e, ?_, ?_, State.doorbell_pends _ 0 (by decide), fun j hj => ⟨?_, ?_⟩, Within.keeps (by simp)⟩
    · rw [State.doorbell_sec, State.updSec_sec, andNot_shifted_getLsbD, decide_eq_false (by simp), Bool.and_false]
    · rw [State.doorbell_sec, State.updSec_sec, or_shifted_getLsbD _ fn.isLt, decide_eq_true rfl, Bool.or_true]
    · rw [State.doorbell_sec, State.updSec_sec, andNot_shifted_getLsbD, decide_eq_true hj, Bool.and_true]
    · rw [State.doorbell_sec, State.updSec_sec, or_shifted_getLsbD _ fn.isLt, decide_eq_false hj, Bool.or_false]
  case insecure =>
    intro fn s h
    exact congrArg (fun t : State => (.next t : Host.Outcome State Fault Refusal)) (if_pos ((and_shifted_eq_zero _ fn.isLt).2 h))
  case outside =>
    intro fn s h
    refine congrArg (fun t : State => (.next t : Host.Outcome State Fault Refusal)) (if_neg fun h0 => ?_)
    exact Bool.noConfusion (h.symm.trans ((and_shifted_eq_zero _ fn.isLt).1 h0))
  case eid =>
    intro eid s hp
    exact if_neg (by simp [hp])
  case pcieEid =>
    intro eid s hp hl hst
    refine (if_neg (by simp [hp])).trans ?_
    exact congrArg (fun t : State => (.next t : Host.Outcome State Fault Refusal)) (if_pos (by simp [hl, hst]))
  case nop =>
    intro bytes doc ans b chain s h
    let c : Cmd := { fn := 0, ring := 8, bytes }
    obtain ⟨⟨⟨⟨hop, hf⟩, -⟩, -⟩, -⟩ : (((c.opcode = 0 ∧ s.fetchable c = true) ∧ _) ∧ _) ∧ _ := by simpa [accepts] using h
    have hp : s.board.powered = true := eq_true_of_ne_false fun hp => by
      simp [State.fetchable, hp] at hf
    show execMctpMessage (.command bytes doc ans b chain) s = _
    unfold execMctpMessage
    rw [if_neg (by simp [hp])]
    exact (runRows_next (f := execNop c) rfl).trans (pf0Rows_nop doc ans b chain hop _)

end Sys2Proof

/-! Function resets (O39). -/

namespace Sys2Proof.Machine

section
variable {s t u : State}

/-! ### Function resets (15, R429) -/

/-- A table read after its entries were kept or dropped by their keys. -/
theorem Tbl.get_filter_key {α : Type} [Inhabited α] (t : Tbl α) (p : Nat → Bool) (k : Nat) :
    Tbl.get (t.filter fun e => p e.1) k = if p k then t.get k else default := by
  induction t with
  | nil => simp
  | cons e t ih =>
    obtain ⟨j, v⟩ := e
    by_cases hj : j = k
    · subst hj
      by_cases hp : p j <;> simp [hp, Tbl.get, ih]
    · by_cases hp : p j <;> simp [hp, Tbl.get, ih, hj]

theorem State.resetWindow_host (f : Nat) : (s.resetWindow f).host = { s.host with
    funcs := s.host.funcs.set f {}
    rings := s.host.rings.filter fun e => e.1 < ringKey f 0 || ringKey f 8 ≤ e.1 } := by
  unfold State.resetWindow
  dsimp only
  split <;> rfl

theorem State.resetWindow_ring (f g : Nat) {n : Nat} (hn : n < 9) :
    (s.resetWindow f).ring g n = if g = f ∧ n < 8 then {} else s.ring g n := by
  rw [State.ring, State.resetWindow_host]
  refine (Tbl.get_filter_key _ (fun k => decide (k < ringKey f 0) || decide (ringKey f 8 ≤ k)) _).trans ?_
  by_cases h : g = f ∧ n < 8
  · obtain ⟨rfl, h8⟩ := h
    have hk : ¬ (decide (ringKey g n < ringKey g 0) || decide (ringKey g 8 ≤ ringKey g n)) = true := by
      rw [Bool.or_eq_true, decide_eq_true_eq, decide_eq_true_eq]
      unfold ringKey
      omega
    rw [if_neg hk, if_pos (show g = g ∧ n < 8 from And.intro rfl h8)]
    rfl
  · have hk : (decide (ringKey g n < ringKey f 0) || decide (ringKey f 8 ≤ ringKey g n)) = true := by
      rw [not_and] at h
      rw [Bool.or_eq_true, decide_eq_true_eq, decide_eq_true_eq]
      unfold ringKey
      by_cases hg : g = f
      · have := h hg
        omega
      · omega
    rw [if_neg h, if_pos hk]
    rfl

theorem State.resetWindow_func (f g : Nat) : (s.resetWindow f).func g = if g = f then {} else s.func g := by
  rw [State.func, State.resetWindow_host]
  simp only [Tbl.get_set]
  rfl

theorem State.resetWindow_ctx (f i : Nat) :
    (s.resetWindow f).ctx i = if f ≠ 0 ∧ i = f - 1 then { s.ctx i with tbRing := [] } else s.ctx i := by
  unfold State.resetWindow
  by_cases hf : f = 0
  · simp [hf]
  · simp only [hf, if_false, State.updCtx_ctx]
    by_cases hi : i = f - 1
    · rw [if_pos hi, if_pos ⟨hf, hi⟩, hi]
      rfl
    · rw [if_neg hi, if_neg (fun h => hi h.2)]
      rfl

theorem State.resetWindow_inflight (f : Nat) : (s.resetWindow f).host.inflight = s.host.inflight := by
  rw [State.resetWindow_host]

theorem State.resetWindow_vfEnable (f : Nat) : (s.resetWindow f).host.linkUp = s.host.linkUp := by
  rw [State.resetWindow_host]

theorem State.dropInflight_host (p : Inflight → Bool) :
    (s.dropInflight p).host = { s.host with inflight := s.host.inflight.filter fun i => !p i } :=
  Within.same (a := s.updHost fun h => { h with inflight := h.inflight.filter fun i => !p i }) (l := [.tel])
    (by simp [State.dropInflight, foldS_within]) .host (by decide)

theorem foldS_resetWindow_ring (l : List Nat) (g : Nat) {n : Nat} (hn : n < 9) :
    (foldS l (fun s f => s.resetWindow f) s).ring g n = if g ∈ l ∧ n < 8 then {} else s.ring g n := by
  induction l generalizing s with
  | nil => simp
  | cons f l ih =>
    rw [foldS_cons, ih, State.resetWindow_ring f g hn]
    by_cases hl : g ∈ l ∧ n < 8
    · rw [if_pos hl, if_pos ⟨List.mem_cons_of_mem _ hl.1, hl.2⟩]
    · by_cases hf : g = f ∧ n < 8
      · rw [if_neg hl, if_pos hf, if_pos ⟨by simp [hf.1], hf.2⟩]
      · rw [if_neg hl, if_neg hf, if_neg]
        rintro ⟨hm, h8⟩
        obtain rfl | hm := List.mem_cons.1 hm
        · exact hf ⟨rfl, h8⟩
        · exact hl ⟨hm, h8⟩

theorem foldS_resetWindow_stays (l : List Nat) :
    (foldS l (fun s f => s.resetWindow f) s).host.inflight = s.host.inflight ∧
      (foldS l (fun s f => s.resetWindow f) s).host.linkUp = s.host.linkUp ∧
      ∀ i, ((foldS l (fun s f => s.resetWindow f) s).ctx i).st = (s.ctx i).st := by
  induction l generalizing s with
  | nil => exact ⟨rfl, rfl, fun _ => rfl⟩
  | cons f l ih =>
    obtain ⟨hi, hl, hst⟩ := ih (s := s.resetWindow f)
    rw [foldS_cons]
    refine ⟨hi.trans (s.resetWindow_inflight f), hl.trans (s.resetWindow_vfEnable f), fun i => (hst i).trans ?_⟩
    rw [State.resetWindow_ctx]
    split <;> rfl

/-- With nothing in flight that waits for it, a completion of everything completes nothing. -/
theorem State.completeAll_none {p : WaitFor → Bool} (g : Inflight → Reply) (h : ∀ i ∈ s.host.inflight, p i.wait = false) :
    s.completeAll p g = s := by
  have hnil : (s.host.inflight.filter fun i => p i.wait) = [] := List.filter_eq_nil_iff.2 fun i hi => by simp [h i hi]
  rw [State.completeAll, hnil]
  rfl

theorem State.checkQuiesced_none (h : ∀ i ∈ s.host.inflight, i.wait ≠ .quiesced) : s.checkQuiesced = s := by
  unfold State.checkQuiesced
  split
  · exact State.completeAll_none _ fun i hi => by simpa using h i hi
  · rfl

theorem State.checkDrained_of_ne (h : s.glb.state ≠ .draining) : s.checkDrained = s := if_pos h

/-- With every context FREE and no quiesce under way, the contexts have nothing to close. -/
theorem State.closeNone (hfree : ∀ i, i < 16 → (s.ctx i).st = .free) (hst : s.glb.state = .ready)
    (hwait : ∀ i ∈ s.host.inflight, i.wait ≠ .quiesced) :
    ((foldS allCtxs (fun s c => if (s.ctx c).st = .free then s else s.closeCtx c) s).checkDrained).checkQuiesced = s := by
  have hnone : foldS allCtxs (fun s c => if (s.ctx c).st = .free then s else s.closeCtx c) s = s :=
    foldS_unchanged _ _ fun c hc => if_pos (hfree c (mem_allCtxs.1 hc))
  rw [hnone, State.checkDrained_of_ne (by rw [hst]; decide), State.checkQuiesced_none hwait]

/-- The host interface with the rings' commands dropped, the windows of `l` reset and the VFs off. -/
def State.windowsReset (s : State) (l : List Nat) : State :=
  (foldS l (fun s f => s.resetWindow f) (s.dropInflight fun i => i.ring != 8)).updHost fun h => { h with vfEnable := false }

theorem State.windowsReset_within (l : List Nat) : Within [.host, .ctxs, .tel] s (s.windowsReset l) := by
  simp [State.windowsReset, foldS_within]

theorem State.windowsReset_st (l : List Nat) (i : Nat) : ((s.windowsReset l).ctx i).st = (s.ctx i).st := by
  obtain ⟨-, -, hst⟩ := foldS_resetWindow_stays (s := s.dropInflight fun i => i.ring != 8) l
  refine (hst i).trans ?_
  rw [State.ctx, State.ctx, show (s.dropInflight fun i => i.ring != 8).ctxs = s.ctxs from
    Within.same (l := [.tel, .host]) (by simp [State.dropInflight, foldS_within]) .ctxs (by decide)]

theorem State.windowsReset_inflight (l : List Nat) :
    (s.windowsReset l).host.inflight = s.host.inflight.filter fun i => i.ring = 8 := by
  obtain ⟨hi, -, -⟩ := foldS_resetWindow_stays (s := s.dropInflight fun i => i.ring != 8) l
  refine hi.trans ?_
  rw [State.dropInflight_host]
  refine List.filter_congr fun i _ => ?_
  by_cases h : i.ring = 8 <;> simp [h]

theorem State.windowsReset_linkUp (l : List Nat) : (s.windowsReset l).host.linkUp = s.host.linkUp := by
  obtain ⟨-, hl, -⟩ := foldS_resetWindow_stays (s := s.dropInflight fun i => i.ring != 8) l
  refine hl.trans ?_
  rw [State.dropInflight_host]

theorem State.windowsReset_ring (l : List Nat) (g : Nat) {n : Nat} (hn : n < 9) :
    (s.windowsReset l).ring g n = if g ∈ l ∧ n < 8 then {} else s.ring g n := by
  refine (foldS_resetWindow_ring l g hn).trans ?_
  rw [State.ring, State.ring, State.dropInflight_host]

/-- A reset of the host interface with every context FREE resets the windows and turns the VFs off, and nothing else. -/
theorem State.resetHost_free (hst : s.glb.state = .ready) (hctx : ∀ i, i < 16 → (s.ctx i).st = .free)
    (hwait : ∀ i ∈ s.host.inflight, i.wait ≠ .quiesced) : s.resetHost = s.windowsReset (upto 17) := by
  refine State.closeNone (s := s.windowsReset (upto 17)) (fun i hi => ?_) ?_ fun i hi => ?_
  · rw [State.windowsReset_st, hctx i hi]
  · rw [(s.windowsReset_within _).same .glb (by decide), hst]
  · rw [State.windowsReset_inflight] at hi
    exact hwait i (List.mem_filter.1 hi).1

theorem State.doorbell_func_other {f g : Nat} (h : g ≠ f) (j : Nat) : (s.doorbell f j).func g = s.func g := by
  unfold State.doorbell
  dsimp only
  split
  · rfl
  · split
    · exact State.updFunc_func_ne s f _ g h
    · exact State.updFunc_func_ne s f (fun w => { w with dbPend := w.dbPend ||| (1 <<< j) }) g h

/-- What a reset of context `x` leaves to the others while nothing is in flight and no key of `x` rotates: the queue of commands
in flight, the rings, the window of `x`'s function, the module's state, every other context. -/
def Calm (x : Nat) (s t : State) : Prop :=
  s.host.inflight = [] → (s.sec.keys.get x).rotating = false →
    t.host.inflight = [] ∧ (t.sec.keys.get x).rotating = false ∧ t.host.rings = s.host.rings ∧ t.func (x + 1) = s.func (x + 1) ∧
      t.glb = s.glb ∧ ∀ i, i ≠ x → t.ctx i = s.ctx i

namespace Calm
variable {x : Nat}

theorem refl (s : State) : Calm x s s := fun h hr => ⟨h, hr, rfl, rfl, rfl, fun _ _ => rfl⟩

theorem trans (h : Calm x s t) (k : Calm x t u) : Calm x s u := by
  intro hi hr
  obtain ⟨hi, hr, hrings, hfunc, hglb, hctx⟩ := h hi hr
  obtain ⟨ki, kr, krings, kfunc, kglb, kctx⟩ := k hi hr
  exact ⟨ki, kr, krings.trans hrings, kfunc.trans hfunc, kglb.trans hglb, fun i n => (kctx i n).trans (hctx i n)⟩

/-- What touches none of those blocks is calm. -/
theorem within {l : List Block} (h : Within l s t) (hh : Block.host ∉ l) (hs : Block.sec ∉ l) (hg : Block.glb ∉ l) (hc : Block.ctxs ∉ l) :
    Calm x s t := by
  have hhost : t.host = s.host := h.same .host hh
  have hsec : t.sec = s.sec := h.same .sec hs
  have hctxs : t.ctxs = s.ctxs := h.same .ctxs hc
  intro hi hr
  exact ⟨by rw [hhost, hi], by rw [hsec, hr], by rw [hhost], by rw [State.func, State.func, hhost], h.same .glb hg,
    fun i _ => by rw [State.ctx, State.ctx, hctxs]⟩

theorem updCtx (f : Ctx → Ctx) : Calm x s (s.updCtx x f) := fun hi hr =>
  ⟨hi, hr, rfl, rfl, rfl, fun i hn => by rw [State.updCtx_ctx, if_neg hn]⟩

/-- A change of `x`'s key that leaves it unrotated. -/
theorem updKey {k : CtxKey} (hk : k.rotating = false) : Calm x s (s.updSec fun y => { y with keys := y.keys.set x k }) :=
  fun hi _ => ⟨hi, by rw [State.updSec_sec]; simp [hk], rfl, rfl, rfl, fun _ _ => rfl⟩

theorem foldS {α : Type} {g : State → α → State} (h : ∀ s a, Calm x s (g s a)) (l : List α) : Calm x s (foldS l g s) := by
  induction l generalizing s with
  | nil => exact refl s
  | cons a l ih => exact (h s a).trans ih

theorem completeAll (p : WaitFor → Bool) (g : Inflight → Reply) : Calm x s (s.completeAll p g) := by
  intro hi hr
  rw [State.completeAll_none g (by simp [hi])]
  exact refl s hi hr

theorem doorbell {f : Nat} (hf : f ≠ x + 1) (j : Nat) : Calm x s (s.doorbell f j) := by
  have hw : Within [.host] s (s.doorbell f j) := by simp
  obtain ⟨funcs, msgs, hh⟩ := s.doorbell_host f j
  refine fun hi hr => ⟨by rw [hh]; exact hi, by rw [hw.same .sec (by decide)]; exact hr, by rw [hh],
    s.doorbell_func_other (Ne.symm hf) j, hw.same .glb (by decide), fun i _ => ?_⟩
  rw [State.ctx, State.ctx, hw.same .ctxs (by decide)]

theorem updSec {f : Sec → Sec} (hk : (s.sec.keys.get x).rotating = false → ((f s.sec).keys.get x).rotating = false) :
    Calm x s (s.updSec f) := fun hi hr => ⟨hi, hk hr, rfl, rfl, rfl, fun _ _ => rfl⟩

theorem retireGen (c : Nat) : Calm x s (s.retireGen c) := by
  by_cases hc : c = x
  · subst hc
    intro hi hr
    have he : s.retireGen c = s := if_neg (by simp [hr])
    rw [he]
    exact refl s hi hr
  · unfold State.retireGen
    dsimp only
    split
    · refine ((updSec fun hr => ?_).trans (doorbell (by omega) 16)).trans (doorbell (by omega) 16)
      rw [Tbl.get_set, if_neg (Ne.symm hc)]
      exact hr
    · exact refl s

theorem unitLeave (c : Nat) (k : Bool) : Calm x s (s.unitLeave c k) :=
  (within (l := [.tel]) (by simp) (by decide) (by decide) (by decide) (by decide)).trans (retireGen c)

theorem pageFree (p : Nat) : Calm x s (s.pageFree p) := by
  unfold State.pageFree
  extract_lets g c u w
  have hu : Calm x s u := (within (l := [.tel]) (t := s.consAdd (cid 0x22 c) 1) (by simp) (by decide) (by decide) (by decide)
    (by decide)).trans (unitLeave c _)
  have hw : Calm x u w := by
    unfold w
    split
    · exact within (l := [.mem]) (by simp) (by decide) (by decide) (by decide) (by decide)
    · exact refl u
  exact (hu.trans hw).trans (within (l := [.kvp]) (by simp) (by decide) (by decide) (by decide) (by decide))

theorem resetPages : Calm x s (s.resetPages x) := by
  unfold State.resetPages
  extract_lets u v
  have hu : Calm x s u := by
    refine foldS (fun s e => ?_) _
    split
    · exact refl s
    · exact pageFree e.1
    · exact (within (l := [.tel, .kvp]) (by simp) (by decide) (by decide) (by decide) (by decide)).trans (pageFree e.1)
  have hv : Calm x u v := foldS (fun s j => within (l := [.kvp]) (by simp) (by decide) (by decide) (by decide) (by decide)) _
  exact (hu.trans hv).trans (updCtx _)

theorem resetTsu : Calm x s (s.resetTsu x) := by
  unfold State.resetTsu
  extract_lets ps u
  have hu : Calm x s u := foldS (fun s e => ((within (l := [.tsu]) (by simp) (by decide) (by decide) (by decide) (by decide)).trans
    (completeAll _ _)).trans (completeAll _ _)) _
  exact hu.trans (within (l := [.tsu]) (by simp) (by decide) (by decide) (by decide) (by decide))

theorem updMem (f : Mem → Mem) : Calm x s (s.updMem f) := fun hi hr => ⟨hi, hr, rfl, rfl, rfl, fun _ _ => rfl⟩

theorem updKvp (f : Kvp → Kvp) : Calm x s (s.updKvp f) :=
  within (l := [.kvp]) (by simp) (by decide) (by decide) (by decide) (by decide)

theorem consAdd (k n : Nat) : Calm x s (s.consAdd k n) :=
  within (l := [.tel]) (by simp) (by decide) (by decide) (by decide) (by decide)

theorem updAcct (k : Nat) (f : Account → Account) : Calm x s (s.updAcct x k f) := updCtx _

theorem unmapPage (v : Nat) : Calm x s (s.unmapPage x v) := by
  unfold State.unmapPage
  extract_lets e u
  have hu : Calm x s u := by
    unfold u
    split
    · exact (unitLeave x _).trans (updMem _)
    · exact refl s
  exact hu.trans (within (t := u.setXlat x v {}) (l := [.mem]) (by simp) (by decide) (by decide) (by decide) (by decide))

theorem unmapAll : Calm x s (s.unmapAll x) := foldS (fun _ v => unmapPage v) _

theorem switchGen : Calm x s (s.switchGen x) := by
  intro hi hr
  unfold State.switchGen
  dsimp only
  split
  · exact (((updKey (by exact hr)).trans (completeAll _ _)).trans (retireGen x)) hi hr
  · exact refl s hi hr

theorem freeCtx : Calm x s (s.freeCtx x) := by
  unfold State.freeCtx
  extract_lets a b p d e f g u
  have ha : Calm x s a := foldS (fun s k => (updAcct k _).trans (consAdd _ _)) _
  have hb : Calm x a b := unmapAll
  have he : Calm x b e := (updKvp _).trans (updKvp _)
  have hf : Calm x e f := foldS (fun s j => (updMem fun m => m.wipe (s.granuleKey j) (s.granuleKey j + 16384)).trans
    (updKvp _)) _
  have hg : Calm x f g := updKey rfl
  have hu : Calm x g u := fun hi hr => ⟨hi, hr, rfl, rfl, rfl, fun i hn => by
    simp [State.ctx, u, Tbl.get_set, hn]⟩
  exact ((((ha.trans hb).trans he).trans hf).trans hg).trans (hu.trans (completeAll _ _))

theorem tryResetDone : Calm x s (s.tryResetDone x) := by
  unfold State.tryResetDone
  extract_lets close u v
  split
  · have hv : Calm x s v := (updCtx _).trans (completeAll _ _)
    split
    · exact hv.trans freeCtx
    · exact hv
  · exact refl s

end Calm

/-- A context that holds no image, no weight and no pin. -/
def Ctx.Bare (x : Ctx) : Prop := x.images = [] ∧ x.weights = [] ∧ x.pins = []

theorem State.ctx_of_within {l : List Block} (h : Within l s t) (hc : Block.ctxs ∉ l) (i : Nat) : t.ctx i = s.ctx i := by
  rw [State.ctx, State.ctx, h.same .ctxs hc]

theorem State.sessionsOf_of_within {l : List Block} (h : Within l s t) (hc : Block.vid ∉ l) (i : Nat) :
    t.sessionsOf i = s.sessionsOf i := by
  rw [State.sessionsOf, State.sessionsOf, h.same .vid hc]

theorem State.resetPages_ctx (x : Nat) : (s.resetPages x).ctx x = { s.ctx x with pins := [], staged := {} } := by
  unfold State.resetPages
  extract_lets u v
  have hv : Within [.kvp, .tel, .host, .sec, .mem] s v := by
    refine (foldS_within _ _ fun s j => State.updKvp_within _ (by decide)).2 ?_
    refine (foldS_within _ _ fun s e => ?_).2 (Within.refl _ s)
    split <;> simp
  rw [State.updCtx_ctx, if_pos rfl, State.ctx_of_within hv (by decide)]

theorem State.writeNostep_none {x : Nat} (h : (s.ctx x).tbEnds = []) :
    s.writeNostep x = s.updCtx x fun y => { y with tbEnds := [] } := by
  unfold State.writeNostep
  rw [h]
  rfl

theorem State.freeCtx_ctx (x : Nat) : (s.freeCtx x).ctx x = {} := by
  unfold State.freeCtx
  extract_lets a b p d e f g u
  have hw : Within [.host, .tel] u (u.completeAll (fun w => w == .ctxClose x) fun _ => .of stOk) := by simp
  rw [State.ctx_of_within hw (by decide)]
  simp [State.ctx, u]

theorem State.tryResetDone_bare {x : Nat} (h : (s.ctx x).Bare) : ((s.tryResetDone x).ctx x).Bare := by
  unfold State.tryResetDone
  extract_lets close u v
  have hv : (v.ctx x).Bare := by
    have hw : Within [.host, .tel] u v := by simp [v]
    rw [State.ctx_of_within hw (by decide), State.updCtx_ctx, if_pos rfl]
    exact h
  split
  · split
    · rw [State.freeCtx_ctx]
      exact ⟨rfl, rfl, rfl⟩
    · exact hv
  · exact h

/-- A reset of a context that has no work and no session: nothing of another context, of the rings or of the module's state
moves, and it holds no image, weight or pin after it. -/
theorem State.resetCtx_idle {x : Nat} (hsteps : (s.ctx x).steps = []) (hreqs : (s.ctx x).reqs = []) (hjobs : (s.ctx x).jobs = [])
    (hsess : s.sessionsOf x = []) : Calm x s (s.resetCtx x) ∧ ((s.resetCtx x).ctx x).Bare := by
  unfold State.resetCtx
  extract_lets a b c d e f g h i j k l m n o
  have hac : Calm x s a := Calm.updCtx _
  have hax : (a.ctx x).steps = [] ∧ (a.ctx x).reqs = [] ∧ (a.ctx x).jobs = [] ∧ (a.ctx x).tbEnds = [] := by
    simp only [a, State.updCtx_ctx, if_true]
    exact ⟨hsteps, hreqs, hjobs, trivial⟩
  obtain ⟨ha, har, haj, hat⟩ := hax
  have hb : b = a.updCtx x fun y => { y with next := none } := by
    unfold b
    rw [ha]
  have hbc : Calm x a b := hb ▸ Calm.updCtx _
  have hbx : (b.ctx x).reqs = [] ∧ (b.ctx x).jobs = [] ∧ (b.ctx x).tbEnds = [] := by
    simp only [hb, State.updCtx_ctx, if_true]
    exact ⟨har, haj, hat⟩
  have hd : Within [.dpp, .atn, .arr, .tsu, .dma] b d := by simp [d, c]
  have hdc : Calm x b d := Calm.within hd (by decide) (by decide) (by decide) (by decide)
  rw [← State.ctx_of_within hd (by decide)] at hbx
  obtain ⟨hdr, hdj, hdt⟩ := hbx
  have he : e = d := by
    unfold e
    rw [hdr]
    rfl
  have hf : f = d := by
    unfold f
    rw [he, hdj]
    rfl
  have hg : Calm x d g := hf ▸ Calm.resetPages.trans Calm.resetTsu
  have hgx : (g.ctx x).pins = [] ∧ (g.ctx x).tbEnds = [] := by
    have hw : Within [.host, .tel, .tsu] (f.resetPages x) g := by simp [g]
    rw [State.ctx_of_within hw (by decide), State.resetPages_ctx, hf]
    exact ⟨rfl, hdt⟩
  have hv : g.sessionsOf x = s.sessionsOf x := by
    have h1 : b.sessionsOf x = s.sessionsOf x := by rw [hb]; rfl
    have h2 : Within [.host, .tel, .tsu, .ctxs, .kvp, .sec, .mem] f g := by simp [g]
    rw [State.sessionsOf_of_within h2 (by decide), hf, State.sessionsOf_of_within hd (by decide), h1]
  rw [hsess] at hv
  have hsg : Calm x s g := (hac.trans hbc).trans (hdc.trans hg)
  clear_value g
  have hh : Calm x g h := Calm.updCtx _
  have hhx : (h.ctx x).Bare ∧ (h.ctx x).tbEnds = [] := by
    rw [show h.ctx x = _ from (State.updCtx_ctx ..).trans (if_pos rfl)]
    exact ⟨⟨rfl, rfl, hgx.1⟩, hgx.2⟩
  have hhv : h.sessionsOf x = [] := hv
  clear_value h
  have hl : Within [.arr, .atn, .vid] h l := by
    have hk : Within [.arr, .atn, .vid] h k := (State.setAtn_within _ (by decide)).2 (by simp [i])
    simp [l, hk]
  have hlc : Calm x h l := Calm.within hl (by decide) (by decide) (by decide) (by decide)
  have hlv : l.sessionsOf x = [] := hhv
  have hlx : l.ctx x = h.ctx x := State.ctx_of_within hl (by decide) x
  clear_value l
  have hm : m = l := by
    unfold m
    rw [hlv]
    rfl
  have hn : Calm x l n := by
    unfold n
    rw [hm]
    split
    · exact Calm.unmapAll
    · exact Calm.refl l
  have hnx : n.ctx x = h.ctx x := by
    have hw : Within [.mem, .tel, .sec, .host] l n := by
      unfold n
      rw [hm]
      split <;> simp
    rw [State.ctx_of_within hw (by decide), hlx]
  clear_value n
  have hw : n.writeNostep x = n.updCtx x fun y => { y with tbEnds := [] } :=
    State.writeNostep_none (by rw [hnx]; exact hhx.2)
  have ho : Calm x n o := by
    unfold o
    rw [hw]
    exact (Calm.updCtx _).trans Calm.switchGen
  have hox : (o.ctx x).Bare := by
    have hs : Within [.sec, .host, .tel] (n.updCtx x fun y => { y with tbEnds := [] }) o := by simp [o, hw]
    rw [State.ctx_of_within hs (by decide), State.updCtx_ctx, if_pos rfl, hnx]
    exact hhx.1
  exact ⟨((((hsg.trans hh).trans hlc).trans hn).trans ho).trans Calm.tryResetDone, State.tryResetDone_bare hox⟩

end

/-- A VF's window as its FLR leaves it, before its context is reset. -/
def State.flrWindow (s : State) (c : Nat) : State := (s.dropInflight fun i => i.fn == c + 1).resetWindow (c + 1)

section
variable (s : State) (c : Nat)

theorem State.flrWindow_within : Within [.host, .ctxs, .tel] s (s.flrWindow c) := by
  simp [State.flrWindow, State.dropInflight, foldS_within]

theorem State.flrWindow_func : (s.flrWindow c).func (c + 1) = {} := (State.resetWindow_func ..).trans (if_pos rfl)

theorem State.flrWindow_ring {n : Nat} (hn : n < 8) : (s.flrWindow c).ring (c + 1) n = {} :=
  (State.resetWindow_ring _ _ (by omega)).trans (if_pos ⟨rfl, hn⟩)

theorem State.flrWindow_ring_other {f n : Nat} (hn : n < 9) (hf : f ≠ c + 1) : (s.flrWindow c).ring f n = s.ring f n := by
  refine (State.resetWindow_ring _ _ hn).trans ((if_neg fun h => hf h.1).trans ?_)
  rw [State.ring, State.ring, State.dropInflight_host]

theorem State.flrWindow_inflight : (s.flrWindow c).host.inflight = s.host.inflight.filter fun i => i.fn ≠ c + 1 := by
  rw [State.flrWindow, State.resetWindow_inflight, State.dropInflight_host]
  refine List.filter_congr fun i _ => ?_
  by_cases h : i.fn = c + 1 <;> simp [h]

theorem State.flrWindow_ctx (i : Nat) :
    (s.flrWindow c).ctx i = if i = c then { s.ctx i with tbRing := [] } else s.ctx i := by
  have hw : Within [.tel, .host] s (s.dropInflight fun i => i.fn == c + 1) := by simp [State.dropInflight, foldS_within]
  rw [State.flrWindow, State.resetWindow_ctx, State.ctx_of_within hw (by decide)]
  by_cases h : i = c <;> simp [h]

theorem State.flrWindow_st : ((s.flrWindow c).ctx c).st = (s.ctx c).st := by
  rw [State.flrWindow_ctx, if_pos rfl]

end

theorem exec_flrVf (s : State) (x : CtxId) (hp : s.board.powered = true) : exec (.flrVf x) s = .next
    (match ((s.flrWindow x.val).ctx x.val).st with
    | .free | .opening | .resetting => s.flrWindow x.val
    | _ => (((s.flrWindow x.val).resetCtx x.val).checkDrained).checkQuiesced) :=
  congrArg (fun t : State => (.next t : Host.Outcome State Fault Refusal)) (if_neg (by simp [hp]))

end Sys2Proof.Machine

namespace Sys2Proof
open Machine

/-- Settles O39: a function's reset is `flrWindow` and, for an open context, `resetCtx_idle`; PF0's and the link's are
`resetHost_free`. -/
theorem functionResets : Obligations.FunctionResets := by
  unfold Obligations.FunctionResets
  refine ⟨fun x s hp hst => ?_, fun x s hp hg hst hsteps hreqs hjobs hsess hi hr => ?_, fun vf s hp hg hctx hwait => ?_,
    fun s hp hl hg hctx hwait => ?_⟩
  · have he : exec (.flrVf x) s = .next (s.flrWindow x.val) := by
      rw [exec_flrVf s x hp, State.flrWindow_st]
      simp only [List.mem_cons, List.not_mem_nil, or_false] at hst
      rcases hst with h | h | h <;> rw [h]
    refine ⟨_, he, s.flrWindow_func _, fun n hn => s.flrWindow_ring _ hn, fun f n hn hf => s.flrWindow_ring_other _ hn hf,
      s.flrWindow_inflight _, ?_, fun i hi => ?_, (s.flrWindow_within _).keeps⟩
    · rw [State.flrWindow_ctx, if_pos rfl]
    · rw [State.flrWindow_ctx, if_neg hi]
  · obtain ⟨u, hu⟩ : ∃ u, u = s.flrWindow x.val := ⟨_, rfl⟩
    have hux : u.ctx x.val = { s.ctx x.val with tbRing := [] } := by rw [hu, State.flrWindow_ctx, if_pos rfl]
    have huw : Within [.host, .ctxs, .tel] s u := hu ▸ s.flrWindow_within _
    have hui : u.host.inflight = [] := by rw [hu, State.flrWindow_inflight, hi]; rfl
    obtain ⟨hcalm, himages, hweights, hpins⟩ := State.resetCtx_idle (s := u) (x := x.val) (by rw [hux]; exact hsteps)
      (by rw [hux]; exact hreqs) (by rw [hux]; exact hjobs) (by rw [State.sessionsOf_of_within huw (by decide), hsess])
    obtain ⟨hti, -, hrings, hfunc, hglb, hctx⟩ := hcalm hui (by rw [huw.same .sec (by decide)]; exact hr)
    have hring : ∀ f n, (u.resetCtx x.val).ring f n = u.ring f n := fun f n => by rw [State.ring, State.ring, hrings]
    have he : exec (.flrVf x) s = .next (u.resetCtx x.val) := by
      rw [exec_flrVf s x hp, State.flrWindow_st, ← hu]
      have hd : (u.resetCtx x.val).checkDrained = u.resetCtx x.val := State.checkDrained_of_ne (by
        rw [hglb, huw.same .glb (by decide), hg]
        decide)
      have hq : (u.resetCtx x.val).checkQuiesced = u.resetCtx x.val := State.checkQuiesced_none (by simp [hti])
      rcases hst with h | h <;> rw [h, hd, hq]
    refine ⟨_, he, ?_, fun n hn => ?_, fun f n hn hf => ?_, himages, hweights, hpins, fun i hi => ?_⟩
    · rw [hfunc, hu, State.flrWindow_func]
    · rw [hring, hu, State.flrWindow_ring _ _ hn]
    · rw [hring, hu, State.flrWindow_ring_other _ _ hn hf]
    · rw [hctx i hi, hu, State.flrWindow_ctx, if_neg hi]
  · have he : exec (.flrPf0 vf) s = .next (s.windowsReset (upto 17)) := by
      rw [← State.resetHost_free hg hctx hwait]
      exact congrArg (fun t : State => (.next t : Host.Outcome State Fault Refusal)) (if_pos hp)
    refine ⟨_, he, rfl, fun f n hf hn => ?_, ?_, s.windowsReset_inflight _, s.windowsReset_linkUp _,
      (State.windowsReset_within _).keeps⟩
    · rw [State.windowsReset_ring _ _ (by omega), if_pos ⟨List.mem_range.2 hf, hn⟩]
    · rw [State.windowsReset_ring _ _ (by omega), if_neg (by simp)]
  · obtain ⟨u, hu⟩ : ∃ u, u = s.windowsReset (upto 17) := ⟨_, rfl⟩
    have huw : Within [.host, .ctxs, .tel] s u := hu ▸ State.windowsReset_within _
    have huv : u.host.vfEnable = false := by rw [hu]; rfl
    have he : exec .linkLoss s = .next ((u.updHost fun h =>
        { h with linkUp := false, flit := false, speed := 0, width := 0, linkLossEvt := true }).lifetime 0x0071 []) := by
      rw [hu, ← State.resetHost_free hg hctx hwait]
      exact congrArg (fun t : State => (.next t : Host.Outcome State Fault Refusal)) (if_neg (by simp [hp, hl]))
    refine ⟨_, he, rfl, rfl, huv, fun f n hf hn => ?_, ?_, ?_, Within.keeps (by simp [huw])⟩
    · refine (show _ = u.ring f n from rfl).trans ?_
      rw [hu, State.windowsReset_ring _ _ (by omega), if_pos ⟨List.mem_range.2 hf, hn⟩]
    · refine (show _ = u.ring 0 8 from rfl).trans ?_
      rw [hu, State.windowsReset_ring _ _ (by omega), if_neg (by simp)]
    · exact congrArg Sec.ideSecure (huw.same .sec (by decide))

end Sys2Proof

/-! Attestation and keys (O41). -/

namespace Sys2Proof.Machine

section
variable {s t u : State}

/-! ### Attestation and keys (14, R381, R384, R394) -/

@[simp] theorem State.fetched_reportLen (c : Cmd) (scope flags : Nat) :
    (s.fetched c).reportLen scope flags = s.reportLen scope flags := by
  simp [State.reportLen]

theorem Verdict.reply_congr {r q : Reply} (hs : s = t) (hr : r = q) : Verdict.reply s r = Verdict.reply t q := by
  rw [hs, hr]

/-- The report of an ATTEST whose buffer holds it. -/
def reportOf (c : Cmd) (s : State) : Report :=
  { scope := c.le 16 1, nonce := (upto 24).map fun i => c.byte (40 + i), time := s.pegTime
    len := s.reportLen (c.le 16 1) (c.le 17 1), blocks := s.blocks (c.le 16 1)
    log := if (c.le 17 1).testBit 0 && c.le 16 1 < 16 then (s.ctx (c.le 16 1)).log else [] }

/-- What an ATTEST's sender and parameters must be. -/
def Attests (c : Cmd) : Prop :=
  reservedZero c [(16, 17), (24, 35), (40, 63)] = true ∧ (c.fn.val = 0 ∨ c.le 16 1 = c.fn.val - 1) ∧
    (c.le 16 1 ≤ 15 ∨ c.le 16 1 = 0xFF) ∧ c.le 17 1 ≤ 3

/-- An ATTEST its sender may send answers with the report's length, or waits for the RTP. -/
theorem attest_body {c : Cmd} (h : Attests c) (v : Verdict) :
    (if !c.isPf0 && c.le 16 1 ≠ c.ownCtx then Verdict.reply s (.of stDenied)
      else params s c [(16, 17), (24, 35), (40, 63)] [(decide (15 < c.le 16 1) && c.le 16 1 != 0xFF, 16), (decide (3 < c.le 17 1), 17)] v) =
      v := by
  obtain ⟨hz, hfn, hscope, hflags⟩ := h
  have hdenied : ¬ (!c.isPf0 && decide (c.le 16 1 ≠ c.ownCtx)) = true := by
    by_cases hf : c.fn.val = 0
    · simp [Cmd.isPf0, hf]
    · rw [hfn.resolve_left hf]
      simp [Cmd.ownCtx, hf]
  have hbad : (decide (15 < c.le 16 1) && c.le 16 1 != 0xFF) = false := by
    rcases hscope with h | h
    · simp [Nat.not_lt.2 h]
    · simp [h]
  exact (if_neg hdenied).trans (params_run _ hz (by simp [hbad, Nat.not_lt.2 hflags]))

/-- A rotation whose generation may change now: the next one is in use, and the old one is retired where it holds no unit. -/
theorem State.retireGen_keys (x : Nat) {k : CtxKey} (hk : s.sec.keys.get x = k) (hr : k.rotating = true) (hp : k.pendingGen = false) :
    (s.retireGen x).sec.keys = if s.cons (cid 0x58 (2 * x + (k.gen + 1) % 2)) = s.cons (cid 0x59 (2 * x + (k.gen + 1) % 2)) then
      s.sec.keys.set x { k with rotating := false } else s.sec.keys := by
  unfold State.retireGen
  dsimp only
  rw [hk, hr, hp]
  by_cases hc : s.cons (cid 0x58 (2 * x + (k.gen + 1) % 2)) = s.cons (cid 0x59 (2 * x + (k.gen + 1) % 2))
  · rw [if_pos (by simp [hc]), if_pos hc]
    have hd (v : State) : ((v.doorbell 0 16).doorbell (x + 1) 16).sec = v.sec :=
      Within.same (l := [.host]) (by simp) .sec (by decide)
    rw [hd]
    rfl
  · rw [if_neg (by simp [hc]), if_neg hc]

theorem State.retireGen_rings (x : Nat) : (s.retireGen x).host.rings = s.host.rings := by
  unfold State.retireGen
  dsimp only
  split
  · obtain ⟨f1, m1, h1⟩ := (s.updSec fun y => { y with keys := y.keys.set x { s.sec.keys.get x with rotating := false } }).doorbell_host 0 16
    obtain ⟨f2, m2, h2⟩ := ((s.updSec fun y => { y with keys := y.keys.set x { s.sec.keys.get x with rotating := false } }).doorbell 0 16).doorbell_host (x + 1) 16
    rw [h2, h1]
    rfl
  · rfl

/-- A context's key as KEY_ROTATE asks for its next generation. -/
def State.askGen (s : State) (x : Nat) : State :=
  s.updSec fun y => { y with keys := y.keys.set x { s.sec.keys.get x with rotating := true, pendingGen := true } }

/-- The same once that generation is in use. -/
def State.nextGen (s : State) (x : Nat) : State :=
  s.updSec fun y => { y with keys := y.keys.set x { s.sec.keys.get x with gen := (s.sec.keys.get x).gen + 1, pendingGen := false } }

theorem State.askGen_key (x : Nat) :
    (s.askGen x).sec.keys.get x = { s.sec.keys.get x with rotating := true, pendingGen := true } :=
  (Tbl.get_set ..).trans (if_pos rfl)

theorem State.nextGen_key (x : Nat) :
    (s.nextGen x).sec.keys.get x = { s.sec.keys.get x with gen := (s.sec.keys.get x).gen + 1, pendingGen := false } :=
  (Tbl.get_set ..).trans (if_pos rfl)

theorem State.switchGen_none {x : Nat} (hp : (s.sec.keys.get x).pendingGen = true) (h : ∀ i ∈ s.host.inflight, i.wait ≠ .keyGen x) :
    s.switchGen x = (s.nextGen x).retireGen x := by
  unfold State.switchGen
  dsimp only
  rw [if_pos hp, State.completeAll_none _ fun i hi => by simpa using h i hi]
  rfl

/-- A KEY_ROTATE that its context's state and key allow. -/
theorem keyRotate_body {c : Cmd} (hz : reservedZero c [(16, 16)] = true) (hx : c.le 16 1 ≤ 15)
    (hfree : (s.ctx (c.le 16 1)).st ≠ .free) (hopen : (s.ctx (c.le 16 1)).st ≠ .opening)
    (hrot : (s.sec.keys.get (c.le 16 1)).rotating = false) (v : Verdict) :
    (params s c [(16, 16)] [(decide (15 < c.le 16 1), 16)] <|
      if (s.ctx (c.le 16 1)).st = .free || (s.ctx (c.le 16 1)).st = .opening then .reply s (.of stNotBound)
      else if (s.sec.keys.get (c.le 16 1)).rotating then .reply s (.of stBusy) else v) = v :=
  (params_run _ hz (by simp [Nat.not_lt.2 hx])).trans ((if_neg (by simp [hfree, hopen])).trans (if_neg (by simp [hrot])))

end

end Sys2Proof.Machine

namespace Sys2Proof
open Machine

/-- Settles O41. -/
theorem attestationAndKeys : Obligations.AttestationAndKeys := by
  unfold Obligations.AttestationAndKeys
  refine ⟨fun c s h hz hfn hscope hflags hlen => ?_, fun c s h hz hfn hscope hflags => ?_,
    fun c s h hz hfn hscope hflags hlen => ?_, fun c s h hz hx hfree hopen hrot hcur hwait => ?_,
    fun c s h hz hx hfree hopen hrot hcur => ?_, fun x p raced n k s hp hst hdoze hhold hrot hpend hpass hok hk => ?_⟩
  · have hc : Attests c := ⟨hz, hfn, hscope, hflags⟩
    obtain ⟨t, e, ha, ht, hs⟩ : ∃ t, exec (.attest c true) s = .next t ∧
        Answered t c (.ok (leBytes 4 (s.reportLen (c.le 16 1) (c.le 17 1)))) ∧
        KeepsBut cmdBlocks ((s.fetched c).updSec fun x => { x with report := reportOf c (s.fetched c) }) t ∧
        Serves [.sec, .fresh] c s t := by
      refine State.row_answers [.sec, .fresh] (u := (s.fetched c).updSec fun x => { x with report := reportOf c (s.fetched c) }) h ((attest_body hc _).trans ?_) (Reply.ok_status_ne_busy _)
        (Within.keeps (by simp)) rfl rfl fun t ha ht hs => ⟨ha, ht, hs⟩
      rw [if_neg (by simp)]
      dsimp only
      rw [State.fetched_reportLen, if_neg (Nat.not_lt.2 hlen)]
      simp only [reportOf, State.fetched_reportLen]
    have hr : t.sec.report = reportOf c (s.fetched c) := congrArg Sec.report (ht.2 .sec (by decide))
    refine ⟨t, e, ha, ?_, ?_, ?_, ?_, hs⟩ <;> rw [hr]
    · rfl
    · rfl
    · simp [reportOf, State.pegTime]
    · exact State.fetched_reportLen ..
  · have hc : Attests c := ⟨hz, hfn, hscope, hflags⟩
    exact State.row_defers_serves [] h ((attest_body hc _).trans (if_pos rfl)) (KeepsBut.refl _ _) rfl rfl
      fun t hw _ hs => ⟨hw, hs⟩
  · have hc : Attests c := ⟨hz, hfn, hscope, hflags⟩
    refine (State.row_refuses h ((attest_body hc _).trans ((if_neg (by simp)).trans ?_)) (r := { status := stBadParam, detail := 32, result := _ }) (show stBadParam ≠ stBusy by decide)).imp
      fun t ht => ⟨ht.1, ht.2.2, ht.2.1⟩
    dsimp only
    rw [State.fetched_reportLen, if_pos hlen]
  · obtain ⟨x, hxe⟩ : ∃ x, x = c.le 16 1 := ⟨_, rfl⟩
    obtain ⟨v, hv⟩ : ∃ v, v = ((s.fetched c).askGen x).nextGen x := ⟨_, rfl⟩
    have hvs : Within [.sec, .host, .tel] s v := by simp [hv, State.nextGen, State.askGen]
    have hk : v.sec.keys.get x = { s.sec.keys.get x with gen := (s.sec.keys.get x).gen + 1, rotating := true, pendingGen := false } := by
      rw [hv, State.nextGen_key, State.askGen_key, State.fetched_sec]
    obtain ⟨t, e, ha, ht⟩ : ∃ t, exec (.keyRotate c) s = .next t ∧ Answered t c (.ok (leBytes 4 ((s.sec.keys.get (c.le 16 1)).gen + 1))) ∧
        KeepsBut cmdBlocks (v.retireGen x) t := by
      refine State.row_changes h ((keyRotate_body hz hx (by simpa) (by simpa) (by simpa) _).trans ((if_neg (by simpa)).trans ?_)) (Reply.ok_status_ne_busy _)
        ?_ fun t ha ht => ⟨ha, ht⟩
      · refine Verdict.reply_congr ?_ (by rw [State.fetched_sec])
        rw [hv, hxe]
        refine State.switchGen_none (s := (s.fetched c).askGen (c.le 16 1)) ?_ fun i hi => hwait i ?_
        · rw [State.askGen_key]
        · rw [State.askGen, State.updSec_host, State.fetched_inflight] at hi
          exact hi
      · rw [State.retireGen_rings, hv]
        rfl
    have hcons (k y : Nat) (hk : 0x58 ≤ k) : v.cons (cid k y) = s.cons (cid k y) := by
      have hf := c.fn.isLt
      rw [hv]
      exact State.cons_fetched_ne s c (by simp only [cid]; omega)
    have hkeys := congrArg Sec.keys (show t.sec = (v.retireGen x).sec from ht.2 .sec (by decide))
    rw [State.retireGen_keys x hk rfl rfl] at hkeys
    have hother (y : Nat) (hy : y ≠ x) : v.sec.keys.get y = s.sec.keys.get y := by
      rw [hv]
      refine (Tbl.get_set ..).trans ((if_neg hy).trans ((Tbl.get_set ..).trans ((if_neg hy).trans ?_)))
      rw [State.fetched_sec]
    refine ⟨t, e, ha, ?_, ?_, fun y hy => ?_, ?_⟩
    · rw [← hxe, hkeys]
      split
      · rw [Tbl.get_set, if_pos rfl]
      · rw [hk]
    · rw [← hxe, hkeys, hcons _ _ (by decide), hcons _ _ (by decide)]
      rw [show ∀ g : Nat, (g + 1 + 1) % 2 = g % 2 by omega]
      split
      · next h => simp [h]
      · next h => simp [h, hk]
    · rw [← hxe] at hy
      rw [hkeys]
      split
      · rw [Tbl.get_set, if_neg hy, hother y hy]
      · exact hother y hy
    · exact (hvs.keeps.mono (by decide)).trans (((Within.keeps (l := [.sec, .host]) (by simp)).mono (by decide)).trans (ht.mono (by decide)))
  · refine State.row_defers_serves [.sec] h ((keyRotate_body hz hx (by simpa) (by simpa) (by simpa) _).trans (if_pos (by simpa)))
      (Within.keeps (by simp)) rfl rfl fun t hw ht hs => ?_
    have hsec : t.sec = ((s.fetched c).askGen (c.le 16 1)).sec := ht.2 .sec (by decide)
    refine ⟨hw, ?_, fun x hx => ?_, hs⟩
    · rw [hsec, State.askGen_key, State.fetched_sec]
    · rw [hsec]
      exact (Tbl.get_set ..).trans ((if_neg hx).trans (by rw [State.fetched_sec]))
  · show execKeyPassUnit x raced s = _
    unfold execKeyPassUnit
    dsimp only
    rw [if_neg (by simp [hp, hdoze, hhold, hrot, hpend]; omega), hpass]
    dsimp only
    simp only [hok, hrot, Bool.and_self, if_true, hpass]
    cases raced with
    | true => 
      rw [if_pos (by simp), if_pos rfl]
      have : s.sec = { s.sec with pass := some (x.val, p, n, k) } := by rw [← hpass]
      rw [← this]
    | false =>
      rw [if_neg (by simp), if_pos (by simpa using hk)]
      rfl

end Sys2Proof

/-! Device sets (O42). -/

namespace Sys2Proof.Machine

section
variable {s t u : State}

/-! ### Device sets (14, R385) -/

/-- A SET_JOIN whose operation is the one of its fields and whose parameters are in range runs that operation's rules. -/
theorem State.setRow_eq {c : Cmd} {sel : Cmd → Bool} (hz : reservedZero c [(16, 17), (24, 35)] = true) (hsel : sel c = true)
    (hop : c.le 16 1 ≤ 3) (hflags : c.le 16 1 = 1 → c.le 17 1 ≤ 3) (body : State → Verdict) :
    s.setRow c sel body = s.row c 0x4A [] body := by
  refine (if_pos hsel).trans (congrArg (s.row c 0x4A []) (funext fun u => params_run _ hz ?_))
  by_cases h : c.le 16 1 = 1
  · simp [Cmd.setOp, h, Nat.not_lt.2 (hflags h)]
  · simp [Cmd.setOp, h, Nat.not_lt.2 hop]

theorem checks_fail {r : Reply} {l : List (Bool × Reply)} {v : Verdict} {b : Bool} (h : b = true) :
    checks s ((b, r) :: l) v = .reply s r := if_pos h

theorem checks_next {r : Reply} {l : List (Bool × Reply)} {v : Verdict} {b : Bool} (h : b = false) :
    checks s ((b, r) :: l) v = checks s l v := if_neg (by simp [h])

@[simp] theorem State.fetched_docNames (c : Cmd) (d : AdmissionDoc) (id : Nat) (g : Word) :
    (s.fetched c).docNames d id g = s.docNames d id g := by
  simp [State.docNames]

theorem State.docNames_true {d : AdmissionDoc} {id : Nat} {g : Word} (hm : s.sec.moduleId ∈ d.modules) (hid : d.setId = BitVec.ofNat 64 id)
    (hg : d.gen = g) : s.docNames d id g = true := by
  simp [State.docNames, hm, hid, hg]

/-- The module with a set, or without one. -/
def State.holding (s : State) (e : Option DevSet) : State := s.updSec fun x => { x with set_ := e }

/-- A command of the set that gives the module the set `e` and answers OK. -/
theorem State.row_holds {c : Cmd} {body : State → Verdict} {e : Option DevSet} (h : accepts s c 0x4A [] = true)
    (hb : body (s.fetched c) = .reply ((s.fetched c).holding e) (.of stOk)) {P : State → Prop}
    (hP : ∀ t, Answered t c (.of stOk) → t.sec.set_ = e → Serves [.sec] c s t → P t) :
    ∃ t, (.next (s.row c 0x4A [] body) : Host.Outcome State Fault Refusal) = .next t ∧ P t := by
  refine State.row_answers [.sec] h hb (by decide) (Within.keeps (by simp [State.holding])) rfl rfl fun t ha ht hs => hP t ha ?_ hs
  exact congrArg Sec.set_ (show t.sec = ((s.fetched c).holding e).sec from ht.2 .sec (by decide))

section
variable {c : Cmd} {d : AdmissionDoc} {body : State → Verdict} (hz : reservedZero c [(16, 17), (24, 35)] = true)
include hz

theorem exec_create (hop : c.le 16 1 = 0) : exec (.create c d) s = .next (s.row c 0x4A [] fun s => checks s
    [(!d.signed, .of stDigest), (s.sec.set_.isSome || !s.docNames d c.objId 0, .of stDenied),
     (decide (256 < d.modules.length), .of stNoRes)] <|
    .reply (s.holding (some (docSet d))) (.of stOk)) :=
  congrArg Host.Outcome.next (State.setRow_eq hz (by simp [Cmd.setOp, hop]) (by omega) (by omega) _)

theorem exec_join {ans : Bool} (hop : c.le 16 1 = 1) (hfl : c.le 17 1 ≤ 3) : exec (.join c d ans) s = .next (s.row c 0x4A [] fun s =>
    checks s
    [(!d.signed, .of stDigest),
     ((match s.sec.set_ with | some e => e.id != BitVec.ofNat 64 c.objId | none => false) || !s.docNames d c.objId d.gen, .of stDenied),
     (decide (256 < d.modules.length), .of stNoRes)] <|
    if ans then .reply (s.holding (some (docSet d))) (.of stOk)
    else .later s (.sponsor d.setId d.gen d.modules.length d.ownerDigest)) :=
  congrArg Host.Outcome.next (State.setRow_eq hz (by simp [Cmd.setOp, hop]) (by omega) (fun _ => hfl) _)

theorem exec_leave (hop : c.le 16 1 = 2) : exec (.leave c) s = .next (s.row c 0x4A [] fun s =>
    if !s.holdsSet c then .reply s (.of stNotBound) else .reply (s.holding none) (.of stOk)) :=
  congrArg Host.Outcome.next (State.setRow_eq hz (by simp [Cmd.setOp, hop]) (by omega) (by omega) _)

theorem exec_rekey (hop : c.le 16 1 = 3) : exec (.rekey c d) s = .next (s.row c 0x4A [] fun s =>
    match s.sec.set_ with
    | none => .reply s (.of stNotBound)
    | some e => checks s
      [(!s.holdsSet c, .of stNotBound), (!d.signed || d.ownerDigest != e.owner, .of stDigest),
       (!s.docNames d c.objId (e.gen + 1), .of stDenied), (decide (256 < d.modules.length), .of stNoRes)] <|
      .reply (s.holding (some (docSet d))) (.of stOk)) :=
  congrArg Host.Outcome.next (State.setRow_eq hz (by simp [Cmd.setOp, hop]) (by omega) (by omega) _)

end

end

end Sys2Proof.Machine

namespace Sys2Proof
open Machine

/-- Settles O42. -/
theorem setMembership : Obligations.SetMembership := by
  unfold Obligations.SetMembership
  refine ⟨fun c d s h hz hop hd hset hm hid hg hlen => ?_, fun c d s h hz hop hfl hd hset hm hid hlen => ?_,
    fun c d e s h hz hop hfl hd hset hid ans => ?_, fun c d ans s h hz hd hfl => ⟨fun hop => ?_, fun hop => ?_⟩,
    fun c s h hz hop hid => ?_, fun c e s h hz hop hset hid => ?_,
    fun c d e s h hz hop hset hid hd ho hm hdi hg hlen => ?_⟩
  · rw [exec_create hz hop]
    refine State.row_holds (e := some (docSet d)) h ?_ fun t ha he hs => ⟨ha, by rw [he, docSet, hg], hs⟩
    refine (checks_next (by simp [hd])).trans ((checks_next ?_).trans ((checks_next (by simp [hlen])).trans rfl))
    simpa [hset] using State.docNames_true hm hid hg
  · have hdenied (u : State) (hu : u.sec = s.sec) : ((match u.sec.set_ with
        | some e => e.id != BitVec.ofNat 64 c.objId | none => false) || !u.docNames d c.objId d.gen) = false := by
      rw [State.docNames_true (by rw [hu]; exact hm) hid rfl, hu]
      cases hs : s.sec.set_ with
      | none => rfl
      | some e => simp [hset e (by simp [hs])]
    rw [exec_join hz hop hfl, exec_join hz hop hfl]
    refine ⟨State.row_holds (e := some (docSet d)) h ?_ fun t ha he hs => ⟨ha, he, hs⟩, State.row_defers_serves [] h ?_ (KeepsBut.refl _ _) rfl rfl
      fun t hw _ hs => ⟨hw, hs⟩⟩
    · exact (checks_next (by simp [hd])).trans ((checks_next (hdenied _ (State.fetched_sec s c))).trans
        ((checks_next (by simp [hlen])).trans rfl))
    · exact (checks_next (by simp [hd])).trans ((checks_next (hdenied _ (State.fetched_sec s c))).trans
        ((checks_next (by simp [hlen])).trans rfl))
  · rw [exec_join hz hop hfl]
    refine State.row_refuses h ?_ (by decide)
    refine (checks_next (by simp [hd])).trans (checks_fail ?_)
    rw [State.fetched_sec, hset]
    simp [hid]
  · rw [exec_create hz hop]
    exact State.row_refuses h (checks_fail (by simp [hd])) (by decide)
  · rw [exec_join hz hop hfl]
    exact State.row_refuses h (checks_fail (by simp [hd])) (by decide)
  · rw [exec_leave hz hop]
    refine State.row_refuses h (if_pos ?_) (by decide)
    rw [State.holdsSet, State.fetched_sec]
    cases hs : s.sec.set_ with
    | none => rfl
    | some e => simp [hid e (by simp [hs])]
  · rw [exec_leave hz hop]
    refine State.row_holds (e := none) h (if_neg ?_) fun t ha he hs => ⟨ha, he, hs⟩
    rw [State.holdsSet, State.fetched_sec, hset]
    simp [hid]
  · rw [exec_rekey hz hop]
    refine State.row_holds (e := some (docSet d)) h ?_ fun t ha he hs => ⟨ha, by rw [he, docSet, hdi, hg, ho], hs⟩
    · have hh : (s.fetched c).holdsSet c = true := by
        rw [State.holdsSet, State.fetched_sec, hset]
        simp [hid]
      rw [State.fetched_sec, hset]
      exact (checks_next (by simp [hh])).trans ((checks_next (by simp [hd, ho])).trans ((checks_next
        (by rw [State.fetched_docNames, State.docNames_true hm (hdi.trans hid) hg]; rfl)).trans ((checks_next (by simp [hlen])).trans rfl)))

end Sys2Proof

/-! Jobs and prefixes (O43). -/

namespace Sys2Proof
open Machine

/-- A DRAIN is under way: context 0 has a record that waits for its token ring's space, context 1 is READY without work. -/
def stalledDrain : State :=
  ((Tests.upCtx fun x => { x with tbWait := [{}] }).updCtx 1 fun x => { x with st := .ready }).updGlb fun g =>
    { g with state := .draining }

/-- Refutes O43: where a DRAIN is under way, the fault of the context whose token ring stalls goes on with the drain, and a READY
context without work is DRAINED by it. -/
theorem not_jobsAndPrefixes : ¬ Obligations.JobsAndPrefixes := by
  unfold Obligations.JobsAndPrefixes
  rintro ⟨-, -, -, -, -, -, -, hring⟩
  obtain ⟨t, e, -, ht⟩ := hring 0 stalledDrain (by decide) (by decide) (by decide)
  obtain rfl := Host.Outcome.next.inj e
  exact absurd (ht 1 (by decide)) (by decide +kernel)

end Sys2Proof

/-! Video sessions (O44). -/

namespace Sys2Proof
open Machine

/-- The settings of an encode session with an operating point, which only a decode session has. -/
def pointedSession : State := Tests.upSess 319 { cfg := { opPoint := 1 } }

/-- Refutes O44: a VID_RECONFIG of an encode session carries operating point 0, and where the session's settings hold another one,
it is refused at byte 26. -/
theorem not_videoSessions : ¬ Obligations.VideoSessions := by
  unfold Obligations.VideoSessions
  rintro ⟨-, -, -, -, -, hreconfig⟩
  obtain ⟨t, e, ha, -⟩ := hreconfig
    (Tests.vf 0x3B [(16, [63, 7]), (30, [0, 51, 0, 0, 0, 1]), (40, [0xE8, 3]), (48, [255])]) 319 pointedSession
    (by decide +kernel) (by decide +kernel) (by decide +kernel) (by decide) (by decide +kernel)
  obtain rfl := Host.Outcome.next.inj e
  have hc := congrArg (fun k : Option Kept => k.bind fun k => k.comp.map (·.status)) ha
  exact absurd hc (by decide +kernel)

end Sys2Proof

/-! Video submissions (O45). -/

namespace Sys2Proof.Machine

section
variable {s t u : State} {c : Cmd}

/-! ### Video submissions (11, R287-R291) -/

/-- A submission whose shared parameters are in range. -/
def Submits (s : State) (c : Cmd) : Prop :=
  reservedZero c subBytes = true ∧ (c.byte 18).toNat ≤ 31 ∧
    ((c.byte 18).getLsbD 0 = true → s.pegUsable c.fn.val (c.byte 19).toNat = true) ∧
    ((c.byte 18).getLsbD 1 = true ∨ (c.byte 18).getLsbD 2 = true → (c.byte 20).toNat ≤ 3)

theorem Submits.fetched (h : Submits s c) : Submits (s.fetched c) c := by
  obtain ⟨hz, h31, hpeg, hcap⟩ := h
  exact ⟨hz, h31, by simpa [State.pegUsable, State.pegAt] using hpeg, hcap⟩

theorem Submits.rules (h : Submits s c) (hk : (c.byte 17).toNat ≤ 4) : ∀ r ∈ subRules s c 4, r.1 = false := by
  obtain ⟨-, h31, hpeg, hcap⟩ := h
  have h19 : (Cmd.usesPeg c && !s.pegUsable c.fn.val (c.byte 19).toNat) = false := by
    unfold Cmd.usesPeg
    cases h : (c.byte 18).getLsbD 0 with
    | false => rfl
    | true => simp [hpeg h]
  have h20 : (((c.byte 18).getLsbD 1 || (c.byte 18).getLsbD 2) && decide (3 < (c.byte 20).toNat)) = false := by
    cases h : (c.byte 18).getLsbD 1 || (c.byte 18).getLsbD 2 with
    | false => rfl
    | true => simpa using hcap (by simpa using h)
  intro r hr
  simp only [subRules, List.mem_cons, List.not_mem_nil, or_false] at hr
  rcases hr with rfl | rfl | rfl | rfl
  · simpa using hk
  · simpa using h31
  · exact h19
  · exact h20

/-- A submission's rules that all hold: the kind's own come first. -/
theorem Submits.run {more : List (Bool × Nat)} (h : Submits s c) (hk : (c.byte 17).toNat ≤ 4) (hm : ∀ r ∈ more, r.1 = false)
    (v : Verdict) : params (s.fetched c) c subBytes (more ++ subRules (s.fetched c) c 4) v = v :=
  params_run _ h.1 fun r hr => (List.mem_append.1 hr).elim (hm r) (h.fetched.rules hk r)

/-- `State.row_busy` for a command's outcome. -/
theorem State.row_retries {op : Nat} {feats : List Nat} {body : State → Verdict} (h : accepts s c op feats = true)
    (hb : body (s.fetched c) = .reply (s.fetched c) (.of stBusy)) :
    ∃ t d, (.next (s.row c op feats body) : Host.Outcome State Fault Refusal) = .next t ∧
      Answered t c { status := stBusy, detail := d } ∧ Serves [.fresh] c s t := by
  obtain ⟨⟨d, ha⟩, hs⟩ := State.row_busy h hb
  exact ⟨_, d, rfl, ha, hs⟩

theorem State.subRow_eq {op : Nat} {sel : Cmd → Bool} {feats : List Nat} (hsel : sel c = true) (body : State → Verdict) :
    s.subRow c op sel feats body = s.row c op feats body := if_pos hsel

@[simp] theorem State.fetched_sess (k : Nat) : (s.fetched c).sess k = s.sess k := by
  rw [State.sess, State.fetched_vid, State.sess]

@[simp] theorem State.fetched_sessPiped (k : Nat) : (s.fetched c).sessPiped k = s.sessPiped k := by
  rw [State.sessPiped, State.fetched_vid, State.sessPiped]

@[simp] theorem State.fetched_queued (k : Nat) : (s.fetched c).queued k = s.queued k := by
  rw [State.queued, State.fetched_sess, State.fetched_sessPiped, State.queued]

@[simp] theorem State.fetched_subSess (enc : Bool) : (s.fetched c).subSess c enc = s.subSess c enc := by
  simp only [State.subSess, State.fetched_sess]

@[simp] theorem State.fetched_handleOk (x h : Nat) : (s.fetched c).handleOk x h = s.handleOk x h := by
  simp only [State.handleOk, State.fetched_sess]

@[simp] theorem State.fetched_foreign (x h : Nat) : (s.fetched c).foreign x h = s.foreign x h := by
  simp only [State.foreign, State.fetched_sess, State.fetched_handleOk]

@[simp] theorem State.fetched_namedSess (x n : Nat) : (s.fetched c).namedSess x n = s.namedSess x n := by
  simp only [State.namedSess, State.fetched_sess]

@[simp] theorem State.fetched_vaOk (x va n : Nat) (w : Bool) : (s.fetched c).vaOk x va n w = s.vaOk x va n w := by
  simp [State.vaOk, State.xlatAt]

@[simp] theorem State.fetched_ctxLe (x va n : Nat) : (s.fetched c).ctxLe x va n = s.ctxLe x va n := by
  rw [State.ctxLe, State.fetched_mem, State.ctxLe]

/-- The submission as its session takes it. -/
def State.submission (s : State) (c : Cmd) (k : Nat) (q : VidSub) : VidSub :=
  { q with
    tag := c.objId, peg := if Cmd.usesPeg c then some (c.byte 19).toNat else none, capture := (s.captureOf c).1
    captureStale := (s.captureOf c).2, order := s.vid.subSeq, cfg := (s.sess k).cfg }

@[simp] theorem State.fetched_submission (k : Nat) (q : VidSub) : (s.fetched c).submission c k q = s.submission c k q := by
  simp [State.submission, State.captureOf]

/-- Work bound to the peg it names, if it names one. -/
def State.boundTo (s : State) (peg : Option Nat) (b : Binding) : State :=
  match peg with
  | some n => s.bindPeg n b
  | none => s

theorem State.boundTo_vid (peg : Option Nat) (b : Binding) : (s.boundTo peg b).vid = s.vid := by cases peg <;> rfl
theorem State.boundTo_host (peg : Option Nat) (b : Binding) : (s.boundTo peg b).host = s.host := by cases peg <;> rfl
theorem State.boundTo_tel (peg : Option Nat) (b : Binding) : (s.boundTo peg b).tel = s.tel := by cases peg <;> rfl

/-- The session with the submission it takes, before its peg and its count. -/
def State.taken (s : State) (c : Cmd) (k : Nat) (q : VidSub) : State :=
  (s.updVid fun v => { v with subSeq := v.subSeq + 1 }).updSess k fun x => { x with subs := x.subs ++ [s.submission c k q] }

theorem State.accept_eq (k : Nat) (q : VidSub) : ∃ peg b id, s.accept c k q = ((s.taken c k q).boundTo peg b).consAdd id 1 :=
  ⟨_, _, _, rfl⟩

theorem State.accept_vid (k : Nat) (q : VidSub) : (s.accept c k q).vid = (s.taken c k q).vid := by
  obtain ⟨peg, b, id, h⟩ := s.accept_eq (c := c) k q
  rw [h]
  exact State.boundTo_vid peg b

theorem State.accept_sess (k j : Nat) (q : VidSub) : (s.accept c k q).sess j =
    if j = k then { s.sess j with subs := (s.sess j).subs ++ [s.submission c k q] } else s.sess j := by
  rw [State.sess, State.accept_vid]
  exact State.updSess_sess ..

theorem State.accept_piped (k j : Nat) (q : VidSub) : (s.accept c k q).sessPiped j = s.sessPiped j := by
  rw [State.sessPiped, State.accept_vid]
  rfl

theorem State.accept_quiet (k : Nat) (q : VidSub) : Quiet c s (s.accept c k q) := by
  obtain ⟨peg, b, id, h⟩ := s.accept_eq (c := c) k q
  rw [h]
  exact ((Quiet.refl c s).of_eq (State.boundTo_host (s := s.taken c k q) peg b)
    (State.boundTo_tel (s := s.taken c k q) peg b)).trans (quiet_consAdd c _ _ _)

theorem State.accept_host (k : Nat) (q : VidSub) : (s.accept c k q).host = s.host :=
  Within.same (l := [.tel, .peg, .vid]) (by simp) .host (by decide)

/-- A submission its session takes: it stands last, and the command is OK. -/
theorem State.row_submits {body : State → Verdict} {k : Nat} {q : VidSub} (h : accepts s c 0x39 [] = true)
    (hb : body (s.fetched c) = .reply ((s.fetched c).accept c k q) (.of stOk)) {P : State → Prop}
    (hP : ∀ t, Answered t c (.of stOk) → (t.sess k).subs = (s.sess k).subs ++ [s.submission c k q] →
      (∀ j, j ≠ k → t.sess j = s.sess j) → Serves [.vid, .peg] c s t → P t) :
    ∃ t, (.next (s.row c 0x39 [] body) : Host.Outcome State Fault Refusal) = .next t ∧ P t := by
  refine State.row_posts [.vid, .peg] h hb (by decide) (Within.keeps (by simp [cmdBlocks])) (State.accept_quiet k q) (by rw [State.accept_host])
    fun t ha ht hs => ?_
  have hv (j : Nat) : t.sess j = ((s.fetched c).accept c k q).sess j := by
    rw [State.sess, State.sess, show t.vid = ((s.fetched c).accept c k q).vid from ht.2 .vid (by decide)]
  refine hP t ha ?_ (fun j hj => ?_) hs
  · rw [hv, State.accept_sess, if_pos rfl, State.fetched_submission, State.fetched_sess]
  · rw [hv, State.accept_sess, if_neg hj, State.fetched_sess]

theorem State.updBuf_sess (k i j : Nat) (f : FrameBuf → FrameBuf) : (s.updBuf k i f).sess j =
    if j = k then { s.sess j with bufs := (s.sess j).bufs.set i (f ((s.sess k).bufs.get i)) } else s.sess j := by
  have h := s.updSess_sess k (fun x => { x with bufs := x.bufs.set i (f ((s.sess k).bufs.get i)) }) j
  unfold State.updBuf
  dsimp only
  split
  · exact h
  · split <;> exact h

theorem State.updBuf_quiet (k i : Nat) (f : FrameBuf → FrameBuf) : Quiet c s (s.updBuf k i f) := by
  have h : Quiet c s (s.updSess k fun x => { x with bufs := x.bufs.set i (f ((s.sess k).bufs.get i)) }) :=
    (Quiet.refl c s).of_eq rfl rfl
  unfold State.updBuf
  dsimp only
  split
  · exact h.trans (quiet_consAdd c _ _ _)
  · split
    · exact h.trans (quiet_consAdd c _ _ _)
    · exact h

theorem State.updBuf_host (k i : Nat) (f : FrameBuf → FrameBuf) : (s.updBuf k i f).host = s.host :=
  Within.same (l := [.tel, .vid]) (by simp) .host (by decide)

theorem State.choose_mem {xs : List Nat} {p : Nat × State} (h : s.choose xs = some p) : p.1 ∈ xs := by
  unfold State.choose at h
  split at h
  · cases h
  · cases h
    exact List.mem_singleton_self _
  · next x y r =>
    cases h
    have hm := (Config.pick s.fresh (r.length + 1)).isLt
    simp only [List.getD_eq_getElem?_getD]
    rw [List.getElem?_eq_getElem (by simpa using hm)]
    exact List.getElem_mem _

theorem State.choose_vid {xs : List Nat} {p : Nat × State} (h : s.choose xs = some p) : Within [.fresh] s p.2 :=
  (State.choose_within h (by decide)).2 (Within.refl _ s)

theorem State.choose_some {xs : List Nat} (h : xs ≠ []) : ∃ p, s.choose xs = some p := by
  match xs, h with
  | [x], _ => exact ⟨_, rfl⟩
  | x :: y :: r, _ => exact ⟨_, rfl⟩

theorem dropHandles_one {x h : Nat} (hok : s.handleOk x h = true) : dropHandles x [h] s =
    if 0 < ((s.sess (handleSess h)).bufs.get (handleBuf h)).hostRefs then
      some (s.updBuf (handleSess h) (handleBuf h) fun b => { b with hostRefs := b.hostRefs - 1 }) else none := by
  simp only [dropHandles, hok, Bool.true_and, decide_eq_true_eq]

theorem State.foreign_of_ok {x h : Nat} (hok : s.handleOk x h = true) : s.foreign x h = false := by
  have hx : (s.sess (handleSess h)).ctx = x := by
    simp only [State.handleOk, Bool.and_eq_true, beq_iff_eq] at hok
    exact hok.1.1.2
  simp [State.foreign, hx]

theorem exec_decodeAu (hk : (c.byte 17).toNat = 0) : exec (.decodeAu c) s = .next (s.row c 0x39 [] fun s =>
    params s c subBytes ((decide (2 ^ 25 < c.le 28 4), 28) :: subRules s c 4) <|
    match s.subSess c false with
    | none => .reply s (.of stNotBound)
    | some k =>
      if 16 ≤ s.queued k then .reply s (.of stBusy)
      else .reply (s.accept c k { kind := 0, addr := BitVec.ofNat 64 (c.le 32 8), len := c.le 28 4 }) (.of stOk)) :=
  congrArg Host.Outcome.next (State.subRow_eq (by simp [subKind, hk]) _)

theorem exec_encode (hk : (c.byte 17).toNat = 1) : exec (.encode c) s = .next (s.row c 0x39 [] fun s =>
    match s.subSess c true with
    | none => params s c subBytes (subRules s c 4) <| .reply s (.of stNotBound)
    | some k =>
      let x := Cmd.ownCtx c
      let v := (s.sess k).cfg
      let n := (c.byte 40).toNat
      let va := c.le 48 8
      let roi := (upto (min n 16)).map fun i => s.mem.bytesAt (ctxKey x (va + 16 * i)) 16
      params s c subBytes ([(decide (8 * c.le 28 4 < v.capBits), 28), (decide (16 < n), 40),
        (decide (1 ≤ n) && decide (n ≤ 16) && (!s.vaOk x va (16 * n) false || !roi.all (roiOk v)), 48)] ++ subRules s c 4) <|
      let src := c.le 44 4
      if !s.handleOk x src then .reply s (.of stNotBound)
      else if 16 ≤ s.queued k then .reply s (.of stBusy)
      else .reply (s.accept c k
        { kind := 1, addr := BitVec.ofNat 64 (c.le 32 8), len := c.le 28 4, source := src, roi
          forceIdr := (c.byte 18).getLsbD 3, releaseSource := (c.byte 18).getLsbD 4 }) (.of stOk)) :=
  congrArg Host.Outcome.next (State.subRow_eq (by simp [subKind, hk]) _)

theorem exec_acquire (hk : (c.byte 17).toNat = 3) : exec (.acquire c) s = .next (s.row c 0x39 [] fun s =>
    params s c subBytes (subRules s c 4) <|
    match s.subSess c true with
    | none => .reply s (.of stNotBound)
    | some k =>
      let x := s.sess k
      match s.choose ((upto x.cfg.buffers).filter fun i => !(x.bufs.get i).held) with
      | none => .reply s (.of stNoRes)
      | some (i, s) =>
        let s := s.updBuf k i fun b => { b with hostRefs := 1 }
        .reply s (.ok (leBytes 4 (handleOf k i) ++ leBytes 4 0 ++ leBytes 8 (s.bufVa k i)))) :=
  congrArg Host.Outcome.next (State.subRow_eq (by simp [subKind, hk]) _)

theorem exec_eos (hk : (c.byte 17).toNat = 4) : exec (.eos c) s = .next (s.row c 0x39 [] fun s =>
    params s c subBytes (subRules s c 4) <|
    match s.subSess c false with
    | none => .reply s (.of stNotBound)
    | some k =>
      if 16 ≤ s.queued k then .reply s (.of stBusy)
      else
        let s := s.accept c k { kind := 4 }
        .reply (serveEos (s.sess k).ctx k 16 s) (.of stOk)) :=
  congrArg Host.Outcome.next (State.subRow_eq (by simp [subKind, hk]) _)

theorem exec_release {hostList : List (BitVec 32)} (hk : (c.byte 17).toNat = 2) : exec (.release c hostList) s = .next (s.row c 0x39 [] fun s =>
    let x := Cmd.ownCtx c
    let n := c.le 28 4
    let addr := c.le 32 8
    let va := addr % 2 ^ 63
    let inCtx := addr.testBit 63
    params s c subBytes ([(decide (n < 1) || decide (64 < n), 28), (inCtx && decide (n ≤ 64) && !s.vaOk x va (4 * n) false, 32)] ++
      subRules s c 4) <|
    let hs := if inCtx then (upto n).map fun i => s.ctxLe x (va + 4 * i) 4
      else (upto n).map fun i => (hostList.getD i 0).toNat
    match dropHandles x (hs.filter fun h => !s.foreign x h) s with
    | none => .reply s (.bad 32)
    | some t =>
      if (s.namedSess x (c.byte 16).toNat).isNone || hs.any (s.foreign x) then .reply s (.of stNotBound)
      else .reply (foldS hs (fun s h => s.bufFreed (handleSess h)) t) (.of stOk)) :=
  congrArg Host.Outcome.next (State.subRow_eq (by simp [subKind, hk]) _)

/-- A RELEASE of one handle of the context's own. -/
theorem release_one {h : BitVec 32} {n : Nat} (hrun : Submits s c) (hk : (c.byte 17).toNat = 2) (h1 : c.le 28 4 = 1)
    (hva : c.le 32 8 < 2 ^ 63 ∨ s.vaOk (Cmd.ownCtx c) (c.le 32 8 % 2 ^ 63) 4 false = true)
    (hn : n = if (c.le 32 8).testBit 63 then s.ctxLe (Cmd.ownCtx c) (c.le 32 8 % 2 ^ 63) 4 else h.toNat)
    (hok : s.handleOk (Cmd.ownCtx c) n = true) :
    ∃ body, exec (.release c [h]) s = .next (s.row c 0x39 [] body) ∧ body (s.fetched c) =
      match dropHandles (Cmd.ownCtx c) [n] (s.fetched c) with
      | none => .reply (s.fetched c) (.bad 32)
      | some t => if (s.namedSess (Cmd.ownCtx c) (c.byte 16).toNat).isNone then .reply (s.fetched c) (.of stNotBound)
        else .reply (t.bufFreed (handleSess n)) (.of stOk) := by
  have hlist : (if (c.le 32 8).testBit 63 then (upto 1).map fun i => s.ctxLe (Cmd.ownCtx c) (c.le 32 8 % 2 ^ 63 + 4 * i) 4
      else (upto 1).map fun i => (([h] : List (BitVec 32)).getD i 0).toNat) = [n] := by
    rw [hn, show upto 1 = [0] from rfl]
    split
    · rw [List.map_singleton, Nat.mul_zero, Nat.add_zero]
    · rw [List.map_singleton, List.getD_cons_zero]
  have hrules : ∀ r ∈ [(decide (c.le 28 4 < 1) || decide (64 < c.le 28 4), 28), ((c.le 32 8).testBit 63 && decide (c.le 28 4 ≤ 64) &&
      !(s.fetched c).vaOk (Cmd.ownCtx c) (c.le 32 8 % 2 ^ 63) (4 * c.le 28 4) false, 32)], r.1 = false := by
    have h32 : ((c.le 32 8).testBit 63 && decide (c.le 28 4 ≤ 64) &&
        !(s.fetched c).vaOk (Cmd.ownCtx c) (c.le 32 8 % 2 ^ 63) (4 * c.le 28 4) false) = false := by
      rw [h1, State.fetched_vaOk]
      rcases hva with hlt | hva
      · rw [Nat.testBit_lt_two_pow hlt]
        rfl
      · rw [hva]
        simp
    simp only [List.mem_cons, List.not_mem_nil, or_false]
    rintro r (rfl | rfl)
    · simp [h1]
    · exact h32
  refine ⟨_, exec_release hk, (hrun.run (by omega) hrules _).trans ?_⟩
  simp only [State.fetched_ctxLe, h1, hlist, State.fetched_foreign, State.fetched_namedSess, List.filter_cons, State.foreign_of_ok hok,
    Bool.not_false, if_true, List.filter_nil, List.any_cons, List.any_nil, Bool.or_false]
  generalize dropHandles (Cmd.ownCtx c) [n] (s.fetched c) = d
  cases d <;> rfl

theorem State.bufFreed_sess (k j : Nat) : (s.bufFreed k).sess j =
    if j = k then { s.sess j with st := if (s.sess j).st = .waitBuffer then .idle else (s.sess j).st } else s.sess j :=
  State.updSess_sess ..

theorem mem_insertBy {α : Type} {key : α → Nat} {x y : α} {l : List α} : y ∈ insertBy key x l ↔ y = x ∨ y ∈ l := by
  induction l with
  | nil => simp [insertBy]
  | cons z l ih =>
    unfold insertBy
    split
    · simp
    · rw [List.mem_cons, ih, List.mem_cons]
      exact or_left_comm

theorem mem_sortBy {α : Type} {key : α → Nat} {y : α} {l : List α} : y ∈ sortBy key l ↔ y ∈ l := by
  induction l with
  | nil => rfl
  | cons x l ih => rw [sortBy, mem_insertBy, ih, List.mem_cons]

/-- What the end of a session's stream changes: of the rings nothing, of the other sessions nothing, of its own neither the
submissions nor the settings, and no buffer comes to wait for output. -/
def Outputs (k : Nat) (s t : State) : Prop :=
  t.host.rings = s.host.rings ∧ (∀ j, j ≠ k → t.sess j = s.sess j) ∧ (t.sess k).subs = (s.sess k).subs ∧
    (t.sess k).cfg = (s.sess k).cfg ∧ ∀ i, ((t.sess k).bufs.get i).output = true → ((s.sess k).bufs.get i).output = true

theorem Outputs.refl (k : Nat) (s : State) : Outputs k s s := ⟨rfl, fun _ _ => rfl, rfl, rfl, fun _ h => h⟩

theorem Outputs.trans {k : Nat} (h : Outputs k s t) (g : Outputs k t u) : Outputs k s u := by
  obtain ⟨hr, hj, hs, hc, ho⟩ := h
  obtain ⟨gr, gj, gs, gc, go⟩ := g
  exact ⟨gr.trans hr, fun j n => (gj j n).trans (hj j n), gs.trans hs, gc.trans hc, fun i x => ho i (go i x)⟩

theorem Outputs.of_vid {k : Nat} (hr : t.host.rings = s.host.rings) (hv : t.vid.sess = s.vid.sess) : Outputs k s t := by
  have h (j : Nat) : t.sess j = s.sess j := by rw [State.sess, hv, State.sess]
  exact ⟨hr, fun j _ => h j, by rw [h], by rw [h], fun i => by rw [h]; exact id⟩

theorem State.doorbell_rings (f j : Nat) : (s.doorbell f j).host.rings = s.host.rings := by
  obtain ⟨funcs, msgs, h⟩ := s.doorbell_host f j
  rw [h]

theorem State.veqPut_outputs (x k : Nat) (r : VidRec) : Outputs k s (s.veqPut x r) := by
  refine Outputs.of_vid ?_ (congrArg Vid.sess (Within.same (l := [.host, .mem]) (by simp) .vid (by decide)))
  unfold State.veqPut
  rw [State.doorbell_rings]
  cases r.dst <;> rfl

theorem State.settleSess_outputs (x k : Nat) : Outputs k s (s.settleSess x k) := by
  have h (j : Nat) := s.updSess_sess k (fun y => if y.st = .closing || y.st = .running then y
    else { y with st := if s.sessKept x k then .waitQueue else if y.st = .waitQueue then .idle else y.st }) j
  have hk : ∀ p : Sess → Prop, (∀ y st, p y → p { y with st }) → p (s.sess k) → p ((s.settleSess x k).sess k) := by
    intro p hp h0
    unfold State.settleSess
    rw [h, if_pos rfl]
    split
    · exact h0
    · exact hp _ _ h0
  refine ⟨rfl, fun j hj => (h j).trans (if_neg hj), hk (·.subs = _) (fun _ _ e => e) rfl, hk (·.cfg = _) (fun _ _ e => e) rfl,
    hk (fun y => ∀ i, (y.bufs.get i).output = true → ((s.sess k).bufs.get i).output = true) (fun _ _ e => e) fun _ e => e⟩

theorem State.vidRecord_outputs (x k : Nat) (r : VidRec) : Outputs k s (s.vidRecord x k r) := by
  unfold State.vidRecord
  dsimp only
  split
  · exact State.veqPut_outputs x k _
  · exact (Outputs.of_vid rfl rfl).trans (State.settleSess_outputs x k)

theorem State.outputBuf_outputs (x k i : Nat) :
    Outputs k s (s.outputBuf x k i) ∧ (((s.outputBuf x k i).sess k).bufs.get i).output = false := by
  have hb (j : Nat) := s.updBuf_sess k i j fun b => { b with output := false, hostRefs := b.hostRefs + 1 }
  have hu : Outputs k s (s.updBuf k i fun b => { b with output := false, hostRefs := b.hostRefs + 1 }) := by
    refine ⟨by rw [State.updBuf_host], fun j hj => (hb j).trans (if_neg hj), by rw [hb, if_pos rfl], by rw [hb, if_pos rfl], fun j ho => ?_⟩
    rw [hb, if_pos rfl] at ho
    by_cases hj : j = i
    · simp [hj] at ho
    · simpa [Tbl.get_set, hj] using ho
  have hr := State.vidRecord_outputs (s := s.updBuf k i fun b => { b with output := false, hostRefs := b.hostRefs + 1 }) x k
  refine ⟨hu.trans (hr _), ?_⟩
  obtain ⟨-, -, -, -, ho⟩ := hr _
  refine Bool.eq_false_iff.2 fun h => ?_
  have := ho i h
  rw [hb, if_pos rfl] at this
  simp at this

theorem foldS_outputBuf (x k : Nat) (l : List Nat) : Outputs k s (foldS l (fun s i => s.outputBuf x k i) s) ∧
    ∀ i ∈ l, (((foldS l (fun s i => s.outputBuf x k i) s).sess k).bufs.get i).output = false := by
  induction l generalizing s with
  | nil => exact ⟨Outputs.refl k s, fun i hi => absurd hi List.not_mem_nil⟩
  | cons a l ih =>
    obtain ⟨ha, hf⟩ := s.outputBuf_outputs x k a
    obtain ⟨hl, hg⟩ := ih (s := s.outputBuf x k a)
    rw [foldS_cons]
    refine ⟨ha.trans hl, fun i hi => ?_⟩
    obtain rfl | hi := List.mem_cons.1 hi
    · obtain ⟨-, -, -, -, ho⟩ := hl
      refine Bool.eq_false_iff.2 fun h => ?_
      rw [ho _ h] at hf
      cases hf
    · exact hg i hi

/-- The end of a session's only submission. -/
theorem State.auDone_one {x k : Nat} {q : VidSub} (status : Nat) (hq : (s.sess k).subs = [q]) :
    (s.auDone x k q status).host.rings = s.host.rings ∧ ((s.auDone x k q status).sess k).subs = [] ∧
      (∀ j, j ≠ k → (s.auDone x k q status).sess j = s.sess j) ∧ ((s.auDone x k q status).sess k).cfg = (s.sess k).cfg ∧
      ∀ i, (((s.auDone x k q status).sess k).bufs.get i).output = true → ((s.sess k).bufs.get i).output = true := by
  unfold State.auDone
  extract_lets flags bytes
  generalize hv : s.vidRecord x k _ = v
  have hr : Outputs k s v := hv ▸ State.vidRecord_outputs x k _
  obtain ⟨hrings, hj, hs, hc, ho⟩ := hr
  have hp (b : Binding) : ((v.consAdd (cid 0x3B x) 1).releasePeg q.peg b).vid = v.vid ∧
      ((v.consAdd (cid 0x3B x) 1).releasePeg q.peg b).host = v.host := by
    constructor
    · exact Within.same (a := v) (l := [.tel, .peg]) (by simp) .vid (by decide)
    · exact Within.same (a := v) (l := [.tel, .peg]) (by simp) .host (by decide)
  have hsess (j : Nat) : (v.subEnd x k q).sess j =
      if j = k then { v.sess j with subs := (v.sess j).subs.filter fun r => r.order ≠ q.order } else v.sess j := by
    unfold State.subEnd
    dsimp only
    rw [State.updSess_sess, State.sess, (hp _).1]
    rfl
  refine ⟨?_, ?_, fun j hn => ?_, ?_, fun i => ?_⟩
  · unfold State.subEnd
    rw [State.updSess_host, (hp _).2, hrings]
  · rw [hsess, if_pos rfl, hs, hq]
    simp
  · rw [hsess, if_neg hn, hj j hn]
  · rw [hsess, if_pos rfl, hc]
  · rw [hsess, if_pos rfl]
    exact ho i

/-- An EOS with nothing before it ends at once: no submission is left, and no buffer waits for output. -/
theorem serveEos_alone {x k n : Nat} {q : VidSub} (hq : (s.sess k).subs = [q]) (hk : q.kind = 4) (hp : s.sessPiped k = false) :
    (serveEos x k (n + 1) s).host.rings = s.host.rings ∧ ((serveEos x k (n + 1) s).sess k).subs = [] ∧
      (∀ j, j ≠ k → (serveEos x k (n + 1) s).sess j = s.sess j) ∧
      ∀ i, i < (s.sess k).cfg.buffers → (((serveEos x k (n + 1) s).sess k).bufs.get i).output = false := by
  obtain ⟨v, hv⟩ : ∃ v, v = foldS (sortBy (fun i => (((s.sess k).bufs.get i).pic.order + 2 ^ 40).toNat)
    ((upto (s.sess k).cfg.buffers).filter fun i => ((s.sess k).bufs.get i).output)) (fun s i => s.outputBuf x k i) s := ⟨_, rfl⟩
  obtain ⟨⟨vr, vj, vs, vc, vo⟩, hout⟩ := foldS_outputBuf (s := s) x k (sortBy (fun i => (((s.sess k).bufs.get i).pic.order + 2 ^ 40).toNat)
    ((upto (s.sess k).cfg.buffers).filter fun i => ((s.sess k).bufs.get i).output))
  rw [← hv] at vr vj vs vc vo hout
  obtain ⟨hr, hs, hj, -, ho⟩ := v.auDone_one (x := x) stOk (vs.trans hq)
  have he : serveEos x k (n + 1) s = v.auDone x k q stOk := by
    have hone : serveEos x k (n + 1) s = serveEos x k n (v.auDone x k q stOk) := by
      rw [serveEos, hq]
      refine (if_pos (by simp [hk, hp])).trans ?_
      dsimp only
      rw [hv]
    rw [hone]
    cases n with
    | zero => rfl
    | succ n => rw [serveEos, hs]
  rw [he]
  refine ⟨hr.trans vr, hs, fun j hn => (hj j hn).trans (vj j hn), fun i hi => Bool.eq_false_iff.2 fun h => ?_⟩
  have hvi := ho i h
  rw [hout i (mem_sortBy.2 (List.mem_filter.2 ⟨List.mem_range.2 hi, vo i hvi⟩))] at hvi
  cases hvi

/-- An EOS that has a submission before it, or whose session a pipe works for, waits. -/
theorem serveEos_waits {x k n : Nat} {h : VidSub} (hh : (s.sess k).subs.head? = some h) (hk : h.kind ≠ 4 ∨ s.sessPiped k = true) :
    serveEos x k n s = s := by
  cases n with
  | zero => rfl
  | succ n =>
    obtain ⟨l, hl⟩ := List.head?_eq_some_iff.1 hh
    unfold serveEos
    rw [hl]
    refine if_neg ?_
    rcases hk with hk | hk <;> simp [hk]

end

end Sys2Proof.Machine

namespace Sys2Proof
open Machine

/-- Settles O45. -/
theorem videoSubmissions : Obligations.VideoSubmissions := by
  unfold Obligations.VideoSubmissions
  intro good
  have hg {s : State} {c : Cmd} (h : good s c) : accepts s c 0x39 [] = true ∧ Submits s c := h
  refine ⟨fun c k s h hk hlen hsub hq => ?_, fun c k s h hk hlen hsub hq => ?_, fun c k s h hk hsub hcap hroi hsrc hq => ?_,
    fun c hd s h hk hn hva => ?_, fun c k s h hk hsub hfree => ?_, fun c k e s h hk hsub hhead hkind hq => ?_,
    fun c k s h hk hsub hsubs hpiped => ?_, fun c s h => ⟨fun hk hlen hsub => ?_, fun hk hsub => ?_, fun hk hsub => ?_,
      fun hk hsub => ?_⟩⟩
  all_goals obtain ⟨hacc, hrun⟩ := hg h
  · obtain ⟨t, e, ha, ht, hj, hs⟩ : ∃ t, exec (.decodeAu c) s = .next t ∧ Answered t c (.of stOk) ∧ (t.sess k).subs =
        (s.sess k).subs ++ [s.submission c k { kind := 0, addr := BitVec.ofNat 64 (c.le 32 8), len := c.le 28 4 }] ∧
        (∀ j, j ≠ k → t.sess j = s.sess j) ∧ Serves [.vid, .peg] c s t := by
      rw [exec_decodeAu hk]
      refine State.row_submits hacc ((hrun.run (more := [(decide (2 ^ 25 < c.le 28 4), 28)]) (by omega) (by simpa using hlen) _).trans ?_)
        fun t ha ht hj hs => ⟨ha, ht, hj, hs⟩
      rw [State.fetched_subSess, hsub]
      exact if_neg (by rw [State.fetched_queued]; omega)
    exact ⟨t, _, e, ha, ht, rfl, rfl, rfl, rfl, rfl, rfl, hj, hs⟩
  · rw [exec_decodeAu hk]
    refine State.row_retries hacc ((hrun.run (more := [(decide (2 ^ 25 < c.le 28 4), 28)]) (by omega) (by simpa using hlen) _).trans ?_)
    rw [State.fetched_subSess, hsub]
    exact if_pos (by rw [State.fetched_queued]; omega)
  · intro n roi hn
    have hrules : ∀ r ∈ [(decide (8 * c.le 28 4 < (s.sess k).cfg.capBits), 28), (decide (16 < n), 40),
        (decide (1 ≤ n) && decide (n ≤ 16) && (!s.vaOk (Cmd.ownCtx c) (c.le 48 8) (16 * n) false || !roi.all (roiOk (s.sess k).cfg)), 48)],
        r.1 = false := by
      have h48 : (decide (1 ≤ n) && decide (n ≤ 16) && (!s.vaOk (Cmd.ownCtx c) (c.le 48 8) (16 * n) false ||
          !roi.all (roiOk (s.sess k).cfg))) = false := by
        rcases hn with h0 | ⟨hva, hall⟩
        · simp [h0]
        · rw [hva, List.all_eq_true.2 hall]
          simp
      simp only [List.mem_cons, List.not_mem_nil, or_false]
      rintro r (rfl | rfl | rfl)
      · simpa using hcap
      · simpa using hroi
      · exact h48
    obtain ⟨t, e, ha, ht, hj, hs⟩ : ∃ t, exec (.encode c) s = .next t ∧ Answered t c (.of stOk) ∧ (t.sess k).subs =
        (s.sess k).subs ++ [s.submission c k
          { kind := 1, addr := BitVec.ofNat 64 (c.le 32 8), len := c.le 28 4, source := c.le 44 4, roi
            forceIdr := (c.byte 18).getLsbD 3, releaseSource := (c.byte 18).getLsbD 4 }] ∧
        (∀ j, j ≠ k → t.sess j = s.sess j) ∧ Serves [.vid, .peg] c s t := by
      rw [exec_encode hk]
      refine State.row_submits (k := k) hacc ?_ fun t ha ht hj hs => ⟨ha, ht, hj, hs⟩
      dsimp only
      rw [State.fetched_subSess, hsub]
      dsimp only
      simp only [State.fetched_sess, State.fetched_mem, State.fetched_vaOk, State.fetched_handleOk, State.fetched_queued, Nat.min_eq_left hroi]
      refine (hrun.run (by omega) hrules _).trans ((if_neg (by simp [hsrc])).trans (if_neg (by omega)))
    exact ⟨t, _, e, ha, ht, rfl, rfl, rfl, rfl, rfl, rfl, rfl, rfl, rfl, rfl, hj, hs⟩
  · intro n b hok
    obtain ⟨body, he, hb⟩ := release_one (h := hd) hrun hk hn hva (n := n) rfl hok
    rw [dropHandles_one ((State.fetched_handleOk ..).trans hok), State.fetched_sess] at hb
    rw [he]
    refine ⟨fun hrefs hname => ?_, fun hrefs hname => ?_, fun hrefs => ?_⟩
    · rw [if_pos hrefs] at hb
      refine State.row_posts [.vid] hacc (hb.trans (if_neg (by simpa using Option.isSome_iff_ne_none.1 hname))) (by decide) (Within.keeps (by simp [cmdBlocks]))
        ((State.updBuf_quiet _ _ _).trans ((Quiet.refl c _).of_eq rfl rfl)) ?_ fun t ha ht hs => ?_
      · rw [show (((s.fetched c).updBuf _ _ _).bufFreed _).host = ((s.fetched c).updBuf _ _ _).host from rfl, State.updBuf_host]
      · have hv (j : Nat) : t.sess j = (((s.fetched c).updBuf (handleSess n) (handleBuf n) fun b =>
            { b with hostRefs := b.hostRefs - 1 }).bufFreed (handleSess n)).sess j := by
          rw [State.sess, State.sess]
          exact congrArg (fun v : Vid => v.sess.get j) (ht.2 .vid (by decide))
        refine ⟨ha, ?_, fun i hi => ?_, fun j hj => ?_, hs⟩
        · rw [hv, State.bufFreed_sess, if_pos rfl, State.updBuf_sess, if_pos rfl, State.fetched_sess]
          simp [b]
        · rw [hv, State.bufFreed_sess, if_pos rfl, State.updBuf_sess, if_pos rfl, State.fetched_sess]
          simp [Tbl.get_set, hi]
        · rw [hv, State.bufFreed_sess, if_neg hj, State.updBuf_sess, if_neg hj, State.fetched_sess]
    · rw [if_pos hrefs] at hb
      exact State.row_refuses hacc (hb.trans (if_pos (by simp [hname]))) (by decide)
    · rw [if_neg (Nat.not_lt.2 (Nat.le_of_eq hrefs))] at hb
      exact State.row_refuses hacc hb (by decide)
  · obtain ⟨p, hp⟩ := (s.fetched c).choose_some (xs := (upto ((s.fetched c).sess k).cfg.buffers).filter fun i =>
      !(((s.fetched c).sess k).bufs.get i).held) (by
        obtain ⟨i, hi, hheld⟩ := hfree
        exact List.ne_nil_of_mem (a := i) (List.mem_filter.2 ⟨List.mem_range.2 (by simpa using hi), by simp [hheld]⟩))
    have hw := State.choose_vid hp
    have hmem := State.choose_mem hp
    rw [State.fetched_sess, List.mem_filter] at hmem
    have hpv (j : Nat) : p.2.sess j = s.sess j := by rw [State.sess, hw.same .vid (by decide), State.fetched_vid, State.sess]
    obtain ⟨t, e, ha, ht, hs⟩ : ∃ t, exec (.acquire c) s = .next t ∧
        Answered t c (.ok (leBytes 4 (handleOf k p.1) ++ leBytes 4 0 ++ leBytes 8 (s.bufVa k p.1))) ∧
        KeepsBut cmdBlocks (p.2.updBuf k p.1 fun b => { b with hostRefs := 1 }) t ∧ Serves [.vid, .fresh] c s t := by
      rw [exec_acquire hk]
      refine State.row_posts [.vid, .fresh] (u := p.2.updBuf k p.1 fun b => { b with hostRefs := 1 }) hacc
        ((hrun.run (more := []) (by omega) (by simp) _).trans ?_) (Reply.ok_status_ne_busy _) (Within.keeps (by simp [cmdBlocks, hw.mono])) 
        (((Quiet.refl c _).of_eq (hw.same .host (by decide)) (hw.same .tel (by decide))).trans (State.updBuf_quiet _ _ _)) ?_ fun t ha ht hs => ⟨ha, ht, hs⟩
      · rw [State.fetched_subSess, hsub]
        dsimp only
        rw [hp]
        dsimp only
        rw [State.bufVa, State.updBuf_sess, if_pos rfl, hpv]
        rfl
      · rw [State.updBuf_host, hw.same .host (by decide)]
    have hv (j : Nat) : t.sess j = (p.2.updBuf k p.1 fun b => { b with hostRefs := 1 }).sess j := by
      rw [State.sess, State.sess, show t.vid = (p.2.updBuf k p.1 fun b => { b with hostRefs := 1 }).vid from ht.2 .vid (by decide)]
    refine ⟨t, p.1, e, ha, List.mem_range.1 hmem.1, by simpa using hmem.2, ?_, fun j hj => ?_, fun j hj => ?_, hs⟩
    · rw [hv, State.updBuf_sess, if_pos rfl]
      simp
    · rw [hv, State.updBuf_sess, if_pos rfl, hpv]
      simp [Tbl.get_set, hj]
    · rw [hv, State.updBuf_sess, if_neg hj, hpv]
  · obtain ⟨t, e', ha, ht, hj, hs⟩ : ∃ t, exec (.eos c) s = .next t ∧ Answered t c (.of stOk) ∧ (t.sess k).subs =
        (s.sess k).subs ++ [s.submission c k { kind := 4 }] ∧ (∀ j, j ≠ k → t.sess j = s.sess j) ∧ Serves [.vid, .peg] c s t := by
      rw [exec_eos hk]
      refine State.row_submits hacc ((hrun.run (more := []) (by omega) (by simp) _).trans ?_) fun t ha ht hj hs => ⟨ha, ht, hj, hs⟩
      rw [State.fetched_subSess, hsub]
      refine (if_neg (by rw [State.fetched_queued]; omega)).trans (congrArg (Verdict.reply · _) (serveEos_waits (h := e) ?_ ?_))
      · rw [State.accept_sess, if_pos rfl, State.fetched_sess, List.head?_append, hhead]
        rfl
      · rw [State.accept_piped, State.fetched_sessPiped]
        exact hkind
    exact ⟨t, _, e', ha, ht, rfl, rfl, hj, hs⟩
  · have hq : ¬ 16 ≤ s.queued k := by
      rw [State.queued, hsubs, List.length_nil]
      omega
    obtain ⟨v, hv⟩ : ∃ v, v = (s.fetched c).accept c k { kind := 4 } := ⟨_, rfl⟩
    have hvk (j : Nat) : v.sess j = if j = k then { s.sess j with subs := (s.sess j).subs ++ [s.submission c k { kind := 4 }] } else s.sess j := by
      rw [hv, State.accept_sess, State.fetched_submission, State.fetched_sess]
    obtain ⟨hr, hs, hj, ho⟩ := serveEos_alone (s := v) (x := (v.sess k).ctx) (k := k) (n := 15) (q := s.submission c k { kind := 4 })
      (by rw [hvk, if_pos rfl, hsubs]; rfl) rfl (by rw [hv, State.accept_piped, State.fetched_sessPiped, hpiped])
    obtain ⟨t, e, ha, ht⟩ : ∃ t, exec (.eos c) s = .next t ∧ Answered t c (.of stOk) ∧
        KeepsBut cmdBlocks (serveEos (v.sess k).ctx k 16 v) t := by
      rw [exec_eos hk]
      refine State.row_changes hacc ((hrun.run (more := []) (by omega) (by simp) _).trans ?_) (by decide) ?_ fun t ha ht => ⟨ha, ht⟩
      · rw [State.fetched_subSess, hsub]
        refine (if_neg (by rwa [State.fetched_queued])).trans ?_
        dsimp only
        rw [← hv]
      · rw [hr, hv, State.accept_host]
    have htv (j : Nat) : t.sess j = (serveEos (v.sess k).ctx k 16 v).sess j := by
      rw [State.sess, State.sess, show t.vid = (serveEos (v.sess k).ctx k 16 v).vid from ht.2 .vid (by decide)]
    refine ⟨t, e, ha, by rw [htv, hs], fun i hi => ?_, fun j hn => ?_⟩
    · rw [htv]
      exact ho i (by rw [hvk, if_pos rfl]; exact hi)
    · rw [htv, hj j hn, hvk, if_neg hn]
  · rw [exec_decodeAu hk]
    refine State.row_refuses hacc ((hrun.run (more := [(decide (2 ^ 25 < c.le 28 4), 28)]) (by omega) (by simpa using hlen) _).trans ?_) (by decide)
    rw [State.fetched_subSess, hsub]
  · rw [exec_encode hk]
    refine State.row_refuses hacc ?_ (by decide)
    dsimp only
    rw [State.fetched_subSess, hsub]
    exact hrun.run (more := []) (by omega) (by simp) _
  · rw [exec_acquire hk]
    refine State.row_refuses hacc ((hrun.run (more := []) (by omega) (by simp) _).trans ?_) (by decide)
    rw [State.fetched_subSess, hsub]
  · rw [exec_eos hk]
    refine State.row_refuses hacc ((hrun.run (more := []) (by omega) (by simp) _).trans ?_) (by decide)
    rw [State.fetched_subSess, hsub]

end Sys2Proof

/-! Gap and standby (O48). -/

namespace Sys2Proof.Machine

section
variable {s t u : State}

/-! ### Control cores (17, R459-R476) -/

theorem coreNo_other (k : CoreAB) : coreNo (coreOther k) ≠ coreNo k := by cases k <;> decide

theorem State.updCtlCore_same (k : CoreAB) (f : CtlCore → CtlCore) : (s.updCtlCore k f).ctlCore k = f (s.ctlCore k) :=
  Tbl.get_upd_same _ _ _

theorem State.updCtlCore_other (k : CoreAB) (f : CtlCore → CtlCore) : (s.updCtlCore (coreOther k) f).ctlCore k = s.ctlCore k :=
  Tbl.get_upd_ne _ _ (coreNo_other k).symm

/-- What a core's access as if it were the owner changes, wherever it comes from. -/
theorem State.notOwner_cores (k : CoreAB) : s.notOwner.ctlCore k = s.ctlCore k := by
  unfold State.notOwner
  split <;> rfl

theorem State.writeEntry_inflight (f n : Nat) (e : Completion) (q : Bool) : (s.writeEntry f n e q).host.inflight = s.host.inflight := by
  have hd (v : State) (g j : Nat) : (v.doorbell g j).host.inflight = v.host.inflight := by
    obtain ⟨funcs, msgs, h⟩ := v.doorbell_host g j
    rw [h]
  unfold State.writeEntry
  dsimp only
  split
  · rfl
  · split
    · exact hd _ _ _
    · split
      · rfl
      · exact hd _ _ _

theorem State.finish_inflight (f n : Nat) (q : Word) (since : Nat) (b : Bool) (r : Reply) :
    (s.finish f n q since b r).host.inflight = s.host.inflight := by
  have hfold (l : List Nat) (e : Completion) (v : State) :
      (foldS l (fun s _ => (s.writeEntry f n e b).consAdd (cid 0x42 f) 1) v).host.inflight = v.host.inflight := by
    induction l generalizing v with
    | nil => rfl
    | cons a l ih => exact (ih _).trans (State.writeEntry_inflight ..)
  have hsample (v : State) (h x : Nat) : (v.sample h x).host.inflight = v.host.inflight := rfl
  unfold State.finish
  dsimp only
  rw [hfold, State.writeEntry_inflight]
  rfl

theorem State.complete_inflight (i : Inflight) (r : Reply) : (s.complete i r).host.inflight = s.host.inflight.erase i :=
  State.finish_inflight ..

theorem foldS_complete_inflight (g : Inflight → Reply) (l : List Inflight) :
    (foldS l (fun s i => s.complete i (g i)) s).host.inflight = l.foldl List.erase s.host.inflight := by
  induction l generalizing s with
  | nil => rfl
  | cons i l ih => rw [foldS_cons, ih, State.complete_inflight, List.foldl_cons]

/-- Erasing entries one by one takes as many of each as are listed. -/
theorem count_foldl_erase {α : Type} [BEq α] [LawfulBEq α] (x : α) (l r : List α) :
    (r.foldl List.erase l).count x = l.count x - r.count x := by
  induction r generalizing l with
  | nil => rw [List.foldl_nil, List.count_nil, Nat.sub_zero]
  | cons y r ih => rw [List.foldl_cons, ih, List.count_erase, List.count_cons, Nat.sub_sub, Nat.add_comm]

/-- Completing commands takes from those in flight the ones that wait for it, and no other. -/
theorem State.completeAll_waits {p : WaitFor → Bool} (g : Inflight → Reply) {i : Inflight} (h : i ∈ (s.completeAll p g).host.inflight) :
    p i.wait = false := by
  rw [State.completeAll, foldS_complete_inflight] at h
  refine Bool.eq_false_iff.2 fun hp => ?_
  have hc := List.count_pos_iff.2 h
  rw [count_foldl_erase, List.count_filter (p := fun i : Inflight => p i.wait) hp, Nat.sub_self] at hc
  exact absurd hc (Nat.lt_irrefl 0)

theorem Peer.exchange_st (p : Peer) (n : Word) : (p.exchange n).st = p.st := by
  unfold Peer.exchange
  split <;> rfl

theorem Peer.exchange_port (p : Peer) (n : Word) : (p.exchange n).port = p.port := by
  unfold Peer.exchange
  split <;> rfl

/-- The peers' ports are as before, and no session came up. -/
def PeersFall (s t : State) : Prop := ∀ e, (t.peer e).port = (s.peer e).port ∧ ((t.peer e).st = .up → (s.peer e).st = .up)

namespace PeersFall

theorem refl (s : State) : PeersFall s s := fun _ => ⟨rfl, id⟩

theorem trans (h : PeersFall s t) (k : PeersFall t u) : PeersFall s u := fun e =>
  ⟨(k e).1.trans (h e).1, fun x => (h e).2 ((k e).2 x)⟩

theorem within {l : List Block} (h : Within l s t) (hl : Block.lnk ∉ l) : PeersFall s t := fun e => by
  rw [State.peer, State.peer, h.same .lnk hl]
  exact ⟨rfl, id⟩

theorem updPeer {e : Nat} {f : Peer → Peer} (hp : (f (s.peer e)).port = (s.peer e).port)
    (hs : (f (s.peer e)).st = .up → (s.peer e).st = .up) : PeersFall s (s.updPeer e f) := fun j => by
  have hj : (s.updPeer e f).peer j = if j = e then f (s.peer e) else s.peer j := by
    rw [State.updPeer_peer]
    split
    · next h => rw [h]
    · rfl
  rw [hj]
  split
  · next h => rw [h]; exact ⟨hp, hs⟩
  · exact ⟨rfl, id⟩

theorem foldS {α : Type} {g : State → α → State} (h : ∀ s a, PeersFall s (g s a)) (l : List α) : PeersFall s (foldS l g s) := by
  induction l generalizing s with
  | nil => exact refl s
  | cons a l ih => exact (h s a).trans ih

theorem transmit (e : Nat) (f : OutFrame) : PeersFall s (s.transmit e f) := by
  unfold State.transmit
  extract_lets u
  have hu : PeersFall s u := by
    unfold u
    split
    · exact within (l := [.tel]) (by simp) (by decide)
    · exact refl s
  exact hu.trans (updPeer (Peer.exchange_port _ _) fun h => (Peer.exchange_st _ _).symm.trans h)

theorem sendFrame (e : Nat) (f : OutFrame) : PeersFall s (s.sendFrame e f) := by
  unfold State.sendFrame
  split
  · exact refl s
  · split
    · exact updPeer rfl id
    · exact transmit e f

theorem stageEnds (cause : Nat) : PeersFall s (s.stageEnds cause) := within (l := [.ctl, .host, .tel]) (by simp) (by decide)

theorem relayDrop (e : Nat) : PeersFall s (s.relayDrop e) := by
  unfold State.relayDrop
  extract_lets streaming v
  have hv : PeersFall s v := within (l := [.ctl]) (by simp [v]) (by decide)
  split
  · exact refl s
  · split
    · split
      · exact stageEnds 1
      · exact hv
    · split
      · exact hv.trans (sendFrame _ _)
      · exact hv

theorem revokeDeps (e c k gen : Nat) : PeersFall s (s.revokeDeps e c k gen) := by
  unfold State.revokeDeps
  extract_lets mark v
  have hv : PeersFall s v := foldS (fun s j => within (l := [.ctxs]) (by simp) (by decide)) _
  exact hv.trans (updPeer rfl id)

theorem retireCredits (e : Nat) : PeersFall s (s.retireCredits e) := by
  unfold State.retireCredits
  refine (updPeer rfl id).trans (foldS (fun s fam => foldS (fun s v => within (l := [.tel]) (by simp) (by decide)) _) _)

/-- A session that goes down falls, and no other rises. -/
theorem sessionDown (e : Nat) : PeersFall s (s.sessionDown e) ∧ ((s.sessionDown e).peer e).st ≠ .up := by
  unfold State.sessionDown
  extract_lets p a b c d
  split
  · next h => exact ⟨refl s, h⟩
  · have hc : PeersFall s c := ((relayDrop e).trans (foldS (fun s x => revokeDeps _ _ _ _) _)).trans (retireCredits e)
    have hd : PeersFall s d := hc.trans ((within (l := [.tel]) (by simp) (by decide)).trans (updPeer rfl (fun h => by cases h)))
    have hb : Within [.host] d (d.doorbell 0 15) := by simp
    refine ⟨hd.trans (within hb (by decide)), ?_⟩
    rw [State.peer, hb.same .lnk (by decide)]
    have hst : (d.peer e).st = .down := by
      unfold d
      rw [State.updPeer_peer_same]
    intro h
    rw [show (d.lnk.peers.get e).st = (d.peer e).st from rfl, hst] at h
    cases h

/-- Every session of a list goes down. -/
theorem sessionsDown (l : List Nat) : PeersFall s (Machine.foldS l State.sessionDown s) ∧
    ∀ e ∈ l, ((Machine.foldS l State.sessionDown s).peer e).st ≠ .up := by
  induction l generalizing s with
  | nil => exact ⟨refl s, fun e he => absurd he List.not_mem_nil⟩
  | cons a l ih =>
    obtain ⟨hs, ha⟩ := sessionDown (s := s) a
    obtain ⟨hl, he⟩ := ih (s := s.sessionDown a)
    rw [foldS_cons]
    refine ⟨hs.trans hl, fun e h => ?_⟩
    obtain rfl | h := List.mem_cons.1 h
    · exact fun hu => ha ((hl _).2 hu)
    · exact he e h

end PeersFall

/-- An entry of a table that is not the default one is among its entries. -/
theorem Tbl.mem_of_get_ne {α : Type} [Inhabited α] {t : Tbl α} {k : Nat} (h : t.get k ≠ default) : (k, t.get k) ∈ t := by
  induction t with
  | nil => exact absurd rfl h
  | cons e t ih =>
    obtain ⟨j, v⟩ := e
    by_cases hj : j = k
    · simp [Tbl.get, hj]
    · simp only [Tbl.get, hj, if_false] at h ⊢
      exact List.mem_cons_of_mem _ (ih h)

theorem State.mem_peersIn {e : Nat} {st : PeerSt} (h : (s.peer e).st = st) (hst : st ≠ .empty) : e ∈ s.peersIn st := by
  refine List.mem_map.2 ⟨(e, s.peer e), List.mem_filter.2 ⟨Tbl.mem_of_get_ne fun hd => hst ?_, by simpa using h⟩, rfl⟩
  rw [← h, State.peer, hd]
  rfl

theorem State.portSessionsDown_none (p e : Nat) (he : (s.peer e).port.val = p) : ((s.portSessionsDown p).peer e).st ≠ .up := by
  obtain ⟨hfall, hdown⟩ := PeersFall.sessionsDown (s := s) ((s.peersIn .up).filter fun e => (s.peer e).port.val = p)
  intro h
  have hup := (hfall e).2 h
  exact hdown e (List.mem_filter.2 ⟨State.mem_peersIn hup (by decide), by simpa using he⟩) h

/-- What the codec's restart does to one pipe. -/
def State.abandonPipe (s : State) (p : Nat) : State :=
  let q := s.vid.pipes.get p
  if q.busy then
    let k := sessKey q.session q.enc
    let s := if q.enc then
        match (s.sess k).subs.head? with
        | some r => s.updBuf (handleSess r.source) (handleBuf r.source) fun b => { b with piped := false }
        | none => s
      else s.updBuf k q.target fun b => { b with piped := false }
    let s := s.updSess k fun x => { x with st := if x.st = .running then .idle else x.st, restart := true }
    s.updVid fun v => { v with pipes := v.pipes.set p {} }
  else s

theorem State.abandonPictures_eq : s.abandonPictures = foldS (upto 3) State.abandonPipe s := rfl

theorem State.updBuf_pipes (k i : Nat) (f : FrameBuf → FrameBuf) : (s.updBuf k i f).vid.pipes = s.vid.pipes := by
  unfold State.updBuf
  dsimp only
  split
  · rfl
  · split <;> rfl

theorem State.abandonPipe_busy (p j : Nat) : ((s.abandonPipe p).vid.pipes.get j).busy = (!decide (j = p) && (s.vid.pipes.get j).busy) := by
  unfold State.abandonPipe
  extract_lets q k a b
  have ha : a.vid.pipes = s.vid.pipes := by
    unfold a
    split
    · split
      · exact State.updBuf_pipes ..
      · rfl
    · exact State.updBuf_pipes ..
  split
  · rw [State.updVid_vid, show (b.vid.pipes.set p {}).get j = if j = p then {} else b.vid.pipes.get j from Tbl.get_set ..,
      show b.vid.pipes = s.vid.pipes from ha]
    by_cases h : j = p
    · rw [if_pos h]
      simp [h]
    · rw [if_neg h]
      simp [h]
  · next h =>
    by_cases hj : j = p
    · rw [hj]
      simpa using h
    · simp [hj]

theorem foldS_abandonPipe_busy (l : List Nat) (j : Nat) :
    ((foldS l State.abandonPipe s).vid.pipes.get j).busy = (!decide (j ∈ l) && (s.vid.pipes.get j).busy) := by
  induction l generalizing s with
  | nil => simp
  | cons p l ih =>
    rw [foldS_cons, ih, State.abandonPipe_busy]
    by_cases hj : j = p <;> simp [hj]

end

end Sys2Proof.Machine

namespace Sys2Proof
open Machine

/-- Settles O48. -/
theorem gapAndStandby : Obligations.GapAndStandby := by
  unfold Obligations.GapAndStandby
  refine ⟨fun s hg h2 ht => ?_, fun s hg h2 ht => ?_, fun k s ho hg hh hp => ?_, fun k f s ho hg hf hh hp => ?_,
    fun k s ho hk hh hm hc hp hst => ?_, fun n s ho hg hst hpow => ?_⟩
  · refine ⟨_, congrArg Host.Outcome.next ((if_neg (by simp [hg])).trans ((if_pos (by simp [h2])).trans (if_neg (by omega)))), ?_, ?_, ?_, ?_⟩
    · exact hg
    · rfl
    · rfl
    · exact Within.keeps (by simp)
  · obtain ⟨u, hu⟩ : ∃ u, u = ((s.updCtl fun c => { c with gap := false, successor := none }).updGlb fun g =>
        { g with state := .suspect, noControlCore := true, dozeEntering := false }).updBoard fun b => { b with health := false, suspect := true } := ⟨_, rfl⟩
    have e : exec .gapExpiry s = .next (u.completeAll (fun w => w != .attest) fun _ => .of stSuspect) := by
      rw [hu]
      exact congrArg Host.Outcome.next ((if_neg (by simp [hg])).trans ((if_neg (by simp [h2])).trans (if_neg (by omega))))
    have hw : Within [.host, .tel] u (u.completeAll (fun w => w != .attest) fun _ => .of stSuspect) := by simp
    have hctl := hw.same .ctl (by decide)
    have hglb := hw.same .glb (by decide)
    have hboard := hw.same .board (by decide)
    refine ⟨_, e, ?_, ?_, ?_, ?_, ?_, ?_, fun i hi => ?_, ?_⟩
    · rw [hctl, hu]; rfl
    · rw [hctl, hu]; rfl
    · rw [hglb, hu]; rfl
    · rw [hglb, hu]; rfl
    · rw [hboard, hu]; rfl
    · rw [hboard, hu]; rfl
    · simpa using State.completeAll_waits _ hi
    · exact (Within.keeps (l := [.ctl, .glb, .board]) (by simp [hu])).mono (by simp +contextual [cmdBlocks]) |>.trans (hw.keeps.mono (by simp [cmdBlocks]))
  · have e : exec (.selfTestCycle 0) s = .next (s.notOwner.updCtlCore (coreOther k) fun x =>
        { x with health := .standbyOk, failCycles := 0, cleanSince := some (x.cleanSince.getD s.notOwner.time) }) := by
      show execSelfTestCycle 0 s = _
      unfold execSelfTestCycle
      rw [ho]
      refine congrArg Host.Outcome.next ((if_neg (by simp [hg, hh])).trans ((if_pos rfl).trans ((if_neg ?_).trans rfl)))
      simp [hp]
    refine ⟨_, e, ?_, ?_, ?_, Within.keeps (by simp)⟩
    · rw [State.updCtlCore_same]
    · rw [State.updCtlCore_same]
    · rw [State.updCtlCore_other, State.notOwner_cores]
  · obtain ⟨u, hu⟩ : ∃ u, u = if f.val = 4 then s else s.notOwner := ⟨_, rfl⟩
    have huc (j : CoreAB) : u.ctlCore j = s.ctlCore j := by
      rw [hu]
      split
      · rfl
      · exact State.notOwner_cores j
    have e : exec (.selfTestCycle f) s = .next (u.updCtlCore (coreOther k) fun x =>
        { x with
          health := if 3 ≤ (u.ctlCore (coreOther k)).failCycles + 1 then .failed else .standbyFail
          failCycles := (u.ctlCore (coreOther k)).failCycles + 1, lastFail := f.val, cleanSince := none }) := by
      show execSelfTestCycle f s = _
      unfold execSelfTestCycle
      rw [ho, hu]
      refine congrArg Host.Outcome.next ((if_neg (by simp [hg, hh])).trans ((if_neg hf).trans (if_neg ?_)))
      simp [hp]
    refine ⟨_, e, ?_, ?_, ?_, ?_⟩
    · rw [State.updCtlCore_same, huc]
    · rw [State.updCtlCore_same]
    · rw [State.updCtlCore_same, huc]
      dsimp only
      split
      · next h => exact ⟨fun _ => by omega, fun _ => rfl⟩
      · next h => exact ⟨fun h => Health.noConfusion h, fun h => absurd h (by omega)⟩
    · rw [hu]
      split <;> exact Within.keeps (by simp)
  · show execTakeBack s = _
    unfold execTakeBack
    rw [ho]
    refine congrArg Host.Outcome.next (if_pos ?_)
    have hup : s.ctl.updating = false := by
      simp only [List.mem_cons, List.not_mem_nil, or_false] at hp
      rcases hp with h | h <;> simp [Ctl.updating, h]
    simp [hk, hh, hm, hc, hup, hst]
  · have e : exec (.subHeartbeatMiss n) s = .next (if n.val = 0 then (s.bump (ctlBase + 0x20)).abandonPictures
        else if n.val < 5 then (s.bump (ctlBase + 0x20)).portSessionsDown (n.val - 1) else s.bump (ctlBase + 0x20)) :=
      congrArg Host.Outcome.next (if_neg (by
        obtain ⟨k, hk⟩ := Option.isSome_iff_exists.1 ho
        simp only [hk, hg, hpow, Option.isNone_some, Bool.not_true, Bool.or_false, Bool.false_or, decide_eq_true_eq]
        omega))
    refine ⟨_, e, fun h => ?_, fun h => ⟨fun p hp => ?_, ?_⟩, fun h1 h4 j hj hport => ?_⟩
    · rw [if_neg (by omega), if_neg (by omega)]
    · rw [if_pos h, State.abandonPictures_eq, foldS_abandonPipe_busy]
      simp [upto, hp]
    · rw [if_pos h]
      exact Within.keeps (by simp)
    · rw [if_neg (by omega), if_pos (by omega)]
      refine State.portSessionsDown_none _ j ?_
      have hb : Within [.tel] s (s.bump (ctlBase + 0x20)) := by simp
      rw [State.peer, hb.same .lnk (by decide)]
      exact hport

end Sys2Proof

/-! Firmware commands (O49). -/

namespace Sys2Proof.Machine

section
variable {s t u : State} {c : Cmd}

/-! ### Firmware (17, R477-R483) -/

@[simp] theorem State.fetched_verified (b : Bundle) : (s.fetched c).verified b = s.verified b := by
  simp [State.verified]

@[simp] theorem State.fetched_ctlCore (k : CoreAB) : (s.fetched c).ctlCore k = s.ctlCore k := by
  simp [State.ctlCore]

@[simp] theorem State.fetched_cleanS (k : CoreAB) : (s.fetched c).cleanS k = s.cleanS k := by
  simp [State.cleanS]

@[simp] theorem State.fetched_sessionOf (id : BitVec 128) : (s.fetched c).sessionOf id = s.sessionOf id := by
  simp [State.sessionOf, State.peersIn, State.peer]

/-- A bundle that lies complete in staging. -/
theorem State.staged_ctl (b : Bundle) : (s.staged b).ctl.staging = (if s.verified b then .valid else .invalid) ∧
    (s.staged b).ctl.staged = some b ∧
    (s.staged b).ctl.recoveryAt = if s.verified b && s.glb.state = .recovery then some (s.time + secNs) else s.ctl.recoveryAt := by
  unfold State.staged
  extract_lets good u
  split
  · next h => exact ⟨rfl, rfl, (if_pos h).symm⟩
  · next h => exact ⟨rfl, rfl, (if_neg h).symm⟩

/-- The start of a relay chain of `n` modules, with the bundle in the module's own staging. -/
def State.stageBegun (s : State) (b : Bundle) (n : Nat) : State :=
  (s.staged b).updCtl fun k =>
    { k with
      chain := n, hopsGood := 0, hopFail := none, reported := [], lastFrame := (s.staged b).time
      ownVerified := (s.staged b).verified b, relayUp := none, relayDown := none }

theorem State.stageBegun_ctl (b : Bundle) (n : Nat) :
    (s.stageBegun b n).ctl.staging = (if s.verified b then .valid else .invalid) ∧ (s.stageBegun b n).ctl.staged = some b ∧
    (s.stageBegun b n).ctl.recoveryAt =
      if s.verified b && s.glb.state = .recovery then some (s.time + secNs) else s.ctl.recoveryAt := by
  unfold State.stageBegun
  rw [State.updCtl_ctl]
  exact s.staged_ctl b

theorem State.stageBegun_within (b : Bundle) (n : Nat) : Within [.ctl] s (s.stageBegun b n) := by
  simp [State.stageBegun]

theorem State.stageBegun_verified (b : Bundle) (n : Nat) : (s.stageBegun b n).ctl.ownVerified = s.verified b := by
  have h : (s.staged b).sec = s.sec := Within.same (l := [.ctl]) (by simp) .sec (by decide)
  show (s.staged b).verified b = s.verified b
  rw [State.verified, h, State.verified]

theorem State.stageBegun_reply (b : Bundle) (n : Nat) : (s.stageBegun b n).ctl.stageReply =
    { status := if s.verified b then stOk else stDigest, result := [0, 0, 0xFF, 0xFF, 0] } := by
  have hb : leBytes 2 0 ++ (leBytes 2 0xFFFF ++ [0]) = [0, 0, 0xFF, 0xFF, 0] := by decide
  unfold Ctl.stageReply
  rw [State.stageBegun_verified, show (s.stageBegun b n).ctl.hopsGood = 0 from rfl,
    show (s.stageBegun b n).ctl.hopFail = none from rfl]
  exact congrArg (Reply.mk _ _) hb

theorem State.stageBegun_sessionOf (b : Bundle) (n : Nat) (id : BitVec 128) : (s.stageBegun b n).sessionOf id = s.sessionOf id := by
  have h : (s.stageBegun b n).lnk = s.lnk := (s.stageBegun_within b n).same .lnk (by decide)
  simp only [State.sessionOf, State.peersIn, State.peer, h]

/-- The FW_STAGE's frames on their way to the first module of the chain. -/
def State.streams (s : State) (e len : Nat) : State :=
  foldS (upto (cdiv len 2048)) (fun s i => s.sendFrame e { typ := 0x06, vc := 3, len := some (min 2048 (len - 2048 * i)) })
    (s.updCtl fun k => { k with relayDown := some e })

theorem State.streams_within (e len : Nat) :
    Within [.lnk, .tel] (s.updCtl fun k => { k with relayDown := some e }) (s.streams e len) := by
  simp [State.streams, foldS_within]

theorem Ctl.stageReply_status_ne (k : Ctl) : k.stageReply.status ≠ stBusy := by
  unfold Ctl.stageReply
  dsimp only
  split <;> decide

/-- A FW_STAGE that the module may take. -/
def MayStage (s : State) (c : Cmd) : Prop :=
  reservedZero c [(24, 35), (40, 49)] = true ∧ c.le 32 4 ≤ 64 * 2 ^ 20 ∧ c.le 48 2 ≤ 255 ∧
    (s.glb.state = .recovery → c.le 48 2 = 0) ∧ s.ctl.updating = false ∧ s.ctl.staging ≠ .pending ∧
    ∀ i ∈ s.host.inflight, i.wait ≠ .fwStage

theorem MayStage.body (h : MayStage s c) (v : Verdict) :
    (params s c [(24, 35), (40, 49)]
      [(decide (64 * 2 ^ 20 < c.le 32 4), 32), (decide (255 < c.le 48 2) || (s.glb.state == .recovery && c.le 48 2 != 0), 48)] <|
      if s.ctl.updating || s.ctl.staging = .pending || (s.host.inflight.any fun i => i.wait == .fwStage) then .reply s (.of stBusy)
      else v) = v := by
  obtain ⟨hz, hlen, hn, hrec, hup, hpend, hwait⟩ := h
  have h48 : (decide (255 < c.le 48 2) || (s.glb.state == .recovery && c.le 48 2 != 0)) = false := by
    by_cases hr : s.glb.state = .recovery
    · simp [hrec hr]
    · simp [hr, Nat.not_lt.2 hn]
  refine (params_run _ hz ?_).trans (if_neg (by simpa [hup, hpend] using hwait))
  simp only [List.mem_cons, List.not_mem_nil, or_false]
  rintro r (rfl | rfl)
  · exact decide_eq_false (Nat.not_lt.2 hlen)
  · exact h48

theorem MayStage.fetched (h : MayStage s c) : MayStage (s.fetched c) c := by
  simpa only [MayStage, State.fetched_glb, State.fetched_ctl, State.fetched_inflight] using h

/-- The rules of a FW_ACTIVATE. -/
def activateBody (c : Cmd) (live : Bool) (k : State → Bundle → Verdict) (s : State) : Verdict :=
  params s c [(16, 17)] [(decide (1 < (c.byte 16).toNat), 16), (decide (1 < (c.byte 17).toNat), 17)] <|
  match s.ctl.staged with
  | none => .reply s (.of stNotBound)
  | some b =>
    checks s
      [(s.ctl.staging != .valid, .of stNotBound), (s.ctl.updating, .of stBusy),
       (live && (s.ctl.owner.map fun o => (s.ctlCore (coreOther o)).health).getD .off != .standbyOk, .of stBusy),
       (live && !s.ctl.formatsMeet b, .of stBadVersion), (decide (b.svn.toNat < s.sec.svn.toNat), .of stDenied)] <|
    k (s.updCtl fun x => { x with commitSvn := (c.byte 17).getLsbD 0 }) b

/-- What is set PENDING for the next start keeps the update's phase, the store's format and the cores. -/
theorem State.setPending_ctl : s.setPending.ctl.pending = true ∧ s.setPending.ctl.staging = .pending ∧
    s.setPending.ctl.phase = s.ctl.phase ∧ s.setPending.ctl.storeFmt = s.ctl.storeFmt ∧ s.setPending.ctl.cores = s.ctl.cores := by
  unfold State.setPending
  rw [State.updCtl_ctl]
  cases s.ctl.staged <;> exact ⟨rfl, rfl, rfl, rfl, rfl⟩

/-- The standby with a bundle's firmware, as a soak begins. -/
def State.soakBegun (s : State) (b : Bundle) : State :=
  let s := s.updCtl fun k => { k with phase := .soakStandby, phaseSince := s.time, soakCycles := 0 }
  match s.ctl.owner with
  | some o => s.updCtlCore (coreOther o) fun k =>
    { k with health := .booting, fwVer := b.version, digest := b.ctlDigest, cleanSince := none, failCycles := 0 }
  | none => s

theorem exec_live (h : (c.byte 16).toNat = 0) : exec (.live c) s = .next (s.row c 0x51 []
    (activateBody c true fun s b => .later (s.soakBegun b) .liveTaken)) :=
  congrArg Host.Outcome.next (State.subRow_eq (by simp [h]) _)

theorem exec_nextStart (h : (c.byte 16).toNat = 1) : exec (.nextStart c) s = .next (s.row c 0x51 []
    (activateBody c false fun s _ => .reply s.setPending (.of stOk))) :=
  congrArg Host.Outcome.next (State.subRow_eq (by simp [h]) _)

section
variable {live : Bool} {k : State → Bundle → Verdict} {b : Bundle} (hz : reservedZero c [(16, 17)] = true) (h16 : (c.byte 16).toNat ≤ 1)
  (h17 : (c.byte 17).toNat ≤ 1)
include hz h16 h17

theorem activateBody_eq (s : State) : activateBody c live k s =
    match s.ctl.staged with
    | none => .reply s (.of stNotBound)
    | some b => checks s
        [(s.ctl.staging != .valid, .of stNotBound), (s.ctl.updating, .of stBusy),
         (live && (s.ctl.owner.map fun o => (s.ctlCore (coreOther o)).health).getD .off != .standbyOk, .of stBusy),
         (live && !s.ctl.formatsMeet b, .of stBadVersion), (decide (b.svn.toNat < s.sec.svn.toNat), .of stDenied)] <|
      k (s.updCtl fun x => { x with commitSvn := (c.byte 17).getLsbD 0 }) b :=
  params_run _ hz (by simp [Nat.not_lt.2 h16, Nat.not_lt.2 h17])

theorem activateBody_none (hn : s.ctl.staged = none ∨ s.ctl.staging ≠ .valid) :
    activateBody c live k s = .reply s (.of stNotBound) := by
  rw [activateBody_eq hz h16 h17]
  cases hs : s.ctl.staged with
  | none => rfl
  | some b =>
    obtain h | h := hn
    · rw [hs] at h
      cases h
    · exact checks_fail (by simpa using h)

theorem activateBody_denied (hs : s.ctl.staged = some b) (hv : s.ctl.staging = .valid) (hu : s.ctl.updating = false)
    (hsvn : b.svn.toNat < s.sec.svn.toNat) : activateBody c false k s = .reply s (.of stDenied) := by
  rw [activateBody_eq hz h16 h17, hs]
  exact (checks_next (by simp [hv])).trans ((checks_next hu).trans ((checks_next rfl).trans ((checks_next rfl).trans
    (checks_fail (by simpa using hsvn)))))

theorem activateBody_go (hs : s.ctl.staged = some b) (hv : s.ctl.staging = .valid) (hu : s.ctl.updating = false)
    (hl : live = true → (∃ o, s.ctl.owner = some o ∧ (s.ctlCore (coreOther o)).health = .standbyOk) ∧ s.ctl.formatsMeet b = true)
    (hsvn : s.sec.svn.toNat ≤ b.svn.toNat) :
    activateBody c live k s = k (s.updCtl fun x => { x with commitSvn := (c.byte 17).getLsbD 0 }) b := by
  rw [activateBody_eq hz h16 h17, hs]
  have hlast : decide (b.svn.toNat < s.sec.svn.toNat) = false := decide_eq_false (Nat.not_lt.2 hsvn)
  cases live with
  | false =>
    exact (checks_next (by simp [hv])).trans ((checks_next hu).trans ((checks_next rfl).trans ((checks_next rfl).trans (checks_next hlast))))
  | true =>
    obtain ⟨⟨o, ho, hh⟩, hf⟩ := hl rfl
    exact (checks_next (by simp [hv])).trans ((checks_next hu).trans ((checks_next (by simp [ho, hh])).trans ((checks_next
      (by simp [hf])).trans (checks_next hlast))))

end

end

end Sys2Proof.Machine

namespace Sys2Proof
open Machine

/-- Settles O49. -/
theorem firmwareCommands : Obligations.FirmwareCommands := by
  unfold Obligations.FirmwareCommands
  refine ⟨fun c b s h hz hlen hn hup hpend hwait => ?_, fun c b id more s h hz hlen h1 h255 hrec hup hpend hwait => ⟨fun hs => ?_, fun e hs => ?_⟩,
    fun c s h hz h17 hnone => ⟨fun hm => ?_, fun hm => ?_⟩, fun c b s h hz hm h17 hst hval hup hsvn => ?_,
    fun c b k s h hz hm h17 hst hval hup ho hstand hfmt hsvn => ?_, fun c b s h hz hm h17 hst hval hup hsvn => ?_,
    fun c k s h hz ho => ?_⟩
  · have hs : MayStage (s.fetched c) c := MayStage.fetched ⟨hz, hlen, by omega, fun _ => hn, hup, hpend, hwait⟩
    obtain ⟨t, e, ha, ht, hsv⟩ : ∃ t, exec (.fwStage c b []) s = .next t ∧
        Answered t c { status := if s.verified b then stOk else stDigest, result := [0, 0, 0xFF, 0xFF, 0] } ∧
        KeepsBut cmdBlocks ((s.fetched c).stageBegun b (c.le 48 2)) t ∧ Serves [.ctl] c s t := by
      have hw := (s.fetched c).stageBegun_within b (c.le 48 2)
      refine State.row_answers [.ctl] h ((hs.body _).trans (if_pos hn)) (Ctl.stageReply_status_ne _) (hw.keeps.mono (by decide))
        (hw.same .host (by decide)) (hw.same .tel (by decide)) fun t ha ht hs => ⟨?_, ht, hs⟩
      rw [← State.fetched_verified (c := c), ← State.stageBegun_reply (s := s.fetched c) b (c.le 48 2)]
      exact ha
    have hctl : t.ctl = ((s.fetched c).stageBegun b (c.le 48 2)).ctl := ht.2 .ctl (by decide)
    refine ⟨t, e, ha, ?_⟩
    obtain ⟨h1, h2, h3⟩ := (s.fetched c).stageBegun_ctl b (c.le 48 2)
    rw [State.fetched_verified] at h1 h3
    rw [State.fetched_glb, State.fetched_time, State.fetched_ctl] at h3
    rw [hctl]
    exact ⟨h1, h2, h3, hsv⟩
  · have hst : MayStage (s.fetched c) c := MayStage.fetched ⟨hz, hlen, h255, fun h => absurd h hrec, hup, hpend, hwait⟩
    have hw := (s.fetched c).stageBegun_within b (c.le 48 2)
    obtain ⟨u, hu⟩ : ∃ u, u = ((s.fetched c).stageBegun b (c.le 48 2)).updCtl fun k =>
      { k with hopFail := some (0, 1), reported := upto (c.le 48 2) } := ⟨_, rfl⟩
    have huw : Within [.ctl] (s.fetched c) u := by simp [hu, hw]
    obtain ⟨-, hstaged, -⟩ := (s.fetched c).stageBegun_ctl b (c.le 48 2)
    have huc : u.ctl.hopFail = some (0, 1) ∧ u.ctl.staged = some b := by
      rw [hu, State.updCtl_ctl]
      exact ⟨rfl, hstaged⟩
    refine State.row_answers [.ctl] (u := u) (r := u.ctl.stageReply) h ((hst.body _).trans ((if_neg (by omega)).trans ?_)) (Ctl.stageReply_status_ne _)
      (huw.keeps.mono (by decide)) (huw.same .host (by decide)) (huw.same .tel (by decide)) fun t ha ht hsv => ?_
    · have hnone : ((id :: more).head?.bind ((s.fetched c).stageBegun b (c.le 48 2)).sessionOf) = none := by
        rw [List.head?_cons, Option.bind_some, State.stageBegun_sessionOf, State.fetched_sessionOf, hs]
      rw [← State.stageBegun, hnone, hu]
    · have hctl : t.ctl = u.ctl := ht.2 .ctl (by decide)
      rw [hctl]
      exact ⟨huc.1, ha, huc.2, hsv⟩
  · have hst : MayStage (s.fetched c) c := MayStage.fetched ⟨hz, hlen, h255, fun h => absurd h hrec, hup, hpend, hwait⟩
    have hw := (s.fetched c).stageBegun_within b (c.le 48 2)
    obtain ⟨u, hu⟩ : ∃ u, u = ((s.fetched c).stageBegun b (c.le 48 2)).streams e (c.le 32 4) := ⟨_, rfl⟩
    have hu1 := ((s.fetched c).stageBegun b (c.le 48 2)).streams_within e (c.le 32 4)
    rw [← hu] at hu1
    have huc : u.ctl = { ((s.fetched c).stageBegun b (c.le 48 2)).ctl with relayDown := some e } :=
      (hu1.same .ctl (by decide)).trans (State.updCtl_ctl ..)
    have huw : Within [.ctl, .lnk, .host, .tel] s u := by
      have hb : Within [.ctl, .lnk, .host, .tel] s ((s.fetched c).stageBegun b (c.le 48 2)) := by simp [State.stageBegun]
      simp [hu, State.streams, foldS_within, hb]
    refine State.row_defers (u := u) (w := .fwStage) h ((hst.body _).trans ((if_neg (by omega)).trans ?_)) fun t hwt ht => ?_
    · have hsome : ((id :: more).head?.bind ((s.fetched c).stageBegun b (c.le 48 2)).sessionOf) = some e := by
        rw [List.head?_cons, Option.bind_some, State.stageBegun_sessionOf, State.fetched_sessionOf, hs]
      rw [← State.stageBegun, hsome, hu]
      rfl
    · obtain ⟨h1, h2, -⟩ := (s.fetched c).stageBegun_ctl b (c.le 48 2)
      have hctl : t.ctl = u.ctl := ht.2 .ctl (by decide)
      rw [State.fetched_verified] at h1
      have hchain : ((s.fetched c).stageBegun b (c.le 48 2)).ctl.chain = c.le 48 2 := by
        rw [State.stageBegun, State.updCtl_ctl]
      have hkeeps : KeepsBut ([.ctl, .lnk] ++ cmdBlocks) s t := (huw.keeps.mono (by decide)).trans (ht.mono (by decide))
      rw [hctl, huc]
      dsimp only
      exact ⟨hwt, rfl, hchain, h2, h1, hkeeps⟩
  · rw [exec_live hm]
    exact State.row_refuses h (activateBody_none hz (by omega) h17 (by simpa using hnone)) (by decide)
  · rw [exec_nextStart hm]
    exact State.row_refuses h (activateBody_none hz (by omega) h17 (by simpa using hnone)) (by decide)
  · rw [exec_nextStart hm]
    exact State.row_refuses h (activateBody_denied hz (by omega) h17 (by simpa using hst) (by simpa using hval) (by simpa using hup)
      (by simpa using hsvn)) (by decide)
  · obtain ⟨u, hu⟩ : ∃ u, u = ((s.fetched c).updCtl fun x => { x with commitSvn := (c.byte 17).getLsbD 0 }).soakBegun b := ⟨_, rfl⟩
    have hue : u = (((s.fetched c).updCtl fun x => { x with commitSvn := (c.byte 17).getLsbD 0 }).updCtl fun k =>
        { k with phase := .soakStandby, phaseSince := s.time, soakCycles := 0 }).updCtlCore (coreOther k) fun k =>
        { k with health := .booting, fwVer := b.version, digest := b.ctlDigest, cleanSince := none, failCycles := 0 } := by
      rw [hu, State.soakBegun]
      simp [ho]
    rw [exec_live hm]
    refine State.row_defers_serves [.ctl] (u := u) (w := .liveTaken) h ((activateBody_go hz (by omega) h17 (by simpa using hst) (by simpa using hval)
      (by simpa using hup) (fun _ => ⟨⟨k, by simpa using ho, by simpa using hstand⟩, by simpa using hfmt⟩) (by simpa using hsvn)).trans ?_)
      ?_ ?_ ?_ fun t hw ht hs => ?_
    · rw [← hu]
    · rw [hue]
      exact Within.keeps (by simp)
    · rw [hue]; rfl
    · rw [hue]; rfl
    · have hctl : t.ctl = u.ctl := ht.2 .ctl (by decide)
      have hcore (j : CoreAB) : t.ctlCore j = u.ctlCore j := by rw [State.ctlCore, hctl, State.ctlCore]
      refine ⟨hw, ?_, ?_, ?_, ?_, ?_, ?_, ?_, hs⟩
      · rw [hctl, hue]; rfl
      · rw [hctl, hue]; rfl
      · rw [hctl, hue]; rfl
      · rw [hctl, hue]; rfl
      · rw [hcore, hue, State.updCtlCore_same]
      · rw [hcore, hue, State.updCtlCore_same]
      · rw [hcore, hue, State.updCtlCore_other]
        exact State.fetched_ctlCore k
  · rw [exec_nextStart hm]
    refine State.row_answers [.ctl] h (activateBody_go hz (by omega) h17 (by simpa using hst) (by simpa using hval)
      (by simpa using hup) (fun h => by cases h) (by simpa using hsvn)) (by decide) (Within.keeps (by simp)) rfl rfl fun t ha ht hs => ?_
    have hctl := ht.2 .ctl (by decide)
    obtain ⟨hp, hs', hphase, -, -⟩ := ((s.fetched c).updCtl fun x => { x with commitSvn := (c.byte 17).getLsbD 0 }).setPending_ctl
    rw [← show t.ctl = _ from hctl] at hp hs' hphase
    refine ⟨ha, hp, hs', hphase.trans ?_, hs⟩
    rw [State.updCtl_ctl, State.fetched_ctl]
  · have ho' : s.ctl.owner.getD .a = k := by rw [ho]; rfl
    refine (State.row_refuses (r := .ok _) h ((params_run _ hz (by simp)).trans ?_) (Reply.ok_status_ne_busy _)).imp fun t ht => ⟨ht.1, ht.2.2, ht.2.1⟩
    dsimp only
    simp only [State.fetched_ctl, State.fetched_glb, State.fetched_ctlCore, State.fetched_cleanS, ho']

end Sys2Proof

/-! Live update and relay (O50). -/

namespace Sys2Proof.Machine

section
variable {s t u : State}

/-! ### Live update and the relay chain (17, R480-R484) -/

/-- The end of a FW_STAGE: every hop is reported, and no FW_STAGE is in flight. -/
theorem State.stageEnds_done (cause : Nat) : (∀ i ∈ (s.stageEnds cause).host.inflight, i.wait ≠ .fwStage) ∧
    (s.stageEnds cause).ctl.reported = upto s.ctl.chain := by
  unfold State.stageEnds
  extract_lets missing u r
  refine ⟨fun i hi => by simpa using State.completeAll_waits _ hi, ?_⟩
  have hw : Within [.host, .tel] u (u.completeAll (fun w => w == .fwStage) fun _ => r) := by simp
  rw [hw.same .ctl (by decide), State.updCtl_ctl]

/-- A piece of a bundle that goes to staging, from the module of entry `e`. -/
def State.pieceStaged (s : State) (e : Nat) : State :=
  (s.updCtl fun c => { c with relayUp := some e }).updCtl fun c =>
    { c with staging := .receiving, stagedKib := min 0x10000 ((if c.staging = .receiving then c.stagedKib else 0) + 2) }

theorem exec_relay_piece {f : Frame} {e : Nat} (b : Bundle) (h : CreditedArrives s f e 6) (hup : s.ctl.updating = false)
    (hst : s.ctl.staging = .empty) (hwait : ∀ i ∈ s.host.inflight, i.wait ≠ .fwStage) :
    exec (.relay f false b none) s = .next ((((s.heard e f).rxTake e 3).pieceStaged e).rxRelease e 3) := by
  refine congrArg Host.Outcome.next ((h.onCredited_eq _).trans (congrArg (State.rxRelease · e 3) ?_))
  obtain ⟨v, hv⟩ : ∃ v, v = (s.heard e f).rxTake e 3 := ⟨_, rfl⟩
  have hctl : v.ctl = s.ctl := by rw [hv]; rfl
  have hhost : v.host = s.host := by rw [hv]; rfl
  rw [show frameVc 6 = 3 from rfl, ← hv]
  dsimp only
  refine (if_neg Bool.false_ne_true).trans ((if_neg ?_).trans ((if_neg Bool.false_ne_true).trans rfl))
  rw [hctl, hhost]
  simpa [hst, hup] using hwait

/-- The chain's account of hops once a report of `hop` is in. -/
def Ctl.hopReported (k : Ctl) (hop : Nat) (cause : Fin 6) : Ctl :=
  let k := if cause.val == 0 || cause.val == 5 then { k with hopsGood := k.hopsGood + 1 } else k.hopFails hop cause.val
  { k with reported := hop :: k.reported }

theorem Ctl.hopReported_kept (k : Ctl) (hop : Nat) (cause : Fin 6) : (k.hopReported hop cause).reported = hop :: k.reported ∧
    (k.hopReported hop cause).chain = k.chain ∧
    (k.hopReported hop cause).hopsGood = k.hopsGood + (if cause.val = 0 ∨ cause.val = 5 then 1 else 0) ∧
    (cause.val = 0 ∨ cause.val = 5 → (k.hopReported hop cause).hopFail = k.hopFail) := by
  unfold Ctl.hopReported
  by_cases hg : cause.val = 0 ∨ cause.val = 5
  · rw [if_pos (show (cause.val == 0 || cause.val == 5) = true by simpa using hg), if_pos hg]
    exact ⟨rfl, rfl, rfl, fun _ => rfl⟩
  · rw [if_neg (show ¬ (cause.val == 0 || cause.val == 5) = true by simpa using hg), if_neg hg]
    exact ⟨rfl, rfl, rfl, fun h => absurd h hg⟩

/-- A hop's report on its way into its port's mailbox. -/
theorem State.reportMail_room {e : Nat} (hd : s.ctl.relayDown = some e) (hbox : (s.mbx.boxes.get (20 + (s.peer e).port.val)).length < 4) :
    s.reportMail.1 = true ∧ (s.reportMail.2.mbx.boxes.get (20 + (s.peer e).port.val)).length =
      (s.mbx.boxes.get (20 + (s.peer e).port.val)).length + 1 ∧ Within [.fresh, .mbx, .tel, .host] s s.reportMail.2 ∧
      s.reportMail.2.host.inflight = s.host.inflight := by
  obtain ⟨v, hv⟩ : ∃ v, v = s.draw.2 := ⟨_, rfl⟩
  have hbox' : (v.mbx.boxes.get (20 + (s.peer e).port.val)).length < 4 := by rw [hv]; exact hbox
  obtain ⟨x, hx⟩ : ∃ x : Slot, s.reportMail = v.mailPut (20 + (s.peer e).port.val) x := by
    unfold State.reportMail
    rw [hd, hv]
    exact ⟨_, rfl⟩
  obtain ⟨hok, hboxes, -⟩ := State.mailPut_room x hbox'
  have hhost : (v.mailPut (20 + (s.peer e).port.val) x).2.host = v.host := by
    rw [State.mailPut, if_neg (Nat.not_le.2 hbox')]
    dsimp only
    rw [if_neg (by omega)]
    rfl
  have hvw : Within [.fresh, .mbx, .tel, .host] s v := by simp [hv]
  rw [hx]
  refine ⟨hok, ?_, by simp [hvw], ?_⟩
  · rw [hboxes, if_pos rfl, List.length_append, hv]
    rfl
  · rw [hhost, hv]
    rfl

end

end Sys2Proof.Machine

namespace Sys2Proof
open Machine

/-- Settles O50. -/
theorem updateAndRelay : Obligations.UpdateAndRelay := by
  unfold Obligations.UpdateAndRelay
  refine ⟨fun s hp hc ho => ?_, fun k s hp hc ht ho => ?_, fun k b s hp ht ho hs => ?_, fun due s hr hd hg => ?_,
    fun e f b s he hgen henc hg hopen hcred hup hst hwait => ?_, fun hop cause e s hw hc hnr hd hbox hlen => ?_, fun s hw ht => ?_⟩
  · exact congrArg Host.Outcome.next (if_pos (by simp [hp, hc, ho]))
  · obtain ⟨u, hu⟩ : ∃ u, u = (s.updCtl fun c => { c with phase := .none_, commitSvn := false }).updCtlCore (coreOther k) fun x =>
        { x with health := .booting, fwVer := (s.ctlCore k).fwVer, digest := (s.ctlCore k).digest, cleanSince := none } := ⟨_, rfl⟩
    have e : exec .soakStandbyTimeout s = .next (u.completeAll (fun w => w == .liveTaken) fun _ => .of stTimeout) := by
      show execSoakStandbyTimeout s = _
      unfold execSoakStandbyTimeout
      rw [if_pos (by simp [hp, hc, ht]), hu]
      dsimp only
      rw [State.updCtl_ctl]
      dsimp only
      rw [ho]
      rfl
    have hw : Within [.host, .tel] u (u.completeAll (fun w => w == .liveTaken) fun _ => .of stTimeout) := by simp
    have hctl := hw.same .ctl (by decide)
    refine ⟨_, e, ?_, ?_, ?_, fun i hi => ?_, ?_⟩
    · rw [hctl, hu]; rfl
    · rw [State.ctlCore, hctl, ← State.ctlCore, hu, State.updCtlCore_same]
    · rw [State.ctlCore, hctl, ← State.ctlCore, hu, State.updCtlCore_same]
    · simpa using State.completeAll_waits _ hi
    · exact (Within.keeps (l := [.ctl]) (by simp [hu])).mono (by simp [cmdBlocks]) |>.trans (hw.keeps.mono (by simp [cmdBlocks]))
  · obtain ⟨u, hu⟩ : ∃ u, u = (s.updCtl fun c => { c with phase := .awaitStart, phaseSince := s.time, storeFmt := b.storeFmt, oldestStoreFmt := b.oldestStoreFmt }).updCtlCore (coreOther k) fun x =>
        { x with health := .booting, fwVer := b.version, digest := b.ctlDigest, cleanSince := none, failCycles := 0 } := ⟨_, rfl⟩
    have e : exec .soakActiveEnd s = .next (u.setPending.lifetime 0x0052 [3, b.version.toNat]) := by
      show execSoakActiveEnd s = _
      unfold execSoakActiveEnd
      rw [if_pos (by simp [hp, ht]), hu]
      dsimp only
      rw [hs, State.updCtl_ctl]
      dsimp only
      rw [ho]
      rfl
    obtain ⟨h1, h2, h3, h4, h5⟩ := u.setPending_ctl
    refine ⟨_, e, ?_, ?_, ?_, ?_, ?_, ?_⟩
    · refine h3.trans ?_
      rw [hu]; rfl
    · exact h1
    · exact h2
    · refine h4.trans ?_
      rw [hu]; rfl
    · refine (congrArg (fun x : Tbl CtlCore => (x.get (coreNo (coreOther k))).fwVer) h5).trans ?_
      show (u.ctlCore (coreOther k)).fwVer = _
      rw [hu, State.updCtlCore_same]
    · exact Within.keeps (by simp [hu])
  · refine ⟨s.moduleReset.updTel fun k => { k with starts := k.starts + 1 }, ?_, rfl, rfl, rfl, rfl, rfl, rfl, rfl⟩
    show execRecoveryReset s = _
    unfold execRecoveryReset
    rw [hr]
    exact congrArg Host.Outcome.next (if_pos (by simp [hg, hd]))
  · have hv : frameVc 6 = 3 := rfl
    have h : CreditedArrives s f e 6 := ⟨he, hgen, by simp [henc], by simp [State.carries, hv], hcred⟩
    refine ⟨_, exec_relay_piece b h hup hst hwait, ?_, ?_, ?_, ?_, ?_⟩
    · rw [(State.rxRelease_keepsBut _ e 3).2 .ctl (by decide)]
      rfl
    · rw [(State.rxRelease_keepsBut _ e 3).2 .ctl (by decide)]
      show min 0x10000 ((if s.ctl.staging = .receiving then s.ctl.stagedKib else 0) + 2) = 2
      rw [hst, if_neg (by decide)]
      rfl
    · rw [(State.rxRelease_keepsBut _ e 3).2 .ctl (by decide)]
      rfl
    · rw [State.rxRelease_cons_same]
      show ((s.heard e f).rxTake e 3).cons (cid 0x53 (lnkIdx e 3)) + 1 = _
      rw [State.rxTake_cons_same, State.heard_cons]
      omega
    · exact Within.keeps (by simp [State.pieceStaged, State.heard])
  · obtain ⟨hok, hlen1, hwm, hinf⟩ := State.reportMail_room hd hbox
    obtain ⟨v, hv⟩ : ∃ v, v = s.reportMail.2 := ⟨_, rfl⟩
    rw [← hv] at hlen1 hwm hinf
    have hctl : v.ctl = s.ctl := hwm.same .ctl (by decide)
    have horigin : (s.host.inflight.any fun i => i.wait == .fwStage) = true := by simpa using hw
    obtain ⟨hrep, hch, hgood, hfail⟩ := s.ctl.hopReported_kept hop cause
    have e' : exec (.relayReport hop cause) s = .next (v.updCtl fun k => k.hopReported hop cause) := by
      show execRelayReport hop cause s = _
      unfold execRelayReport
      dsimp only
      rw [horigin, if_neg (by simp), if_neg (by simp [hnr]; omega), hok, ← hv]
      refine congrArg Host.Outcome.next ((if_neg (by simp)).trans (if_neg ?_))
      show ¬ ((v.updCtl fun k => k.hopReported hop cause).ctl.chain ≤ (v.updCtl fun k => k.hopReported hop cause).ctl.reported.length)
      rw [State.updCtl_ctl, hctl, hch, hrep, List.length_cons]
      omega
    refine ⟨_, e', ?_, ?_, fun h => ?_, hinf, hlen1, ?_⟩
    · rw [State.updCtl_ctl, hctl, hrep]
    · rw [State.updCtl_ctl, hctl, hgood]
    · rw [State.updCtl_ctl, hctl, hfail h]
    · exact Within.keeps (by simp [hwm.mono])
  · have horigin : (s.host.inflight.any fun i => i.wait == .fwStage) = true := by simpa using hw
    obtain ⟨hw, hr⟩ := s.stageEnds_done 4
    exact ⟨_, congrArg Host.Outcome.next (if_pos (by simp [horigin, ht])), hw, hr, Within.keeps (by simp [cmdBlocks])⟩

end Sys2Proof

/-! Link commands (O51). -/

namespace Sys2Proof.Machine

section
variable {s t u : State} {c : Cmd} {es : Nat → Prop} {e p : Nat}

/-! ### Sessions that end with nothing relayed through them (16, R447) -/

/-- At most the sessions of the entries in `es` change; the ports, the other entries, the relay and the rings stay. -/
structure SessionsFall (es : Nat → Prop) (s t : State) : Prop where
  ports : t.lnk.ports = s.lnk.ports
  rings : t.host.rings = s.host.rings
  others : ∀ i, ¬ es i → t.peer i = s.peer i
  within : Within [.lnk, .ctxs, .tel, .host] s t

namespace SessionsFall

theorem refl (s : State) : SessionsFall es s s := ⟨rfl, rfl, fun _ _ => rfl, Within.refl _ s⟩

theorem trans (h : SessionsFall es s t) (k : SessionsFall es t u) : SessionsFall es s u :=
  ⟨k.ports.trans h.ports, k.rings.trans h.rings, fun i hi => (k.others i hi).trans (h.others i hi), h.within.trans k.within⟩

theorem mono {fs : Nat → Prop} (h : SessionsFall es s t) (hf : ∀ i, es i → fs i) : SessionsFall fs s t :=
  ⟨h.ports, h.rings, fun i hi => h.others i fun x => hi (hf i x), h.within⟩

theorem within_ctxs_tel (h : Within [.ctxs, .tel] s t) : SessionsFall es s t :=
  ⟨by rw [h.same .lnk (by decide)], by rw [h.same .host (by decide)],
    fun i _ => by rw [State.peer, State.peer, h.same .lnk (by decide)], h.mono (by decide)⟩

theorem updPeer (he : es e) (f : Peer → Peer) : SessionsFall es s (s.updPeer e f) := by
  refine ⟨rfl, rfl, fun i hi => ?_, by simp⟩
  rw [State.updPeer_peer, if_neg]
  rintro rfl
  exact hi he

theorem doorbell (f j : Nat) : SessionsFall es s (s.doorbell f j) := by
  have h : (s.doorbell f j).lnk = s.lnk := Within.same (l := [.host]) (by simp) .lnk (by decide)
  exact ⟨by rw [h], s.doorbell_rings f j, fun i _ => by rw [State.peer, State.peer, h], by simp⟩

theorem foldS {α : Type} {g : State → α → State} {l : List α} (h : ∀ a ∈ l, ∀ s, SessionsFall es s (g s a)) :
    SessionsFall es s (foldS l g s) := by
  induction l generalizing s with
  | nil => exact refl s
  | cons a l ih => exact (h a (by simp) s).trans (ih fun b hb => h b (by simp [hb]))

theorem revokeDeps (he : es e) (c k gen : Nat) : SessionsFall es s (s.revokeDeps e c k gen) := by
  unfold State.revokeDeps
  extract_lets mark v
  have hv : SessionsFall es s v := foldS fun j _ s => within_ctxs_tel (by simp)
  exact hv.trans (updPeer he _)

theorem retireCredits (he : es e) : SessionsFall es s (s.retireCredits e) := by
  unfold State.retireCredits
  exact (updPeer he _).trans (foldS fun fam _ s => foldS fun v _ s => within_ctxs_tel (by simp))

end SessionsFall

theorem State.relayDrop_of_ne (h : s.ctl.relayDown ≠ some e) : s.relayDrop e = s := if_pos h

/-- A session that nothing is relayed through goes down alone, with PF0's doorbell bit 15. -/
theorem State.sessionDown_falls (h : s.ctl.relayDown ≠ some e) : SessionsFall (· = e) s (s.sessionDown e) ∧
    ((s.peer e).st = .up → ((s.sessionDown e).peer e).st = .down ∧ ((s.sessionDown e).func 0).dbPend.getLsbD 15 = true) := by
  unfold State.sessionDown
  extract_lets p a b c d
  split
  · next hn => exact ⟨SessionsFall.refl s, fun hu => absurd hu hn⟩
  · have ha : a = s := State.relayDrop_of_ne h
    have hb : SessionsFall (· = e) s b := ha ▸ SessionsFall.foldS fun x _ s => SessionsFall.revokeDeps (es := (· = e)) rfl _ _ _
    have hc : SessionsFall (· = e) s c := hb.trans (SessionsFall.retireCredits (es := (· = e)) rfl)
    have hd : SessionsFall (· = e) s d :=
      hc.trans ((SessionsFall.within_ctxs_tel (Within.mono (l := [.tel]) (by simp) (by decide))).trans (SessionsFall.updPeer (es := (· = e)) rfl _))
    refine ⟨hd.trans (SessionsFall.doorbell 0 15), fun _ => ⟨?_, State.doorbell_pends _ 0 (by decide)⟩⟩
    rw [State.peer, (show Within [.host] d (d.doorbell 0 15) by simp).same .lnk (by decide)]
    show (d.peer e).st = .down
    unfold d
    rw [State.updPeer_peer_same]

/-- A port's sessions that nothing is relayed through go down. -/
theorem State.portSessionsDown_falls (h : s.ctl.relayDown = none) :
    SessionsFall (fun _ => True) s (s.portSessionsDown p) := by
  unfold State.portSessionsDown
  generalize (s.peersIn .up).filter _ = l
  induction l generalizing s with
  | nil => exact SessionsFall.refl s
  | cons a l ih =>
    have ha := (State.sessionDown_falls (s := s) (e := a) (by simp [h])).1.mono fun _ _ => trivial
    exact ha.trans (ih (by rw [ha.within.same .ctl (by decide), h]))

/-! ### Ports (16, R442-R443) -/

theorem State.updPort_portAt_other {q : Nat} (f : Port → Port) (h : q ≠ p) : (s.updPort p f).portAt q = s.portAt q := by
  rw [State.updPort_portAt, if_neg h]

/-- A port that is not up takes another state: nothing else moves. -/
theorem State.portTo_of_not_up (st : PortSt) (h : (s.portAt p).st ≠ .up) :
    s.portTo p st = s.updPort p fun q => { q with st, since := s.time, lanes := 0 } := by
  unfold State.portTo
  rw [if_neg h]

/-- A port takes another state while nothing is relayed through its sessions: what was up goes down. -/
theorem State.portTo_falls (st : PortSt) (h : s.ctl.relayDown = none) :
    (s.portTo p st).portAt p = { s.portAt p with st, since := s.time, lanes := 0 } ∧
    (∀ q, q ≠ p → (s.portTo p st).portAt q = s.portAt q) ∧
    ((s.portAt p).st = .up → ∀ e, (s.peer e).port.val = p → ((s.portTo p st).peer e).st ≠ .up) ∧
    (s.portTo p st).host.rings = s.host.rings ∧ Within [.lnk, .ctxs, .tel, .host] s (s.portTo p st) := by
  unfold State.portTo
  extract_lets v
  have hv : SessionsFall (fun _ => True) s v := by
    unfold v
    split
    · exact State.portSessionsDown_falls h
    · exact SessionsFall.refl s
  have hp : ∀ q, v.portAt q = s.portAt q := fun q => by rw [State.portAt, State.portAt, hv.ports]
  have ht : v.time = s.time := hv.within.same .time (by decide)
  refine ⟨?_, fun q hq => ?_, fun hu e he => ?_, hv.rings, hv.within.trans (by simp)⟩
  · rw [State.updPort_portAt_same, hp, ht]
  · rw [State.updPort_portAt, if_neg hq, hp]
  · have hve : v = s.portSessionsDown p := if_pos hu
    show (v.peer e).st ≠ .up
    rw [hve]
    exact State.portSessionsDown_none p e he

/-! ### LINK_CONFIG and LINK_QUERY (16, R450-R451) -/

@[simp] theorem State.fetched_portAt (p : Nat) : (s.fetched c).portAt p = s.portAt p := by simp [State.portAt]

@[simp] theorem State.fetched_peer (e : Nat) : (s.fetched c).peer e = s.peer e := by simp [State.peer]

@[simp] theorem State.fetched_portSessions (p : Nat) : (s.fetched c).portSessions p = s.portSessions p := by
  simp [State.portSessions, State.peersIn]

@[simp] theorem State.fetched_portMinor (p : Nat) : (s.fetched c).portMinor p = s.portMinor p := by
  simp [State.portMinor]

theorem State.linkRow_eq {op : Nat} (hop : (c.byte 16).toNat = op) (body : State → Verdict) :
    s.linkRow c op body = s.row c 0x78 [] body := State.subRow_eq (by simp [hop]) body

/-- Parameters whose reserved bytes are 0 and of whose rules several fail: BAD_PARAM at the first of their bytes. -/
theorem params_bad_min {used : List (Nat × Nat)} {rules : List (Bool × Nat)} {k : Verdict} {o : Nat} {l : List Nat}
    (hz : reservedZero c used = true) (hr : (rules.filterMap fun r => if r.1 then some r.2 else none) = o :: l) :
    params s c used rules k = .reply s (.bad (l.foldl min o)) := by
  simp only [reservedZero, Option.isNone_iff_eq_none] at hz
  simp [params, Cmd.badParam, hz, hr]

theorem exec_setMode (h16 : (c.byte 16).toNat = 0) (hz : reservedZero c [(16, 18)] = true) (h17 : (c.byte 17).toNat ≤ 1)
    (h18 : (c.byte 17).toNat = 0 → (c.byte 18).toNat ≤ 31) (h : accepts s c 0x78 [] = true) :
    ((∀ p, p < 4 → (s.portAt p).st = .disabled) → ∃ t, exec (.setMode c) s = .next t ∧ Answered t c (.of stOk) ∧
      t.lnk = { s.lnk with open_ := (c.byte 17).toNat == 1, ownIndex := (c.byte 18).toNat % 32 } ∧ Serves [.lnk] c s t) ∧
    ((∃ p, p < 4 ∧ (s.portAt p).st ≠ .disabled) →
      ∃ t d, exec (.setMode c) s = .next t ∧ Answered t c { status := stBusy, detail := d } ∧ Serves [.fresh] c s t) := by
  have e : exec (.setMode c) s = _ := congrArg Host.Outcome.next (State.linkRow_eq h16 _)
  have hrules : ∀ r ∈ [(decide (3 < (c.byte 16).toNat), 16), (decide (1 < (c.byte 17).toNat), 17),
      (!((c.byte 17).toNat == 1) && decide (31 < (c.byte 18).toNat), 18)], r.1 = false := by
    simp [h16]; omega
  rw [e]
  refine ⟨fun hp => ?_, fun hp => State.row_retries h ?_⟩
  · have hany : ((upto 4).any fun p => ((s.fetched c).portAt p).st != .disabled) = false := by simpa [upto] using hp
    refine State.row_answers [.lnk] (u := (s.fetched c).updLnk fun l =>
        { l with open_ := (c.byte 17).toNat == 1, ownIndex := (c.byte 18).toNat % 32 })
      (r := .of stOk) h ?_ (by decide) (Within.keeps (by simp)) rfl rfl fun t ha hu hs => ⟨ha, ?_, hs⟩
    · exact (params_run _ hz hrules).trans (if_neg (by rw [hany]; decide))
    · rw [hu.2 .lnk (by decide), State.updLnk_lnk, State.fetched_lnk]
  · have hany : ((upto 4).any fun p => ((s.fetched c).portAt p).st != .disabled) = true := by simpa [upto] using hp
    exact (params_run _ hz hrules).trans (if_pos hany)

theorem State.tableEntry_answers (h : accepts s c 0x78 [] = true) (h16 : (c.byte 16).toNat = 1)
    (hz : reservedZero c [(16, 17), (24, 39)] = true) (ho : s.lnk.open_ = false) (h17 : (c.byte 17).toNat ≤ 31) :
    ∃ t, exec (.tableEntry c) s = .next t ∧ Answered t c (.of stOk) ∧
      t.lnk = { s.lnk with table := s.lnk.table.set (c.byte 17).toNat (BitVec.ofNat 128 (c.le 24 16)) } ∧ Serves [.lnk] c s t := by
  have e : exec (.tableEntry c) s = _ := congrArg Host.Outcome.next (State.linkRow_eq h16 _)
  rw [e]
  refine State.row_answers [.lnk] (u := (s.fetched c).updLnk fun l =>
      { l with table := l.table.set (c.byte 17).toNat (BitVec.ofNat 128 (c.le 24 16)) })
    (r := .of stOk) h (params_run _ hz ?_) (by decide) (Within.keeps (by simp)) rfl rfl fun t ha hu hs => ⟨ha, ?_, hs⟩
  · simp [ho]; omega
  · rw [hu.2 .lnk (by decide), State.updLnk_lnk, State.fetched_lnk]

theorem State.tableEntry_open (h : accepts s c 0x78 [] = true) (h16 : (c.byte 16).toNat = 1)
    (hz : reservedZero c [(16, 17), (24, 39)] = true) (ho : s.lnk.open_ = true) :
    ∃ t, exec (.tableEntry c) s = .next t ∧ Answered t c (.bad 16) ∧ Serves [] c s t := by
  have e : exec (.tableEntry c) s = _ := congrArg Host.Outcome.next (State.linkRow_eq h16 _)
  rw [e]
  refine State.row_refuses h ?_ (by decide)
  show params _ c [(16, 17), (24, 39)] [((s.fetched c).lnk.open_, 16), (decide (31 < (c.byte 17).toNat), 17)] _ = _
  rw [State.fetched_lnk, ho]
  by_cases h17 : 31 < (c.byte 17).toNat
  · exact params_bad_min (o := 16) (l := [17]) hz (by simp [h17])
  · exact params_bad_min (o := 16) (l := []) hz (by simp [h17])

/-- A port of LINK_CONFIG with the fields of its ports taken. -/
def State.portSet (s : State) (c : Cmd) : State :=
  s.updPort (c.byte 17).toNat fun q => { q with enabled := (c.byte 18).getLsbD 0, allowX4 := (c.byte 18).getLsbD 1 }

theorem State.portSet_portAt (i : Nat) : (s.portSet c).portAt i = if i = (c.byte 17).toNat then
    { s.portAt (c.byte 17).toNat with enabled := (c.byte 18).getLsbD 0, allowX4 := (c.byte 18).getLsbD 1 } else s.portAt i := by
  rw [State.portSet, State.updPort_portAt]
  split
  · next h => rw [h]
  · rfl

/-- A port that is switched on: its way up begins where it was DISABLED and the links run. -/
def State.portOn (s : State) (c : Cmd) : State :=
  if (s.portAt (c.byte 17).toNat).st = .disabled ∧ s.glb.state ≠ .doze ∧ s.glb.state ≠ .clockHold then
    (s.portSet c).updPort (c.byte 17).toNat fun q => { q with st := .cableInit, since := s.time, lanes := 0 }
  else s.portSet c

theorem State.portOn_within : Within [.lnk] s (s.portOn c) := by
  unfold State.portOn
  split
  all_goals simp [State.portSet]

theorem State.portOn_lnk : (s.portOn c).lnk.peers = s.lnk.peers := by
  unfold State.portOn
  split
  all_goals rfl

theorem State.portOn_portAt_other {i : Nat} (h : i ≠ (c.byte 17).toNat) : (s.portOn c).portAt i = s.portAt i := by
  unfold State.portOn
  split
  · rw [State.updPort_portAt, if_neg h, State.portSet_portAt, if_neg h]
  · rw [State.portSet_portAt, if_neg h]

theorem State.portOn_portAt : let q := (s.portOn c).portAt (c.byte 17).toNat
    q.enabled = (c.byte 18).getLsbD 0 ∧ q.allowX4 = (c.byte 18).getLsbD 1 ∧
      q.st = (if (s.portAt (c.byte 17).toNat).st = .disabled ∧ s.glb.state ≠ .doze ∧ s.glb.state ≠ .clockHold then .cableInit
        else (s.portAt (c.byte 17).toNat).st) := by
  unfold State.portOn
  split
  · rw [State.updPort_portAt_same, State.portSet_portAt, if_pos rfl]
    exact ⟨rfl, rfl, rfl⟩
  · rw [State.portSet_portAt, if_pos rfl]
    exact ⟨rfl, rfl, rfl⟩

/-- What LINK_CONFIG does for a port that it switches on. -/
theorem portOn_verdict :
    (if ((s.portSet c).portAt (c.byte 17).toNat).st = .disabled &&
        !((s.portSet c).glb.state == .doze || (s.portSet c).glb.state == .clockHold)
      then Verdict.reply ((s.portSet c).portTo (c.byte 17).toNat .cableInit) (.of stOk)
      else .reply (s.portSet c) (.of stOk)) = .reply (s.portOn c) (.of stOk) := by
  have hst : ((s.portSet c).portAt (c.byte 17).toNat).st = (s.portAt (c.byte 17).toNat).st := by
    rw [State.portSet_portAt, if_pos rfl]
  rw [State.portOn, hst]
  by_cases hd : (s.portAt (c.byte 17).toNat).st = .disabled ∧ s.glb.state ≠ .doze ∧ s.glb.state ≠ .clockHold
  · rw [if_pos hd, State.portTo_of_not_up _ (by rw [hst, hd.1]; decide)]
    exact if_pos (by simpa [State.portSet] using hd)
  · rw [if_neg hd]
    exact if_neg (by simpa [State.portSet] using hd)

theorem State.portOn_answers (h : accepts s c 0x78 [] = true) (h16 : (c.byte 16).toNat = 2) (hz : reservedZero c [(16, 18)] = true)
    (h17 : (c.byte 17).toNat ≤ 3) (h18 : (c.byte 18).toNat ≤ 3) (hon : (c.byte 18).getLsbD 0 = true) :
    ∃ t, exec (.port c) s = .next t ∧ Answered t c (.of stOk) ∧ t.lnk = ((s.fetched c).portOn c).lnk ∧ Serves [.lnk] c s t := by
  have e : exec (.port c) s = _ := congrArg Host.Outcome.next (State.linkRow_eq h16 _)
  have hrules : ∀ r ∈ [(decide (3 < (c.byte 17).toNat), 17), (decide (3 < (c.byte 18).toNat), 18)], r.1 = false := by simp; omega
  have hw : Within [.lnk] (s.fetched c) ((s.fetched c).portOn c) := State.portOn_within
  rw [e]
  exact State.row_answers [.lnk] h ((params_run _ hz hrules).trans ((if_neg (by simp [hon])).trans portOn_verdict))
    (by decide) (hw.mono (by decide)).keeps (hw.same .host (by decide)) (hw.same .tel (by decide)) fun t ha hu hs =>
    ⟨ha, hu.2 .lnk (by decide), hs⟩

theorem State.portOff_answers (h : accepts s c 0x78 [] = true) (h16 : (c.byte 16).toNat = 2) (hz : reservedZero c [(16, 18)] = true)
    (h17 : (c.byte 17).toNat ≤ 3) (h18 : (c.byte 18).toNat ≤ 3) (hoff : (c.byte 18).getLsbD 0 = false)
    (hr : s.ctl.relayDown = none) :
    ∃ t, exec (.port c) s = .next t ∧ Answered t c (.of stOk) ∧
      t.lnk = (((s.fetched c).portSet c).portTo (c.byte 17).toNat .disabled).lnk ∧ KeepsBut ([.lnk, .ctxs] ++ cmdBlocks) s t := by
  have e : exec (.port c) s = _ := congrArg Host.Outcome.next (State.linkRow_eq h16 _)
  have hrules : ∀ r ∈ [(decide (3 < (c.byte 17).toNat), 17), (decide (3 < (c.byte 18).toNat), 18)], r.1 = false := by simp; omega
  obtain ⟨u, hu⟩ : ∃ u, u = ((s.fetched c).portSet c).portTo (c.byte 17).toNat .disabled := ⟨_, rfl⟩
  have hrel : ((s.fetched c).portSet c).ctl.relayDown = none := by
    rw [show ((s.fetched c).portSet c).ctl = (s.fetched c).ctl from rfl, State.fetched_ctl, hr]
  obtain ⟨-, -, -, hrings, hw⟩ := State.portTo_falls (p := (c.byte 17).toNat) .disabled hrel
  rw [← hu] at hrings hw ⊢
  rw [e]
  refine State.row_changes h ((params_run _ hz hrules).trans (if_pos (by rw [hoff]; rfl))) (by decide) ?_ fun t ha hk => ⟨ha, ?_, ?_⟩
  · exact hu ▸ hrings
  · rw [hu]
    exact hk.2 .lnk (by decide)
  · refine ((fetched_keeps c s).mono (m := [.lnk, .ctxs] ++ cmdBlocks) (by decide)).trans ?_
    have hs : Within [.lnk] (s.fetched c) ((s.fetched c).portSet c) := by simp [State.portSet]
    have hset : Within [.lnk, .ctxs, .tel, .host] (s.fetched c) ((s.fetched c).portSet c) := hs.mono (by decide)
    refine ((hset.trans hw).keeps.mono (m := [.lnk, .ctxs] ++ cmdBlocks) (by decide)).trans ?_
    rw [hu]
    exact hk.mono (m := [.lnk, .ctxs] ++ cmdBlocks) (by decide)

theorem State.dropPeer_answers (h : accepts s c 0x78 [] = true) (h16 : (c.byte 16).toNat = 3)
    (hz : reservedZero c [(16, 16), (18, 19)] = true) (he : c.le 18 2 ≤ 255) (hr : s.ctl.relayDown ≠ some (c.le 18 2)) :
    ∃ t, exec (.dropPeer c) s = .next t ∧ Answered t c (.of stOk) ∧
      t.lnk = (((s.fetched c).sessionDown (c.le 18 2)).updPeer (c.le 18 2) fun _ => {}).lnk ∧
      ((s.peer (c.le 18 2)).st ≠ .up → Serves [.lnk] c s t) ∧ KeepsBut ([.lnk, .ctxs] ++ cmdBlocks) s t := by
  have e : exec (.dropPeer c) s = _ := congrArg Host.Outcome.next (State.linkRow_eq h16 _)
  have hrel : (s.fetched c).ctl.relayDown ≠ some (c.le 18 2) := by rwa [State.fetched_ctl]
  obtain ⟨x, hx⟩ : ∃ x, x = (s.fetched c).sessionDown (c.le 18 2) := ⟨_, rfl⟩
  have hfall := (State.sessionDown_falls hrel).1
  rw [← hx] at hfall ⊢
  have hb : params (s.fetched c) c [(16, 16), (18, 19)] [(decide (255 < c.le 18 2), 18)]
      (.reply (((s.fetched c).sessionDown (c.le 18 2)).updPeer (c.le 18 2) fun _ => {}) (.of stOk)) =
      .reply (x.updPeer (c.le 18 2) fun _ => {}) (.of stOk) := by
    rw [params_run _ hz (by simp; omega), hx]
  rw [e]
  by_cases hup : (s.peer (c.le 18 2)).st = .up
  · refine State.row_changes h hb (by decide) hfall.rings fun t ha hk => ⟨ha, hk.2 .lnk (by decide), fun hn => absurd hup hn, ?_⟩
    have hw : Within [.lnk, .ctxs, .tel, .host] (s.fetched c) (x.updPeer (c.le 18 2) fun _ => {}) := hfall.within.trans (by simp)
    exact ((fetched_keeps c s).mono (by decide)).trans ((hw.keeps.mono (by simp [cmdBlocks])).trans (hk.mono (by simp [cmdBlocks])))
  · have hsame : x = s.fetched c := by
      rw [hx, State.sessionDown]
      exact if_pos (by simpa using hup)
    rw [hsame] at hb ⊢
    refine State.row_answers [.lnk] h hb (by decide) (Within.keeps (by simp)) rfl rfl fun t ha hu hs =>
      ⟨ha, hu.2 .lnk (by decide), fun _ => hs, hs.1.mono (by simp [cmdBlocks])⟩

/-- What LINK_QUERY of an entry reports, `ms` after it was last heard. -/
def Peer.report (p : Peer) (ms : Nat) : Reply :=
  .ok ([BitVec.ofNat 8 p.st.code, BitVec.ofNat 8 p.port.val, BitVec.ofNat 8 p.minor,
    BitVec.ofNat 8 (b2n p.encrypted + 2 * b2n p.member), p.gen, 0, 0, 0] ++ leBytes 4 ms ++ leBytes 4 0 ++ leBytes 8 p.id.toNat)

/-- The age of an entry that is not empty, in ms. -/
def State.peerAge (s : State) (e : Nat) : Nat := min 0xFFFFFFFF ((s.time - (s.peer e).lastHeard) / msNs)

/-- LINK_QUERY's checks and what it reports. -/
def linkReport (c : Cmd) (s : State) : Verdict :=
  if (c.byte 16).toNat = 1 then
    params s c [(16, 16), (18, 19)] [(decide (255 < c.le 18 2), 18)] <|
    .reply (if (s.peer (c.le 18 2)).st == .empty then s.draw.2 else s) <| (s.peer (c.le 18 2)).report <|
      if (s.peer (c.le 18 2)).st == .empty then Config.value s.draw.1 % 2 ^ 32 else s.peerAge (c.le 18 2)
  else
    params s c [(16, 17)] [(decide (1 < (c.byte 16).toNat), 16), (decide (3 < (c.byte 17).toNat), 17)] <|
    .reply s (.ok ([BitVec.ofNat 8 (s.portAt (c.byte 17).toNat).st.code, BitVec.ofNat 8 (s.portMinor (c.byte 17).toNat),
      (s.portAt (c.byte 17).toNat).lanes, 0] ++ leBytes 2 (s.portSessions (c.byte 17).toNat).length ++
      [(s.portAt (c.byte 17).toNat).temp]))

theorem exec_linkQuery : exec (.linkQuery c) s = .next (s.row c 0x79 [] (linkReport c)) := rfl

theorem linkReport_peer (h16 : (c.byte 16).toNat = 1) (hz : reservedZero c [(16, 16), (18, 19)] = true) (he : c.le 18 2 ≤ 255) :
    linkReport c s = .reply (if (s.peer (c.le 18 2)).st == .empty then s.draw.2 else s) ((s.peer (c.le 18 2)).report
      (if (s.peer (c.le 18 2)).st == .empty then Config.value s.draw.1 % 2 ^ 32 else s.peerAge (c.le 18 2))) :=
  (if_pos h16).trans (params_run _ hz (by simp; omega))

theorem linkReport_port (h16 : (c.byte 16).toNat = 0) (hz : reservedZero c [(16, 17)] = true) (h17 : (c.byte 17).toNat ≤ 3) :
    linkReport c s = .reply s (.ok ([BitVec.ofNat 8 (s.portAt (c.byte 17).toNat).st.code,
      BitVec.ofNat 8 (s.portMinor (c.byte 17).toNat), (s.portAt (c.byte 17).toNat).lanes, 0] ++
      leBytes 2 (s.portSessions (c.byte 17).toNat).length ++ [(s.portAt (c.byte 17).toNat).temp])) :=
  (if_neg (by omega)).trans (params_run _ hz (by simp; omega))

theorem State.linkQuery_empty (h : accepts s c 0x79 [] = true) (h16 : (c.byte 16).toNat = 1)
    (hz : reservedZero c [(16, 16), (18, 19)] = true) (he : c.le 18 2 ≤ 255) (hst : (s.peer (c.le 18 2)).st = .empty) :
    ∃ t ms, exec (.linkQuery c) s = .next t ∧ Answered t c ((s.peer (c.le 18 2)).report ms) ∧ Serves [.fresh] c s t := by
  have hb := linkReport_peer (s := s.fetched c) h16 hz he
  rw [State.fetched_peer, hst, if_pos (by decide), if_pos (by decide)] at hb
  obtain ⟨ha, -, hs⟩ := State.row_ends (more := [.fresh]) h hb (Reply.ok_status_ne_busy _) (Within.keeps (by simp)) rfl rfl
  exact ⟨_, _, exec_linkQuery, ha, hs⟩

theorem State.linkQuery_known (h : accepts s c 0x79 [] = true) (h16 : (c.byte 16).toNat = 1)
    (hz : reservedZero c [(16, 16), (18, 19)] = true) (he : c.le 18 2 ≤ 255) (hst : (s.peer (c.le 18 2)).st ≠ .empty) :
    ∃ t, exec (.linkQuery c) s = .next t ∧ Answered t c ((s.peer (c.le 18 2)).report (s.peerAge (c.le 18 2))) ∧ Serves [] c s t := by
  have hb := linkReport_peer (s := s.fetched c) h16 hz he
  have hne : ¬ ((s.peer (c.le 18 2)).st == .empty) = true := by simpa using hst
  rw [State.fetched_peer, if_neg hne, if_neg hne, State.peerAge, State.fetched_peer, State.fetched_time] at hb
  rw [exec_linkQuery]
  exact State.row_refuses h hb (Reply.ok_status_ne_busy _)

end

end Sys2Proof.Machine

namespace Sys2Proof
open Machine

/-- Settles O51. -/
theorem linkCommands : Obligations.LinkCommands := by
  unfold Obligations.LinkCommands
  refine ⟨fun c s h h16 hz h17 h18 hp => ?_, fun c s h h16 hz ho h17 => ?_, fun c s h h16 hz h17 h18 hp => ?_, fun c s h h16 hz ho => ?_,
    fun c s h h16 hz h17 h18 hon => ?_, fun c s h h16 hz h17 h18 hoff hr => ?_, fun c s h h16 hz he hr => ?_,
    fun c s h h16 hz h17 => ?_, fun c s h h16 hz he hst => ?_, fun c s h h16 hz he hst => ?_⟩
  · obtain ⟨t, e, ha, hl, hs⟩ := (exec_setMode h16 hz h17 h18 h).1 hp
    exact ⟨t, e, ha, by rw [hl], by rw [hl], by rw [hl], by rw [hl], hs⟩
  · obtain ⟨t, e, ha, hl, hs⟩ := State.tableEntry_answers h h16 hz ho h17
    exact ⟨t, e, ha, by simp only [hl, Tbl.get_set_same], fun i hi => by simp only [hl, Tbl.get_set_ne _ _ hi], by rw [hl], hs⟩
  · exact (exec_setMode h16 hz h17 h18 h).2 hp
  · exact State.tableEntry_open h h16 hz ho
  · obtain ⟨t, e, ha, hl, hs⟩ := State.portOn_answers h h16 hz h17 h18 hon
    have hp : ∀ i, t.portAt i = ((s.fetched c).portOn c).portAt i := fun i => congrArg (fun l : Lnk => l.ports.get i) hl
    refine ⟨t, e, ha, ?_, fun i hi => ?_, ?_, hs⟩
    · rw [hp]
      have h := State.portOn_portAt (s := s.fetched c) (c := c)
      rwa [hon, State.fetched_portAt, State.fetched_glb] at h
    · rw [hp, State.portOn_portAt_other hi, State.fetched_portAt]
    · rw [hl, State.portOn_lnk, State.fetched_lnk]
  · obtain ⟨t, e, ha, hl, hk⟩ := State.portOff_answers h h16 hz h17 h18 hoff hr
    have hrel : ((s.fetched c).portSet c).ctl.relayDown = none := by
      rw [show ((s.fetched c).portSet c).ctl = (s.fetched c).ctl from rfl, State.fetched_ctl, hr]
    obtain ⟨hport, hother, hdown, -, -⟩ := State.portTo_falls (p := (c.byte 17).toNat) .disabled hrel
    have hset := State.portSet_portAt (s := s.fetched c) (c := c)
    have hp : ∀ i, t.portAt i = _ := fun i => congrArg (fun l : Lnk => l.ports.get i) hl
    refine ⟨t, e, ha, ?_, fun hu e he => ?_, fun i hi => ?_, hk⟩
    · rw [hp]
      refine (congrArg (fun q : Port => q.enabled = false ∧ q.allowX4 = (c.byte 18).getLsbD 1 ∧ q.st = .disabled) hport).mpr ?_
      dsimp only
      rw [hset, if_pos rfl]
      exact ⟨hoff, rfl, rfl⟩
    · rw [show t.peer e = _ from congrArg (fun l : Lnk => l.peers.get e) hl]
      refine hdown ?_ e ((congrArg (fun q : Peer => q.port.val) (State.fetched_peer e)).trans he)
      rw [hset, if_pos rfl]
      simpa using hu
    · rw [hp]
      refine (hother i hi).trans ?_
      rw [hset, if_neg hi, State.fetched_portAt]
  · obtain ⟨t, e, ha, hl, hs, hk⟩ := State.dropPeer_answers h h16 hz he hr
    have hp : ∀ i, t.peer i = _ := fun i => congrArg (fun l : Lnk => l.peers.get i) hl
    have hrel : (s.fetched c).ctl.relayDown ≠ some (c.le 18 2) := by rwa [State.fetched_ctl]
    refine ⟨t, e, ha, ?_, fun i hi => ?_, hs, hk⟩
    · rw [hp]
      exact State.updPeer_peer_same _ _ _
    · rw [hp]
      exact (State.updPeer_peer _ _ _ _).trans ((if_neg hi).trans (by rw [(State.sessionDown_falls hrel).1.others i hi, State.fetched_peer]))
  · obtain ⟨t, e, ha, hs⟩ := State.row_refuses h (linkReport_port h16 hz h17) (Reply.ok_status_ne_busy _)
    refine ⟨t, exec_linkQuery.trans e, hs, ?_⟩
    simpa using ha
  · obtain ⟨t, ms, e, ha, hs⟩ := State.linkQuery_empty h h16 hz he hst
    exact ⟨t, _, e, ha, by rw [hst]; rfl, hs⟩
  · obtain ⟨t, e, ha, hs⟩ := State.linkQuery_known h h16 hz he hst
    exact ⟨t, e, hs, ha⟩

end Sys2Proof

/-! Port states (O52). -/

namespace Sys2Proof.Machine

section
variable {s t : State} {p : Nat}

/-! ### Port states and cables (16, R442-R446) -/

/-- A port that is not up takes another state. -/
theorem State.portTo_rests (st : PortSt) (h : (s.portAt p).st ≠ .up) :
    (s.portTo p st).portAt p = { s.portAt p with st, since := s.time, lanes := 0 } ∧
    (∀ q, q ≠ p → (s.portTo p st).portAt q = s.portAt q) ∧ Within [.lnk] s (s.portTo p st) := by
  rw [State.portTo_of_not_up st h]
  exact ⟨State.updPort_portAt_same _ _ _, fun q hq => State.updPort_portAt_ne _ _ _ _ hq, by simp⟩

/-- A port takes another state, and then another field. -/
theorem State.portTo_then (st : PortSt) (f : Port → Port) (h : (s.portAt p).st ≠ .up) :
    let t := (s.portTo p st).updPort p f
    t.portAt p = f { s.portAt p with st, since := s.time, lanes := 0 } ∧ (∀ q, q ≠ p → t.portAt q = s.portAt q) ∧ KeepsBut [.lnk] s t := by
  obtain ⟨hp, hq, hw⟩ := State.portTo_rests st h
  exact ⟨by rw [State.updPort_portAt_same, hp], fun q hn => by rw [State.updPort_portAt, if_neg hn, hq q hn],
    (hw.trans (by simp)).keeps⟩

end

end Sys2Proof.Machine

namespace Sys2Proof
open Machine

/-- Settles O52. -/
theorem portStates : Obligations.PortStates := by
  unfold Obligations.PortStates
  refine ⟨fun p s hr => ?_, fun p s hr hst => ?_, fun p s hr hst => ?_, fun p active ready pow temp s hst => ?_, fun p s hst ht => ?_,
    fun p lanes v12 s hst => ?_, fun p s hst ht => ?_, fun p s hst ht => ?_, fun p s hst hrel => ?_, fun p alarm temp s hst => ?_⟩
  case refine_1 =>
    refine ⟨_, congrArg Host.Outcome.next (if_pos hr), ?_, ?_, ?_, fun q hq => State.updPort_portAt_ne _ _ _ _ hq, Within.keeps (by simp)⟩
    all_goals rw [State.updPort_portAt_same]
  case refine_2 =>
    have hup : (s.portAt p.val).st ≠ .up := by rcases hst with h | h <;> rw [h] <;> decide
    obtain ⟨hp, hq, hk⟩ := State.portTo_then .retry (fun q => { q with present := false, accepted := false }) hup
    refine ⟨_, congrArg Host.Outcome.next ((if_neg (by simp [hr])).trans ?_), ?_, ?_, ?_, hq, hk⟩
    · dsimp only
      rw [if_neg (by rcases hst with h | h <;> rw [h] <;> decide)]
    all_goals rw [hp]
  case refine_3 =>
    refine ⟨s.updPort p.val fun q => { q with present := false, accepted := false },
      congrArg Host.Outcome.next ((if_neg (by simp [hr])).trans ?_), ?_, ?_, fun q hq => State.updPort_portAt_ne _ _ _ _ hq, Within.keeps (by simp)⟩
    · dsimp only
      rw [if_pos (by rcases hst with h | h <;> rw [h] <;> decide)]
    all_goals rw [State.updPort_portAt_same]
  case refine_4 =>
    obtain ⟨ok, hok⟩ : ∃ ok, ok = (active && decide (pow.toNat ≤ 28) && ready && decide (s.time ≤ (s.portAt p.val).since + 200 * msNs)) := ⟨_, rfl⟩
    have hokiff : ok = true ↔ active = true ∧ pow.toNat ≤ 28 ∧ ready = true ∧ s.time ≤ (s.portAt p.val).since + 200 * msNs := by
      simp [hok, and_assoc]
    obtain ⟨v, hv⟩ : ∃ v, v = s.updPort p.val fun q => { q with present := true, accepted := ok, maxPower := pow, temp } := ⟨_, rfl⟩
    have hport : v.portAt p.val = { s.portAt p.val with present := true, accepted := ok, maxPower := pow, temp } := by
      rw [hv, State.updPort_portAt_same]
    obtain ⟨hp, hq, hw⟩ := State.portTo_rests (s := v) (p := p.val) (if ok then .train else .retry) (by rw [hport]; simp [hst])
    have hvw : Within [.lnk] s v := by simp [hv]
    refine ⟨_, congrArg Host.Outcome.next ((if_neg (by simp [hst])).trans (by rw [← hok, hv])), ?_, ?_, fun q hn => ?_, (hvw.trans hw).keeps⟩
    · rw [hp, hport]
    · rw [hp]
      dsimp only
      rw [← hokiff]
      cases ok <;> simp
    · rw [hq q hn, hv, State.updPort_portAt, if_neg hn]
  case refine_5 =>
    obtain ⟨hp, hq, hw⟩ := State.portTo_rests (s := s) (p := p.val) .retry (by rw [hst]; decide)
    exact ⟨_, congrArg Host.Outcome.next (if_pos (by simp [hst, ht])), by rw [hp], hq, hw.keeps⟩
  case refine_6 =>
    by_cases hok : laneCount lanes = 8 ∨ laneCount lanes = 4 ∧ (s.portAt p.val).allowX4 = true ∧ v12 = true
    · obtain ⟨hp, hq, hk⟩ := State.portTo_then (s := s) (p := p.val) .up (fun q => { q with lanes }) (by rw [hst]; decide)
      exact ⟨_, congrArg Host.Outcome.next ((if_neg (by simp [hst])).trans (if_pos (by simpa [and_assoc] using hok))), hq, hk,
        fun _ => by rw [hp]; exact ⟨rfl, rfl⟩, fun h => absurd hok h⟩
    · obtain ⟨hp, hq, hw⟩ := State.portTo_rests (s := s) (p := p.val) .retry (by rw [hst]; decide)
      exact ⟨_, congrArg Host.Outcome.next ((if_neg (by simp [hst])).trans (if_neg (by simpa [and_assoc] using hok))), hq, hw.keeps,
        fun h => absurd h hok, fun _ => by rw [hp]; exact ⟨rfl, rfl⟩⟩
  case refine_7 =>
    obtain ⟨hp, hq, hw⟩ := State.portTo_rests (s := s) (p := p.val) .retry (by rw [hst]; decide)
    exact ⟨_, congrArg Host.Outcome.next (if_pos (by simp [hst, ht])), by rw [hp], hq, hw.keeps⟩
  case refine_8 =>
    obtain ⟨hp, hq, hk⟩ := State.portTo_then (s := s) (p := p.val) .cableInit (fun q => { q with delay := min 32 (2 * q.delay) })
      (by rw [hst]; decide)
    exact ⟨_, congrArg Host.Outcome.next (if_pos (by simp [hst, ht])), by rw [hp], by rw [hp], hq, hk⟩
  case refine_9 =>
    obtain ⟨hp, hq, hdown, -, hw⟩ := State.portTo_falls (s := s) (p := p.val) .retry hrel
    have hpeers : ∀ e, (s.peer e).port = p → ((s.portTo p.val .retry).peer e).st ≠ .up := fun e he => hdown hst e (by rw [he])
    refine ⟨⟨_, congrArg Host.Outcome.next (if_pos hst), by rw [hp], hq, hpeers, hw.keeps.mono (by decide)⟩, fun hr => ?_⟩
    refine ⟨(s.portTo p.val .retry).updPort p.val fun q => { q with present := false, accepted := false },
      congrArg Host.Outcome.next ((if_neg (by simp [hr])).trans ?_), ?_, ?_, fun q hn => ?_, hpeers, ?_⟩
    · dsimp only
      rw [if_neg (by rw [hst]; decide)]
    · rw [State.updPort_portAt_same, hp]
    · rw [State.updPort_portAt_same]
    · rw [State.updPort_portAt, if_neg hn, hq q hn]
    · exact (hw.trans (by simp)).keeps.mono (by decide)
  case refine_10 =>
    obtain ⟨v, hv⟩ : ∃ v, v = s.updPort p.val fun q => { q with temp, alarm := q.alarm || alarm } := ⟨_, rfl⟩
    have hport : ∀ q, v.portAt q = if q = p.val then { s.portAt q with temp, alarm := (s.portAt q).alarm || alarm } else s.portAt q :=
      fun q => by rw [hv, State.updPort_portAt]
    obtain ⟨u, hu⟩ : ∃ u, u = if alarm then v.doorbell 0 15 else v := ⟨_, rfl⟩
    have hvw : Within [.lnk] s v := by simp [hv]
    have huw : Within [.host] v u := by
      rw [hu]
      split
      all_goals simp
    have hp : ∀ q, u.portAt q = v.portAt q := fun q => by rw [State.portAt, huw.same .lnk (by decide), State.portAt]
    refine ⟨u, congrArg Host.Outcome.next ((if_neg (by simp [hst])).trans (by rw [hu, hv])), ?_, ?_, ?_, fun q hn => ?_, fun ha => ?_, ?_⟩
    · rw [hp, hport, if_pos rfl, hst]
    · rw [hp, hport, if_pos rfl]
    · rw [hp, hport, if_pos rfl]
    · rw [hp, hport, if_neg hn]
    · rw [hu, if_pos ha]
      exact State.doorbell_pends _ 0 (by decide)
    · exact ((hvw.mono (by decide)).trans (huw.mono (by decide))).keeps

end Sys2Proof

/-! Sessions (O53). -/

namespace Sys2Proof
open Machine

/-- Refutes O53: a frame finds its session by the entries listed as UP, and its end looks the entry up.  In a peer table that
lists entry 0 twice, SEEN and then UP, the BYE of the listed session meets the entry that is SEEN and leaves it so. -/
theorem not_sessions : ¬ Obligations.Sessions := by
  unfold Obligations.Sessions
  intro h
  obtain ⟨-, -, -, -, -, -, -, hbye⟩ := h
  obtain ⟨t, e, hdown, -⟩ := (hbye { peer := 7 } 0
    (Tests.up.updLnk fun l => { l with peers := [(0, { st := .seen, id := 7 }), (0, { st := .up })] })
    (by decide +kernel) (by decide +kernel) (by decide +kernel)).1
  obtain rfl := Host.Outcome.next.inj e
  exact absurd hdown (by decide +kernel)

end Sys2Proof

/-! Segment instructions (O55). -/

namespace Sys2Proof
open Machine

/-- Core 63 at the end of Press operation 9 of the running step, after 1 ms, with a quadrant setting that waits for it. -/
def pressEnding : State :=
  { (Tests.upCoreSteps [{ k := 5 }]).updCtx 0 fun x =>
      { x with images := [(0, some { header := List.replicate 64 1, segs := [(63, [.opEnd 9])]
                                     ops := [Tests.blk 32 [(0, [9]), (5, [1])]] })] } with
    time := 1000000 }.updPwr fun p => { p with pressTo := some 2 }

/-- Refutes O55: the quadrants take a waiting setting at the end of the Press operation, and with it the nominal time of each
step in the making is counted up to then (05, R121), which its context holds. -/
theorem not_segmentInstructions : ¬ Obligations.SegmentInstructions := by
  unfold Obligations.SegmentInstructions
  intro h
  obtain ⟨-, -, -, -, -, -, -, hend, -, -⟩ := h
  obtain ⟨t, e, -, -, -, -, hctxs⟩ := hend 63 9 0 pressEnding (by decide +kernel) (by decide +kernel) (by decide +kernel)
  obtain rfl := Host.Outcome.next.inj e
  exact absurd (congrArg (fun x : Tbl Ctx => (x.get 0).nomDone) hctxs) (by decide +kernel)

end Sys2Proof

/-! Segment waits (O56). -/

namespace Sys2Proof.Machine

section
variable {s t : State} {n : Nat}

/-! ### Instructions of a segment that wait (04, R103; 05, R119-R124) -/

theorem State.onCore_runs {c : Nat} {i : SInstr} (h : s.segOf n = some c ∧ s.segAt c n = some i) (f : Nat → State) :
    s.onCore n i f = .next (f c) := by
  unfold State.onCore
  rw [h.1]
  exact if_pos h.2

theorem State.updCore_others (f : Core → Core) (m : Nat) (h : m ≠ n) : (s.updCore n f).core m = s.core m :=
  State.updCore_core_ne _ _ _ _ h

/-- Credits that a wait takes leave the other registers. -/
theorem State.takeCredit_arr (r k : Nat) : (s.takeCredit n r k).arr.credits.get (creditKey n r) = s.arr.credits.get (creditKey n r) - k ∧
    ∀ x, x ≠ creditKey n r → (s.takeCredit n r k).arr.credits.get x = s.arr.credits.get x :=
  by
  unfold State.takeCredit
  rw [State.updArr_arr]
  exact ⟨by simp only [Tbl.get_upd_same], fun x hx => by simp only [Tbl.get_upd_ne _ _ hx]⟩

theorem exec_creditWait {core : CoreId} {r : Fin 32} {k c : Nat} (h : s.segOf core.val = some c ∧ s.segAt c core.val = some (.creditWait r k)) :
    (k ≤ s.arr.credits.get (creditKey core.val r.val) →
      exec (.creditWait core r k) s = .next ((s.takeCredit core.val r.val k).pcNext core.val)) ∧
    (s.arr.credits.get (creditKey core.val r.val) < k → exec (.creditWait core r k) s =
      .next (s.updCore core.val fun x => { x with sstate := .waitCredit, waitOn := r.val, waitCount := k })) := by
  have e : exec (.creditWait core r k) s = _ := State.onCore_runs h _
  rw [e]
  exact ⟨fun hk => congrArg Host.Outcome.next (if_pos (decide_eq_true hk)),
    fun hk => congrArg Host.Outcome.next (if_neg (by simp [State.hasCredit, hk]))⟩

theorem exec_creditWaitRelease {core : CoreId} (hw : (s.core core.val).sstate = .waitCredit) (hc : s.arr.cur.isSome = true) :
    ((s.core core.val).waitCount ≤ s.arr.credits.get (creditKey core.val (s.core core.val).waitOn) →
      exec (.creditWaitRelease core) s =
        .next ((s.takeCredit core.val (s.core core.val).waitOn (s.core core.val).waitCount).updCore core.val fun k =>
          { k with sstate := .run, waitOn := 0, waitCount := 0, pc := k.pc + 1 })) ∧
    (s.arr.credits.get (creditKey core.val (s.core core.val).waitOn) < (s.core core.val).waitCount →
      exec (.creditWaitRelease core) s = .next s) :=
  ⟨fun hk => if_pos (by simp [hw, hc, State.hasCredit, hk]), fun hk => if_neg (by simp [State.hasCredit, hk])⟩

theorem exec_waitDma {core : CoreId} {ch : Fin 4} {k c : Nat} (h : s.segOf core.val = some c ∧ s.segAt c core.val = some (.waitDma ch k)) :
    (k ≤ (s.chan (4 * core.val + ch.val)).progress → exec (.waitDma core ch k) s = .next (s.pcNext core.val)) ∧
    ((s.chan (4 * core.val + ch.val)).progress < k → exec (.waitDma core ch k) s =
      .next (s.updCore core.val fun x => { x with sstate := .waitDma, waitOn := ch.val, waitCount := k })) := by
  have e : exec (.waitDma core ch k) s = _ := State.onCore_runs h _
  rw [e]
  exact ⟨fun hk => congrArg Host.Outcome.next (if_pos (decide_eq_true hk)),
    fun hk => congrArg Host.Outcome.next (if_neg (by simp [State.dmaReached, hk]))⟩

theorem exec_waitDmaRelease {core : CoreId} (hw : (s.core core.val).sstate = .waitDma) (hc : s.arr.cur.isSome = true) :
    ((s.core core.val).waitCount ≤ (s.chan (4 * core.val + (s.core core.val).waitOn)).progress →
      exec (.waitDmaRelease core) s = .next (s.updCore core.val fun k =>
        { k with sstate := .run, waitOn := 0, waitCount := 0, pc := k.pc + 1 })) ∧
    ((s.chan (4 * core.val + (s.core core.val).waitOn)).progress < (s.core core.val).waitCount →
      exec (.waitDmaRelease core) s = .next s) :=
  ⟨fun hk => if_pos (by simp [hw, hc, State.dmaReached, hk]), fun hk => if_neg (by simp [State.dmaReached, hk])⟩

/-! ### Mode fences (04, R101-R103) -/

/-- The mode that a fence under way shows. -/
theorem State.noteFence_arr : s.noteFence.arr = { s.arr with mode := if s.fenceTarget.isSome then .fence else s.arr.mode } ∧
    s.noteFence.fenceTarget = s.fenceTarget ∧ Within [.arr] s s.noteFence := by
  unfold State.noteFence
  split
  · exact ⟨rfl, rfl, by simp⟩
  · exact ⟨rfl, rfl, Within.refl _ s⟩

/-- Steps over contexts' registers leave the rest of the array's. -/
theorem foldS_arr_ctxs {α : Type} (l : List α) {f : State → α → State} (h : ∀ s a, ∃ x, (f s a).arr = { s.arr with ctxs := x }) :
    ∃ x, (foldS l f s).arr = { s.arr with ctxs := x } := by
  induction l generalizing s with
  | nil => exact ⟨_, rfl⟩
  | cons a l ih =>
    obtain ⟨x, hx⟩ := h s a
    obtain ⟨y, hy⟩ := ih (s := f s a)
    exact ⟨y, by rw [foldS_cons, hy, hx]⟩

/-- New quadrant settings leave the array but for whether they are equal and what the contexts' steps may take. -/
theorem State.setQuads_arr (qs : List Nat) : ∃ q x, (s.setQuads qs).arr = { s.arr with qclkEqual := q, ctxs := x } := by
  have hadv : (foldS allCtxs (fun s c => if (s.ctx c).running then s.advanceNominal c else s) s).arr = s.arr :=
    Within.same (l := [.ctxs]) (by simp [foldS_within]) .arr (by decide)
  have hwdog (u : State) : ∃ x, (foldS allCtxs (fun s c => if (s.ctx c).running then
      s.updActx c fun a => { a with wdogUs := wdogLimit (s.stepCycles c) s.lowMhz } else s) u).arr = { u.arr with ctxs := x } :=
    foldS_arr_ctxs _ fun s c => by
      split
      · exact ⟨_, rfl⟩
      · exact ⟨_, rfl⟩
  unfold State.setQuads
  dsimp only
  split
  · obtain ⟨x, hx⟩ := hwdog _
    exact ⟨_, x, hx.trans (by rw [State.updArr_arr, State.updClk_arr, hadv])⟩
  · exact ⟨_, s.arr.ctxs, by rw [State.updArr_arr, State.updClk_arr, hadv]⟩

/-- What a change of mode leaves in the array. -/
theorem State.changeMode_arr (press : Bool) (ex : Nat) : ∃ q x, (s.changeMode press ex).arr =
    { s.arr with
      mode := if press then .press else .split, fenceLastNs := sat32 ex
      fenceMaxNs := if s.arr.fenceMaxNs.toNat < (sat32 ex).toNat then sat32 ex else s.arr.fenceMaxNs
      qclkEqual := q, ctxs := x } := by
  unfold State.changeMode
  extract_lets u x v
  have hu : ∃ q x, u.arr = { s.arr with qclkEqual := q, ctxs := x } := by
    unfold u State.equalise State.pressBoundary State.stepQuads
    split
    · split
      · exact ⟨_, _, rfl⟩
      · exact State.setQuads_arr _
    · split
      · obtain ⟨q, x, h⟩ := State.setQuads_arr (s := (s.updPwr fun p => { p with pressTo := none }).updClk _) _
        exact ⟨q, x, h⟩
      · exact ⟨_, _, rfl⟩
  obtain ⟨q, y, hu⟩ := hu
  refine ⟨q, y, ?_⟩
  have ht : ((v.bump (arrBase + 0x08)).sample 3 (ex / 100)).arr = v.arr := Within.same (l := [.tel]) (by simp) .arr (by decide)
  rw [ht]
  unfold v
  rw [State.updArr_arr, hu]

theorem State.changeMode_split (ex : Nat) (h : s.pwr.pressTo = none) : Within [.arr, .tel] s (s.changeMode false ex) := by
  unfold State.changeMode State.pressBoundary
  rw [h]
  simp

/-- With no core at an urgent point, or no pause asked for, none begins. -/
theorem State.settlePause_none {c : Nat} (h : s.arr.pauseAct = none ∧ s.arr.urgentTo = none ∨ ∀ m, m < 64 → (s.core m).paused = false) :
    s.settlePause c = s := by
  unfold State.settlePause
  obtain ⟨hp, hu⟩ | hm := h
  · rw [hp, hu]
    split
    · rfl
    · rfl
  · have hs : s.stopped = false := by
      have hany : ((upto 64).any fun n => (s.core n).paused) = false := by simpa [upto] using hm
      rw [State.stopped, hany, Bool.and_false]
    rw [hs]
    rfl

theorem mem_upto {i n : Nat} : i ∈ upto n ↔ i < n := by simp [upto]

/-- An update of each entry of a list without repetitions. -/
theorem foldl_upd_get {α : Type} [Inhabited α] [DecidableEq α] (f : α → α) (l : List Nat) (hl : l.Nodup) (t : Tbl α) (i : Nat) :
    (l.foldl (fun t n => t.upd n f) t).get i = if i ∈ l then f (t.get i) else t.get i := by
  induction l generalizing t with
  | nil => simp
  | cons a l ih =>
    obtain ⟨ha, hl⟩ := List.nodup_cons.1 hl
    rw [List.foldl_cons, ih hl, Tbl.get_upd]
    by_cases hi : i = a
    · subst hi
      simp [ha]
    · simp [hi]

end

end Sys2Proof.Machine

namespace Sys2Proof
open Machine

/-- Settles O56. -/
theorem segmentWaits : Obligations.SegmentWaits := by
  unfold Obligations.SegmentWaits
  refine ⟨fun n r k c s h => ?_, fun n s hw hc => ⟨fun hk => ?_, fun hk => (exec_creditWaitRelease hw hc).2 hk⟩, fun n ch k c s h => ?_,
    fun n s hw hc => ⟨fun hk => ?_, fun hk => (exec_waitDmaRelease hw hc).2 hk⟩, fun n press c s h => ?_, fun ex press s h => ?_,
    fun ex s h => ?_, fun n c s h hp => ?_⟩
  case refine_1 =>
    obtain ⟨hhas, hnot⟩ := exec_creditWait h
    by_cases hk : k ≤ s.arr.credits.get (creditKey n.val r.val)
    · obtain ⟨hreg, hregs⟩ := s.takeCredit_arr (n := n.val) r.val k
      exact ⟨_, hhas hk, State.updCore_others _, Within.keeps (by simp), hregs, fun _ => ⟨hreg, State.updCore_core_same _ _ _⟩, fun h => by omega⟩
    · exact ⟨_, hnot (by omega), State.updCore_others _, Within.keeps (by simp), fun _ _ => rfl, fun h => by omega,
        fun _ => ⟨rfl, State.updCore_core_same _ _ _⟩⟩
  case refine_2 =>
    obtain ⟨hreg, hregs⟩ := s.takeCredit_arr (n := n.val) (s.core n.val).waitOn (s.core n.val).waitCount
    exact ⟨_, (exec_creditWaitRelease hw hc).1 hk, State.updCore_core_same _ _ _, hreg, hregs, State.updCore_others _, Within.keeps (by simp)⟩
  case refine_3 =>
    obtain ⟨hhas, hnot⟩ := exec_waitDma h
    by_cases hk : k ≤ (s.chan (4 * n.val + ch.val)).progress
    · exact ⟨_, hhas hk, State.updCore_others _, Within.keeps (by simp), fun _ => State.updCore_core_same _ _ _, fun h => by omega⟩
    · exact ⟨_, hnot (by omega), State.updCore_others _, Within.keeps (by simp), fun h => by omega, fun _ => State.updCore_core_same _ _ _⟩
  case refine_4 =>
    exact ⟨_, (exec_waitDmaRelease hw hc).1 hk, State.updCore_core_same _ _ _, State.updCore_others _, Within.keeps (by simp)⟩
  case refine_5 =>
    obtain ⟨u, hu⟩ : ∃ u, u = s.updCore n.val fun k => { k with sstate := .waitFence, modeFence := some press } := ⟨_, rfl⟩
    obtain ⟨harr, htarget, hw⟩ := u.noteFence_arr
    have e : exec (.modeFence n press) s = .next u.noteFence := (State.onCore_runs h _).trans (by rw [hu])
    have hcore : ∀ m, u.noteFence.core m = u.core m := fun m => by rw [State.core, harr, State.core]
    have hmode : u.arr.mode = s.arr.mode := by rw [hu]; rfl
    refine ⟨_, e, ?_, ?_, fun m hm => ?_, ?_⟩
    · rw [hcore, hu, State.updCore_core_same]
    · rw [harr, htarget, ← hmode]
    · rw [hcore, hu, State.updCore_others _ _ hm]
    · exact Within.keeps (l := [.arr]) (Within.trans (by simp [hu]) hw)
  case refine_6 =>
    obtain ⟨q, x, harr⟩ := s.changeMode_arr press ex
    obtain ⟨v, hv⟩ : ∃ v, v = s.changeMode press ex := ⟨_, rfl⟩
    obtain ⟨t, ht⟩ : ∃ t, t = v.updArr fun a => { a with cores := (upto 64).foldl (fun t n => t.upd n fun k =>
      { k with sstate := .run, modeFence := none, pc := k.pc + 1 }) a.cores } := ⟨_, rfl⟩
    have e : exec (.modeFenceProceed ex) s = .next t := by
      show execModeFenceProceed ex s = _
      unfold execModeFenceProceed
      rw [h, ht, hv]
    rw [← hv] at harr
    refine ⟨t, e, ?_, ?_, ?_, fun n hn => ?_, fun hp ho => ?_, ?_⟩
    · rw [ht, State.updArr_arr, harr]
    · rw [ht, State.updArr_arr, harr]
    · rw [ht, State.updArr_arr, harr]
    · have hcore : t.core n = { s.core n with sstate := .run, modeFence := none, pc := (s.core n).pc + 1 } := by
        rw [State.core, ht, State.updArr_arr, harr]
        dsimp only
        rw [foldl_upd_get _ (upto 64) List.nodup_range, if_pos (mem_upto.2 hn), State.core]
      rw [hcore]
      exact ⟨rfl, rfl, rfl⟩
    · have hvw : Within [.arr, .tel] s v := by
        rw [hv, hp]
        exact State.changeMode_split ex ho
      exact (hvw.trans (by simp [ht])).keeps
    · have hmem : v.mem = s.mem := by
        rw [hv]
        exact Within.same (l := [.arr, .clk, .pwr, .ctxs, .tel]) (by simp) .mem (by decide)
      exact fun k => by rw [show t.mem = s.mem by rw [ht, State.updArr_mem, hmem]]
  case refine_7 =>
    show execModeFenceProceed ex s = _
    unfold execModeFenceProceed
    rw [h]
  case refine_8 =>
    have hpause : (s.updCore n.val fun k => { k with sstate := .waitFence, atFence := true }).settlePause c =
        s.updCore n.val fun k => { k with sstate := .waitFence, atFence := true } := by
      refine State.settlePause_none ?_
      refine hp.imp id fun hm m hlt => ?_
      rw [State.updCore_core]
      split
      all_goals exact hm m hlt
    exact ⟨_, (State.onCore_runs h _).trans (congrArg Host.Outcome.next hpause), State.updCore_core_same _ _ _, State.updCore_others _,
      Within.keeps (by simp)⟩

end Sys2Proof

/-! Step events (O57). -/

namespace Sys2Proof
open Machine

/-- An image whose steps begin in Press mode. -/
def pressImage : Image := { header := Tests.blk 64 [(16, [100]), (30, [1])] }

/-- Context 0 holds the array in Split mode with a Press step to begin; context 1 is suspended in the middle of a step. -/
def besideSuspended : State :=
  { ((Tests.upCtx fun x => { x with next := some { k := 5 }, images := [(0, some pressImage)], weights := [{ id := 0 }] }).updArr
      fun a => { a with cur := some 0 }).updCtx 1 fun x =>
        { x with st := .suspended, midStep := true, steps := [{ k := 7 }], images := [(0, some pressImage)] } with
    time := 1000000 }

/-- Refutes O57: a step that begins in Press mode makes the quadrants' clocks equal, and with new clocks the nominal time of
every step in the making is counted up to then (05, R121), also that of a context suspended in the middle of one. -/
theorem not_stepEvents : ¬ Obligations.StepEvents := by
  unfold Obligations.StepEvents
  intro h
  obtain ⟨hbegin, -⟩ := h
  obtain ⟨t, q, e, -, -, -, -, -, -, -, -, -, -, -, hothers⟩ := hbegin 0 { k := 5 } pressImage besideSuspended
    (by decide +kernel) (by decide +kernel) (by decide +kernel) (by decide +kernel) (by decide +kernel) (by decide +kernel)
    (by decide +kernel) (by decide +kernel)
  obtain rfl := Host.Outcome.next.inj e
  exact absurd (congrArg Ctx.nomDone (hothers 1 (by decide))) (by decide +kernel)

end Sys2Proof

/-! Unit operations (O58). -/

namespace Sys2Proof.Machine

section
variable {s t u : State} {n c : Nat}

/-! ### Engine instructions (04, R84-R86; 05, R120) -/

theorem creditKey_inj {n : Nat} {r r' : Fin 32} : creditKey n r.val = creditKey n r'.val ↔ r = r' := by
  unfold creditKey
  omega

/-- The credits that a descriptor takes. -/
def takeAll (n : Nat) (l : List (Fin 32)) (t : Tbl Nat) : Tbl Nat := l.foldl (fun t r => t.upd (creditKey n r.val) (· - 1)) t

theorem takeAll_get {l : List (Fin 32)} (hl : l.Nodup) (t : Tbl Nat) :
    (∀ r ∈ l, (takeAll n l t).get (creditKey n r.val) = t.get (creditKey n r.val) - 1) ∧
    ∀ x, (∀ r ∈ l, x ≠ creditKey n r.val) → (takeAll n l t).get x = t.get x := by
  unfold takeAll
  induction l generalizing t with
  | nil => exact ⟨fun r h => absurd h List.not_mem_nil, fun x _ => rfl⟩
  | cons a l ih =>
    obtain ⟨ha, hl⟩ := List.nodup_cons.1 hl
    obtain ⟨hin, hout⟩ := ih hl (t.upd (creditKey n a.val) (· - 1))
    rw [List.foldl_cons]
    refine ⟨fun r hr => ?_, fun x hx => ?_⟩
    · obtain rfl | hr := List.mem_cons.1 hr
      · rw [hout _ fun r' hr' h => ha (by rwa [creditKey_inj.1 h]), Tbl.get_upd_same]
      · rw [hin r hr, Tbl.get_upd_ne]
        exact fun h => ha (creditKey_inj.1 h ▸ hr)
    · rw [hout x fun r hr => hx r (List.mem_cons_of_mem a hr), Tbl.get_upd_ne]
      exact hx a List.mem_cons_self

/-- A descriptor has left its queue with its credits. -/
def State.started (s : State) (n q : Nat) (d : Desc) (rest : List Desc) : State :=
  (foldS d.credits (fun s r => s.takeCredit n r.val 1) s).updCore n fun k => { k with queues := k.queues.set q rest, stalled := false }

theorem State.takes_eq (l : List (Fin 32)) : foldS l (fun s r => s.takeCredit n r.val 1) s =
    s.updArr fun a => { a with credits := takeAll n l a.credits } := by
  induction l generalizing s with
  | nil => rfl
  | cons a l ih =>
    rw [foldS_cons, ih]
    rfl

theorem State.started_arr (q : Nat) (d : Desc) (rest : List Desc) : (s.started n q d rest).arr =
    { s.arr with
      credits := takeAll n d.credits s.arr.credits
      cores := s.arr.cores.upd n fun k => { k with queues := k.queues.set q rest, stalled := false } } := by
  rw [State.started, State.takes_eq]
  rfl

theorem State.started_within (q : Nat) (d : Desc) (rest : List Desc) : Within [.arr] s (s.started n q d rest) := by
  rw [State.started, State.takes_eq]
  simp

theorem State.started_core (q : Nat) (d : Desc) (rest : List Desc) (m : Nat) : (s.started n q d rest).core m =
    if m = n then { s.core m with queues := (s.core m).queues.set q rest, stalled := false } else s.core m := by
  rw [State.core, State.started_arr]
  dsimp only
  rw [Tbl.get_upd, State.core]

theorem State.started_runImage (q : Nat) (d : Desc) (rest : List Desc) : (s.started n q d rest).runImage c = s.runImage c := by
  unfold State.runImage State.image State.ctx State.actx
  rw [State.started_arr, (State.started_within q d rest).same .ctxs (by decide)]

/-- Work that writes no result leaves none undefined. -/
theorem State.undefine_nil (op : Nat) : s.undefine c op [] = s := by
  unfold State.undefine
  split
  · rfl
  · split
    · rfl
    · rfl

theorem State.noteFence_none (h : (s.core 0).modeFence = none) : s.noteFence = s := by
  unfold State.noteFence State.fenceTarget
  rw [h]
  rfl

theorem State.workCollide_plain {d : Desc} (hc : d.collide = []) (he : d.ecc = []) (hr : ∀ t : State, t.resultRuns c d.work = []) :
    s.workCollide c n d = s.doWork c n d.work := by
  unfold State.workCollide State.losing
  rw [hc, he]
  show ((s.doWork c n d.work).undefine c (workOp (s.core n).op.toNat d.work) (s.resultRuns c d.work)).updMem (fun m => m) = _
  rw [hr, State.undefine_nil]
  rfl

/-- A descriptor that may start, and whose work meets nothing in its way. -/
structure Starts (s : State) (n : CoreId) (q : Fin 4) (c : Nat) (d : Desc) (rest : List Desc) : Prop where
  cur : s.arr.cur = some c
  running : (s.ctx c).running = true
  credits : ∀ r ∈ d.credits, 1 ≤ s.arr.credits.get (creditKey n.val r.val)
  queue : (s.core n.val).queues.get q.val = d :: rest
  collide : d.collide = []
  ecc : d.ecc = []
  tiles : d.tiles = []
  residue : d.residueBad = false
  noResult : ∀ t : State, t.resultRuns c d.work = []
  full : s.unitFull q d.work = false
  ready : s.tileReady n.val d.work = true
  placed : s.atnPlaced c n.val d.work = true
  fault : s.workFault c n.val d.work = none

/-- No core is at a mode fence and no pause is asked for. -/
structure Unpaused (c : Nat) (s : State) : Prop where
  cur : s.arr.cur = some c
  fence : (s.core 0).modeFence = none
  pause : s.arr.pauseAct = none
  urgent : s.arr.urgentTo = none

theorem Unpaused.settles (h : Unpaused c s) : s.noteFence.settlePause c = s := by
  rw [State.noteFence_none h.fence, State.settlePause_none (.inl ⟨h.pause, h.urgent⟩)]

theorem Unpaused.started (h : Unpaused c s) (q : Nat) (d : Desc) (rest : List Desc) : Unpaused c (s.started n q d rest) := by
  have harr := s.started_arr (n := n) q d rest
  refine ⟨by rw [harr]; exact h.cur, ?_, by rw [harr]; exact h.pause, by rw [harr]; exact h.urgent⟩
  rw [State.started_core]
  split
  all_goals exact h.fence

theorem Starts.exec_eq {core : CoreId} {q : Fin 4} {d : Desc} {rest : List Desc} (h : Starts s core q c d rest)
    (hu : Unpaused c ((s.started core.val q.val d rest).doWork c core.val d.work)) :
    exec (.engineInstructionStart core q) s = .next ((s.started core.val q.val d rest).doWork c core.val d.work) := by
  have hcred : (d.credits.all fun r => s.hasCredit core.val r.val 1) = true := by
    simpa [State.hasCredit] using h.credits
  obtain ⟨u, hu'⟩ : ∃ u, u = (s.started core.val q.val d rest).doWork c core.val d.work := ⟨_, rfl⟩
  have hcol : (s.started core.val q.val d rest).workCollide c core.val d = u := by
    rw [hu', State.workCollide_plain h.collide h.ecc h.noResult]
  show execEngineInstructionStart core q s = _
  unfold execEngineInstructionStart
  dsimp only
  rw [h.cur, h.queue]
  dsimp only
  rw [if_neg (by simp [h.running, hcred, h.full, h.ready, h.placed]), h.fault]
  dsimp only
  rw [← State.started, hcol, h.collide, h.tiles, h.residue]
  rw [← hu'] at hu ⊢
  have hcur : ¬ u.arr.cur ≠ some c := by simp [hu.cur]
  exact (if_neg hcur).trans ((if_neg hcur).trans (congrArg Host.Outcome.next hu.settles))

/-- What a start takes from the core's queue and credits. -/
theorem State.started_taken {core : CoreId} {q : Nat} {d : Desc} {rest : List Desc} (hd : d.credits.Nodup)
    (harr : t.arr.credits = (s.started core.val q d rest).arr.credits) :
    (∀ r ∈ d.credits, t.arr.credits.get (creditKey core.val r.val) = s.arr.credits.get (creditKey core.val r.val) - 1) ∧
    ∀ x, (∀ r ∈ d.credits, x ≠ creditKey core.val r.val) → t.arr.credits.get x = s.arr.credits.get x := by
  rw [harr, State.started_arr]
  exact takeAll_get hd s.arr.credits

/-! ### Operations of the DPP and the TSU (06, R154-R156; 10, R270-R272) -/

/-- A lockstep mismatch in a switch-over gap marks the step that runs. -/
theorem State.markLockstep_gap {r : StepRec} (hg : s.ctl.gap = true) (hr : (s.ctx c).steps.getLast? = some r) :
    ((s.markLockstep c).ctx c).steps.getLast? = some { r with rewindDue := true, lockstepReplay := true } ∧
    Within [.ctxs] s (s.markLockstep c) := by
  have e : s.markLockstep c = s.updStep c r.k fun r => { r with rewindDue := true, lockstepReplay := true } := by
    unfold State.markLockstep
    rw [hr]
    exact if_pos hg
  rw [e]
  refine ⟨?_, by simp⟩
  unfold State.updStep
  rw [State.updCtx_ctx_same]
  dsimp only
  rw [List.getLast?_map, hr, Option.map_some, if_pos rfl]

/-- A mismatch's record and the drain it may bring leave the units, the contexts and the gap. -/
theorem State.lockstepDrain_leaves (off : Nat) (p : List Nat) (last : Option Nat) :
    Within [.tel, .host, .glb, .drn, .board] s (((s.bump off).lifetime 0x0023 p).lockstepDrain last 65) := by
  simp

/-- A credit given to a register that has room for it. -/
theorem State.addCredit_room {r k : Nat} (h : s.arr.credits.get (creditKey n r) + k ≤ 0xFFFF) :
    (s.addCredit c n r k).arr = { s.arr with credits := s.arr.credits.set (creditKey n r) (s.arr.credits.get (creditKey n r) + k) } ∧
    Within [.arr, .tel] s (s.addCredit c n r k) := by
  unfold State.addCredit
  dsimp only
  rw [if_pos h]
  obtain ⟨u, hu⟩ : ∃ u, u = s.updArr fun a => { a with credits := a.credits.set (creditKey n r) (s.arr.credits.get (creditKey n r) + k) } := ⟨_, rfl⟩
  rw [← hu]
  have hw (l : List Nat) : Within [.tel] u (foldS l (fun s b =>
      (s.consAdd (cid 0x60 (4096 * c + b)) k).consAdd (cid 0x61 (4096 * c + b)) k) u) := by simp [foldS_within]
  refine ⟨?_, (Within.trans (by simp [hu]) ((hw _).mono (by decide)))⟩
  rw [(hw _).same .arr (by decide), hu]
  rfl

end

end Sys2Proof.Machine

namespace Sys2Proof
open Machine

section
variable {s : State} {n : CoreId} {c op : Nat} {d : Desc} {rest : List Desc}

theorem exec_start_dpp (hu : Unpaused c s) (h : Starts s n 3 c d rest) (hw : d.work = .dpp op) :
    exec (.engineInstructionStart n 3) s = .next ((s.started n.val 3 d rest).updDpp fun u =>
      { u with queue := u.queue ++ [{ ctx := c, op, desc := imgDesc (s.runImage c) op }] }) := by
  obtain ⟨v, hv⟩ : ∃ v, v = s.started n.val 3 d rest := ⟨_, rfl⟩
  have hdo : (s.started n.val 3 d rest).doWork c n.val d.work = v.updDpp fun u =>
      { u with queue := u.queue ++ [{ ctx := c, op, desc := imgDesc (s.runImage c) op }] } := by
    rw [hw, ← State.started_runImage 3 d rest, hv]
    rfl
  have hv' : Unpaused c v := hv ▸ hu.started 3 d rest
  exact (h.exec_eq (hdo ▸ ⟨hv'.cur, hv'.fence, hv'.pause, hv'.urgent⟩)).trans (congrArg _ (hdo.trans (by rw [hv])))

theorem exec_start_tsu (hu : Unpaused c s) (h : Starts s n 3 c d rest) (hw : d.work = .tsu op) :
    exec (.engineInstructionStart n 3) s = .next ((s.started n.val 3 d rest).updTsu fun u =>
      { u with queue := u.queue ++ [{ ctx := c, op, desc := imgDesc (s.runImage c) op }] }) := by
  obtain ⟨v, hv⟩ : ∃ v, v = s.started n.val 3 d rest := ⟨_, rfl⟩
  have hdo : (s.started n.val 3 d rest).doWork c n.val d.work = v.updTsu fun u =>
      { u with queue := u.queue ++ [{ ctx := c, op, desc := imgDesc (s.runImage c) op }] } := by
    rw [hw, ← State.started_runImage 3 d rest, hv]
    rfl
  have hv' : Unpaused c v := hv ▸ hu.started 3 d rest
  exact (h.exec_eq (hdo ▸ ⟨hv'.cur, hv'.fence, hv'.pause, hv'.urgent⟩)).trans (congrArg _ (hdo.trans (by rw [hv])))

theorem State.started_readSlab (q : Nat) (b : MatRef) (k : Nat) : (s.started n.val q d rest).readSlab c
    ((s.started n.val q d rest).operandB c op b) k = s.readSlab c (s.operandB c op b) k := by
  have hop : (s.started n.val q d rest).operandB c op b = s.operandB c op b := by
    rw [State.operandB, State.opEntry, State.started_runImage]
    rfl
  rw [hop, State.readSlab, (State.started_within q d rest).same .mem (by decide)]
  rfl

theorem exec_start_load {q : Fin 4} {b : MatRef} {k : Nat} (hu : Unpaused c s) (h : Starts s n q c d rest) (hw : d.work = .load op b k) :
    exec (.engineInstructionStart n q) s = .next ((s.started n.val q.val d rest).updCore n.val fun x =>
      { x with shadow := some (s.readSlab c (s.operandB c op b) k) }) := by
  obtain ⟨v, hv⟩ : ∃ v, v = s.started n.val q.val d rest := ⟨_, rfl⟩
  have hdo : (s.started n.val q.val d rest).doWork c n.val d.work = v.updCore n.val fun x =>
      { x with shadow := some (s.readSlab c (s.operandB c op b) k) } := by
    rw [hw, ← State.started_readSlab (n := n) (d := d) (rest := rest) q.val, hv]
    rfl
  have hv' : Unpaused c v := hv ▸ hu.started q.val d rest
  have hfence : ((v.updCore n.val fun x => { x with shadow := some (s.readSlab c (s.operandB c op b) k) }).core 0).modeFence = none := by
    rw [State.updCore_core]
    split
    all_goals exact hv'.fence
  exact (h.exec_eq (hdo ▸ ⟨hv'.cur, hfence, hv'.pause, hv'.urgent⟩)).trans (congrArg _ (hdo.trans (by rw [hv])))

/-- A descriptor that no unit's queue or operand keeps back. -/
theorem starts_of_plain {q : Fin 4} (hcur : s.arr.cur = some c) (hrun : (s.ctx c).running = true)
    (hcred : ∀ r ∈ d.credits, 1 ≤ s.arr.credits.get (creditKey n.val r.val)) (hq : (s.core n.val).queues.get q.val = d :: rest)
    (hcol : d.collide = []) (hecc : d.ecc = []) (htiles : d.tiles = []) (hres : d.residueBad = false)
    (hwork : (∃ op, d.work = .dpp op ∧ q = 3 ∧ s.dpp.queue.length < 4) ∨ (∃ op, d.work = .tsu op ∧ q = 3 ∧ s.tsu.queue.length < 4) ∨
      ∃ op b k, d.work = .load op b k ∧ (s.core n.val).shadow = none ∧ s.workFault c n.val d.work = none) :
    Starts s n q c d rest := by
  obtain ⟨op, hw, rfl, hlen⟩ | ⟨op, hw, rfl, hlen⟩ | ⟨op, b, k, hw, hshadow, hfault⟩ := hwork
  · refine ⟨hcur, hrun, hcred, hq, hcol, hecc, htiles, hres, fun t => by rw [hw]; rfl, ?_, by rw [hw]; rfl, by rw [hw]; rfl, by rw [hw]; rfl⟩
    rw [hw]
    simp [State.unitFull]
    omega
  · refine ⟨hcur, hrun, hcred, hq, hcol, hecc, htiles, hres, fun t => by rw [hw]; rfl, ?_, by rw [hw]; rfl, by rw [hw]; rfl, by rw [hw]; rfl⟩
    rw [hw]
    simp [State.unitFull]
    omega
  · refine ⟨hcur, hrun, hcred, hq, hcol, hecc, htiles, hres, fun t => by rw [hw]; rfl, by rw [hw]; rfl, ?_, by rw [hw]; rfl, hfault⟩
    rw [hw]
    simp [State.tileReady, hshadow]

theorem exec_dppImage {o : DppOp} {q : List DppOp} {cyc : Word} (hq : s.dpp.queue = o :: q) (hb : s.dpp.busy = true)
    (hf : s.dppFault o s.dpp.image = none) (ho : s.dppOpen (dppRead o.desc) = true) :
    exec (.dppImageDone cyc) s =
      (let s' := (s.dppImage o s.dpp.image).updDpp fun u =>
        { u with lastCycles := cyc, maxCycles := if u.maxCycles.toNat < cyc.toNat then cyc else u.maxCycles }
       if s.dpp.image + 1 < (dppRead o.desc).images then .next (s'.updDpp fun u => { u with image := s.dpp.image + 1 })
       else .next ((s'.updDpp fun u => { u with queue := q, busy := false, image := 0 }).addCredit o.ctx (dppRead o.desc).core
        (dppRead o.desc).reg 1)) := by
  show execDppImageDone cyc s = _
  unfold execDppImageDone
  rw [hq]
  dsimp only
  rw [if_neg (by simp [hb, ho]), hf]

theorem exec_tsuPosition {o : TsuOp} {q : List TsuOp} {lane : Fin 16} {i j : Nat} (hq : s.tsu.queue = o :: q) (hb : s.tsu.busy = true)
    (hl : s.tsu.lanes.getLsbD lane.val = true) (hm : (i, j) ∈ s.tsuLeft o) (hf : s.tsuFault o i = none) :
    exec (.tsuPositionDone lane i j) s =
      (let p := { o with done := o.done ++ [(i, j)] }
       let s' := (s.tsuPosition o i j).updTsu fun t => { t with queue := p :: q }
       if (s'.tsuLeft p).length = 0 then .next (s'.tsuEnd p q)
       else .next (if (s'.tsuLeft p).length < ((upto 16).filter fun l => s'.tsu.lanes.getLsbD l).length then
          s'.updTsu fun t => { t with lanes := t.lanes &&& ~~~(BitVec.ofNat 16 (2 ^ lane.val)) } else s')) := by
  show execTsuPositionDone lane i j s = _
  unfold execTsuPositionDone
  rw [hq]
  dsimp only
  rw [if_neg (by simp [hb, hl, hm]), hf]

end

/-- Settles O58. -/
theorem unitOperations : Obligations.UnitOperations := by
  unfold Obligations.UnitOperations
  extract_lets taken may
  refine ⟨fun n c op d rest s hm hq => ⟨fun hw hlen => ?_, fun hw hlen => ?_⟩, fun n q c op k b d rest s hm hq hw hs hf => ?_,
    fun n q d rest s hq hr => ?_, fun o rest s hq hb => ?_, fun o rest r s hq hg hr => ?_, fun o rest cyc s hq hb hf ho hi => ?_,
    fun o rest cyc s hq hb hf ho hi => ?_, fun o rest s hq hb hl => ?_, fun o rest r s hq hg hr => ?_,
    fun o rest lane i j s hq hb hl hmem hf => ?_⟩
  case refine_1 =>
    obtain ⟨hcur, hrun, hnd, hcred, hcol, hecc, htiles, hres, hfence, hpause, hurgent⟩ := hm
    have h := starts_of_plain hcur hrun hcred hq hcol hecc htiles hres (.inl ⟨op, hw, rfl, hlen⟩)
    have hcore := s.started_core (n := n.val) 3 d rest
    refine ⟨_, exec_start_dpp ⟨hcur, hfence, hpause, hurgent⟩ h hw, ?_, State.started_taken hnd rfl, ?_, fun m hm => ?_, ?_⟩
    · refine (congrArg (fun k : Core => k.queues.get 3) (hcore n.val)).trans ?_
      rw [if_pos rfl]
      exact Tbl.get_set_same _ _ _
    · rw [State.updDpp_dpp, (State.started_within 3 d rest).same .dpp (by decide)]
    · exact (hcore m).trans (if_neg hm)
    · exact (((State.started_within (s := s) (n := n.val) 3 d rest).mono (by decide)).trans (by simp)).keeps
  case refine_2 =>
    obtain ⟨hcur, hrun, hnd, hcred, hcol, hecc, htiles, hres, hfence, hpause, hurgent⟩ := hm
    have h := starts_of_plain hcur hrun hcred hq hcol hecc htiles hres (.inr (.inl ⟨op, hw, rfl, hlen⟩))
    have hcore := s.started_core (n := n.val) 3 d rest
    refine ⟨_, { ctx := c, op, desc := imgDesc (s.runImage c) op }, exec_start_tsu ⟨hcur, hfence, hpause, hurgent⟩ h hw, ?_, State.started_taken hnd rfl, ?_, rfl, rfl, rfl, rfl,
      fun m hm => ?_, ?_⟩
    · refine (congrArg (fun k : Core => k.queues.get 3) (hcore n.val)).trans ?_
      rw [if_pos rfl]
      exact Tbl.get_set_same _ _ _
    · rw [State.updTsu_tsu, (State.started_within 3 d rest).same .tsu (by decide)]
    · exact (hcore m).trans (if_neg hm)
    · exact (((State.started_within (s := s) (n := n.val) 3 d rest).mono (by decide)).trans (by simp)).keeps
  case refine_3 =>
    obtain ⟨hcur, hrun, hnd, hcred, hcol, hecc, htiles, hres, hfence, hpause, hurgent⟩ := hm
    have h := starts_of_plain hcur hrun hcred hq hcol hecc htiles hres (.inr (.inr ⟨op, b, k, hw, hs, hf⟩))
    have hcore := s.started_core (n := n.val) q.val d rest
    refine ⟨_, exec_start_load ⟨hcur, hfence, hpause, hurgent⟩ h hw, ?_, State.started_taken (q := q.val) (rest := rest) hnd rfl, ?_, ?_, fun m hm => ?_, ?_⟩
    · rw [State.updCore_core_same, hcore, if_pos rfl]
      exact Tbl.get_set_same _ _ _
    · rw [State.updCore_core_same]
    · rw [State.updCore_core_same, hcore, if_pos rfl]
    · rw [State.updCore_others _ _ hm, hcore, if_neg hm]
    · exact (((State.started_within (s := s) (n := n.val) q.val d rest).mono (by decide)).trans (by simp)).keeps
  case refine_4 =>
    obtain ⟨r, hr, hlow⟩ := hr
    have hcred : (d.credits.all fun r => s.hasCredit n.val r.val 1) = false := by
      simp only [List.all_eq_false]
      exact ⟨r, hr, by simp [State.hasCredit]; omega⟩
    show execEngineInstructionStart n q s = _
    unfold execEngineInstructionStart
    dsimp only
    rw [hq]
    split
    · next h =>
      obtain ⟨rfl, rfl⟩ := List.cons.inj h
      exact if_pos (by simp [hcred])
    · rfl
  case refine_5 =>
    show execDppOperation false s = _
    unfold execDppOperation
    rw [hq, hb]
    rfl
  case refine_6 =>
    obtain ⟨v, hv⟩ : ∃ v, v = if s.dpp.busy then s else s.updDpp fun d => { d with busy := true, image := o.image } := ⟨_, rfl⟩
    have hvw : Within [.dpp] s v := by
      rw [hv]
      split
      all_goals simp
    have hmstep : v.mstep = s.mstep := by
      rw [hv]
      split
      all_goals rfl
    obtain ⟨w, hw⟩ : ∃ w, w = ((v.bump (dppBase + 0x28)).lifetime 0x0023 [0]).lockstepDrain v.dpp.lastLockstep 65 := ⟨_, rfl⟩
    have hww : Within [.tel, .host, .glb, .drn, .board] v w := hw ▸ State.lockstepDrain_leaves _ _ _
    obtain ⟨u, hu⟩ : ∃ u, u = w.updDpp fun d =>
      { d with queue := rest, busy := false, image := 0, flags := d.flags ||| 16, lastLockstep := some s.mstep } := ⟨_, rfl⟩
    have e : exec (.dppOperation true) s = .next (u.markLockstep o.ctx) := by
      show execDppOperation true s = _
      unfold execDppOperation
      rw [hq]
      dsimp only
      rw [← hv, ← hw, hmstep, hu]
      rfl
    have hgap : u.ctl.gap = true := by
      rw [hu, State.updDpp_ctl, hww.same .ctl (by decide), hvw.same .ctl (by decide), hg]
    have hsteps : (u.ctx o.ctx).steps.getLast? = some r := by
      rw [State.ctx, hu, State.updDpp_ctxs, hww.same .ctxs (by decide), hvw.same .ctxs (by decide)]
      exact hr
    obtain ⟨hlast, hmark⟩ := State.markLockstep_gap hgap hsteps
    have hdpp := hmark.same .dpp (by decide)
    refine ⟨_, e, ?_, ?_, ?_, ?_, hlast⟩
    all_goals rw [hdpp, hu, State.updDpp_dpp]
    simp
  case refine_7 =>
    obtain ⟨v, hv⟩ : ∃ v, v = s.dppImage o s.dpp.image := ⟨_, rfl⟩
    have hvk : KeepsBut [.mem, .ctxs] s v := hv ▸ (State.dppImage_within o _ (by simp) (Within.refl _ s)).keeps
    have hdpp : v.dpp = s.dpp := hvk.2 .dpp (by decide)
    refine ⟨(v.updDpp fun u => { u with lastCycles := cyc, maxCycles := if u.maxCycles.toNat < cyc.toNat then cyc else u.maxCycles }).updDpp
      fun u => { u with image := s.dpp.image + 1 }, ?_, rfl, ?_, ?_, rfl, ?_⟩
    · rw [exec_dppImage hq hb hf ho, ← hv]
      exact if_pos hi
    · rw [State.updDpp_dpp, State.updDpp_dpp, hdpp, hq]
    · rw [State.updDpp_dpp, State.updDpp_dpp, hdpp, hb]
    · exact (hvk.mono (by decide)).trans (Within.keeps (by simp))
  case refine_8 =>
    intro key hroom
    obtain ⟨v, hv⟩ : ∃ v, v = s.dppImage o s.dpp.image := ⟨_, rfl⟩
    have hvk : KeepsBut [.mem, .ctxs] s v := hv ▸ (State.dppImage_within o _ (by simp) (Within.refl _ s)).keeps
    obtain ⟨u, hu⟩ : ∃ u, u = (v.updDpp fun u => { u with lastCycles := cyc, maxCycles := if u.maxCycles.toNat < cyc.toNat then cyc else u.maxCycles }).updDpp
      fun u => { u with queue := rest, busy := false, image := 0 } := ⟨_, rfl⟩
    have harr : u.arr = s.arr := by rw [hu]; exact hvk.2 .arr (by decide)
    obtain ⟨hcredit, hw⟩ := State.addCredit_room (s := u) (c := o.ctx) (n := (dppRead o.desc).core) (r := (dppRead o.desc).reg) (k := 1)
      (by rw [harr]; exact hroom)
    have hdpp := hw.same .dpp (by decide)
    refine ⟨u.addCredit o.ctx (dppRead o.desc).core (dppRead o.desc).reg 1, ?_, ?_, ?_, ?_, ?_, ?_, ?_⟩
    · rw [exec_dppImage hq hb hf ho, ← hv, hu]
      exact if_neg (Nat.not_lt.2 hi)
    · rw [hdpp, hu]; rfl
    · rw [hdpp, hu]; rfl
    · rw [hdpp, hu]; rfl
    · rw [hdpp, hu]; rfl
    · rw [hcredit, harr]
      dsimp only
      rw [Tbl.get_set_same]
    · have hku : KeepsBut [.dpp, .mem, .ctxs] s u := (hvk.mono (by decide)).trans (Within.keeps (by simp [hu]))
      exact (hku.mono (by decide)).trans (hw.keeps.mono (by decide))
  case refine_9 =>
    show execTsuOperation false s = _
    unfold execTsuOperation
    rw [hq]
    dsimp only
    rw [if_neg (by decide), hb, if_neg (by decide), if_neg (by simpa using hl)]
    rfl
  case refine_10 =>
    obtain ⟨w, hw⟩ : ∃ w, w = ((s.bump (tsuBase + 0x10)).lifetime 0x0023 [1]).lockstepDrain s.tsu.lastLockstep 65 := ⟨_, rfl⟩
    have hww : Within [.tel, .host, .glb, .drn, .board] s w := hw ▸ State.lockstepDrain_leaves _ _ _
    obtain ⟨u, hu⟩ : ∃ u, u = w.updTsu fun t =>
      { t with queue := rest, busy := false, lanes := 0, flags := t.flags.upd o.ctx (· ||| tsuLockstep), lastLockstep := some s.mstep } := ⟨_, rfl⟩
    have e : exec (.tsuOperation true) s = .next (u.markLockstep o.ctx) := by
      show execTsuOperation true s = _
      unfold execTsuOperation
      rw [hq]
      dsimp only
      rw [if_pos rfl, ← hw, hu]
    have hgap : u.ctl.gap = true := by rw [hu, State.updTsu_ctl, hww.same .ctl (by decide), hg]
    have hsteps : (u.ctx o.ctx).steps.getLast? = some r := by
      rw [State.ctx, hu, State.updTsu_ctxs, hww.same .ctxs (by decide)]
      exact hr
    obtain ⟨hlast, hmark⟩ := State.markLockstep_gap hgap hsteps
    have htsu := hmark.same .tsu (by decide)
    refine ⟨_, e, ?_, ?_, ?_, ?_, hlast⟩
    all_goals rw [htsu, hu, State.updTsu_tsu]
  case refine_11 =>
    intro p mid hleft
    have hmk : KeepsBut [.mem, .ctxs] s mid := (State.tsuPosition_within o i j (by simp) (Within.refl _ s)).keeps
    obtain ⟨v, hv⟩ : ∃ v, v = mid.updTsu fun t => { t with queue := p :: rest } := ⟨_, rfl⟩
    have htsu : mid.tsu = s.tsu := hmk.2 .tsu (by decide)
    obtain ⟨g, hg⟩ : ∃ g : BitVec 16, exec (.tsuPositionDone lane i j) s = .next (v.updTsu fun t => { t with lanes := g }) := by
      rw [exec_tsuPosition hq hb hl hmem hf]
      dsimp only
      rw [show (s.tsuPosition o i j).updTsu _ = v from hv.symm, if_neg fun h => hleft (List.length_eq_zero_iff.1 (by rw [hv] at h; exact h))]
      split
      · exact ⟨_, rfl⟩
      · exact ⟨v.tsu.lanes, rfl⟩
    refine ⟨_, hg, ?_, ?_, ?_, ?_, ?_⟩
    · rw [hv]; rfl
    · rw [State.updTsu_tsu, hv, State.updTsu_tsu, htsu, hb]
    · rw [hv]; rfl
    · rw [hv]; rfl
    · exact (hmk.mono (by decide)).trans (Within.keeps (by simp [hv]))

end Sys2Proof

/-! Channel instructions (O59). -/

namespace Sys2Proof.Machine

section
variable {s t u : State} {k : Chan} {ins : List Byte} {i : Nat}

/-! ### Bytes that a MOVE writes (12, R333, R334) -/

@[simp] theorem Mem.byteAt_setPoison (m : Mem) (a x : Nat) (v : Bool) : (m.setPoison a v).byteAt x = m.byteAt x := rfl

@[simp] theorem Mem.byteAt_freshRun (m : Mem) (a n x : Nat) : (m.freshRun a n).byteAt x = m.byteAt x := rfl

/-- Zeros written from `a` on. -/
theorem Mem.byteAt_zeros (m : Mem) (a n x : Nat) :
    (m.putAll a (List.replicate n 0)).byteAt x = if a ≤ x ∧ x < a + n then 0 else m.byteAt x := by
  by_cases h : a ≤ x ∧ x < a + n
  · obtain ⟨j, rfl⟩ := Nat.exists_eq_add_of_le h.1
    have hj : j < (List.replicate n (0 : Byte)).length := by rw [List.length_replicate]; omega
    rw [if_pos h, Mem.byteAt_putAll_inside _ m a j hj, List.getD_eq_getElem?_getD, List.getElem?_replicate, if_pos (by simpa using hj)]
    rfl
  · rw [if_neg h, Mem.byteAt_putAll_outside]
    rw [List.length_replicate]
    omega

/-- A copy to a run behind its source. -/
theorem Mem.byteAt_copyRun (m : Mem) (src dst n x : Nat) (h : src + n ≤ dst) :
    (m.copyRun src dst n).byteAt x = if dst ≤ x ∧ x < dst + n then m.byteAt (src + (x - dst)) else m.byteAt x := by
  induction n generalizing m src dst with
  | zero => rw [if_neg (by omega)]; rfl
  | succ n ih =>
    obtain ⟨v, hv⟩ : ∃ v : Mem, v = if (m.put dst (m.byteAt src)).poisoned src then (m.put dst (m.byteAt src)).setPoison dst true else m.put dst (m.byteAt src) := ⟨_, rfl⟩
    have hbyte : ∀ y, v.byteAt y = if y = dst then m.byteAt src else m.byteAt y := fun y => by
      have hput : (m.put dst (m.byteAt src)).byteAt y = if y = dst then m.byteAt src else m.byteAt y := by
        split
        · next h => rw [h, Mem.byteAt_put_same]
        · next h => rw [Mem.byteAt_put_ne _ _ h]
      rw [hv]
      split
      · exact hput
      · exact hput
    have e : m.copyRun src dst (n + 1) = v.copyRun (src + 1) (dst + 1) n := by
      rw [Mem.copyRun, hv]
    rw [e, ih v (src + 1) (dst + 1) (by omega)]
    by_cases hx : x = dst
    · rw [if_neg (by omega), if_pos (by omega), hbyte, if_pos hx, hx, Nat.sub_self, Nat.add_zero]
    · by_cases hin : dst ≤ x ∧ x < dst + (n + 1)
      · rw [if_pos (by omega), if_pos hin, hbyte, if_neg (by omega)]
        congr 1
        omega
      · rw [if_neg (by omega), if_neg hin, hbyte, if_neg hx]

/-- What a run cut into pieces writes, when each piece writes its own part of it. -/
theorem pieces_write {step : Mem → Nat × Nat → Mem} {val : Nat → Byte} {P : Mem → Prop} {D L : Nat} (src dst : Nat)
    (hstep : ∀ m a n, a + n ≤ L → P m → P (step m (a, n)) ∧
      ∀ x, (step m (a, n)).byteAt x = if D + a ≤ x ∧ x < D + a + n then val x else m.byteAt x)
    (fuel len a : Nat) (m : Mem) (hf : len ≤ fuel) (hl : a + len ≤ L) (hm : P m) (x : Nat) :
    ((pieces src dst fuel len a).foldl step m).byteAt x = if D + a ≤ x ∧ x < D + a + len then val x else m.byteAt x := by
  induction fuel generalizing len a m with
  | zero =>
    obtain rfl : len = 0 := by omega
    rw [if_neg (by omega)]
    rfl
  | succ fuel ih =>
    cases len with
    | zero =>
      rw [if_neg (by omega)]
      rfl
    | succ len =>
      obtain ⟨n, hn⟩ : ∃ n, n = min (len + 1) (min (16384 - (src + a) % 16384) (16384 - (dst + a) % 16384)) := ⟨_, rfl⟩
      have hn1 : 1 ≤ n ∧ n ≤ len + 1 := by omega
      have e : pieces src dst (fuel + 1) (len + 1) a = (a, n) :: pieces src dst fuel (len + 1 - n) (a + n) := by
        rw [pieces, ← hn]
        exact Nat.succ_ne_zero len
      obtain ⟨hP, hbyte⟩ := hstep m a n (by omega) hm
      rw [e, List.foldl_cons, ih (len + 1 - n) (a + n) _ (by omega) (by omega) hP]
      by_cases h1 : D + (a + n) ≤ x ∧ x < D + (a + n) + (len + 1 - n)
      · rw [if_pos h1, if_pos (by omega)]
      · rw [if_neg h1, hbyte]
        by_cases h2 : D + a ≤ x ∧ x < D + a + n
        · rw [if_pos h2, if_pos (by omega)]
        · rw [if_neg h2, if_neg (by omega)]

theorem State.updMem_keepsBut (s : State) (f : Mem → Mem) : KeepsBut [.mem] s (s.updMem f) :=
  ⟨rfl, fun b hb => by cases b <;> simp_all [Block.same]⟩

/-- Words of a run made anew keep their bytes. -/
theorem Mem.byteAt_refreshed (g : Nat × Nat → Nat) (ps : List (Nat × Nat)) (m : Mem) (x : Nat) :
    (ps.foldl (fun m p => m.freshRun (g p) p.2) m).byteAt x = m.byteAt x := by
  induction ps generalizing m with
  | nil => rfl
  | cons p ps ih => rw [List.foldl_cons, ih, Mem.byteAt_freshRun]

/-- A row of a FILL to the Basket. -/
theorem State.moveRow_fill (host : Blob) (j n : Nat) (hsp : lb ins 3 1 = 0x40) (hf : mvFill ins = true) :
    KeepsBut [.mem] s (s.moveRow k ins host i j n) ∧ ∀ x, (s.moveRow k ins host i j n).mem.byteAt x =
      if basketKey (mvDst k ins i + j) ≤ x ∧ x < basketKey (mvDst k ins i + j) + n then 0 else s.mem.byteAt x := by
  obtain ⟨d, hd⟩ : ∃ d, d = mvDst k ins i + j := ⟨_, rfl⟩
  obtain ⟨ps, hps⟩ : ∃ ps, ps = pieces (mvSrc k ins i + j) d n n 0 := ⟨_, rfl⟩
  have e : s.moveRow k ins host i j n = (s.updMem fun m => ps.foldl (fun m (p : Nat × Nat) => m.freshRun (basketKey (d + p.1)) p.2) m).updMem
      fun m => ps.foldl (fun m (p : Nat × Nat) => m.putAll (basketKey (d + p.1)) (List.replicate p.2 0)) m := by
    simp [State.moveRow, State.spaceKey, hsp, hf, hps, hd]
  rw [e, ← hd]
  refine ⟨(s.updMem_keepsBut _).trans (State.updMem_keepsBut _ _), fun x => ?_⟩
  rw [State.updMem_mem, State.updMem_mem, hps,
    pieces_write (val := fun _ => 0) (P := fun _ => True) (D := basketKey d) (L := n) _ _ (fun m a n _ _ => ⟨trivial, fun x => ?_⟩) n n 0 _
      (Nat.le_refl _) (by omega) trivial x, Nat.add_zero, Mem.byteAt_refreshed]
  rw [Mem.byteAt_zeros, show basketKey (d + (a, n).1) = basketKey d + a from (Nat.add_assoc _ _ _).symm]

/-- A row of a copy within the Basket, to a run behind its source. -/
theorem State.moveRow_copy (host : Blob) (j n : Nat) (hsp : lb ins 3 1 = 0x40) (hsrc : lb ins 2 1 = 0x40) (hf : mvFill ins = false)
    (hle : mvSrc k ins i + j + n ≤ mvDst k ins i + j) :
    KeepsBut [.mem] s (s.moveRow k ins host i j n) ∧ ∀ x, (s.moveRow k ins host i j n).mem.byteAt x =
      if basketKey (mvDst k ins i + j) ≤ x ∧ x < basketKey (mvDst k ins i + j) + n then
        s.mem.byteAt (basketKey (mvSrc k ins i + j) + (x - basketKey (mvDst k ins i + j))) else s.mem.byteAt x := by
  obtain ⟨d, hd⟩ : ∃ d, d = mvDst k ins i + j := ⟨_, rfl⟩
  obtain ⟨r, hr⟩ : ∃ r, r = mvSrc k ins i + j := ⟨_, rfl⟩
  obtain ⟨ps, hps⟩ : ∃ ps, ps = pieces r d n n 0 := ⟨_, rfl⟩
  have e : s.moveRow k ins host i j n = (s.updMem fun m => ps.foldl (fun m (p : Nat × Nat) => m.freshRun (basketKey (d + p.1)) p.2) m).updMem
      fun m => ps.foldl (fun m (p : Nat × Nat) => m.copyRun (basketKey (r + p.1)) (basketKey (d + p.1)) p.2) m := by
    simp [State.moveRow, State.spaceKey, hsp, hsrc, hf, hps, hd, hr]
  rw [e, ← hd, ← hr]
  rw [← hd, ← hr] at hle
  refine ⟨(s.updMem_keepsBut _).trans (State.updMem_keepsBut _ _), fun x => ?_⟩
  rw [State.updMem_mem, State.updMem_mem, hps,
    pieces_write (val := fun x => s.mem.byteAt (basketKey r + (x - basketKey d)))
      (P := fun m => ∀ y, y < n → m.byteAt (basketKey r + y) = s.mem.byteAt (basketKey r + y)) (D := basketKey d) (L := n) _ _
      (fun m a l hal hm => ?_) n n 0 _ (Nat.le_refl _) (by omega) (fun y _ => Mem.byteAt_refreshed _ _ _ _) x,
    Nat.add_zero, Mem.byteAt_refreshed]
  have hcopy : ∀ x, (m.copyRun (basketKey (r + a)) (basketKey (d + a)) l).byteAt x = _ := fun x =>
    Mem.byteAt_copyRun m _ _ l x (by unfold basketKey; omega)
  refine ⟨fun y hy => ?_, fun x => ?_⟩
  · rw [hcopy, if_neg (by unfold basketKey; omega), hm y hy]
  · rw [hcopy, show basketKey (d + a) = basketKey d + a by unfold basketKey; omega]
    split
    · next hx =>
      rw [show basketKey (r + a) + (x - (basketKey d + a)) = basketKey r + (x - basketKey d) by unfold basketKey at hx ⊢; omega]
      exact hm _ (by omega)
    · rfl

/-- The bytes of a MOVE of one row, up to the row's end or where it stops. -/
theorem State.moveSpan_row (host : Blob) (hi : Nat) (hr : mvRows ins = 1) :
    s.moveSpan k ins host 0 hi = if 0 < min hi (mvLen ins) then s.moveRow k ins host 0 0 (min hi (mvLen ins)) else s := by
  unfold State.moveSpan
  rw [hr]
  show (if max 0 (0 * mvLen ins) < min hi ((0 + 1) * mvLen ins) then
    s.moveRow k ins host 0 (max 0 (0 * mvLen ins) - 0 * mvLen ins) (min hi ((0 + 1) * mvLen ins) - max 0 (0 * mvLen ins)) else s) = _
  simp

theorem State.moveSpan_fill (host : Blob) (hi : Nat) (hr : mvRows ins = 1) (hsp : lb ins 3 1 = 0x40) (hf : mvFill ins = true) :
    KeepsBut [.mem] s (s.moveSpan k ins host 0 hi) ∧ ∀ x, (s.moveSpan k ins host 0 hi).mem.byteAt x =
      if basketKey (mvDst k ins 0) ≤ x ∧ x < basketKey (mvDst k ins 0) + min hi (mvLen ins) then 0 else s.mem.byteAt x := by
  rw [State.moveSpan_row host hi hr]
  split
  · exact State.moveRow_fill host 0 _ hsp hf
  · exact ⟨KeepsBut.refl _ s, fun x => by rw [if_neg (by omega)]⟩

theorem State.moveSpan_copy (host : Blob) (hi : Nat) (hr : mvRows ins = 1) (hsp : lb ins 3 1 = 0x40) (hsrc : lb ins 2 1 = 0x40)
    (hf : mvFill ins = false) (hle : mvSrc k ins 0 + mvLen ins ≤ mvDst k ins 0) :
    KeepsBut [.mem] s (s.moveSpan k ins host 0 hi) ∧ ∀ x, (s.moveSpan k ins host 0 hi).mem.byteAt x =
      if basketKey (mvDst k ins 0) ≤ x ∧ x < basketKey (mvDst k ins 0) + min hi (mvLen ins) then
        s.mem.byteAt (basketKey (mvSrc k ins 0) + (x - basketKey (mvDst k ins 0))) else s.mem.byteAt x := by
  rw [State.moveSpan_row host hi hr]
  split
  · exact State.moveRow_copy host 0 _ hsp hsrc hf (by omega)
  · exact ⟨KeepsBut.refl _ s, fun x => by rw [if_neg (by omega)]⟩

/-! ### Channels (12, R335-R347) -/

theorem State.putChan_chan (i : Nat) (k : Chan) (j : Nat) : (s.putChan i k).chan j = if j = i then k else s.chan j := by
  unfold State.putChan
  dsimp only
  split
  · show (s.updChan i fun _ => k).chan j = _
    rw [State.updChan_chan]
  · rw [State.updChan_chan]

theorem State.putChan_eoc (k : Chan) (hk : k.st = .done) (hs : (s.chan i).st ≠ .done) : (s.putChan i k).dma.eoc.get i = true := by
  unfold State.putChan
  dsimp only
  rw [if_pos (by simp [hk, hs]), State.updDma_dma]
  dsimp only
  rw [Tbl.get_set_same]

theorem State.putChan_events (k : Chan) : (s.putChan i k).dma.events = s.dma.events := by
  unfold State.putChan
  dsimp only
  split
  all_goals rfl

/-- A channel that takes up an instruction changes at most itself. -/
theorem State.takeUp_leaves (h : s.takeUp i ins = some u) : KeepsBut [.dma] s u ∧ (∀ j, j ≠ i → u.chan j = s.chan j) ∧
    u.dma.events = s.dma.events := by
  unfold State.takeUp at h
  dsimp only at h
  split at h
  · cases h
  · split at h
    · split at h
      · obtain rfl := Option.some.inj h
        exact ⟨KeepsBut.refl _ s, fun _ _ => rfl, rfl⟩
      · cases h
    · split at h
      · cases h
      · split at h
        · obtain rfl := Option.some.inj h
          exact ⟨Within.keeps (by simp), fun j hj => State.updChan_chan_ne _ _ _ _ hj, rfl⟩
        · split at h
          · obtain rfl := Option.some.inj h
            exact ⟨KeepsBut.refl _ s, fun _ _ => rfl, rfl⟩
          · cases h

theorem State.reading_nil (f : State → State) : s.reading [] f = f s := rfl

theorem State.losing_nil (n : Nat) (f : State → State) : s.losing n [] f = f s := rfl

theorem State.collidedAll_nil (c n op : Nat) : s.collidedAll c n op [] = s := rfl

/-- A MOVE of one row that meets no lost access and ends without an error. -/
theorem exec_move_none {ch : Fin 272} {w : MoveMeets} (h : s.takeUp ch.val ins = some u) (h1 : lb ins 0 1 = 1)
    (hl : portFive ch.val w.lost = []) (he : w.ecc = []) (hm : u.moveStop (u.chan ch.val) ins (u.chan ch.val).offset = none)
    (hst : ((u.moveSpan (u.chan ch.val) ins w.host (u.chan ch.val).offset (mvRows ins * mvLen ins)).chan ch.val).st = .run) :
    exec (.move ch ins w) s = .next (
      let t := u.moveSpan (u.chan ch.val) ins w.host (u.chan ch.val).offset (mvRows ins * mvLen ins)
      t.updChan ch.val fun k =>
        let k := { k with
          out := k.out ++ [({ ins, index := (u.chan ch.val).index, tags := mvRows ins * cdiv (mvLen ins) 256
                              loops := (u.chan ch.val).loops, since := t.time } : OutMove)]
          offset := 0, lastAt := t.time }
        if mvBarrier ins then { k with moving := true } else { k with index := k.index + 1 }) := by
  show execMove ch ins w s = _
  unfold execMove
  rw [if_neg (by simp [h1]), h, he]
  refine congrArg Host.Outcome.next ?_
  dsimp only
  rw [State.reading_nil, hl, hm]
  dsimp only
  rw [State.losing_nil, State.collidedAll_nil, if_neg (by rw [hst]; decide)]

/-- One that stops at an access error halts its channel. -/
theorem exec_move_some {ch : Fin 272} {w : MoveMeets} {m : MoveStop} (h : s.takeUp ch.val ins = some u) (h1 : lb ins 0 1 = 1)
    (hl : portFive ch.val w.lost = []) (he : w.ecc = []) (hm : u.moveStop (u.chan ch.val) ins (u.chan ch.val).offset = some m)
    (hva : m.va = none) :
    exec (.move ch ins w) s = .next ((u.moveSpan (u.chan ch.val) ins w.host (u.chan ch.val).offset m.offset).chanHalt ch.val m.cls m.write
      m.space m.addr m.offset) := by
  show execMove ch ins w s = _
  unfold execMove
  rw [if_neg (by simp [h1]), h, he]
  refine congrArg Host.Outcome.next ?_
  dsimp only
  rw [State.reading_nil, hl, hm]
  dsimp only
  rw [State.losing_nil, hva, State.collidedAll_nil]

theorem State.updChan_const (f : Chan → Chan) : s.updChan i f = s.updChan i fun _ => f (s.chan i) := rfl

/-- A MOVE of one row that ends without an error is out until it is acknowledged. -/
def Chan.issued (k : Chan) (ins : List Byte) (now : Nat) : Chan :=
  let o : OutMove := { ins, index := k.index, tags := mvRows ins * cdiv (mvLen ins) 256, loops := k.loops, since := now }
  let k := { k with out := k.out ++ [o], offset := 0, lastAt := now }
  if mvBarrier ins then { k with moving := true } else { k with index := k.index + 1 }

theorem Chan.issued_fields (k : Chan) (ins : List Byte) (now : Nat) : (k.issued ins now).out.length = k.out.length + 1 ∧
    (k.issued ins now).st = k.st ∧ (k.issued ins now).index = if mvBarrier ins then k.index else k.index + 1 := by
  unfold Chan.issued
  dsimp only
  split
  · exact ⟨List.length_append, rfl, rfl⟩
  · exact ⟨List.length_append, rfl, rfl⟩

theorem exec_move_ends {ch : Fin 272} {w : MoveMeets} (h : s.takeUp ch.val ins = some u) (h1 : lb ins 0 1 = 1)
    (hl : portFive ch.val w.lost = []) (he : w.ecc = []) (h0 : (u.chan ch.val).offset = 0) (hst : (u.chan ch.val).st = .run)
    (hm : u.moveStop (u.chan ch.val) ins 0 = none) (hr : mvRows ins = 1)
    (hk : KeepsBut [.mem] u (u.moveSpan (u.chan ch.val) ins w.host 0 (mvLen ins))) :
    ∃ t, exec (.move ch ins w) s = .next t ∧ t.mem = (u.moveSpan (u.chan ch.val) ins w.host 0 (mvLen ins)).mem ∧
      t.chan ch.val = (u.chan ch.val).issued ins u.time ∧ (∀ i, i ≠ ch.val → t.chan i = s.chan i) ∧ KeepsBut [.mem, .dma] s t := by
  obtain ⟨huk, hchan, -⟩ := State.takeUp_leaves h
  obtain ⟨v, hv⟩ : ∃ v, v = u.moveSpan (u.chan ch.val) ins w.host 0 (mvLen ins) := ⟨_, rfl⟩
  rw [← hv] at hk ⊢
  have hvchan : ∀ i, v.chan i = u.chan i := fun i => by rw [State.chan, hk.2 .dma (by decide), State.chan]
  have htime : v.time = u.time := hk.2 .time (by decide)
  refine ⟨v.updChan ch.val fun _ => (u.chan ch.val).issued ins u.time, ?_, rfl, ?_, fun i hi => ?_, ?_⟩
  · have hspan : u.moveSpan (u.chan ch.val) ins w.host (u.chan ch.val).offset (mvRows ins * mvLen ins) = v := by
      rw [h0, hr, Nat.one_mul, hv]
    rw [exec_move_none h h1 hl he (h0 ▸ hm) (by rw [hspan, hvchan, hst]), hspan, State.updChan_const, hvchan, htime]
    rfl
  · rw [State.updChan_chan_same]
  · rw [State.updChan_chan, if_neg hi, hvchan, hchan i hi]
  · exact (huk.mono (by decide)).trans ((hk.mono (by decide)).trans (Within.keeps (by simp)))

/-- A FILL of one row of the Basket stops where the Basket ends. -/
theorem State.moveStop_fill {m : MoveStop} (hr : mvRows ins = 1) (hsp : lb ins 3 1 = 0x40) (hf : mvFill ins = true)
    (h : s.moveStop k ins 0 = some m) : m.offset ≤ mvLen ins ∧ m.va = none := by
  have hrow : s.rowStop k ins 0 0 = some m := by
    unfold State.moveStop at h
    rw [hr] at h
    obtain ⟨i, hi, hx⟩ := List.exists_of_findSome?_eq_some h
    obtain rfl : i = 0 := by have := mem_upto.1 hi; omega
    split at hx
    · cases hx
    · simpa using hx
  have hhost : ∀ a b, s.hostPoison k ins a b = none := fun a b => if_neg (by simp [hsp])
  have hrun : s.runFault k 0x40 (mvDst k ins 0 + 0) (mvLen ins - 0) true = runEnd (mvDst k ins 0 + 0) (mvLen ins - 0) 0x6000000 := by
    unfold State.runFault
    rw [if_neg (by decide), if_pos rfl]
  unfold State.rowStop at hrow
  dsimp only at hrow
  rw [hhost, hf, hsp, hrun] at hrow
  by_cases hle : mvDst k ins 0 + 0 + (mvLen ins - 0) ≤ 0x6000000
  · rw [runEnd, if_pos hle] at hrow
    cases hrow
  · rw [runEnd, if_neg hle] at hrow
    obtain rfl := Option.some.inj hrow
    exact ⟨by dsimp only; omega, rfl⟩

theorem Chan.advance_progress (k : Chan) (n : Nat) : (k.advance n).progress = min 0xFFFF (k.progress + n) := rfl

/-- Settling a channel changes none of what a later instruction reads of it. -/
theorem Chan.settle_fields (k : Chan) : k.settle.progress = k.progress ∧ k.settle.out = k.out ∧ k.settle.loops = k.loops := by
  unfold Chan.settle
  split
  all_goals exact ⟨rfl, rfl, rfl⟩

theorem Chan.ack_fields {m : OutMove} {r : List OutMove} (h : k.out = m :: r) (now : Nat) :
    (k.ack now).out = r ∧ (k.ack now).progress = min 0xFFFF (k.progress + 1) := by
  unfold Chan.ack
  rw [h]
  dsimp only
  rw [(Chan.settle_fields _).1, (Chan.settle_fields _).2.1]
  split
  all_goals exact ⟨rfl, rfl⟩

theorem Chan.next_fields (k : Chan) (now : Nat) : (k.next now).progress = min 0xFFFF (k.progress + 1) ∧ (k.next now).loops = k.loops ∧
    (k.next now).st ≠ .wait := by
  unfold Chan.next
  obtain ⟨hp, -, hl⟩ := Chan.settle_fields { k.advance 1 with
    index := k.index + 1, offset := 0, st := .run, waitKind := 0, waitObj := 0, waitCount := 0, moving := false, lastAt := now }
  refine ⟨hp, hl, ?_⟩
  unfold Chan.settle
  split
  · simp
  · simp

/-- A channel's LOOP goes back for a further iteration, or on. -/
theorem Chan.loop_fields (k : Chan) (n target : Nat) (sa da : Int) (now : Nat) (d : Chan) (hd : d = k.loop n target sa da now) :
    d.progress = min 0xFFFF (k.progress + 1) ∧
    ((∀ e ∈ k.loops.head?, e.1 ≠ k.index) → 1 < n →
      d.index = target ∧ d.loops = (k.index, target, 1, sa, da) :: k.loops ∧ d.st = k.st) ∧
    ((∀ e ∈ k.loops.head?, e.1 ≠ k.index) → n ≤ 1 → d.loops = k.loops) ∧
    ∀ tgt it sa' da' rest, k.loops = (k.index, tgt, it, sa', da') :: rest →
      (it + 1 < n → d.index = target ∧ d.loops = (k.index, target, it + 1, sa, da) :: rest) ∧
      (n ≤ it + 1 → d.loops = rest) := by
  rw [hd]
  unfold Chan.loop
  extract_lets adv back
  have hback : ∀ it outer, (back it outer).progress = min 0xFFFF (k.progress + 1) ∧ (back it outer).index = target ∧
      (back it outer).loops = (k.index, target, it, sa, da) :: outer ∧ (back it outer).st = k.st := fun it outer => ⟨rfl, rfl, rfl, rfl⟩
  obtain ⟨hnp, hnl, -⟩ := k.next_fields now
  cases hl : k.loops with
  | nil =>
    refine ⟨?_, fun _ h => ?_, fun _ h => ?_, fun tgt it sa' da' rest hr => by cases hr⟩
    · dsimp only
      split
      · exact (hback _ _).1
      · exact hnp
    · dsimp only
      rw [if_pos h]
      exact ⟨rfl, rfl, rfl⟩
    · dsimp only
      rw [if_neg (by omega), hnl, hl]
  | cons e outer =>
    obtain ⟨at_, tg, it, x, y⟩ := e
    obtain ⟨hop, hol, -⟩ := Chan.next_fields { k with loops := outer } now
    refine ⟨?_, fun hne h => ?_, fun hne h => ?_, fun tgt it' sa' da' rest hr => ?_⟩
    · dsimp only
      split
      · split
        · exact (hback _ _).1
        · exact hop
      · split
        · exact (hback _ _).1
        · exact hnp
    · dsimp only
      rw [if_neg (hne (at_, tg, it, x, y) rfl), if_pos h]
      exact ⟨rfl, rfl, rfl⟩
    · dsimp only
      rw [if_neg (hne (at_, tg, it, x, y) rfl), if_neg (by omega), hnl, hl]
    · obtain ⟨h1, rfl⟩ := List.cons.inj hr
      obtain ⟨rfl, rfl, rfl, rfl, rfl⟩ : at_ = k.index ∧ tg = tgt ∧ it = it' ∧ x = sa' ∧ y = da' := by simpa using h1
      dsimp only
      rw [if_pos rfl]
      refine ⟨fun h => ?_, fun h => ?_⟩
      · rw [if_pos h]
        exact ⟨rfl, rfl⟩
      · rw [if_neg (by omega), hol]

/-- A channel of firmware's that takes up a program of one instruction. -/
def Chan.taken (k : Chan) (now : Nat) : Chan :=
  { k with
    st := .run, owned := false, aborted := false, progress := 0, index := 0, count := 1, loops := [], moving := false
    out := [], offset := 0, cls := .none_, waitKind := 0, waitObj := 0, waitCount := 0, lastAt := now }

theorem State.takeUp_firmware (hlive : s.dmaLive = true) (hi : 256 ≤ i) (ho : (s.chan i).owned = false)
    (hst : (s.chan i).st = .idle ∨ (s.chan i).st = .done) :
    s.takeUp i ins = some (s.updChan i fun k => k.taken s.time) := by
  unfold State.takeUp
  dsimp only
  rw [if_neg (by simp [hlive]), if_neg (by simp [ho]), if_neg (by omega), if_pos (by simpa using hst)]
  rfl

theorem Chan.taken_next (k : Chan) (now now' : Nat) : ((k.taken now).next now').st = .done := rfl

end

end Sys2Proof.Machine

namespace Sys2Proof
open Machine

section
variable {s u : State} {ch : Fin 272} {ins : List Byte}

theorem exec_dmaLoop (h : s.takeUp ch.val ins = some u) (h1 : lb ins 0 1 = 2) :
    exec (.dmaLoop ch ins) s = .next (u.putChan ch.val ((u.chan ch.val).loop (lb ins 4 4) (lb ins 8 2) (signedOf 32 (lb ins 16 4))
      (signedOf 32 (lb ins 20 4)) u.time)) := by
  show execDmaLoop ch ins s = _
  unfold execDmaLoop
  rw [if_neg (by simp [h1]), h]

theorem waitObject_event (h : lb ins 1 1 = 3) : waitObject ch.val ins = lb ins 4 2 % 64 := by
  unfold waitObject
  rw [h]
  rfl

/-- A WAIT on event register `e` that channel `ch` of firmware takes up. -/
theorem exec_wait_event (h : s.takeUp ch.val ins = some u) (h1 : lb ins 0 1 = 3) (h2 : lb ins 1 1 = 3) :
    exec (.wait ch ins) s = .next (
      if lb ins 8 4 ≤ u.dma.events.get (lb ins 4 2 % 64) then
        (u.updDma fun d => { d with events := d.events.upd (lb ins 4 2 % 64) (· - lb ins 8 4) }).chanNext ch.val
      else u.updChan ch.val fun k =>
        { k with st := .wait, waitKind := 3, waitObj := lb ins 4 2 % 64, waitCount := lb ins 8 4, lastAt := u.time }) := by
  show execWait ch ins s = _
  unfold execWait
  dsimp only
  rw [waitObject_event h2, h1, h2, if_neg (by decide), h]
  dsimp only
  rw [if_neg (by simp)]
  by_cases hc : lb ins 8 4 ≤ u.dma.events.get (lb ins 4 2 % 64)
  · rw [if_pos hc, show u.waitMet ch.val 3 (lb ins 4 2 % 64) (lb ins 8 4) =
      some (u.updDma fun d => { d with events := d.events.upd (lb ins 4 2 % 64) (· - lb ins 8 4) }) from if_pos hc]
  · rw [if_neg hc, show u.waitMet ch.val 3 (lb ins 4 2 % 64) (lb ins 8 4) = none from if_neg hc]

/-- A WAIT on an event register takes its count once it is there. -/
theorem exec_waitSatisfied_event (hlive : s.dmaLive = true) (hst : (s.chan ch.val).st = .wait) (hk : (s.chan ch.val).waitKind = 3) :
    exec (.waitSatisfied ch) s = .next (
      if (s.chan ch.val).waitCount ≤ s.dma.events.get (s.chan ch.val).waitObj then
        (s.updDma fun d => { d with events := d.events.upd (s.chan ch.val).waitObj (· - (s.chan ch.val).waitCount) }).chanNext ch.val
      else s) := by
  show execWaitSatisfied ch s = _
  unfold execWaitSatisfied
  dsimp only
  rw [if_neg (by simp [hlive, hst]), hk]
  by_cases hc : (s.chan ch.val).waitCount ≤ s.dma.events.get (s.chan ch.val).waitObj
  · rw [if_pos hc, show s.waitMet ch.val 3 (s.chan ch.val).waitObj (s.chan ch.val).waitCount =
      some (s.updDma fun d => { d with events := d.events.upd (s.chan ch.val).waitObj (· - (s.chan ch.val).waitCount) }) from if_pos hc]
  · rw [if_neg hc, show s.waitMet ch.val 3 (s.chan ch.val).waitObj (s.chan ch.val).waitCount = none from if_neg hc]

/-- A SIGNAL to an event register. -/
theorem exec_signal_event (h : s.takeUp ch.val ins = some u) (h1 : lb ins 0 1 = 4) (h2 : lb ins 1 1 = 2) :
    exec (.signal ch ins) s =
      .next ((u.updDma fun d => { d with events := d.events.upd (lb ins 4 1 % 64) (· + lb ins 8 4) }).chanNext ch.val) := by
  show execSignal ch ins s = _
  unfold execSignal
  dsimp only
  rw [h1, h2, if_neg (by decide), h]
  rfl

end

/-- Settles O59. -/
theorem channelInstructions : Obligations.ChannelInstructions := by
  unfold Obligations.ChannelInstructions
  extract_lets ready row
  refine ⟨fun ch ins w s u h hrow hf hm => ?_, fun ch ins w s u h hrow hf hsrc hm hle => ?_, fun ch ins w m s u h hrow hf hm => ?_,
    fun ch ins w s h => ?_, fun ch m r s hout => ?_, fun ch ins s u h h1 hst => ?_, fun ch ins s hready h1 h2 => ?_,
    fun ch s hlive hst hk hc => ?_, fun ch s h => ?_, fun ch ins s hready h1 h2 => ?_⟩
  case refine_1 =>
    obtain ⟨h1, hsp, hr, h0, hst, hl, he⟩ := hrow
    obtain ⟨hspan, hbytes⟩ := u.moveSpan_fill (k := u.chan ch.val) w.host (mvLen ins) hr hsp hf
    obtain ⟨t, e, hmem, hchan, hothers, hk⟩ := exec_move_ends h h1 hl he h0 hst hm hr hspan
    obtain ⟨hlen, hrun, hindex⟩ := (u.chan ch.val).issued_fields ins u.time
    have hu : u.mem = s.mem := (State.takeUp_leaves h).1.2 .mem (by decide)
    rw [Nat.min_self, hu] at hbytes
    refine ⟨t, e, ⟨fun j hj => ?_, fun x hx => ?_⟩, hchan ▸ hlen, (hchan ▸ hrun).trans hst, hchan ▸ hindex, hothers, hk⟩
    · rw [hmem, hbytes, if_pos (by unfold basketKey; omega)]
    · rw [hmem, hbytes, if_neg fun h => ?_]
      exact hx (x - basketKey (mvDst (u.chan ch.val) ins 0)) (by omega) (by unfold basketKey at h ⊢; omega)
  case refine_2 =>
    obtain ⟨h1, hsp, hr, h0, hst, hl, he⟩ := hrow
    obtain ⟨hspan, hbytes⟩ := u.moveSpan_copy (k := u.chan ch.val) w.host (mvLen ins) hr hsp hsrc hf hle
    obtain ⟨t, e, hmem, hchan, hothers, hk⟩ := exec_move_ends h h1 hl he h0 hst hm hr hspan
    have hu : u.mem = s.mem := (State.takeUp_leaves h).1.2 .mem (by decide)
    rw [Nat.min_self, hu] at hbytes
    refine ⟨t, e, ⟨fun j hj => ?_, fun x hx => ?_⟩, hothers, hk⟩
    · rw [hmem, hbytes, if_pos (by unfold basketKey; omega)]
      congr 1
      unfold basketKey
      omega
    · rw [hmem, hbytes, if_neg fun h => ?_]
      exact hx (x - basketKey (mvDst (u.chan ch.val) ins 0)) (by omega) (by unfold basketKey at h ⊢; omega)
  case refine_3 =>
    obtain ⟨h1, hsp, hr, h0, hst, hl, he⟩ := hrow
    obtain ⟨hoff, hva⟩ := State.moveStop_fill hr hsp hf hm
    obtain ⟨huk, hchan, -⟩ := State.takeUp_leaves h
    obtain ⟨v, hv⟩ : ∃ v, v = u.moveSpan (u.chan ch.val) ins w.host 0 m.offset := ⟨_, rfl⟩
    obtain ⟨hspan, hbytes⟩ := u.moveSpan_fill (k := u.chan ch.val) w.host m.offset hr hsp hf
    rw [Nat.min_eq_left hoff, huk.2 .mem (by decide)] at hbytes
    rw [← hv] at hspan hbytes
    have hvchan : ∀ i, v.chan i = u.chan i := fun i => by rw [State.chan, hspan.2 .dma (by decide), State.chan]
    have e : exec (.move ch ins w) s = .next (v.chanHalt ch.val m.cls m.write m.space m.addr m.offset) := by
      rw [exec_move_some h h1 hl he (h0 ▸ hm) hva, h0, hv]
    have hw : Within [.dma] v (v.chanHalt ch.val m.cls m.write m.space m.addr m.offset) := by simp
    have hmem := hw.same .mem (by decide)
    have hput := State.putChan_chan (s := v) ch.val ((v.chan ch.val).halt m.cls m.write m.space m.addr m.offset)
    refine ⟨_, e, ?_, ⟨fun j hj => ?_, fun x hx => ?_⟩, fun i hi => ?_, ?_⟩
    · dsimp only
      rw [State.chanHalt, hput, if_pos rfl]
      exact ⟨rfl, rfl, rfl, rfl, rfl, rfl⟩
    · rw [hmem, hbytes, if_pos (by unfold basketKey; omega)]
    · rw [hmem, hbytes, if_neg fun h => ?_]
      exact hx (x - basketKey (mvDst (u.chan ch.val) ins 0)) (by omega) (by unfold basketKey at h ⊢; omega)
    · rw [State.chanHalt, hput, if_neg hi, hvchan, hchan i hi]
    · exact (huk.mono (by decide)).trans ((hspan.mono (by decide)).trans (hw.keeps.mono (by decide)))
  case refine_4 =>
    show execMove ch ins w s = _
    unfold execMove
    rw [h]
    exact congrArg Host.Outcome.next (ite_self s)
  case refine_5 =>
    have hput := State.putChan_chan (s := s) ch.val ((s.chan ch.val).ack s.time)
    obtain ⟨ho, hp⟩ := Chan.ack_fields hout s.time
    refine ⟨s.putChan ch.val ((s.chan ch.val).ack s.time), rfl, ?_, ?_, fun i hi => ?_, Within.keeps (by simp)⟩
    · rw [hput, if_pos rfl, ho]
    · rw [hput, if_pos rfl, hp]
    · rw [hput, if_neg hi]
  case refine_6 =>
    obtain ⟨huk, hchan, -⟩ := State.takeUp_leaves h
    obtain ⟨d, hd⟩ : ∃ d, d = (u.chan ch.val).loop (lb ins 4 4) (lb ins 8 2) (signedOf 32 (lb ins 16 4)) (signedOf 32 (lb ins 20 4)) u.time := ⟨_, rfl⟩
    have hput := State.putChan_chan (s := u) ch.val d
    obtain ⟨hp, hfirst, hlast, hopen⟩ := Chan.loop_fields _ _ _ _ _ _ d hd
    refine ⟨u.putChan ch.val d, by rw [exec_dmaLoop h h1, hd], ?_, fun i hi => ?_, huk.trans (Within.keeps (by simp))⟩
    · dsimp only
      rw [hput, if_pos rfl]
      refine ⟨hp, fun hne hn => ?_, hlast, hopen⟩
      rw [← hst]
      exact hfirst hne hn
    · rw [hput, if_neg hi, hchan i hi]
  case refine_7 =>
    obtain ⟨hlive, hi, ho, hst⟩ := hready
    have htake := State.takeUp_firmware (ins := ins) hlive hi ho hst
    obtain ⟨u, hu⟩ : ∃ u, u = s.updChan ch.val fun k => k.taken s.time := ⟨_, rfl⟩
    have huchan : ∀ i, u.chan i = if i = ch.val then (s.chan i).taken s.time else s.chan i := fun i => by rw [hu, State.updChan_chan]
    have hev : u.dma.events = s.dma.events := by rw [hu]; rfl
    have huk : KeepsBut [.dma] s u := Within.keeps (by simp [hu])
    have e := exec_wait_event htake h1 h2
    rw [← hu, hev] at e
    have huc := huchan ch.val
    rw [if_pos rfl] at huc
    by_cases hc : lb ins 8 4 ≤ s.dma.events.get (lb ins 4 2 % 64)
    · rw [if_pos hc] at e
      obtain ⟨v, hv⟩ : ∃ v, v = u.updDma fun d => { d with events := d.events.upd (lb ins 4 2 % 64) (· - lb ins 8 4) } := ⟨_, rfl⟩
      rw [← hv] at e
      have hvchan : ∀ i, v.chan i = u.chan i := fun i => by rw [hv]; rfl
      have hvev : v.dma.events = s.dma.events.upd (lb ins 4 2 % 64) (· - lb ins 8 4) := by rw [hv, State.updDma_dma, hev]
      have hput := State.putChan_chan (s := v) ch.val ((v.chan ch.val).next v.time)
      have hdone : ((v.chan ch.val).next v.time).st = .done := by rw [hvchan, huc]; rfl
      have htev := State.putChan_events (s := v) (i := ch.val) ((v.chan ch.val).next v.time)
      refine ⟨v.putChan ch.val ((v.chan ch.val).next v.time), e, huk.trans (Within.keeps (by simp [hv])), fun _ => ⟨?_, ?_, ?_⟩,
        fun h => by omega, fun x hx => ?_, fun i hi => ?_⟩
      · rw [htev, hvev, Tbl.get_upd_same]
      · rw [hput, if_pos rfl, hdone]
      · exact State.putChan_eoc _ hdone (by rw [hvchan, huc]; simp [Chan.taken])
      · rw [htev, hvev, Tbl.get_upd_ne _ _ hx]
      · rw [hput, if_neg hi, hvchan, huchan, if_neg hi]
    · rw [if_neg hc] at e
      refine ⟨_, e, huk.trans (Within.keeps (by simp)), fun h => absurd h hc, fun _ => ⟨hev, ?_⟩, fun x _ => congrArg (fun t : Tbl Nat => t.get x) hev,
        fun i hi => ?_⟩
      · rw [State.updChan_chan_same]
        exact ⟨rfl, rfl, rfl, rfl⟩
      · rw [State.updChan_chan, if_neg hi, huchan, if_neg hi]
  case refine_8 =>
    have e := exec_waitSatisfied_event hlive hst hk
    rw [if_pos hc] at e
    obtain ⟨v, hv⟩ : ∃ v, v = s.updDma fun d => { d with events := d.events.upd (s.chan ch.val).waitObj (· - (s.chan ch.val).waitCount) } := ⟨_, rfl⟩
    rw [← hv] at e
    have hvchan : ∀ i, v.chan i = s.chan i := fun i => by rw [hv]; rfl
    have hput := State.putChan_chan (s := v) ch.val ((v.chan ch.val).next v.time)
    have htev := State.putChan_events (s := v) (i := ch.val) ((v.chan ch.val).next v.time)
    obtain ⟨hp, -, hne⟩ := (v.chan ch.val).next_fields v.time
    refine ⟨v.putChan ch.val ((v.chan ch.val).next v.time), e, ?_, ?_, ?_, fun i hi => ?_, Within.keeps (by simp [hv])⟩
    · rw [htev, hv, State.updDma_dma]
      dsimp only
      rw [Tbl.get_upd_same]
    · rw [hput, if_pos rfl]
      exact hne
    · rw [hput, if_pos rfl, hp, hvchan]
    · rw [hput, if_neg hi, hvchan]
  case refine_9 =>
    by_cases hrun : s.dmaLive = true ∧ (s.chan ch.val).st = .wait
    · obtain ⟨hlive, hst⟩ := hrun
      obtain hl | hs | ⟨hk, hc⟩ := h
      · exact absurd hlive (by simp [hl])
      · exact absurd hst hs
      · rw [exec_waitSatisfied_event hlive hst hk, if_neg (Nat.not_le.2 hc)]
    · exact congrArg Host.Outcome.next (if_pos (by
        by_cases hs : (s.chan ch.val).st = .wait
        · simp [show s.dmaLive = false by simpa [hs] using hrun]
        · simp [hs]))
  case refine_10 =>
    obtain ⟨hlive, hi, ho, hst⟩ := hready
    have htake := State.takeUp_firmware (ins := ins) hlive hi ho hst
    obtain ⟨u, hu⟩ : ∃ u, u = s.updChan ch.val fun k => k.taken s.time := ⟨_, rfl⟩
    have e := exec_signal_event htake h1 h2
    obtain ⟨v, hv⟩ : ∃ v, v = u.updDma fun d => { d with events := d.events.upd (lb ins 4 1 % 64) (· + lb ins 8 4) } := ⟨_, rfl⟩
    rw [← hu, ← hv] at e
    have hvev : v.dma.events = s.dma.events.upd (lb ins 4 1 % 64) (· + lb ins 8 4) := by rw [hv, hu]; rfl
    have hput := State.putChan_chan (s := v) ch.val ((v.chan ch.val).next v.time)
    have htev := State.putChan_events (s := v) (i := ch.val) ((v.chan ch.val).next v.time)
    refine ⟨v.putChan ch.val ((v.chan ch.val).next v.time), e, ?_, fun x hx => ?_, fun i hi => ?_, Within.keeps (by simp [hv, hu])⟩
    · rw [htev, hvev, Tbl.get_upd_same]
    · rw [htev, hvev, Tbl.get_upd_ne _ _ hx]
    · rw [hput, if_neg hi, show v.chan i = u.chan i by rw [hv]; rfl, hu, State.updChan_chan, if_neg hi]

end Sys2Proof

/-! What resting contexts keep (O60). -/

namespace Sys2Proof.Machine

section
variable {s t u : State} {c : Nat}

/-! ### What a context that does not reset keeps of its state and its work (15, R377-R379) -/

/-- The context is not freed, stays FAULTED where it is, and gets no request, job or pin where it has none. -/
def Ctx.Rests (x y : Ctx) : Prop := x.st ≠ .resetting → y.st ≠ .resetting ∧ (x.st ≠ .free → y.st ≠ .free) ∧
  (x.st = .faulted → y.st = .faulted) ∧ (x.reqs = [] → y.reqs = []) ∧ (x.jobs = [] → y.jobs = []) ∧ (x.pins = [] → y.pins = [])

namespace Ctx.Rests

theorem refl (x : Ctx) : Ctx.Rests x x := fun h => ⟨h, id, id, id, id, id⟩

theorem trans {x y z : Ctx} (h : Ctx.Rests x y) (k : Ctx.Rests y z) : Ctx.Rests x z := fun hx => by
  obtain ⟨hy, h1, h2, h3, h4, h5⟩ := h hx
  obtain ⟨hz, k1, k2, k3, k4, k5⟩ := k hy
  exact ⟨hz, k1 ∘ h1, k2 ∘ h2, k3 ∘ h3, k4 ∘ h4, k5 ∘ h5⟩

/-- A context whose state and work stay. -/
theorem of_eq {x y : Ctx} (hst : y.st = x.st) (hreqs : x.reqs = [] → y.reqs = []) (hjobs : x.jobs = [] → y.jobs = [])
    (hpins : y.pins = x.pins) : Ctx.Rests x y := fun h =>
  ⟨by rwa [hst], by rw [hst]; exact id, by rw [hst]; exact id, hreqs, hjobs, by rw [hpins]; exact id⟩

end Ctx.Rests

/-- The interlock keeps its owner, its gap and what it restored. -/
def Ctl.Rests (x y : Ctl) : Prop := y.owner = x.owner ∧ y.gap = x.gap ∧ y.restore = x.restore

theorem Ctl.Rests.trans {x y z : Ctl} (h : Ctl.Rests x y) (k : Ctl.Rests y z) : Ctl.Rests x z :=
  ⟨k.1.trans h.1, k.2.1.trans h.2.1, k.2.2.trans h.2.2⟩

/-- Every context rests, and so does the interlock. -/
def Rests (s t : State) : Prop := Ctl.Rests s.ctl t.ctl ∧ ∀ i, Ctx.Rests (s.ctx i) (t.ctx i)

/-- The blocks that a change may touch while the contexts and the interlock rest. -/
abbrev quietBlocks : List Block := [.time, .fresh, .glb, .peg, .host, .kvp, .arr, .atn, .dpp, .tsu, .mem, .dma, .drn, .sec, .vid,
  .mbx, .lnk, .clk, .pwr, .settings, .settingsPrev, .tel, .board]

namespace Rests

theorem refl (s : State) : Rests s s := ⟨⟨rfl, rfl, rfl⟩, fun _ => Ctx.Rests.refl _⟩

theorem trans (h : Rests s t) (k : Rests t u) : Rests s u := ⟨h.1.trans k.1, fun i => (h.2 i).trans (k.2 i)⟩

/-- A change of no context, which leaves the interlock as it was. -/
theorem of_ctl {l : List Block} (h : Within l s t) (hl : Block.ctxs ∉ l) (hc : Ctl.Rests s.ctl t.ctl) : Rests s t := ⟨hc, fun i => by
  rw [State.ctx, State.ctx, h.same .ctxs hl]
  exact Ctx.Rests.refl _⟩

theorem within (h : Within quietBlocks s t) : Rests s t := of_ctl h (by decide) (by
  rw [h.same .ctl (by decide)]
  exact ⟨rfl, rfl, rfl⟩)

theorem updCtl {g : Ctl → Ctl} (h : Ctl.Rests s.ctl (g s.ctl)) : Rests s (s.updCtl g) := ⟨h, fun _ => Ctx.Rests.refl _⟩

theorem updCtx {g : Ctx → Ctx} (h : Ctx.Rests (s.ctx c) (g (s.ctx c))) : Rests s (s.updCtx c g) := ⟨⟨rfl, rfl, rfl⟩, fun i => by
  rw [State.updCtx_ctx]
  split
  · next hi => rw [hi]; exact h
  · exact Ctx.Rests.refl _⟩

theorem foldS {α : Type} {g : State → α → State} (h : ∀ s a, Rests s (g s a)) (l : List α) : Rests s (foldS l g s) := by
  induction l generalizing s with
  | nil => exact refl s
  | cons a l ih => exact (h s a).trans ih

/-! ### Links, clocks and cancels -/

theorem revokeDeps (e c k gen : Nat) : Rests s (s.revokeDeps e c k gen) := by
  unfold State.revokeDeps
  extract_lets mark v
  have hv : Rests s v := foldS (fun s j => updCtx (Ctx.Rests.of_eq rfl id id rfl)) _
  exact hv.trans (within (by simp))

theorem stageEnds (cause : Nat) : Rests s (s.stageEnds cause) := by
  unfold State.stageEnds
  extract_lets missing u r
  have hu : Rests s u := by
    refine updCtl ?_
    refine List.foldlRecOn missing _ (motive := fun c : Ctl => Ctl.Rests s.ctl { c with reported := upto c.chain, relayDown := none })
      ⟨rfl, rfl, rfl⟩ fun c hc i _ => ?_
    exact hc
  exact hu.trans (within (by simp))

theorem relayDrop (e : Nat) : Rests s (s.relayDrop e) := by
  unfold State.relayDrop
  extract_lets streaming u
  have hu : Rests s u := updCtl ⟨rfl, rfl, rfl⟩
  split
  · exact refl s
  · split
    · split
      · exact stageEnds 1
      · exact hu
    · split
      · exact hu.trans (within (by simp))
      · exact hu

theorem sessionDown (e : Nat) : Rests s (s.sessionDown e) := by
  unfold State.sessionDown
  extract_lets p a b d w
  split
  · exact refl s
  · have ha : Rests s a := relayDrop e
    have hb : Rests s b := ha.trans (foldS (fun s x => revokeDeps _ _ _ _) _)
    have hd : Rests s d := hb.trans (within (by simp [d]))
    exact hd.trans (within (by simp [w]))

theorem closeLinks : Rests s s.closeLinks := by
  unfold State.closeLinks
  extract_lets u
  have hu : Rests s u := foldS (fun s e => (within (by simp)).trans (sessionDown e)) _
  exact hu.trans (within (by simp [foldS_within]))

theorem advanceNominal (c : Nat) : Rests s (s.advanceNominal c) := by
  unfold State.advanceNominal
  refine updCtx ?_
  dsimp only
  split
  · exact Ctx.Rests.refl _
  · split
    all_goals exact Ctx.Rests.of_eq rfl id id rfl

theorem setQuads (qs : List Nat) : Rests s (s.setQuads qs) := by
  unfold State.setQuads
  extract_lets falls u steps v w
  have hu : Rests s u := foldS (fun s c => by
    split
    · exact advanceNominal c
    · exact refl s) _
  have hw : Rests s w := hu.trans (within (by simp [w, v]))
  split
  · exact hw.trans (within (by simp [foldS_within]))
  · exact hw

theorem cancelReq (c r tail : Nat) (late : Bool) : Rests s (s.cancelReq c r tail late) := by
  unfold State.cancelReq State.updReq
  exact updCtx (Ctx.Rests.of_eq rfl (fun h => by dsimp only; rw [h]; rfl) id rfl)

theorem cancelAll : Rests s s.cancelAll := by
  unfold State.cancelAll
  refine foldS (fun s c => ?_) _
  have hc : Rests s (s.cancelAllReqs c) := foldS (fun s r => cancelReq c _ _ _) _
  exact hc.trans (updCtx (Ctx.Rests.of_eq rfl id (fun h => by dsimp only; rw [h]; rfl) rfl))

/-! ### The module's states -/

theorem resumeModule : Rests s s.resumeModule := by
  unfold State.resumeModule
  extract_lets st a b bad d e
  have ha : Rests s a := within (by simp [a])
  have hb : Rests a b := updCtl (by
    split
    · exact ⟨rfl, rfl, rfl⟩
    · exact ⟨rfl, rfl, rfl⟩)
  have hd : Rests b d := within (by simp [d])
  have he : Rests d e := foldS (fun s i => within (by simp)) _
  refine (((ha.trans hb).trans hd).trans he).trans ?_
  split
  · exact within (by simp)
  · exact within (by simp)

theorem dozeExit : Rests s s.dozeExit := by
  unfold State.dozeExit
  extract_lets a b d e late f
  have hb : Rests s b := within (by simp [b, a])
  split
  · exact hb.trans (within (by simp))
  · have hd : Rests b d := within (by simp [d])
    have he : Rests b e := hd.trans (setQuads _)
    have hf : Rests e f := (within (by simp)).trans resumeModule
    have hsf : Rests s f := (hb.trans he).trans hf
    split
    · exact hsf.trans cancelAll
    · exact hsf

theorem checkDoze : Rests s s.checkDoze := by
  unfold State.checkDoze
  split
  · exact refl s
  · extract_lets a b d e f g
    have ha : Rests s a := (within (by simp)).trans closeLinks
    have hb : Rests a b := within (by simp [b])
    have hd : Rests b d := updCtl (by
      split
      · exact ⟨rfl, rfl, rfl⟩
      · exact ⟨rfl, rfl, rfl⟩)
    have he : Rests d e := within (by simp [e])
    have hf : Rests e f := within (by simp [f])
    have hg : Rests a g := (((hb.trans hd).trans he).trans hf).trans (within (by simp [g]))
    split
    · exact (ha.trans hg).trans dozeExit
    · exact ha.trans hg

theorem checkDrained : Rests s s.checkDrained := by
  unfold State.checkDrained
  split
  · exact refl s
  · extract_lets u
    have hu : Rests s u := foldS (fun s c => by
      dsimp only
      split
      · next h => exact updCtx fun _ => by simp_all
      · exact refl s) _
    split
    · exact hu
    · refine hu.trans (within ?_)
      split
      all_goals simp

theorem checkQuiesced : Rests s s.checkQuiesced := within (by simp)

theorem switchGen (c : Nat) : Rests s (s.switchGen c) := within (by simp)

/-- What the module does once a context's work has ended. -/
theorem settled (c : Nat) : Rests s ((((s.switchGen c).checkDrained).checkQuiesced).checkDoze) :=
  (((switchGen c).trans checkDrained).trans checkQuiesced).trans checkDoze

end Rests

/-- A context that faults is FAULTED. -/
theorem State.faultCtx_st (c status : Nat) : ((s.faultCtx c status).ctx c).st = .faulted := by
  unfold State.faultCtx
  extract_lets a b d
  have hd : (d.ctx c).st = .faulted := by
    unfold d
    rw [State.updCtx_ctx_same]
  obtain ⟨-, -, hf, -⟩ := (Rests.settled (s := d) c).2 c (by rw [hd]; decide)
  exact hf hd

end

end Sys2Proof.Machine

/-! Room in context memory (O60). -/

namespace Sys2Proof.Machine

/-! ### Room in context memory (08, R189; 12, R311) -/

section
variable {α : Type} {key : α → Nat}

theorem insertBy_sorted (x : α) : ∀ {l : List α}, l.Pairwise (fun a b => key a ≤ key b) → (insertBy key x l).Pairwise (fun a b => key a ≤ key b)
  | [], _ => List.pairwise_singleton _ _
  | y :: ys, h => by
    obtain ⟨hy, hys⟩ := List.pairwise_cons.1 h
    unfold insertBy
    split
    · next hlt =>
      refine List.pairwise_cons.2 ⟨fun z hz => ?_, h⟩
      rcases List.mem_cons.1 hz with rfl | hz
      · exact Nat.le_of_lt hlt
      · exact Nat.le_trans (Nat.le_of_lt hlt) (hy z hz)
    · next hlt =>
      refine List.pairwise_cons.2 ⟨fun z hz => ?_, insertBy_sorted x hys⟩
      rcases mem_insertBy.1 hz with rfl | hz
      · exact Nat.le_of_not_lt hlt
      · exact hy z hz

theorem sortBy_sorted : ∀ l : List α, (sortBy key l).Pairwise (fun a b => key a ≤ key b)
  | [] => List.Pairwise.nil
  | x :: l => insertBy_sorted x (sortBy_sorted l)

end

/-- A place that one of the ranges takes. -/
def Taken (rs : List (Nat × Nat)) (n : Nat) : Prop := ∃ r ∈ rs, r.1 ≤ n ∧ n < r.2

theorem Taken.cons {r : Nat × Nat} {rs : List (Nat × Nat)} {n : Nat} (h : Taken rs n) : Taken (r :: rs) n :=
  let ⟨x, hx, hn⟩ := h
  ⟨x, List.mem_cons_of_mem _ hx, hn⟩

theorem countP_le_add {p q r : Nat → Bool} (h : ∀ n, p n = true → q n = true ∨ r n = true) (l : List Nat) :
    l.countP p ≤ l.countP q + l.countP r := by
  induction l with
  | nil => simp
  | cons n l ih =>
    rw [List.countP_cons, List.countP_cons, List.countP_cons]
    by_cases hp : p n = true
    · rcases h n hp with hq | hr
      · rw [if_pos hp, if_pos hq]
        omega
      · rw [if_pos hp, if_pos hr]
        omega
    · rw [if_neg hp]
      omega

/-- A range of numbers counts no more than its length. -/
theorem countP_between (lo hi N : Nat) : (List.range N).countP (fun n => decide (lo ≤ n ∧ n < hi)) ≤ min N hi - lo := by
  induction N with
  | zero => simp
  | succ N ih =>
    rw [List.range_succ, List.countP_append, List.countP_singleton]
    split
    · next h =>
      have := of_decide_eq_true h
      omega
    · omega

/-- The sum that `coverLen` takes, from the place `last` on, counts every place that a range takes from there. -/
theorem countP_le_cover (N : Nat) (rs : List (Nat × Nat)) : ∀ (a last : Nat) (p : Nat → Bool), rs.Pairwise (fun r q => r.1 ≤ q.1) →
    (∀ n, p n = true → last ≤ n ∧ Taken rs n) → a + (List.range N).countP p ≤
      (rs.foldl (fun (a : Nat × Nat) r => (a.1 + (r.2 - max r.1 a.2), max a.2 r.2)) (a, last)).1 := by
  induction rs with
  | nil =>
    intro a last p _ hp
    have h0 : (List.range N).countP p = 0 := List.countP_eq_zero.2 fun n _ hn => by
      obtain ⟨-, r, hr, -⟩ := hp n hn
      cases hr
    rw [h0]
    exact Nat.le_refl a
  | cons r rs ih =>
    intro a last p hs hp
    obtain ⟨hr, hrs⟩ := List.pairwise_cons.1 hs
    obtain ⟨here, hhere⟩ : ∃ q : Nat → Bool, q = fun n => decide (max r.1 last ≤ n ∧ n < r.2) := ⟨_, rfl⟩
    have hrest : ∀ n, (p n && !here n) = true → max last r.2 ≤ n ∧ Taken rs n := fun n hn => by
      rw [Bool.and_eq_true, Bool.not_eq_true', hhere, decide_eq_false_iff_not] at hn
      obtain ⟨hn, hout⟩ := hn
      obtain ⟨hl, q, hq, h1, h2⟩ := hp n hn
      rcases List.mem_cons.1 hq with rfl | hq
      · omega
      · have := hr q hq
        exact ⟨by omega, q, hq, h1, h2⟩
    have hsplit : (List.range N).countP p ≤ (List.range N).countP here + (List.range N).countP fun n => p n && !here n :=
      countP_le_add (fun n hn => by rw [hn, Bool.true_and]; cases here n <;> simp) _
    have hcount : (List.range N).countP here ≤ r.2 - max r.1 last := by
      rw [hhere]
      exact Nat.le_trans (countP_between _ _ N) (by omega)
    exact Nat.le_trans (by omega) (ih (a + (r.2 - max r.1 last)) (max last r.2) _ hrs hrest)

theorem countP_le_coverLen {rs : List (Nat × Nat)} (N : Nat) {p : Nat → Bool} (hp : ∀ n, p n = true → Taken rs n) :
    (List.range N).countP p ≤ coverLen rs := by
  have h := countP_le_cover N (sortBy Prod.fst rs) 0 0 p (sortBy_sorted rs) fun n hn => by
    obtain ⟨r, hr, h⟩ := hp n hn
    exact ⟨Nat.zero_le n, r, mem_sortBy.2 hr, h⟩
  rwa [Nat.zero_add] at h

/-- The gaps before the ranges of a list, and the end of what they take: the step of `pickPlace`'s search. -/
def gapStep (a : List (Nat × Nat) × Nat) (r : Nat × Nat) : List (Nat × Nat) × Nat := (a.1 ++ [(a.2, r.1 - a.2)], max a.2 r.2)

theorem mem_gaps {g : Nat × Nat} (rs : List (Nat × Nat)) : ∀ a : List (Nat × Nat) × Nat, g ∈ a.1 → g ∈ (rs.foldl gapStep a).1 := by
  induction rs with
  | nil => exact fun a h => h
  | cons r rs ih => exact fun a h => ih _ (List.mem_append_left _ h)

/-- Where no gap is open, every place from `last` to the end is taken. -/
theorem taken_of_no_gap {size n : Nat} (hn : n < size) (rs : List (Nat × Nat)) : ∀ (gs : List (Nat × Nat)) (last : Nat), last ≤ n →
    (∀ g ∈ (rs.foldl gapStep (gs, last)).1, g.2 = 0) → size ≤ (rs.foldl gapStep (gs, last)).2 → Taken rs n := by
  induction rs with
  | nil => exact fun gs last hl _ hs => absurd (show size ≤ last from hs) (by omega)
  | cons r rs ih =>
    intro gs last hl hg hs
    have h0 : r.1 - last = 0 := hg (last, r.1 - last) (mem_gaps rs _ (List.mem_append_right _ (List.mem_singleton_self _)))
    by_cases hr : n < r.2
    · exact ⟨r, List.mem_cons_self, by omega, hr⟩
    · exact (ih _ (max last r.2) (by omega) hg hs).cons

section
variable {s : State}

/-- A search for one place answers one wherever some place is not taken. -/
theorem State.pickPlace_some {size n : Nat} {used : List (Nat × Nat)} (hn : n < size) (h : ¬ Taken used n) :
    ∃ p, s.pickPlace size 1 used = some p := by
  obtain ⟨q, hq⟩ : ∃ q, q = (sortBy Prod.fst used).foldl gapStep ([], 0) := ⟨_, rfl⟩
  obtain ⟨all, hall⟩ : ∃ l, l = (q.1 ++ [(q.2, size - q.2)]).filter fun g => decide (1 ≤ g.2) := ⟨_, rfl⟩
  have hopen : all ≠ [] := fun h0 => h <| by
    rw [hall, List.filter_eq_nil_iff] at h0
    have hzero : ∀ g ∈ q.1 ++ [(q.2, size - q.2)], g.2 = 0 := fun g hg => by
      have := h0 g hg
      rw [decide_eq_true_eq] at this
      omega
    have hend : size - q.2 = 0 := hzero (q.2, size - q.2) (List.mem_append_right _ (List.mem_singleton_self _))
    rw [hq] at hzero hend
    obtain ⟨r, hr, hrn⟩ := taken_of_no_gap hn _ [] 0 (Nat.zero_le n) (fun g hg => hzero g (List.mem_append_left _ hg)) (by omega)
    exact ⟨r, mem_sortBy.1 hr, hrn⟩
  obtain ⟨p, hp⟩ : ∃ p, s.choose (upto all.length) = some p := State.choose_some fun h0 => hopen <| by
    have := congrArg List.length h0
    simpa [upto] using this
  have hpick : s.pickPlace size 1 used =
      if (all.getD p.1 (0, 1)).2 = 1 then some ((all.getD p.1 (0, 1)).1, p.2)
      else some ((all.getD p.1 (0, 1)).1 + (Config.pick p.2.draw.1 ((all.getD p.1 (0, 1)).2 - 1)).val, p.2.draw.2) := by
    have hfold : (sortBy Prod.fst used).foldl (fun (a : List (Nat × Nat) × Nat) r => (a.1 ++ [(a.2, r.1 - a.2)], max a.2 r.2)) ([], 0) = q :=
      hq.symm
    unfold State.pickPlace
    rw [hfold]
    dsimp only
    rw [← hall, hp]
  rw [hpick]
  split
  · exact ⟨_, rfl⟩
  · exact ⟨_, rfl⟩

theorem State.takenRuns_aligned {r : Nat × Nat} (h : r ∈ s.takenRuns) : 128 ∣ r.1 := by
  unfold State.takenRuns at h
  rcases List.mem_append.1 h with h | h
  · obtain ⟨c, -, h⟩ := List.mem_flatMap.1 h
    obtain ⟨q, -, rfl⟩ := List.mem_map.1 h
    exact ⟨q.1 / 128, Nat.mul_comm _ _⟩
  · obtain ⟨e, -, h⟩ := List.mem_filterMap.1 h
    split at h
    · obtain rfl := Option.some.inj h
      exact ⟨e.2.frame.toNat, rfl⟩
    · cases h

/-- The granules of a list of frames are no more than 128 for each. -/
theorem countP_frames (N : Nat) (fs : List Nat) : (List.range N).countP (fun g => decide (g / 128 ∈ fs)) ≤ 128 * fs.length := by
  induction fs with
  | nil => simp
  | cons f fs ih =>
    have hsplit := countP_le_add (p := fun g => decide (g / 128 ∈ f :: fs)) (q := fun g => decide (128 * f ≤ g ∧ g < 128 * f + 128))
      (r := fun g => decide (g / 128 ∈ fs)) (fun g hg => by
        rcases List.mem_cons.1 (of_decide_eq_true hg) with hf | hf
        · exact .inl (decide_eq_true (by omega))
        · exact .inr (decide_eq_true hf)) (List.range N)
    have hcount := countP_between (128 * f) (128 * f + 128) N
    rw [List.length_cons]
    omega

/-- Where every frame is held, the uses of context memory and the retired frames leave none free. -/
theorem State.framesFree_of_all_held
    (h : ∀ n, n < s.frameSpan → Taken (s.heldRuns.map fun r => (r.1 / 128, r.2 / 128)) n) : s.framesFree = 0 := by
  obtain ⟨p, hp⟩ : ∃ p : Nat → Bool, p = fun g => decide (g < 128 * s.frameSpan ∧ g / 128 ∉ s.mem.retired) := ⟨_, rfl⟩
  have hall : ∀ g, p g = true → Taken s.takenRuns g := fun g hg => by
    rw [hp, decide_eq_true_eq] at hg
    obtain ⟨hg, hret⟩ := hg
    obtain ⟨q, hq, h1, h2⟩ := h (g / 128) (by omega)
    obtain ⟨r, hr, rfl⟩ := List.mem_map.1 hq
    rcases List.mem_append.1 hr with hr | hr
    · have := State.takenRuns_aligned hr
      exact ⟨r, hr, by omega, by omega⟩
    · obtain ⟨f, hf, rfl⟩ := List.mem_map.1 hr
      have hgf : g / 128 = f := by
        dsimp only at h1 h2
        omega
      exact absurd (hgf ▸ hf) hret
  have hcover := countP_le_coverLen (128 * s.frameSpan) hall
  have hret := countP_frames (128 * s.frameSpan) s.mem.retired
  have hsplit := countP_le_add (p := fun g => decide (g < 128 * s.frameSpan)) (q := p) (r := fun g => decide (g / 128 ∈ s.mem.retired))
    (fun g hg => by
      by_cases hm : g / 128 ∈ s.mem.retired
      · exact .inr (decide_eq_true hm)
      · rw [hp]
        exact .inl (decide_eq_true ⟨of_decide_eq_true hg, hm⟩)) (List.range (128 * s.frameSpan))
  have hlen : (List.range (128 * s.frameSpan)).countP (fun g => decide (g < 128 * s.frameSpan)) = 128 * s.frameSpan := by
    rw [List.countP_eq_length.2 fun g hg => decide_eq_true (List.mem_range.1 hg), List.length_range]
  have hspan : s.frameSpan = 97280 + min 256 s.mem.retired.length := rfl
  unfold State.framesFree
  omega

theorem State.pickPlace_frame (h : s.framesFree ≠ 0) :
    ∃ p, s.pickPlace s.frameSpan 1 (s.heldRuns.map fun r => (r.1 / 128, r.2 / 128)) = some p := by
  refine Classical.byContradiction fun hnone => ?_
  exact h (State.framesFree_of_all_held fun n hn => Classical.byContradiction fun ht => hnone (State.pickPlace_some hn ht))

end

end Sys2Proof.Machine

/-! Channel halts, translation faults and Rinse (O60). -/

namespace Sys2Proof.Machine

section
variable {s t : State} {c v i : Nat}

/-! ### A page that a fault maps (12, Faults during a step) -/

/-- With a frame free, a page that was not mapped is mapped to it; nothing else of the memory changes. -/
theorem State.mapPage_mem (write weight : Bool) (hv : (s.xlatAt c v).valid = false) (hf : s.framesFree ≠ 0) :
    ∃ e : Xlat, e.valid = true ∧ e.write = write ∧
      (s.mapPage c v write weight).mem = { s.mem with xlat := s.mem.xlat.set ((s.ctx c).mmuBase + v) e } := by
  obtain ⟨⟨f, u⟩, hp⟩ := State.pickPlace_frame hf
  have hu : Within [.fresh] s u := (State.pickPlace_within hp (by decide)).2 (Within.refl _ s)
  obtain ⟨w, hw⟩ : ∃ w, w = u.unitEnter c (u.curSlot c) := ⟨_, rfl⟩
  have hsw : Within [.fresh, .tel] s w := by
    rw [hw]
    simp [hu.mono (m := [.fresh, .tel]) (by decide)]
  have hmem : w.mem = s.mem := hsw.same .mem (by decide)
  have hctx : w.ctx c = s.ctx c := by rw [State.ctx, State.ctx, hsw.same .ctxs (by decide)]
  have hmap : s.mapPage c v write weight = w.setXlat c v
      { valid := true, read := true, write, weight, keygen := u.curSlot c, frame := BitVec.ofNat 17 f } := by
    unfold State.mapPage
    dsimp only
    rw [if_neg (by rw [hv]; decide), hp, hw]
  refine ⟨{ valid := true, read := true, write, weight, keygen := u.curSlot c, frame := BitVec.ofNat 17 f }, rfl, rfl, ?_⟩
  rw [hmap, State.setXlat, State.updMem_mem, hmem, hctx]

/-- A page that a fault maps is mapped, and writable as asked; the bytes and every other entry stay. -/
theorem State.mapPage_maps (write weight : Bool) (hv : (s.xlatAt c v).valid = false) (hf : s.framesFree ≠ 0) :
    ((s.mapPage c v write weight).xlatAt c v).valid = true ∧ ((s.mapPage c v write weight).xlatAt c v).write = write ∧
    SameBytes s (s.mapPage c v write weight) ∧
    ∀ i, i ≠ (s.ctx c).mmuBase + v → (s.mapPage c v write weight).mem.xlat.get i = s.mem.xlat.get i := by
  obtain ⟨e, he, hw, hm⟩ := State.mapPage_mem write weight hv hf
  have hc : (s.mapPage c v write weight).ctx c = s.ctx c := by
    have hw : Within [.tel, .fresh, .mem] s (s.mapPage c v write weight) := by simp
    rw [State.ctx, State.ctx, hw.same .ctxs (by decide)]
  have hx : (s.mapPage c v write weight).xlatAt c v = e := by
    rw [State.xlatAt, hc, hm]
    dsimp only
    rw [Tbl.get_set_same]
  refine ⟨by rw [hx, he], by rw [hx, hw], fun k => by rw [hm]; rfl, fun i hi => ?_⟩
  rw [hm]
  dsimp only
  rw [Tbl.get_set_ne _ _ hi]

theorem State.vaCause_unmapped {write : Bool} (h : s.vaCause c v write = some 1) : (s.xlatAt c v).valid = false := by
  unfold State.vaCause at h
  dsimp only at h
  split at h
  · cases h
  · split at h
    · next hv => simpa using hv
    · split at h
      all_goals split at h
      all_goals cases h

/-! ### Translation faults that firmware resolves -/

/-- What firmware makes of a faulted access: it goes on where the page allows it or a page can be mapped for it, else the
context faults. -/
def State.resolve (s : State) (c v : Nat) (write : Bool) (go : State → State) : State :=
  if s.vaCause c v write = none then go s
  else if s.vaCause c v write = some 1 ∧ s.framesFree ≠ 0 then go (s.mapPage c v true false)
  else s.faultCtx c stMemFault

theorem State.resolve_maps {write : Bool} {go : State → State} (h : s.vaCause c v write = some 1) (hf : s.framesFree ≠ 0) :
    s.resolve c v write go = go (s.mapPage c v true false) := by
  rw [State.resolve, if_neg (by simp [h]), if_pos ⟨h, hf⟩]

theorem State.resolve_faults {write : Bool} {go : State → State}
    (h : s.vaCause c v write = some 0 ∨ s.vaCause c v write = some 2 ∨ s.vaCause c v write = some 3 ∨
      s.vaCause c v write = some 1 ∧ s.framesFree = 0) : ((s.resolve c v write go).ctx c).st = .faulted := by
  have hr : s.resolve c v write go = s.faultCtx c stMemFault := by
    unfold State.resolve
    rcases h with h | h | h | ⟨h, hf⟩ <;> simp [*]
  rw [hr]
  exact State.faultCtx_st c stMemFault

theorem exec_mmuFaultResolve_core (x : CtxId) (n : CoreId) (hrun : s.controlRuns = true) (hcur : s.arr.cur = some x.val)
    (hst : (s.core n.val).stalled = true) (hv : (s.mem.faults.get x.val).valid = true) :
    exec (.mmuFaultResolve x none (some n)) s = .next (s.resolve x.val ((s.mem.faults.get x.val).va / pageBytes)
      (s.mem.faults.get x.val).write fun s => s.updCore n.val fun k => { k with stalled := false }) := by
  unfold State.resolve
  simp [exec, execMmuFaultResolve, hrun, hcur, hst, hv]
  rcases s.vaCause x.val ((s.mem.faults.get x.val).va / pageBytes) (s.mem.faults.get x.val).write with _ | _ | _ | r
  · simp
  · simp
  · by_cases hf : s.framesFree = 0
    all_goals simp [hf]
  · simp

theorem exec_mmuFaultResolve_chan (x : CtxId) (ch : Fin 272) (hrun : s.controlRuns = true)
    (hst : (s.chan ch.val).st = .halted) (hcls : (s.chan ch.val).cls = .mmuFault) (hx : (s.chan ch.val).ctx = x.val)
    (hsp : (s.chan ch.val).errSpace = 0x41) :
    exec (.mmuFaultResolve x (some ch) none) s = .next (s.resolve x.val ((s.chan ch.val).errAddr / pageBytes)
      (s.chan ch.val).errWrite fun s => s.updChan ch.val fun k => { k with st := .run, lastAt := s.time }) := by
  unfold State.resolve
  simp [exec, execMmuFaultResolve, hrun, hst, hcls, hx, hsp]
  rcases s.vaCause x.val ((s.chan ch.val).errAddr / pageBytes) (s.chan ch.val).errWrite with _ | _ | _ | r
  · simp
  · simp
  · by_cases hf : s.framesFree = 0
    all_goals simp [hf]
  · simp

/-! ### Channel halts and the commands of the interlock's owner -/

theorem State.putChan_keepsBut (k : Chan) : KeepsBut [.dma] s (s.putChan i k) := Within.keeps (by simp)

theorem State.updChan_keepsBut (f : Chan → Chan) : KeepsBut [.dma] s (s.updChan i f) := Within.keeps (by simp)

theorem State.putChan_same (k : Chan) : (s.putChan i k).chan i = k := by rw [State.putChan_chan, if_pos rfl]

theorem State.putChan_others (k : Chan) (j : Nat) (h : j ≠ i) : (s.putChan i k).chan j = s.chan j := by
  rw [State.putChan_chan, if_neg h]

theorem Chan.failOldest_cons {k : Chan} {m : OutMove} {r : List OutMove} (h : k.out = m :: r) (cls : ErrClass) (w : Bool)
    (sp addr off : Nat) :
    k.failOldest cls w sp addr off = { k with index := m.index, loops := m.loops, out := [] }.halt cls w sp addr off := by
  unfold Chan.failOldest
  rw [h]

theorem Chan.next_runs (k : Chan) (now : Nat) : (k.next now).st ≠ .halted ∧ (k.next now).offset = 0 := by
  unfold Chan.next Chan.settle
  split
  · exact ⟨by simp, rfl⟩
  · exact ⟨by simp, rfl⟩

/-- A command of a core to a channel: of the interlock's owner, where the channel is halted. -/
theorem State.chanCommand_of (k : CoreAB) (f : State → State) :
    s.chanCommand (if k = .a then .controlA else .controlB) i f =
      if s.ctl.owner ≠ some k then s.notOwner
      else if !s.dmaLive then s
      else if (s.chan i).st ≠ .halted then s.updChan i fun k => { k with cmdIgnored := true }
      else f s := by
  cases k
  · rfl
  · rfl

theorem State.chanCommand_halted {k : CoreAB} (f : State → State) (ho : s.ctl.owner = some k) (hl : s.dmaLive = true)
    (h : (s.chan i).st = .halted) : s.chanCommand (if k = .a then .controlA else .controlB) i f = f s := by
  rw [State.chanCommand_of, if_neg (by simp [ho]), if_neg (by simp [hl]), if_neg (by simp [h])]

theorem State.chanCommand_ignored {k : CoreAB} (f : State → State) (ho : s.ctl.owner = some k) (hl : s.dmaLive = true)
    (h : (s.chan i).st ≠ .halted) : s.chanCommand (if k = .a then .controlA else .controlB) i f =
      s.updChan i fun k => { k with cmdIgnored := true } := by
  rw [State.chanCommand_of, if_neg (by simp [ho]), if_neg (by simp [hl]), if_pos h]

theorem State.chanCommand_refused {k : CoreAB} (f : State → State) (ho : s.ctl.owner ≠ some k) (hp : s.board.powered = true) :
    s.chanCommand (if k = .a then .controlA else .controlB) i f =
      { s with ctl := { s.ctl with refused := s.ctl.refused + 1 } } := by
  rw [State.chanCommand_of, if_pos ho, State.notOwner, if_pos hp]
  rfl

/-! ### Rinse (12, R354-R357) -/

/-- Rinse has been at the words of a kind. -/
def Mem.seen (m : Mem) (kind now : Nat) : Mem :=
  { m with washAt := m.washAt.set (if kind = 0 then 0 else 1) now, rinseBehind := false }

/-- The end of a Rinse visit: in HBM it moves on. -/
def State.visited (s : State) (kind : Nat) : State :=
  s.updMem fun m =>
    if kind ≠ 0 then m.seen kind s.time
    else if m.rinsePos + 1 < hbmBytes / 256 then { m.seen kind s.time with rinsePos := m.rinsePos + 1 }
    else { m.seen kind s.time with rinsePos := 0, rinsePasses := (m.rinsePasses + 1) % 65536 }

/-- Rinse has a slot for the words. -/
def State.MayRinse (s : State) (kind : Fin 4) (addr : Nat) : Prop :=
  s.mem.rinseOn = true ∧ s.glb.state ≠ .doze ∧ kindHas kind.val (addr / 256 * 256) = true ∧
    s.washOpen kind.val (addr / 256 * 256) = true

variable {kind : Fin 4} {addr : Nat}

theorem exec_rinseUnit_off (hits : List EccHit) (h : ¬ s.MayRinse kind addr) : exec (.rinseUnit kind addr hits) s = .next s := by
  show execRinseUnit kind addr hits s = _
  unfold execRinseUnit
  dsimp only
  rw [if_pos]
  unfold State.MayRinse at h
  refine Classical.byContradiction fun hc => ?_
  simp only [Bool.or_eq_true, Bool.not_eq_true', decide_eq_true_eq, not_or, Bool.not_eq_false] at hc
  obtain ⟨⟨⟨h1, h2⟩, h3⟩, h4⟩ := hc
  exact h ⟨h1, h2, h3, h4⟩

theorem exec_rinseUnit (hits : List EccHit) (h : s.MayRinse kind addr) : exec (.rinseUnit kind addr hits) s = .next
    ((foldS (upto (min 32 hits.length)) (fun s j => s.rinseWord kind.val (addr / 256 * 256 + 8 * j) (hits.getD j .clean)) s).visited
      kind.val) := by
  obtain ⟨hon, hst, hk, hw⟩ := h
  show execRinseUnit kind addr hits s = _
  unfold execRinseUnit
  dsimp only
  rw [if_neg (by simp [hon, hst, hk, hw])]
  rfl

theorem State.visited_sram (hk : kind.val ≠ 0) : (s.visited kind.val).mem = s.mem.seen kind.val s.time := by
  rw [State.visited, State.updMem_mem, if_pos hk]

theorem State.visited_on (hk : kind.val = 0) (hp : s.mem.rinsePos + 1 < hbmBytes / 256) :
    (s.visited kind.val).mem = { s.mem.seen kind.val s.time with rinsePos := s.mem.rinsePos + 1 } := by
  rw [State.visited, State.updMem_mem, if_neg (by simp [hk]), if_pos hp]

theorem State.visited_round (hk : kind.val = 0) (hp : hbmBytes / 256 ≤ s.mem.rinsePos + 1) : (s.visited kind.val).mem =
    { s.mem.seen kind.val s.time with rinsePos := 0, rinsePasses := (s.mem.rinsePasses + 1) % 65536 } := by
  rw [State.visited, State.updMem_mem, if_neg (by simp [hk]), if_neg (Nat.not_lt.2 hp)]

theorem State.visited_bytes (s : State) (kind : Fin 4) : SameBytes s (s.visited kind.val) ∧
    (s.visited kind.val).mem.poison = s.mem.poison ∧ (s.visited kind.val).mem.ueAddr = s.mem.ueAddr := by
  by_cases hk : kind.val = 0
  · by_cases hp : s.mem.rinsePos + 1 < hbmBytes / 256
    · unfold SameBytes
      rw [State.visited_on hk hp]
      exact ⟨fun _ => rfl, rfl, rfl⟩
    · unfold SameBytes
      rw [State.visited_round hk (Nat.not_lt.1 hp)]
      exact ⟨fun _ => rfl, rfl, rfl⟩
  · unfold SameBytes
    rw [State.visited_sram hk]
    exact ⟨fun _ => rfl, rfl, rfl⟩

theorem State.visited_keepsBut (kind : Nat) : KeepsBut [.mem] s (s.visited kind) := State.updMem_keepsBut s _

theorem exec_rinseUnit_clean (hits : List EccHit) (h : s.MayRinse kind addr) (hc : ∀ x ∈ hits, x = .clean) :
    exec (.rinseUnit kind addr hits) s = .next (s.visited kind.val) := by
  have hclean : ∀ j, hits.getD j .clean = .clean := fun j => by
    rw [List.getD_eq_getElem?_getD]
    rcases hj : hits[j]? with _ | x
    · rfl
    · exact hc x (List.mem_of_getElem? hj)
  rw [exec_rinseUnit hits h, foldS_unchanged _ _ fun j _ => by rw [hclean, State.rinseWord]]

theorem exec_rinseUnit_one (x : EccHit) (h : s.MayRinse kind addr) :
    exec (.rinseUnit kind addr [x]) s = .next ((s.rinseWord kind.val (addr / 256 * 256) x).visited kind.val) := by
  rw [exec_rinseUnit [x] h, show upto (min 32 [x].length) = [0] from rfl]
  simp [foldS]

/-- Outside HBM the device's address is its own key. -/
theorem State.deviceKey_sram {n : Nat} (h : hbmBytes ≤ n) : s.deviceKey n = n := if_pos h

theorem kindHas_sram {k a : Nat} (hk : k ≠ 0) (h : kindHas k a = true) : hbmBytes ≤ a := by
  have hb : hbmBytes = 0x003000000000 := rfl
  rcases k with _ | _ | _ | k
  · exact absurd rfl hk
  all_goals
    simp only [kindHas, Bool.and_eq_true, decide_eq_true_eq] at h
    omega

/-- An uncorrectable word outside HBM is counted, latched and poisoned. -/
theorem State.rinseWord_ue {a : Nat} (hk : kind.val ≠ 0) (h : kindHas kind.val a = true) :
    (s.rinseWord kind.val a .uncorrectable).mem = ({ s.mem with ueAddr := some (kind.val, a) } : Mem).setPoison a true ∧
    KeepsBut [.mem, .tel] s (s.rinseWord kind.val a .uncorrectable) := by
  obtain ⟨u, hu⟩ : ∃ u, u = s.eccCount kind.val a .uncorrectable := ⟨_, rfl⟩
  have hm : u.mem = { s.mem with ueAddr := some (kind.val, a) } := by
    obtain ⟨v, hv⟩ : ∃ v, v = (s.bump (0x700110 + 0x20 * kind.val)).updMem fun m => { m with ueAddr := some (kind.val, a) } := ⟨_, rfl⟩
    have hvu : Within [.tel] v u := by
      rw [hu, State.eccCount, ← hv]
      simp
    have hb : Within [.tel] s (s.bump (0x700110 + 0x20 * kind.val)) := by simp
    rw [hvu.same .mem (by decide), hv, State.updMem_mem, hb.same .mem (by decide)]
  have hk' : KeepsBut [.mem, .tel] s u := by
    rw [hu]
    exact Within.keeps (by simp [State.eccCount])
  have hr : s.rinseWord kind.val a .uncorrectable = u.updMem fun m => m.setPoison a true := by
    rw [State.rinseWord]
    simp [hk, ← hu, ueWords, State.deviceKey_sram (kindHas_sram hk h)]
  rw [hr]
  exact ⟨by rw [State.updMem_mem, hm], hk'.trans ((State.updMem_keepsBut u _).mono (m := [.mem, .tel]) (by decide))⟩

theorem State.rinseWord_single (kind a : Nat) (two : Bool) :
    s.rinseWord kind a (if two then .double else .single) = s.bump ((if two then 0x700108 else 0x700100) + 0x20 * kind) := by
  cases two
  · rfl
  · rfl

end

end Sys2Proof.Machine

namespace Sys2Proof
open Machine

/-- Settles O60: channel halts by `failOldest` and `putChan`, channel commands by `chanCommand_of`, translation faults by
`State.resolve` and the free frame that `pickPlace_frame` finds, and Rinse by the words of its visit. -/
theorem faultsAndRinse : Obligations.FaultsAndRinse := by
  unfold Obligations.FaultsAndRinse
  refine ⟨⟨fun ch err w sp addr off m r s hout => ?_, fun ch tag w sp addr off s ⟨o, ho, hlate⟩ => ?_, fun tag e s h => ?_,
    fun tag s h => ?_, fun tag s => ?_, fun ch s hlive hst hlate => ?_, fun k ch s ho hl hst => ⟨?_, ?_, ?_⟩,
    fun k ch s ho hl hst => ?_, fun k ch s ho hp => ?_, fun x n s hrun hcur hst hv => ⟨fun hc hf => ?_, fun hc => ?_, fun hc => ?_⟩,
    fun x ch s hrun ⟨hst, hcls, hx, hsp⟩ => ⟨fun hc hf => ?_, fun hc => ?_, fun hc => ?_⟩⟩,
    fun kind addr hits s h => exec_rinseUnit_off hits h, fun kind addr hits s h hc => ?_, fun kind addr two s h => ?_,
    fun kind addr s h hk => ?_⟩
  case refine_1 =>
    refine ⟨_, rfl, ?_, fun i hi => State.putChan_others _ i hi, State.putChan_keepsBut _⟩
    dsimp only
    rw [State.putChan_same, Chan.failOldest_cons hout]
    exact ⟨rfl, rfl, rfl, rfl, rfl, rfl, rfl, rfl⟩
  case refine_2 =>
    obtain ⟨m, r, hout⟩ : ∃ m r, (s.chan ch.val).out = m :: r := List.exists_cons_of_ne_nil (List.ne_nil_of_mem ho)
    have hall : (s.chan ch.val).out.all (fun o => decide (s.time < o.since + 2 * usNs)) ≠ true := fun hall => by
      have := List.all_eq_true.1 hall o ho
      rw [decide_eq_true_eq] at this
      omega
    obtain ⟨u, hu⟩ : ∃ u, u = s.putChan ch.val ((s.chan ch.val).failOldest .bus w sp addr off) := ⟨_, rfl⟩
    obtain ⟨t, ht⟩ : ∃ t, t = u.updMem fun m => { m with quarantine :=
      (m.quarantine.filter fun q => q.1 != tag % 65536) ++ [(tag % 65536, u.time + 64 * usNs)] } := ⟨_, rfl⟩
    have hk : KeepsBut [.dma] s u := hu ▸ State.putChan_keepsBut _
    have hchan : ∀ i, t.chan i = u.chan i := fun i => by rw [ht]; rfl
    have htime : u.time = s.time := hk.2 .time (by decide)
    refine ⟨t, ?_, ?_, ?_, ?_, fun k => ?_, fun i hi => ?_, ?_⟩
    · show Host.Outcome.next _ = _
      rw [if_neg hall, ht, hu]
    · rw [hchan, hu, State.putChan_same, Chan.failOldest_cons hout]
      rfl
    · rw [hchan, hu, State.putChan_same, Chan.failOldest_cons hout]
      rfl
    · rw [ht, State.updMem_mem, htime]
      exact List.mem_append_right _ (List.mem_singleton_self _)
    · rw [ht, State.updMem_mem]
      show u.mem.byteAt k = _
      rw [hk.2 .mem (by decide)]
    · rw [hchan, hu, State.putChan_others _ i hi]
    · rw [ht]
      exact (hk.mono (m := [.dma, .mem]) (by decide)).trans ((State.updMem_keepsBut u _).mono (m := [.dma, .mem]) (by decide))
  case refine_3 =>
    show Host.Outcome.next _ = _
    rw [if_pos (List.any_eq_true.2 ⟨_, h, by simp⟩)]
  case refine_4 =>
    show Host.Outcome.next _ = _
    rw [if_neg (by simpa using fun e he => h (tag, e) he rfl)]
  case refine_5 =>
    refine ⟨_, rfl, fun q => ?_, fun _ => rfl, State.updMem_keepsBut s _⟩
    rw [State.updMem_mem]
    simp [Decidable.imp_iff_not_or]
  case refine_6 =>
    have he : exec (.chTimeout ch) s = .next (s.chanTimeout ch.val) := by
      show Host.Outcome.next _ = _
      rw [if_pos (by rcases hst with hst | ⟨hst, hk⟩ <;> simp [*])]
    refine ⟨_, he, ?_, ?_, fun i hi => ?_, Within.keeps (by simp)⟩
    · rw [State.chanTimeout, State.putChan_same]
      rfl
    · rw [State.chanTimeout, State.putChan_same]
      rfl
    · rw [State.chanTimeout, State.putChan_others _ i hi]
      rfl
  case refine_7 =>
    refine ⟨_, congrArg Host.Outcome.next (State.chanCommand_halted _ ho hl hst), ?_, ?_, ?_, fun i hi => ?_, State.updChan_keepsBut _⟩
    · rw [State.updChan_chan_same]
    · rw [State.updChan_chan_same]
    · rw [State.updChan_chan_same]
    · exact State.updChan_chan_ne _ _ _ _ hi
  case refine_8 =>
    obtain ⟨hruns, hoff⟩ := (s.chan ch.val).next_runs s.time
    refine ⟨_, congrArg Host.Outcome.next (State.chanCommand_halted _ ho hl hst), ?_, ?_, ?_, fun i hi => ?_, State.putChan_keepsBut _⟩
    · rwa [State.chanNext, State.putChan_same]
    · rwa [State.chanNext, State.putChan_same]
    · rw [State.chanNext, State.putChan_same]
      exact ((s.chan ch.val).next_fields s.time).1
    · rw [State.chanNext, State.putChan_others _ i hi]
  case refine_9 =>
    obtain ⟨u, hu⟩ : ∃ u, u = if (s.chan ch.val).owned then
      s.faultCtx (s.chan ch.val).ctx (if (s.chan ch.val).cls = .chTimeout then stCtxFault else stMemFault) else s := ⟨_, rfl⟩
    obtain ⟨v, hv⟩ : ∃ v, v = u.updChan ch.val fun j =>
      { j with st := .done, aborted := true, out := [], moving := false, loops := [] } := ⟨_, rfl⟩
    have hchan : ∀ i, (v.updDma fun d => { d with eoc := d.eoc.set ch.val true }).chan i = v.chan i := fun _ => rfl
    refine ⟨v.updDma fun d => { d with eoc := d.eoc.set ch.val true }, ?_, ?_, ?_, ?_, fun hown => ⟨fun i hi => ?_, ?_⟩, fun hown => ?_⟩
    · rw [hv, hu]
      exact congrArg Host.Outcome.next (State.chanCommand_halted _ ho hl hst)
    · rw [hchan, hv, State.updChan_chan_same]
    · rw [hchan, hv, State.updChan_chan_same]
    · rw [State.updDma_dma]
      dsimp only
      rw [Tbl.get_set_same]
    · rw [hchan, hv, State.updChan_chan_ne _ _ _ _ hi, hu, hown]
      rfl
    · rw [hown, if_neg (by decide)] at hu
      rw [hv, hu]
      exact Within.keeps (by simp)
    · rw [hown, if_pos rfl] at hu
      have hctx : ∀ c, (v.updDma fun d => { d with eoc := d.eoc.set ch.val true }).ctx c = u.ctx c := fun c => by rw [hv]; rfl
      rw [hctx, hu]
      exact State.faultCtx_st _ _
  case refine_10 =>
    exact ⟨congrArg Host.Outcome.next (State.chanCommand_ignored _ ho hl hst),
      congrArg Host.Outcome.next (State.chanCommand_ignored _ ho hl hst),
      congrArg Host.Outcome.next (State.chanCommand_ignored _ ho hl hst)⟩
  case refine_11 =>
    exact ⟨congrArg Host.Outcome.next (State.chanCommand_refused _ ho hp),
      congrArg Host.Outcome.next (State.chanCommand_refused _ ho hp),
      congrArg Host.Outcome.next (State.chanCommand_refused _ ho hp)⟩
  case refine_12 =>
    obtain ⟨hvalid, -, hbytes, -⟩ := State.mapPage_maps true false (State.vaCause_unmapped hc) hf
    refine ⟨_, (exec_mmuFaultResolve_core x n hrun hcur hst hv).trans (congrArg Host.Outcome.next (State.resolve_maps hc hf)),
      ?_, hvalid, hbytes⟩
    rw [State.updCore_core_same]
  case refine_13 =>
    exact (exec_mmuFaultResolve_core x n hrun hcur hst hv).trans (congrArg Host.Outcome.next (if_pos hc))
  case refine_14 =>
    refine ⟨_, exec_mmuFaultResolve_core x n hrun hcur hst hv, State.resolve_faults ?_⟩
    rcases hc with hc | hc | hc
    · exact .inl hc
    · exact .inr (.inl hc)
    · exact .inr (.inr (.inl hc))
  case refine_15 =>
    obtain ⟨hvalid, hwrite, hbytes, hothers⟩ := State.mapPage_maps true false (State.vaCause_unmapped hc) hf
    refine ⟨_, (exec_mmuFaultResolve_chan x ch hrun hst hcls hx hsp).trans (congrArg Host.Outcome.next (State.resolve_maps hc hf)),
      ?_, hvalid, hwrite, hbytes, hothers⟩
    rw [State.updChan_chan_same]
  case refine_16 =>
    refine ⟨_, (exec_mmuFaultResolve_chan x ch hrun hst hcls hx hsp).trans (congrArg Host.Outcome.next (if_pos hc)),
      ?_, State.updChan_keepsBut _⟩
    rw [State.updChan_chan_same]
  case refine_17 => exact ⟨_, exec_mmuFaultResolve_chan x ch hrun hst hcls hx hsp, State.resolve_faults hc⟩
  case refine_18 =>
    obtain ⟨hbytes, hpoison, -⟩ := s.visited_bytes kind
    refine ⟨_, exec_rinseUnit_clean hits h hc, hbytes, hpoison, fun hk => ?_, fun hk => ⟨fun hp => ?_, fun hp => ?_⟩,
      State.visited_keepsBut _⟩
    · rw [State.visited_sram hk]
      exact ⟨rfl, rfl⟩
    · rw [State.visited_on hk hp]
      exact ⟨rfl, rfl⟩
    · rw [State.visited_round hk hp]
      exact ⟨rfl, rfl⟩
  case refine_19 =>
    obtain ⟨u, hu⟩ : ∃ u, u = s.bump ((if two then 0x700108 else 0x700100) + 0x20 * kind.val) := ⟨_, rfl⟩
    obtain ⟨hbytes, hpoison, -⟩ := u.visited_bytes kind
    have hk : Within [.tel] s u := by simp [hu]
    have hmem : u.mem = s.mem := hk.same .mem (by decide)
    refine ⟨u.visited kind.val, ?_, ?_, fun k => ?_, ?_, ?_⟩
    · rw [exec_rinseUnit_one _ h, State.rinseWord_single, hu]
    · rw [← hu]
      exact (State.visited_keepsBut kind.val).2 .tel (by decide)
    · rw [hbytes k, hmem]
    · rw [hpoison, hmem]
    · exact ((hk.mono (m := [.mem, .tel]) (by decide)).keeps).trans ((State.visited_keepsBut _).mono (m := [.mem, .tel]) (by decide))
  case refine_20 =>
    obtain ⟨-, -, hkind, -⟩ := id h
    obtain ⟨u, hu⟩ : ∃ u, u = s.rinseWord kind.val (addr / 256 * 256) .uncorrectable := ⟨_, rfl⟩
    obtain ⟨hmem, hkeeps⟩ := State.rinseWord_ue (s := s) hk hkind
    rw [← hu] at hmem hkeeps
    obtain ⟨hbytes, hpoison, hue⟩ := u.visited_bytes kind
    refine ⟨u.visited kind.val, ?_, ?_, ?_, fun k => ?_, ?_⟩
    · rw [exec_rinseUnit_one _ h, hu]
    · rw [hue, hmem]
      rfl
    · rw [State.deviceKey_sram (kindHas_sram hk hkind), Mem.poisoned, hpoison, hmem, Mem.setPoison]
      dsimp only
      rw [Tbl.get_set_same]
    · rw [hbytes k, hmem]
      rfl
    · exact hkeeps.trans ((State.visited_keepsBut _).mono (m := [.mem, .tel]) (by decide))

end Sys2Proof

/-! Operations that leave the contexts at rest (O47). -/

namespace Sys2Proof.Machine

section
variable {a s : State} {c : Nat}

/-! ### Resting through one operation: what leaves the contexts alone -/

/-- Where each of two states rests after the other, the same states rest before both. -/
theorem Rests.iff {t : State} (h : Rests s t) (k : Rests t s) : Rests a t ↔ Rests a s := ⟨fun r => r.trans k, fun r => r.trans h⟩

/-- A change of quiet blocks. -/
theorem Rests.quiet {t : State} (h : Within quietBlocks s t) : Rests a t ↔ Rests a s := by
  unfold Rests State.ctx
  rw [h.same .ctxs (by decide), h.same .ctl (by decide)]

@[simp] theorem State.consAdd_rests (id n : Nat) : Rests a (s.consAdd id n) ↔ Rests a s := Rests.quiet (by simp)
@[simp] theorem State.bump_rests (off : Nat) : Rests a (s.bump off) ↔ Rests a s := Rests.quiet (by simp)
@[simp] theorem State.bumpN_rests (off n : Nat) : Rests a (s.bumpN off n) ↔ Rests a s := Rests.quiet (by simp)
@[simp] theorem State.lifetime_rests (k : Nat) (p : List Nat) : Rests a (s.lifetime k p) ↔ Rests a s := Rests.quiet (by simp)
@[simp] theorem State.draw_rests : Rests a s.draw.2 ↔ Rests a s := Rests.quiet (by simp)
@[simp] theorem State.doorbell_rests (f j : Nat) : Rests a (s.doorbell f j) ↔ Rests a s := Rests.quiet (by simp)
@[simp] theorem State.completeAll_rests (p : WaitFor → Bool) (g : Inflight → Reply) : Rests a (s.completeAll p g) ↔ Rests a s :=
  Rests.quiet (by simp)
@[simp] theorem State.releasePeg_rests (p : Option Nat) (b : Binding) : Rests a (s.releasePeg p b) ↔ Rests a s := Rests.quiet (by simp)
@[simp] theorem State.unpinPatch_rests (k : Nat) : Rests a (s.unpinPatch k) ↔ Rests a s := Rests.quiet (by simp)
@[simp] theorem State.updTsu_rests (f : Tsu → Tsu) : Rests a (s.updTsu f) ↔ Rests a s := Rests.quiet (by simp)
@[simp] theorem State.updKvp_rests (f : Kvp → Kvp) : Rests a (s.updKvp f) ↔ Rests a s := Rests.quiet (by simp)
@[simp] theorem State.updArr_rests (f : Arr → Arr) : Rests a (s.updArr f) ↔ Rests a s := Rests.quiet (by simp)
@[simp] theorem State.updActx_rests (f : ArrCtx → ArrCtx) : Rests a (s.updActx c f) ↔ Rests a s := Rests.quiet (by simp)
@[simp] theorem State.updFunc_rests (f : Func → Func) : Rests a (s.updFunc c f) ↔ Rests a s := Rests.quiet (by simp)
@[simp] theorem State.updGlb_rests (f : Glb → Glb) : Rests a (s.updGlb f) ↔ Rests a s := Rests.quiet (by simp)
@[simp] theorem State.updTel_rests (f : Tel → Tel) : Rests a (s.updTel f) ↔ Rests a s := Rests.quiet (by simp)
@[simp] theorem State.updPage_rests (p : Nat) (f : Page → Page) : Rests a (s.updPage p f) ↔ Rests a s := Rests.quiet (by simp)
@[simp] theorem State.updBuf_rests (k i : Nat) (f : FrameBuf → FrameBuf) : Rests a (s.updBuf k i f) ↔ Rests a s := Rests.quiet (by simp)
@[simp] theorem State.updVid_rests (f : Vid → Vid) : Rests a (s.updVid f) ↔ Rests a s := Rests.quiet (by simp)
@[simp] theorem State.updPeer_rests (e : Nat) (f : Peer → Peer) : Rests a (s.updPeer e f) ↔ Rests a s := Rests.quiet (by simp)
@[simp] theorem State.sendFrame_rests (e : Nat) (f : OutFrame) : Rests a (s.sendFrame e f) ↔ Rests a s := Rests.quiet (by simp)
@[simp] theorem State.pageAdd_rests (p : Nat) : Rests a (s.pageAdd p) ↔ Rests a s := Rests.quiet (by simp)
@[simp] theorem State.pageFree_rests (p : Nat) : Rests a (s.pageFree p) ↔ Rests a s := Rests.quiet (by simp)
@[simp] theorem State.pageDrop_rests (p k : Nat) (d : Bool) : Rests a (s.pageDrop p k d) ↔ Rests a s := Rests.quiet (by simp)
@[simp] theorem State.loadLists_rests (slot : Nat) (es : List ListEnt) : Rests a (s.loadLists slot es) ↔ Rests a s := Rests.quiet (by simp)
@[simp] theorem State.swapRoot_rests (slot : Nat) (v : Bool) (es : List ListEnt) : Rests a (s.swapRoot c slot v es) ↔ Rests a s :=
  Rests.quiet (State.swapRoot_within _ _ _ _ (by simp) (Within.refl _ s))
@[simp] theorem State.kvpFlag_rests (n : Nat) : Rests a (s.kvpFlag c n) ↔ Rests a s := Rests.quiet (by simp)
@[simp] theorem State.revokeEpoch_rests (r : StepRec) : Rests a (s.revokeEpoch c r) ↔ Rests a s := Rests.quiet (by simp)
@[simp] theorem State.restoreTsu_rests (r : StepRec) : Rests a (s.restoreTsu r) ↔ Rests a s := Rests.quiet (by simp)
@[simp] theorem State.clearArray_rests : Rests a (s.clearArray c) ↔ Rests a s := Rests.quiet (by simp)
@[simp] theorem State.releaseArray_rests (p : Phase) : Rests a (s.releaseArray c p) ↔ Rests a s := Rests.quiet (by simp)
@[simp] theorem State.dropSaved_rests : Rests a (s.dropSaved c) ↔ Rests a s := Rests.quiet (by simp)
@[simp] theorem State.accCharge_rests (k n : Nat) : Rests a (s.accCharge c k n) ↔ Rests a s := Rests.quiet (by simp)
@[simp] theorem State.chargeStep_rests (h : Charge) : Rests a (s.chargeStep c h) ↔ Rests a s := Rests.quiet (by simp)
@[simp] theorem State.hostPut_rests (f n : Nat) (bs : List Byte) : Rests a (s.hostPut f n bs) ↔ Rests a s := Rests.quiet (by simp)
@[simp] theorem State.unmapRange_rests (va len : Nat) : Rests a (s.unmapRange c va len) ↔ Rests a s := Rests.quiet (by simp)
@[simp] theorem State.switchGen_rests : Rests a (s.switchGen c) ↔ Rests a s := Rests.quiet (by simp)
@[simp] theorem State.checkDrained_rests (hs : Rests a s) : Rests a s.checkDrained := hs.trans Rests.checkDrained
@[simp] theorem State.checkQuiesced_rests : Rests a s.checkQuiesced ↔ Rests a s := Rests.quiet (by simp)
@[simp] theorem State.checkDoze_rests (hs : Rests a s) : Rests a s.checkDoze := hs.trans Rests.checkDoze

theorem foldS_rests {α : Type} {g : State → α → State} (l : List α) (hg : ∀ t x, Rests a t → Rests a (g t x)) (hs : Rests a s) :
    Rests a (foldS l g s) := foldS_preserves _ (Rests a) _ _ hg hs

theorem foldS_rests_iff {α : Type} {g : State → α → State} (l : List α) (hg : ∀ t x, Rests a (g t x) ↔ Rests a t) :
    Rests a (foldS l g s) ↔ Rests a s := by
  induction l generalizing s with
  | nil => rfl
  | cons x l ih => exact ih.trans (hg s x)

/-! ### What changes a context -/

/-- Two contexts in the same state, with work and pins or without. -/
def Ctx.Alike (x y : Ctx) : Prop := y.st = x.st ∧ (y.reqs = [] ↔ x.reqs = []) ∧ (y.jobs = [] ↔ x.jobs = []) ∧ (y.pins = [] ↔ x.pins = [])

theorem Ctx.Alike.rests {x y : Ctx} (h : Ctx.Alike x y) : Ctx.Rests x y ∧ Ctx.Rests y x := by
  obtain ⟨hst, hreqs, hjobs, hpins⟩ := h
  unfold Ctx.Rests
  rw [hst, hreqs, hjobs, hpins]
  exact ⟨fun h => ⟨h, id, id, id, id, id⟩, fun h => ⟨h, id, id, id, id, id⟩⟩

theorem State.updCtx_rests {g : Ctx → Ctx} (hs : Rests a s) (hg : ∀ x, Ctx.Rests x (g x)) : Rests a (s.updCtx c g) :=
  hs.trans (Rests.updCtx (hg _))

theorem State.updCtx_alike {g : Ctx → Ctx} (hg : ∀ x, Ctx.Alike x (g x)) : Rests a (s.updCtx c g) ↔ Rests a s :=
  Rests.iff (Rests.updCtx (hg _).rests.1) ⟨⟨rfl, rfl, rfl⟩, fun i => by
    rw [State.updCtx_ctx]
    split
    · next hi => exact hi ▸ (hg _).rests.2
    · exact Ctx.Rests.refl _⟩

/-- A change of a context's other fields. -/
@[simp] theorem State.updCtx_same_rests {g : Ctx → Ctx}
    (hg : ∀ x, (g x).st = x.st ∧ (g x).reqs = x.reqs ∧ (g x).jobs = x.jobs ∧ (g x).pins = x.pins) :
    Rests a (s.updCtx c g) ↔ Rests a s := State.updCtx_alike fun x => by
  obtain ⟨hst, hreqs, hjobs, hpins⟩ := hg x
  exact ⟨hst, by rw [hreqs], by rw [hjobs], by rw [hpins]⟩

@[simp] theorem State.updReq_rests (id : Nat) (f : Req → Req) : Rests a (s.updReq c id f) ↔ Rests a s :=
  State.updCtx_alike fun _ => ⟨rfl, List.map_eq_nil_iff, Iff.rfl, Iff.rfl⟩

@[simp] theorem State.updAcct_rests (k : Nat) (f : Account → Account) : Rests a (s.updAcct c k f) ↔ Rests a s := by
  simp [State.updAcct]

@[simp] theorem State.updStep_rests (k : Nat) (f : StepRec → StepRec) : Rests a (s.updStep c k f) ↔ Rests a s := by
  simp [State.updStep]

@[simp] theorem State.stage_rests (f : Staged → Staged) : Rests a (s.stage c f) ↔ Rests a s := by
  simp [State.stage]

@[simp] theorem State.pushUndo_rests (us : List Undo) : Rests a (s.pushUndo c us) ↔ Rests a s :=
  State.updCtx_same_rests fun x => by
    split
    · exact ⟨rfl, rfl, rfl, rfl⟩
    · exact ⟨rfl, rfl, rfl, rfl⟩

@[simp] theorem State.accReserve_rests (k n : Nat) : Rests a (s.accReserve c k n) ↔ Rests a s := by
  simp [State.accReserve]

@[simp] theorem State.accTrim_rests (k : Nat) : Rests a (s.accTrim c k) ↔ Rests a s := by
  unfold State.accTrim
  dsimp only
  split
  · simp
  · rfl

@[simp] theorem State.accRefund_rests (k n : Nat) : Rests a (s.accRefund c k n) ↔ Rests a s := by
  simp [State.accRefund]

@[simp] theorem State.finishReq_rests (r : Req) (hs : Rests a s) : Rests a (s.finishReq c r) := by
  unfold State.finishReq
  extract_lets u v
  have hv : Rests a v := by
    unfold v u
    split
    · simp [hs]
    · simp [hs]
  rw [State.consAdd_rests]
  exact State.updCtx_rests hv fun _ => Ctx.Rests.of_eq rfl (fun h => by simp [Ctx.note, h]) id rfl

/-- A request that ends in a step still stands; one that ends without a step is gone. -/
@[simp] theorem State.endReq_rests (r : Req) (reason : Nat) (denied : Bool) (step : Option Nat) (hs : Rests a s) :
    Rests a (s.endReq c r reason denied step) := by
  unfold State.endReq
  extract_lets reason1 reason2 pages ended u v w miss x
  have hu : Rests a u := by
    unfold u
    split
    · dsimp only
      split
      all_goals simp [hs]
    · exact hs
  have hv : Rests a v := by
    unfold v
    split
    · dsimp only
      split
      all_goals simp [hu]
    · exact hu
  have hw : Rests a w := by simp [w, hv]
  split
  · exact hw
  · exact State.finishReq_rests _ (by simp [x, hw])

end

end Sys2Proof.Machine

/-! Jobs, discarded steps and staged edits at rest (O47). -/

namespace Sys2Proof.Machine

section
variable {a s t u : State} {c : Nat}

/-! ### The end of a reset: another context alone changes -/

/-- Every context but one stays, and the interlock. -/
def Spares (c : Nat) (s t : State) : Prop := t.ctl = s.ctl ∧ ∀ i, i ≠ c → t.ctx i = s.ctx i

namespace Spares

theorem refl (s : State) : Spares c s s := ⟨rfl, fun _ _ => rfl⟩

theorem trans (h : Spares c s t) (k : Spares c t u) : Spares c s u := ⟨k.1.trans h.1, fun i hi => (k.2 i hi).trans (h.2 i hi)⟩

theorem within (h : Within quietBlocks s t) : Spares c s t :=
  ⟨h.same .ctl (by decide), fun i _ => by rw [State.ctx, State.ctx, h.same .ctxs (by decide)]⟩

theorem updCtx (g : Ctx → Ctx) : Spares c s (s.updCtx c g) := ⟨rfl, fun i hi => by rw [State.updCtx_ctx, if_neg hi]⟩

theorem updAcct (k : Nat) (f : Account → Account) : Spares c s (s.updAcct c k f) := updCtx _

theorem foldS {α : Type} {g : State → α → State} (h : ∀ s x, Spares c s (g s x)) (l : List α) : Spares c s (foldS l g s) := by
  induction l generalizing s with
  | nil => exact refl s
  | cons x l ih => exact (h s x).trans ih

theorem freeCtx : Spares c s (s.freeCtx c) := by
  unfold State.freeCtx
  extract_lets u v p w x y z r
  have hu : Spares c s u := foldS (fun s k => Spares.trans (updAcct k fun x => { x with level := 0 }) (within (by simp))) _
  have hv : Spares c u v := within (by simp [v])
  have hx : Spares c v x := within (by simp [x, w, p])
  have hy : Spares c x y := foldS (fun s j => by exact ⟨rfl, fun _ _ => rfl⟩) _
  have hz : Spares c y z := within (by simp [z])
  have hr : Spares c z r := ⟨rfl, fun i hi => by
    show Tbl.get (z.ctxs.set c {}) i = _
    rw [Tbl.get_set_ne _ _ hi]
    rfl⟩
  refine (((((hu.trans hv).trans hx).trans hy).trans hz).trans hr).trans ?_
  exact within (by simp)

theorem tryResetDone : Spares c s (s.tryResetDone c) := by
  unfold State.tryResetDone
  extract_lets close u v
  split
  · have hu : Spares c s u := updCtx _
    have hv : Spares c u v := within (by simp [v])
    split
    · exact (hu.trans hv).trans freeCtx
    · exact hu.trans hv
  · exact refl s

end Spares

theorem Rests.tryResetDone (c : Nat) : Rests s (s.tryResetDone c) := by
  by_cases h : (s.ctx c).st = .resetting
  · obtain ⟨hctl, hctx⟩ := Spares.tryResetDone (s := s) (c := c)
    refine ⟨by rw [hctl]; exact ⟨rfl, rfl, rfl⟩, fun i => ?_⟩
    by_cases hi : i = c
    · exact fun hn => absurd (hi ▸ h) hn
    · rw [hctx i hi]
      exact Ctx.Rests.refl _
  · have he : s.tryResetDone c = s := if_neg (by simp [h])
    rw [he]
    exact Rests.refl s

@[simp] theorem State.tryResetDone_rests (hs : Rests a s) : Rests a (s.tryResetDone c) := hs.trans (Rests.tryResetDone c)

/-! ### Jobs and video sessions -/

@[simp] theorem State.trySessClose_rests (k : Nat) (hs : Rests a s) : Rests a (s.trySessClose k) := by
  unfold State.trySessClose
  extract_lets x u v w r
  split
  · have hu : Rests a u := foldS_rests _ (fun t i ht => by simp [ht]) hs
    exact State.tryResetDone_rests (by simp [r, w, v, hu])
  · exact hs

@[simp] theorem State.dropJobRefs_rests (hl : List Nat) (hs : Rests a s) : Rests a (s.dropJobRefs hl) :=
  foldS_rests _ (fun t i ht => State.trySessClose_rests _ (by simp [ht])) hs

@[simp] theorem State.endJob_rests (j : Job) (r : Reply) (n : Nat) (hs : Rests a s) : Rests a (s.endJob c j r n) := by
  unfold State.endJob
  extract_lets u v w
  have hu : Rests a u := State.updCtx_rests hs fun x => Ctx.Rests.of_eq rfl id (fun h => by simp [h]) rfl
  have hw : Rests a w := by
    unfold w v
    split
    · simp [hu]
    · simp [hu]
  simp [hw]

@[simp] theorem State.settleJobs_rests (hs : Rests a s) : Rests a (s.settleJobs c) := by
  refine foldS_rests _ (fun t j ht => ?_) hs
  split
  · simp [ht]
  · split
    · simp [ht]
    · exact ht

/-! ### The token buffer -/

@[simp] theorem State.tbPut_rests (r : TbRec) : Rests a (s.tbPut c r) ↔ Rests a s := by
  simp [State.tbPut, foldS_rests_iff]

@[simp] theorem tbDrainList_rests (rs : List TbRec) : Rests a (tbDrainList c rs s) ↔ Rests a s := by
  induction rs generalizing s with
  | nil => simp [tbDrainList]
  | cons r rs ih =>
    unfold tbDrainList
    split
    · simp [ih]
    · simp

@[simp] theorem State.tbDrain_rests : Rests a (s.tbDrain c) ↔ Rests a s := by
  unfold State.tbDrain
  split
  · rfl
  · simp

@[simp] theorem State.tbWrite_rests (r : TbRec) : Rests a (s.tbWrite c r) ↔ Rests a s := by
  unfold State.tbWrite
  dsimp only
  split
  · simp
  · simp

@[simp] theorem State.writeNostep_rests : Rests a (s.writeNostep c) ↔ Rests a s := by
  simp [State.writeNostep, foldS_rests_iff]

/-! ### Steps that are discarded -/

@[simp] theorem State.revokeHost_rests (rs : List StepRec) : Rests a (s.revokeHost c rs) ↔ Rests a s := by
  unfold State.revokeHost
  split
  · simp
  · rfl

@[simp] theorem State.reverseOne_rests (x : Undo) : Rests a (s.reverseOne c x) ↔ Rests a s := by
  cases x with
  | dropped p again =>
    unfold State.reverseOne
    dsimp only
    (repeat' split) <;> simp
  | request r =>
    exact State.updCtx_alike fun _ => ⟨rfl, List.map_eq_nil_iff, Iff.rfl, Iff.rfl⟩
  | _ => simp [State.reverseOne]

@[simp] theorem State.reverseAll_rests (xs : List Undo) : Rests a (s.reverseAll c xs) ↔ Rests a s :=
  foldS_rests_iff _ fun _ _ => State.reverseOne_rests _

@[simp] theorem State.yieldSlot_rests (q : Req) (k : Nat) : Rests a (s.yieldSlot c q k) ↔ Rests a s := by
  unfold State.yieldSlot
  dsimp only
  split
  · simp
  · split
    · simp
    · simp

@[simp] theorem State.yieldSlots_rests (xs : List Undo) : Rests a (s.yieldSlots c xs) ↔ Rests a s := by
  refine foldS_rests_iff _ fun t x => ?_
  split
  · exact foldS_rests_iff _ fun _ _ => State.yieldSlot_rests _ _
  · rfl

@[simp] theorem State.discardFrom_rests (k : Nat) : Rests a (s.discardFrom c k) ↔ Rests a s := by
  simp [State.discardFrom, foldS_rests_iff]

@[simp] theorem State.rewind_rests (k : Nat) : Rests a (s.rewind c k) ↔ Rests a s := by
  unfold State.rewind
  split
  · rfl
  · extract_lets later v w r
    have hw : Rests a w ↔ Rests a s := by
      unfold w v
      split
      · simp
      · simp
    rw [← hw]
    exact State.updCtx_alike fun _ => ⟨rfl, Iff.rfl, List.map_eq_nil_iff, Iff.rfl⟩

/-! ### Staged edits -/

theorem State.pageAlloc_rests {copy : Bool} {p : Nat × State} (e : s.pageAlloc c copy = some p) : Rests a p.2 ↔ Rests a s :=
  Rests.quiet ((State.pageAlloc_within e (by decide)).2 (Within.refl _ s))

theorem foldl_add_rests {x : Applied} (ps : List Nat) (hs : Rests a x.s) : Rests a (ps.foldl Applied.add x).s :=
  List.foldlRecOn ps _ (motive := fun y : Applied => Rests a y.s) hs fun y hy p _ => by simp [Applied.add, hy]

theorem Applied.alloc_rests {x : Applied} (q : AllocReq) (hs : Rests a x.s) : Rests a (x.alloc c q).s := by
  unfold Applied.alloc
  split
  · exact hs
  · next p t e =>
    have ht : Rests a t := (State.pageAlloc_rests e).2 hs
    have hpins : ∀ {v : State} (f : Pin → Pin), Rests a v → Rests a (v.updCtx c fun x => { x with pins := x.pins.map f }) :=
      fun f hv => (State.updCtx_alike (g := fun x => { x with pins := x.pins.map f }) fun _ =>
        ⟨rfl, Iff.rfl, Iff.rfl, List.map_eq_nil_iff⟩).2 hv
    cases q.copyOf <;> cases q.req <;> simp [ht, foldl_add_rests, hpins]

theorem Applied.serve_rests {x : Applied} (qs : List AllocReq) (hs : Rests a x.s) : Rests a (x.serve c qs).s := by
  unfold Applied.serve
  split
  · exact List.foldlRecOn qs _ (motive := fun y : Applied => Rests a y.s) hs fun y hy q _ => Applied.alloc_rests q hy
  · simp [hs]

theorem foldl_drop_rests {x : Applied} (k : Nat) (done again : Bool) (ps : List Nat) (hs : Rests a x.s) :
    Rests a (ps.foldl (Applied.drop · k done again) x).s :=
  List.foldlRecOn ps _ (motive := fun y : Applied => Rests a y.s) hs fun y hy p _ => by simp [Applied.drop, hy]

theorem State.applyOnce_rests (k : Nat) (done : Bool) (g : Staged) (hs : Rests a s) : Rests a (s.applyOnce c k done g).s := by
  unfold State.applyOnce
  refine List.foldlRecOn _ _ (motive := fun y : Applied => Rests a y.s) ?_ fun y hy e _ => (State.swapRoot_rests _ _ _).2 hy
  refine foldl_add_rests _ ?_
  rw [foldl_edit_s]
  refine List.foldlRecOn _ _ (motive := fun y : Applied => Rests a y.s) ?_ fun y hy qs _ => Applied.serve_rests qs hy
  rw [foldl_edit_s]
  exact foldl_drop_rests _ _ _ _ (foldl_drop_rests _ _ _ _ hs)

theorem State.applyFit_rests (k : Nat) (done : Bool) (g : Staged) (lost : List AllocReq) (n : Nat) (out : List Nat) (hs : Rests a s) :
    Rests a (s.applyFit c k done g lost n out).s := by
  induction n generalizing s lost out with
  | zero => exact State.applyOnce_rests k done _ hs
  | succ n ih =>
    simp only [State.applyFit]
    split
    · exact State.applyOnce_rests k done _ hs
    · exact ih _ _ (by simp [hs])

@[simp] theorem State.applyEdits_rests (k : Nat) (done : Bool) (commit : Option Nat) (hs : Rests a s) :
    Rests a (s.applyEdits c k done commit).s := by
  unfold State.applyEdits
  dsimp only
  refine (State.updCtx_same_rests fun _ => ?_).2 ?_
  · exact ⟨rfl, rfl, rfl, rfl⟩
  exact State.applyFit_rests k done _ _ _ _ (foldS_rests _ (fun t p ht => (State.pageFree_rests p).2 ht) (by simp [hs]))

end

end Sys2Proof.Machine

/-! Boundaries, commits and fences at rest (O47). -/

namespace Sys2Proof.Machine

section
variable {a s : State} {c : Nat}

/-! ### The boundary of a step -/

@[simp] theorem State.freePatches_rests : Rests a (s.freePatches c) ↔ Rests a s :=
  foldS_rests_iff _ fun t x => by simp

@[simp] theorem State.readyPatches_rests : Rests a (s.readyPatches c) ↔ Rests a s :=
  foldS_rests_iff _ fun t x => by simp

@[simp] theorem State.joinPrefix_rests (slot : Nat) (n : Pin) : Rests a (s.joinPrefix c slot n) ↔ Rests a s := by
  unfold State.joinPrefix
  dsimp only
  rw [foldS_rests_iff _ fun t x => by split <;> simp]
  simp

@[simp] theorem State.admitOne_rests (r : Req) (n slot pages : Nat) (pin : Option Pin) (hs : Rests a s) :
    Rests a (s.admitOne c r n slot pages pin) := by
  unfold State.admitOne
  extract_lets ac pinned u v w patch x fresh y ended z
  have hw : Rests a w := by
    unfold w
    split
    · simp [v, u, hs]
    · simp [v, u, hs]
  have hx : Rests a x := by
    unfold x
    cases patch with
    | some k => simp [hw]
    | none => exact hw
  have hz : Rests a z := by simp [z, y, hx]
  split
  · exact State.endReq_rests _ _ _ _ hz
  · exact hz

theorem State.choose_rests {xs : List Nat} {p : Nat × State} (e : s.choose xs = some p) : Rests a p.2 ↔ Rests a s :=
  Rests.quiet ((State.choose_within e (by decide)).2 (Within.refl _ s))

@[simp] theorem admitList_rests (rs : List Req) (blocked : List Nat) (hs : Rests a s) : Rests a (admitList c rs blocked s) := by
  induction rs generalizing s blocked with
  | nil => exact hs
  | cons r rs ih =>
    unfold admitList
    dsimp only
    split
    · exact ih _ hs
    · split
      · exact ih _ hs
      · split
        · exact ih _ (State.endReq_rests _ _ _ _ hs)
        · split
          · exact hs
          · split
            · exact hs
            · next e => exact ih _ (State.admitOne_rests _ _ _ _ _ ((State.choose_rests e).2 hs))

@[simp] theorem State.admission_rests (hs : Rests a s) : Rests a (s.admission c) := by
  unfold State.admission
  split
  · exact admitList_rests _ _ hs
  · exact hs

@[simp] theorem State.retable_rests : Rests a (s.retable c) ↔ Rests a s := by
  simp [State.retable]

@[simp] theorem State.boundaryEnd_rests (r : Req) (hs : Rests a s) : Rests a (s.boundaryEnd c r) := by
  unfold State.boundaryEnd
  dsimp only
  (repeat' split) <;> simp [hs]

@[simp] theorem State.boundaryEnds_rests (hs : Rests a s) : Rests a (s.boundaryEnds c) :=
  foldS_rests _ (fun _ r ht => State.boundaryEnd_rests r ht) hs

theorem Build.place_rests {b : Build} (k : Nat) (g : Image) (prefill : Bool) (r : Req) (hs : Rests a b.s) :
    Rests a (b.place c k g prefill r).s := by
  unfold Build.place
  split
  · exact hs
  · split
    · exact hs
    · dsimp only
      split
      · exact State.endReq_rests _ _ _ _ hs
      · split
        all_goals
          split
          · simp [hs]
          · simp [hs]

@[simp] theorem State.buildBatch_rests (k : Nat) (hs : Rests a s) : Rests a (s.buildBatch c k).1 := by
  unfold State.buildBatch
  split
  · exact hs
  · split
    · exact hs
    · dsimp only
      split
      · exact hs
      · have hb (b : Build) (g : Image) (p : Bool) (qs : List Req) (hb : Rests a b.s) : Rests a (qs.foldl (Build.place · c k g p) b).s :=
          List.foldlRecOn qs _ (motive := fun b : Build => Rests a b.s) hb fun b hb q _ => Build.place_rests k g p q hb
        split
        · exact hb _ _ _ _ hs
        · exact hb _ _ _ _ hs

@[simp] theorem State.settleBatch_rests (x : Applied) (b : Option StepRec) : Rests a (s.settleBatch c x b).1 ↔ Rests a s := by
  unfold State.settleBatch
  extract_lets t
  have ht : Rests a t ↔ Rests a s := foldS_rests_iff _ fun u r => by
    split
    · simp
    · rfl
  cases b with
  | none => exact ht
  | some b => simp [foldS_rests_iff, ht, apply_ite Prod.fst]

/-- The edits staged for the next step are applied, and the step takes what they leave it. -/
theorem State.applied_rests (k : Nat) (done : Bool) (m : Option Nat) (x : Applied) (us : List Undo) (b : Option StepRec)
    (hs : Rests a s) : Rests a ((((s.applyEdits c k done m).s.pushUndo c us).settleBatch c x b).1) := by
  simp [hs]

@[simp] theorem State.boundary_rests (hs : Rests a s) : Rests a (s.boundary c) := by
  have hu : Rests a (((s.boundaryEnds c).retable c).admission c) := State.admission_rests (by simp [hs])
  unfold State.boundary
  dsimp only
  rw [State.switchGen_rests, State.freePatches_rests, State.readyPatches_rests]
  split
  · simp [hu]
  · refine (State.updCtx_same_rests fun _ => ?_).2 ?_
    · exact ⟨rfl, rfl, rfl, rfl⟩
    · rw [State.settleBatch_rests, State.pushUndo_rests]
      refine State.applyEdits_rests _ _ _ ?_
      split
      · exact State.buildBatch_rests _ hu
      · split
        · exact hu
        · split
          · exact State.buildBatch_rests _ hu
          · exact hu

/-! ### Commits -/

@[simp] theorem State.commitServing_rests (b : StepRec) (serving : Bool) (hs : Rests a s) : Rests a (s.commitServing c b serving) := by
  unfold State.commitServing
  extract_lets u es room ends allEarly all v w
  have hu : Rests a u := by
    refine foldS_rests _ (fun t e ht => ?_) hs
    split
    · exact ht
    · split
      · exact ht
      · simp [ht]
  have hv : Rests a v := by
    unfold v
    split
    · simp [hu]
    · exact hu
  have hw : Rests a w := by
    unfold w
    split
    · simp [hv]
    · exact hv
  exact foldS_rests _ (fun t r ht => State.finishReq_rests r ht) hw

@[simp] theorem State.commitFw_rests (r : StepRec) (hs : Rests a s) : Rests a (s.commitFw c r) := by
  unfold State.commitFw
  extract_lets u v
  have hu : Rests a u := State.commitServing_rests r _ hs
  have hv : Rests a v := by
    unfold v
    split
    · next id _ =>
      refine (State.updCtx_alike fun _ => ?_).2 hu
      exact ⟨rfl, Iff.rfl, List.map_eq_nil_iff, Iff.rfl⟩
    · exact hu
  simp [hv]

@[simp] theorem State.commitHw_rests (r : StepRec) : Rests a (s.commitHw c r) ↔ Rests a s := by
  unfold State.commitHw
  extract_lets u v
  have hv : Rests a v ↔ Rests a u := foldS_rests_iff _ fun t e => by simp
  simp [hv, u]

@[simp] theorem State.commit_rests (r : StepRec) (hs : Rests a s) : Rests a (s.commit c r) := by
  unfold State.commit
  extract_lets u
  have hu : Rests a u := (State.commitHw_rests r).2 hs
  split
  · simp [hu]
  · exact State.commitFw_rests r hu

/-! ### The fence -/

theorem Rests.ite {p : Prop} [Decidable p] {t u : State} (ht : Rests a t) (hu : Rests a u) : Rests a (if p then t else u) := by
  split
  · exact ht
  · exact hu

theorem Rests.ite_updCtx {p : Prop} [Decidable p] {t : State} (g : Ctx → Ctx) (ht : Rests a t)
    (hg : ∀ x, (g x).st = x.st ∧ (g x).reqs = x.reqs ∧ (g x).jobs = x.jobs ∧ (g x).pins = x.pins) :
    Rests a (if p then t.updCtx c g else t) := Rests.ite ((State.updCtx_same_rests hg).2 ht) ht

@[simp] theorem State.fenceEntry_rests (k : Nat) (pre : Bool) (e : Entry) (hs : Rests a s) : Rests a (s.fenceEntry c k pre e).1 := by
  unfold State.fenceEntry
  split
  · exact hs
  · split
    · exact hs
    · extract_lets
      simp only [apply_ite Prod.fst]
      refine Rests.ite (Rests.ite_updCtx _ ?_ ?_) (State.endReq_rests _ _ _ _ (Rests.ite_updCtx _ ?_ ?_))
      all_goals simp [hs]

@[simp] theorem fenceEntries_rests (k : Nat) (pre : Bool) (es : List Entry) (hs : Rests a s) :
    Rests a (fenceEntries c k pre es s).1 := by
  induction es generalizing s with
  | nil => exact hs
  | cons e es ih => exact ih (State.fenceEntry_rests k pre e hs)

@[simp] theorem State.fenceOthers_rests (k : Nat) (es : List Entry) : Rests a (s.fenceOthers c k es) ↔ Rests a s := by
  unfold State.fenceOthers
  dsimp only
  rw [foldS_rests_iff _ fun t r => by split <;> simp]
  simp

@[simp] theorem State.writeEarly_rests (b : StepRec) : Rests a (s.writeEarly c b) ↔ Rests a s := by
  unfold State.writeEarly
  dsimp only
  split
  · rfl
  · simp

@[simp] theorem State.fenceServing_rests (k : Nat) (hs : Rests a s) : Rests a (s.fenceServing c k) := by
  unfold State.fenceServing
  split
  · exact hs
  · extract_lets u v
    have hv : Rests a v := foldS_rests _ (fun t e ht => by split <;> simp [ht]) (by simp [u, hs])
    dsimp only
    split
    · simp [hv]
    · simp [hv]

@[simp] theorem State.applyChecks_rests (k : Nat) (p : Tile → Bool) (eq : List Bool) : Rests a (s.applyChecks c k p eq) ↔ Rests a s := by
  unfold State.applyChecks
  split
  · rfl
  · simp

/-- A context that leaves the array: one that runs is suspended or ready after it, any other stays what it is. -/
@[simp] theorem State.leave_rests (ext : List Bool) (hs : Rests a s) : Rests a (s.leave c ext) := by
  unfold State.leave
  extract_lets left u v w held x y
  split
  · simp [hs]
  · have hu : Rests a u := by
      unfold u
      split
      · simp [hs]
      · exact hs
    have hv : Rests a v := foldS_rests _ (fun t r ht => by
      split
      · split
        · exact State.commit_rests _ ht
        · exact ht
      · exact ht) hu
    have hw : Rests a w := foldS_rests _ (fun t r ht => by simp [ht]) hv
    have hy : Rests a y := State.updCtx_rests (by simp [x, hw]) fun z hz => by
      dsimp only
      (repeat' split) <;> simp_all
    simp [hy]

/-- The end of a fence: the context goes on, or leaves the array. -/
theorem State.turned_rests (ext : List Bool) (hs : Rests a s) : Rests a (if s.turnEnds c then s.leave c ext else s) := by
  split
  · exact State.leave_rests _ hs
  · exact hs

@[simp] theorem State.fenceFirmware_rests (ext : List Bool) (hs : Rests a s) : Rests a (s.fenceFirmware c ext) := by
  unfold State.fenceFirmware
  extract_lets owed u v w x y
  have hv : Rests a v := foldS_rests _ (fun t r ht => State.commitFw_rests r ht) (by simp [u, hs])
  split
  · refine State.turned_rests _ (State.boundary_rests ((State.rewind_rests _).2 ?_))
    split
    · split
      · exact State.commit_rests _ hv
      · exact hv
    · exact hv
  · have hw : Rests a w := by
      unfold w
      split
      · split
        · exact State.commit_rests _ hv
        · exact hv
      · exact hv
    have hx : Rests a x := by
      unfold x
      split
      · exact State.fenceServing_rests _ hw
      · exact hw
    exact State.turned_rests _ (State.boundary_rests hx)

@[simp] theorem State.lockstepRewind_rests (hs : Rests a s) : Rests a (s.lockstepRewind c) := by
  unfold State.lockstepRewind
  split
  · exact hs
  · split
    · exact State.boundary_rests ((State.rewind_rests _).2 hs)
    · exact hs

@[simp] theorem State.catchUp_rests (hs : Rests a s) : Rests a (s.catchUp c) := by
  unfold State.catchUp
  extract_lets u v
  have hu : Rests a u := State.lockstepRewind_rests hs
  rw [State.tbDrain_rests]
  unfold v
  split
  · exact State.fenceFirmware_rests _ hu
  · exact hu

end

end Sys2Proof.Machine

/-! The loss of the control state (O47). -/

namespace Sys2Proof.Machine

section
variable {a s t u : State} {c i : Nat}

/-! ### Work that ends with the control state (17, R472) -/

/-- The context is FAULTED and holds no request, job or pin. -/
def Lost (c : Nat) (s : State) : Prop :=
  (s.ctx c).st = .faulted ∧ (s.ctx c).reqs = [] ∧ (s.ctx c).jobs = [] ∧ (s.ctx c).pins = []

theorem Lost.rests (h : Lost c s) (k : Rests s t) : Lost c t := by
  obtain ⟨hst, hreqs, hjobs, hpins⟩ := h
  obtain ⟨-, -, kst, kreqs, kjobs, kpins⟩ := k.2 c (by rw [hst]; decide)
  exact ⟨kst hst, kreqs hreqs, kjobs hjobs, kpins hpins⟩

theorem Rests.not_resetting (h : Rests s t) (hn : (s.ctx c).st ≠ .resetting) : (t.ctx c).st ≠ .resetting := (h.2 c hn).1

theorem Rests.not_free (h : Rests s t) (hn : (s.ctx c).st ≠ .resetting) (hf : (s.ctx c).st ≠ .free) : (t.ctx c).st ≠ .free :=
  (h.2 c hn).2.1 hf

theorem State.accTrim_reqs (k : Nat) : ((s.accTrim c k).ctx c).reqs = (s.ctx c).reqs := by
  unfold State.accTrim
  dsimp only
  split
  · simp [State.updAcct]
  · rfl

theorem State.accRefund_reqs (k n : Nat) : ((s.accRefund c k n).ctx c).reqs = (s.ctx c).reqs := by
  rw [State.accRefund, State.accTrim_reqs]
  simp [State.updAcct]

/-- A request that is finished is tracked no longer. -/
theorem State.finishReq_reqs (r : Req) : ((s.finishReq c r).ctx c).reqs = (s.ctx c).reqs.filter (·.id ≠ r.id) := by
  unfold State.finishReq
  extract_lets u v
  have hu : (u.ctx c).reqs = (s.ctx c).reqs := by
    unfold u
    split
    · rfl
    · exact State.accRefund_reqs _ _
  have hv : v.ctx c = u.ctx c := State.ctx_of_within (l := [.peg]) (by simp [v]) (by decide) c
  rw [State.ctx_of_within (l := [.tel]) (State.consAdd_within _ _ (by decide) |>.2 (Within.refl _ _)) (by decide),
    State.updCtx_ctx, if_pos rfl, hv]
  show (u.ctx c).reqs.filter _ = _
  rw [hu]

/-- The numbers of the requests that a context tracks. -/
def State.reqIds (s : State) (c : Nat) : List Nat := (s.ctx c).reqs.map (·.id)

theorem State.endReq_ids {n : Nat} (r : Req) (reason : Nat) (denied : Bool)
    (h : n ∈ (s.endReq c r reason denied none).reqIds c) : n ∈ s.reqIds c ∧ n ≠ r.id := by
  unfold State.endReq at h
  extract_lets reason1 reason2 pages ended u v w miss x at h
  have hu : (u.ctx c).reqs = (s.ctx c).reqs := by
    unfold u
    split
    · simp [State.stage]
    · rfl
  have hv : v.ctx c = u.ctx c := by
    unfold v
    split
    · exact State.ctx_of_within (l := [.tel, .tsu]) (by simp) (by decide) c
    · rfl
  have hw : w.reqIds c = s.reqIds c := by
    simp only [State.reqIds, w, State.updReq, State.updCtx_ctx_same, hv, hu, List.map_map]
    refine List.map_congr_left fun q _ => ?_
    simp only [Function.comp]
    split
    · next hq => exact hq.symm
    · rfl
  rw [if_neg (by decide), State.reqIds, State.finishReq_reqs] at h
  have hx : (x.ctx c).reqs = (w.ctx c).reqs := by simp [x]
  rw [hx] at h
  obtain ⟨q, hq, rfl⟩ := List.mem_map.1 h
  obtain ⟨hq, hne⟩ := List.mem_filter.1 hq
  exact ⟨hw ▸ List.mem_map_of_mem hq, by simpa using hne⟩

theorem foldS_endReq_ids {n : Nat} (reason : Nat) (rs : List Req)
    (h : n ∈ (foldS rs (fun s r => s.endReq c r reason false none) s).reqIds c) : n ∈ s.reqIds c ∧ ∀ r ∈ rs, n ≠ r.id := by
  induction rs generalizing s with
  | nil => exact ⟨h, fun r hr => nomatch hr⟩
  | cons r rs ih =>
    obtain ⟨hn, hrs⟩ := ih h
    obtain ⟨hs, hr⟩ := State.endReq_ids r reason false hn
    exact ⟨hs, List.forall_mem_cons.2 ⟨hr, hrs⟩⟩

/-- Once every request has ended, none is tracked. -/
theorem foldS_endReq_reqs (reason : Nat) :
    ((foldS (s.ctx c).reqs (fun s r => s.endReq c r reason false none) s).ctx c).reqs = [] := by
  refine List.eq_nil_iff_forall_not_mem.2 fun q hq => ?_
  obtain ⟨hs, hall⟩ := foldS_endReq_ids (n := q.id) reason (s.ctx c).reqs (List.mem_map_of_mem hq)
  obtain ⟨r, hr, he⟩ := List.mem_map.1 hs
  exact hall r hr he.symm

theorem State.trySessClose_ctx (k : Nat) (h : (s.ctx c).st ≠ .resetting) : (s.trySessClose k).ctx c = s.ctx c := by
  unfold State.trySessClose
  extract_lets x u v w r
  split
  · have hu : Within [.vid, .tel] s u := by simp [u, foldS_within]
    have hv : Within [.tel, .host, .sec, .mem] u v := by simp [v]
    have hr' : Within [.vid, .tel, .host] v r := by simp [r, w]
    have hr : r.ctx c = s.ctx c := by
      rw [State.ctx_of_within hr' (by decide), State.ctx_of_within hv (by decide), State.ctx_of_within hu (by decide)]
    by_cases hc : c = x.ctx
    · have he : r.tryResetDone x.ctx = r := if_neg (by rw [← hc, hr]; simp [h])
      rw [he, hr]
    · rw [Spares.tryResetDone.2 c hc, hr]
  · rfl

theorem State.dropJobRefs_ctx (hl : List Nat) (h : (s.ctx c).st ≠ .resetting) : (s.dropJobRefs hl).ctx c = s.ctx c := by
  unfold State.dropJobRefs
  induction hl generalizing s with
  | nil => rfl
  | cons x l ih =>
    obtain ⟨t, ht⟩ : ∃ t, t = s.updBuf (handleSess x) (handleBuf x) fun b => { b with jobRefs := b.jobRefs - 1 } := ⟨_, rfl⟩
    have hst : t.ctx c = s.ctx c := State.ctx_of_within (l := [.vid, .tel]) (by simp [ht]) (by decide) c
    have hx : (t.trySessClose (handleSess x)).ctx c = s.ctx c := by
      rw [State.trySessClose_ctx _ (by rw [hst]; exact h), hst]
    rw [foldS_cons, ← ht, ih (by rw [hx]; exact h), hx]

theorem State.endJob_ctx (j : Job) (r : Reply) (n : Nat) (h : (s.ctx c).st ≠ .resetting) :
    (s.endJob c j r n).ctx c = { s.ctx c with jobs := (s.ctx c).jobs.filter (·.id ≠ j.id) } := by
  unfold State.endJob
  extract_lets u v w
  have hu : u.ctx c = { s.ctx c with jobs := (s.ctx c).jobs.filter (·.id ≠ j.id) } := by simp [u]
  have hd : (u.dropJobRefs j.buffers).ctx c = u.ctx c := State.dropJobRefs_ctx _ (by rw [hu]; exact h)
  have hw : Within [.peg, .tel, .host] (u.dropJobRefs j.buffers) w := by
    unfold w v
    split
    · simp
    · simp
  have hl : Within [.tel, .host] w (w.completeAll (fun x => x == .jobAbort c j.id) fun _ => .of n) := by simp
  rw [State.ctx_of_within hl (by decide), State.ctx_of_within hw (by decide), hd, hu]

theorem foldS_endJob_jobs (r : Reply) (n : Nat) {q : Job} (js : List Job) (h : (s.ctx c).st ≠ .resetting)
    (hq : q ∈ ((foldS js (fun s j => s.endJob c j r n) s).ctx c).jobs) : q ∈ (s.ctx c).jobs ∧ ∀ j ∈ js, q.id ≠ j.id := by
  induction js generalizing s with
  | nil => exact ⟨hq, fun j hj => nomatch hj⟩
  | cons j js ih =>
    have hj := State.endJob_ctx j r n h
    obtain ⟨hs, hall⟩ := ih (by rw [hj]; exact h) hq
    rw [hj] at hs
    obtain ⟨hs, hne⟩ := List.mem_filter.1 hs
    exact ⟨hs, List.forall_mem_cons.2 ⟨by simpa using hne, hall⟩⟩

/-- Once every job has ended, none is left. -/
theorem foldS_endJob_empty (r : Reply) (n : Nat) (h : (s.ctx c).st ≠ .resetting) :
    ((foldS (s.ctx c).jobs (fun s j => s.endJob c j r n) s).ctx c).jobs = [] :=
  List.eq_nil_iff_forall_not_mem.2 fun q hq => by
    obtain ⟨hs, hall⟩ := foldS_endJob_jobs r n _ h hq
    exact hall q hs rfl

/-- The end of a context's work leaves no request and no job. -/
theorem State.endWork_empties (reason status : Nat) (h : (s.ctx c).st ≠ .resetting) :
    ((s.endWork c reason status).ctx c).reqs = [] ∧ ((s.endWork c reason status).ctx c).jobs = [] ∧ Rests s (s.endWork c reason status) := by
  unfold State.endWork
  extract_lets u v last
  have hu : Rests s u := foldS_rests _ (fun t r ht => by simp [ht]) (Rests.refl s)
  have hv : Rests u v := foldS_rests _ (fun t r ht => by simp [ht]) (Rests.refl u)
  have hw := State.applyEdits_rests (c := c) last true (v.actx c).commit (Rests.refl v)
  have hn := hu.not_resetting h
  obtain ⟨-, -, -, hreqs, -⟩ := hv.2 c hn
  obtain ⟨-, -, -, kreqs, kjobs, -⟩ := hw.2 c (hv.not_resetting hn)
  exact ⟨kreqs (hreqs (foldS_endReq_reqs _)), kjobs (foldS_endJob_empty _ _ hn), (hu.trans hv).trans hw⟩

theorem State.looseEdits_rests (hs : Rests a s) : Rests a (s.looseEdits c) :=
  State.updCtx_rests hs fun _ h => ⟨h, id, id, id, id, fun _ => rfl⟩

/-- What `lostCtx` does to an open context's work: the context rests, and has none left. -/
theorem State.lostWork_empties {v : State} (hv : v = (((s.releaseArray c .idle).dropSaved c).looseEdits c).endWork c 10 stLost)
    (h : (s.ctx c).st ≠ .resetting) : Rests s v ∧ (v.ctx c).reqs = [] ∧ (v.ctx c).jobs = [] ∧ (v.ctx c).pins = [] := by
  obtain ⟨x, hx⟩ : ∃ x, x = ((s.releaseArray c .idle).dropSaved c).looseEdits c := ⟨_, rfl⟩
  have hsx : Rests s x := hx ▸ State.looseEdits_rests (by simp [Rests.refl])
  have hpins : (x.ctx c).pins = [] := by
    rw [hx, State.looseEdits, State.updCtx_ctx_same]
  have hn := hsx.not_resetting h
  obtain ⟨hreqs, hjobs, hxv⟩ := State.endWork_empties (s := x) (c := c) 10 stLost hn
  rw [hx, ← hv] at hreqs hjobs hxv
  rw [← hx] at hxv
  obtain ⟨-, -, -, -, -, kpins⟩ := hxv.2 c hn
  exact ⟨hsx.trans hxv, hreqs, hjobs, kpins hpins⟩

/-- The last of `lostCtx`: the context is FAULTED. -/
theorem State.lostEnd_lost {g : Ctx → Ctx} (hg : ∀ x, (g x).st = .faulted ∧ (g x).reqs = x.reqs ∧ (g x).jobs = x.jobs ∧ (g x).pins = x.pins)
    (hreqs : (s.ctx c).reqs = []) (hjobs : (s.ctx c).jobs = []) (hpins : (s.ctx c).pins = []) :
    Rests s (s.updCtx c g) ∧ Lost c (s.updCtx c g) := by
  refine ⟨State.updCtx_rests (Rests.refl s) fun x _ => ?_, ?_⟩
  · obtain ⟨kst, kreqs, kjobs, kpins⟩ := hg x
    rw [kst, kreqs, kjobs, kpins]
    exact ⟨by decide, fun _ => by decide, fun _ => rfl, id, id, id⟩
  · obtain ⟨kst, kreqs, kjobs, kpins⟩ := hg (s.ctx c)
    unfold Lost
    rw [State.updCtx_ctx_same, kst, kreqs, kjobs, kpins]
    exact ⟨rfl, hreqs, hjobs, hpins⟩

/-- What `lostCtx` does once the context's steps are discarded. -/
def State.lostAfter (s : State) (c : Nat) : State :=
  let s := (((s.releaseArray c .idle).dropSaved c).looseEdits c).endWork c 10 stLost
  let s := foldS ((s.ctx c).accounts.map Prod.fst) (fun s a => s.accRefund c a (s.accHeld c a)) s
  s.updCtx c fun x => { x with st := .faulted, midStep := false, leaving := false, reloading := none, owed := false, owedCommit := [] }

theorem State.lostAfter_lost (h : (s.ctx c).st ≠ .resetting) : Rests s (s.lostAfter c) ∧ Lost c (s.lostAfter c) := by
  unfold State.lostAfter
  dsimp only
  obtain ⟨v, hv⟩ : ∃ v, v = (((s.releaseArray c .idle).dropSaved c).looseEdits c).endWork c 10 stLost := ⟨_, rfl⟩
  obtain ⟨hsv, hreqs, hjobs, hpins⟩ := State.lostWork_empties hv h
  rw [← hv]
  obtain ⟨w, hw⟩ : ∃ w, w = foldS ((v.ctx c).accounts.map Prod.fst) (fun s a => s.accRefund c a (s.accHeld c a)) v := ⟨_, rfl⟩
  have hvw : Rests v w := hw ▸ foldS_rests _ (fun t k ht => by simp [ht]) (Rests.refl v)
  rw [← hw]
  obtain ⟨-, -, -, kreqs, kjobs, kpins⟩ := hvw.2 c (hsv.not_resetting h)
  obtain ⟨hend, hlost⟩ := State.lostEnd_lost (s := w) (c := c)
    (g := fun x => { x with st := .faulted, midStep := false, leaving := false, reloading := none, owed := false, owedCommit := [] })
    (fun _ => ⟨rfl, rfl, rfl, rfl⟩) (kreqs hreqs) (kjobs hjobs) (kpins hpins)
  exact ⟨(hsv.trans hvw).trans hend, hlost⟩

/-- An open context's steps are discarded, and the rest of its work ends. -/
theorem State.lostCtx_open (hf : (s.ctx c).st ≠ .free) : ∃ u, Rests s u ∧ s.lostCtx c = u.lostAfter c := by
  rcases hs : (s.ctx c).steps with _ | ⟨r, rs⟩
  · refine ⟨s.updCtx c fun x => { x with next := none }, by simp [Rests.refl], ?_⟩
    rw [State.lostCtx, if_neg hf, hs]
    rfl
  · refine ⟨s.discardFrom c r.k, by simp [Rests.refl], ?_⟩
    rw [State.lostCtx, if_neg hf, hs]
    rfl

/-- A context that the control state's loss finds open is FAULTED, with nothing left; every context rests. -/
theorem State.lostCtx_lost (h : (s.ctx c).st ≠ .resetting) : Rests s (s.lostCtx c) ∧ ((s.ctx c).st ≠ .free → Lost c (s.lostCtx c)) := by
  by_cases hf : (s.ctx c).st = .free
  · have he : s.lostCtx c = s := if_pos hf
    rw [he]
    exact ⟨Rests.refl s, fun hn => absurd hf hn⟩
  · obtain ⟨u, hu, he⟩ := State.lostCtx_open hf
    obtain ⟨hr, hl⟩ := State.lostAfter_lost (hu.not_resetting h)
    rw [he]
    exact ⟨hu.trans hr, fun _ => hl⟩

theorem foldS_lostCtx (l : List Nat) (h : ∀ i ∈ l, (s.ctx i).st ≠ .resetting) : Rests s (foldS l State.lostCtx s) ∧
    ∀ i ∈ l, (s.ctx i).st ≠ .free → Lost i (foldS l State.lostCtx s) := by
  induction l generalizing s with
  | nil => exact ⟨Rests.refl s, fun i hi => nomatch hi⟩
  | cons c l ih =>
    have hc := h c List.mem_cons_self
    obtain ⟨hr, hl⟩ := State.lostCtx_lost hc
    have hrest : ∀ i ∈ l, ((s.lostCtx c).ctx i).st ≠ .resetting := fun i hi => hr.not_resetting (h i (List.mem_cons_of_mem _ hi))
    obtain ⟨hrs, hls⟩ := ih hrest
    refine ⟨hr.trans hrs, fun i hi hf => ?_⟩
    rcases List.mem_cons.1 hi with rfl | hi
    · exact (hl hf).rests hrs
    · exact hls i hi (hr.not_free (h i (List.mem_cons_of_mem _ hi)) hf)

/-- CONTROL_STATE_LOST leaves every open context FAULTED, with nothing left. -/
theorem State.controlLost_lost (ok : Bool) (h : ∀ i, i < 16 → (s.ctx i).st ≠ .resetting) :
    Rests s (s.controlLost ok) ∧ ∀ i, i < 16 → (s.ctx i).st ≠ .free → Lost i (s.controlLost ok) := by
  obtain ⟨hr, hl⟩ := foldS_lostCtx (s := s) allCtxs fun i hi => h i (mem_allCtxs.1 hi)
  have hk : Rests (foldS allCtxs State.lostCtx s) (s.controlLost ok) := by
    unfold State.controlLost
    dsimp only
    split
    · simp [Rests.refl]
    · exact Rests.within (by simp [State.identityFails])
  exact ⟨hr.trans hk, fun i hi hf => (hl i (mem_allCtxs.2 hi) hf).rests hk⟩

end

end Sys2Proof.Machine

/-! The ownership interlock (O47). -/

namespace Sys2Proof.Machine

section
variable {s t u : State} {k : CoreAB}

/-! ### The interlock is released (17, R460, R465, R482) -/

/-- The owner and successor, the gap, its start, whether it is planned, and the cores stay. -/
def GapStays (s t : State) : Prop :=
  t.ctl.owner = s.ctl.owner ∧ t.ctl.gap = s.ctl.gap ∧ t.ctl.successor = s.ctl.successor ∧ t.ctl.gapSince = s.ctl.gapSince ∧
    t.ctl.planned = s.ctl.planned ∧ t.ctl.cores = s.ctl.cores

theorem GapStays.ctlCore (h : GapStays s t) (k : CoreAB) : t.ctlCore k = s.ctlCore k := by
  obtain ⟨-, -, -, -, -, hc⟩ := h
  rw [State.ctlCore, hc, State.ctlCore]

theorem State.rolledBack_stays (s : State) : GapStays s s.rolledBack := by
  obtain ⟨u, hu⟩ : ∃ u, u = s.updCtl fun c => { c with staging := .rejected, phase := .rolledBack, commitSvn := false } := ⟨_, rfl⟩
  have hw : Within [.host, .tel] u s.rolledBack := by simp [State.rolledBack, ← hu]
  unfold GapStays
  rw [hw.same .ctl (by decide), hu]
  exact ⟨rfl, rfl, rfl, rfl, rfl, rfl⟩

/-- The successor that a release names. -/
def State.heir (s : State) (k : CoreAB) (dead : Bool) : Option CoreAB :=
  if (s.ctlCore (coreOther k)).health = .standbyOk then some (coreOther k) else if dead then none else some k

/-- The losses that count once an owner is released. -/
def State.lossesAt (s : State) (k : CoreAB) (beat : Bool) : List Nat :=
  lossesNow (if beat then s.time :: (s.ctlCore k).losses else (s.ctlCore k).losses) s.time

/-- The owner's second loss in a day, which fails its core. -/
def State.dies (s : State) (k : CoreAB) (beat : Bool) : Bool := beat && decide (2 ≤ (s.lossesAt k beat).length)

/-- A release opens the gap, with its successor; the core that had the interlock starts again, or has failed. -/
theorem State.release_opens (planned beat : Bool) (ht : t = s.release k planned beat) :
    t.ctl.owner = none ∧ t.ctl.gap = true ∧ t.ctl.successor = s.heir k (s.dies k beat) ∧ t.ctl.gapSince = s.time ∧
      t.ctl.planned = planned ∧ (t.ctlCore k).health = (if s.dies k beat then .failed else .booting) ∧
      (t.ctlCore k).losses = s.lossesAt k beat ∧ KeepsBut [.ctl, .tel, .host] s t := by
  have hw : Within [.ctl, .tel, .host] s t := by simp [ht]
  obtain ⟨u, hu⟩ : ∃ u, u = s.updCtlCore k fun x =>
    { x with health := if s.dies k beat then .failed else .booting, failCycles := 0, losses := s.lossesAt k beat, cleanSince := none } :=
    ⟨_, rfl⟩
  obtain ⟨v, hv⟩ : ∃ v, v = u.updCtl fun c =>
    { c with owner := none, successor := s.heir k (s.dies k beat), gap := true, secondGap := false, gapSince := u.time, planned, plannedDue := false } :=
    ⟨_, rfl⟩
  obtain ⟨w, hvw⟩ : ∃ w, w = v.bump (ctlBase + if planned then 0x18 else 0x10) := ⟨_, rfl⟩
  have htw : t = if !planned && w.ctl.phase = .soakActive then w.rolledBack
      else if w.ctl.phase = .soakStandby && (!planned && w.ctl.soakCycles < 10 || s.heir k (s.dies k beat) ≠ some (coreOther k)) then
        w.updCtl fun c => { c with phase := .none_, commitSvn := false }
      else w := by
    rw [ht, hvw, hv, hu]
    rfl
  have hctl : w.ctl = v.ctl := by
    have hb : Within [.tel] v w := by simp [hvw]
    exact hb.same .ctl (by decide)
  have hstays : GapStays w t := by
    rw [htw]
    split
    · exact w.rolledBack_stays
    · split
      · exact ⟨rfl, rfl, rfl, rfl, rfl, rfl⟩
      · exact ⟨rfl, rfl, rfl, rfl, rfl, rfl⟩
  have hcore : t.ctlCore k = u.ctlCore k := by
    rw [hstays.ctlCore, State.ctlCore, hctl, hv]
    rfl
  obtain ⟨h1, h2, h3, h4, h5, -⟩ := hstays
  rw [h1, h2, h3, h4, h5, hctl, hv, hcore, hu, State.updCtlCore_same]
  exact ⟨rfl, rfl, rfl, rfl, rfl, rfl, rfl, hw.keeps⟩

/-- A loss now counts, after those of the last day. -/
theorem lossesNow_cons (l : List Nat) (now : Nat) : lossesNow (now :: l) now = now :: lossesNow l now :=
  List.filter_cons_of_pos (by simp)

/-! ### TAKE (17, R463, R470-R473) -/

theorem State.raiseSvn_stays (s : State) (b : Bundle) : GapStays s (s.raiseSvn b) ∧ (s.raiseSvn b).ctl.restore = s.ctl.restore ∧
    (s.raiseSvn b).ctl.lastBeat = s.ctl.lastBeat ∧ (s.raiseSvn b).ctl.gapLastUs = s.ctl.gapLastUs := by
  unfold State.raiseSvn
  split
  · exact ⟨⟨rfl, rfl, rfl, rfl, rfl, rfl⟩, rfl, rfl, rfl⟩
  · exact ⟨⟨rfl, rfl, rfl, rfl, rfl, rfl⟩, rfl, rfl, rfl⟩

/-- What the live update makes of a take leaves the interlock and the cores. -/
theorem State.updateTaken_stays (s : State) (k : CoreAB) : GapStays s (s.updateTaken k) ∧
    (s.updateTaken k).ctl.restore = s.ctl.restore ∧ (s.updateTaken k).ctl.lastBeat = s.ctl.lastBeat ∧
    (s.updateTaken k).ctl.gapLastUs = s.ctl.gapLastUs := by
  unfold State.updateTaken
  split
  · extract_lets b u
    obtain ⟨v, hv⟩ : ∃ v, v = u.raiseSvn b := ⟨_, rfl⟩
    have hw : Within [.tel, .host] v ((v.lifetime 0x0052 [2, coreNo k, b.version.toNat]).completeAll (fun w => w == .liveTaken)
      fun _ => .of stOk) := by simp
    rw [← hv]
    unfold GapStays
    rw [hw.same .ctl (by decide), hv]
    exact u.raiseSvn_stays b
  · have hw : Within [.tel, .host] s (s.completeAll (fun w => w == .liveTaken) fun _ => .of stTimeout) := by simp
    unfold GapStays
    rw [hw.same .ctl (by decide)]
    exact ⟨⟨rfl, rfl, rfl, rfl, rfl, rfl⟩, rfl, rfl, rfl⟩

/-- A take, up to what the gap held back: `us` is how long the gap lasted. -/
def State.taking (s : State) (k : CoreAB) (us : Nat) : State :=
  let s := s.updCtl fun c =>
    { c with owner := some k, writer := k, successor := none, gap := false, secondGap := false, lastBeat := s.time
             gapLastUs := sat32 us
             gapMaxUs := if c.gapMaxUs.toNat < us then sat32 us else c.gapMaxUs }
  let s := (s.updCtlCore k fun k => { k with health := .active, cleanSince := none, failCycles := 0 }).doorbell 0 15
  let s := s.lifetime 0x0050 [(coreNo k), b2n s.ctl.planned, us]
  s.updateTaken k

/-- What the gap held back, and the record of the take. -/
def State.caughtUp (s : State) : State :=
  ((((foldS allCtxs State.catchUp s).checkDrained).checkQuiesced).checkDoze).updTel fun t =>
    { t with pending := true, periodAt := ((((foldS allCtxs State.catchUp s).checkDrained).checkQuiesced).checkDoze).time }

theorem exec_take (inp : RestoreInput) (hg : s.ctl.gap = true) (hk : s.ctl.successor = some k) :
    exec (.take k inp) s = .next ((s.restore inp).taking k ((s.time - s.ctl.gapSince) / usNs)).caughtUp := by
  show execTake k inp s = _
  unfold execTake
  rw [if_neg (by simp [hg, hk])]
  rfl

theorem exec_take_refused (inp : RestoreInput) (hk : s.ctl.successor ≠ some k) : exec (.take k inp) s = .next s.notOwner := by
  show execTake k inp s = _
  unfold execTake
  rw [if_pos (by simp [hk])]

/-- The successor owns the interlock and is the ACTIVE core, and the gap has ended. -/
theorem State.taking_takes (s : State) (k : CoreAB) (us : Nat) (ht : t = s.taking k us) :
    t.ctl.owner = some k ∧ t.ctl.gap = false ∧ t.ctl.successor = none ∧ (t.ctlCore k).health = .active ∧
      t.ctl.restore = s.ctl.restore ∧ t.ctl.lastBeat = s.time ∧ t.ctl.gapLastUs = sat32 us ∧
      Within [.ctl, .tel, .host, .sec] s t := by
  obtain ⟨u, hu⟩ : ∃ u, u = s.updCtl fun c =>
    { c with owner := some k, writer := k, successor := none, gap := false, secondGap := false, lastBeat := s.time
             gapLastUs := sat32 us
             gapMaxUs := if c.gapMaxUs.toNat < us then sat32 us else c.gapMaxUs } := ⟨_, rfl⟩
  obtain ⟨v, hv⟩ : ∃ v, v = u.updCtlCore k fun k => { k with health := .active, cleanSince := none, failCycles := 0 } := ⟨_, rfl⟩
  obtain ⟨w, hw⟩ : ∃ w, w = (v.doorbell 0 15).lifetime 0x0050 [(coreNo k), b2n (v.doorbell 0 15).ctl.planned, us] := ⟨_, rfl⟩
  have htw : t = w.updateTaken k := by
    rw [ht, hw, hv, hu]
    rfl
  have hctl : w.ctl = v.ctl := by
    have hb : Within [.tel, .host] v w := by simp [hw]
    exact hb.same .ctl (by decide)
  have hsw : Within [.ctl, .tel, .host, .sec] s w := by simp [hw, hv, hu]
  obtain ⟨hstays, hrestore, hbeat, hus⟩ := w.updateTaken_stays k
  rw [← htw] at hstays hrestore hbeat hus
  have hcore : (t.ctlCore k).health = .active := by
    rw [hstays.ctlCore, State.ctlCore, hctl, ← State.ctlCore, hv, State.updCtlCore_same]
  obtain ⟨h1, h2, h3, -⟩ := hstays
  refine ⟨?_, ?_, ?_, hcore, ?_, ?_, ?_, by rw [htw]; simp [hsw]⟩
  · rw [h1, hctl, hv, hu]; rfl
  · rw [h2, hctl, hv, hu]; rfl
  · rw [h3, hctl, hv, hu]; rfl
  · rw [hrestore, hctl, hv, hu]; rfl
  · rw [hbeat, hctl, hv, hu]; rfl
  · rw [hus, hctl, hv, hu]; rfl

theorem Rests.caughtUp (s : State) : Rests s s.caughtUp := by
  have h := foldS_rests (a := s) (g := State.catchUp) allCtxs (fun t i ht => State.catchUp_rests ht) (Rests.refl s)
  unfold State.caughtUp
  simp [h]

/-! ### A take with no context open -/

/-- Nothing is held back of any context. -/
def CaughtUp (s : State) : Prop := s.ctl.gap = false ∧ ∀ i, (s.ctx i).steps = [] ∧ (s.ctx i).owed = false ∧ (s.ctx i).tbWait = []

theorem CaughtUp.catchUp {c : Nat} (h : CaughtUp s) : s.catchUp c = s.updCtx c fun x => { x with tbWait := [] } := by
  obtain ⟨hgap, hctx⟩ := h
  obtain ⟨hsteps, howed, hwait⟩ := hctx c
  have hrewind : s.lockstepRewind c = s := by
    unfold State.lockstepRewind
    rw [if_neg (by simp [hgap]), hsteps]
    rfl
  unfold State.catchUp
  rw [hrewind]
  dsimp only
  rw [if_neg (by simp [howed]), State.tbDrain, if_neg (by simp [hgap]), hwait, tbDrainList]

theorem CaughtUp.foldS_catchUp (h : CaughtUp s) (l : List Nat) : Within [.ctxs] s (foldS l State.catchUp s) := by
  induction l generalizing s with
  | nil => exact Within.refl _ s
  | cons c l ih =>
    have hc : CaughtUp (s.catchUp c) := by
      rw [h.catchUp]
      obtain ⟨hgap, hctx⟩ := h
      refine ⟨hgap, fun i => ?_⟩
      rw [State.updCtx_ctx]
      split
      · next hi =>
        obtain ⟨hsteps, howed, -⟩ := hctx c
        rw [hi]
        exact ⟨hsteps, howed, rfl⟩
      · exact hctx i
    have hw : Within [.ctxs] s (s.catchUp c) := by simp [h.catchUp]
    exact hw.trans (ih hc)

/-- With nothing held back, in READY and not on the way to DOZE, a take changes no more than its record and the contexts'
empty queues. -/
theorem State.caughtUp_idle (h : CaughtUp s) (hst : s.glb.state = .ready) (hd : s.glb.dozeEntering = false) :
    Within [.ctxs, .tel, .host] s s.caughtUp ∧ s.caughtUp.tel.pending = true := by
  obtain ⟨u, hu⟩ : ∃ u, u = foldS allCtxs State.catchUp s := ⟨_, rfl⟩
  have hsu : Within [.ctxs] s u := hu ▸ h.foldS_catchUp allCtxs
  have hglb : u.glb = s.glb := hsu.same .glb (by decide)
  have hdrained : u.checkDrained = u := if_pos (by rw [hglb, hst]; decide)
  obtain ⟨v, hv⟩ : ∃ v, v = u.checkQuiesced := ⟨_, rfl⟩
  have huv : Within [.tel, .host] u v := by simp [hv]
  have hdoze : v.checkDoze = v := if_pos (by rw [huv.same .glb (by decide), hglb, hd]; rfl)
  have he : s.caughtUp = v.updTel fun t => { t with pending := true, periodAt := v.time } := by
    unfold State.caughtUp
    rw [← hu, hdrained, ← hv, hdoze]
  rw [he]
  refine ⟨?_, rfl⟩
  rw [State.updTel_within _ (by decide)]
  exact Within.trans (Within.mono (m := [.ctxs, .tel, .host]) hsu (by decide)) (Within.mono (m := [.ctxs, .tel, .host]) huv (by decide))

end

end Sys2Proof.Machine

namespace Sys2Proof
open Machine

/-- Settles O47: a release opens the gap (`State.release_opens`), a take closes it (`State.taking_takes`), and what the gap held
back leaves the contexts at rest that CONTROL_STATE_LOST has FAULTED. -/
theorem interlock : Obligations.Interlock := by
  unfold Obligations.Interlock
  refine ⟨fun k s ho => ?_, fun k s ho hp => ?_, fun k s ho hs => ?_, fun k s ho hr => ?_, fun k s ho hr => ?_,
    fun k s ho hp hst hlate => ?_, fun k inp s hg hk hc hst hd hok => ?_, fun k inp s hg hk hst hok hm hn => ?_, fun k inp s hk hp => ?_⟩
  case refine_1 =>
    show Host.Outcome.next _ = _
    rw [if_pos ho]
    rfl
  case refine_2 =>
    have he : s.notOwner = { s with ctl := { s.ctl with refused := s.ctl.refused + 1 } } := if_pos hp
    refine ⟨?_, ?_, ?_⟩
    · show Host.Outcome.next _ = _
      rw [if_neg ho, he]
    · show Host.Outcome.next _ = _
      rw [if_neg ho, he]
    · show Host.Outcome.next _ = _
      rw [if_pos ho, he]
  case refine_3 =>
    obtain ⟨h1, h2, h3, h4, h5, h6, -, h8⟩ := State.release_opens (s := s) (k := k) false false rfl
    refine ⟨_, congrArg Host.Outcome.next (if_pos ho), h1, h2, ?_, h4, h5, h6, h8⟩
    rw [h3, State.heir, if_pos hs]
  case refine_4 =>
    show Host.Outcome.next _ = _
    rw [if_neg (by simp [ho]), if_pos hr]
    rfl
  case refine_5 =>
    obtain ⟨h1, h2, h3, -, h5, -, -, h8⟩ := State.release_opens (s := s) (k := k) true false rfl
    refine ⟨s.release k true false, ?_, h1, h2, h5, ?_, h8⟩
    · show Host.Outcome.next _ = _
      rw [if_neg (by simp [ho]), if_neg (by simp [hr])]
    · rw [h3, State.heir]
      split
      · rfl
      · rfl
  case refine_6 =>
    obtain ⟨h1, h2, -, -, h5, h6, h7, h8⟩ := State.release_opens (s := s) (k := k) false true rfl
    have hl : s.lossesAt k true = s.time :: lossesNow (s.ctlCore k).losses s.time := lossesNow_cons _ _
    refine ⟨s.release k false true, ?_, h1, h2, h5, h7.trans hl, ?_, h8⟩
    · show execHeartbeatTimeout s = _
      unfold execHeartbeatTimeout
      rw [ho]
      dsimp only
      rw [if_pos (by simp [hp, hst, hlate])]
    · rw [h6, State.dies, hl]
      rcases lossesNow (s.ctlCore k).losses s.time with _ | ⟨x, xs⟩
      · simp
      · simp
  case refine_7 =>
    obtain ⟨u, hu⟩ : ∃ u, u = s.updCtl fun c => { c with restore := .store } := ⟨_, rfl⟩
    obtain ⟨t, ht⟩ : ∃ t, t = u.taking k ((s.time - s.ctl.gapSince) / usNs) := ⟨_, rfl⟩
    obtain ⟨h1, h2, h3, h4, h5, h6, h7, hw⟩ := State.taking_takes u k _ ht
    have hus : Within [.ctl] s u := by simp [hu]
    have hglb : t.glb = s.glb := (hw.same .glb (by decide)).trans (hus.same .glb (by decide))
    have hctx : ∀ i, t.ctx i = {} := fun i => by
      rw [State.ctx, hw.same .ctxs (by decide), hus.same .ctxs (by decide), hc]
      rfl
    obtain ⟨hwc, hp⟩ := State.caughtUp_idle (s := t) ⟨h2, fun i => by rw [hctx]; exact ⟨rfl, rfl, rfl⟩⟩ (by rw [hglb, hst])
      (by rw [hglb, hd])
    have hctl : t.caughtUp.ctl = t.ctl := hwc.same .ctl (by decide)
    have hrestore : s.restore inp = u := by rw [State.restore, if_pos hok, hu]
    refine ⟨t.caughtUp, ?_, ?_, ?_, ?_, ?_, ?_, ?_, ?_, hp, (hwc.same .glb (by decide)).trans hglb⟩
    · rw [exec_take inp hg hk, hrestore, ht]
    · rw [hctl, h1]
    · rw [hctl, h2]
    · rw [hctl, h3]
    · rw [hctl, h5, hu]
      rfl
    · rw [hctl, h6, hu]
      rfl
    · rw [hctl, h7]
    · rw [State.ctlCore, hctl]
      exact h4
  case refine_8 =>
    obtain ⟨u, hu⟩ : ∃ u, u = s.updCtl fun c => { c with restore := .lost } := ⟨_, rfl⟩
    obtain ⟨v, hv⟩ : ∃ v, v = u.controlLost inp.ledgerOk := ⟨_, rfl⟩
    obtain ⟨t, ht⟩ : ∃ t, t = v.taking k ((s.time - s.ctl.gapSince) / usNs) := ⟨_, rfl⟩
    have hctx : ∀ i, u.ctx i = s.ctx i := fun i => by rw [hu]; rfl
    obtain ⟨huv, hlost⟩ := State.controlLost_lost (s := u) inp.ledgerOk fun i hi => by rw [hctx]; exact hn i hi
    rw [← hv] at huv hlost
    obtain ⟨h1, h2, -, -, h5, -, -, hw⟩ := State.taking_takes v k _ ht
    obtain ⟨⟨kowner, kgap, krestore⟩, -⟩ := Rests.caughtUp t
    have hrestore : s.restore inp = v := by
      rw [State.restore, if_neg (by simp [hok]), if_neg ?_, hv, hu]
      rcases hm with hm | hm
      · simp [hm]
      · simp [hm]
    refine ⟨t.caughtUp, ?_, kowner.trans h1, kgap.trans h2, ?_, fun i hi hf => ?_⟩
    · rw [exec_take inp hg hk, hrestore, ht]
    · rw [krestore, h5, huv.1.2.2, hu]
      rfl
    · have hl := hlost i hi (by rw [hctx]; exact hf)
      have hl' : Lost i t := by
        unfold Lost State.ctx
        rw [hw.same .ctxs (by decide)]
        exact hl
      exact hl'.rests (Rests.caughtUp t)
  case refine_9 =>
    rw [exec_take_refused inp hk]
    exact congrArg Host.Outcome.next (if_pos hp)

end Sys2Proof
